-- ==== Sys2Proof/Word.lean ====
section
/-! DEFINITION. The word types of the hub: bytes, 32-bit registers, and the number ranges that name its units. -/

namespace Sys2Proof

/-- One byte. -/
abbrev Byte := BitVec 8
/-- A register of the management address space (spec/00_scope.md, R13): 32 bits. -/
abbrev Word := BitVec 32
/-- A spine port S0 to S3. -/
abbrev Port := Fin 4
/-- A physical data lane L0 to L4 of a spine port direction. -/
abbrev LaneNo := Fin 5
/-- A Junction port J0 to J15 (R40). -/
abbrev JPort := Fin 16
/-- A traffic class TC0 to TC7. -/
abbrev Class := Fin 8
/-- A Compositor engine CE_0 to CE_11. -/
abbrev EngNo := Fin 12
/-- A power path controller PPC_0 to PPC_9 (R461). -/
abbrev Path10 := Fin 10
/-- A cable port: S0 to S3 as 0 to 3, D0 and D1 as 4 and 5. -/
abbrev CPort := Fin 6
/-- A service channel 0 to 3, for bulk endpoints 1 to 4. -/
abbrev ChanNo := Fin 4

end Sys2Proof
end

