-- ==== Sys2Proof/Wire.lean ====
section
/-! DEFINITION. The shapes of what enters and leaves the hub: cells, frames, records and requests, as the commands
carry them. Their bits are read by functions in Machine/Bits.lean. -/

namespace Sys2Proof

/-- A Junction cell (R149): the 8-byte header and up to 64 payload bytes. -/
structure Cell where
  hdr  : BitVec 64
  data : List Byte
  deriving DecidableEq, Repr

/-- A time stamp on the wire: 48-bit seconds, 32-bit nanoseconds and a 16-bit fraction (R110, R322). -/
structure Stamp where
  sec  : Nat
  ns   : Nat
  frac : Nat
  deriving DecidableEq, Repr

/-- The path on which a management access comes in (R46 to R51, R354), coded as `PATH` of `FC_CUST_REFUSE`. -/
inductive Path
  | pcie                       -- BAR0 or BAR2 of the management function
  | usb                        -- the Lamzal service protocol
  | tunnel (hub : Fin 2048)    -- a management tunnel from another hub
  | smbus                      -- the SMBus target
  | engine (n : EngNo)         -- an access of a Compositor engine
  deriving DecidableEq, Repr

/-- A register number of a Compositor engine, g0 to g15 (R360). -/
abbrev GReg := BitVec 4

/-- What the check bits show while an engine runs an instruction (R358, R380): nothing, an error in the fetched word or in
a word that the instruction loads, corrected or not. -/
inductive Ecc
  | clean
  | fixedFetch
  | badFetch
  | fixedData
  | badData
  deriving DecidableEq, Repr

/-- The fields of a cell that a local source chooses (R150). -/
structure CellHdr where
  destHub : Nat
  destAdp : Nat
  tunnel  : Nat
  tc      : Nat
  pos     : Nat
  flow    : Nat
  deriving DecidableEq, Repr

/-- The identity in the header of a link-management frame (R131). -/
structure Ident where
  standby : Bool
  idv     : Bool
  id      : Fin 2048
  inc     : BitVec 16
  serial  : BitVec 64
  deriving DecidableEq, Repr

/-- An admission message between hubs (R206), without its `MSG` byte, which the command gives. `key` is the tunnel key
as record word 0; `tcB6` bits [7:5] the class and [4:0] `BURST6`. -/
structure AdmMsg where
  reason : Byte
  tag    : BitVec 16
  key    : BitVec 32
  orig   : Fin 2048
  rsv    : BitVec 16
  ceil   : BitVec 16
  amount : BitVec 16
  tcB6   : Byte
  disp   : Bool
  afterGive : Bool
  atHub  : Fin 2048
  fSec   : BitVec 48
  fNs    : BitVec 32
  deriving DecidableEq, Repr

/-- A PDU of the storage tunnel as it arrives (R264): the receiving tunnel, the prefix and the body. -/
structure Pdu where
  tun   : BitVec 12
  ptype : Byte
  epoch : Byte
  pseq  : BitVec 16
  plen  : BitVec 16
  arg   : Byte
  body  : List Byte
  deriving DecidableEq, Repr

/-- The header fields of a bridge message (R300) and its data; for FAR_ERR the time of the failure, and with `init` a
failed process-image delivery of signal `sig` (R310). -/
structure BridgeMsg where
  twin : Fin 32
  iwin : Fin 32
  tag  : Byte
  off  : Word
  blen : Fin 33
  stat : Byte
  seq  : BitVec 16
  init : Bool
  sig  : Fin 1024
  sec  : BitVec 48
  ns   : Word
  data : List Byte
  /-- class of the cell (R299) -/
  tc   : Fin 8
  deriving DecidableEq, Repr

/-- A grandmaster data set, as a time cell or an Announce gives it (R331, R334). -/
structure GmSet where
  gmId  : BitVec 64
  prio1 : Byte
  cls   : Byte
  acc   : Byte
  prio2 : Byte
  steps : BitVec 16
  deriving DecidableEq, Repr

/-- A PTP message as the time unit takes it (R327), or the report of a transmit timestamp (R328). Times of origin are with
their corrections. -/
inductive PtpMsg
  | sync (seq : BitVec 16)
  | followUp (seq : BitVec 16) (origin : Stamp)
  | announce (ds : GmSet)
  | delayReq (seq : BitVec 16)
  | delayResp (seq : BitVec 16) (receive : Stamp)
  | pdelayReq (seq : BitVec 16)
  | pdelayResp (seq : BitVec 16) (requestReceipt : Stamp)
  | pdelayRespFollowUp (seq : BitVec 16) (responseOrigin : Stamp)
  | report (tag : Byte) (t : Stamp)
  deriving DecidableEq, Repr

/-- A PTP message with the domain number that its header gives (R327). -/
structure PtpIn where
  dom : Byte
  msg : PtpMsg
  deriving DecidableEq, Repr

/-- A slot of a spine port's transmitter; `bad`: a frame due for replay in it reads with an uncorrectable error (R529). -/
structure SlotStart where
  port : Port
  bad  : Bool
  deriving DecidableEq, Repr

/-- A junction sensor and its reading in °C (R6). -/
structure TempReading where
  sensor : Fin 16
  tj     : Fin 256
  deriving DecidableEq, Repr

/-- The chip trim block as it is used (R7, R31, R436): the vendor ID, the maker, the grade of the part, and the factor of the Pace
sensors. -/
structure ChipTrim where
  vid    : BitVec 16
  maker  : BitVec 11
  grade  : BitVec 2
  factor : BitVec 16
  deriving DecidableEq, Repr

/-- What the time unit sends on E0 or E1. -/
inductive PtpSend
  | sync | followUp | announce | delayReq | delayResp | pdelayReq | pdelayResp | pdelayRespFollowUp
  deriving DecidableEq, Repr

/-- Messages that the contract logic sends (R475, R480, R484). -/
inductive PdSend
  | sourceCapabilities | request | accept | reject | wait | psRdy | prSwap | drSwap | frSwap | hardReset | alert
  | eprKeepAlive | notSupported | identity | svids | modes | ack | dpStatus | attention | exitMode | cableIdentity
  deriving DecidableEq, Repr

/-- What the external flash did with a command (R422): nothing to its contents, a program of the data sent (bits only
fall), an erase of the block of 2^log2 bytes at the address. -/
inductive FlashEffect
  | none | program | erase (log2 : Fin 27)
  deriving DecidableEq, Repr

/-- A memory row that the scrubber reads, the last of each the tile's spare row (R358, R527). -/
inductive ScrubRow
  | caseMem (tile : Fin 16) (row : Fin 257)
  | engine (n : EngNo) (data : Bool) (row : Fin 129)
  deriving DecidableEq, Repr

end Sys2Proof
end

