-- ==== Sys2Proof/Syntax.lean ====
section
/-! DEFINITION. The commands of the hub: one constructor for each row of the opcode table, with the row's operands. What
is measured, received or decided outside the hub comes in as an operand. -/

namespace Sys2Proof

/-- A command: an event at the hub's pins and ports, a management access, an instant that the hub's own clocks and timers
reach, or an instruction that a Compositor engine executes. The commands that a path of access can set aside (R51) stand first. -/
inductive Instr
  /-- REGISTER_WRITE (R16): A management write to a register that has no row of its own lands per access type, with FH
  fields going to the shadow Forme. -/
  | registerWrite (p : Path) (a : Word) (sz : Fin 3) (w : Word)
  /-- RC_READ (R13): A read of a register that holds RC fields returns them and clears them, except through the bit-31
  alias. -/
  | rcRead (p : Path) (a : Word) (sz : Fin 3)
  /-- PCIE_BAR_ACCESS (R46): A host access through BAR0 or BAR2 of the management function is mapped to a management
  access and its status is translated to a PCIe completion. -/
  | pcieBarAccess (bar2 : Bool) (ofs : BitVec 26) (sz : Fin 4) (w : Option Word)
  /-- SMBUS_WRITE (R50): SMBus command 0x01 writes 4 data bytes at the given address. -/
  | smbusWrite (pecOk : Bool) (a w : Word)
  /-- SMBUS_SET_ADDRESS (R50): SMBus command 0x02 sets the read address. -/
  | smbusSetAddress (pecOk : Bool) (a : Word)
  /-- SMBUS_READ (R50): SMBus command 0x03 returns the status byte and the data at the read address. -/
  | smbusRead (pecOk : Bool)
  /-- MT_READ_REQUEST (R49): A management tunnel READ request arrives at the target hub, which serves the words in
  order and replies. -/
  | mtReadRequest (src : Fin 2048) (u : List Byte)
  /-- MT_WRITE_REQUEST (R49): A management tunnel WRITE request arrives at the target hub, which writes the words in
  order and replies. -/
  | mtWriteRequest (src : Fin 2048) (u : List Byte)
  /-- KEEP_ACCESS_COMPLETE (R25): An access to a Keep-die register over the Keep link completes. -/
  | keepAccessComplete (p : Path) (a : Word) (w : Option Word)
  /-- TIME_READ_LATCH (R324): A read of TM_NOW_NS latches the seconds and fraction of the same instant. -/
  | timeReadLatch (p : Path)
  /-- CAP_POP (R348): A read of CAP_POP removes the oldest capture entry. -/
  | capPop (p : Path) (n : Fin 8)
  /-- RECV (R366): Takes the oldest message from a mailbox, waiting while it is empty. -/
  | recv (n : EngNo) (ecc : Ecc) (rd : GReg) (mbx : BitVec 4)
  /-- LOAD (R373): Writing LOAD copies a program store slot into the engine's free bank. -/
  | load (path : Path) (n : EngNo) (slot : Fin 8)
  /-- RESTART (R374): Writing RESTART restarts the engine at word 0 of its selected bank. -/
  | restart (path : Path) (n : EngNo)
  /-- RETIRE (R382): Writing RETIRE retires the engine. -/
  | retire (path : Path) (n : EngNo)
  /-- ARM (R415): Writing ARM arms lock-up for the next eligible boundary or the one named by LU_AT. -/
  | arm (path : Path) (atEn : Bool)
  /-- DISARM (R415): Writing DISARM withdraws an arm before its boundary. -/
  | disarm (path : Path)
  /-- STAGE (R418): Writing STAGE loads an image from a bank or the ROM into the shadow Forme. -/
  | stage (path : Path) (src : Fin 4)
  /-- VERIFY (R421): Writing VERIFY runs every check on a bank without changing anything. -/
  | verify (path : Path) (src : Fin 4)
  /-- SHADOW_RESET (R420): Writing SHADOW_RESET copies the active Forme into the shadow and clears SHADOW_BAD and
  STAGED. -/
  | shadowReset (path : Path)
  /-- COMMIT (R424): Writing COMMIT during probation marks the trial bank GOOD and may advance the OTP counter. -/
  | commit (path : Path)
  /-- REVERT (R423): Writing REVERT during probation starts a revert to the previous source. -/
  | revert (path : Path)
  /-- MARK (R422): Writing MARK writes a bank state into the spare directory copy. -/
  | mark (path : Path) (bank st : Fin 4)
  /-- CLR_ATTEMPTS (R409): Writing CLR_ATTEMPTS clears the attempt record. -/
  | clrAttempts (path : Path)
  /-- FLASH_COMMAND (R422): Writing GO in FC_FL_CMD sends a flash command or refuses it. -/
  | flashCommand (path : Path) (w : Word)
  /-- PROG (R425): Writing PROG programs an unprogrammed key slot from FC_BUF. -/
  | prog (path : Path) (slot : Fin 4)
  /-- REVOKE (R425): Writing REVOKE blows a key slot's revoked bit. -/
  | revoke (path : Path) (slot : Fin 4)
  /-- SOFT_WARM (R446): A keyed RST_CMD write with SCOPE 1 requests a warm reset. -/
  | softWarm (path : Path) (key : Byte)
  /-- SOFT_COLD (R446): A keyed RST_CMD write with SCOPE 2 requests a cold reset. -/
  | softCold (path : Path) (key : Byte)
  /-- RST_NONCE (R447): A read of RST_NONCE returns a fresh nonce and records the reader. -/
  | rstNonce (path : Path)
  /-- RST_REMOTE (R447): A write of RST_REMOTE with a valid nonce requests a remote reset, or is refused. -/
  | rstRemote (path : Path) (w : Word)
  /-- BLOCK_HOLD (R441): Setting a bit of RST_BLOCK holds the named block in block reset. -/
  | blockHold (path : Path) (b : Fin 32)
  /-- BLOCK_RELEASE (R441): Clearing a bit of RST_BLOCK restarts the block from the active Forme. -/
  | blockRelease (path : Path) (b : Fin 32)
  /-- KEEP_SLEEP_WRITE (R452): A keyed write to KP_SLEEP enters Keep sleep, or is ignored. -/
  | keepSleepWrite (path : Path) (w : Word)
  /-- REARM (R469): Writing REARM toggles a tripped path, or with DMG_CLR leaves DAMAGED. -/
  | rearm (path : Path) (n : Path10) (dmgClr : Bool)
  /-- ON_REQ (R473): Writing ON_REQ requests or withdraws PPC_8 or PPC_9, refused when tripped or damaged. -/
  | onReq (path : Path) (n : Path10) (on : Bool)
  /-- SVC_READ (R509): A complete READ service request is served locally or through a tunnel. -/
  | svcRead (c : ChanNo)
  /-- SVC_WRITE (R509): A complete WRITE service request is served locally or through a tunnel. -/
  | svcWrite (c : ChanNo)
  /-- SOF_POP (R516): A read of SOF_POP removes the oldest SOF entry. -/
  | sofPop (p : Path)
  /-- ADD (R363): rd = ra + rb. -/
  | add (n : EngNo) (ecc : Ecc) (rd ra rb : GReg)
  /-- SUB (R363): rd = ra − rb. -/
  | sub (n : EngNo) (ecc : Ecc) (rd ra rb : GReg)
  /-- AND (R363): rd = ra and rb. -/
  | and (n : EngNo) (ecc : Ecc) (rd ra rb : GReg)
  /-- OR (R363): rd = ra or rb. -/
  | or (n : EngNo) (ecc : Ecc) (rd ra rb : GReg)
  /-- XOR (R363): rd = ra xor rb. -/
  | xor (n : EngNo) (ecc : Ecc) (rd ra rb : GReg)
  /-- SLL (R363): rd = ra shifted left by rb[4:0]. -/
  | sll (n : EngNo) (ecc : Ecc) (rd ra rb : GReg)
  /-- SRL (R363): rd = ra shifted right logically by rb[4:0]. -/
  | srl (n : EngNo) (ecc : Ecc) (rd ra rb : GReg)
  /-- SRA (R363): rd = ra shifted right arithmetically by rb[4:0]. -/
  | sra (n : EngNo) (ecc : Ecc) (rd ra rb : GReg)
  /-- SLT (R363): rd = 1 when ra < rb signed. -/
  | slt (n : EngNo) (ecc : Ecc) (rd ra rb : GReg)
  /-- SLTU (R363): rd = 1 when ra < rb unsigned. -/
  | sltu (n : EngNo) (ecc : Ecc) (rd ra rb : GReg)
  /-- MUL (R363): rd = low 32 bits of ra × rb. -/
  | mul (n : EngNo) (ecc : Ecc) (rd ra rb : GReg)
  /-- MULHU (R363): rd = high 32 bits of unsigned ra × rb. -/
  | mulhu (n : EngNo) (ecc : Ecc) (rd ra rb : GReg)
  /-- DIVU (R363): rd = ra / rb unsigned, all ones when rb is 0. -/
  | divu (n : EngNo) (ecc : Ecc) (rd ra rb : GReg)
  /-- REMU (R363): rd = ra mod rb unsigned, ra when rb is 0. -/
  | remu (n : EngNo) (ecc : Ecc) (rd ra rb : GReg)
  /-- BEXT (R363): rd = a zero-extended bit field of ra. -/
  | bext (n : EngNo) (ecc : Ecc) (rd ra : GReg) (lsb w : BitVec 5)
  /-- BINS (R363): A bit field of rd is replaced by the low bits of ra. -/
  | bins (n : EngNo) (ecc : Ecc) (rd ra : GReg) (lsb w : BitVec 5)
  /-- ADDI (R363): rd = ra + imm. -/
  | addi (n : EngNo) (ecc : Ecc) (rd ra : GReg) (imm : BitVec 18)
  /-- ANDI (R363): rd = ra and imm. -/
  | andi (n : EngNo) (ecc : Ecc) (rd ra : GReg) (imm : BitVec 18)
  /-- ORI (R363): rd = ra or imm. -/
  | ori (n : EngNo) (ecc : Ecc) (rd ra : GReg) (imm : BitVec 18)
  /-- XORI (R363): rd = ra xor imm. -/
  | xori (n : EngNo) (ecc : Ecc) (rd ra : GReg) (imm : BitVec 18)
  /-- SLLI (R363): rd = ra shifted left by imm[4:0]. -/
  | slli (n : EngNo) (ecc : Ecc) (rd ra : GReg) (sh : BitVec 5)
  /-- SRLI (R363): rd = ra shifted right logically by imm[4:0]. -/
  | srli (n : EngNo) (ecc : Ecc) (rd ra : GReg) (sh : BitVec 5)
  /-- SRAI (R363): rd = ra shifted right arithmetically by imm[4:0]. -/
  | srai (n : EngNo) (ecc : Ecc) (rd ra : GReg) (sh : BitVec 5)
  /-- LUI (R363): rd = imm shifted left by 14. -/
  | lui (n : EngNo) (ecc : Ecc) (rd : GReg) (imm : BitVec 18)
  /-- LW (R363): rd = 32-bit load from ra + imm. -/
  | lw (n : EngNo) (ecc : Ecc) (rd ra : GReg) (imm : BitVec 18)
  /-- LHU (R363): rd = zero-extended 16-bit load from ra + imm. -/
  | lhu (n : EngNo) (ecc : Ecc) (rd ra : GReg) (imm : BitVec 18)
  /-- LBU (R363): rd = zero-extended 8-bit load from ra + imm. -/
  | lbu (n : EngNo) (ecc : Ecc) (rd ra : GReg) (imm : BitVec 18)
  /-- SW (R363): 32-bit store of rd at ra + imm. -/
  | sw (n : EngNo) (ecc : Ecc) (rd ra : GReg) (imm : BitVec 18)
  /-- SH (R363): 16-bit store of rd at ra + imm. -/
  | sh (n : EngNo) (ecc : Ecc) (rd ra : GReg) (imm : BitVec 18)
  /-- SB (R363): 8-bit store of rd at ra + imm. -/
  | sb (n : EngNo) (ecc : Ecc) (rd ra : GReg) (imm : BitVec 18)
  /-- JALR (R363): rd = pc + 4 and pc = ra + imm × 4. -/
  | jalr (n : EngNo) (ecc : Ecc) (rd ra : GReg) (imm : BitVec 18)
  /-- SLTI (R363): rd = 1 when ra < imm signed. -/
  | slti (n : EngNo) (ecc : Ecc) (rd ra : GReg) (imm : BitVec 18)
  /-- CAS (R365): Atomic compare and swap of an aligned Case memory word. -/
  | cas (n : EngNo) (ecc : Ecc) (rd ra rb : GReg)
  /-- SEND (R366): Sends a two-word message to an engine's mailbox and returns a status. -/
  | send (n : EngNo) (ecc : Ecc) (rd ra rb : GReg) (tgt mbx : BitVec 4)
  /-- WAIT (R367): Waits until the masked event word is non-zero. -/
  | wait (n : EngNo) (ecc : Ecc) (rd ra : GReg)
  /-- TBL (R368): Computes a table entry address or takes a table fault. -/
  | tbl (n : EngNo) (ecc : Ecc) (rd ra rb : GReg) (d : BitVec 3)
  /-- HASH (R369): Computes a CRC-8 or CRC-32C key hash. -/
  | hash (n : EngNo) (ecc : Ecc) (rd ra rb : GReg) (sel : BitVec 1)
  /-- CRC (R369): Updates a checksum over a memory range. -/
  | crc (n : EngNo) (ecc : Ecc) (rd ra rb : GReg) (alg : BitVec 2)
  /-- TIME (R370): Returns parts of domain time or the Milestone number. -/
  | time (n : EngNo) (ecc : Ecc) (rd : GReg) (sel : BitVec 2)
  /-- YIELD (R372): Marks a consistent point where a pending bank switch or role change is taken. -/
  | yield (n : EngNo) (ecc : Ecc)
  /-- CSRR (R371): Reads an engine CSR. -/
  | csrr (n : EngNo) (ecc : Ecc) (rd : GReg) (csr : BitVec 8)
  /-- CSRW (R371): Writes an engine CSR. -/
  | csrw (n : EngNo) (ecc : Ecc) (ra : GReg) (csr : BitVec 8)
  /-- FENCE (R356): Waits until every earlier store of the engine is complete. -/
  | fence (n : EngNo) (ecc : Ecc)
  /-- KICK (R379): Restarts the engine's watchdog. -/
  | kick (n : EngNo) (ecc : Ecc)
  /-- B (R364): Branches when the condition holds for ra. -/
  | b (n : EngNo) (ecc : Ecc) (c : BitVec 4) (ra : GReg) (off : BitVec 18)
  /-- BAL (R363): Branches and links into g15 when the condition holds. -/
  | bal (n : EngNo) (ecc : Ecc) (c : BitVec 4) (ra : GReg) (off : BitVec 18)
  /-- SHADOW_WRITE_RELEASE (R19): An FH write stalled by the lock-up flip and copy lands in the new shadow once the
  copy completes. -/
  | shadowWriteRelease
  /-- MT_REPLY (R49): A management tunnel reply arrives at the initiator and completes the matching outstanding
  request or is discarded. -/
  | mtReply (src : Fin 2048) (u : List Byte)
  /-- MT_TIMEOUT (R48): A management tunnel request unanswered for two Milestones completes with status 4. -/
  | mtTimeout (tag : BitVec 16)
  /-- KEEP_HOLD_ENTER (R23): The Keep die sees no heartbeat for more than 2 ms and enters hold, freezing power paths
  and VCORE. -/
  | keepHoldEnter
  /-- KL_LOST (R537): The Spine die sees no Keep heartbeat for more than 2 ms, sets KL_LOST, latches event bit 21 and
  defers lock-ups. -/
  | klLost
  /-- KEEP_HOLD_LEAVE (R538): After 1 ms of heartbeats the Keep die leaves hold, accepts requests and forwards its
  held log entries. -/
  | keepHoldLeave
  /-- CUSTODY_LIMIT (R23): Hold lasts the custody limit and the Keep die issues a warm reset of the Spine die recorded
  as CUSTODY. -/
  | custodyLimit
  /-- CUSTODY_ESCALATION (R539): The heartbeat stays absent 20 ms after a CUSTODY warm reset and the Keep die takes
  one cold reset of the Spine die. -/
  | custodyEscalation
  /-- MILESTONE_BOUNDARY (R188): A Milestone boundary of domain time is taken or skipped, updating the Milestone
  number and starting per-boundary work. -/
  | milestoneBoundary
  /-- KEEP_FH_APPLY (R540): Keep-die FH fields of a lock-up are applied over the Keep link, refusing values that
  contradict Keep state. -/
  | keepFhApply
  /-- POST_LIST_WRITE (R417): The post list of the new Forme is written in stream order after a lock-up. -/
  | postListWrite
  /-- SHADOW_COPY_DONE (R19): The copy of the new active Forme into the shadow completes after a lock-up. -/
  | shadowCopyDone
  /-- RETAINED_RECORD_WRITE (R414): The retained record is rewritten from the new active Forme and its marker set. -/
  | retainedRecordWrite
  /-- SHEET_FLIP (R193): At the first slot at or after the boundary each output with a complete shadow bank flips,
  otherwise counts a late Sheet. -/
  | sheetFlip (o : Fin 13)
  /-- BANK_COPY_DONE (R192): The hardware copy of the new active Sheet bank into the shadow bank completes and
  COPY_BUSY clears. -/
  | bankCopyDone (o : Fin 13)
  /-- SHEET_BANK_WRITE (R192): A write to a Sheet bank in Case memory stalls during a copy, is ignored on the active
  bank, or lands and sets DIRTY. -/
  | sheetBankWrite (o : Fin 13) (b : Fin 2) (i : Fin 4096) (w : BitVec 16)
  /-- SEAL (R193): Writing SEAL marks the shadow bank of an output complete for the next boundary. -/
  | sealSheet (o : Fin 13)
  /-- ADMISSION_WINDOW_END (R189): At 0.6 of the Milestone period admission closes and event bit 22 latches. -/
  | admissionWindowEnd
  /-- PACE_GATE (R31): A Pace gate of 8.192 µs ends and the sensors give a new Pace reading. -/
  | paceGate (low high : BitVec 64)
  /-- VCORE_RAISE_REQUEST (R36): A VCORE raise request with a target setpoint reaches the Keep die, which starts the
  steps or updates the target. -/
  | vcoreRaiseRequest (n : EngNo) (mv : Fin 1024)
  /-- VCORE_LOWER_REQUEST (R37): A request to lower VCORE by one step is applied, dropped or refused against the
  floors. -/
  | vcoreLowerRequest (n : EngNo)
  /-- THERMAL_FLOOR_RAISE (R12): On FBX parts a junction reading above 105 °C with VCORE below 0.76 V makes the Keep
  die raise VCORE to 0.76 V. -/
  | thermalFloorRaise (tj : Fin 256)
  /-- PMBUS_TRANSACTION_DONE (R459): A PMBus VOUT_COMMAND write or READ_VOUT read completes, applying a step or ending
  the change. -/
  | pmbusTransactionDone (ok : Bool) (mv : Fin 1024)
  /-- PMB_ALERT (R460): PMB_ALERT_N goes low and the Keep die reads STATUS_WORD and raises VC_ALERT. -/
  | pmbAlert (status : Option (BitVec 16))
  /-- FCK_LOSS (R54): FCK is lost for more than 1 µs, the port leaves ACTIVE and training restarts from DETECT. -/
  | fckLoss (p : Port)
  /-- FCK_LOCKED (R74): Received FCK has been locked 100 µs at this hub's rate and the port moves from DETECT to LOCK,
  or lowers its rate. -/
  | fckLocked (p : Port) (rate : Fin 3)
  /-- LANES_LOCKED (R74): Training blocks are good on at least four lanes and the port moves from LOCK to CHECK or
  EQUALIZE. -/
  | lanesLocked (p : Port) (good : BitVec 5) (partFast : Bool)
  /-- EQUALIZE_DONE (R74): Every lane reports RX_READY in both directions and the port moves to ALIGN. -/
  | equalizeDone (p : Port) (pperm : BitVec 5)
  /-- ALIGN_DONE (R74): Two consecutive deskewed markers on every active lane move the port to CAPS. -/
  | alignDone (p : Port)
  /-- TRAINING_TIMEOUT (R74): A training state timer of LOCK, EQUALIZE, CHECK, ALIGN or CAPS expires and the port
  moves on or drops rate. -/
  | trainingTimeout (p : Port) (rxClean txClean pperm : BitVec 5)
  /-- HOLDOFF_EXPIRY (R74): HOLDOFF lasts 10 ms and the port returns to DETECT at the starting rate. -/
  | holdoffExpiry (p : Port)
  /-- TRAINING_BLOCK_RX (R70): A training block arrives on a lane and its tap request, status and swap fields are
  acted on. -/
  | trainingBlockRx (p : Port) (k : LaneNo) (b : BitVec 160) (margin : Fin 64) (ask : Option (Fin 4 × Fin 3 × Fin 8))
  /-- TAP_REQUEST_TIMEOUT (R71): A tap request is unanswered for 10 µs and is repeated, or abandoned after 16 repeats. -/
  | tapRequestTimeout (p : Port) (k : LaneNo)
  /-- AM_RECEIVE (R85): An alignment marker slot ends on a lane and the interval is sorted as clean, errored or
  missing. -/
  | amReceive (p : Port) (k : LaneNo) (m : BitVec 160) (rxBip : BitVec 8) (margin : Fin 64) (skew pauseNs : BitVec 16)
  /-- SWAP_REQUEST_RX (R90): The transmitter receives a valid swap request for an active lane and schedules the swap
  block. -/
  | swapRequestRx (p : Port) (k : LaneNo)
  /-- SWAP_BLOCK_RX (R91): The receiver sees the swap block on its spare lane and moves the logical lane to the spare. -/
  | swapBlockRx (p : Port) (k : LaneNo)
  /-- SWAP_PAUSE_END (R90): The 1.024 µs idle pause after a swap block ends and data resumes with replay on the new
  lane set. -/
  | swapPauseEnd (p : Port)
  /-- READMIT_REQUEST_RX (R96): The transmitter receives a readmission request and gives the retired lane the role
  spare. -/
  | readmitRequestRx (p : Port) (k : LaneNo)
  /-- TEST_ENTER (R76): Writing TEST = 1 moves the port to TEST from any state except DISABLED. -/
  | testEnter (p : Port)
  /-- TEST_EXIT (R76): Writing TEST = 0 moves the port from TEST to DETECT. -/
  | testExit (p : Port)
  /-- RETRAIN (R76): Writing RETRAIN in ACTIVE moves the port to LOCK at its present rate. -/
  | retrain (p : Port)
  /-- FORCE (R89): Writing FORCE starts retirement of an active receive lane, or sets SWAP_REFUSED when there is no
  spare. -/
  | force (p : Port) (k : LaneNo)
  /-- CLEAR (R97): Writing CLEAR requests readmission of a retired receive lane with the clean-interval condition
  waived. -/
  | clear (p : Port) (k : LaneNo)
  /-- INJ_GO (R101): Writing GO injects one bit or a burst on a transmit lane where injection is allowed. -/
  | injGo (p : Port) (k : LaneNo)
  /-- TX_SLOT (R111): A frame slot of a spine port starts and the transmitter chooses what to send in priority order. -/
  | txSlot (x : SlotStart)
  /-- LOCAL_WALKER_SLOT (R196): Every 4 ns a local output's walker hands a cell to its adapter FIFO or holds the entry. -/
  | localWalkerSlot (o : Fin 9)
  /-- DATA_FRAME_RX (R113): A data frame arrives and is checked, acknowledged, accepted, discarded as duplicate or
  gap, or rejected with a replay request. -/
  | dataFrameRx (p : Port) (f : List Byte) (ecc : Bool)
  /-- ACK_UPDATE_DUE (R114): 32 accepted frames or 200 ns since the oldest unreported acceptance update the carried
  ACK. -/
  | ackUpdateDue (p : Port)
  /-- RETRY_REQ_EXPIRY (R115): An outstanding replay request lapses after t_ACK, allowing a new request. -/
  | retryReqExpiry (p : Port)
  /-- ACK_TIMEOUT (R118): The oldest unacknowledged frame was sent more than t_ACK ago and the sender replays from it. -/
  | ackTimeout (p : Port) (ecc : Bool)
  /-- LINK_SILENCE (R120): No good frame for 8 µs in ACTIVE retrains the port. -/
  | linkSilence (p : Port)
  /-- CREDIT_FRAME_DUE (R123): A counter advance of 64, 200 ns since an unsent advance, or 10 µs since the last credit
  frame makes a credit frame due. -/
  | creditFrameDue (p : Port)
  /-- CREDIT_FRAME_RX (R124): A credit frame arrives and updates the per-class returned counters. -/
  | creditFrameRx (p : Port) (ret : BitVec 128)
  /-- CAPABILITY_RECORD_RX (R127): A training frame carrying a capability record arrives and the hub agrees rate,
  features, window and sequence resumption. -/
  | capabilityRecordRx (p : Port) (slot : List Byte)
  /-- SEQ_STATE_EXPIRY (R130): 30 ms after leaving ACTIVE the port discards its sequence state and replay buffer. -/
  | seqStateExpiry (p : Port)
  /-- LINK_DELAY_REQUEST_RX (R110): A link-delay request arrives and the port answers with a response carrying T_A,
  T_B and T_C. -/
  | linkDelayRequestRx (p : Port) (id : BitVec 16) (ta arrived : Stamp)
  /-- LINK_DELAY_RESPONSE_RX (R330): A link-delay response arrives and the delay is computed and accepted or rejected
  into LD_NOW. -/
  | linkDelayResponseRx (p : Port) (id : BitVec 16) (ta tb tc arrived : Stamp)
  /-- HELLO_RX (R137): A HELLO arrives and the partner identity is judged, opening or fencing the port. -/
  | helloRx (p : Port) (h : Ident) (port deadN : Byte) (period : BitVec 16)
  /-- BEACON_RX (R139): A BEACON arrives and clears MISS, reopening a DEAD port from the same identity. -/
  | beaconRx (p : Port) (h : Ident) (msSec : BitVec 48) (msNs : BitVec 32)
  /-- INCARNATION_RX (R141): An INCARNATION record with HOPS above 0 is applied to the table and forwarded, or dropped. -/
  | incarnationRx (p : Port) (roleId : Fin 2048) (roleInc : BitVec 16) (roleSerial : BitVec 64)
      (vacated : Option (Fin 2048)) (hops : Byte)
  /-- DIRECTED_INCARNATION_RX (R135): A directed INCARNATION record naming this hub sets its incarnation above the
  entry and resends HELLO. -/
  | directedIncarnationRx (p : Port) (roleId : Fin 2048) (roleInc : BitVec 16) (roleSerial : BitVec 64)
  /-- REJOIN_RX (R142): A REJOIN naming this hub's ID makes it take a new incarnation and a standby identity. -/
  | rejoinRx (p : Port) (takeId : Option (Fin 2048)) (minInc : BitVec 16) (roleId : Fin 2048) (roleInc : BitVec 16)
  /-- NARROW_RX (R145): A NARROW naming a failed lane is accepted and the width change is scheduled. -/
  | narrowRx (p : Port) (lane : LaneNo)
  /-- WIDTH_CHANGE (R145): At the first marker slot 1 µs after NARROW the transmitter changes width and replays. -/
  | widthChange (p : Port)
  /-- READMIT (R137): Writing READMIT moves a retired port's link state to DOWN, or on to HELLO when ACTIVE. -/
  | readmit (p : Port)
  /-- MEMBER_FAIL (R148): A port leaves OPEN and is marked failed in every multipath group, moving its buckets and
  starting a drain. -/
  | memberFail (p : Port)
  /-- MP_HOLD_EXPIRY (R179): MP_HOLD ends and the returning output's VOQs become eligible. -/
  | mpHoldExpiry (p : Port)
  /-- CELL_ARRIVAL (R171): A cell arrives at a Junction input and is checked, routed, marked, mirrored, accepted or
  discarded. -/
  | cellArrival (i : JPort) (c : Option Cell)
  /-- HELD_CELL_ACCEPT (R161): A lossless cell held at a local input is accepted once its VOQ and buffer have room. -/
  | heldCellAccept (i : JPort)
  /-- MATCH_CYCLE (R163): One Junction cell cycle runs three request, grant and accept iterations and moves matched
  cells to egress stages. -/
  | matchCycle (ecc : List (JPort × Bool × Fin 8 × Fin 129))
  /-- DRAIN_END (R177): J15 passes the last drained cell of a failed output and the drain ends. -/
  | drainEnd (p : Port)
  /-- ADMIT_RX (R207): An ADMIT message arrives and the hub admits the tunnel on its output and forwards, grants or
  refuses. -/
  | admitRx (src : Fin 2048) (m : AdmMsg)
  /-- GRANT_RX (R207): A GRANT message arrives and the hop commits its entries and passes it towards the source. -/
  | grantRx (src : Fin 2048) (m : AdmMsg)
  /-- REFUSE_RX (R207): A REFUSE message arrives and the hop releases its tentative entries and passes it on. -/
  | refuseRx (src : Fin 2048) (m : AdmMsg)
  /-- RELEASE_RX (R208): A RELEASE message arrives and the hop frees the tunnel's entries and passes it on. -/
  | releaseRx (src : Fin 2048) (m : AdmMsg)
  /-- REVOKE_RX (R208): A REVOKE message arrives and transit hops shrink while the source sends RELEASE. -/
  | revokeRx (src : Fin 2048) (m : AdmMsg)
  /-- GIVE_RX (R219): A GIVE message arrives and is passed towards the source, whose adapter starts stretching
  blanking. -/
  | giveRx (src : Fin 2048) (m : AdmMsg)
  /-- GIVEN_RX (R211): A GIVEN message arrives and each hop schedules its give-back at the boundary after F_TIME. -/
  | givenRx (src : Fin 2048) (m : AdmMsg)
  /-- ADMISSION_TIMEOUT (R207): A pending or tentative record unanswered for two Milestones is released with reason 9. -/
  | admissionTimeout (r : Fin 4096)
  /-- RING_ADMIT (R206): CE_2 takes an ADMIT entry from the request ring and starts path admission. -/
  | ringAdmit
  /-- RING_RELEASE (R206): CE_2 takes a RELEASE entry from the request ring and releases the tunnel. -/
  | ringRelease
  /-- RING_GIVE (R206): CE_2 takes a GIVE entry from the request ring and starts a give-back. -/
  | ringGive
  /-- CAPTURE_FRAME_START (R245): A source frame starts at the capture and is checked, forwarded, skipped or replaced
  by a frame mark. -/
  | captureFrameStart (d : Fin 2) (w h vnom : BitVec 12) (bpc : Fin 3) (lrate : BitVec 20) (crc : BitVec 32)
    (sdps : BitVec 8)
  /-- CAPTURE_LINE (R234): A line arrives at the capture and its cells are formed and sent, or the whole line is
  discarded. -/
  | captureLine (d : Fin 2) (line : BitVec 12) (px : List (BitVec 30))
  /-- PLATEN_CELL_RX (R237): A cell of the Platen's tunnel arrives and its line takes a buffer place or is discarded. -/
  | platenCellRx (d : Fin 2) (c : Option Cell)
  /-- PLATEN_LINE_SLOT (R239): A Platen line slot begins and the Platen scans a line, fills background or runs
  blanking. -/
  | platenLineSlot (d : Fin 2) (ranOut : Bool)
  /-- PLATEN_FREERUN (R241): No tunnel cell for two frame times sends the Platen to FREERUN. -/
  | platenFreerun (d : Fin 2)
  /-- KA_LOST (R251): No frame mark for four frame times in PSR raises KA_LOST. -/
  | kaLost (d : Fin 2)
  /-- PLATEN_TRAIN_DONE (R243): Platen link training ends, moving to FREERUN or back to OFF with LINK_BW. -/
  | platenTrainDone (d : Fin 2) (ok : Bool) (lanes : Fin 3) (rate : Fin 8)
  /-- PANEL_HPD_IRQ (R253): A panel HPD low pulse of 0.25 to 2 ms raises HPD_IRQ. -/
  | panelHpdIrq (d : Fin 2)
  /-- PANEL_UNPLUG (R253): Panel HPD low for more than 2 ms takes the Platen to OFF and sends HPD_LOST. -/
  | panelUnplug (d : Fin 2)
  /-- PANEL_PLUG (R253): Panel HPD high for 100 ms sends HPD_FOUND and starts training. -/
  | panelPlug (d : Fin 2)
  /-- PSR_ENTERED_RX (R249): The capture receives PSR_ENTERED and starts lending and frame marks. -/
  | psrEnteredRx (d : Fin 2) (tunnel : BitVec 12)
  /-- PSR_EXITED_RX (R252): The capture receives PSR_EXITED from its Platen. -/
  | psrExitedRx (d : Fin 2) (tunnel : BitVec 12)
  /-- HPD_LOST_RX (R254): The capture receives HPD_LOST and raises FAR_HPD. -/
  | hpdLostRx (d : Fin 2) (tunnel : BitVec 12)
  /-- HPD_FOUND_RX (R254): The capture receives HPD_FOUND without changing the reservation. -/
  | hpdFoundRx (d : Fin 2) (tunnel : BitVec 12)
  /-- AUX_GO (R223): Writing GO in DA_AUX_CTL starts an AUX transaction on the Platen's AUX channel. -/
  | auxGo (d : Fin 2)
  /-- AUX_DONE (R223): An AUX transaction ends with ACK, NACK, DEFER or timeout. -/
  | auxDone (d : Fin 2) (result : Fin 4) (data : Option (List Byte))
  /-- PCIE_TLP_RX (R269): A TLP from the PCIe link is queued for its binding, answered UR or discarded. -/
  | pcieTlpRx (hdr payload : List Byte)
  /-- TLP_PDU_RX (R266): A TLP PDU arrives on a binding and is checked for epoch and PSEQ and passed to the link. -/
  | tlpPduRx (p : Pdu) (reqShort : Fin 4) (cplShort : Bool)
  /-- BIND_REQ_RX (R262): A Downstream Binding adapter receives BIND_REQ and answers BIND_ACK or BIND_REFUSE. -/
  | bindReqRx (p : Pdu)
  /-- BIND_ACK_RX (R261): A virtual port receives BIND_ACK and goes to BOUND or UP. -/
  | bindAckRx (p : Pdu)
  /-- BIND_REFUSE_RX (R261): A virtual port receives BIND_REFUSE and returns to UNBOUND after a wait. -/
  | bindRefuseRx (p : Pdu)
  /-- PDU_CREDIT_RX (R268): A CREDIT PDU arrives and updates the released counts. -/
  | pduCreditRx (p : Pdu)
  /-- LINK_PDU_RX (R261): A LINK PDU reports the drive link and moves the binding between BOUND and UP. -/
  | linkPduRx (p : Pdu)
  /-- KEEPALIVE_PDU_RX (R263): A KEEPALIVE PDU arrives and refreshes the binding. -/
  | keepalivePduRx (p : Pdu)
  /-- RESET_PDU_RX (R276): A RESET PDU makes the Downstream Binding adapter hot reset, disable or enable its link. -/
  | resetPduRx (p : Pdu)
  /-- UNBIND_RX (R262): An UNBIND PDU drops the binding. -/
  | unbindRx (p : Pdu)
  /-- BIND_TIMEOUT (R261): No cell from the far end for BIND_TMO Milestones loses the binding. -/
  | bindTimeout (n : Fin 9)
  /-- PDU_CREDIT_DUE (R268): A count advance of 16, 1 µs since an unsent advance, or a Milestone sends CREDIT. -/
  | pduCreditDue (n : Fin 9) (short : Fin 8)
  /-- PERST_IN_FALL (R259): PE_PERST_IN_N falls and the adapter resets its functions and sends RESET to bound drives. -/
  | perstInFall
  /-- PERST_IN_RISE (R259): PE_PERST_IN_N rises and the link trains again. -/
  | perstInRise
  /-- PERST_RELEASE (R258): 100 ms after the reference clock starts the Downstream Binding adapter deasserts
  PE_PERST_N. -/
  | perstRelease
  /-- DRIVE_LINK_CHANGE (R263): The drive's link state, width or speed changes and a LINK PDU is sent. -/
  | driveLinkChange (up : Bool) (width : Fin 3) (speed : Fin 4) (ltssm : Fin 64)
  /-- SECONDARY_BUS_RESET (R276): A Secondary Bus Reset on a virtual port sends RESET with ARG 1. -/
  | secondaryBusReset (vp : Fin 8)
  /-- LINK_DISABLE (R276): Setting or clearing Link Disable on a virtual port sends RESET with ARG 2 or 3. -/
  | linkDisable (vp : Fin 8) (set : Bool)
  /-- ETH_FRAME_RX (R280): An Ethernet frame is received whole and is filtered, looked up and sent as cells or
  discarded. -/
  | ethFrameRx (e : Fin 2) (f : List Byte)
  /-- ETH_EGRESS_CELL (R284): A cell arrives at an Ethernet egress and is reassembled, framed for analysis or
  discarded. -/
  | ethEgressCell (e : Fin 2) (c : Option Cell)
  /-- REASM_TIMEOUT (R284): A reassembly context open for 1 ms since its last cell is closed and counted. -/
  | reasmTimeout (e : Fin 2)
  /-- PTP_TX_REQUEST (R328): A PTP frame from J11 with its prefix is sent ahead of frames not yet started. -/
  | ptpTxRequest (e : Fin 2) (want : Bool) (tag : Byte) (f : List Byte)
  /-- ETH_FRAME_TX (R288): A frame leaves the pins, is timestamped, and a timestamp report is returned when requested. -/
  | ethFrameTx (e : Fin 2)
  /-- ETH_LINK_CHANGE (R278): The Ethernet link goes up or down. -/
  | ethLinkChange (e : Fin 2) (up : Bool) (speed : Fin 3)
  /-- LB_BUS_REQUEST (R295): LB_BREQ_N goes low and the hub grants the bus at the next idle clock. -/
  | lbBusRequest
  /-- LB_DEVICE_CYCLE (R297): The device starts a bus cycle that falls in a window or the process image and the hub
  handles it. -/
  | lbDeviceCycle (write : Bool) (addr : Word) (en : BitVec 64) (data : List Byte)
  /-- LB_GRANT_WITHDRAW (R295): The device does not start its cycle within 4 clocks and the grant is withdrawn. -/
  | lbGrantWithdraw
  /-- LB_HUB_CYCLE (R304): The hub starts a bus cycle for a remote request, a delivery or a poll. -/
  | lbHubCycle
  /-- LB_HUB_CYCLE_DONE (R293): A hub cycle ends with completion, error or retry and its result is returned. -/
  | lbHubCycleDone (result : Fin 3) (data : List Byte)
  /-- LB_WAIT_TIMEOUT (R293): A target waits more than WAIT_MAX clocks and the hub ends the cycle as an error. -/
  | lbWaitTimeout
  /-- POSTED_WRITE_RX (R298): A posted write message arrives at the target and is queued or refused. -/
  | postedWriteRx (src : Fin 2048) (m : BridgeMsg)
  /-- ACKNOWLEDGED_WRITE_RX (R298): An acknowledged write request arrives at the target and is queued or answered with
  an error. -/
  | acknowledgedWriteRx (src : Fin 2048) (m : BridgeMsg)
  /-- READ_RX (R298): A read request arrives at the target and is queued or answered with an error. -/
  | readRx (src : Fin 2048) (m : BridgeMsg)
  /-- COMPLETION_RX (R305): A completion arrives at the initiator and completes its request or is discarded as late. -/
  | completionRx (src : Fin 2048) (m : BridgeMsg)
  /-- BRIDGE_CREDIT_RX (R302): A bridge credit message releases posted writes up to its BSEQ. -/
  | bridgeCreditRx (src : Fin 2048) (m : BridgeMsg)
  /-- FAR_ERR_RX (R310): A FAR_ERR arrives and the initiator logs it and may fence the window. -/
  | farErrRx (src : Fin 2048) (m : BridgeMsg)
  /-- BRIDGE_RESTART_RX (R313): A RESTART arrives and the initiator logs lost writes, sends RESYNC and completes
  requests with code 6. -/
  | bridgeRestartRx (src : Fin 2048) (m : BridgeMsg)
  /-- RESYNC_RX (R313): A RESYNC arrives and the target accepts writes from the named sequence and sends credit. -/
  | resyncRx (src : Fin 2048) (m : BridgeMsg)
  /-- FAR_TMO (R307): A non-posted request without completion for FAR_TMO completes with code 5. -/
  | farTmo (n : Fin 32) (tag : Byte)
  /-- POSTED_HOLD_TIMEOUT (R308): A held posted write reaches FAR_TMO and the device cycle ends with error. -/
  | postedHoldTimeout
  /-- DLY_DISCARD (R305): A delayed entry unclaimed for DLY_DISCARD µs is freed. -/
  | dlyDiscard (n : Fin 32) (tag : Byte)
  /-- FENCE_CLEAR (R311): Writing 1 to FENCED clears a window's fence. -/
  | fenceClear (n : Fin 32)
  /-- FEL_ENTRY_FREE (R312): Writing 1 to V frees a Far Error Log entry. -/
  | felEntryFree (e : Fin 16)
  /-- SIDEBAND_SAMPLE (R315): The sideband inputs are sampled, filtered and a state message is sent on change. -/
  | sidebandSample (levels : BitVec 16)
  /-- SIDEBAND_STATE_RX (R316): A sideband state message from the source hub drives the remote outputs. -/
  | sidebandStateRx (src : Fin 2048) (state : BitVec 16)
  /-- SB_LOSS (R316): No sideband message for SB_LOSS Milestones puts the remote outputs to their safe values. -/
  | sbLoss
  /-- SIGNAL_SEND (R320): A producer's send instant arrives and the last committed value is sent or read from the
  device first. -/
  | signalSend (i : Fin 1024)
  /-- SIGNAL_RX (R321): A process-image signal arrives, is written into the image and queued for the device. -/
  | signalRx (src : Fin 2048) (i : Fin 1024) (v : List Byte)
  /-- SIGNAL_STALE (R321): A consumed signal without update for STALE_N periods is marked stale. -/
  | signalStale (i : Fin 1024)
  /-- REFCLK_LOSS (R326): REFCLK_25 lost for 10 µs raises REF_LOSS and the servo enters HOLDOVER. -/
  | refclkLoss
  /-- REFCLK_RETURN (R326): The reference present for 100 ms returns the servo to ACQUIRE. -/
  | refclkReturn
  /-- TIME_CELL_SEND (R333): Every SYNC_US a time cell is sent on each enabled spine port in OPEN. -/
  | timeCellSend
  /-- TIME_CELL_RX (R333): A time cell arrives, gives an offset, and the parent choice and servo are updated. -/
  | timeCellRx (p : Port) (c : Option Cell)
  /-- CANDIDATE_LAPSE (R334): A spine or PTP candidate without time for SYNC_LOSS intervals lapses and the parent is
  chosen again. -/
  | candidateLapse (c : Fin 6)
  /-- PTP_MESSAGE_RX (R327): A PTP message from E0 or E1 reaches the time unit and feeds the servo or the port state. -/
  | ptpMessageRx (e : Fin 2) (m : PtpIn) (rx : Stamp)
  /-- PTP_MESSAGE_SEND (R327): A PTP Sync, Announce or delay message falls due and is sent. -/
  | ptpMessageSend (e : Fin 2) (k : PtpSend) (seq : BitVec 16) (tag : Byte) (frame : List Byte)
  /-- SET (R336): Writing SET in FREERUN or GM arms the time to load TM_SET at the next whole second. -/
  | set
  /-- TIME_SET_APPLY (R336): At the next whole second the time takes the set value and STEPPED is raised. -/
  | timeSetApply
  /-- ACCEPT (R335): Writing ACCEPT in HOLDOVER with a parent moves the servo to SLEW. -/
  | accept
  /-- RTC_SECOND_WRITE (R340): At each whole second in LOCKED, SLEW or GM the time unit writes domain time into the
  RTC. -/
  | rtcSecondWrite
  /-- WAYMARK_INSTANT (R343): A scheduled Waymark instant arrives and the output goes active and triggers internal
  users. -/
  | waymarkInstant (n : Fin 8)
  /-- WAYMARK_PULSE_END (R343): WIDTH ns after the instant the Waymark output returns to its inactive level. -/
  | waymarkPulseEnd (n : Fin 8)
  /-- WAYMARK_WRITE (R345): A write to Waymark registers takes effect after the pulse in progress ends. -/
  | waymarkWrite (n : Fin 8) (r : Fin 5) (w : Word)
  /-- CAPTURE_EDGE (R347): A chosen edge on CAP_n is timestamped into the FIFO or counted as overflow. -/
  | captureEdge (n : Fin 8) (falling short : Bool)
  /-- MEASURE_CONVERSION (R350): A 500 ns conversion completes, the sample is timestamped, stored and checked against
  thresholds. -/
  | measureConversion (code : BitVec 16)
  /-- MEASURE_CELL_FLUSH (R351): 13 samples or 8,192 ns after the first sample send a stream cell. -/
  | measureCellFlush
  /-- RECV_WAKE (R366): A message arrives for an engine waiting in RECV and the instruction completes. -/
  | recvWake (n : EngNo)
  /-- WAIT_WAKE (R367): A selected event arrives for an engine waiting in WAIT and latched bits are returned and
  cleared. -/
  | waitWake (n : EngNo)
  /-- ILLEGAL_OP (R362): An unassigned op, reserved cond or non-zero unused field has no effect and faults the engine. -/
  | illegalOp (n : EngNo) (ecc : Ecc) (w : Word)
  /-- ENGINE_TIMER_EXPIRY (R371): The engine timer reaches zero and latches event bit 18. -/
  | engineTimerExpiry (n : EngNo)
  /-- WATCHDOG_EXPIRY (R379): An engine's watchdog expires after WDT_US µs. -/
  | watchdogExpiry (n : EngNo)
  /-- ENGINE_FAULT_RESTART (R381): Within 1 µs of a fault the engine restarts at word 0 of its selected bank with
  ENTRY 2. -/
  | engineFaultRestart (n : EngNo)
  /-- NOYIELD (R374): A bank switch pending for 4 Milestones raises NOYIELD. -/
  | noyield (n : EngNo)
  /-- LOAD_DONE (R373): A program copy completes and LOAD_BUSY clears. -/
  | loadDone (n : EngNo)
  /-- BANK_WINDOW_WRITE (R373): A write through the bank window lands in the free bank or is ignored while a switch is
  pending. -/
  | bankWindowWrite (n : EngNo) (word : Fin 4096) (w : Word)
  /-- MAILBOX_POST (R366): Writing ENG_MBX_W1 posts a message to an engine's mailbox and records its status. -/
  | mailboxPost (n : EngNo) (w1 : Word)
  /-- STAGE_DONE (R418): A stage completes successfully or fails and sets SHADOW_BAD. -/
  | stageDone (err : Option (Fin 3 × Fin 255))
  /-- VERIFY_DONE (R421): A verification completes and reports its result in FC_LOAD. -/
  | verifyDone (err : Option (Fin 3 × Fin 255))
  /-- REVERT_STAGE_DONE (R423): The revert stage completes, marks the trial bank FAILED and arms lock-up, or fails and
  raises REVERT_FAIL. -/
  | revertStageDone (err : Option (Fin 3 × Fin 255))
  /-- PROBATION_END (R424): PROB_N Milestones pass and probation ends with a commit or a revert. -/
  | probationEnd
  /-- FLASH_COMMAND_DONE (R422): A flash command or directory update completes and FL_DONE is raised. -/
  | flashCommandDone (data : List Byte) (eff : FlashEffect)
  /-- FORME_LOAD_DONE (R411): A load attempt ends: success arms lock-up, failure retries or moves to the next source. -/
  | formeLoadDone (err : Option (Fin 3 × Fin 255))
  /-- POR_KEEP (R428): VKEEP rises through 1.70 V and a Keep reset starts at phase 0. -/
  | porKeep
  /-- KEEP_OSC_STABLE (R435): The 32.768 kHz oscillator is stable and phase 0 ends. -/
  | keepOscStable
  /-- TRIM_LOAD (R436): A trim block is read and committed on a good CRC, retried, or replaced by safe defaults. -/
  | trimLoad (good : Bool) (chip : ChipTrim) (conv : BitVec 6) (rsnsLow rsnsHigh : BitVec 40)
  /-- STRAP_MEASURE (R437): Four strap readings complete and a code is taken or the measurement is repeated. -/
  | strapMeasure (r0 r1 r2 r3 : BitVec 16)
  /-- RAIL_GOOD (R457): A rail's PWR_GOOD rises and the sequencer moves to the next step after its delay. -/
  | railGood (k : Fin 6) (linear : Bool)
  /-- RAIL_TIMEOUT (R458): A good input fails to rise in 3 ms and the rails power down for a retry. -/
  | railTimeout (k : Fin 6)
  /-- RAIL_RETRY (R458): 100 ms after a rail failure the sequence is tried again. -/
  | railRetry
  /-- CORE_RELEASE (R435): Phase 4 ends with the first Keep link heartbeat in each direction and repairs re-applied. -/
  | coreRelease
  /-- BOR (R428): A PWR_GOOD low for 10 µs or VCORE below 0.57 V starts a cold reset with rail sequence. -/
  | bor (idx : Fin 7)
  /-- XRST (R449): XRST_N low for 10 µs starts a warm or cold reset. -/
  | xrst
  /-- XRST_RELEASE (R449): XRST_N rises and a waiting reset proceeds. -/
  | xrstRelease
  /-- THERM (R429): A junction sensor above the shutdown point removes the Spine-die rails. -/
  | therm (x : TempReading)
  /-- THERM_RESTART (R429): Every sensor 20 °C below shutdown for 100 ms starts a cold start when allowed. -/
  | thermRestart
  /-- WARM_RESET (R439): A warm reset is decided, the Local Bus is idled and pads are held. -/
  | warmReset
  /-- WARM_RESET_RELEASE (R439): The Spine-die logic is released and heartbeats resume. -/
  | warmResetRelease
  /-- RETAINED_RECORD_RESTORE (R413): The retained record is checked and written back into the active Forme, or the
  reset becomes cold. -/
  | retainedRecordRestore (crcOk : Bool)
  /-- HVIN_RISE (R450): HVIN reaches 10.5 V and VKEEP is taken from HVREG. -/
  | hvinRise
  /-- HVIN_FALL (R450): HVIN falls below 9.0 V and VKEEP is taken from VBAK. -/
  | hvinFall
  /-- KEEP_SLEEP_ENTRY (R452): HVIN below 9.0 V for 1 ms enters Keep sleep. -/
  | keepSleepEntry
  /-- WAKE_EVENT (R455): An enabled wake source acts and a cold start as POR_CORE begins. -/
  | wakeEvent (src : Fin 5)
  /-- WAKE_HVIN_SAMPLE (R456): A pending wake samples HVIN and starts the cold start at 10.5 V. -/
  | wakeHvinSample (good : Bool)
  /-- PPC_WINDOW_CHANGE (R462): A path's input enters or leaves its window for 5 µs. -/
  | ppcWindowChange (n : Path10) (inside : Bool)
  /-- PPC_QUALIFIED (R462): The input stays in window for t_INS and the path goes to READY. -/
  | ppcQualified (n : Path10) (safe : Bool)
  /-- PPC_RAMP_DONE (R462): The output reaches within 0.5 V of the input and the path goes to ON. -/
  | ppcRampDone (n : Path10)
  /-- PPC_RAMP_FAULT (R462): Regulation lasts t_RAMPFLT and the path trips with cause 3. -/
  | ppcRampFault (n : Path10)
  /-- PPC_FAST_TRIP (R467): Current of twice the limit pulls the gate down within 300 ns and trips the path. -/
  | ppcFastTrip (n : Path10)
  /-- PPC_TIMED_TRIP (R468): Current at or above ILIM for t_OC trips the path. -/
  | ppcTimedTrip (n : Path10)
  /-- PPC_GATE_FAULT (R471): The gate does not reach 6 V within t_GRISE and the path goes to DAMAGED. -/
  | ppcGateFault (n : Path10)
  /-- PPC_SHORT (R472): Conduction with the gate off for 1 ms marks the pass device shorted. -/
  | ppcShort (n : Path10)
  /-- PPC_COOL_END (R469): t_COOL ends and a remembered toggle takes the path to OFF. -/
  | ppcCoolEnd (n : Path10)
  /-- PPC_EN_EDGE (R469): A PPC_EN_n edge withdraws the path or toggles it after a trip. -/
  | ppcEnEdge (n : Path10) (rise long : Bool)
  /-- SAFE_LOW_REACHED (R462): A path in READY sees its output at or below SAFE_MV and starts RAMP. -/
  | safeLowReached (n : Path10)
  /-- FEED_SWITCH (R464): The selected feed leaves ON and the other feed is closed once the first gate is off. -/
  | feedSwitch (near : Bool)
  /-- CABLE_ATTACH_LEVEL (R492): An attached level is seen on a control wire or CC pin and the port enters ATTACH_WAIT. -/
  | cableAttachLevel (c : CPort)
  /-- ATTACH_DEBOUNCE_DONE (R483): The attached level is held 100 ms and the port supplies or draws the default
  contract. -/
  | attachDebounceDone (c : CPort) (held dual : Bool) (rp : Fin 3)
  /-- CABLE_DETACH (R493): The open level for 10 ms or a wire fault detaches the port. -/
  | cableDetach (c : CPort)
  /-- DRP_TOGGLE (R482): A detached dual port alternates pull-up and pull-down every 40 ms. -/
  | drpToggle (c : CPort)
  /-- TRY_SRC_TIMEOUT (R482): The one 100 ms try as source ends. -/
  | trySrcTimeout (c : CPort) (attached : Bool) (rp : Fin 3)
  /-- SOURCE_CAPABILITIES_RX (R487): Source_Capabilities arrive and the sink requests a supply. -/
  | sourceCapabilitiesRx (c : CPort) (objs : List Word)
  /-- REQUEST_RX (R485): A Request arrives at the source and is accepted or rejected. -/
  | requestRx (c : CPort) (rdo : Word) (bus : Fin 1200) (ext : Bool)
  /-- PD_ACCEPT_RX (R492): Accept moves the port to TRANSITION. -/
  | pdAcceptRx (c : CPort)
  /-- PD_REJECT_RX (R492): Reject returns the port to its previous state. -/
  | pdRejectRx (c : CPort)
  /-- PD_WAIT_RX (R492): Wait returns the port to its previous state. -/
  | pdWaitRx (c : CPort)
  /-- PS_RDY_RX (R492): PS_RDY puts the new contract in force or ends a swap. -/
  | psRdyRx (c : CPort)
  /-- PR_SWAP_RX (R492): PR_Swap starts a power role swap. -/
  | prSwapRx (c : CPort)
  /-- FR_SWAP_RX (R491): FR_Swap from the new source is accepted by the old source. -/
  | frSwapRx (c : CPort)
  /-- VCONN_SWAP_RX (R478): VCONN_Swap is accepted only when VCONN_EN is 1. -/
  | vconnSwapRx (m : Fin 2)
  /-- DR_SWAP_RX (R477): DR_Swap is accepted only towards the hub being UFP. -/
  | drSwapRx (m : Fin 2)
  /-- DR_SWAP_RESULT (R477): The hub's DR_Swap is accepted, rejected or unanswered, setting DR_FAIL. -/
  | drSwapResult (m : Fin 2) (accepted : Bool)
  /-- HARD_RESET_RX (R492): A Hard Reset sent or received moves the port to HARD_RESET. -/
  | hardResetRx (c : CPort)
  /-- HARD_RESET_RECOVER (R492): After safe low and 700 ms or 50 ms the source resupplies the default. -/
  | hardResetRecover (c : CPort) (rp : Fin 3)
  /-- EPR_KEEPALIVE_RX (R479): EPR_KeepAlive restarts the source's keep-alive timer. -/
  | eprKeepaliveRx (m : Fin 2)
  /-- SINK_KEEPALIVE_SEND (R489): The sink repeats its Request or sends EPR_KeepAlive on its timer. -/
  | sinkKeepaliveSend (c : CPort)
  /-- KA_TIMEOUT (R479): A PPS or EPR keep-alive is missing at the source and a Hard Reset follows. -/
  | kaTimeout (m : Fin 2)
  /-- SPINE_CONTRACT_LAPSE (R489): No Request for 6 s lapses a spine contract to LAPSE_MA. -/
  | spineContractLapse (p : Port)
  /-- ERROR_STATE_EXPIRY (R492): 25 ms in ERROR with the path in OFF returns the port to DETACHED. -/
  | errorStateExpiry (c : CPort)
  /-- SAFE_LOW_TIMEOUT (R495): The port side does not reach safe low in time and the port goes to ERROR. -/
  | safeLowTimeout (c : CPort)
  /-- VCONN_FAULT (R478): VCONN over its limit for 1 ms is switched off and offers are limited. -/
  | vconnFault (m : Fin 2)
  /-- FAST_SWAP_DETECT (R491): A spine source loses its power and drives the control wire low, becoming sink. -/
  | fastSwapDetect (c : CPort)
  /-- FAST_SWAP_SIGNAL_RX (R491): A sink sees the wire low for 30 µs and becomes source when armed, or raises FS_FAIL. -/
  | fastSwapSignalRx (c : CPort) (busOk : Bool)
  /-- FAST_SWAP_PULSE_END (R491): The old source releases the control wire after its 60 to 120 µs pulse. -/
  | fastSwapPulseEnd (c : CPort)
  /-- DISCOVER_IDENTITY (R480): Discover Identity is answered as a hub with an Alternate Mode adapter. -/
  | discoverIdentity (m : Fin 2)
  /-- DISCOVER_SVIDS (R480): Discover SVIDs is answered 0xFF01. -/
  | discoverSvids (m : Fin 2)
  /-- DISCOVER_MODES (R480): Discover Modes is answered with UFP_D pin assignments C and E. -/
  | discoverModes (m : Fin 2)
  /-- ENTER_MODE (R480): Enter Mode is accepted for DisplayPort Alternate Mode. -/
  | enterMode (m : Fin 2)
  /-- DISPLAYPORT_CONFIGURE (R480): DisplayPort Configure is accepted for pin assignment C or E and the capture takes
  the lanes. -/
  | displayportConfigure (m : Fin 2) (pin : Fin 8)
  /-- EXIT_MODE (R480): Exit Mode returns the lanes to electrical idle. -/
  | exitMode (m : Fin 2)
  /-- NOT_SUPPORTED_REPLY (R475): An unsupported message is answered Not_Supported. -/
  | notSupportedReply (m : Fin 2)
  /-- USB_CONNECT (R497): The upstream attach and VBUS conditions are met and the hub connects. -/
  | usbConnect
  /-- USB_DISCONNECT (R519): Upstream disconnect removes pull-ups and resets the function tile. -/
  | usbDisconnect
  /-- BUS_RESET (R520): A USB bus reset abandons control transfers, empties buffers and bumps channel epochs. -/
  | busReset (hs : Bool)
  /-- CONTROL_SETUP (R506): A SETUP on endpoint 0 starts a control transfer, abandoning one in progress. -/
  | controlSetup (setup : BitVec 64) (fn done : Bool)
  /-- SET_ADDRESS (R520): SET_ADDRESS takes effect when its status stage completes. -/
  | setAddress
  /-- SET_CONFIGURATION (R520): SET_CONFIGURATION takes effect when its status stage completes. -/
  | setConfiguration
  /-- SET_FEATURE_HALT (R514): SET_FEATURE(ENDPOINT_HALT) halts an endpoint. -/
  | setFeatureHalt
  /-- CLEAR_FEATURE_HALT (R514): CLEAR_FEATURE(ENDPOINT_HALT) clears a halt, resets the toggle and bumps the channel
  epoch. -/
  | clearFeatureHalt
  /-- BULK_OUT_PACKET (R504): A bulk OUT packet is stored in the channel's buffer or answered NAK. -/
  | bulkOutPacket (c : ChanNo) (tog : Bool) (data : List Byte)
  /-- SVC_COMMAND (R511): A complete COMMAND is posted to the custodian Steward or answered with status 4. -/
  | svcCommand (c : ChanNo)
  /-- SVC_ECHO (R508): A complete ECHO is answered with its body. -/
  | svcEcho (c : ChanNo)
  /-- STEWARD_REPLY (R511): Writing USB_CH_REPLY arms the Steward's reply or is ignored as late. -/
  | stewardReply (w : Word)
  /-- SVC_TIMEOUT (R512): No reply armed within SVC_TMO ms and a status 4 reply is written. -/
  | svcTimeout (c : ChanNo)
  /-- BULK_IN_ACK (R505): The host acknowledges a bulk IN packet and the next packet or empty buffer follows. -/
  | bulkInAck (c : ChanNo)
  /-- USB_SUSPEND (R517): 3 ms of upstream idle suspends the hub and function. -/
  | usbSuspend
  /-- WAKE_REQ (R518): Writing WAKE_REQ in suspend requests a remote wake. -/
  | wakeReq
  /-- DOWNSTREAM_WAKE (R518): A downstream remote wake, connect, disconnect or over-current in suspend makes a wake
  pending. -/
  | downstreamWake (k what : Fin 4) (speed : Fin 3)
  /-- REMOTE_WAKE_DRIVE (R518): After 5 ms of idle since suspend the hub drives K for 2 ms. -/
  | remoteWakeDrive
  /-- HOST_K_SEEN (R519): A host-driven K seen in a release window stops the hub's K. -/
  | hostKSeen
  /-- USB_RESUME (R518): The host ends the resume and RESUME is raised. -/
  | usbResume
  /-- UH_OVERCURRENT (R500): UH_OC_k_N low for 1 ms switches the downstream port off. -/
  | uhOvercurrent (k : Fin 4)
  /-- SOF_TOKEN (R515): A start-of-frame token is timestamped into the SOF FIFO. -/
  | sofToken (frame : BitVec 11)
  /-- SCRUB_WORD (R527): The scrubber reads a word and writes back a correction or logs an uncorrectable error. -/
  | scrubWord (r : ScrubRow) (what : Fin 3)
  /-- ROW_REPAIR_DONE (R525): A row copy into the spare completes and the row is mapped onto it. -/
  | rowRepairDone (r : ScrubRow)
  /-- PROOF_SPARE_EYE (R530): A Proof request for test 1 sweeps the spare lane's eye. -/
  | proofSpareEye (target : BitVec 16)
  /-- PROOF_SPARE_ROW (R530): A Proof request for test 2 march-tests a tile's spare row. -/
  | proofSpareRow (target : BitVec 16)
  /-- PROOF_LIVE_ROW (R530): A Proof request for test 3 moves a row into the spare and tests it. -/
  | proofLiveRow (row : Fin 512) (target : BitVec 16)
  /-- PROOF_ENGINE_CORE (R530): A Proof request for test 4 runs the ROM self-test on a spare engine. -/
  | proofEngineCore (target : BitVec 16)
  /-- PROOF_JUNCTION_PATH (R530): A Proof request for test 5 sends Proof cells through an output in Proof entries. -/
  | proofJunctionPath (target : BitVec 16)
  /-- PROOF_INVALID (R530): A request with another TEST or an excluded target gives INVALID. -/
  | proofInvalid (test : Fin 16) (row : Fin 512) (target : BitVec 16)
  /-- PROOF_TEST_DONE (R535): A Proof test ends with PASS, FAIL or ABORTED and a FAIL makes its target permanent. -/
  | proofTestDone (test : Fin 6) (target : BitVec 16) (pass data : Bool)
  /-- PROOF_DEFERRED (R532): A test whose target or entries are not ready within PROOF_TMO is DEFERRED. -/
  | proofDeferred (test : Fin 6) (target : BitVec 16)
  /-- PROOF_AUTO_TURN (R536): Every AUTO_S seconds CE_10 runs the next automatic test. -/
  | proofAutoTurn
  /-- EV_REARM (R545): Writing EV_REARM re-arms MSI-X vectors, sending again when a source is still active. -/
  | evRearm (w : Word)
  /-- EVENT_MESSAGE_RX (R546): A sink hub posts an arriving event message to its Steward's mailbox. -/
  | eventMessageRx (src : Fin 2048) (source : Fin 32) (eng : Option EngNo) (word : Word)
  /-- JTAG_EXTEST (R558): The EXTEST instruction drives pins from the boundary-scan register. -/
  | jtagExtest
  /-- JTAG_IDCODE (R558): The IDCODE instruction selects the identification register. -/
  | jtagIdcode
  /-- JTAG_SAMPLE_PRELOAD (R558): The SAMPLE/PRELOAD instruction samples or preloads the boundary-scan register. -/
  | jtagSamplePreload (pins data : List Bool)
  /-- JTAG_CLAMP (R558): The CLAMP instruction holds pins from the boundary register with bypass selected. -/
  | jtagClamp
  /-- JTAG_HIGHZ (R558): The HIGHZ instruction floats the scanned pins. -/
  | jtagHighz
  /-- JTAG_BYPASS (R558): BYPASS or any other code selects the bypass register. -/
  | jtagBypass (code : Fin 16)
  /-- JTAG_TRST (R558): TRST_N low holds the test port in test-logic reset with pins in mission function. -/
  | jtagTrst (low : Bool)
  /-- PRBS_CHECKER_LOCK (R99): A lane's PRBS checker gains lock after 64 matching bits, or loses it on 32 errors in
  1,024 bits and searches again. -/
  | prbsCheckerLock (p : Port) (w : LaneNo) (early late : BitVec 80)
  /-- ACK_ONLY_FRAME_RX (R116): An idle or ack-only frame with a good CRC arrives and its ACK, ACKV and RETRY_REQ are
  taken in, releasing frames or starting replay. -/
  | ackOnlyFrameRx (p : Port) (seq ack : BitVec 12) (ackv retry ecc : Bool)
  /-- CAPTURE_LINK_CHANGE (R223): The video source trains the capture's DisplayPort link, or the link is lost, and
  CAP_LINK is raised. -/
  | captureLinkChange (d : Fin 2) (up : Bool) (lanes : Fin 3) (rate : Fin 8)
  /-- SOURCE_PSR_CHANGE (R247): The video source puts its link into PSR or takes it out, and with STATIC_MODE 1 the
  capture starts or stops repeating the stored frame as static. -/
  | sourcePsrChange (d : Fin 2) (on : Bool)
  /-- CAPTURE_AUX_REQUEST (R232): The video source sends a native AUX or I2C-over-AUX request and the capture answers
  from its DPCD or EDID. -/
  | captureAuxRequest (d : Fin 2) (native write : Bool) (addr : BitVec 20) (lenM1 : Fin 16) (data : List Byte)
  /-- HOST_LINK_CHANGE (R255): The upstream PCIe link to the host goes up or down in Upstream Switch mode and LINK_CHG
  is raised. -/
  | hostLinkChange (up : Bool) (width : Fin 3) (speed : Fin 4) (ltssm : Fin 64)
  /-- OTP_WRITE_DONE (R425): An OTP write for a key slot or a rollback step completes and KEY_BUSY clears. -/
  | otpWriteDone
  /-- DISPLAYPORT_STATUS_UPDATE (R480): A DisplayPort Status Update VDM arrives from the DFP and the hub answers with
  HPD_State equal to the capture's HPD. -/
  | displayportStatusUpdate (m : Fin 2)
  /-- CABLE_IDENTITY_RX (R478): The cable e-marker answers Discover Identity on SOP', or fails to answer, and the hub
  sets CBL_I and CBL_EPR and limits its offers. -/
  | cableIdentityRx (m : Fin 2) (answer : Option (Bool × Bool))
  /-- DOWNSTREAM_CONNECT_CHANGE (R498): A device connects to or disconnects from UH_1 to UH_4 while the hub is not
  suspended, and the port status changes. -/
  | downstreamConnectChange (k : Fin 4) (conn : Bool) (speed : Fin 3)
  /-- HVIN_OVERVOLTAGE (R563): HVIN rises above 60 V, HVREG stops regulating and VKEEP is drawn from VBAK until HVIN
  falls back below 60 V. -/
  | hvinOvervoltage (above : Bool)
  deriving DecidableEq, Repr

end Sys2Proof
end

