-- ==== Sys2Proof/Decode.lean ====
section
/-! DEFINITION. The words of the Compositor ISA (R361 to R364): decoding, and an encoder beside it. The hub's opcode table
gives its rows no bits, so no word of the table's spells a command. -/

namespace Sys2Proof

/-- The command that a word spells by the table's bits: the table gives no row any. -/
def decodeTableWord (_nbits _w : Nat) : Option Instr := none

/-! ### Field values that the ISA knows -/

/-- The numbers of the CSRs (R371); any other is illegal. -/
def csrKnown (k : Nat) : Bool := decide (k ≤ 7) || decide (16 ≤ k ∧ k < 32)

/-- A destination of RECV (R366): even and from g2 to g14. -/
def recvReg (rd : GReg) : Bool := rd != 0 && !rd.getLsbD 0

/-- A branch condition that is not reserved (R364). -/
def condKnown (c : BitVec 4) : Bool := decide (c.toNat < 7)

/-! ### Formats (R361) -/

/-- The register format. -/
def rWord (op : BitVec 6) (rd ra rb : GReg) (fn : BitVec 14) : Word := op ++ rd ++ ra ++ rb ++ fn

/-- The immediate format, and with `cond` in place of `rd` the branch format. -/
def iWord (op : BitVec 6) (rd ra : GReg) (imm : BitVec 18) : Word := op ++ rd ++ ra ++ imm

/-- The word of a Compositor instruction (R363); none for a command that is no instruction. -/
def encodeEngine : Instr → Option Word
  | .add _ _ rd ra rb => some (rWord 0x00 rd ra rb 0)
  | .sub _ _ rd ra rb => some (rWord 0x01 rd ra rb 0)
  | .and _ _ rd ra rb => some (rWord 0x02 rd ra rb 0)
  | .or _ _ rd ra rb => some (rWord 0x03 rd ra rb 0)
  | .xor _ _ rd ra rb => some (rWord 0x04 rd ra rb 0)
  | .sll _ _ rd ra rb => some (rWord 0x05 rd ra rb 0)
  | .srl _ _ rd ra rb => some (rWord 0x06 rd ra rb 0)
  | .sra _ _ rd ra rb => some (rWord 0x07 rd ra rb 0)
  | .slt _ _ rd ra rb => some (rWord 0x08 rd ra rb 0)
  | .sltu _ _ rd ra rb => some (rWord 0x09 rd ra rb 0)
  | .mul _ _ rd ra rb => some (rWord 0x0a rd ra rb 0)
  | .mulhu _ _ rd ra rb => some (rWord 0x0b rd ra rb 0)
  | .divu _ _ rd ra rb => some (rWord 0x0c rd ra rb 0)
  | .remu _ _ rd ra rb => some (rWord 0x0d rd ra rb 0)
  | .bext _ _ rd ra lsb w => some (rWord 0x0e rd ra 0 (0#4 ++ lsb ++ w))
  | .bins _ _ rd ra lsb w => some (rWord 0x0f rd ra 0 (0#4 ++ lsb ++ w))
  | .addi _ _ rd ra imm => some (iWord 0x10 rd ra imm)
  | .andi _ _ rd ra imm => some (iWord 0x11 rd ra imm)
  | .ori _ _ rd ra imm => some (iWord 0x12 rd ra imm)
  | .xori _ _ rd ra imm => some (iWord 0x13 rd ra imm)
  | .slli _ _ rd ra sh => some (iWord 0x14 rd ra (0#13 ++ sh))
  | .srli _ _ rd ra sh => some (iWord 0x15 rd ra (0#13 ++ sh))
  | .srai _ _ rd ra sh => some (iWord 0x16 rd ra (0#13 ++ sh))
  | .lui _ _ rd imm => some (iWord 0x17 rd 0 imm)
  | .lw _ _ rd ra imm => some (iWord 0x18 rd ra imm)
  | .lhu _ _ rd ra imm => some (iWord 0x19 rd ra imm)
  | .lbu _ _ rd ra imm => some (iWord 0x1a rd ra imm)
  | .sw _ _ rd ra imm => some (iWord 0x1b rd ra imm)
  | .sh _ _ rd ra imm => some (iWord 0x1c rd ra imm)
  | .sb _ _ rd ra imm => some (iWord 0x1d rd ra imm)
  | .jalr _ _ rd ra imm => some (iWord 0x1e rd ra imm)
  | .slti _ _ rd ra imm => some (iWord 0x1f rd ra imm)
  | .cas _ _ rd ra rb => some (rWord 0x20 rd ra rb 0)
  | .send _ _ rd ra rb tgt mbx => some (rWord 0x21 rd ra rb (0#6 ++ tgt ++ mbx))
  | .recv _ _ rd mbx => some (rWord 0x22 rd 0 0 (0#10 ++ mbx))
  | .wait _ _ rd ra => some (rWord 0x23 rd ra 0 0)
  | .tbl _ _ rd ra rb d => some (rWord 0x24 rd ra rb (0#11 ++ d))
  | .hash _ _ rd ra rb sel => some (rWord 0x25 rd ra rb (0#13 ++ sel))
  | .crc _ _ rd ra rb alg => some (rWord 0x26 rd ra rb (0#12 ++ alg))
  | .time _ _ rd sel => some (rWord 0x27 rd 0 0 (0#12 ++ sel))
  | .yield _ _ => some (rWord 0x28 0 0 0 0)
  | .csrr _ _ rd csr => some (rWord 0x29 rd 0 0 (0#6 ++ csr))
  | .csrw _ _ ra csr => some (rWord 0x2a 0 ra 0 (0#6 ++ csr))
  | .fence _ _ => some (rWord 0x2b 0 0 0 0)
  | .kick _ _ => some (rWord 0x2c 0 0 0 0)
  | .b _ _ c ra off => some (iWord 0x30 c ra off)
  | .bal _ _ c ra off => some (iWord 0x31 c ra off)
  | _ => none

/-- An instruction whose unused fields are 0 and whose field values are known; else the word is illegal (R362). -/
def guardWord (ok : Bool) (i : Instr) : Option Instr := if ok then some i else none

/-- The instruction that a word spells, for engine `n` (R361, R363); none for an illegal instruction (R362). -/
def decodeEngine (n : EngNo) (ecc : Ecc) (w : Word) : Option Instr :=
  let rd : GReg := w.extractLsb' 22 4
  let ra : GReg := w.extractLsb' 18 4
  let rb : GReg := w.extractLsb' 14 4
  let fn : BitVec 14 := w.extractLsb' 0 14
  let imm : BitVec 18 := w.extractLsb' 0 18
  match (w.extractLsb' 26 6).toNat with
  | 0x00 => guardWord (fn == 0) (.add n ecc rd ra rb)
  | 0x01 => guardWord (fn == 0) (.sub n ecc rd ra rb)
  | 0x02 => guardWord (fn == 0) (.and n ecc rd ra rb)
  | 0x03 => guardWord (fn == 0) (.or n ecc rd ra rb)
  | 0x04 => guardWord (fn == 0) (.xor n ecc rd ra rb)
  | 0x05 => guardWord (fn == 0) (.sll n ecc rd ra rb)
  | 0x06 => guardWord (fn == 0) (.srl n ecc rd ra rb)
  | 0x07 => guardWord (fn == 0) (.sra n ecc rd ra rb)
  | 0x08 => guardWord (fn == 0) (.slt n ecc rd ra rb)
  | 0x09 => guardWord (fn == 0) (.sltu n ecc rd ra rb)
  | 0x0a => guardWord (fn == 0) (.mul n ecc rd ra rb)
  | 0x0b => guardWord (fn == 0) (.mulhu n ecc rd ra rb)
  | 0x0c => guardWord (fn == 0) (.divu n ecc rd ra rb)
  | 0x0d => guardWord (fn == 0) (.remu n ecc rd ra rb)
  | 0x0e => guardWord (rb == 0 && fn.extractLsb' 10 4 == 0)
      (.bext n ecc rd ra (fn.extractLsb' 5 5) (fn.extractLsb' 0 5))
  | 0x0f => guardWord (rb == 0 && fn.extractLsb' 10 4 == 0)
      (.bins n ecc rd ra (fn.extractLsb' 5 5) (fn.extractLsb' 0 5))
  | 0x10 => some (.addi n ecc rd ra imm)
  | 0x11 => some (.andi n ecc rd ra imm)
  | 0x12 => some (.ori n ecc rd ra imm)
  | 0x13 => some (.xori n ecc rd ra imm)
  | 0x14 => guardWord (imm.extractLsb' 5 13 == 0) (.slli n ecc rd ra (imm.extractLsb' 0 5))
  | 0x15 => guardWord (imm.extractLsb' 5 13 == 0) (.srli n ecc rd ra (imm.extractLsb' 0 5))
  | 0x16 => guardWord (imm.extractLsb' 5 13 == 0) (.srai n ecc rd ra (imm.extractLsb' 0 5))
  | 0x17 => guardWord (ra == 0) (.lui n ecc rd imm)
  | 0x18 => some (.lw n ecc rd ra imm)
  | 0x19 => some (.lhu n ecc rd ra imm)
  | 0x1a => some (.lbu n ecc rd ra imm)
  | 0x1b => some (.sw n ecc rd ra imm)
  | 0x1c => some (.sh n ecc rd ra imm)
  | 0x1d => some (.sb n ecc rd ra imm)
  | 0x1e => some (.jalr n ecc rd ra imm)
  | 0x1f => some (.slti n ecc rd ra imm)
  | 0x20 => guardWord (fn == 0) (.cas n ecc rd ra rb)
  | 0x21 => guardWord (fn.extractLsb' 8 6 == 0) (.send n ecc rd ra rb (fn.extractLsb' 4 4) (fn.extractLsb' 0 4))
  | 0x22 => guardWord (recvReg rd && ra == 0 && rb == 0 && fn.extractLsb' 4 10 == 0) (.recv n ecc rd (fn.extractLsb' 0 4))
  | 0x23 => guardWord (rb == 0 && fn == 0) (.wait n ecc rd ra)
  | 0x24 => guardWord (fn.extractLsb' 3 11 == 0) (.tbl n ecc rd ra rb (fn.extractLsb' 0 3))
  | 0x25 => guardWord (fn.extractLsb' 1 13 == 0) (.hash n ecc rd ra rb (fn.extractLsb' 0 1))
  | 0x26 => guardWord (fn.extractLsb' 2 12 == 0 && fn.extractLsb' 0 2 != 3) (.crc n ecc rd ra rb (fn.extractLsb' 0 2))
  | 0x27 => guardWord (ra == 0 && rb == 0 && fn.extractLsb' 2 12 == 0) (.time n ecc rd (fn.extractLsb' 0 2))
  | 0x28 => guardWord (rd == 0 && ra == 0 && rb == 0 && fn == 0) (.yield n ecc)
  | 0x29 => guardWord (ra == 0 && rb == 0 && fn.extractLsb' 8 6 == 0 && csrKnown (fn.extractLsb' 0 8).toNat)
      (.csrr n ecc rd (fn.extractLsb' 0 8))
  | 0x2a => guardWord (rd == 0 && rb == 0 && fn.extractLsb' 8 6 == 0 && csrKnown (fn.extractLsb' 0 8).toNat)
      (.csrw n ecc ra (fn.extractLsb' 0 8))
  | 0x2b => guardWord (rd == 0 && ra == 0 && rb == 0 && fn == 0) (.fence n ecc)
  | 0x2c => guardWord (rd == 0 && ra == 0 && rb == 0 && fn == 0) (.kick n ecc)
  | 0x30 => guardWord (condKnown rd) (.b n ecc rd ra imm)
  | 0x31 => guardWord (condKnown rd) (.bal n ecc rd ra imm)
  | _ => none

/-- The bytes of a device cycle, from the first to the last that its byte enables choose (R291). -/
def runBytes (en : BitVec 64) : Nat := ((List.range 64).filter fun k => en.getLsbD k).getLastD 0 + 1

end Sys2Proof
end

