-- ==== Sys2Proof/Config.lean ====
section
/-! DEFINITION. What the spec leaves open: constants with no body, so that no proof can see a value of them. A free
value is one of these applied to the counter `State.freeCtr`, which advances at each use. -/

namespace Sys2Proof.Config

/-- A value the spec does not fix, fresh for each use (free value; notes/assumptions/2.md). -/
opaque freeValue : Nat → Nat

/-- The one `FLOW` value that the source of a reserved tunnel gives its cells (R199), by tunnel key, where its adapter's rules do
not give it at this hub: no message carries it (free value; notes/assumptions/2.md). -/
opaque tunnelFlow : Nat → Nat

/-- The cell cycle in ps to which a Pace sensor converts its count, by the factor of the chip trim (R31): the factor's scale is
not stated (free value; notes/assumptions/96.md). -/
opaque paceCycle : (factor count : BitVec 16) → BitVec 16

/-- The safe factor, which overstates the cycle by 25 % (R436; free value; notes/assumptions/96.md). -/
opaque paceSafe : BitVec 16

/-- A byte of a capture's DPCD that advertises the Adaptive-Sync range in hertz or PSR version 1 (R223, R246), by address: the spec
gives neither the addresses nor the coding (free value; notes/assumptions/100.md). -/
opaque dpcdAdvert : (addr asMin asMax : Nat) → (psr : Bool) → Option Byte

/-- A configuration register of a PCIe function whose content the spec does not give: device ID, revision (R256; free value;
notes/assumptions/101.md). -/
opaque pciOpen : (fn k : Nat) → BitVec 32

end Sys2Proof.Config
end

