-- ==== Sys2Proof/Machine/State.lean ====
section
/-! DEFINITION. The state of the hub, as plain data: every register by its management address, the memories behind the
address map, and what the units hold beyond their registers. A table is a list of (key, entry) pairs in one canonical
form (keys strictly rising, no entry equal to what an unlisted key reads as); Machine/Table.lean reads and writes it. -/

namespace Sys2Proof.Machine

/-- A field of a register: the register's management address and the field's highest and lowest bit. -/
structure Fld where
  addr : Nat
  hi   : Nat
  lo   : Nat
  deriving DecidableEq, Repr

/-- Access types of register fields (R13). -/
inductive Acc | rw | ro | wo | w1c | rc | fh
  deriving DecidableEq, Repr

/-- One row of a register's field table: name, bits, access type, stickiness (R14) and reset value. -/
structure FieldD where
  name : String
  hi   : Nat
  lo   : Nat
  acc  : Acc
  st   : Bool
  rst  : Nat
  deriving DecidableEq, Repr

/-- One register heading: name, offset in its block, repetitions (count and stride), whether the reset value depends
on the instance, and the field table. -/
structure RegD where
  name   : String
  base   : Nat
  dims   : List (Nat × Nat)
  byInst : Bool
  fields : List FieldD
  deriving DecidableEq, Repr

/-! ### Spine lanes and link (chapters 02 and 03) -/

/-- The receive checker of a lane (R99): the last bits received while it seeks, its own sequence once it is locked, newest
bit in bit 0; the bits taken since it began to seek, the matches in a row; the bits since lock, and those of the last 1,024
at which an error stood. -/
structure Checker where
  locked : Bool := false
  reg    : BitVec 64 := 0
  seen   : Nat := 0
  run    : Nat := 0
  pos    : Nat := 0
  errs   : List Nat := []
  deriving DecidableEq, Repr

/-- A physical lane of a spine port: what its registers do not hold. -/
structure Lane where
  /-- role of the transmit lane: 0 active, 1 spare, 2 retired, 3 excluded (R62) -/
  txRole    : Nat := 3
  /-- logical position of the transmit lane, 7 when not active (R62) -/
  txLogical : Nat := 7
  /-- `REQ_SEQ` of the partner last answered, and the status the next blocks report (R70) -/
  answered  : Bool := false
  preSts    : Nat := 0
  postSts   : Nat := 0
  /-- this hub's own tap request on the lane (R71) -/
  reqSeq    : Bool := false
  reqOut    : Bool := false
  reqReps   : Nat := 0
  gaveUp    : Bool := false
  reqPre    : Nat := 0
  reqPost   : Nat := 0
  reqPreset : Nat := 0
  /-- the receiver has finished adaptation here, and at the partner (R74, R80) -/
  rxReady   : Bool := false
  partReady : Bool := false
  goodBlocks : Nat := 0
  /-- the interval kinds of the last 1,024 marker intervals, newest first: 0 clean, 1 errored, 2 missing, 3 errored and the
  lane made permanent by it (R85, R87) -/
  hist      : List Nat := []
  /-- consecutive clean, missing and low-margin intervals (R86, R96) -/
  cleanRun  : Nat := 0
  missRun   : Nat := 0
  lowRun    : Nat := 0
  /-- `AM_COUNT` of the last interval, and clean intervals in a row since the lanes were last given out (R64, R74, R94) -/
  amSeen    : Nat := 0
  goodRun   : Nat := 0
  /-- an error outside frames counts against the present interval (R83, R85) -/
  sideErr   : Bool := false
  /-- the lane has been judged permanent since it last trained or was readmitted (R77, R86, R96) -/
  judged    : Bool := false
  /-- role and logical position that the partner's markers show for the lane it sends (R93, R96, R145) -/
  seenRole  : Nat := 3
  seenLogical : Nat := 7
  /-- self-synchronising scrambler of the transmit lane, newest bit in bit 0 (R59) -/
  scr       : BitVec 58 := 0
  /-- parity of the bits sent since the last marker (R62) -/
  bip       : BitVec 8 := 0
  /-- PRBS31 sequences of the `FILL` bits and of the spare and retired lane slots (R67, R82) -/
  fill      : BitVec 31 := 0x7FFFFFFF
  prbs      : BitVec 31 := 0x7FFFFFFF
  /-- generator of TEST: shift register, and position in the user pattern (R98, R100) -/
  gen       : BitVec 31 := 0x7FFFFFFF
  genPos    : Nat := 0
  /-- bits still to invert in a single or burst injection, bits sent towards the next one in rate mode (R101) -/
  injLeft   : Nat := 0
  injRun    : Nat := 0
  /-- the receive checker (R98 to R100) -/
  chk       : Checker := {}
  deriving DecidableEq, Repr

/-- A frame kept for replay (R112). -/
structure TxFrame where
  seq   : Nat
  ftype : Nat
  slot  : List Byte
  deriving DecidableEq, Repr

/-- A link-management frame waiting to be sent: its slot and the slots it has waited (R111, R131). -/
structure Waiting where
  slot : List Byte
  age  : Nat := 0
  deriving DecidableEq, Repr

/-- A spine port: training, striping and Detour state (chapter 02). -/
structure SpinePort where
  /-- this hub holds retained equalisation and sends `FAST` (R79); the partner's `FAST` as last received -/
  fast      : Bool := false
  partFast  : Bool := false
  /-- index of the next slot in the marker interval, and the marker count (R60, R62) -/
  slotIx    : Nat := 0
  amCount   : Nat := 0
  /-- lane that the partner sends on each of this hub's receive wires, where it has shown one (R56) -/
  rxMap     : List (Nat × Nat) := []
  /-- `AM_COUNT` and arrival, in 1/64 UI, of the earliest lane's last marker (R64) -/
  amRef     : Option (Nat × Nat) := none
  /-- lane whose swap block is owed, lane of the pause in progress, idle slots left (R90) -/
  swapOwed  : Option Nat := none
  pauseLane : Option Nat := none
  pauseLeft : Nat := 0
  /-- own swap request outstanding: the lane, whether forced; the lane moved to the spare;
  lanes held back, with their forced marks (R89, R91, R94) -/
  rxSwap    : Option (Nat × Bool) := none
  rxMoved   : Option (Nat × Nat) := none
  rxHeld    : List (Nat × Bool) := []
  /-- lane this hub requests back as spare, and lanes whose clean count is waived (R96, R97) -/
  readmit   : Option Nat := none
  waived    : List Nat := []
  /-- lane and readmission request shown by the partner, lane to be given the role spare (R96) -/
  spareNext : Option Nat := none
  /-- narrower width owed at the next marker slot: active lanes and spare (R145) -/
  narrowTo  : Option (List Nat × Option Nat) := none
  narrowAt  : Nat := 0
  /-- further NARROW accepted while a change of width is owed: lane and tick (R145) -/
  narrowNext : List (Nat × Nat) := []
  /-- receive lanes that NARROW of this hub names, oldest first, until the narrower width is adopted; tick at which the partner
  had acknowledged them (R144, R145) -/
  narrowed  : List Nat := []
  narrowAck : Option Nat := none
  deriving DecidableEq, Repr

/-- A partner's capability record (R126). -/
structure CapRec where
  fmt      : Nat
  major    : Nat
  minor    : Nat
  rates    : Nat
  features : Nat
  flags    : Nat
  window   : Nat
  nextExp  : Nat
  nextTx   : Nat
  pools    : List Nat
  oldestTx : Nat
  deriving DecidableEq, Repr

/-- A spine link: replay, credit and identity state (chapter 03). -/
structure Link where
  /-- unacknowledged frames, oldest first (R112); position of the next frame to resend (R117) -/
  replay    : List TxFrame := []
  resend    : Option Nat := none
  /-- pools advertised at the last CAPS, by class (R121, R126) -/
  adv       : List Nat := []
  /-- the link state has left OPEN and the Junction has not yet marked the port failed (R148) -/
  failDue   : Bool := false
  /-- the last replay: first number and tick; replays in a row without progress (R117, R120) -/
  lastFrom  : Option (Nat × Nat) := none
  /-- tick at which the frame that asks for the present replay arrived (R117); number after the last sequenced frame sent
  (R106) -/
  resendAt  : Option Nat := none
  txAfter   : Nat := 0
  replays   : Nat := 0
  /-- sequence of the last sequenced frame sent plus 1 is `LK_SEQ_TX.NEXT_TX`; window agreed (R112, R127) -/
  window    : Nat := 2047
  /-- anything accepted since the sequence started, frames accepted since the carried ACK changed (R114) -/
  ackV      : Bool := false
  accepted  : Nat := 0
  ackChanged : Bool := false
  /-- a replay request waits to be sent; it is outstanding (R115) -/
  nakOwed   : Bool := false
  nakOut    : Bool := false
  /-- tick at which the faulty frame arrived (R115) -/
  nakAt     : Nat := 0
  /-- tick at which the oldest unacknowledged frame was last sent (R118) -/
  sentTick  : Nat := 0
  /-- `SENT_c`, `RET_c`, `POOL_c` towards the partner, `RET_TCn` of this hub and as last sent (R122 to R124);
  key is the class -/
  sent      : List (Nat × Nat) := []
  ret       : List (Nat × Nat) := []
  pool      : List (Nat × Nat) := []
  retOwn    : List (Nat × Nat) := []
  retSent   : List (Nat × Nat) := []
  creditDue : Bool := false
  creditAge : Nat := 0
  /-- partner's capability record, `PEER_OK` or later frame seen, answers owed, tick of entry to ACTIVE (R126, R128) -/
  caps      : Option CapRec := none
  peerOk    : Bool := false
  capsOwed  : Nat := 0
  activeAt  : Nat := 0
  /-- sequence state is held (R130) -/
  seqValid  : Bool := false
  /-- link-management frames and link-delay frames waiting (R110, R111) -/
  mgmt      : List Waiting := []
  delay     : List Waiting := []
  /-- ticks of the last entries to DOWN, training failures since ACTIVE (R147) -/
  downs     : List Nat := []
  trainFails : Nat := 0
  /-- partner's Milestone period, beacon seen since the boundary (R132, R139) -/
  pPeriod   : Nat := 8
  beacon    : Bool := false
  /-- Milestones in HELLO and in OPEN, a HELLO has been judged, DEAD before OPEN (R137, R148) -/
  msInState : Nat := 0
  helloSeen : Bool := false
  wasDead   : Bool := false
  /-- what the REJOIN of a fenced port names: the entry of a role, or `none` for this hub's own (R140) -/
  fencedBy  : Option (Option Nat) := none
  /-- link delay measured, in units of 2^-16 ns; accepted delays; request identifier (R118, R330) -/
  delayId   : Nat := 0
  delays    : List Int := []
  outliers  : List Int := []
  deriving DecidableEq, Repr

/-! ### Junction (chapter 04) -/

/-- A cell in a queue of the Junction: whether it was accepted into a credit pool of its spine input (R155, R159), and the
input on which it came into the hub (R154, R177). -/
structure QCell where
  cell   : Cell
  pooled : Bool
  credit : Bool
  inp    : Nat
  deriving DecidableEq, Repr

/-- The Junction: queues, stages, pointers. Keys: VOQ 128 i + 8 o + c, stage and grant pointer 8 o + c,
accept pointer 8 i + c. -/
structure Junction where
  /-- cells on their way from a port or adapter to an input, oldest first -/
  incoming : List (Nat × List Cell) := []
  voq      : List (Nat × List QCell) := []
  stage    : List (Nat × List QCell) := []
  /-- copy stage of each output (R196) -/
  copies   : List (Nat × List QCell) := []
  gptr     : List (Nat × Nat) := []
  aptr     : List (Nat × Nat) := []
  /-- cells selected by each mirror session since its last copy (R183) -/
  mirCnt   : List (Nat × Nat) := []
  /-- slots of each input out of use (R158) -/
  lostSlots : List (Nat × Nat) := []
  /-- cells on their way through J15: the failed output, whether drained from it or new, and the cell (R177) -/
  drainQ   : List (Nat × Bool × QCell) := []
  /-- outputs in the hold after a return (R179) -/
  mpHold   : List Nat := []
  /-- classes made lossless that await CAPS, by spine input, as a bit mask (R156) -/
  llWait   : List (Nat × Nat) := []
  /-- cells held at a local input under back-pressure, oldest first (R161) -/
  held     : List (Nat × List Cell) := []
  /-- egress FIFO of each local adapter, oldest first (R196) -/
  fifo     : List (Nat × List Cell) := []
  deriving DecidableEq, Repr

/-! ### Imposition and the Pace meter (chapters 01 and 05) -/

/-- A reservation record whose path admission waits for an answer (R207). -/
structure AdmWait where
  slot   : Nat
  /-- Milestones waited -/
  age    : Nat := 0
  /-- allotment asked, in RU, and the record's former state when this is growth -/
  amount : Nat := 0
  growth : Bool := false
  tag    : Nat := 0
  orig   : Nat := 0
  /-- ring entry to answer at the source -/
  ring   : Option Nat := none
  /-- boundary at which the entries leave that it waits for (R211), 0 for none -/
  leaves : Nat := 0
  /-- some hop waits for a give-back (R209) -/
  gave   : Bool := false
  deriving DecidableEq, Repr

/-- A change of a record's placed allotment, due at a Milestone number (R211): to `ru`, or the record is freed. -/
structure AllotChange where
  slot : Nat
  due  : Nat
  ru   : Nat
  drop : Bool := false
  /-- waits for a give-back on the output before it has a due boundary -/
  hold : Bool := false
  deriving DecidableEq, Repr

/-- An admission message put off to the next Milestone (R189): its code, the sending hub, the payload. -/
structure AdmIn where
  code : Nat
  src  : Nat
  msg  : AdmMsg
  deriving DecidableEq, Repr

/-- Imposition: what its registers and Case memory do not hold. -/
structure Imposition where
  /-- number of the boundary last taken, and its tick (R188) -/
  msNum    : Nat := 0
  msTick   : Nat := 0
  taken    : Bool := false
  /-- best-effort sends of output and class (8 o + c) in this Sheet cycle, and in total per output (R195, R214) -/
  beSent   : List (Nat × Nat) := []
  beTotal  : List (Nat × Nat) := []
  /-- outputs whose flip falls due at their next slot, and whether the shadow bank was complete (R28, R193) -/
  flipDue  : List (Nat × Bool) := []
  /-- writes to shadow banks that wait for the end of a bank copy: output, entry, word (R192) -/
  stalled  : List (Nat × Nat × Nat) := []
  /-- instants of domain time, in ns, of the cells a source record sent in the last 16.384 µs, newest first (R200) -/
  sends    : List (Nat × List Nat) := []
  /-- window in progress and its cells, and the most cells in a window of this Milestone, by record (R202) -/
  window   : List (Nat × Nat × Nat) := []
  peak     : List (Nat × Nat) := []
  waiting  : List AdmWait := []
  changes  : List AllotChange := []
  /-- committed records, newest commitment first (R213) -/
  order    : List Nat := []
  /-- admission of this Milestone is closed, and what came later (R189) -/
  closed   : Bool := false
  deferred : List AdmIn := []
  /-- CE_2 wants VCORE raised (R212) -/
  raiseReq : Bool := false
  /-- Proof entries granted, by output (R221) -/
  proofEnt : List (Nat × Nat) := []
  /-- give-backs asked for and not yet answered by GIVEN: record, RU, and the hub that asked (R208, R209, R219) -/
  gives    : List (Nat × Nat × Nat) := []
  /-- hub at which a record's tunnel starts, and the ring entry that asked for it, by record (R208, R213, R222) -/
  origs    : List (Nat × Option Nat) := []
  ringOf   : List (Nat × Option Nat) := []
  deriving DecidableEq, Repr

/-- The Pace meter: readings of this Milestone (greatest since the boundary) and of the last four completed
Milestones, newest first, with the greatest begun after the last raise completed (R32). -/
structure Pace where
  /-- longest reading of the present Milestone and of each of the last four completed ones, newest first, by how many raises had
  completed when the gate began -/
  thisMs    : List (Nat × Nat) := []
  last      : List (List (Nat × Nat)) := []
  /-- the present Milestone began at a boundary since the last reset; complete Milestones with readings since, at most 4 (R33) -/
  whole     : Bool := false
  count     : Nat := 0
  /-- raises completed, and how many of them when the gate under way began; raises whose second boundary has not come, with the
  boundaries since; readings begun after fewer raises than this are left out (R32) -/
  raises    : Nat := 0
  gateAt    : Nat := 0
  waits     : List (Nat × Nat) := []
  leftOut   : Nat := 0
  deriving DecidableEq, Repr

/-! ### Compositor engines (chapter 10) -/

/-- What an engine waits for (R366, R367): a message of mailbox `mbx` for registers `rd` and `rd` + 1, or an event word with
a bit of `mask` for `rd`. -/
inductive EngWait
  | recv (rd mbx : Nat)
  | event (rd mask : Nat)
  deriving DecidableEq, Repr

/-- A Compositor engine: registers g0 to g15 (key; g0 is never listed), program counter, mailboxes and CSRs. -/
structure Engine where
  g        : List (Nat × Word) := []
  pc       : Nat := 0
  /-- messages of each mailbox, oldest first (R366) -/
  mail     : List (Nat × List (Word × Word)) := []
  /-- latched bits of the event word (R367) -/
  latch    : Nat := 0
  /-- stopped by a fault and not yet restarted; ticks of the faults (R381, R382) -/
  faulted  : Bool := false
  faults   : List Nat := []
  waiting  : Option EngWait := none
  /-- `MSTAT`; total nanoseconds of domain time at which the timer expires; `CYCLES`; `TBL_BASE_d` at key 2 d and
  `TBL_SHAPE_d` at 2 d + 1 (R371) -/
  mstat    : Nat := 0
  /-- the `FAULT` CSR: cause in [31:28], pc in [13:0] (R371); cleared with the CSRs (R359) -/
  lastFault : Nat := 0
  timer    : Option Nat := none
  cycles   : Nat := 0
  tbl      : List (Nat × Word) := []
  /-- latched seconds and fraction of TIME (R370) -/
  latched  : Nat × Nat := (0, 0)
  /-- tick at which the watchdog last restarted (R379) -/
  wdtAt    : Nat := 0
  /-- Milestones that a switch or role change has been pending (R374) -/
  swMs     : Nat := 0
  /-- program copy in progress: slot and bank (R373) -/
  loading  : Option (Nat × Nat) := none
  /-- tick of the retirement while the role waits to move; the engine whose role this one is about to take (R383) -/
  retiredAt : Option Nat := none
  taking   : Option Nat := none
  deriving DecidableEq, Repr

/-! ### Display adapters (chapter 06) -/

/-- A line in a place of the Platen's buffer (R237). -/
structure PlLine where
  frame  : Nat
  line   : Nat
  static : Bool
  data   : List Byte
  /-- cells arrived; the descriptor has been read whole and is good; the line has been scanned -/
  cells  : Nat
  good   : Bool
  used   : Bool
  deriving DecidableEq, Repr

/-- A display adapter: capture and Platen. -/
structure Display where
  /-- what happens to the source frame in progress: 0 not forwarded, 1 forwarded, 2 replaced by a frame mark, 3 of a timing
  that is not the expected one -/
  capMode   : Nat := 0
  /-- `FRAME` of the last frame forwarded, its `STATIC`, `CHANGE` and `SKIPPED` (R228) -/
  capFrame  : Nat := 0
  capStatic : Bool := false
  capChange : Bool := false
  capSkip   : Bool := false
  skipOwed  : Bool := false
  /-- CRC-32C of past frames, newest first (R247); tick of line 0 of the last forwarded frame (R245) -/
  crcs      : List (BitVec 32) := []
  lastStart : Option Nat := none
  /-- lending for self-refresh: 0 none, 1 lent, 2 ending (R249, R250) -/
  lending   : Nat := 0
  /-- the video source's link is in PSR; lines of the last frame kept for repetition (R247) -/
  srcPsr    : Bool := false
  kept      : List (Nat × List (BitVec 30)) := []
  /-- the capture's DPCD as written, the EDID read pointer, the Adaptive-Sync maximum in force (R232, R246) -/
  dpcd      : List (Nat × Byte) := []
  edidPtr   : Nat := 0
  asMax     : Option Nat := none
  /-- the level of the HPD output towards the video source (R232) -/
  hpdOut    : Bool := false
  /-- Platen: lines by place (R237); the line being received; slots counted, and the slot in which line 0 of the next frame
  became present (R238) -/
  buf       : List (Nat × Option PlLine) := []
  rxPlace   : Option Nat := none
  /-- place of the line that the slot now running scans, while cells of it are still to come (R239) -/
  scanning  : Option Nat := none
  slots     : Nat := 0
  line0At   : Option Nat := none
  /-- a frame number is known; a background frame is sent; the frame is static and without underrun so far (R241, R248) -/
  synced    : Bool := false
  bg        : Bool := true
  allStatic : Bool := false
  /-- failed training attempts (R243) -/
  tries     : Nat := 0
  deriving DecidableEq, Repr

/-! ### The time unit (chapter 09) -/

/-- A candidate for parent (R334): its data set, its `PARENT_HUB` field and the tick of its last time. -/
structure TimeCand where
  ds     : GmSet
  parent : Nat
  tick   : Nat
  deriving DecidableEq, Repr

/-- A PTP port on E0 or E1 (R327): last Sync with its receipt, the last pair t1, t2, own delay requests by sequence with t3
or t1, the times a partner gave, the path delay in units of 2^-16 ns, frames sent by tag, answers owed with their receipt. -/
structure PtpPort where
  sync   : Option (Nat × Stamp) := none
  pair   : Option (Stamp × Stamp) := none
  reqAt  : Option (Nat × Stamp) := none
  given  : Option (Nat × Stamp × Stamp) := none
  delay  : Option Int := none
  tags   : List (Nat × PtpSend × Nat) := []
  owed   : List (PtpSend × Nat × Stamp) := []
  deriving DecidableEq, Repr

/-- A Waymark (R343 to R345): the next instant and the last one accounted for, in total nanoseconds; enabled as last
planned; end of the pulse in progress; writes that wait for it. -/
structure Waymark where
  next : Option Nat := none
  last : Option Nat := none
  en   : Bool := false
  stop : Option Nat := none
  pend : List (Nat × Word) := []
  deriving DecidableEq, Repr

/-- The measurement unit (R350, R351): channels still to convert, channels done, trigger instant; held trigger; samples of
the cell being filled as instant, channel and code; a trigger was lost since the last cell. -/
structure Measure where
  todo    : List Nat := []
  done    : Nat := 0
  trig    : Nat := 0
  held    : Option Nat := none
  samples : List (Nat × Nat × Nat) := []
  lost    : Bool := false
  deriving DecidableEq, Repr

/-- The time unit: domain time and the free-running tick count of the 1.25 GHz clock (R322, R325). -/
structure TimeUnit where
  /-- 48-bit seconds, 32-bit nanoseconds, fraction in units of 2^-32 ns -/
  sec  : Nat := 0
  ns   : Nat := 0
  frac : Nat := 0
  tick : Nat := 0
  /-- latched seconds and fraction by access path (R324) -/
  latches : List (Nat × Nat × Nat) := []
  /-- candidates by port code (R334), the data set of the last parent followed (R333), time cell sequence -/
  cands   : List (Nat × TimeCand) := []
  followed : Option GmSet := none
  tSeq    : Nat := 0
  /-- tick of the last offset of a parent on E0 or E1, or of its choice, and the sync intervals without one since (R335) -/
  offAt   : Nat := 0
  missed  : Nat := 0
  /-- consecutive offsets towards LOCKED and out of HOLDOVER, last 64 values of `ADDEND` newest first, the first offset has
  been taken, an offset came since the last time cell was due, held `ADDEND` (R335 to R338) -/
  lockRun : Nat := 0
  holdRun : Nat := 0
  addends : List Nat := []
  first   : Bool := false
  seen    : Bool := false
  heldAdd : Nat := 0xCCCCCCCD
  /-- the second at which `TM_SET` is loaded (R336); `REFCLK_25` is lost (R326) -/
  setAt   : Option Nat := none
  refLost : Bool := false
  ptp     : List (Nat × PtpPort) := []
  wm      : List (Nat × Waymark) := []
  /-- entries of each capture FIFO, oldest first: falling edge, quarter nanoseconds, seconds, nanoseconds (R347) -/
  cap     : List (Nat × List (Bool × Nat × Nat × Nat)) := []
  ms      : Measure := {}
  deriving DecidableEq, Repr

/-! ### Reset, start-up and the Keep die (chapter 12) -/

/-- The reset controller and start-up. -/
structure ResetCtl where
  /-- a warm reset is decided and waits for WARM_RESET (R439) -/
  warm     : Bool := false
  /-- a Forme has become active since the cold start (R410) -/
  hasForme : Bool := false
  /-- last domain time sent to the Keep die: seconds, nanoseconds, tick then (R431) -/
  sent     : Option (Nat × Nat × Nat) := none
  /-- RTC: counts of 1/32,768 s at a tick, and whether it has been set (R340, R431) -/
  rtc      : Nat := 0
  rtcAt    : Nat := 0
  rtcValid : Bool := false
  /-- the warm reset has released the Spine-die logic; the retained record has been written back (R439) -/
  released : Bool := false
  restored : Bool := false
  /-- `XRST_N` is low (R449); a cold start waits before phase 1 for it -/
  xrstLow  : Bool := false
  coldWait : Bool := false
  /-- nonce of a remote reset: value, reader, tick of the read (R447) -/
  nonce    : Option (Nat × Nat × Nat) := none
  /-- manufacturer code and Pace factor of the chip trim (R31, R558) -/
  maker    : Nat := 0
  paceFactor : BitVec 16 := 0
  /-- trim blocks committed in this cold start: chip trim, then board trim (R436) -/
  trimmed  : Nat := 0
  deriving DecidableEq, Repr

/-! ### Power and cable power of the Keep die (chapters 13 and 14) -/

/-- A cable port: S0 to S3 as 0 to 3, D0 and D1 as 4 and 5 (R492): what its registers do not hold. -/
structure CablePort where
  /-- a detached dual port presents its pull-up (R482); the pull presented while attached: 1 up, 2 down; the other power role is
  being tried, and has been tried -/
  dualUp   : Bool := false
  pull     : Nat := 0
  trying   : Bool := false
  tried    : Bool := false
  /-- state before NEGOTIATE; an explicit contract is in force, or was (R492) -/
  before   : Nat := 0
  explicit : Bool := false
  /-- asked and not yet in force: mV, mA, `KIND`; the last Request sent or accepted as an object -/
  askV     : Nat := 0
  askI     : Nat := 0
  askKind  : Nat := 0
  rdo      : Nat := 0
  /-- swap in progress: 1 PR_Swap, 2 FR_Swap, 3 VCONN_Swap (R492); this end becomes the source; a fast swap waits for its new
  contract (R491) -/
  swap     : Nat := 0
  toSource : Bool := false
  fsOwed   : Bool := false
  /-- the detach or Hard Reset waits for safe low (R493, R495) -/
  leaving  : Bool := false
  /-- VCONN failed: offers stay at 3 A (R478); the first explicit contract has passed; the data role swap failed (R477) -/
  vcFault  : Bool := false
  drSent   : Bool := false
  drFailed : Bool := false
  /-- tick of the last Request or EPR_KeepAlive of the sink (R479, R489) -/
  aliveAt  : Nat := 0
  deriving DecidableEq, Repr

/-- A power path controller: what its registers do not hold. -/
structure PowerPath where
  /-- the input is in window (R462); t_COOL runs, since which tick (R469); `SAFE_WAIT` counted for this request (R462) -/
  inWin   : Bool := false
  coolAt  : Option Nat := none
  waited  : Bool := false
  /-- PPC_2 to PPC_7: role the contract logic wants (0 none, 1 sink, 2 source), limit in 10 mA (R488; 0 none), window in
  0.1 V (R461, R494; 0 none), discharge driven (R495) -/
  want    : Nat := 0
  limit   : Nat := 0
  window  : Nat × Nat := (0, 0)
  dsch    : Bool := false
  /-- a toggle of `PPC_EN_n` came during a hold (R474); a ramp ended during a hold (R23) -/
  toggled : Bool := false
  ramped  : Bool := false
  deriving DecidableEq, Repr

/-- A PMBus transaction in progress: a VOUT_COMMAND write of a setpoint, the READ_VOUT that ends a change (R459). -/
inductive PmOp
  | write (mv : Nat)
  | read
  deriving DecidableEq, Repr

/-- Rails, VCORE and power paths. -/
structure Power where
  ppc      : List (Nat × PowerPath) := []
  /-- the gate of the feed selected before must fall before the other closes (R464) -/
  feedGap  : Bool := false
  /-- `HVIN` is below 9.0 V; above 60 V; it has reached 10.5 V since it last fell (R450, R456, R563) -/
  hvLow    : Bool := false
  hvOver   : Bool := false
  hvGood   : Bool := false
  /-- step of the rail sequence whose good input is awaited (R457); the rails are up -/
  railStep : Option Nat := none
  railsUp  : Bool := false
  /-- VCORE: transaction in progress, target of the change, whether it is a raise and from what setpoint, repeats of the
  transaction, a lowering was applied in this Milestone (R37, R459, R460); Tj stays above 103 °C (R12) -/
  vcOp     : Option PmOp := none
  vcTarget : Nat := 750
  vcRaise  : Bool := false
  vcFrom   : Nat := 750
  vcReps   : Nat := 0
  vcLowered : Bool := false
  hot      : Bool := false
  /-- Keep-die event bits raised while the link was down, which the Spine die does not see yet (R537) -/
  lateGain : List Fld := []
  /-- tick of the entry to hold; its warm reset has been issued (R23, R539) -/
  holdAt   : Nat := 0
  custWarm : Bool := false
  /-- the current that the charger drives into `VBAK`, in µA (R451) -/
  charge   : Nat := 0
  /-- off after `THERM` without a restart (R429) -/
  thermStay : Bool := false
  /-- cable ports; ports whose board trim names a converter, as bits (R476, R487) -/
  cable    : List (Nat × CablePort) := []
  conv     : Nat := 0
  deriving DecidableEq, Repr



/-! ### The Forme (chapter 11) -/

/-- Colophon of an image (R397), and the key slot that its signature block names. -/
structure Colo where
  fmt      : Nat := 0
  isa      : Nat := 0
  imgId    : Nat := 0
  imgSeq   : Nat := 0
  rollback : Nat := 0
  classes  : Nat := 0
  stepMin  : Nat := 0
  flags    : Nat := 0
  name     : List Byte := []
  key      : Nat := 0
  deriving DecidableEq, Repr

/-- What the Forme control is running: a cold-start load by source and attempt (R407), a stage, a verification. -/
inductive FormeOp
  | load (src attempt : Nat)
  | stage (src : Nat)
  | verify (src : Nat)
  deriving DecidableEq, Repr

/-- An armed lock-up (R415, R416): the low 32 bits of its boundary's number, or none; the earliest start of the boundary in
total nanoseconds of domain time; a boundary has passed with the arm kept. -/
structure Arm where
  number    : Option Nat
  notBefore : Nat
  deferred  : Bool := false
  deriving DecidableEq, Repr

/-- The retained record (R413): the active words of the registers with FH fields, the post list, the Colophon. -/
structure Retained where
  words : List (Nat × Word)
  posts : List (Nat × Word)
  colo  : Colo
  deriving DecidableEq, Repr

/-- An OTP write in progress (R424, R425): the hash for a key slot, its revoked bit, or a rollback step on the way to a
count. -/
inductive OtpOp
  | prog (slot : Nat) (hash : List Byte)
  | revoke (slot : Nat)
  | step (count : Nat)
  deriving DecidableEq, Repr

/-- Forme control: what its registers do not hold. -/
structure FormeCtl where
  /-- source of the Forme that was active before the probation (R423) -/
  prevSrc  : Nat := 3
  op       : Option FormeOp := none
  arm      : Option Arm := none
  /-- post lists of the shadow and of the active Forme, in stream order (R401, R417); Colophons likewise -/
  posts    : List (Nat × Word) := []
  actPosts : List (Nat × Word) := []
  colo     : Colo := {}
  actColo  : Colo := {}
  /-- parts of the last lock-up still to come (R417): Keep-die fields and the words they take, post list, shadow copy,
  retained record; accesses that wait for the copy or behind one of their path that does, oldest first (R19, R51) -/
  keepOwed : Bool := false
  keepFh   : List (Nat × Word) := []
  postOwed : Bool := false
  copying  : Bool := false
  recOwed  : Bool := false
  /-- boundaries in a row with custody vacant (R423) -/
  vacant   : Nat := 0
  stalled  : List (Path × Instr) := []
  /-- the retained record, and whether its CRC and marker are good (R413, R414) -/
  record   : Option Retained := none
  recGood  : Bool := false
  /-- key hashes by slot (R403), OTP writes in progress, oldest first (R424, R425) -/
  keyHash  : List (Nat × List Byte) := []
  otp      : List OtpOp := []
  /-- the flash command in progress: `FC_FL_CMD` and `FC_FL_ADDR` as sent (R422) -/
  flCmd    : Option (Word × Word) := none
  /-- the flash has been reset, its directory read and `ENTRY_SEQ` sent since the last reset (R392, R396) -/
  flOpen   : Bool := false
  deriving DecidableEq, Repr

/-! ### Storage and network adapters (chapter 07) -/

/-- A TLP waiting to cross (R267): 0 posted, 1 non-posted, 2 completion, and its bytes. -/
structure Tlp where
  kind  : Nat
  bytes : List Byte
  deriving DecidableEq, Repr

/-- One end of a binding (R260 to R275), and at an Upstream Switch its virtual port. -/
structure Binding where
  /-- the far hub and its receive tunnel while the binding is not UNBOUND -/
  peer     : Nat × Nat := (0, 0)
  /-- TLPs towards the far end, oldest first (R269); towards the PCIe link, oldest first (R270) -/
  queue    : List Tlp := []
  linkQ    : List Tlp := []
  /-- credit units granted by the far end, cells sent, cells released there; cells released here; by kind (R268) -/
  grant    : List (Nat × Nat) := []
  sent     : List (Nat × Nat) := []
  ret      : List (Nat × Nat) := []
  released : List (Nat × Nat) := []
  /-- next `PSEQ` to send and to receive (R264, R266) -/
  seqTx    : Nat := 0
  seqRx    : Nat := 0
  /-- keys of the outstanding non-posted requests (R274) and the requests, oldest first -/
  table    : List (Nat × List Byte) := []
  /-- non-posted TLPs that wait in the partner while the table is full, oldest first (R272, R274) -/
  npWait   : List (List Byte) := []
  /-- Milestones since the last cell of the far adapter; a cell was sent in this Milestone (R261, R263) -/
  quiet    : Nat := 0
  sentMs   : Bool := false
  /-- refused or unanswered: Milestones of the wait so far (R261) -/
  wait     : Option Nat := none
  /-- Milestones since BIND_REQ without an answer (R261) -/
  asked    : Nat := 0
  /-- Slot Status of the virtual port: presence, Data Link Layer Link Active and their changed bits (R275); Link Disable
  (R276); Uncorrectable Error Status of AER (R266, R277) -/
  present  : Bool := false
  linkAct  : Bool := false
  presChg  : Bool := false
  actChg   : Bool := false
  disabled : Bool := false
  aer      : Nat := 0
  deriving DecidableEq, Repr

/-- The PCIe adapter: ends 0 to 7 are VP_0 to VP_7, end 8 the Downstream Binding adapter. -/
structure Pcie where
  ends     : List (Nat × Binding) := []
  /-- `PE_PERST_IN_N` is low (R259) -/
  perstIn  : Bool := false
  /-- tick at which `PE_REFCLK` started (R258) -/
  refStart : Option Nat := none
  /-- the drive's link is disabled by RESET (R276) -/
  driveOff : Bool := false
  /-- `VP_EN`, `DB_HUB` and `DB_TUNNEL` are those of the mode in force: 0 off, 1 Upstream Switch, 2 Downstream Binding -/
  mode     : Nat := 0
  /-- configuration registers as the host wrote them, by 1024 × function + register; the captured bus number (R256, R257) -/
  cfg      : List (Nat × Word) := []
  busNo    : Nat := 0
  /-- TLPs that wait in the link partner for flow-control credit, oldest first; kind and cells of the PDUs last presented to J6,
  kind 3 for one without a TLP (R272) -/
  partner  : List (List Byte) := []
  outbox   : List (Nat × Nat) := []
  deriving DecidableEq, Repr

/-- A reassembly context of an Ethernet egress (R284). -/
structure EthCtx where
  key  : Nat
  data : List Byte
  last : Nat
  act  : Nat
  ce   : Bool
  deriving DecidableEq, Repr

/-- A frame waiting for the wire: without its FCS; the prefix of an analysis frame is completed at transmission (R290); the
tag of the timestamp report asked for (R328). -/
structure EthFrame where
  bytes  : List Byte
  mirror : Bool := false
  report : Option Nat := none
  deriving DecidableEq, Repr

/-- An Ethernet adapter. -/
structure Eth where
  ctx        : List EthCtx := []
  txq        : List EthFrame := []
  /-- tick at which a received PAUSE ends -/
  pauseUntil : Nat := 0
  deriving DecidableEq, Repr

/-! ### The Local Bus bridge (chapter 08) -/

/-- A device cycle: direction, device address of its first byte, length in bytes, data of a write. -/
structure DevCyc where
  write : Bool
  addr  : Nat
  len   : Nat
  data  : List Byte
  deriving DecidableEq, Repr

/-- A non-posted request of this hub (R302, R305 to R307): its window, tag and cycle, whether the device waits on the bus, the
tick it was sent, and its completion with the tick of arrival. -/
structure BridgeReq where
  win   : Nat
  tag   : Nat
  cyc   : DevCyc
  wait  : Bool
  sent  : Nat
  reply : Option (Nat × List Byte × Nat) := none
  deriving DecidableEq, Repr

/-- A request from another hub, queued for the bus (R302, R304): window and sender. -/
structure Inbound where
  win : Nat
  src : Nat
  msg : BridgeMsg
  deriving DecidableEq, Repr

/-- A cycle of the hub (R304, R320, R321): a posted write, an acknowledged write or a read of a window, a delivery or a poll
of a signal. -/
inductive HubCyc
  | posted (r : Inbound)
  | request (r : Inbound) (write : Bool)
  | delivery (sig src : Nat) (data : List Byte)
  | poll (sig : Nat)
  deriving DecidableEq, Repr

/-- The Local Bus bridge. -/
structure Bridge where
  /-- `LB_BREQ_N` is low; the last cycle was the device's (R295); a device cycle is held on the bus -/
  breq     : Bool := false
  lastDev  : Bool := false
  heldDev  : Option (DevCyc × Nat) := none
  cur      : Option HubCyc := none
  /-- queues of the bus (R304): posted writes, non-posted requests with their direction, deliveries and polls, oldest first; the
  last hub cycle served a window -/
  inPosted : List Inbound := []
  inNp     : List (Inbound × Bool) := []
  images   : List HubCyc := []
  lastWin  : Bool := false
  /-- outbound windows: next `BSEQ`, `BSEQ` of the last credit (R302), waiting for the credit that answers RESYNC (R313) -/
  nextSeq  : List (Nat × Nat) := []
  credited : List (Nat × Nat) := []
  resync   : List Nat := []
  /-- inbound windows: RESYNC received, with the first `BSEQ` accepted; last posted sequence released -/
  synced   : List (Nat × Nat) := []
  released : List (Nat × Nat) := []
  reqs     : List BridgeReq := []
  nextTag  : Nat := 0
  /-- windows as last started: key 4 n + w (R313) -/
  winIs    : List (Nat × Word) := []
  /-- sideband: runs of equal samples by bit as level and length, message sequence, time of the last change, last remote
  state, Milestones without a message, safe values driven (R315, R316) -/
  sbRun    : List (Nat × Nat × Nat) := []
  sbSeq    : Nat := 0
  sbTime   : Nat × Nat := (0, 0)
  sbRemote : Nat := 0
  sbQuiet  : Nat := 0
  sbSafe   : Bool := false
  /-- last committed values of producer signals (R319), and ticks of the last updates of consumer signals (R321) -/
  commit   : List (Nat × List Byte) := []
  updated  : List (Nat × Nat) := []
  deriving DecidableEq, Repr

/-! ### The USB dock (chapter 15) -/

/-- A service channel: bytes of the request received, whether it is complete and passed on, the COMMAND outstanding (words of
its notice without the kind, tick), a READ or WRITE at another hub by its request identifier, the reply armed (its length and packets
acknowledged), the data toggles. -/
structure Channel where
  got    : Nat := 0
  whole  : Bool := false
  served : Bool := false
  cmd    : Option (Nat × Nat × Nat) := none
  reply  : Option (Nat × Nat) := none
  outTog : Bool := false
  inTog  : Bool := false
  deriving DecidableEq, Repr

/-- The USB dock. -/
structure Dock where
  /-- the active carving is invalid (R503) -/
  badMap  : Bool := false
  /-- control transfer in progress: its setup packet as a number and whether it goes to the management function (R520) -/
  ctrl    : Option (Nat × Bool) := none
  chans   : List (Nat × Channel) := []
  /-- `USTATE` before the suspend and its tick; reason of the pending wake; the hub drives K; the host drives K (R518, R519) -/
  before  : Nat := 0
  suspAt  : Nat := 0
  why     : Nat := 0
  driving : Bool := false
  hostK   : Bool := false
  /-- frame number of the last SOF and its microframe; FIFO entries, oldest first: frame, microframe, seconds, ns (R515) -/
  frame   : Nat := 0
  uframe  : Nat := 0
  sof     : List (Nat × Nat × Nat × Nat) := []
  deriving DecidableEq, Repr


/-! ### Service (chapter 16) -/

/-- Event delivery, error log and Proof: what the registers do not hold. -/
structure Service where
  /-- `VACATED` of the last INCARNATION record for each role (R140) -/
  vacated  : List (Nat × Nat) := []
  /-- MSI-X vectors now disarmed; the host has enabled MSI-X; its Function Mask, table and pending-bit array (R256, R545) -/
  disarmed : List Nat := []
  msix     : Bool := false
  msixMask : Bool := false
  msixTab  : List (Nat × Word) := []
  msixPend : Nat := 0
  /-- `INT_N` is driven low (R545) -/
  intLow   : Bool := false
  /-- message sequence, and the bits the last message of each source carried: key source, or 64 + engine (R546) -/
  msgSeq   : Nat := 0
  msgBits  : List (Nat × Nat) := []
  /-- log entries the Keep die holds during hold, oldest first (R538) -/
  keepLog  : List (List Word) := []
  /-- Proof tests running: test, target, row, whether intrusive; requests that wait: test, target, row (R530 to R533) -/
  tests    : List (Nat × Nat × Nat × Bool) := []
  asks     : List (Nat × Nat × Nat) := []
  /-- next tile and next lane of the automatic tests (R536) -/
  autoTile : Nat := 0
  autoLane : Nat := 0
  /-- Proof cells sent to an output and turned back (R530 test 5) -/
  proofCells : List (Nat × Nat) := []
  /-- ticks of the corrected errors of each memory row in the window, by location word (R524) -/
  rowErrs  : List (Nat × List Nat) := []
  /-- tiles whose spare row is in use or unusable, as plane and tile: 512 plane + tile, engines 0x2000 + 2 n + memory -/
  spareUsed : List Nat := []
  /-- rows mapped onto a spare, rows whose copy into the spare is in progress, rows lost, by location word -/
  repaired : List Nat := []
  repairing : List Nat := []
  lostRows : List Nat := []
  deriving DecidableEq, Repr

/-! ### Test access port (chapter 17) -/

/-- The test access port: instruction register, `TRST_N` low, boundary-scan register. -/
structure Tap where
  ir   : Nat := 1
  held : Bool := true
  bsr  : List Bool := []
  deriving DecidableEq, Repr


/-! ### Management tunnels and SMBus (chapter 01) -/

/-- A management tunnel request of this hub that waits for its reply (R48, R49): its tag, the target hub, and the service channel
it serves with that channel's epoch. -/
structure MtReq where
  tag   : Nat
  hub   : Nat
  chan  : Nat
  epoch : Nat
  deriving DecidableEq, Repr

/-- Management access: tunnel requests outstanding; the read address of the SMBus target, and a transaction has come with a wrong
PEC since the last read (R50). -/
structure Mgmt where
  mt       : List MtReq := []
  readAddr : Nat := 0
  pecBad   : Bool := false
  deriving DecidableEq, Repr

/-! ### What the hub sends -/

/-- What the hub sends or drives, as an entry of the model's own log. -/
inductive Out
  /-- a management access on a path completes with a status (R45) and, for a read, data -/
  | access (path : Path) (addr status : Nat) (data : Word)
  /-- a slot of a spine port: the frame's 80 bytes, if it carries one, and the bytes that leave on each driven lane
  (R58 to R62, R67) -/
  | slot (p : Nat) (frame : Option (List Byte)) (lanes : List (Nat × List Byte))
  /-- an MSI-X vector (R545) -/
  | msix (vector : Nat)
  /-- the level of `INT_N` (R545) -/
  | intN (low : Bool)
  /-- a line slot of a Platen: the pixels scanned, 10 bits per component narrowed (R239) -/
  | scan (d : Nat) (pixels : List (BitVec 30))
  /-- a blanking line slot of a Platen with its level of vertical sync (R238); the main stream attributes sent in a blanking, with
  the timing-ignore bit (R240) -/
  | blankLine (d : Nat) (vsync : Bool)
  | msa (d : Nat) (timingIgnore : Bool)
  /-- a secondary data packet of a Platen: 0 Adaptive-Sync with its range, 1 VSC for PSR entry, 2 VSC for PSR exit -/
  | sdp (d kind a b : Nat)
  /-- an AUX request of a Platen; the answer of a capture to its video source; an HPD IRQ to the video source -/
  | auxRequest (d cmd addr len : Nat) (data : List Byte)
  | auxReply (d : Nat) (data : List Byte)
  | hpdIrq (d : Nat)
  /-- the level of a capture's HPD output (R232) -/
  | hpd (d : Nat) (level : Bool)
  /-- a TLP to the PCIe link (the far side's TLPs, and completions the adapter makes itself) -/
  | tlp (n : Nat) (bytes : List Byte)
  /-- the hot-plug interrupt of a virtual port; an AER report of end `n` (8: function 0), by its status bit (R266, R275) -/
  | hotPlug (n : Nat)
  | aer (n bit : Nat)
  /-- action on the drive's link: 1 hot reset, 2 disable, 3 enable (R276); the level of `PE_PERST_N` -/
  | driveLink (arg : Nat)
  | perst (asserted : Bool)
  /-- an Ethernet frame with its FCS -/
  | eth (e : Nat) (bytes : List Byte)
  /-- what the bridge answers a device cycle: 0 complete, 1 error, 2 retry, and the data of a read; the grant pin -/
  | lbAnswer (code : Nat) (data : List Byte)
  | lbGrant (on : Bool)
  /-- a cycle of the hub on a chip select -/
  | lbCycle (write : Bool) (cs addr len : Nat) (data : List Byte)
  /-- levels of the sideband outputs; a Waymark pin -/
  | sbOut (levels : Nat)
  | waymark (n : Nat) (level : Bool)
  /-- a PTP message of the time unit on E0 or E1, with its sequence and the time it carries (R327) -/
  | ptp (e : Nat) (kind : PtpSend) (seq : Nat) (time : Option Stamp)
  /-- a power delivery message of cable port `c`, with its objects; the control wire driven low; the discharge of a path -/
  | pd (c : Nat) (msg : PdSend) (objs : List Nat)
  | scw (c : Nat) (low : Bool)
  | discharge (n : Nat) (on : Bool)
  /-- `FL_RST_N` low for 10 µs, then 100 µs of waiting (R392); a command to the flash: mode and clock in MHz coded as `FL_MODE` and
  `FL_MHZ`, dummy clocks, the bytes sent, the bytes read after them (R396, R422) -/
  | flashReset
  | flash (mode mhz dummy : Nat) (bytes : List Byte) (read : Nat)
  /-- the charger's current into `VBAK` in µA; the charger itself ends it at 3.3 V (R451) -/
  | vbak (microamps : Nat)
  /-- VOUT_COMMAND to the converter of a cable port, in mV (R476) -/
  | converter (c mv : Nat)
  /-- the dock's pull-up; handshake of a bulk OUT packet: 0 ACK, 1 NAK, 2 NYET, 3 STALL; a bulk IN packet acknowledged; a STALL on
  endpoint 0; K on the upstream pair; the power of a downstream port -/
  | usbPull (on : Bool)
  | usbHandshake (c code : Nat)
  | usbIn (c : Nat) (data : List Byte)
  | usbStall
  | usbK (on : Bool)
  | uhPower (k : Nat) (on : Bool)
  /-- descriptors of the hub or the function (R499): vendor, product, release; the serial number string; the hub's
  characteristics: compound device, non-removable ports -/
  | usbIds (fn : Bool) (vid pid : Nat) (bcd : Option Nat)
  | usbSerial (digits : List Byte)
  | usbHub (compound : Bool) (fixed : Nat)
  /-- configuration descriptor: remote wakeup advertised, bulk endpoints present by their addresses (R498, R503) -/
  | usbConfig (fn : Bool) (wake : Bool) (bulk : List Nat)
  /-- what the test port makes of the scanned pins: mission function, the boundary-scan register, floating; a data register
  shifted out at `TDO` (R558) -/
  | tapMission
  | tapDrive (cells : List Bool)
  | tapFloat
  | tapShift (bits : List Bool)
  /-- an access through BAR0 or BAR2 ends (R46): 0 success with data, 1 Unsupported Request, 2 Completer Abort, 3 a posted write failed
  and raises its event; the answer of the SMBus target -/
  | bar (code : Nat) (data : Word)
  | smbus (status : Nat) (data : Word)
  deriving DecidableEq, Repr

/-! ### The state of the hub -/

structure State where
  /-- register words by management address; hardware-held fields and the active Forme (R16) -/
  regs    : List (Nat × Word) := []
  /-- the shadow Forme: register words of which only the FH fields count (R16) -/
  shadow  : List (Nat × Word) := []
  /-- Case memory, 1 MiB, by byte offset (R43) -/
  caseMem : List Host.Cell := []
  /-- data SRAM of the engines: key 0x8000 n + offset (chapter 10) -/
  engSram : List Host.Cell := []
  /-- program banks of the engines: key 0x8000 n + 0x4000 bank + offset (chapter 10) -/
  engBank : List Host.Cell := []
  /-- Galley, 32 KiB (R502) -/
  galley  : List Host.Cell := []
  /-- process image, 64 KiB (R317) -/
  pimage  : List Host.Cell := []
  /-- external flash (R392) -/
  flash   : List Host.Cell := []
  /-- error log words: key 4 e + w (R547) -/
  elog    : List (Nat × Word) := []
  ports   : List (Nat × SpinePort) := []
  /-- key 8 p + k -/
  lanes   : List (Nat × Lane) := []
  links   : List (Nat × Link) := []
  jn      : Junction := {}
  imp     : Imposition := {}
  pace    : Pace := {}
  eng     : List (Nat × Engine) := []
  tm      : TimeUnit := {}
  svc     : Service := {}
  rs      : ResetCtl := {}
  fc      : FormeCtl := {}
  display : List (Nat × Display) := []
  px      : Pcie := {}
  eth     : List (Nat × Eth) := []
  lb      : Bridge := {}
  pw      : Power := {}
  dk      : Dock := {}
  tap     : Tap := {}
  mg      : Mgmt := {}
  /-- what the hub has sent, newest first: the model's own log, not the spec's -/
  out     : List Out := []
  /-- uses of free values so far: the model's own counter (notes/assumptions/2.md) -/
  freeCtr : Nat := 0
  /-- commands waiting, oldest first -/
  pending : List Instr := []
  deriving DecidableEq, Repr

/-- The hub right after reset: every register at its reset value, every memory cleared, nothing waiting. -/
def State.reset : State := {}

/-- Why the machine stops with a fault. -/
inductive Fault
  /-- no meaning answers this: the spec gives the block no stop (safe: nothing is cut short by it) -/
  | none
  deriving DecidableEq, Repr

/-- Why a command has no meaning here. -/
inductive Refusal
  /-- raised by exec's arm for a command that has no meaning yet (safe: the machine stops) -/
  | notModelled (mnemonic : String)
  deriving DecidableEq, Repr

/-- The outcome of a step of the hub. -/
abbrev Result := Host.Outcome State Fault Refusal

end Sys2Proof.Machine
end

