-- ==== Sys2Proof/Machine/Table.lean ====
section
/-! DEFINITION. Tables held as lists of (key, entry) pairs in one canonical form: reading an entry, writing one, and the
canonical form itself. Writing the value an unlisted key reads as removes the entry, so equal tables are equal lists. -/

namespace Sys2Proof.Machine

variable {α : Type} [DecidableEq α]

/-- The entry at key `k`; `d` where the table lists none. -/
def tget (d : α) (k : Nat) : List (Nat × α) → α
  | [] => d
  | e :: t => if e.1 = k then e.2 else tget d k t

/-- The table without key `k`. -/
def terase (k : Nat) (t : List (Nat × α)) : List (Nat × α) :=
  t.filter fun e => e.1 != k

/-- An entry put at its place in rising order of keys. -/
def tinsert (k : Nat) (v : α) : List (Nat × α) → List (Nat × α)
  | [] => [(k, v)]
  | e :: t => if e.1 < k then e :: tinsert k v t else (k, v) :: e :: t

/-- The table with entry `v` at key `k`, where an unlisted key reads as `d`. -/
def tput (d : α) (k : Nat) (v : α) (t : List (Nat × α)) : List (Nat × α) :=
  if v = d then terase k t else tinsert k v (terase k t)

/-- The keys of a table rise strictly. -/
def risingKeys : List (Nat × α) → Bool
  | [] => true
  | e :: t => (t.all fun f => e.1 < f.1) && risingKeys t

/-- The canonical form: keys strictly rising, and no entry equal to what its key reads as unlisted. -/
def canonical (d : Nat → α) (t : List (Nat × α)) : Bool :=
  risingKeys t && t.all fun e => e.2 != d e.1

end Sys2Proof.Machine
end

