-- ==== Sys2Proof/Machine/Bits.lean ====
section
/-! DEFINITION. Bits and bytes: fields of words, byte orders, the cell header (R149), CRCs and the scrambler. -/

namespace Sys2Proof.Machine

/-- Bits hi..lo of a number. -/
def bits (n hi lo : Nat) : Nat := n / 2 ^ lo % 2 ^ (hi + 1 - lo)

/-- A number with bits hi..lo replaced by the low bits of `v`. -/
def setBits (n hi lo v : Nat) : Nat :=
  n / 2 ^ (hi + 1) * 2 ^ (hi + 1) + v % 2 ^ (hi + 1 - lo) * 2 ^ lo + n % 2 ^ lo

/-- Field hi..lo of a register word. -/
def wordField (w : Word) (hi lo : Nat) : Nat := ((w >>> lo).setWidth (hi + 1 - lo)).toNat

/-- The mask of bits hi..lo of a word. -/
def wordMask (hi lo : Nat) : Word := (BitVec.allOnes (hi + 1 - lo)).setWidth 32 <<< lo

/-- A register word with field hi..lo replaced by the low bits of `v`. -/
def setWordField (w : Word) (hi lo v : Nat) : Word :=
  (w &&& ~~~(wordMask hi lo)) ||| ((BitVec.ofNat 32 v <<< lo) &&& wordMask hi lo)

/-- The number that bytes give, most significant first. -/
def beNat (bs : List Byte) : Nat := bs.foldl (fun n b => n * 256 + b.toNat) 0

/-- The number that bytes give, least significant first. -/
def leNat (bs : List Byte) : Nat := bs.foldr (fun b n => n * 256 + b.toNat) 0

/-- `k` bytes of a number, least significant first. -/
def leBytes : Nat → Nat → List Byte
  | 0, _ => []
  | k + 1, n => BitVec.ofNat 8 n :: leBytes k (n / 256)

/-- `k` bytes of a number, most significant first. -/
def beBytes (k n : Nat) : List Byte := (leBytes k n).reverse

/-- Bytes at positions a, a+1 .. of a byte string, `k` of them, 0x00 past its end. -/
def slice (bs : List Byte) (a k : Nat) : List Byte :=
  (List.range k).map fun i => bs.getD (a + i) 0

/-- A byte string cut or filled with 0x00 to `k` bytes. -/
def padTo (k : Nat) (bs : List Byte) : List Byte := slice bs 0 k

/-- The number at bytes a .. a+k-1, most significant byte first. -/
def beAt (bs : List Byte) (a k : Nat) : Nat := beNat (slice bs a k)

/-- The bits of a byte, most significant first. -/
def byteBits (b : Byte) : List Bool := (List.range 8).map fun i => b.getLsbD (7 - i)

/-- Eight bits, most significant first, as a byte. -/
def bitsByte (l : List Bool) : Byte := BitVec.ofNat 8 (l.foldl (fun n b => 2 * n + b.toNat) 0)

/-- How many bits of a number below position `k` are 1. -/
def popCount (n k : Nat) : Nat := ((List.range k).filter fun i => n.testBit i).length

/-- The positions below `k` of the bits of `n` that are 1, ascending. -/
def bitList (n k : Nat) : List Nat := (List.range k).filter fun i => n.testBit i

/-- The number whose bits at the listed positions are 1. -/
def ofBits (l : List Nat) : Nat := l.foldl (fun n i => n ||| 2 ^ i) 0

/-- A count one higher, held at the greatest value of `w` bits. -/
def sat (w n : Nat) : Nat := min n (2 ^ w - 1)

/-! ### CRCs -/

/-- One bit of a CRC register of width `w`, most significant bit first. -/
def crcBit (w poly : Nat) (r : Nat) (b : Bool) : Nat :=
  let top := r.testBit (w - 1)
  let r' := (2 * r) % 2 ^ w
  if top != b then r' ^^^ poly else r'

/-- A CRC without reflection over bytes, most significant bit first. -/
def crcBytes (w poly init : Nat) (bs : List Byte) : Nat :=
  bs.foldl (fun r b => (byteBits b).foldl (crcBit w poly) r) init

/-- CRC-8 with polynomial x^8 + x^2 + x + 1 and initial value 0 (R62, R174). -/
def crc8 (bs : List Byte) : Nat := crcBytes 8 0x07 0 bs

/-- CRC-16 with polynomial x^16 + x^12 + x^5 + 1 and initial value 0xFFFF (R67). -/
def crc16 (bs : List Byte) : Nat := crcBytes 16 0x1021 0xFFFF bs

/-- One byte of a reflected 32-bit CRC register. -/
def crc32Byte (poly : Nat) (r : Nat) (b : Byte) : Nat :=
  (List.range 8).foldl (fun r _ => if r.testBit 0 then (r / 2) ^^^ poly else r / 2) (r ^^^ b.toNat)

/-- CRC-32C of RFC 3720: reflected polynomial 0x82F63B78, initial value and final XOR all ones (R107). -/
def crc32c (bs : List Byte) : Nat := bs.foldl (crc32Byte 0x82F63B78) 0xFFFFFFFF ^^^ 0xFFFFFFFF

/-- CRC-32 of IEEE 802.3, reflected. -/
def crc32 (bs : List Byte) : Nat := bs.foldl (crc32Byte 0xEDB88320) 0xFFFFFFFF ^^^ 0xFFFFFFFF

/-! ### Scrambler and PRBS -/

/-- One bit through the self-synchronising scrambler of R59; bit 38 and bit 57 of the register are the outputs 39 and
58 bits ago. -/
def scrBit (r : BitVec 58) (b : Bool) : BitVec 58 × Bool :=
  let o := (b != r.getLsbD 38) != r.getLsbD 57
  ((r <<< 1) ||| (if o then 1 else 0), o)

/-- A bit string through the scrambler. -/
def scrBits (r : BitVec 58) : List Bool → BitVec 58 × List Bool
  | [] => (r, [])
  | b :: t => let (r1, o) := scrBit r b; let (r2, os) := scrBits r1 t; (r2, o :: os)

/-- The next `k` bits of PRBS31, x^31 + x^28 + 1 (R98). -/
def prbs31 : Nat → BitVec 31 → BitVec 31 × List Bool
  | 0, r => (r, [])
  | k + 1, r =>
    let o := r.getLsbD 30 != r.getLsbD 27
    let (r2, os) := prbs31 k ((r <<< 1) ||| (if o then 1 else 0))
    (r2, o :: os)

/-- Parity mask of a bit string: bit i is the parity of the bits at positions p with p mod 8 = i, from position `at` on
(R62). -/
def bipBits : Nat → BitVec 8 → List Bool → BitVec 8
  | _, a, [] => a
  | p, a, b :: t => bipBits (p + 1) (if b then a ^^^ (1 <<< (p % 8)) else a) t

/-- `k` bits of a number, most significant first. -/
def numBits (k n : Nat) : List Bool := (List.range k).map fun i => n.testBit (k - 1 - i)

/-- The number that bits give, most significant first. -/
def bitsNum (l : List Bool) : Nat := l.foldl (fun n b => 2 * n + b.toNat) 0

end Sys2Proof.Machine

namespace Sys2Proof

open Machine

/-! ### Cells (R149) -/

def Cell.fld (c : Cell) (hi lo : Nat) : Nat := bits c.hdr.toNat hi lo
/-- The cell with a header field replaced. -/
def Cell.setFld (c : Cell) (hi lo v : Nat) : Cell := { c with hdr := BitVec.ofNat 64 (setBits c.hdr.toNat hi lo v) }
def Cell.destHub (c : Cell) : Nat := Cell.fld c 63 53
def Cell.destAdp (c : Cell) : Nat := Cell.fld c 52 48
def Cell.tunnel (c : Cell) : Nat := Cell.fld c 47 36
def Cell.tc (c : Cell) : Nat := Cell.fld c 35 33
def Cell.ce (c : Cell) : Nat := Cell.fld c 32 32
def Cell.mir (c : Cell) : Nat := Cell.fld c 31 31
def Cell.pos (c : Cell) : Nat := Cell.fld c 30 29
def Cell.len (c : Cell) : Nat := Cell.fld c 28 22
def Cell.srcHub (c : Cell) : Nat := Cell.fld c 21 11
def Cell.flow (c : Cell) : Nat := Cell.fld c 10 0

/-- The first `LEN` payload bytes of a cell. -/
def Cell.payload (c : Cell) : List Byte := slice c.data 0 (Cell.len c)

/-- A cell made by hub `src` with `CE` and `MIR` 0 (R150), its payload filled with 0x00 to 64 bytes (R105). -/
def Cell.make (src : Nat) (h : CellHdr) (payload : List Byte) : Cell :=
  let n := h.destHub % 2048 * 2 ^ 53 + h.destAdp % 32 * 2 ^ 48 + h.tunnel % 4096 * 2 ^ 36 + h.tc % 8 * 2 ^ 33
    + h.pos % 4 * 2 ^ 29 + payload.length % 128 * 2 ^ 22 + src % 2048 * 2 ^ 11 + h.flow % 2048
  ⟨BitVec.ofNat 64 n, padTo 64 payload⟩

/-- The 72 slot bytes of a cell: header then payload, with 0x00 beyond `LEN` (R105). -/
def Cell.slot (c : Cell) : List Byte := beBytes 8 c.hdr.toNat ++ padTo 64 (c.data.take (Cell.len c))

/-- The cell in a 72-byte slot; bytes beyond `LEN` are ignored (R105). -/
def Cell.ofSlot (bs : List Byte) : Cell :=
  let h := BitVec.ofNat 64 (beAt bs 0 8)
  ⟨h, padTo 64 (slice bs 8 (min 64 (Cell.len ⟨h, []⟩)))⟩

/-- A payload cut into segments of at most 64 bytes, with `POS` and the index of each (R151): middle 0, first 1,
last 2, only 3. -/
def segments (fuel : Nat) (bs : List Byte) (first : Bool) : List (Nat × List Byte) :=
  match fuel with
  | 0 => []
  | k + 1 =>
    if bs.length ≤ 64 then [(if first then 3 else 2, bs)]
    else (if first then 1 else 0, bs.take 64) :: segments k (bs.drop 64) false

/-- A time cell (R331). -/
def Cell.isTime (c : Cell) : Bool :=
  Cell.tc c == 7 && Cell.destAdp c == 11 && Cell.tunnel c == 0xF00 && Cell.pos c == 3 && Cell.len c == 48

/-- The cell with payload bytes replaced from a position on. -/
def Cell.patch (c : Cell) (at_ : Nat) (bs : List Byte) : Cell :=
  { c with data := slice c.data 0 at_ ++ bs ++ slice c.data (at_ + bs.length) (64 - at_ - bs.length) }

/-- The bytes of a time stamp (R110, R331). -/
def Stamp.bytes (t : Stamp) : List Byte := beBytes 6 t.sec ++ beBytes 4 t.ns ++ beBytes 2 t.frac

/-- The cells of one unit of data from hub `src` (R151, R49). -/
def Cell.unit (src : Nat) (h : CellHdr) (bs : List Byte) : List Cell :=
  (segments (bs.length / 64 + 1) bs true).map fun (p, seg) => Cell.make src { h with pos := p } seg

end Sys2Proof
end

