-- ==== Sys2Proof/Machine/RegTable.lean ====
section
/-! DEFINITION. The register table: what the field tables of spec/ give for each register of the management address
space (R13, R14, R43): where it lies, how it repeats, and each field's bits, access type, stickiness and reset value.
A repetition of a whole block (spine ports, display and Ethernet adapters, engines) is taken off before the lookup. -/

namespace Sys2Proof.Machine

/-- The registers of the block at 0x0 (R43). -/
def idRegs0 : List RegD := [
  ⟨"ID_DEVICE", 0x0, [], false,
    [⟨"PART", 31, 16, .ro, false, 0x4816⟩, ⟨"STEP_MAJOR", 15, 12, .ro, false, 0x1⟩, ⟨"STEP_MINOR", 11, 8, .ro, false, 0x0⟩, ⟨"GRADE", 7, 6, .ro, false, 0x0⟩, ⟨"CLASS", 5, 4, .ro, false, 0x3⟩, ⟨"BOOT_SRC", 3, 2, .ro, false, 0x3⟩, ⟨"TRIM_SAFE", 1, 1, .ro, false, 0x0⟩, ⟨"STRAP_DFLT", 0, 0, .ro, false, 0x0⟩]⟩,
  ⟨"ID_PRESENT", 0x4, [], false,
    [⟨"DOCK", 16, 16, .ro, false, 0x1⟩, ⟨"JPORT", 15, 0, .ro, false, 0xFFFF⟩]⟩,
  ⟨"ID_SERIAL_LO", 0x8, [], false,
    [⟨"SERIAL_LO", 31, 0, .ro, false, 0x0⟩]⟩,
  ⟨"ID_SERIAL_HI", 0xC, [], false,
    [⟨"SERIAL_HI", 31, 0, .ro, false, 0x0⟩]⟩,
  ⟨"ID_HUB", 0x10, [], false,
    [⟨"ID_V", 31, 31, .ro, true, 0x1⟩, ⟨"ROLE", 30, 30, .ro, true, 0x0⟩, ⟨"HUB_ID_NOW", 26, 16, .ro, true, 0x0⟩, ⟨"START_STBY", 15, 15, .fh, false, 0x0⟩, ⟨"HUB_ID", 10, 0, .fh, false, 0x0⟩]⟩,
  ⟨"ID_INC", 0x14, [], false,
    [⟨"INCARNATION", 15, 0, .ro, false, 0x0⟩]⟩,
  ⟨"ID_INC_TBL", 0x18, [], false,
    [⟨"TBL_OFS", 19, 0, .fh, false, 0xF8000⟩]⟩,
  ⟨"ID_COLO_VER", 0x100, [], false,
    [⟨"FMT_VER", 31, 16, .ro, true, 0x0⟩, ⟨"ISA_REQ", 15, 0, .ro, true, 0x0⟩]⟩,
  ⟨"ID_COLO_ID", 0x104, [], false,
    [⟨"IMG_ID", 31, 0, .ro, true, 0x0⟩]⟩,
  ⟨"ID_COLO_SEQ", 0x108, [], false,
    [⟨"IMG_SEQ", 31, 0, .ro, true, 0x0⟩]⟩,
  ⟨"ID_COLO_MISC", 0x10C, [], false,
    [⟨"ROLLBACK", 31, 24, .ro, true, 0x0⟩, ⟨"CLASSES", 23, 16, .ro, true, 0x0⟩, ⟨"STEP_MIN", 15, 8, .ro, true, 0x0⟩, ⟨"C_FLAGS", 7, 0, .ro, true, 0x0⟩]⟩,
  ⟨"ID_COLO_NAME", 0x110, [(8, 0x4)], false,
    [⟨"NAME", 31, 0, .ro, true, 0x0⟩]⟩,
  ⟨"ID_TAKE", 0x1C, [], false,
    [⟨"TAKEOVER", 31, 31, .w1c, false, 0x0⟩, ⟨"TAKE_REFUSED", 30, 30, .w1c, false, 0x0⟩, ⟨"T_INC", 15, 0, .fh, false, 0x0⟩]⟩]
def idRegs : List RegD := idRegs0

/-- The registers of the block at 0x280000 (R43). -/
def impositionRegs0 : List RegD := [
  ⟨"PACE_NOW", 0xF000, [], false,
    [⟨"SENSOR", 18, 16, .ro, false, 0x0⟩, ⟨"CYCLE_PS", 15, 0, .ro, false, 0x0⟩]⟩,
  ⟨"PACE_PLAN", 0xF004, [], false,
    [⟨"FLOOR", 31, 31, .ro, false, 0x1⟩, ⟨"PLAN_PS", 15, 0, .ro, false, 0x9C4⟩]⟩,
  ⟨"PACE_FLOOR", 0xF008, [], false,
    [⟨"FLOOR_PS", 15, 0, .fh, false, 0x9C4⟩]⟩,
  ⟨"PACE_VCORE", 0xF00C, [], false,
    [⟨"EMERG", 31, 24, .rc, false, 0x0⟩, ⟨"AT_MAX", 16, 16, .w1c, false, 0x0⟩, ⟨"VCORE_MV", 15, 0, .ro, false, 0x2EE⟩]⟩,
  ⟨"IMP_CFG", 0x0, [], false,
    [⟨"MS_PERIOD", 31, 25, .fh, false, 0x8⟩, ⟨"GUARD", 24, 12, .fh, false, 0x40⟩, ⟨"HEAD_SHIFT", 11, 8, .fh, false, 0x3⟩, ⟨"SHRINK_N", 7, 0, .fh, false, 0x10⟩]⟩,
  ⟨"IMP_STATUS", 0x4, [], false,
    [⟨"FIRST_USE", 31, 31, .ro, false, 0x1⟩, ⟨"HOLD_HIST", 30, 30, .ro, false, 0x0⟩, ⟨"FIRST_LEFT", 29, 25, .ro, false, 0x10⟩, ⟨"LATE_NOW", 12, 0, .ro, false, 0x0⟩]⟩,
  ⟨"IMP_MS", 0x8, [], false,
    [⟨"MS_NUM", 31, 0, .ro, false, 0x0⟩]⟩,
  ⟨"IMP_EVENT", 0xC, [], false,
    [⟨"ACT_WR", 7, 7, .w1c, false, 0x0⟩, ⟨"FIRST_DONE", 6, 6, .w1c, false, 0x0⟩, ⟨"PACE_WAIT", 5, 5, .w1c, false, 0x0⟩, ⟨"GIVEBACK", 4, 4, .w1c, false, 0x0⟩, ⟨"SHED", 3, 3, .w1c, false, 0x0⟩, ⟨"REFUSED", 2, 2, .w1c, false, 0x0⟩, ⟨"MS_SKIP", 1, 1, .w1c, false, 0x0⟩, ⟨"LATE_SHEET", 0, 0, .w1c, false, 0x0⟩]⟩,
  ⟨"IMP_EVENT_EN", 0x10, [], false,
    [⟨"EN_MASK", 7, 0, .rw, false, 0xFF⟩]⟩,
  ⟨"IMP_COUNT", 0x14, [], false,
    [⟨"MS_SKIP", 31, 16, .rc, false, 0x0⟩, ⟨"ACT_WR", 15, 0, .rc, false, 0x0⟩]⟩,
  ⟨"IMP_RING", 0x20, [], false,
    [⟨"HEAD", 23, 16, .ro, false, 0x0⟩, ⟨"TAIL", 7, 0, .rw, false, 0x0⟩]⟩,
  ⟨"IMP_PORT_CFG", 0x100, [(13, 0x10)], true,
    [⟨"CAP_ENT", 12, 0, .fh, false, 0x0⟩]⟩,
  ⟨"IMP_PORT_CTL", 0x104, [(13, 0x10)], false,
    [⟨"SEAL", 31, 31, .rw, false, 0x0⟩, ⟨"DIRTY", 30, 30, .ro, false, 0x0⟩, ⟨"COPY_BUSY", 29, 29, .ro, false, 0x0⟩, ⟨"BANK", 28, 28, .ro, true, 0x0⟩, ⟨"LATE_LAST", 27, 27, .ro, false, 0x0⟩, ⟨"IDX", 11, 0, .ro, false, 0x0⟩]⟩,
  ⟨"IMP_PORT_CAP", 0x108, [(13, 0x10)], false,
    [⟨"CAP_NOW", 28, 16, .ro, false, 0x0⟩, ⟨"COMMITTED", 12, 0, .rw, false, 0x0⟩]⟩,
  ⟨"IMP_PORT_CNT", 0x10C, [(13, 0x10)], false,
    [⟨"LATE", 31, 16, .rc, false, 0x0⟩, ⟨"SLIP", 15, 0, .rc, false, 0x0⟩]⟩,
  ⟨"IMP_BE", 0x400, [(13, 0x20), (8, 0x4)], true,
    [⟨"BE_MIN", 28, 16, .fh, false, 0x0⟩, ⟨"BE_MAX", 12, 0, .fh, false, 0x1000⟩]⟩]
def impositionRegs : List RegD := impositionRegs0

/-- The registers of the block at 0x100000 (R43). -/
def spineRegs0 : List RegD := [
  ⟨"SP_CFG", 0x0, [], false,
    [⟨"EN", 31, 31, .fh, false, 0x0⟩, ⟨"RATE_MAX", 30, 29, .fh, false, 0x2⟩, ⟨"INIT_PRESET", 28, 26, .fh, false, 0x4⟩, ⟨"REQUAL_EN", 25, 25, .fh, false, 0x0⟩, ⟨"INJ_MISSION", 24, 24, .fh, false, 0x0⟩, ⟨"SPARE_PREF", 23, 21, .fh, false, 0x4⟩]⟩,
  ⟨"SP_CMD", 0x4, [], false,
    [⟨"TEST", 1, 1, .rw, false, 0x0⟩, ⟨"RETRAIN", 0, 0, .wo, false, 0x0⟩]⟩,
  ⟨"SP_STATE", 0x8, [], false,
    [⟨"STATE", 31, 28, .ro, false, 0x0⟩, ⟨"RATE", 27, 26, .ro, true, 0x0⟩, ⟨"NO_SPARE", 25, 25, .ro, true, 0x0⟩, ⟨"RX_ACTIVE", 24, 20, .ro, true, 0x0⟩, ⟨"RX_RETIRED", 19, 15, .ro, true, 0x0⟩, ⟨"TX_ACTIVE", 14, 10, .ro, true, 0x0⟩, ⟨"TX_RETIRED", 9, 5, .ro, true, 0x0⟩, ⟨"TX_NO_SPARE", 4, 4, .ro, true, 0x0⟩, ⟨"RX_NO_SPARE", 3, 3, .ro, true, 0x0⟩]⟩,
  ⟨"SP_EVENT", 0xC, [], false,
    [⟨"RATE_DOWN", 8, 8, .w1c, false, 0x0⟩, ⟨"TRAINED", 7, 7, .w1c, false, 0x0⟩, ⟨"TRAIN_FAIL", 6, 6, .w1c, false, 0x0⟩, ⟨"FCK_LOSS", 5, 5, .w1c, false, 0x0⟩, ⟨"PERM", 4, 4, .w1c, false, 0x0⟩, ⟨"SWAP_DONE", 3, 3, .w1c, false, 0x0⟩, ⟨"SWAP_REFUSED", 2, 2, .w1c, false, 0x0⟩, ⟨"SPARE_LOST", 1, 1, .w1c, false, 0x0⟩, ⟨"REQUAL", 0, 0, .w1c, false, 0x0⟩]⟩,
  ⟨"SP_EVENT_EN", 0x10, [], false,
    [⟨"EN_MASK", 8, 0, .rw, false, 0x1FF⟩]⟩,
  ⟨"SP_CLASS", 0x14, [], false,
    [⟨"PERM_N", 31, 28, .fh, false, 0x4⟩, ⟨"TRANS_MAX", 27, 20, .fh, false, 0x20⟩, ⟨"MARGIN_MIN", 19, 14, .fh, false, 0x8⟩]⟩,
  ⟨"SP_DETOUR", 0x18, [], false,
    [⟨"SWAPS", 31, 24, .ro, true, 0x0⟩, ⟨"LAST_PAUSE_NS", 15, 0, .ro, true, 0x0⟩]⟩,
  ⟨"SP_FCK", 0x20, [], false,
    [⟨"TX_ON", 31, 31, .ro, false, 0x0⟩, ⟨"RX_LOCK", 30, 30, .ro, false, 0x0⟩, ⟨"RX_RATE", 29, 28, .ro, false, 0x0⟩, ⟨"LOSS_CNT", 15, 0, .rc, false, 0x0⟩]⟩,
  ⟨"LN_TX", 0x100, [(5, 0x40)], false,
    [⟨"MAIN", 31, 26, .ro, true, 0x37⟩, ⟨"POST", 25, 21, .ro, true, 0x6⟩, ⟨"PRE", 20, 17, .ro, true, 0x3⟩]⟩,
  ⟨"LN_RX_EQ", 0x104, [(5, 0x40)], false,
    [⟨"FREEZE", 31, 31, .rw, false, 0x0⟩, ⟨"CTLE", 30, 27, .ro, true, 0x0⟩, ⟨"DFE_1", 24, 20, .ro, true, 0x0⟩, ⟨"DFE_2", 19, 15, .ro, true, 0x0⟩, ⟨"DFE_3", 14, 10, .ro, true, 0x0⟩, ⟨"DFE_4", 9, 5, .ro, true, 0x0⟩, ⟨"DFE_5", 4, 0, .ro, true, 0x0⟩]⟩,
  ⟨"LN_RX_STAT", 0x108, [(5, 0x40)], false,
    [⟨"ROLE", 31, 30, .ro, true, 0x3⟩, ⟨"LOGICAL", 29, 27, .ro, true, 0x7⟩, ⟨"POL_INV", 26, 26, .ro, true, 0x0⟩, ⟨"LOCK", 25, 25, .ro, false, 0x0⟩, ⟨"MARGIN", 24, 19, .ro, false, 0x0⟩, ⟨"SKEW", 15, 0, .ro, false, 0x0⟩]⟩,
  ⟨"LN_BIP", 0x10C, [(5, 0x40)], false,
    [⟨"ERR_INT", 31, 16, .rc, false, 0x0⟩, ⟨"BIP_ERR", 15, 0, .rc, false, 0x0⟩]⟩,
  ⟨"LN_CLASS", 0x110, [(5, 0x40)], false,
    [⟨"TRANS_CNT", 31, 24, .ro, false, 0x0⟩, ⟨"ERR16", 23, 20, .ro, false, 0x0⟩, ⟨"RETIRES", 19, 18, .ro, true, 0x0⟩, ⟨"PERM", 0, 0, .ro, true, 0x0⟩]⟩,
  ⟨"LN_RETIRE", 0x114, [(5, 0x40)], false,
    [⟨"CLEAR", 1, 1, .wo, false, 0x0⟩, ⟨"FORCE", 0, 0, .wo, false, 0x0⟩]⟩,
  ⟨"LN_PRBS", 0x118, [(5, 0x40)], false,
    [⟨"GEN_EN", 31, 31, .rw, false, 0x0⟩, ⟨"CHK_EN", 30, 30, .rw, false, 0x0⟩, ⟨"PATTERN", 29, 27, .rw, false, 0x3⟩, ⟨"INV", 26, 26, .rw, false, 0x0⟩, ⟨"CHK_LOCK", 25, 25, .ro, false, 0x0⟩]⟩,
  ⟨"LN_PRBS_ERR", 0x11C, [(5, 0x40)], false,
    [⟨"ERRORS", 31, 0, .rc, false, 0x0⟩]⟩]
def spineRegs1 : List RegD := [
  ⟨"LN_USER_LO", 0x120, [(5, 0x40)], false,
    [⟨"USER_LO", 31, 0, .rw, false, 0x0⟩]⟩,
  ⟨"LN_USER_HI", 0x124, [(5, 0x40)], false,
    [⟨"USER_HI", 31, 0, .rw, false, 0x0⟩]⟩,
  ⟨"LN_INJ", 0x128, [(5, 0x40)], false,
    [⟨"MODE", 31, 30, .rw, false, 0x0⟩, ⟨"GO", 29, 29, .wo, false, 0x0⟩, ⟨"BURST_LEN", 28, 23, .rw, false, 0x1⟩, ⟨"RATE_EXP", 22, 17, .rw, false, 0x14⟩]⟩,
  ⟨"LN_INJ_CNT", 0x12C, [(5, 0x40)], false,
    [⟨"INJ_CNT", 31, 0, .rc, false, 0x0⟩]⟩,
  ⟨"LK_CFG", 0x400, [], false,
    [⟨"DEAD_N", 31, 27, .fh, false, 0x3⟩, ⟨"DEGRADE_EN", 26, 26, .fh, false, 0x1⟩, ⟨"MIN_WIDTH", 25, 24, .fh, false, 0x0⟩, ⟨"RESUME_EN", 23, 23, .fh, false, 0x1⟩, ⟨"UP_HOLD", 22, 18, .fh, false, 0x10⟩, ⟨"ACK_TMO_DFLT", 15, 0, .fh, false, 0xFA0⟩]⟩,
  ⟨"LK_POOL_HI", 0x404, [], false,
    [⟨"POOL_TC7", 31, 24, .fh, false, 0x8⟩, ⟨"POOL_TC6", 23, 16, .fh, false, 0x20⟩, ⟨"POOL_TC5", 15, 8, .fh, false, 0x0⟩, ⟨"POOL_TC4", 7, 0, .fh, false, 0x0⟩]⟩,
  ⟨"LK_POOL_LO", 0x408, [], false,
    [⟨"POOL_TC3", 31, 24, .fh, false, 0x80⟩, ⟨"POOL_TC2", 23, 16, .fh, false, 0x20⟩, ⟨"POOL_TC1", 15, 8, .fh, false, 0x0⟩, ⟨"POOL_TC0", 7, 0, .fh, false, 0x0⟩]⟩,
  ⟨"LK_CMD", 0x40C, [], false,
    [⟨"READMIT", 0, 0, .wo, false, 0x0⟩]⟩,
  ⟨"LK_STATE", 0x410, [], false,
    [⟨"LSTATE", 31, 29, .ro, false, 0x0⟩, ⟨"TX_WIDTH", 28, 27, .ro, true, 0x2⟩, ⟨"RX_WIDTH", 26, 25, .ro, true, 0x2⟩, ⟨"PVER_MAJOR", 24, 21, .ro, false, 0x0⟩, ⟨"PVER_MINOR", 20, 17, .ro, false, 0x0⟩, ⟨"FEAT", 16, 9, .ro, false, 0x0⟩, ⟨"RESUMED", 8, 8, .ro, false, 0x0⟩, ⟨"RETIRED", 7, 7, .ro, true, 0x0⟩]⟩,
  ⟨"LK_PARTNER", 0x414, [], false,
    [⟨"P_ID_V", 31, 31, .ro, false, 0x0⟩, ⟨"P_ROLE", 30, 30, .ro, false, 0x0⟩, ⟨"P_HUB_ID", 26, 16, .ro, false, 0x0⟩, ⟨"P_INC", 15, 0, .ro, false, 0x0⟩]⟩,
  ⟨"LK_PARTNER_SER_LO", 0x418, [], false,
    [⟨"P_SER_LO", 31, 0, .ro, false, 0x0⟩]⟩,
  ⟨"LK_PARTNER_SER_HI", 0x41C, [], false,
    [⟨"P_SER_HI", 31, 0, .ro, false, 0x0⟩]⟩,
  ⟨"LK_SEQ_TX", 0x420, [], false,
    [⟨"OLDEST", 27, 16, .ro, false, 0x0⟩, ⟨"NEXT_TX", 11, 0, .ro, false, 0x0⟩]⟩,
  ⟨"LK_SEQ_RX", 0x424, [], false,
    [⟨"EXPECTED", 27, 16, .ro, false, 0x0⟩, ⟨"ACK_SENT", 11, 0, .ro, false, 0xFFF⟩]⟩,
  ⟨"LK_ACK_TMO", 0x428, [], false,
    [⟨"MEASURED", 31, 31, .ro, false, 0x0⟩, ⟨"TMO_NS", 15, 0, .ro, false, 0xFA0⟩]⟩,
  ⟨"LK_EVENT", 0x42C, [], false,
    [⟨"ID_NONE", 14, 14, .w1c, false, 0x0⟩, ⟨"MS_MISMATCH", 13, 13, .w1c, false, 0x0⟩, ⟨"POOL_BAD", 12, 12, .w1c, false, 0x0⟩, ⟨"CAPS_REJECT", 11, 11, .w1c, false, 0x0⟩, ⟨"VER_LIMIT", 10, 10, .w1c, false, 0x0⟩, ⟨"LOST", 9, 9, .w1c, false, 0x0⟩, ⟨"PORT_RETIRED", 8, 8, .w1c, false, 0x0⟩, ⟨"NARROWED", 7, 7, .w1c, false, 0x0⟩, ⟨"REPLAY_FAIL", 6, 6, .w1c, false, 0x0⟩, ⟨"REJOIN_RCVD", 5, 5, .w1c, false, 0x0⟩, ⟨"FENCE", 4, 4, .w1c, false, 0x0⟩, ⟨"REVIVE", 3, 3, .w1c, false, 0x0⟩, ⟨"DEAD", 2, 2, .w1c, false, 0x0⟩, ⟨"PORT_UP", 1, 1, .w1c, false, 0x0⟩, ⟨"PORT_DOWN", 0, 0, .w1c, false, 0x0⟩]⟩]
def spineRegs2 : List RegD := [
  ⟨"LK_EVENT_EN", 0x430, [], false,
    [⟨"EN_MASK", 14, 0, .rw, false, 0x7FFF⟩]⟩,
  ⟨"LK_CRC_ERR", 0x434, [], false,
    [⟨"CRC_ERR", 31, 0, .rc, false, 0x0⟩]⟩,
  ⟨"LK_NAK", 0x438, [], false,
    [⟨"NAK_TX", 31, 16, .rc, false, 0x0⟩, ⟨"NAK_RX", 15, 0, .rc, false, 0x0⟩]⟩,
  ⟨"LK_REPLAY", 0x43C, [], false,
    [⟨"TMO", 31, 24, .rc, false, 0x0⟩, ⟨"REPLAYED", 23, 0, .rc, false, 0x0⟩]⟩,
  ⟨"LK_DISCARD", 0x440, [], false,
    [⟨"DUP", 31, 16, .rc, false, 0x0⟩, ⟨"FENCED", 15, 0, .rc, false, 0x0⟩]⟩,
  ⟨"LK_BEACON", 0x444, [], false,
    [⟨"MISS", 31, 27, .ro, false, 0x0⟩, ⟨"MISSED", 15, 0, .rc, false, 0x0⟩]⟩,
  ⟨"LK_LOST", 0x448, [], false,
    [⟨"LOST", 31, 16, .rc, false, 0x0⟩, ⟨"MALFORMED", 15, 8, .rc, false, 0x0⟩, ⟨"BAD_ACK", 7, 0, .rc, false, 0x0⟩]⟩,
  ⟨"LK_CREDIT_STALL", 0x44C, [], false,
    [⟨"STALL", 31, 0, .rc, false, 0x0⟩]⟩]
def spineRegs : List RegD := spineRegs0 ++ spineRegs1 ++ spineRegs2

/-- The registers of the block at 0x200000 (R43). -/
def junctionRegs0 : List RegD := [
  ⟨"JN_CFG", 0x0, [], false,
    [⟨"LOSSLESS", 31, 24, .fh, false, 0xCC⟩, ⟨"MIR_TC", 23, 21, .fh, false, 0x0⟩, ⟨"MIR_FREE", 20, 9, .fh, false, 0x200⟩]⟩,
  ⟨"JN_RSV", 0x4, [], false,
    [⟨"LOCAL_RSV", 11, 0, .fh, false, 0x100⟩]⟩,
  ⟨"JN_MP_CFG", 0x8, [], false,
    [⟨"MP_HOLD", 7, 0, .fh, false, 0x14⟩]⟩,
  ⟨"JN_STATUS", 0xC, [], false,
    [⟨"MP_FAIL", 19, 16, .ro, false, 0x0⟩, ⟨"DRAINING", 15, 12, .ro, false, 0x0⟩, ⟨"LL_PENDING", 11, 8, .ro, false, 0x0⟩]⟩,
  ⟨"JN_EVENT", 0x10, [], false,
    [⟨"LL_PENDING", 10, 10, .w1c, false, 0x0⟩, ⟨"MP_RETURN", 9, 9, .w1c, false, 0x0⟩, ⟨"MP_FAIL", 8, 8, .w1c, false, 0x0⟩, ⟨"NO_PATH", 7, 7, .w1c, false, 0x0⟩, ⟨"LOOP", 6, 6, .w1c, false, 0x0⟩, ⟨"UNROUTE", 5, 5, .w1c, false, 0x0⟩, ⟨"MISROUTE", 4, 4, .w1c, false, 0x0⟩, ⟨"MALFORMED", 3, 3, .w1c, false, 0x0⟩, ⟨"ROW_REPAIR", 2, 2, .w1c, false, 0x0⟩, ⟨"ECC_UE", 1, 1, .w1c, false, 0x0⟩, ⟨"ECC_CE", 0, 0, .w1c, false, 0x0⟩]⟩,
  ⟨"JN_EVENT_EN", 0x14, [], false,
    [⟨"EN_MASK", 10, 0, .rw, false, 0x7FE⟩]⟩,
  ⟨"JN_IN_DROP", 0x200, [(16, 0x10)], false,
    [⟨"TAIL", 31, 16, .rc, false, 0x0⟩, ⟨"MIR_DROP", 15, 0, .rc, false, 0x0⟩]⟩,
  ⟨"JN_IN_BAD", 0x204, [(16, 0x10)], false,
    [⟨"MISROUTE", 31, 24, .rc, false, 0x0⟩, ⟨"UNROUTE", 23, 16, .rc, false, 0x0⟩, ⟨"MALFORMED", 15, 8, .rc, false, 0x0⟩, ⟨"LOOP", 7, 0, .rc, false, 0x0⟩]⟩,
  ⟨"JN_IN_ECC", 0x208, [(16, 0x10)], false,
    [⟨"ECC_CE", 31, 16, .rc, false, 0x0⟩, ⟨"ECC_UE", 15, 8, .rc, false, 0x0⟩, ⟨"NO_PATH", 7, 0, .rc, false, 0x0⟩]⟩,
  ⟨"JN_IN_OCC", 0x20C, [(16, 0x10)], false,
    [⟨"PEAK", 28, 16, .rc, false, 0x0⟩, ⟨"OCC", 12, 0, .ro, false, 0x0⟩]⟩,
  ⟨"JN_OUT_MARK", 0x300, [(16, 0x4)], false,
    [⟨"MARKED", 31, 0, .rc, false, 0x0⟩]⟩,
  ⟨"JN_MIR_CFG", 0x400, [(8, 0x10)], false,
    [⟨"EN", 31, 31, .fh, false, 0x0⟩, ⟨"SEL", 30, 29, .fh, false, 0x3⟩, ⟨"DIR", 28, 27, .fh, false, 0x0⟩, ⟨"PORT", 26, 23, .fh, false, 0x0⟩]⟩,
  ⟨"JN_MIR_MATCH", 0x404, [(8, 0x10)], false,
    [⟨"M_HUB", 31, 21, .fh, false, 0x0⟩, ⟨"M_ADP", 20, 16, .fh, false, 0x0⟩, ⟨"M_KEY", 11, 0, .fh, false, 0x0⟩]⟩,
  ⟨"JN_MIR_RATE", 0x408, [(8, 0x10)], false,
    [⟨"N", 31, 16, .fh, false, 0x1⟩]⟩,
  ⟨"JN_MIR_TGT", 0x40C, [(8, 0x10)], false,
    [⟨"T_HUB", 31, 21, .fh, false, 0x0⟩, ⟨"T_ADP", 20, 16, .fh, false, 0x7⟩, ⟨"T_TUNNEL", 11, 0, .fh, false, 0x0⟩]⟩,
  ⟨"JN_MIR_COPIES", 0x480, [(8, 0x4)], false,
    [⟨"COPIES", 31, 0, .rc, false, 0x0⟩]⟩]
def junctionRegs1 : List RegD := [
  ⟨"JN_MARK", 0x800, [(16, 0x20), (8, 0x4)], false,
    [⟨"MARK_EN", 31, 31, .fh, false, 0x0⟩, ⟨"THRESH", 11, 0, .fh, false, 0x40⟩]⟩,
  ⟨"JN_LIMIT", 0x1000, [(16, 0x200), (16, 0x20), (8, 0x4)], false,
    [⟨"LIMIT", 12, 0, .fh, false, 0x200⟩]⟩,
  ⟨"JN_ROUTE", 0x4000, [(2048, 0x4)], false,
    [⟨"KIND", 31, 30, .fh, false, 0x0⟩, ⟨"GROUP", 7, 2, .fh, false, 0x0⟩, ⟨"PORT", 1, 0, .fh, false, 0x0⟩]⟩,
  ⟨"JN_GROUP", 0x6000, [(64, 0x4)], false,
    [⟨"COUNT", 28, 26, .fh, false, 0x0⟩, ⟨"SEED", 23, 16, .fh, false, 0x0⟩, ⟨"M3", 7, 6, .fh, false, 0x0⟩, ⟨"M2", 5, 4, .fh, false, 0x0⟩, ⟨"M1", 3, 2, .fh, false, 0x0⟩, ⟨"M0", 1, 0, .fh, false, 0x0⟩]⟩,
  ⟨"JN_BUCKET", 0x8000, [(64, 0x40), (16, 0x4)], false,
    [⟨"B", 31, 0, .fh, false, 0xE4E4E4E4⟩]⟩]
def junctionRegs : List RegD := junctionRegs0 ++ junctionRegs1

/-- The registers of the block at 0x300000 (R43). -/
def displayRegs0 : List RegD := [
  ⟨"DA_CFG", 0x0, [], false,
    [⟨"CAP_EN", 31, 31, .fh, false, 0x0⟩, ⟨"CAP_SRC", 30, 29, .fh, false, 0x0⟩, ⟨"CAP_PSR", 28, 28, .fh, false, 0x0⟩, ⟨"AS_STRETCH", 27, 27, .fh, false, 0x0⟩, ⟨"STATIC_MODE", 26, 26, .fh, false, 0x0⟩, ⟨"STATIC_N", 25, 22, .fh, false, 0x2⟩, ⟨"PL_EN", 21, 21, .fh, false, 0x0⟩, ⟨"PL_EDP", 20, 20, .fh, false, 0x0⟩, ⟨"PSR_EN", 19, 19, .fh, false, 0x0⟩, ⟨"OUT_BPC", 18, 17, .fh, false, 0x2⟩, ⟨"PL_LANES", 16, 15, .fh, false, 0x2⟩, ⟨"PL_RATE", 14, 12, .fh, false, 0x3⟩]⟩,
  ⟨"DA_CAP_TUN", 0x4, [], false,
    [⟨"DEST_HUB", 31, 21, .fh, false, 0x0⟩, ⟨"DEST_ADP", 20, 16, .fh, false, 0x4⟩, ⟨"TUNNEL", 11, 0, .fh, false, 0x0⟩]⟩,
  ⟨"DA_CAP_AUX", 0x8, [], false,
    [⟨"CAP_FLOW", 31, 21, .fh, false, 0x0⟩, ⟨"GB_VBMAX", 20, 9, .fh, false, 0x2D⟩]⟩,
  ⟨"DA_CAP_EXP_H", 0xC, [], false,
    [⟨"EXP_W", 27, 16, .fh, false, 0x780⟩, ⟨"EXP_BPC", 1, 0, .fh, false, 0x1⟩]⟩,
  ⟨"DA_CAP_EXP_V", 0x10, [], false,
    [⟨"EXP_H", 31, 20, .fh, false, 0x438⟩, ⟨"AS_MAX_HZ", 19, 10, .fh, false, 0x3C⟩, ⟨"AS_MIN_HZ", 9, 0, .fh, false, 0x28⟩]⟩,
  ⟨"DA_CAP_MEAS", 0x14, [], false,
    [⟨"M_W", 31, 20, .ro, false, 0x0⟩, ⟨"M_VTOT", 19, 8, .ro, false, 0x0⟩, ⟨"M_BPC", 7, 6, .ro, false, 0x0⟩, ⟨"LINK_UP", 5, 5, .ro, false, 0x0⟩, ⟨"M_LANES", 4, 3, .ro, false, 0x0⟩, ⟨"M_RATE", 2, 0, .ro, false, 0x0⟩]⟩,
  ⟨"DA_CAP_RATE", 0x18, [], false,
    [⟨"NOM_RU", 31, 16, .ro, false, 0x0⟩, ⟨"V_G", 15, 0, .ro, false, 0x0⟩]⟩,
  ⟨"DA_CAP_CNT", 0x1C, [], false,
    [⟨"CAP_DROP", 31, 16, .rc, false, 0x0⟩, ⟨"FRAME_SKIP", 15, 8, .rc, false, 0x0⟩, ⟨"SDP_DROP", 7, 0, .rc, false, 0x0⟩]⟩,
  ⟨"DA_PL_TUN", 0x20, [], false,
    [⟨"PL_RET_HUB", 31, 21, .fh, false, 0x0⟩, ⟨"PL_RET_ADP", 20, 16, .fh, false, 0x4⟩, ⟨"START_LAG", 15, 12, .fh, false, 0x2⟩, ⟨"PL_TUNNEL", 11, 0, .fh, false, 0x0⟩]⟩,
  ⟨"DA_PL_H", 0x24, [], false,
    [⟨"PL_H_ACTIVE", 31, 20, .fh, false, 0x780⟩, ⟨"PL_H_TOTAL", 19, 7, .fh, false, 0x898⟩]⟩,
  ⟨"DA_PL_HSYNC", 0x28, [], false,
    [⟨"HS_POL", 31, 31, .fh, false, 0x0⟩, ⟨"HS_START", 16, 8, .fh, false, 0x58⟩, ⟨"HS_WIDTH", 7, 0, .fh, false, 0x2C⟩]⟩,
  ⟨"DA_PL_V", 0x2C, [], false,
    [⟨"VS_POL", 31, 31, .fh, false, 0x0⟩, ⟨"PL_V_ACTIVE", 30, 19, .fh, false, 0x438⟩, ⟨"VS_START", 18, 11, .fh, false, 0x4⟩, ⟨"VS_WIDTH", 10, 4, .fh, false, 0x5⟩]⟩,
  ⟨"DA_PL_VB", 0x30, [], false,
    [⟨"VBLANK_MIN", 27, 16, .fh, false, 0x2D⟩, ⟨"VBLANK_MAX", 11, 0, .fh, false, 0x2D⟩]⟩,
  ⟨"DA_PL_CLK", 0x34, [], false,
    [⟨"PCLK_KHZ", 19, 0, .fh, false, 0x24414⟩]⟩,
  ⟨"DA_PL_BG", 0x38, [], false,
    [⟨"BG", 29, 0, .fh, false, 0x0⟩]⟩,
  ⟨"DA_PL_STATUS", 0x3C, [], false,
    [⟨"PL_STATE", 31, 29, .ro, false, 0x0⟩, ⟨"HPD", 28, 28, .ro, false, 0x0⟩, ⟨"PL_FRAME", 27, 20, .ro, false, 0x0⟩, ⟨"PL_LINE", 19, 8, .ro, false, 0x0⟩, ⟨"IN_BLANK", 7, 7, .ro, false, 0x0⟩]⟩]
def displayRegs1 : List RegD := [
  ⟨"DA_PL_CNT", 0x40, [], false,
    [⟨"UNDERRUN", 31, 16, .rc, false, 0x0⟩, ⟨"LATE_LINE", 15, 8, .rc, false, 0x0⟩, ⟨"OVERFLOW", 7, 0, .rc, false, 0x0⟩]⟩,
  ⟨"DA_PL_CNT2", 0x44, [], false,
    [⟨"FOREIGN", 31, 16, .rc, false, 0x0⟩, ⟨"DESC_ERR", 15, 8, .rc, false, 0x0⟩, ⟨"STALE", 7, 4, .rc, false, 0x0⟩]⟩,
  ⟨"DA_PL_VMAX", 0x48, [], false,
    [⟨"VMAX_START", 31, 0, .rc, false, 0x0⟩]⟩,
  ⟨"DA_CAP_LINE", 0x4C, [], false,
    [⟨"M_LRATE", 31, 12, .ro, false, 0x0⟩, ⟨"M_CELLS", 7, 0, .ro, false, 0x0⟩]⟩,
  ⟨"DA_AUX_CTL", 0x50, [], false,
    [⟨"GO", 31, 31, .wo, false, 0x0⟩, ⟨"BUSY", 30, 30, .ro, false, 0x0⟩, ⟨"RESULT", 29, 28, .ro, false, 0x0⟩, ⟨"CMD", 27, 24, .rw, false, 0x0⟩, ⟨"LEN_M1", 23, 20, .rw, false, 0x0⟩, ⟨"ADDR", 19, 0, .rw, false, 0x0⟩]⟩,
  ⟨"DA_AUX_DATA", 0x54, [(4, 0x4)], false,
    [⟨"DATA", 31, 0, .rw, false, 0x0⟩]⟩,
  ⟨"DA_EVENT", 0x64, [], false,
    [⟨"FAR_HPD", 10, 10, .w1c, false, 0x0⟩, ⟨"KA_LOST", 9, 9, .w1c, false, 0x0⟩, ⟨"PSR_EXIT", 8, 8, .w1c, false, 0x0⟩, ⟨"PSR_ENTER", 7, 7, .w1c, false, 0x0⟩, ⟨"HPD_IRQ", 6, 6, .w1c, false, 0x0⟩, ⟨"HPD_CHG", 5, 5, .w1c, false, 0x0⟩, ⟨"LINK_BW", 4, 4, .w1c, false, 0x0⟩, ⟨"UNDERRUN", 3, 3, .w1c, false, 0x0⟩, ⟨"MODE_MISMATCH", 2, 2, .w1c, false, 0x0⟩, ⟨"CAP_LINK", 1, 1, .w1c, false, 0x0⟩, ⟨"CFG_BAD", 0, 0, .w1c, false, 0x0⟩]⟩,
  ⟨"DA_EVENT_EN", 0x68, [], false,
    [⟨"EN_MASK", 10, 0, .rw, false, 0x7F7⟩]⟩]
def displayRegs : List RegD := displayRegs0 ++ displayRegs1

/-- The registers of the block at 0x340000 (R43). -/
def pcieRegs0 : List RegD := [
  ⟨"PX_CFG", 0x0, [], false,
    [⟨"EN", 31, 31, .fh, false, 0x0⟩, ⟨"MODE", 30, 30, .fh, false, 0x0⟩, ⟨"MAX_WIDTH", 29, 28, .fh, false, 0x2⟩, ⟨"MAX_SPEED", 27, 26, .fh, false, 0x3⟩, ⟨"VP_COUNT", 25, 22, .fh, false, 0x0⟩, ⟨"BIND_TMO", 21, 16, .fh, false, 0x4⟩, ⟨"TUN_BASE", 15, 4, .fh, false, 0x0⟩]⟩,
  ⟨"PX_ID", 0x4, [], false,
    [⟨"PCI_DID", 31, 16, .fh, false, 0x4816⟩, ⟨"PCI_VID", 15, 0, .fh, false, 0x0⟩]⟩,
  ⟨"PX_LINK", 0x8, [], false,
    [⟨"LTSSM", 31, 26, .ro, false, 0x0⟩, ⟨"DL_UP", 25, 25, .ro, false, 0x0⟩, ⟨"NEG_WIDTH", 24, 23, .ro, false, 0x0⟩, ⟨"NEG_SPEED", 22, 21, .ro, false, 0x0⟩, ⟨"PERST", 20, 20, .ro, false, 0x0⟩]⟩,
  ⟨"PX_DB", 0xC, [], false,
    [⟨"BOUND", 31, 31, .ro, false, 0x0⟩, ⟨"BOUND_HUB", 30, 20, .ro, false, 0x0⟩, ⟨"BOUND_TUN", 19, 8, .ro, false, 0x0⟩, ⟨"DB_EPOCH", 7, 0, .ro, false, 0x0⟩]⟩,
  ⟨"PX_DB_CREDIT", 0x10, [], false,
    [⟨"CR_P", 31, 24, .fh, false, 0x18⟩, ⟨"CR_NP", 23, 16, .fh, false, 0x4⟩, ⟨"CR_CPL", 15, 8, .fh, false, 0x20⟩]⟩,
  ⟨"PX_EVENT", 0x80, [], false,
    [⟨"CFG_BAD", 7, 7, .w1c, false, 0x0⟩, ⟨"LINK_CHG", 6, 6, .w1c, false, 0x0⟩, ⟨"TUN_MALFORMED", 5, 5, .w1c, false, 0x0⟩, ⟨"TLP_GAP", 4, 4, .w1c, false, 0x0⟩, ⟨"SURPRISE", 3, 3, .w1c, false, 0x0⟩, ⟨"BIND_REFUSED", 2, 2, .w1c, false, 0x0⟩, ⟨"BIND_DOWN", 1, 1, .w1c, false, 0x0⟩, ⟨"BIND_UP", 0, 0, .w1c, false, 0x0⟩]⟩,
  ⟨"PX_EVENT_EN", 0x84, [], false,
    [⟨"EN_MASK", 7, 0, .rw, false, 0xFF⟩]⟩,
  ⟨"PX_CNT", 0x88, [], false,
    [⟨"TUN_MALFORMED", 31, 16, .rc, false, 0x0⟩, ⟨"P2P_DROP", 15, 0, .rc, false, 0x0⟩]⟩,
  ⟨"PX_VP_BIND", 0x100, [(8, 0x10)], false,
    [⟨"VP_EN", 31, 31, .fh, false, 0x0⟩, ⟨"DB_HUB", 30, 20, .fh, false, 0x0⟩, ⟨"DB_TUNNEL", 19, 8, .fh, false, 0x0⟩]⟩,
  ⟨"PX_VP_CREDIT", 0x104, [(8, 0x10)], false,
    [⟨"CR_P", 31, 24, .fh, false, 0x18⟩, ⟨"CR_NP", 23, 16, .fh, false, 0x4⟩, ⟨"CR_CPL", 15, 8, .fh, false, 0x20⟩]⟩,
  ⟨"PX_VP_STATUS", 0x108, [(8, 0x10)], false,
    [⟨"BSTATE", 31, 29, .ro, false, 0x0⟩, ⟨"REM_WIDTH", 28, 27, .ro, false, 0x0⟩, ⟨"REM_SPEED", 26, 25, .ro, false, 0x0⟩, ⟨"EPOCH", 24, 17, .ro, false, 0x0⟩, ⟨"NP_OUT", 16, 8, .ro, false, 0x0⟩]⟩,
  ⟨"PX_VP_CNT", 0x10C, [(8, 0x10)], false,
    [⟨"TLP_GAP", 31, 16, .rc, false, 0x0⟩, ⟨"UR_DONE", 15, 8, .rc, false, 0x0⟩, ⟨"UNEXP_CPL", 7, 0, .rc, false, 0x0⟩]⟩]
def pcieRegs : List RegD := pcieRegs0

/-- The registers of the block at 0x360000 (R43). -/
def ethernetRegs0 : List RegD := [
  ⟨"EN_CFG", 0x0, [], false,
    [⟨"EN", 31, 31, .fh, false, 0x0⟩, ⟨"EMODE", 30, 28, .fh, false, 0x0⟩, ⟨"AN_EN", 27, 27, .fh, false, 0x1⟩, ⟨"PAUSE_RX", 26, 26, .fh, false, 0x0⟩, ⟨"PTP_EN", 25, 25, .fh, false, 0x0⟩, ⟨"ECN_EN", 24, 24, .fh, false, 0x1⟩, ⟨"AN_PORT", 23, 23, .fh, false, 0x0⟩, ⟨"MISS_PIPE", 22, 22, .fh, false, 0x1⟩, ⟨"MTU", 21, 8, .fh, false, 0x5F2⟩]⟩,
  ⟨"EN_PORT", 0x4, [], false,
    [⟨"ACCEPT", 31, 30, .fh, false, 0x0⟩, ⟨"PVID", 29, 18, .fh, false, 0x1⟩, ⟨"PIPE_TC", 17, 15, .fh, false, 0x1⟩, ⟨"PIPE_FLOW", 14, 4, .fh, false, 0x0⟩]⟩,
  ⟨"EN_PIPE", 0x8, [], false,
    [⟨"P_HUB", 31, 21, .fh, false, 0x0⟩, ⟨"P_ADP", 20, 16, .fh, false, 0x7⟩, ⟨"P_TUNNEL", 11, 0, .fh, false, 0x0⟩]⟩,
  ⟨"EN_TBL", 0xC, [], true,
    [⟨"FWD_OFS", 31, 16, .fh, false, 0x0⟩, ⟨"EGR_OFS", 15, 0, .fh, false, 0x0⟩]⟩,
  ⟨"EN_AN_MAC0", 0x10, [], false,
    [⟨"AN_DA_LO", 31, 0, .fh, false, 0xFFFFFFFF⟩]⟩,
  ⟨"EN_AN_MAC1", 0x14, [], false,
    [⟨"AN_SA_HI", 31, 16, .fh, false, 0x0⟩, ⟨"AN_DA_HI", 15, 0, .fh, false, 0xFFFF⟩]⟩,
  ⟨"EN_AN_MAC2", 0x18, [], false,
    [⟨"AN_SA_LO", 31, 0, .fh, false, 0x0⟩]⟩,
  ⟨"EN_STATUS", 0x20, [], false,
    [⟨"LINK_UP", 31, 31, .ro, false, 0x0⟩, ⟨"SG_SPEED", 30, 29, .ro, false, 0x0⟩, ⟨"PAUSED", 28, 28, .ro, false, 0x0⟩, ⟨"CTX_USED", 27, 21, .ro, false, 0x0⟩]⟩,
  ⟨"EN_EVENT", 0x40, [], false,
    [⟨"CFG_BAD", 4, 4, .w1c, false, 0x0⟩, ⟨"E2E_FCS", 3, 3, .w1c, false, 0x0⟩, ⟨"CTX_FULL", 2, 2, .w1c, false, 0x0⟩, ⟨"IN_FULL", 1, 1, .w1c, false, 0x0⟩, ⟨"LINK_CHG", 0, 0, .w1c, false, 0x0⟩]⟩,
  ⟨"EN_EVENT_EN", 0x44, [], false,
    [⟨"EN_MASK", 4, 0, .rw, false, 0x1F⟩]⟩,
  ⟨"EN_RX_CNT", 0x50, [], false,
    [⟨"RX_FRAMES", 31, 0, .rc, false, 0x0⟩]⟩,
  ⟨"EN_RX_DROP", 0x54, [], false,
    [⟨"FCS_ERR", 31, 24, .rc, false, 0x0⟩, ⟨"SIZE_ERR", 23, 16, .rc, false, 0x0⟩, ⟨"IN_FULL", 15, 8, .rc, false, 0x0⟩, ⟨"FILTERED", 7, 0, .rc, false, 0x0⟩]⟩,
  ⟨"EN_TX_CNT", 0x58, [], false,
    [⟨"TX_FRAMES", 31, 0, .rc, false, 0x0⟩]⟩,
  ⟨"EN_TX_DROP", 0x5C, [], false,
    [⟨"E2E_FCS", 31, 24, .rc, false, 0x0⟩, ⟨"REASM", 23, 16, .rc, false, 0x0⟩, ⟨"CTX_FULL", 15, 8, .rc, false, 0x0⟩, ⟨"MIR_DISC", 7, 0, .rc, false, 0x0⟩]⟩,
  ⟨"EN_ECN", 0x60, [], false,
    [⟨"ECN_MARKED", 31, 16, .rc, false, 0x0⟩, ⟨"NOT_ECT", 15, 0, .rc, false, 0x0⟩]⟩,
  ⟨"EN_TS_RX", 0x68, [], false,
    [⟨"TS_RX_NS", 31, 0, .ro, false, 0x0⟩]⟩]
def ethernetRegs1 : List RegD := [
  ⟨"EN_TS_TX", 0x6C, [], false,
    [⟨"TS_TX_NS", 31, 0, .ro, false, 0x0⟩]⟩]
def ethernetRegs : List RegD := ethernetRegs0 ++ ethernetRegs1

/-- The registers of the block at 0x380000 (R43). -/
def bridgeRegs0 : List RegD := [
  ⟨"LB_CFG", 0x0, [], false,
    [⟨"EN", 31, 31, .fh, false, 0x0⟩, ⟨"LB_FREQ", 30, 29, .fh, false, 0x3⟩, ⟨"NP_MODE", 28, 28, .fh, false, 0x0⟩, ⟨"WAIT_MAX", 27, 16, .fh, false, 0x100⟩, ⟨"FAR_TMO", 15, 0, .fh, false, 0x64⟩]⟩,
  ⟨"LB_CFG2", 0x4, [], false,
    [⟨"DLY_DISCARD", 31, 16, .fh, false, 0x3E8⟩, ⟨"PI_LB_BASE", 15, 1, .fh, false, 0x7FFF⟩, ⟨"PI_LB_EN", 0, 0, .fh, false, 0x0⟩]⟩,
  ⟨"LB_STATUS", 0x8, [], false,
    [⟨"OWNER", 31, 30, .ro, false, 0x0⟩, ⟨"IN_P", 29, 20, .ro, false, 0x0⟩, ⟨"IN_NP", 19, 10, .ro, false, 0x0⟩, ⟨"DLY_USED", 9, 6, .ro, false, 0x0⟩]⟩,
  ⟨"LB_EVENT", 0xC, [], false,
    [⟨"CFG_BAD", 8, 8, .w1c, false, 0x0⟩, ⟨"SB_LOSS", 7, 7, .w1c, false, 0x0⟩, ⟨"PI_STALE", 6, 6, .w1c, false, 0x0⟩, ⟨"RESTART", 5, 5, .w1c, false, 0x0⟩, ⟨"FENCE", 4, 4, .w1c, false, 0x0⟩, ⟨"NP_TMO", 3, 3, .w1c, false, 0x0⟩, ⟨"BUS_ERR", 2, 2, .w1c, false, 0x0⟩, ⟨"NO_WIN", 1, 1, .w1c, false, 0x0⟩, ⟨"FAR_ERR", 0, 0, .w1c, false, 0x0⟩]⟩,
  ⟨"LB_EVENT_EN", 0x10, [], false,
    [⟨"EN_MASK", 8, 0, .rw, false, 0x1FF⟩]⟩,
  ⟨"LB_CNT", 0x14, [], false,
    [⟨"NO_WIN", 31, 24, .rc, false, 0x0⟩, ⟨"LATE_CPL", 23, 16, .rc, false, 0x0⟩, ⟨"DLY_DISCARD", 15, 8, .rc, false, 0x0⟩, ⟨"BUS_TMO", 7, 0, .rc, false, 0x0⟩]⟩,
  ⟨"LB_CNT2", 0x18, [], false,
    [⟨"FENCE_DROP", 31, 16, .rc, false, 0x0⟩, ⟨"BUS_ERR", 15, 8, .rc, false, 0x0⟩, ⟨"FEL_LOST", 7, 0, .rc, true, 0x0⟩]⟩,
  ⟨"SB_CFG", 0x20, [], false,
    [⟨"SB_EN", 31, 31, .fh, false, 0x0⟩, ⟨"SB_PERIOD_US", 30, 17, .fh, false, 0x64⟩, ⟨"SB_FILT", 16, 15, .fh, false, 0x1⟩, ⟨"SB_TC", 14, 12, .fh, false, 0x6⟩, ⟨"SB_DEST_HUB", 11, 1, .fh, false, 0x0⟩]⟩,
  ⟨"SB_SRC", 0x24, [], false,
    [⟨"SB_SRC_HUB", 31, 21, .fh, false, 0x0⟩, ⟨"SB_LOSS", 20, 16, .fh, false, 0x3⟩, ⟨"SB_REMOTE", 15, 0, .fh, false, 0x0⟩]⟩,
  ⟨"SB_OUT", 0x28, [], false,
    [⟨"SB_SAFE", 31, 16, .fh, false, 0x0⟩, ⟨"SB_OUT_REG", 15, 0, .rw, true, 0x0⟩]⟩,
  ⟨"SB_STATE", 0x2C, [], false,
    [⟨"IN_NOW", 31, 16, .ro, false, 0x0⟩, ⟨"OUT_NOW", 15, 0, .ro, false, 0x0⟩]⟩,
  ⟨"LB_WIN_OUT", 0x100, [(32, 0x10)], false,
    [⟨"BASE", 31, 12, .fh, false, 0x0⟩, ⟨"OUT_EN", 11, 11, .fh, false, 0x0⟩, ⟨"FENCE_EN", 10, 10, .fh, false, 0x0⟩, ⟨"W_TC", 9, 7, .fh, false, 0x6⟩, ⟨"SIZE", 4, 0, .fh, false, 0xC⟩]⟩,
  ⟨"LB_WIN_TGT", 0x104, [(32, 0x10)], false,
    [⟨"T_HUB", 31, 21, .fh, false, 0x0⟩, ⟨"T_WIN", 20, 16, .fh, false, 0x0⟩, ⟨"WMODE", 15, 8, .fh, false, 0x0⟩, ⟨"P_CR", 7, 4, .fh, false, 0x4⟩, ⟨"NP_CR", 3, 0, .fh, false, 0x4⟩]⟩,
  ⟨"LB_WIN_IN", 0x108, [(32, 0x10)], false,
    [⟨"IN_BASE", 31, 12, .fh, false, 0x0⟩, ⟨"IN_EN", 11, 11, .fh, false, 0x0⟩, ⟨"IN_CS", 10, 9, .fh, false, 0x0⟩, ⟨"IN_P_CR", 8, 5, .fh, false, 0x4⟩, ⟨"IN_NP_CR", 4, 1, .fh, false, 0x4⟩]⟩,
  ⟨"LB_WIN_CTL", 0x10C, [(32, 0x10)], false,
    [⟨"IN_HUB", 31, 21, .fh, false, 0x0⟩, ⟨"IN_IWIN", 20, 16, .fh, false, 0x0⟩, ⟨"FENCED", 15, 15, .w1c, true, 0x0⟩, ⟨"NP_OUT", 9, 5, .ro, false, 0x0⟩]⟩,
  ⟨"LB_FEL_HDR", 0x400, [(16, 0x20)], false,
    [⟨"V", 31, 31, .w1c, true, 0x0⟩, ⟨"CODE", 30, 27, .ro, true, 0x0⟩, ⟨"INIT", 26, 26, .ro, true, 0x0⟩, ⟨"WIN_SIG", 25, 16, .ro, true, 0x0⟩, ⟨"FAR_HUB", 10, 0, .ro, true, 0x0⟩]⟩]
def bridgeRegs1 : List RegD := [
  ⟨"LB_FEL_ADDR", 0x404, [(16, 0x20)], false,
    [⟨"ADDR", 31, 0, .ro, true, 0x0⟩]⟩,
  ⟨"LB_FEL_TIME_HI", 0x408, [(16, 0x20)], false,
    [⟨"LOST_CNT", 31, 16, .ro, true, 0x0⟩, ⟨"SEC_HI", 15, 0, .ro, true, 0x0⟩]⟩,
  ⟨"LB_FEL_TIME_LO", 0x40C, [(16, 0x20)], false,
    [⟨"SEC_LO", 31, 0, .ro, true, 0x0⟩]⟩,
  ⟨"LB_FEL_NS", 0x410, [(16, 0x20)], false,
    [⟨"NS", 31, 0, .ro, true, 0x0⟩]⟩,
  ⟨"PI_STALE", 0x800, [(32, 0x4)], false,
    [⟨"STALE", 31, 0, .ro, false, 0x0⟩]⟩]
def bridgeRegs : List RegD := bridgeRegs0 ++ bridgeRegs1

/-- The registers of the block at 0x60000 (R43). -/
def timeRegs0 : List RegD := [
  ⟨"TM_CFG", 0x0, [], false,
    [⟨"SPINE_EN", 31, 28, .fh, false, 0xF⟩, ⟨"GM_EN", 27, 27, .fh, false, 0x0⟩, ⟨"SYNC_US", 26, 16, .fh, false, 0x7D⟩, ⟨"SYNC_LOSS", 15, 12, .fh, false, 0x8⟩, ⟨"LOCK_NS", 11, 0, .fh, false, 0x14⟩]⟩,
  ⟨"TM_JUMP", 0x4, [], false,
    [⟨"JUMP_THR", 29, 0, .fh, false, 0x3E8⟩]⟩,
  ⟨"TM_SERVO", 0x8, [], false,
    [⟨"KP_SHIFT", 31, 28, .fh, false, 0x3⟩, ⟨"KI_SHIFT", 27, 24, .fh, false, 0x7⟩, ⟨"SLEW_PPM", 23, 16, .fh, false, 0xC8⟩]⟩,
  ⟨"TM_GM", 0xC, [], false,
    [⟨"GM_PRIO1", 31, 24, .fh, false, 0x80⟩, ⟨"GM_CLASS", 23, 16, .fh, false, 0xF8⟩, ⟨"GM_ACC", 15, 8, .fh, false, 0xFE⟩, ⟨"GM_PRIO2", 7, 0, .fh, false, 0x80⟩]⟩,
  ⟨"TM_PTP", 0x10, [], false,
    [⟨"E0_ROLE", 31, 30, .fh, false, 0x0⟩, ⟨"E1_ROLE", 29, 28, .fh, false, 0x0⟩, ⟨"PROFILE", 27, 27, .fh, false, 0x0⟩, ⟨"DELAY_MECH", 26, 26, .fh, false, 0x0⟩, ⟨"TRANSPORT", 25, 24, .fh, false, 0x0⟩, ⟨"DOMAIN", 23, 16, .fh, false, 0x0⟩, ⟨"LOG_SYNC", 15, 12, .fh, false, 0xD⟩]⟩,
  ⟨"TM_STATE", 0x20, [], false,
    [⟨"TSTATE", 31, 29, .ro, true, 0x0⟩, ⟨"PARENT", 28, 26, .ro, true, 0x7⟩, ⟨"STEP_USED", 25, 25, .ro, true, 0x0⟩, ⟨"RTC_HOLD", 24, 24, .ro, true, 0x0⟩, ⟨"RTC_VALID", 23, 23, .ro, false, 0x0⟩, ⟨"STEPS_NOW", 22, 15, .ro, false, 0x0⟩, ⟨"PARENT_HUB", 10, 0, .ro, false, 0x0⟩]⟩,
  ⟨"TM_CMD", 0x24, [], false,
    [⟨"SET", 1, 1, .wo, false, 0x0⟩, ⟨"ACCEPT", 0, 0, .wo, false, 0x0⟩]⟩,
  ⟨"TM_NOW_NS", 0x28, [], false,
    [⟨"NOW_NS", 31, 0, .ro, false, 0x0⟩]⟩,
  ⟨"TM_NOW_SEC", 0x2C, [], false,
    [⟨"NOW_SEC_LO", 31, 0, .ro, false, 0x0⟩]⟩,
  ⟨"TM_NOW_HI", 0x30, [], false,
    [⟨"NOW_SEC_HI", 31, 16, .ro, false, 0x0⟩, ⟨"NOW_FRAC", 15, 0, .ro, false, 0x0⟩]⟩,
  ⟨"TM_OFFSET", 0x34, [], false,
    [⟨"OFFSET_Q", 31, 0, .ro, false, 0x0⟩]⟩,
  ⟨"TM_ADDEND", 0x38, [], false,
    [⟨"ADDEND", 31, 0, .ro, true, 0xCCCCCCCD⟩]⟩,
  ⟨"TM_SET_NS", 0x3C, [], false,
    [⟨"SET_NS", 31, 0, .rw, false, 0x0⟩]⟩,
  ⟨"TM_SET_SEC", 0x40, [], false,
    [⟨"SET_SEC", 31, 0, .rw, false, 0x0⟩]⟩,
  ⟨"TM_EVENT", 0x44, [], false,
    [⟨"REF_LOSS", 7, 7, .w1c, false, 0x0⟩, ⟨"RTC_RELOAD", 6, 6, .w1c, false, 0x0⟩, ⟨"PARENT_CHG", 5, 5, .w1c, false, 0x0⟩, ⟨"STEPPED", 4, 4, .w1c, false, 0x0⟩, ⟨"JUMP_REFUSED", 3, 3, .w1c, false, 0x0⟩, ⟨"HOLDOVER", 2, 2, .w1c, false, 0x0⟩, ⟨"LOCKED", 1, 1, .w1c, false, 0x0⟩, ⟨"WM_MISSED", 0, 0, .w1c, false, 0x0⟩]⟩,
  ⟨"TM_EVENT_EN", 0x48, [], false,
    [⟨"EN_MASK", 7, 0, .rw, false, 0xFF⟩]⟩]
def timeRegs1 : List RegD := [
  ⟨"TM_CNT", 0x4C, [], false,
    [⟨"JUMPS", 31, 24, .rc, false, 0x0⟩, ⟨"OUTLIERS", 23, 16, .rc, false, 0x0⟩, ⟨"SYNC_MISS", 15, 0, .rc, false, 0x0⟩]⟩,
  ⟨"TM_LD", 0x100, [(4, 0x4)], false,
    [⟨"LD_VALID", 31, 31, .ro, false, 0x0⟩, ⟨"LD_NOW", 23, 0, .ro, true, 0x0⟩]⟩,
  ⟨"WM_CTL", 0x200, [(8, 0x20)], false,
    [⟨"EN", 31, 31, .rw, true, 0x0⟩, ⟨"WMODE_P", 30, 30, .rw, true, 0x0⟩, ⟨"POL", 29, 29, .rw, true, 0x0⟩, ⟨"PIN_EN", 28, 28, .rw, true, 0x0⟩, ⟨"PER_HI", 27, 20, .rw, true, 0x0⟩, ⟨"START_SEC_HI", 15, 0, .rw, true, 0x0⟩]⟩,
  ⟨"WM_START_SEC", 0x204, [(8, 0x20)], false,
    [⟨"START_SEC_LO", 31, 0, .rw, true, 0x0⟩]⟩,
  ⟨"WM_START_NS", 0x208, [(8, 0x20)], false,
    [⟨"START_NS", 31, 0, .rw, true, 0x0⟩]⟩,
  ⟨"WM_PERIOD", 0x20C, [(8, 0x20)], false,
    [⟨"PER_LO", 31, 0, .rw, true, 0x64⟩]⟩,
  ⟨"WM_WIDTH", 0x210, [(8, 0x20)], false,
    [⟨"WIDTH", 31, 0, .rw, true, 0x8⟩]⟩,
  ⟨"WM_STAT", 0x214, [(8, 0x20)], false,
    [⟨"MISSED", 31, 16, .rc, false, 0x0⟩, ⟨"PULSES", 15, 0, .rc, false, 0x0⟩]⟩,
  ⟨"CAP_CTL", 0x400, [(8, 0x10)], false,
    [⟨"EN", 31, 31, .fh, false, 0x0⟩, ⟨"EDGE", 30, 29, .fh, false, 0x1⟩, ⟨"DEPTH", 11, 8, .ro, false, 0x0⟩, ⟨"OVF", 7, 0, .rc, false, 0x0⟩]⟩,
  ⟨"CAP_POP", 0x404, [(8, 0x10)], false,
    [⟨"EMPTY", 31, 31, .ro, false, 0x1⟩, ⟨"FALL", 30, 30, .ro, false, 0x0⟩, ⟨"QNS", 17, 16, .ro, false, 0x0⟩, ⟨"C_SEC_HI", 15, 0, .ro, false, 0x0⟩]⟩,
  ⟨"CAP_SEC", 0x408, [(8, 0x10)], false,
    [⟨"C_SEC_LO", 31, 0, .ro, false, 0x0⟩]⟩,
  ⟨"CAP_NS", 0x40C, [(8, 0x10)], false,
    [⟨"C_NS", 31, 0, .ro, false, 0x0⟩]⟩]
def timeRegs : List RegD := timeRegs0 ++ timeRegs1

/-- The registers of the block at 0x70000 (R43). -/
def measureRegs0 : List RegD := [
  ⟨"MS_CFG", 0x0, [], false,
    [⟨"EN", 31, 31, .fh, false, 0x0⟩, ⟨"SCAN", 30, 23, .fh, false, 0x0⟩, ⟨"TRIG", 22, 15, .fh, false, 0x0⟩, ⟨"THR_CE", 14, 11, .fh, false, 0xB⟩, ⟨"THR_MBX", 10, 7, .fh, false, 0x0⟩]⟩,
  ⟨"MS_DEST", 0x4, [], false,
    [⟨"MS_DEST_HUB", 31, 21, .fh, false, 0x0⟩, ⟨"MS_DEST_ADP", 20, 16, .fh, false, 0xA⟩, ⟨"MS_TUNNEL", 11, 0, .fh, false, 0x0⟩]⟩,
  ⟨"MS_STATUS", 0x8, [], false,
    [⟨"BUSY", 31, 31, .ro, false, 0x0⟩, ⟨"HELD", 30, 30, .ro, false, 0x0⟩, ⟨"STATE_HI", 7, 0, .ro, false, 0x0⟩]⟩,
  ⟨"MS_EVENT", 0xC, [], false,
    [⟨"OVERRUN", 2, 2, .w1c, false, 0x0⟩, ⟨"THR_HI", 1, 1, .w1c, false, 0x0⟩, ⟨"THR_LO", 0, 0, .w1c, false, 0x0⟩]⟩,
  ⟨"MS_EVENT_EN", 0x10, [], false,
    [⟨"EN_MASK", 2, 0, .rw, false, 0x7⟩]⟩,
  ⟨"MS_CNT", 0x14, [], false,
    [⟨"CELLS", 31, 16, .rc, false, 0x0⟩, ⟨"OVERRUN", 15, 0, .rc, false, 0x0⟩]⟩,
  ⟨"MS_THR", 0x100, [(8, 0x4)], false,
    [⟨"HI", 31, 16, .fh, false, 0xFFFF⟩, ⟨"LO", 15, 0, .fh, false, 0x0⟩]⟩,
  ⟨"MS_LAST", 0x200, [(8, 0x4)], false,
    [⟨"VALUE", 15, 0, .ro, false, 0x0⟩]⟩]
def measureRegs : List RegD := measureRegs0

/-- The registers of the block at 0x400000 (R43). -/
def engineRegs0 : List RegD := [
  ⟨"ENG_ROLE", 0x0, [], true,
    [⟨"ROLE", 31, 28, .fh, false, 0x0⟩, ⟨"PARAM", 27, 24, .fh, false, 0x0⟩, ⟨"PROG_SLOT", 23, 21, .fh, false, 0x0⟩, ⟨"BANK_SEL", 20, 20, .fh, true, 0x0⟩, ⟨"WDT_WARM", 19, 19, .fh, false, 0x0⟩, ⟨"WDT_US", 15, 0, .fh, false, 0x1F4⟩]⟩,
  ⟨"ENG_CMD", 0x4, [], false,
    [⟨"LOAD", 31, 31, .wo, false, 0x0⟩, ⟨"LOAD_SLOT", 30, 28, .wo, false, 0x0⟩, ⟨"RESTART", 1, 1, .wo, false, 0x0⟩, ⟨"RETIRE", 0, 0, .wo, false, 0x0⟩]⟩,
  ⟨"ENG_STATUS", 0x8, [], false,
    [⟨"STATE", 31, 29, .ro, false, 0x0⟩, ⟨"RUN_BANK", 28, 28, .ro, false, 0x0⟩, ⟨"SW_PEND", 27, 27, .ro, false, 0x0⟩, ⟨"ENTRY", 26, 25, .ro, false, 0x0⟩, ⟨"ROLE_NOW", 24, 21, .ro, false, 0x0⟩, ⟨"PARAM_NOW", 20, 17, .ro, false, 0x0⟩, ⟨"TOOK_FROM", 16, 13, .ro, false, 0xF⟩, ⟨"LOAD_BUSY", 12, 12, .ro, false, 0x0⟩]⟩,
  ⟨"ENG_FAULT", 0xC, [], false,
    [⟨"CAUSE", 31, 28, .ro, true, 0x0⟩, ⟨"FAULTS", 27, 20, .ro, true, 0x0⟩, ⟨"RETIRED", 19, 19, .ro, true, 0x0⟩, ⟨"PC", 13, 0, .ro, true, 0x0⟩]⟩,
  ⟨"ENG_EVENT", 0x10, [], false,
    [⟨"USER_EVICT", 8, 8, .w1c, false, 0x0⟩, ⟨"MBX_DROP", 7, 7, .w1c, false, 0x0⟩, ⟨"ACT_WR", 6, 6, .w1c, false, 0x0⟩, ⟨"NOYIELD", 5, 5, .w1c, false, 0x0⟩, ⟨"BANK_SWITCHED", 4, 4, .w1c, false, 0x0⟩, ⟨"VACANT", 3, 3, .w1c, false, 0x0⟩, ⟨"ROLE_MOVED", 2, 2, .w1c, false, 0x0⟩, ⟨"RETIRED", 1, 1, .w1c, false, 0x0⟩, ⟨"FAULT", 0, 0, .w1c, false, 0x0⟩]⟩,
  ⟨"ENG_EVENT_EN", 0x14, [], false,
    [⟨"EN_MASK", 8, 0, .rw, false, 0x1FF⟩]⟩,
  ⟨"ENG_MBX_W0", 0x20, [], false,
    [⟨"POST_W0", 31, 0, .rw, false, 0x0⟩]⟩,
  ⟨"ENG_MBX_W1", 0x24, [], false,
    [⟨"POST_W1", 31, 0, .wo, false, 0x0⟩]⟩,
  ⟨"ENG_MBX_CTL", 0x28, [], false,
    [⟨"POST_ST", 31, 30, .ro, false, 0x0⟩, ⟨"POST_MBX", 3, 0, .rw, false, 0x0⟩]⟩,
  ⟨"ENG_MBX_STAT", 0x2C, [], false,
    [⟨"MBX_DROP", 31, 16, .rc, false, 0x0⟩, ⟨"NONEMPTY", 15, 0, .ro, false, 0x0⟩]⟩,
  ⟨"ENG_PERF", 0x30, [], false,
    [⟨"INSTR", 31, 0, .rc, false, 0x0⟩]⟩]
def engineRegs : List RegD := engineRegs0

/-- The registers of the block at 0x10000 (R43). -/
def formeRegs0 : List RegD := [
  ⟨"FC_CUSTODY", 0xF00, [], false,
    [⟨"VALID", 31, 31, .ro, false, 0x0⟩, ⟨"HOLDER", 30, 27, .ro, false, 0x0⟩, ⟨"EPOCH", 15, 0, .ro, false, 0x0⟩]⟩,
  ⟨"FC_ENG_CFG", 0xF04, [], false,
    [⟨"CUST_MISS", 31, 28, .fh, false, 0x2⟩, ⟨"FAULT_N", 27, 24, .fh, false, 0x3⟩, ⟨"FAULT_WIN_MS", 23, 12, .fh, false, 0x3E8⟩]⟩,
  ⟨"FC_CUST_REFUSE", 0xF08, [], false,
    [⟨"REFUSED", 31, 16, .rc, false, 0x0⟩, ⟨"PATH", 15, 13, .ro, false, 0x0⟩, ⟨"REF_ENG", 12, 9, .ro, false, 0x0⟩]⟩,
  ⟨"FC_CUST_ADDR", 0xF0C, [], false,
    [⟨"REF_ADDR", 31, 0, .ro, false, 0x0⟩]⟩,
  ⟨"FC_STATUS", 0x0, [], false,
    [⟨"ACT_SRC", 31, 30, .ro, true, 0x3⟩, ⟨"STG_SRC", 29, 28, .ro, false, 0x3⟩, ⟨"STAGE_BUSY", 27, 27, .ro, false, 0x0⟩, ⟨"STAGED", 26, 26, .ro, false, 0x0⟩, ⟨"SHADOW_BAD", 25, 25, .ro, false, 0x0⟩, ⟨"ARMED", 24, 24, .ro, false, 0x0⟩, ⟨"PROB", 23, 23, .ro, true, 0x0⟩, ⟨"REVERTING", 22, 22, .ro, false, 0x0⟩, ⟨"KEY_OPEN", 21, 21, .ro, false, 0x0⟩, ⟨"LU_ERR", 19, 16, .ro, false, 0x0⟩, ⟨"PROB_LEFT", 15, 0, .ro, true, 0x0⟩]⟩,
  ⟨"FC_CMD", 0x4, [], false,
    [⟨"ARM", 31, 31, .wo, false, 0x0⟩, ⟨"DISARM", 30, 30, .wo, false, 0x0⟩, ⟨"STAGE", 29, 29, .wo, false, 0x0⟩, ⟨"VERIFY", 28, 28, .wo, false, 0x0⟩, ⟨"SHADOW_RESET", 27, 27, .wo, false, 0x0⟩, ⟨"COMMIT", 26, 26, .wo, false, 0x0⟩, ⟨"REVERT", 25, 25, .wo, false, 0x0⟩, ⟨"MARK", 24, 24, .wo, false, 0x0⟩, ⟨"CLR_ATTEMPTS", 23, 23, .wo, false, 0x0⟩, ⟨"CBANK", 22, 21, .wo, false, 0x0⟩, ⟨"MSTATE", 20, 19, .wo, false, 0x0⟩, ⟨"AT_EN", 18, 18, .wo, false, 0x0⟩]⟩,
  ⟨"FC_LU_AT", 0x8, [], false,
    [⟨"LU_AT", 31, 0, .rw, false, 0x0⟩]⟩,
  ⟨"FC_LOAD", 0xC, [], false,
    [⟨"CODE", 31, 27, .ro, true, 0x0⟩, ⟨"L_SRC", 26, 25, .ro, true, 0x0⟩, ⟨"L_OP", 24, 23, .ro, true, 0x0⟩, ⟨"ATTEMPT", 22, 21, .ro, true, 0x0⟩, ⟨"SECTION", 20, 13, .ro, true, 0x0⟩]⟩,
  ⟨"FC_LOAD_CNT", 0x10, [], false,
    [⟨"EXCLUDED", 31, 16, .ro, true, 0x0⟩, ⟨"SKIPPED", 15, 8, .ro, true, 0x0⟩]⟩,
  ⟨"FC_ATTEMPT", 0x14, [], false,
    [⟨"A_TRIES", 31, 30, .ro, false, 0x0⟩, ⟨"A_CODE", 29, 25, .ro, false, 0x0⟩, ⟨"B_TRIES", 24, 23, .ro, false, 0x0⟩, ⟨"B_CODE", 22, 18, .ro, false, 0x0⟩]⟩,
  ⟨"FC_DIR", 0x18, [], false,
    [⟨"DIR_A", 31, 24, .ro, false, 0xFF⟩, ⟨"DIR_B", 23, 16, .ro, false, 0xFF⟩, ⟨"DIR_SEQ_LO", 15, 0, .ro, false, 0x0⟩]⟩,
  ⟨"FC_PROB", 0x1C, [], false,
    [⟨"PROB_N", 31, 16, .rw, true, 0x3E8⟩, ⟨"PROB_AUTO", 15, 15, .rw, true, 0x0⟩, ⟨"REVERT_ON", 5, 0, .rw, true, 0x3B⟩]⟩,
  ⟨"FC_LU_CNT", 0x20, [], false,
    [⟨"LOCKUPS", 31, 16, .rc, false, 0x0⟩, ⟨"LU_DEFER", 15, 8, .rc, false, 0x0⟩, ⟨"LU_REFUSED", 7, 0, .rc, false, 0x0⟩]⟩,
  ⟨"FC_ROLLBACK", 0x24, [], false,
    [⟨"OTP_COUNT", 31, 24, .ro, false, 0x0⟩, ⟨"KEY_PROG", 23, 20, .ro, false, 0x0⟩, ⟨"KEY_REVOKED", 19, 16, .ro, false, 0x0⟩, ⟨"KEY_BUSY", 15, 15, .ro, false, 0x0⟩, ⟨"KEY_USED", 14, 13, .ro, true, 0x0⟩]⟩,
  ⟨"FC_KEY_CMD", 0x28, [], false,
    [⟨"PROG", 31, 31, .wo, false, 0x0⟩, ⟨"REVOKE", 30, 30, .wo, false, 0x0⟩, ⟨"SLOT", 29, 28, .wo, false, 0x0⟩]⟩,
  ⟨"FC_EVENT", 0x30, [], false,
    [⟨"CMD_REFUSED", 8, 8, .w1c, false, 0x0⟩, ⟨"REVERT_FAIL", 7, 7, .w1c, false, 0x0⟩, ⟨"REVERTED", 6, 6, .w1c, false, 0x0⟩, ⟨"COMMITTED", 5, 5, .w1c, false, 0x0⟩, ⟨"LU_REFUSED", 4, 4, .w1c, false, 0x0⟩, ⟨"LOCKUP", 3, 3, .w1c, false, 0x0⟩, ⟨"STAGE_FAIL", 2, 2, .w1c, false, 0x0⟩, ⟨"STAGE_DONE", 1, 1, .w1c, false, 0x0⟩, ⟨"FL_DONE", 0, 0, .w1c, false, 0x0⟩]⟩]
def formeRegs1 : List RegD := [
  ⟨"FC_EVENT_EN", 0x34, [], false,
    [⟨"EN_MASK", 8, 0, .rw, false, 0x1FF⟩]⟩,
  ⟨"FC_FL_CMD", 0x40, [], false,
    [⟨"GO", 31, 31, .wo, false, 0x0⟩, ⟨"WR", 30, 30, .rw, false, 0x0⟩, ⟨"ADDR_EN", 29, 29, .rw, false, 0x0⟩, ⟨"LEN", 28, 20, .rw, false, 0x0⟩, ⟨"OP", 7, 0, .rw, false, 0x0⟩]⟩,
  ⟨"FC_FL_ADDR", 0x44, [], false,
    [⟨"FL_ADDR", 31, 0, .rw, false, 0x0⟩]⟩,
  ⟨"FC_FL_STAT", 0x48, [], false,
    [⟨"FL_BUSY", 31, 31, .ro, false, 0x0⟩, ⟨"FL_REFUSED", 30, 30, .w1c, false, 0x0⟩]⟩,
  ⟨"FC_BUF", 0x100, [(64, 0x4)], false,
    [⟨"BUF", 31, 0, .rw, false, 0x0⟩]⟩]
def formeRegs : List RegD := formeRegs0 ++ formeRegs1

/-- The registers of the block at 0x20000 (R43). -/
def resetRegs0 : List RegD := [
  ⟨"CAIRN_CAUSE", 0x0, [], false,
    [⟨"TRIM", 11, 11, .w1c, false, 0x0⟩, ⟨"CUSTODY", 10, 10, .w1c, false, 0x0⟩, ⟨"FORME", 9, 9, .w1c, false, 0x0⟩, ⟨"REMOTE", 8, 8, .w1c, false, 0x0⟩, ⟨"SOFT_COLD", 7, 7, .w1c, false, 0x0⟩, ⟨"SOFT_WARM", 6, 6, .w1c, false, 0x0⟩, ⟨"THERM", 5, 5, .w1c, false, 0x0⟩, ⟨"WDT", 4, 4, .w1c, false, 0x0⟩, ⟨"XRST", 3, 3, .w1c, false, 0x0⟩, ⟨"BOR", 2, 2, .w1c, false, 0x0⟩, ⟨"POR_CORE", 1, 1, .w1c, false, 0x0⟩, ⟨"POR_KEEP", 0, 0, .w1c, false, 0x1⟩]⟩,
  ⟨"CAIRN_DETAIL", 0x4, [], false,
    [⟨"LAST", 31, 27, .ro, false, 0x0⟩, ⟨"SCOPE", 26, 25, .ro, false, 0x0⟩, ⟨"ESC", 24, 24, .ro, false, 0x0⟩, ⟨"INFO", 23, 0, .ro, false, 0x0⟩]⟩,
  ⟨"CAIRN_COUNT_0", 0x8, [], false,
    [⟨"CNT_XRST", 31, 24, .rw, false, 0x0⟩, ⟨"CNT_BOR", 23, 16, .rw, false, 0x0⟩, ⟨"CNT_POR_CORE", 15, 8, .rw, false, 0x0⟩, ⟨"CNT_POR_KEEP", 7, 0, .rw, false, 0x1⟩]⟩,
  ⟨"CAIRN_COUNT_1", 0xC, [], false,
    [⟨"CNT_SOFT_COLD", 31, 24, .rw, false, 0x0⟩, ⟨"CNT_SOFT_WARM", 23, 16, .rw, false, 0x0⟩, ⟨"CNT_THERM", 15, 8, .rw, false, 0x0⟩, ⟨"CNT_WDT", 7, 0, .rw, false, 0x0⟩]⟩,
  ⟨"CAIRN_COUNT_2", 0x10, [], false,
    [⟨"CNT_TRIM", 31, 24, .rw, false, 0x0⟩, ⟨"CNT_CUSTODY", 23, 16, .rw, false, 0x0⟩, ⟨"CNT_FORME", 15, 8, .rw, false, 0x0⟩, ⟨"CNT_REMOTE", 7, 0, .rw, false, 0x0⟩]⟩,
  ⟨"CAIRN_TIME_NS", 0x14, [], false,
    [⟨"RT_NS", 31, 0, .ro, false, 0x0⟩]⟩,
  ⟨"CAIRN_TIME_SEC", 0x18, [], false,
    [⟨"RT_SEC_LO", 31, 0, .ro, false, 0x0⟩]⟩,
  ⟨"CAIRN_TIME_HI", 0x1C, [], false,
    [⟨"COARSE", 31, 31, .ro, false, 0x0⟩, ⟨"NONE", 30, 30, .ro, false, 0x1⟩, ⟨"RT_SEC_HI", 15, 0, .ro, false, 0x0⟩]⟩,
  ⟨"RST_CFG", 0x20, [], false,
    [⟨"XRST_WARM", 31, 31, .fh, false, 0x0⟩, ⟨"THERM_RESTART", 30, 30, .fh, false, 0x1⟩, ⟨"REM_EN", 29, 29, .fh, false, 0x0⟩, ⟨"REM_HUB_B", 21, 11, .fh, false, 0x0⟩, ⟨"REM_HUB_A", 10, 0, .fh, false, 0x0⟩]⟩,
  ⟨"RST_CMD", 0x24, [], false,
    [⟨"RST_KEY", 31, 24, .wo, false, 0x0⟩, ⟨"SCOPE", 1, 0, .wo, false, 0x0⟩]⟩,
  ⟨"RST_NONCE", 0x28, [], false,
    [⟨"NONCE", 15, 0, .ro, false, 0x0⟩]⟩,
  ⟨"RST_REMOTE", 0x2C, [], false,
    [⟨"R_NONCE", 31, 16, .wo, false, 0x0⟩, ⟨"R_SCOPE", 1, 0, .wo, false, 0x0⟩]⟩,
  ⟨"RST_BLOCK", 0x30, [], false,
    [⟨"ENG_HOLD", 31, 20, .rw, false, 0x0⟩, ⟨"DOCK_HOLD", 11, 11, .rw, false, 0x0⟩, ⟨"MS_HOLD", 10, 10, .rw, false, 0x0⟩, ⟨"LB_HOLD", 9, 9, .rw, false, 0x0⟩, ⟨"EN_HOLD", 8, 7, .rw, false, 0x0⟩, ⟨"PX_HOLD", 6, 6, .rw, false, 0x0⟩, ⟨"DA_HOLD", 5, 4, .rw, false, 0x0⟩, ⟨"SP_HOLD", 3, 0, .rw, false, 0x0⟩]⟩,
  ⟨"RST_STATUS", 0x34, [], false,
    [⟨"PHASE", 31, 28, .ro, false, 0x0⟩, ⟨"STRAP_CODE", 27, 24, .ro, false, 0xF⟩, ⟨"STRAP_TRIES", 23, 20, .ro, false, 0x0⟩, ⟨"TRIM_TRIES", 19, 18, .ro, false, 0x0⟩, ⟨"TRIM_CHIP_BAD", 17, 17, .ro, false, 0x0⟩, ⟨"TRIM_BOARD_BAD", 16, 16, .ro, false, 0x0⟩, ⟨"STRAP_MV", 11, 0, .ro, false, 0x0⟩]⟩,
  ⟨"RST_EVENT", 0x38, [], false,
    [⟨"BLOCK_REFUSED", 2, 2, .w1c, false, 0x0⟩, ⟨"SOFT_REFUSED", 1, 1, .w1c, false, 0x0⟩, ⟨"REM_REFUSED", 0, 0, .w1c, false, 0x0⟩]⟩,
  ⟨"RST_EVENT_EN", 0x3C, [], false,
    [⟨"EN_MASK", 2, 0, .rw, false, 0x7⟩]⟩]
def resetRegs : List RegD := resetRegs0

/-- The registers of the block at 0x40000 (R43). -/
def powerRegs0 : List RegD := [
  ⟨"PP_FEED", 0x0, [], false,
    [⟨"PRIO", 31, 31, .fh, false, 0x0⟩, ⟨"AUTO_RET", 30, 30, .fh, false, 0x1⟩, ⟨"ACTIVE", 29, 28, .ro, false, 0x3⟩, ⟨"SWITCHES", 27, 16, .rc, false, 0x0⟩]⟩,
  ⟨"PP_EVENT", 0x4, [], false,
    [⟨"REFUSED", 21, 21, .w1c, false, 0x0⟩, ⟨"FEED_SW", 20, 20, .w1c, false, 0x0⟩, ⟨"DAMAGE", 19, 10, .w1c, false, 0x0⟩, ⟨"TRIP", 9, 0, .w1c, false, 0x0⟩]⟩,
  ⟨"PP_EVENT_EN", 0x8, [], false,
    [⟨"EN_MASK", 21, 0, .rw, false, 0x3FFFFF⟩]⟩,
  ⟨"PP_CFG", 0x100, [(10, 0x40)], true,
    [⟨"PEN", 31, 31, .fh, false, 0x0⟩, ⟨"EN_USE", 30, 30, .fh, false, 0x0⟩, ⟨"SAFE_MV", 29, 18, .fh, false, 0x0⟩, ⟨"DVDT", 17, 12, .fh, false, 0x2⟩, ⟨"PLIM", 11, 4, .fh, false, 0xA⟩]⟩,
  ⟨"PP_WIN", 0x104, [(10, 0x40)], false,
    [⟨"OV_DV", 25, 16, .fh, false, 0x230⟩, ⟨"UV_DV", 9, 0, .fh, false, 0x6C⟩]⟩,
  ⟨"PP_LIM", 0x108, [(10, 0x40)], false,
    [⟨"ILIM", 31, 20, .fh, false, 0x64⟩, ⟨"RSNS", 19, 12, .ro, false, 0x0⟩, ⟨"T_COOL", 11, 2, .fh, false, 0xA⟩]⟩,
  ⟨"PP_TIME", 0x10C, [(10, 0x40)], false,
    [⟨"T_INS", 31, 22, .fh, false, 0x64⟩, ⟨"T_OC", 21, 12, .fh, false, 0xA⟩, ⟨"T_GRISE", 11, 7, .fh, false, 0x4⟩, ⟨"T_RAMPFLT", 6, 0, .fh, false, 0xA⟩]⟩,
  ⟨"PP_STATUS", 0x110, [(10, 0x40)], false,
    [⟨"STATE", 31, 29, .ro, false, 0x0⟩, ⟨"ROLE", 28, 27, .ro, false, 0x0⟩, ⟨"CAUSE", 26, 24, .ro, false, 0x0⟩, ⟨"REARM_PEND", 23, 23, .ro, false, 0x0⟩, ⟨"REGULATING", 22, 22, .ro, false, 0x0⟩, ⟨"EN_LEVEL", 21, 21, .ro, false, 0x0⟩, ⟨"COOL_LEFT", 20, 11, .ro, false, 0x0⟩]⟩,
  ⟨"PP_MEAS", 0x114, [(10, 0x40)], false,
    [⟨"V_IN", 31, 22, .ro, false, 0x0⟩, ⟨"V_OUT", 21, 12, .ro, false, 0x0⟩, ⟨"I_NOW", 11, 0, .ro, false, 0x0⟩]⟩,
  ⟨"PP_CMD", 0x118, [(10, 0x40)], false,
    [⟨"REARM", 31, 31, .wo, false, 0x0⟩, ⟨"DMG_CLR", 30, 30, .wo, false, 0x0⟩, ⟨"ON_REQ", 29, 29, .rw, false, 0x0⟩]⟩,
  ⟨"PP_COUNT", 0x11C, [(10, 0x40)], false,
    [⟨"TRIPS", 31, 24, .rc, false, 0x0⟩, ⟨"WIN_LOSS", 23, 16, .rc, false, 0x0⟩, ⟨"SAFE_WAIT", 15, 0, .rc, false, 0x0⟩]⟩,
  ⟨"KP_SUPPLY", 0x800, [], false,
    [⟨"ON_VBAK", 31, 31, .ro, false, 0x0⟩, ⟨"VBAK_CHG", 30, 30, .fh, false, 0x0⟩, ⟨"CHG_MA", 29, 28, .fh, false, 0x0⟩, ⟨"HVIN_DV", 27, 18, .ro, false, 0x0⟩, ⟨"VBAK_CV", 17, 10, .ro, false, 0x0⟩]⟩,
  ⟨"KP_SLEEP", 0x804, [], false,
    [⟨"SLEEP_KEY", 31, 24, .wo, false, 0x0⟩, ⟨"SLEEP_KEEP", 23, 14, .fh, false, 0x0⟩]⟩,
  ⟨"KP_WAKE", 0x808, [], false,
    [⟨"W0_EN", 31, 31, .fh, false, 0x1⟩, ⟨"W0_HZ", 30, 29, .fh, false, 0x2⟩, ⟨"W1_EN", 28, 28, .fh, false, 0x0⟩, ⟨"W1_HZ", 27, 26, .fh, false, 0x2⟩, ⟨"W2_EN", 25, 25, .fh, false, 0x1⟩, ⟨"W2_HZ", 24, 23, .fh, false, 0x2⟩, ⟨"W3_EN", 22, 22, .fh, false, 0x0⟩, ⟨"W3_HZ", 21, 20, .fh, false, 0x0⟩, ⟨"ALARM_EN", 19, 19, .fh, false, 0x0⟩, ⟨"TEMP_HI", 18, 11, .fh, false, 0x55⟩, ⟨"TEMP_LO", 10, 3, .fh, false, 0xD8⟩]⟩,
  ⟨"KP_ALARM", 0x80C, [], false,
    [⟨"ALARM_SEC", 31, 0, .rw, false, 0x0⟩]⟩,
  ⟨"KP_STATUS", 0x810, [], false,
    [⟨"WAKE_SRC", 31, 29, .ro, false, 0x7⟩, ⟨"WAKE_PEND", 28, 28, .ro, false, 0x0⟩, ⟨"RAIL_FAIL", 27, 24, .ro, false, 0xF⟩, ⟨"RAIL_TRIES", 23, 22, .ro, false, 0x0⟩, ⟨"PG_NOW", 21, 16, .ro, false, 0x0⟩, ⟨"EN_NOW", 15, 10, .ro, false, 0x0⟩]⟩]
def powerRegs1 : List RegD := [
  ⟨"KP_VCORE", 0x814, [], false,
    [⟨"PMB_FAST", 26, 26, .fh, false, 0x0⟩, ⟨"VOUT_MV", 25, 16, .ro, false, 0x0⟩, ⟨"VC_STATUS", 15, 0, .ro, false, 0x0⟩]⟩,
  ⟨"KP_EVENT", 0x818, [], false,
    [⟨"SLEEP_REFUSED", 5, 5, .w1c, false, 0x0⟩, ⟨"VC_ALERT", 4, 4, .w1c, false, 0x0⟩, ⟨"VC_MISMATCH", 3, 3, .w1c, false, 0x0⟩, ⟨"PMB_FAIL", 2, 2, .w1c, false, 0x0⟩, ⟨"RAIL_FAIL", 1, 1, .w1c, false, 0x0⟩, ⟨"WOKE", 0, 0, .w1c, false, 0x0⟩]⟩,
  ⟨"KP_EVENT_EN", 0x81C, [], false,
    [⟨"EN_MASK", 5, 0, .rw, false, 0x3F⟩]⟩]
def powerRegs : List RegD := powerRegs0 ++ powerRegs1

/-- The registers of the block at 0x50000 (R43). -/
def cableRegs0 : List RegD := [
  ⟨"CP_EVENT", 0x0, [], false,
    [⟨"LAST_PORT", 31, 29, .ro, false, 0x7⟩, ⟨"SAFE_TMO", 12, 12, .w1c, false, 0x0⟩, ⟨"DR_FAIL", 11, 11, .w1c, false, 0x0⟩, ⟨"VCONN_FAULT", 10, 10, .w1c, false, 0x0⟩, ⟨"SRC_REFUSED", 9, 9, .w1c, false, 0x0⟩, ⟨"KA_TMO", 8, 8, .w1c, false, 0x0⟩, ⟨"FS_FAIL", 7, 7, .w1c, false, 0x0⟩, ⟨"FS_DONE", 6, 6, .w1c, false, 0x0⟩, ⟨"HARD_RESET", 5, 5, .w1c, false, 0x0⟩, ⟨"LAPSE_END", 4, 4, .w1c, false, 0x0⟩, ⟨"LAPSE", 3, 3, .w1c, false, 0x0⟩, ⟨"CONTRACT", 2, 2, .w1c, false, 0x0⟩, ⟨"DETACH", 1, 1, .w1c, false, 0x0⟩, ⟨"ATTACH", 0, 0, .w1c, false, 0x0⟩]⟩,
  ⟨"CP_EVENT_EN", 0x4, [], false,
    [⟨"EN_MASK", 12, 0, .rw, false, 0x1FFF⟩]⟩,
  ⟨"SW_POLICY", 0x100, [(4, 0x20)], false,
    [⟨"SP_MODE", 31, 30, .fh, false, 0x1⟩, ⟨"TRY_SRC", 29, 29, .fh, false, 0x0⟩, ⟨"FRS_EN", 28, 28, .fh, false, 0x0⟩, ⟨"LAPSE_MA", 27, 19, .fh, false, 0x32⟩, ⟨"KA_MS", 18, 11, .fh, false, 0x64⟩]⟩,
  ⟨"SW_SRC", 0x104, [(4, 0x20)], false,
    [⟨"SRC_MIN", 31, 21, .fh, false, 0x1E0⟩, ⟨"SRC_MAX", 20, 10, .fh, false, 0x1E0⟩, ⟨"SRC_IMAX", 9, 4, .fh, false, 0x5⟩]⟩,
  ⟨"SW_SINK", 0x108, [(4, 0x20)], false,
    [⟨"SNK_V", 31, 21, .fh, false, 0x1E0⟩, ⟨"SNK_I", 20, 12, .fh, false, 0x32⟩, ⟨"SNK_VMIN", 11, 1, .fh, false, 0x1E0⟩]⟩,
  ⟨"SW_STATE", 0x10C, [(4, 0x20)], false,
    [⟨"CSTATE", 31, 28, .ro, false, 0x0⟩, ⟨"PROLE", 27, 26, .ro, false, 0x0⟩, ⟨"EXT", 25, 25, .ro, false, 0x0⟩, ⟨"ARMED", 24, 24, .ro, false, 0x0⟩, ⟨"C_V", 23, 13, .ro, false, 0x0⟩, ⟨"C_I", 12, 4, .ro, false, 0x0⟩, ⟨"SCW_LVL", 3, 2, .ro, false, 0x0⟩]⟩,
  ⟨"SW_CNT", 0x110, [(4, 0x20)], false,
    [⟨"LAPSES", 31, 24, .rc, false, 0x0⟩, ⟨"FS_DONE", 23, 16, .rc, false, 0x0⟩, ⟨"FS_FAIL", 15, 8, .rc, false, 0x0⟩, ⟨"HARD_RESETS", 7, 0, .rc, false, 0x0⟩]⟩,
  ⟨"DK_POLICY", 0x200, [(2, 0x20)], false,
    [⟨"DK_MODE", 31, 30, .fh, false, 0x1⟩, ⟨"DK_TRY", 29, 28, .fh, false, 0x0⟩, ⟨"FRS_EN", 27, 27, .fh, false, 0x0⟩, ⟨"PPS_EN", 26, 26, .fh, false, 0x1⟩, ⟨"EPR_EN", 25, 25, .fh, false, 0x0⟩, ⟨"VCONN_EN", 24, 24, .fh, false, 0x1⟩, ⟨"RP_LEVEL", 23, 22, .fh, false, 0x2⟩, ⟨"ALT_EN", 21, 21, .fh, false, 0x0⟩]⟩,
  ⟨"DK_SRC", 0x204, [(2, 0x20)], false,
    [⟨"DK_PDP", 31, 24, .fh, false, 0x3C⟩, ⟨"DK_FIXED", 23, 17, .fh, false, 0x1⟩, ⟨"DK_PPS_I", 16, 10, .fh, false, 0x3C⟩]⟩,
  ⟨"DK_SINK", 0x208, [(2, 0x20)], false,
    [⟨"SNK_VMIN", 31, 20, .fh, false, 0xFA⟩, ⟨"SNK_VMAX", 19, 8, .fh, false, 0x3E8⟩, ⟨"SNK_I", 7, 1, .fh, false, 0x3C⟩]⟩,
  ⟨"DK_STATE", 0x20C, [(2, 0x20)], false,
    [⟨"CSTATE", 31, 28, .ro, false, 0x0⟩, ⟨"PROLE", 27, 26, .ro, false, 0x0⟩, ⟨"DROLE", 25, 25, .ro, false, 0x0⟩, ⟨"KIND", 24, 22, .ro, false, 0x0⟩, ⟨"VCONN_ON", 21, 21, .ro, false, 0x0⟩, ⟨"ALT_ON", 20, 20, .ro, false, 0x0⟩, ⟨"C_V", 19, 8, .ro, false, 0x0⟩, ⟨"C_I", 7, 1, .ro, false, 0x0⟩, ⟨"DEAD_BAT", 0, 0, .ro, false, 0x0⟩]⟩,
  ⟨"DK_CABLE", 0x210, [(2, 0x20)], false,
    [⟨"CBL_I", 31, 30, .ro, false, 0x0⟩, ⟨"CBL_EPR", 29, 29, .ro, false, 0x0⟩]⟩,
  ⟨"DK_CNT", 0x214, [(2, 0x20)], false,
    [⟨"HARD_RESETS", 31, 24, .rc, false, 0x0⟩, ⟨"FS_DONE", 23, 16, .rc, false, 0x0⟩, ⟨"FS_FAIL", 15, 8, .rc, false, 0x0⟩, ⟨"KA_TMO", 7, 0, .rc, false, 0x0⟩]⟩]
def cableRegs : List RegD := cableRegs0

/-- The registers of the block at 0x3A0000 (R43). -/
def dockRegs0 : List RegD := [
  ⟨"USB_CFG", 0x0, [], false,
    [⟨"EN", 31, 31, .fh, false, 0x0⟩, ⟨"UP_PORT", 30, 30, .fh, false, 0x0⟩, ⟨"RWAKE_CAP", 29, 29, .fh, false, 0x1⟩, ⟨"DS_EN", 27, 24, .fh, false, 0xF⟩, ⟨"SVC_TMO", 23, 16, .fh, false, 0x64⟩]⟩,
  ⟨"USB_ID", 0x4, [], false,
    [⟨"PID_HUB", 31, 16, .fh, false, 0x4817⟩, ⟨"PID_FN", 15, 0, .fh, false, 0x4816⟩]⟩,
  ⟨"USB_ID2", 0x8, [], false,
    [⟨"VID", 31, 16, .ro, false, 0x0⟩, ⟨"BCD_DEV", 15, 0, .fh, false, 0x100⟩]⟩,
  ⟨"USB_STATUS", 0xC, [], false,
    [⟨"USTATE", 31, 29, .ro, false, 0x0⟩, ⟨"ADDR", 28, 22, .ro, false, 0x0⟩, ⟨"RWAKE_EN", 21, 21, .ro, false, 0x0⟩, ⟨"HS", 20, 20, .ro, false, 0x0⟩, ⟨"HALT_OUT", 19, 16, .ro, false, 0x0⟩, ⟨"HALT_IN", 15, 12, .ro, false, 0x0⟩, ⟨"PEND", 11, 8, .ro, false, 0x0⟩]⟩,
  ⟨"USB_EPOCH", 0x10, [], false,
    [⟨"EPOCH", 31, 0, .ro, false, 0x0⟩]⟩,
  ⟨"USB_EVENT", 0x14, [], false,
    [⟨"CTRL_ABORT", 11, 11, .w1c, false, 0x0⟩, ⟨"LATE_REPLY", 10, 10, .w1c, false, 0x0⟩, ⟨"OC", 9, 9, .w1c, false, 0x0⟩, ⟨"SOF_OVF", 8, 8, .w1c, false, 0x0⟩, ⟨"NOT_HS", 7, 7, .w1c, false, 0x0⟩, ⟨"CFG_BAD", 6, 6, .w1c, false, 0x0⟩, ⟨"STALL", 5, 5, .w1c, false, 0x0⟩, ⟨"RESUME", 4, 4, .w1c, false, 0x0⟩, ⟨"SUSPEND", 3, 3, .w1c, false, 0x0⟩, ⟨"BUS_RESET", 2, 2, .w1c, false, 0x0⟩, ⟨"DETACH", 1, 1, .w1c, false, 0x0⟩, ⟨"ATTACH", 0, 0, .w1c, false, 0x0⟩]⟩,
  ⟨"USB_EVENT_EN", 0x18, [], false,
    [⟨"EN_MASK", 11, 0, .rw, false, 0xFFF⟩]⟩,
  ⟨"USB_WAKE", 0x1C, [], false,
    [⟨"WAKE_REQ", 31, 31, .wo, false, 0x0⟩, ⟨"WAKE_WHY", 30, 28, .ro, false, 0x0⟩, ⟨"WAKE_PEND", 27, 27, .ro, false, 0x0⟩, ⟨"WAKES", 15, 0, .rc, false, 0x0⟩]⟩,
  ⟨"USB_CNT", 0x20, [], false,
    [⟨"PROTO_ERR", 31, 16, .rc, false, 0x0⟩, ⟨"CTRL_ABORT", 15, 8, .rc, false, 0x0⟩, ⟨"LATE_REPLY", 7, 0, .rc, false, 0x0⟩]⟩,
  ⟨"USB_PORT", 0x40, [(4, 0x4)], false,
    [⟨"PWR", 31, 31, .ro, false, 0x0⟩, ⟨"OC_NOW", 30, 30, .ro, false, 0x0⟩, ⟨"CONN", 29, 29, .ro, false, 0x0⟩, ⟨"SPEED", 28, 27, .ro, false, 0x0⟩, ⟨"PEN", 26, 26, .ro, false, 0x0⟩, ⟨"PSUSP", 25, 25, .ro, false, 0x0⟩, ⟨"OC_CNT", 24, 17, .rc, false, 0x0⟩]⟩,
  ⟨"GALLEY_MAP", 0x100, [(9, 0x4)], true,
    [⟨"GM_EN", 31, 31, .fh, false, 0x1⟩, ⟨"GBASE", 24, 16, .fh, false, 0x0⟩, ⟨"GSIZE", 5, 0, .fh, false, 0x0⟩]⟩,
  ⟨"USB_CH_REPLY", 0x200, [], false,
    [⟨"GO", 31, 31, .wo, false, 0x0⟩, ⟨"CH", 30, 29, .wo, false, 0x0⟩, ⟨"R_EPOCH", 28, 21, .wo, false, 0x0⟩, ⟨"RLEN", 12, 0, .wo, false, 0x0⟩]⟩,
  ⟨"SOF_CFG", 0x300, [], false,
    [⟨"SOF_EN", 31, 31, .fh, false, 0x0⟩, ⟨"SOF_ALL", 30, 30, .fh, false, 0x0⟩, ⟨"SOF_OVF", 15, 8, .rc, false, 0x0⟩, ⟨"SOF_DEPTH", 4, 0, .ro, false, 0x0⟩]⟩,
  ⟨"SOF_POP", 0x304, [], false,
    [⟨"EMPTY", 31, 31, .ro, false, 0x1⟩, ⟨"FRAME", 30, 20, .ro, false, 0x0⟩, ⟨"UFRAME", 19, 17, .ro, false, 0x0⟩, ⟨"S_SEC_HI", 15, 0, .ro, false, 0x0⟩]⟩,
  ⟨"SOF_SEC", 0x308, [], false,
    [⟨"S_SEC_LO", 31, 0, .ro, false, 0x0⟩]⟩,
  ⟨"SOF_NS", 0x30C, [], false,
    [⟨"S_NS", 31, 0, .ro, false, 0x0⟩]⟩]
def dockRegs : List RegD := dockRegs0

/-- The registers of the block at 0x2000000 (R43). -/
def serviceRegs0 : List RegD := [
  ⟨"PF_CFG", 0x0, [], false,
    [⟨"PROOF_TMO", 31, 20, .fh, false, 0x3E8⟩, ⟨"AUTO_EN", 19, 19, .fh, false, 0x1⟩, ⟨"AUTO_S", 18, 11, .fh, false, 0xA⟩, ⟨"SCRUB_EN", 10, 10, .fh, false, 0x1⟩, ⟨"SCRUB_S", 9, 6, .fh, false, 0x1⟩, ⟨"ROW_CE_N", 5, 3, .fh, false, 0x3⟩]⟩,
  ⟨"PF_CFG2", 0x4, [], false,
    [⟨"ROW_WIN", 31, 24, .fh, false, 0x10⟩, ⟨"PF_ENT", 23, 16, .fh, false, 0x10⟩, ⟨"PF_MS", 15, 8, .fh, false, 0x2⟩]⟩,
  ⟨"PF_REQ", 0x8, [], false,
    [⟨"GO", 31, 31, .wo, false, 0x0⟩, ⟨"TEST", 30, 27, .rw, false, 0x0⟩, ⟨"ROW", 26, 18, .rw, false, 0x0⟩, ⟨"TARGET", 15, 0, .rw, false, 0x0⟩]⟩,
  ⟨"PF_RESULT", 0xC, [], false,
    [⟨"RESULT", 31, 29, .ro, false, 0x0⟩, ⟨"R_TEST", 28, 25, .ro, false, 0x0⟩, ⟨"RUNNING", 24, 24, .ro, false, 0x0⟩, ⟨"NONINT", 23, 21, .ro, false, 0x0⟩, ⟨"R_TARGET", 15, 0, .ro, false, 0x0⟩]⟩,
  ⟨"PF_LOC", 0x10, [], false,
    [⟨"LOC", 31, 0, .ro, false, 0x0⟩]⟩,
  ⟨"PF_EVENT", 0x14, [], false,
    [⟨"REC_FULL", 6, 6, .w1c, false, 0x0⟩, ⟨"SPARE_BAD", 5, 5, .w1c, false, 0x0⟩, ⟨"CASE_DEGRADED", 4, 4, .w1c, false, 0x0⟩, ⟨"ROW_REPAIR", 3, 3, .w1c, false, 0x0⟩, ⟨"PROOF_FAIL", 2, 2, .w1c, false, 0x0⟩, ⟨"DEFERRED", 1, 1, .w1c, false, 0x0⟩, ⟨"PROOF_DONE", 0, 0, .w1c, false, 0x0⟩]⟩,
  ⟨"PF_EVENT_EN", 0x18, [], false,
    [⟨"EN_MASK", 6, 0, .rw, false, 0x7E⟩]⟩,
  ⟨"PF_CNT", 0x1C, [], false,
    [⟨"PASSES", 31, 16, .rc, false, 0x0⟩, ⟨"FAILS", 15, 8, .rc, false, 0x0⟩, ⟨"DEFERS", 7, 0, .rc, false, 0x0⟩]⟩,
  ⟨"ELOG_PTR", 0x100, [], false,
    [⟨"ELOG_HEAD", 31, 24, .ro, true, 0x0⟩, ⟨"ELOG_TAIL", 23, 16, .rw, true, 0x0⟩, ⟨"OVERWRITTEN", 15, 0, .rc, true, 0x0⟩]⟩,
  ⟨"EV_SUM", 0x400, [], false,
    [⟨"ACTIVE", 27, 0, .ro, false, 0x0⟩]⟩,
  ⟨"EV_ENG", 0x404, [], false,
    [⟨"ENG_ACT", 11, 0, .ro, false, 0x0⟩]⟩,
  ⟨"EV_REARM", 0x408, [], false,
    [⟨"REARM", 31, 0, .wo, false, 0x0⟩]⟩,
  ⟨"EV_SINK", 0x40C, [], false,
    [⟨"SINK_A_V", 31, 31, .fh, false, 0x0⟩, ⟨"SINK_A", 30, 20, .fh, false, 0x0⟩, ⟨"SINK_B_V", 19, 19, .fh, false, 0x0⟩, ⟨"SINK_B", 18, 8, .fh, false, 0x0⟩]⟩,
  ⟨"EV_KL", 0x410, [], false,
    [⟨"KL_LOST_NOW", 3, 3, .ro, false, 0x0⟩, ⟨"KEEP_REFUSED", 2, 2, .w1c, false, 0x0⟩, ⟨"KL_BACK", 1, 1, .w1c, false, 0x0⟩, ⟨"KL_LOST", 0, 0, .w1c, false, 0x0⟩]⟩,
  ⟨"EV_KL_EN", 0x414, [], false,
    [⟨"EN_MASK", 2, 0, .rw, false, 0x7⟩]⟩,
  ⟨"EV_ROUTE", 0x500, [(28, 0x4)], true,
    [⟨"MSI_EN", 31, 31, .fh, false, 0x1⟩, ⟨"VECTOR", 30, 26, .fh, false, 0x0⟩, ⟨"MSG_EN", 25, 25, .fh, false, 0x0⟩, ⟨"INT_EN", 24, 24, .fh, false, 0x1⟩, ⟨"MBX_EN", 23, 23, .fh, false, 0x1⟩]⟩]
def serviceRegs : List RegD := serviceRegs0

/-- The registers of the block at 0x30000 (R43). -/
def custodyRegs0 : List RegD := [
  ⟨"KL_CFG", 0x0, [], false,
    [⟨"CUST_NEVER", 31, 31, .fh, false, 0x0⟩, ⟨"CUST_LIMIT_MS", 15, 0, .fh, false, 0x1F4⟩]⟩,
  ⟨"KL_STATUS", 0x4, [], false,
    [⟨"HOLD", 31, 31, .ro, false, 0x0⟩, ⟨"ESCALATED", 30, 30, .ro, false, 0x0⟩, ⟨"HOLDS", 29, 16, .ro, false, 0x0⟩, ⟨"KL_LOG_LOST", 15, 8, .rc, false, 0x0⟩, ⟨"REC_USED", 7, 0, .ro, false, 0x0⟩]⟩,
  ⟨"REP_REC", 0x100, [(64, 0x4)], false,
    [⟨"REP_LOC", 31, 0, .ro, false, 0xFFFFFFFF⟩]⟩]
def custodyRegs : List RegD := custodyRegs0

/-- Registers whose reset value depends on the instance (R204, R197, R281, R376, R377, R461, R502, R545): address and
whole word. Engine roles are those of the Spine, Edge and Full classes; STRAP_MEASURE gives the Tool class its own. -/
def resetByInstance0 : List (Nat × Nat) := [(0x40180, 0x1F4020A0), (0x401C0, 0x1F4020A0), (0x40200, 0x1F4020A0), (0x40240, 0x1F4020A0), (0x40280, 0xC8020A0), (0x402C0, 0xC8020A0), (0x280140, 0x33D), (0x280150, 0x33D), (0x280160, 0x7E0), (0x280170, 0x140), (0x280180, 0x140), (0x280190, 0x28)]
def resetByInstance1 : List (Nat × Nat) := [(0x2801A0, 0x80), (0x2801B0, 0x20), (0x2801C0, 0x10), (0x280408, 0x201000), (0x28041C, 0x101000), (0x280428, 0x201000), (0x28043C, 0x101000), (0x280448, 0x201000), (0x28045C, 0x101000), (0x280468, 0x201000), (0x28047C, 0x101000), (0x280488, 0x201000)]
def resetByInstance2 : List (Nat × Nat) := [(0x28049C, 0x101000), (0x2804A8, 0x201000), (0x2804BC, 0x101000), (0x2804C8, 0x201000), (0x2804DC, 0x101000), (0x2804E8, 0x201000), (0x2804FC, 0x101000), (0x280508, 0x201000), (0x28051C, 0x101000), (0x280528, 0x201000), (0x28053C, 0x101000), (0x280548, 0x201000)]
def resetByInstance3 : List (Nat × Nat) := [(0x28055C, 0x101000), (0x280568, 0x201000), (0x28057C, 0x101000), (0x280588, 0x201000), (0x28059C, 0x101000), (0x36000C, 0x60014), (0x37000C, 0x70015), (0x3A0100, 0x80000001), (0x3A0104, 0x80010009), (0x3A0108, 0x800A0009), (0x3A010C, 0x80130009), (0x3A0110, 0x801C0000)]
def resetByInstance4 : List (Nat × Nat) := [(0x3A0114, 0x805C0009), (0x3A0118, 0x80650009), (0x3A011C, 0x806E0009), (0x3A0120, 0x80770000), (0x400000, 0x110001F4), (0x410000, 0x100001F4), (0x420000, 0x202001F4), (0x430000, 0x304001F4), (0x440000, 0x314001F4), (0x450000, 0x324001F4), (0x460000, 0x406001F4), (0x470000, 0x416001F4)]
def resetByInstance5 : List (Nat × Nat) := [(0x480000, 0x426001F4), (0x490000, 0x436001F4), (0x4A0000, 0x508001F4), (0x4B0000, 0x1F4), (0x2000500, 0x81800000), (0x2000504, 0x85800000), (0x2000508, 0x89800000), (0x200050C, 0x8D800000), (0x2000510, 0x91800000), (0x2000514, 0x95800000), (0x2000518, 0x99800000), (0x200051C, 0x9D800000)]
def resetByInstance6 : List (Nat × Nat) := [(0x2000520, 0xA1800000), (0x2000524, 0xA5800000), (0x2000528, 0xA9800000), (0x200052C, 0xAD800000), (0x2000530, 0xB1800000), (0x2000534, 0xB5800000), (0x2000538, 0xB9800000), (0x200053C, 0xBD800000), (0x2000540, 0xC1800000), (0x2000544, 0xC5800000), (0x2000548, 0xC9800000), (0x200054C, 0xCD800000)]
def resetByInstance7 : List (Nat × Nat) := [(0x2000550, 0xD1800000), (0x2000554, 0xD5800000), (0x2000558, 0xD9800000), (0x200055C, 0xDD800000), (0x2000560, 0xE1800000), (0x2000564, 0xE5800000), (0x2000568, 0xE9800000), (0x200056C, 0xED800000)]
def resetByInstance : List (Nat × Nat) := resetByInstance0 ++ resetByInstance1 ++ resetByInstance2 ++ resetByInstance3 ++ resetByInstance4 ++ resetByInstance5 ++ resetByInstance6 ++ resetByInstance7

end Sys2Proof.Machine
end

