-- ==== Sys2Proof/Machine/Regs.lean ====
section
/-! DEFINITION. Every register and register field of the hub by its name in spec/: the register's management
address (R43 and the field tables of each chapter) and the field's place in it. A register that repeats takes its
instance numbers as arguments, the outer repetition first, numbered from 0 (USB ports from 0 for UH_1). -/

namespace Sys2Proof.Machine

/-- `ID_DEVICE`, device identity (R7, 00_scope.md). -/
@[reducible] def ID_DEVICE : Nat := 0x0
@[reducible] def ID_DEVICE.PART : Fld := ⟨ID_DEVICE, 31, 16⟩
@[reducible] def ID_DEVICE.STEP_MAJOR : Fld := ⟨ID_DEVICE, 15, 12⟩
@[reducible] def ID_DEVICE.STEP_MINOR : Fld := ⟨ID_DEVICE, 11, 8⟩
@[reducible] def ID_DEVICE.GRADE : Fld := ⟨ID_DEVICE, 7, 6⟩
@[reducible] def ID_DEVICE.CLASS : Fld := ⟨ID_DEVICE, 5, 4⟩
@[reducible] def ID_DEVICE.BOOT_SRC : Fld := ⟨ID_DEVICE, 3, 2⟩
@[reducible] def ID_DEVICE.TRIM_SAFE : Fld := ⟨ID_DEVICE, 1, 1⟩
@[reducible] def ID_DEVICE.STRAP_DFLT : Fld := ⟨ID_DEVICE, 0, 0⟩
/-- `ID_PRESENT`, enabled blocks (R8, 00_scope.md). -/
@[reducible] def ID_PRESENT : Nat := 0x4
@[reducible] def ID_PRESENT.DOCK : Fld := ⟨ID_PRESENT, 16, 16⟩
@[reducible] def ID_PRESENT.JPORT : Fld := ⟨ID_PRESENT, 15, 0⟩
/-- `ID_SERIAL_LO`, OTP serial number, low word (R9, 00_scope.md). -/
@[reducible] def ID_SERIAL_LO : Nat := 0x8
@[reducible] def ID_SERIAL_LO.SERIAL_LO : Fld := ⟨ID_SERIAL_LO, 31, 0⟩
/-- `ID_SERIAL_HI`, OTP serial number, high word (R9, 00_scope.md). -/
@[reducible] def ID_SERIAL_HI : Nat := 0xC
@[reducible] def ID_SERIAL_HI.SERIAL_HI : Fld := ⟨ID_SERIAL_HI, 31, 0⟩
/-- `PACE_NOW`, latest Pace reading (R39, 01_architecture.md). -/
@[reducible] def PACE_NOW : Nat := 0x28F000
@[reducible] def PACE_NOW.SENSOR : Fld := ⟨PACE_NOW, 18, 16⟩
@[reducible] def PACE_NOW.CYCLE_PS : Fld := ⟨PACE_NOW, 15, 0⟩
/-- `PACE_PLAN`, planning cycle (R39, 01_architecture.md). -/
@[reducible] def PACE_PLAN : Nat := 0x28F004
@[reducible] def PACE_PLAN.FLOOR : Fld := ⟨PACE_PLAN, 31, 31⟩
@[reducible] def PACE_PLAN.PLAN_PS : Fld := ⟨PACE_PLAN, 15, 0⟩
/-- `PACE_FLOOR`, Pace floor (R39, 01_architecture.md). -/
@[reducible] def PACE_FLOOR : Nat := 0x28F008
@[reducible] def PACE_FLOOR.FLOOR_PS : Fld := ⟨PACE_FLOOR, 15, 0⟩
/-- `PACE_VCORE`, VCORE control state (R39, 01_architecture.md). -/
@[reducible] def PACE_VCORE : Nat := 0x28F00C
@[reducible] def PACE_VCORE.EMERG : Fld := ⟨PACE_VCORE, 31, 24⟩
@[reducible] def PACE_VCORE.AT_MAX : Fld := ⟨PACE_VCORE, 16, 16⟩
@[reducible] def PACE_VCORE.VCORE_MV : Fld := ⟨PACE_VCORE, 15, 0⟩
/-- `SP_CFG`, port configuration (R104, 02_spine_lanes.md). -/
@[reducible] def SP_CFG (p : Nat) : Nat := 0x100000 + p * 0x10000
@[reducible] def SP_CFG.EN (p : Nat) : Fld := ⟨SP_CFG p, 31, 31⟩
@[reducible] def SP_CFG.RATE_MAX (p : Nat) : Fld := ⟨SP_CFG p, 30, 29⟩
@[reducible] def SP_CFG.INIT_PRESET (p : Nat) : Fld := ⟨SP_CFG p, 28, 26⟩
@[reducible] def SP_CFG.REQUAL_EN (p : Nat) : Fld := ⟨SP_CFG p, 25, 25⟩
@[reducible] def SP_CFG.INJ_MISSION (p : Nat) : Fld := ⟨SP_CFG p, 24, 24⟩
@[reducible] def SP_CFG.SPARE_PREF (p : Nat) : Fld := ⟨SP_CFG p, 23, 21⟩
/-- `SP_CMD`, port commands (R104, 02_spine_lanes.md). -/
@[reducible] def SP_CMD (p : Nat) : Nat := 0x100004 + p * 0x10000
@[reducible] def SP_CMD.TEST (p : Nat) : Fld := ⟨SP_CMD p, 1, 1⟩
@[reducible] def SP_CMD.RETRAIN (p : Nat) : Fld := ⟨SP_CMD p, 0, 0⟩
/-- `SP_STATE`, port state (R104, 02_spine_lanes.md). -/
@[reducible] def SP_STATE (p : Nat) : Nat := 0x100008 + p * 0x10000
@[reducible] def SP_STATE.STATE (p : Nat) : Fld := ⟨SP_STATE p, 31, 28⟩
@[reducible] def SP_STATE.RATE (p : Nat) : Fld := ⟨SP_STATE p, 27, 26⟩
@[reducible] def SP_STATE.NO_SPARE (p : Nat) : Fld := ⟨SP_STATE p, 25, 25⟩
@[reducible] def SP_STATE.RX_ACTIVE (p : Nat) : Fld := ⟨SP_STATE p, 24, 20⟩
@[reducible] def SP_STATE.RX_RETIRED (p : Nat) : Fld := ⟨SP_STATE p, 19, 15⟩
@[reducible] def SP_STATE.TX_ACTIVE (p : Nat) : Fld := ⟨SP_STATE p, 14, 10⟩
@[reducible] def SP_STATE.TX_RETIRED (p : Nat) : Fld := ⟨SP_STATE p, 9, 5⟩
@[reducible] def SP_STATE.TX_NO_SPARE (p : Nat) : Fld := ⟨SP_STATE p, 4, 4⟩
@[reducible] def SP_STATE.RX_NO_SPARE (p : Nat) : Fld := ⟨SP_STATE p, 3, 3⟩
/-- `SP_EVENT`, port events (R104, 02_spine_lanes.md). -/
@[reducible] def SP_EVENT (p : Nat) : Nat := 0x10000C + p * 0x10000
@[reducible] def SP_EVENT.RATE_DOWN (p : Nat) : Fld := ⟨SP_EVENT p, 8, 8⟩
@[reducible] def SP_EVENT.TRAINED (p : Nat) : Fld := ⟨SP_EVENT p, 7, 7⟩
@[reducible] def SP_EVENT.TRAIN_FAIL (p : Nat) : Fld := ⟨SP_EVENT p, 6, 6⟩
@[reducible] def SP_EVENT.FCK_LOSS (p : Nat) : Fld := ⟨SP_EVENT p, 5, 5⟩
@[reducible] def SP_EVENT.PERM (p : Nat) : Fld := ⟨SP_EVENT p, 4, 4⟩
@[reducible] def SP_EVENT.SWAP_DONE (p : Nat) : Fld := ⟨SP_EVENT p, 3, 3⟩
@[reducible] def SP_EVENT.SWAP_REFUSED (p : Nat) : Fld := ⟨SP_EVENT p, 2, 2⟩
@[reducible] def SP_EVENT.SPARE_LOST (p : Nat) : Fld := ⟨SP_EVENT p, 1, 1⟩
@[reducible] def SP_EVENT.REQUAL (p : Nat) : Fld := ⟨SP_EVENT p, 0, 0⟩
/-- `SP_EVENT_EN`, port event enables (R104, 02_spine_lanes.md). -/
@[reducible] def SP_EVENT_EN (p : Nat) : Nat := 0x100010 + p * 0x10000
@[reducible] def SP_EVENT_EN.EN_MASK (p : Nat) : Fld := ⟨SP_EVENT_EN p, 8, 0⟩
/-- `SP_CLASS`, classification thresholds (R104, 02_spine_lanes.md). -/
@[reducible] def SP_CLASS (p : Nat) : Nat := 0x100014 + p * 0x10000
@[reducible] def SP_CLASS.PERM_N (p : Nat) : Fld := ⟨SP_CLASS p, 31, 28⟩
@[reducible] def SP_CLASS.TRANS_MAX (p : Nat) : Fld := ⟨SP_CLASS p, 27, 20⟩
@[reducible] def SP_CLASS.MARGIN_MIN (p : Nat) : Fld := ⟨SP_CLASS p, 19, 14⟩
/-- `SP_DETOUR`, lane-level Detour record (R104, 02_spine_lanes.md). -/
@[reducible] def SP_DETOUR (p : Nat) : Nat := 0x100018 + p * 0x10000
@[reducible] def SP_DETOUR.SWAPS (p : Nat) : Fld := ⟨SP_DETOUR p, 31, 24⟩
@[reducible] def SP_DETOUR.LAST_PAUSE_NS (p : Nat) : Fld := ⟨SP_DETOUR p, 15, 0⟩
/-- `SP_FCK`, forwarded clock status (R104, 02_spine_lanes.md). -/
@[reducible] def SP_FCK (p : Nat) : Nat := 0x100020 + p * 0x10000
@[reducible] def SP_FCK.TX_ON (p : Nat) : Fld := ⟨SP_FCK p, 31, 31⟩
@[reducible] def SP_FCK.RX_LOCK (p : Nat) : Fld := ⟨SP_FCK p, 30, 30⟩
@[reducible] def SP_FCK.RX_RATE (p : Nat) : Fld := ⟨SP_FCK p, 29, 28⟩
@[reducible] def SP_FCK.LOSS_CNT (p : Nat) : Fld := ⟨SP_FCK p, 15, 0⟩
/-- `LN_TX`, transmit taps (R104, 02_spine_lanes.md). -/
@[reducible] def LN_TX (p : Nat) (k : Nat) : Nat := 0x100100 + p * 0x10000 + k * 0x40
@[reducible] def LN_TX.MAIN (p : Nat) (k : Nat) : Fld := ⟨LN_TX p k, 31, 26⟩
@[reducible] def LN_TX.POST (p : Nat) (k : Nat) : Fld := ⟨LN_TX p k, 25, 21⟩
@[reducible] def LN_TX.PRE (p : Nat) (k : Nat) : Fld := ⟨LN_TX p k, 20, 17⟩
/-- `LN_RX_EQ`, receiver equalisation (R104, 02_spine_lanes.md). -/
@[reducible] def LN_RX_EQ (p : Nat) (k : Nat) : Nat := 0x100104 + p * 0x10000 + k * 0x40
@[reducible] def LN_RX_EQ.FREEZE (p : Nat) (k : Nat) : Fld := ⟨LN_RX_EQ p k, 31, 31⟩
@[reducible] def LN_RX_EQ.CTLE (p : Nat) (k : Nat) : Fld := ⟨LN_RX_EQ p k, 30, 27⟩
@[reducible] def LN_RX_EQ.DFE_1 (p : Nat) (k : Nat) : Fld := ⟨LN_RX_EQ p k, 24, 20⟩
@[reducible] def LN_RX_EQ.DFE_2 (p : Nat) (k : Nat) : Fld := ⟨LN_RX_EQ p k, 19, 15⟩
@[reducible] def LN_RX_EQ.DFE_3 (p : Nat) (k : Nat) : Fld := ⟨LN_RX_EQ p k, 14, 10⟩
@[reducible] def LN_RX_EQ.DFE_4 (p : Nat) (k : Nat) : Fld := ⟨LN_RX_EQ p k, 9, 5⟩
@[reducible] def LN_RX_EQ.DFE_5 (p : Nat) (k : Nat) : Fld := ⟨LN_RX_EQ p k, 4, 0⟩
/-- `LN_RX_STAT`, receive lane status (R104, 02_spine_lanes.md). -/
@[reducible] def LN_RX_STAT (p : Nat) (k : Nat) : Nat := 0x100108 + p * 0x10000 + k * 0x40
@[reducible] def LN_RX_STAT.ROLE (p : Nat) (k : Nat) : Fld := ⟨LN_RX_STAT p k, 31, 30⟩
@[reducible] def LN_RX_STAT.LOGICAL (p : Nat) (k : Nat) : Fld := ⟨LN_RX_STAT p k, 29, 27⟩
@[reducible] def LN_RX_STAT.POL_INV (p : Nat) (k : Nat) : Fld := ⟨LN_RX_STAT p k, 26, 26⟩
@[reducible] def LN_RX_STAT.LOCK (p : Nat) (k : Nat) : Fld := ⟨LN_RX_STAT p k, 25, 25⟩
@[reducible] def LN_RX_STAT.MARGIN (p : Nat) (k : Nat) : Fld := ⟨LN_RX_STAT p k, 24, 19⟩
@[reducible] def LN_RX_STAT.SKEW (p : Nat) (k : Nat) : Fld := ⟨LN_RX_STAT p k, 15, 0⟩
/-- `LN_BIP`, interval counts (R104, 02_spine_lanes.md). -/
@[reducible] def LN_BIP (p : Nat) (k : Nat) : Nat := 0x10010C + p * 0x10000 + k * 0x40
@[reducible] def LN_BIP.ERR_INT (p : Nat) (k : Nat) : Fld := ⟨LN_BIP p k, 31, 16⟩
@[reducible] def LN_BIP.BIP_ERR (p : Nat) (k : Nat) : Fld := ⟨LN_BIP p k, 15, 0⟩
/-- `LN_CLASS`, classification state (R104, 02_spine_lanes.md). -/
@[reducible] def LN_CLASS (p : Nat) (k : Nat) : Nat := 0x100110 + p * 0x10000 + k * 0x40
@[reducible] def LN_CLASS.TRANS_CNT (p : Nat) (k : Nat) : Fld := ⟨LN_CLASS p k, 31, 24⟩
@[reducible] def LN_CLASS.ERR16 (p : Nat) (k : Nat) : Fld := ⟨LN_CLASS p k, 23, 20⟩
@[reducible] def LN_CLASS.RETIRES (p : Nat) (k : Nat) : Fld := ⟨LN_CLASS p k, 19, 18⟩
@[reducible] def LN_CLASS.PERM (p : Nat) (k : Nat) : Fld := ⟨LN_CLASS p k, 0, 0⟩
/-- `LN_RETIRE`, retirement commands (R104, 02_spine_lanes.md). -/
@[reducible] def LN_RETIRE (p : Nat) (k : Nat) : Nat := 0x100114 + p * 0x10000 + k * 0x40
@[reducible] def LN_RETIRE.CLEAR (p : Nat) (k : Nat) : Fld := ⟨LN_RETIRE p k, 1, 1⟩
@[reducible] def LN_RETIRE.FORCE (p : Nat) (k : Nat) : Fld := ⟨LN_RETIRE p k, 0, 0⟩
/-- `LN_PRBS`, pattern control (R104, 02_spine_lanes.md). -/
@[reducible] def LN_PRBS (p : Nat) (k : Nat) : Nat := 0x100118 + p * 0x10000 + k * 0x40
@[reducible] def LN_PRBS.GEN_EN (p : Nat) (k : Nat) : Fld := ⟨LN_PRBS p k, 31, 31⟩
@[reducible] def LN_PRBS.CHK_EN (p : Nat) (k : Nat) : Fld := ⟨LN_PRBS p k, 30, 30⟩
@[reducible] def LN_PRBS.PATTERN (p : Nat) (k : Nat) : Fld := ⟨LN_PRBS p k, 29, 27⟩
@[reducible] def LN_PRBS.INV (p : Nat) (k : Nat) : Fld := ⟨LN_PRBS p k, 26, 26⟩
@[reducible] def LN_PRBS.CHK_LOCK (p : Nat) (k : Nat) : Fld := ⟨LN_PRBS p k, 25, 25⟩
/-- `LN_PRBS_ERR`, checker errors (R104, 02_spine_lanes.md). -/
@[reducible] def LN_PRBS_ERR (p : Nat) (k : Nat) : Nat := 0x10011C + p * 0x10000 + k * 0x40
@[reducible] def LN_PRBS_ERR.ERRORS (p : Nat) (k : Nat) : Fld := ⟨LN_PRBS_ERR p k, 31, 0⟩
/-- `LN_USER_LO`, user pattern, low (R104, 02_spine_lanes.md). -/
@[reducible] def LN_USER_LO (p : Nat) (k : Nat) : Nat := 0x100120 + p * 0x10000 + k * 0x40
@[reducible] def LN_USER_LO.USER_LO (p : Nat) (k : Nat) : Fld := ⟨LN_USER_LO p k, 31, 0⟩
/-- `LN_USER_HI`, user pattern, high (R104, 02_spine_lanes.md). -/
@[reducible] def LN_USER_HI (p : Nat) (k : Nat) : Nat := 0x100124 + p * 0x10000 + k * 0x40
@[reducible] def LN_USER_HI.USER_HI (p : Nat) (k : Nat) : Fld := ⟨LN_USER_HI p k, 31, 0⟩
/-- `LN_INJ`, error injection (R104, 02_spine_lanes.md). -/
@[reducible] def LN_INJ (p : Nat) (k : Nat) : Nat := 0x100128 + p * 0x10000 + k * 0x40
@[reducible] def LN_INJ.MODE (p : Nat) (k : Nat) : Fld := ⟨LN_INJ p k, 31, 30⟩
@[reducible] def LN_INJ.GO (p : Nat) (k : Nat) : Fld := ⟨LN_INJ p k, 29, 29⟩
@[reducible] def LN_INJ.BURST_LEN (p : Nat) (k : Nat) : Fld := ⟨LN_INJ p k, 28, 23⟩
@[reducible] def LN_INJ.RATE_EXP (p : Nat) (k : Nat) : Fld := ⟨LN_INJ p k, 22, 17⟩
/-- `LN_INJ_CNT`, injected bits (R104, 02_spine_lanes.md). -/
@[reducible] def LN_INJ_CNT (p : Nat) (k : Nat) : Nat := 0x10012C + p * 0x10000 + k * 0x40
@[reducible] def LN_INJ_CNT.INJ_CNT (p : Nat) (k : Nat) : Fld := ⟨LN_INJ_CNT p k, 31, 0⟩
/-- `ID_HUB`, hub identity (R148, 03_spine_link.md). -/
@[reducible] def ID_HUB : Nat := 0x10
@[reducible] def ID_HUB.ID_V : Fld := ⟨ID_HUB, 31, 31⟩
@[reducible] def ID_HUB.ROLE : Fld := ⟨ID_HUB, 30, 30⟩
@[reducible] def ID_HUB.HUB_ID_NOW : Fld := ⟨ID_HUB, 26, 16⟩
@[reducible] def ID_HUB.START_STBY : Fld := ⟨ID_HUB, 15, 15⟩
@[reducible] def ID_HUB.HUB_ID : Fld := ⟨ID_HUB, 10, 0⟩
/-- `ID_INC`, incarnation (R148, 03_spine_link.md). -/
@[reducible] def ID_INC : Nat := 0x14
@[reducible] def ID_INC.INCARNATION : Fld := ⟨ID_INC, 15, 0⟩
/-- `ID_INC_TBL`, incarnation table place (R148, 03_spine_link.md). -/
@[reducible] def ID_INC_TBL : Nat := 0x18
@[reducible] def ID_INC_TBL.TBL_OFS : Fld := ⟨ID_INC_TBL, 19, 0⟩
/-- `LK_CFG`, link configuration (R148, 03_spine_link.md). -/
@[reducible] def LK_CFG (p : Nat) : Nat := 0x100400 + p * 0x10000
@[reducible] def LK_CFG.DEAD_N (p : Nat) : Fld := ⟨LK_CFG p, 31, 27⟩
@[reducible] def LK_CFG.DEGRADE_EN (p : Nat) : Fld := ⟨LK_CFG p, 26, 26⟩
@[reducible] def LK_CFG.MIN_WIDTH (p : Nat) : Fld := ⟨LK_CFG p, 25, 24⟩
@[reducible] def LK_CFG.RESUME_EN (p : Nat) : Fld := ⟨LK_CFG p, 23, 23⟩
@[reducible] def LK_CFG.UP_HOLD (p : Nat) : Fld := ⟨LK_CFG p, 22, 18⟩
@[reducible] def LK_CFG.ACK_TMO_DFLT (p : Nat) : Fld := ⟨LK_CFG p, 15, 0⟩
/-- `LK_POOL_HI`, credit pools, upper classes (R148, 03_spine_link.md). -/
@[reducible] def LK_POOL_HI (p : Nat) : Nat := 0x100404 + p * 0x10000
@[reducible] def LK_POOL_HI.POOL_TC7 (p : Nat) : Fld := ⟨LK_POOL_HI p, 31, 24⟩
@[reducible] def LK_POOL_HI.POOL_TC6 (p : Nat) : Fld := ⟨LK_POOL_HI p, 23, 16⟩
@[reducible] def LK_POOL_HI.POOL_TC5 (p : Nat) : Fld := ⟨LK_POOL_HI p, 15, 8⟩
@[reducible] def LK_POOL_HI.POOL_TC4 (p : Nat) : Fld := ⟨LK_POOL_HI p, 7, 0⟩
/-- `LK_POOL_LO`, credit pools, lower classes (R148, 03_spine_link.md). -/
@[reducible] def LK_POOL_LO (p : Nat) : Nat := 0x100408 + p * 0x10000
@[reducible] def LK_POOL_LO.POOL_TC3 (p : Nat) : Fld := ⟨LK_POOL_LO p, 31, 24⟩
@[reducible] def LK_POOL_LO.POOL_TC2 (p : Nat) : Fld := ⟨LK_POOL_LO p, 23, 16⟩
@[reducible] def LK_POOL_LO.POOL_TC1 (p : Nat) : Fld := ⟨LK_POOL_LO p, 15, 8⟩
@[reducible] def LK_POOL_LO.POOL_TC0 (p : Nat) : Fld := ⟨LK_POOL_LO p, 7, 0⟩
/-- `LK_CMD`, link commands (R148, 03_spine_link.md). -/
@[reducible] def LK_CMD (p : Nat) : Nat := 0x10040C + p * 0x10000
@[reducible] def LK_CMD.READMIT (p : Nat) : Fld := ⟨LK_CMD p, 0, 0⟩
/-- `LK_STATE`, link state (R148, 03_spine_link.md). -/
@[reducible] def LK_STATE (p : Nat) : Nat := 0x100410 + p * 0x10000
@[reducible] def LK_STATE.LSTATE (p : Nat) : Fld := ⟨LK_STATE p, 31, 29⟩
@[reducible] def LK_STATE.TX_WIDTH (p : Nat) : Fld := ⟨LK_STATE p, 28, 27⟩
@[reducible] def LK_STATE.RX_WIDTH (p : Nat) : Fld := ⟨LK_STATE p, 26, 25⟩
@[reducible] def LK_STATE.PVER_MAJOR (p : Nat) : Fld := ⟨LK_STATE p, 24, 21⟩
@[reducible] def LK_STATE.PVER_MINOR (p : Nat) : Fld := ⟨LK_STATE p, 20, 17⟩
@[reducible] def LK_STATE.FEAT (p : Nat) : Fld := ⟨LK_STATE p, 16, 9⟩
@[reducible] def LK_STATE.RESUMED (p : Nat) : Fld := ⟨LK_STATE p, 8, 8⟩
@[reducible] def LK_STATE.RETIRED (p : Nat) : Fld := ⟨LK_STATE p, 7, 7⟩
/-- `LK_PARTNER`, partner identity (R148, 03_spine_link.md). -/
@[reducible] def LK_PARTNER (p : Nat) : Nat := 0x100414 + p * 0x10000
@[reducible] def LK_PARTNER.P_ID_V (p : Nat) : Fld := ⟨LK_PARTNER p, 31, 31⟩
@[reducible] def LK_PARTNER.P_ROLE (p : Nat) : Fld := ⟨LK_PARTNER p, 30, 30⟩
@[reducible] def LK_PARTNER.P_HUB_ID (p : Nat) : Fld := ⟨LK_PARTNER p, 26, 16⟩
@[reducible] def LK_PARTNER.P_INC (p : Nat) : Fld := ⟨LK_PARTNER p, 15, 0⟩
/-- `LK_PARTNER_SER_LO`, partner serial, low (R148, 03_spine_link.md). -/
@[reducible] def LK_PARTNER_SER_LO (p : Nat) : Nat := 0x100418 + p * 0x10000
@[reducible] def LK_PARTNER_SER_LO.P_SER_LO (p : Nat) : Fld := ⟨LK_PARTNER_SER_LO p, 31, 0⟩
/-- `LK_PARTNER_SER_HI`, partner serial, high (R148, 03_spine_link.md). -/
@[reducible] def LK_PARTNER_SER_HI (p : Nat) : Nat := 0x10041C + p * 0x10000
@[reducible] def LK_PARTNER_SER_HI.P_SER_HI (p : Nat) : Fld := ⟨LK_PARTNER_SER_HI p, 31, 0⟩
/-- `LK_SEQ_TX`, transmit sequence (R148, 03_spine_link.md). -/
@[reducible] def LK_SEQ_TX (p : Nat) : Nat := 0x100420 + p * 0x10000
@[reducible] def LK_SEQ_TX.OLDEST (p : Nat) : Fld := ⟨LK_SEQ_TX p, 27, 16⟩
@[reducible] def LK_SEQ_TX.NEXT_TX (p : Nat) : Fld := ⟨LK_SEQ_TX p, 11, 0⟩
/-- `LK_SEQ_RX`, receive sequence (R148, 03_spine_link.md). -/
@[reducible] def LK_SEQ_RX (p : Nat) : Nat := 0x100424 + p * 0x10000
@[reducible] def LK_SEQ_RX.EXPECTED (p : Nat) : Fld := ⟨LK_SEQ_RX p, 27, 16⟩
@[reducible] def LK_SEQ_RX.ACK_SENT (p : Nat) : Fld := ⟨LK_SEQ_RX p, 11, 0⟩
/-- `LK_ACK_TMO`, acknowledgement timer (R148, 03_spine_link.md). -/
@[reducible] def LK_ACK_TMO (p : Nat) : Nat := 0x100428 + p * 0x10000
@[reducible] def LK_ACK_TMO.MEASURED (p : Nat) : Fld := ⟨LK_ACK_TMO p, 31, 31⟩
@[reducible] def LK_ACK_TMO.TMO_NS (p : Nat) : Fld := ⟨LK_ACK_TMO p, 15, 0⟩
/-- `LK_EVENT`, link events (R148, 03_spine_link.md). -/
@[reducible] def LK_EVENT (p : Nat) : Nat := 0x10042C + p * 0x10000
@[reducible] def LK_EVENT.ID_NONE (p : Nat) : Fld := ⟨LK_EVENT p, 14, 14⟩
@[reducible] def LK_EVENT.MS_MISMATCH (p : Nat) : Fld := ⟨LK_EVENT p, 13, 13⟩
@[reducible] def LK_EVENT.POOL_BAD (p : Nat) : Fld := ⟨LK_EVENT p, 12, 12⟩
@[reducible] def LK_EVENT.CAPS_REJECT (p : Nat) : Fld := ⟨LK_EVENT p, 11, 11⟩
@[reducible] def LK_EVENT.VER_LIMIT (p : Nat) : Fld := ⟨LK_EVENT p, 10, 10⟩
@[reducible] def LK_EVENT.LOST (p : Nat) : Fld := ⟨LK_EVENT p, 9, 9⟩
@[reducible] def LK_EVENT.PORT_RETIRED (p : Nat) : Fld := ⟨LK_EVENT p, 8, 8⟩
@[reducible] def LK_EVENT.NARROWED (p : Nat) : Fld := ⟨LK_EVENT p, 7, 7⟩
@[reducible] def LK_EVENT.REPLAY_FAIL (p : Nat) : Fld := ⟨LK_EVENT p, 6, 6⟩
@[reducible] def LK_EVENT.REJOIN_RCVD (p : Nat) : Fld := ⟨LK_EVENT p, 5, 5⟩
@[reducible] def LK_EVENT.FENCE (p : Nat) : Fld := ⟨LK_EVENT p, 4, 4⟩
@[reducible] def LK_EVENT.REVIVE (p : Nat) : Fld := ⟨LK_EVENT p, 3, 3⟩
@[reducible] def LK_EVENT.DEAD (p : Nat) : Fld := ⟨LK_EVENT p, 2, 2⟩
@[reducible] def LK_EVENT.PORT_UP (p : Nat) : Fld := ⟨LK_EVENT p, 1, 1⟩
@[reducible] def LK_EVENT.PORT_DOWN (p : Nat) : Fld := ⟨LK_EVENT p, 0, 0⟩
/-- `LK_EVENT_EN`, link event enables (R148, 03_spine_link.md). -/
@[reducible] def LK_EVENT_EN (p : Nat) : Nat := 0x100430 + p * 0x10000
@[reducible] def LK_EVENT_EN.EN_MASK (p : Nat) : Fld := ⟨LK_EVENT_EN p, 14, 0⟩
/-- `LK_CRC_ERR`, CRC errors (R148, 03_spine_link.md). -/
@[reducible] def LK_CRC_ERR (p : Nat) : Nat := 0x100434 + p * 0x10000
@[reducible] def LK_CRC_ERR.CRC_ERR (p : Nat) : Fld := ⟨LK_CRC_ERR p, 31, 0⟩
/-- `LK_NAK`, replay requests (R148, 03_spine_link.md). -/
@[reducible] def LK_NAK (p : Nat) : Nat := 0x100438 + p * 0x10000
@[reducible] def LK_NAK.NAK_TX (p : Nat) : Fld := ⟨LK_NAK p, 31, 16⟩
@[reducible] def LK_NAK.NAK_RX (p : Nat) : Fld := ⟨LK_NAK p, 15, 0⟩
/-- `LK_REPLAY`, replays (R148, 03_spine_link.md). -/
@[reducible] def LK_REPLAY (p : Nat) : Nat := 0x10043C + p * 0x10000
@[reducible] def LK_REPLAY.TMO (p : Nat) : Fld := ⟨LK_REPLAY p, 31, 24⟩
@[reducible] def LK_REPLAY.REPLAYED (p : Nat) : Fld := ⟨LK_REPLAY p, 23, 0⟩
/-- `LK_DISCARD`, discarded frames (R148, 03_spine_link.md). -/
@[reducible] def LK_DISCARD (p : Nat) : Nat := 0x100440 + p * 0x10000
@[reducible] def LK_DISCARD.DUP (p : Nat) : Fld := ⟨LK_DISCARD p, 31, 16⟩
@[reducible] def LK_DISCARD.FENCED (p : Nat) : Fld := ⟨LK_DISCARD p, 15, 0⟩
/-- `LK_BEACON`, beacon watch (R148, 03_spine_link.md). -/
@[reducible] def LK_BEACON (p : Nat) : Nat := 0x100444 + p * 0x10000
@[reducible] def LK_BEACON.MISS (p : Nat) : Fld := ⟨LK_BEACON p, 31, 27⟩
@[reducible] def LK_BEACON.MISSED (p : Nat) : Fld := ⟨LK_BEACON p, 15, 0⟩
/-- `LK_LOST`, lost and rejected frames (R148, 03_spine_link.md). -/
@[reducible] def LK_LOST (p : Nat) : Nat := 0x100448 + p * 0x10000
@[reducible] def LK_LOST.LOST (p : Nat) : Fld := ⟨LK_LOST p, 31, 16⟩
@[reducible] def LK_LOST.MALFORMED (p : Nat) : Fld := ⟨LK_LOST p, 15, 8⟩
@[reducible] def LK_LOST.BAD_ACK (p : Nat) : Fld := ⟨LK_LOST p, 7, 0⟩
/-- `LK_CREDIT_STALL`, credit waits (R148, 03_spine_link.md). -/
@[reducible] def LK_CREDIT_STALL (p : Nat) : Nat := 0x10044C + p * 0x10000
@[reducible] def LK_CREDIT_STALL.STALL (p : Nat) : Fld := ⟨LK_CREDIT_STALL p, 31, 0⟩
/-- `JN_CFG`, Junction configuration (R186, 04_junction.md). -/
@[reducible] def JN_CFG : Nat := 0x200000
@[reducible] def JN_CFG.LOSSLESS : Fld := ⟨JN_CFG, 31, 24⟩
@[reducible] def JN_CFG.MIR_TC : Fld := ⟨JN_CFG, 23, 21⟩
@[reducible] def JN_CFG.MIR_FREE : Fld := ⟨JN_CFG, 20, 9⟩
/-- `JN_RSV`, local reserve (R186, 04_junction.md). -/
@[reducible] def JN_RSV : Nat := 0x200004
@[reducible] def JN_RSV.LOCAL_RSV : Fld := ⟨JN_RSV, 11, 0⟩
/-- `JN_MP_CFG`, multipath hold (R186, 04_junction.md). -/
@[reducible] def JN_MP_CFG : Nat := 0x200008
@[reducible] def JN_MP_CFG.MP_HOLD : Fld := ⟨JN_MP_CFG, 7, 0⟩
/-- `JN_STATUS`, Junction status (R186, 04_junction.md). -/
@[reducible] def JN_STATUS : Nat := 0x20000C
@[reducible] def JN_STATUS.MP_FAIL : Fld := ⟨JN_STATUS, 19, 16⟩
@[reducible] def JN_STATUS.DRAINING : Fld := ⟨JN_STATUS, 15, 12⟩
@[reducible] def JN_STATUS.LL_PENDING : Fld := ⟨JN_STATUS, 11, 8⟩
/-- `JN_EVENT`, Junction events (R186, 04_junction.md). -/
@[reducible] def JN_EVENT : Nat := 0x200010
@[reducible] def JN_EVENT.LL_PENDING : Fld := ⟨JN_EVENT, 10, 10⟩
@[reducible] def JN_EVENT.MP_RETURN : Fld := ⟨JN_EVENT, 9, 9⟩
@[reducible] def JN_EVENT.MP_FAIL : Fld := ⟨JN_EVENT, 8, 8⟩
@[reducible] def JN_EVENT.NO_PATH : Fld := ⟨JN_EVENT, 7, 7⟩
@[reducible] def JN_EVENT.LOOP : Fld := ⟨JN_EVENT, 6, 6⟩
@[reducible] def JN_EVENT.UNROUTE : Fld := ⟨JN_EVENT, 5, 5⟩
@[reducible] def JN_EVENT.MISROUTE : Fld := ⟨JN_EVENT, 4, 4⟩
@[reducible] def JN_EVENT.MALFORMED : Fld := ⟨JN_EVENT, 3, 3⟩
@[reducible] def JN_EVENT.ROW_REPAIR : Fld := ⟨JN_EVENT, 2, 2⟩
@[reducible] def JN_EVENT.ECC_UE : Fld := ⟨JN_EVENT, 1, 1⟩
@[reducible] def JN_EVENT.ECC_CE : Fld := ⟨JN_EVENT, 0, 0⟩
/-- `JN_EVENT_EN`, Junction event enables (R186, 04_junction.md). -/
@[reducible] def JN_EVENT_EN : Nat := 0x200014
@[reducible] def JN_EVENT_EN.EN_MASK : Fld := ⟨JN_EVENT_EN, 10, 0⟩
/-- `JN_IN_DROP`, input discards (R186, 04_junction.md). -/
@[reducible] def JN_IN_DROP (i : Nat) : Nat := 0x200200 + i * 0x10
@[reducible] def JN_IN_DROP.TAIL (i : Nat) : Fld := ⟨JN_IN_DROP i, 31, 16⟩
@[reducible] def JN_IN_DROP.MIR_DROP (i : Nat) : Fld := ⟨JN_IN_DROP i, 15, 0⟩
/-- `JN_IN_BAD`, input rejects (R186, 04_junction.md). -/
@[reducible] def JN_IN_BAD (i : Nat) : Nat := 0x200204 + i * 0x10
@[reducible] def JN_IN_BAD.MISROUTE (i : Nat) : Fld := ⟨JN_IN_BAD i, 31, 24⟩
@[reducible] def JN_IN_BAD.UNROUTE (i : Nat) : Fld := ⟨JN_IN_BAD i, 23, 16⟩
@[reducible] def JN_IN_BAD.MALFORMED (i : Nat) : Fld := ⟨JN_IN_BAD i, 15, 8⟩
@[reducible] def JN_IN_BAD.LOOP (i : Nat) : Fld := ⟨JN_IN_BAD i, 7, 0⟩
/-- `JN_IN_ECC`, input memory errors (R186, 04_junction.md). -/
@[reducible] def JN_IN_ECC (i : Nat) : Nat := 0x200208 + i * 0x10
@[reducible] def JN_IN_ECC.ECC_CE (i : Nat) : Fld := ⟨JN_IN_ECC i, 31, 16⟩
@[reducible] def JN_IN_ECC.ECC_UE (i : Nat) : Fld := ⟨JN_IN_ECC i, 15, 8⟩
@[reducible] def JN_IN_ECC.NO_PATH (i : Nat) : Fld := ⟨JN_IN_ECC i, 7, 0⟩
/-- `JN_IN_OCC`, input occupancy (R186, 04_junction.md). -/
@[reducible] def JN_IN_OCC (i : Nat) : Nat := 0x20020C + i * 0x10
@[reducible] def JN_IN_OCC.PEAK (i : Nat) : Fld := ⟨JN_IN_OCC i, 28, 16⟩
@[reducible] def JN_IN_OCC.OCC (i : Nat) : Fld := ⟨JN_IN_OCC i, 12, 0⟩
/-- `JN_OUT_MARK`, marked cells (R186, 04_junction.md). -/
@[reducible] def JN_OUT_MARK (o : Nat) : Nat := 0x200300 + o * 0x4
@[reducible] def JN_OUT_MARK.MARKED (o : Nat) : Fld := ⟨JN_OUT_MARK o, 31, 0⟩
/-- `JN_MIR_CFG`, mirror session n (R186, 04_junction.md). -/
@[reducible] def JN_MIR_CFG (n : Nat) : Nat := 0x200400 + n * 0x10
@[reducible] def JN_MIR_CFG.EN (n : Nat) : Fld := ⟨JN_MIR_CFG n, 31, 31⟩
@[reducible] def JN_MIR_CFG.SEL (n : Nat) : Fld := ⟨JN_MIR_CFG n, 30, 29⟩
@[reducible] def JN_MIR_CFG.DIR (n : Nat) : Fld := ⟨JN_MIR_CFG n, 28, 27⟩
@[reducible] def JN_MIR_CFG.PORT (n : Nat) : Fld := ⟨JN_MIR_CFG n, 26, 23⟩
/-- `JN_MIR_MATCH`, mirror match (R186, 04_junction.md). -/
@[reducible] def JN_MIR_MATCH (n : Nat) : Nat := 0x200404 + n * 0x10
@[reducible] def JN_MIR_MATCH.M_HUB (n : Nat) : Fld := ⟨JN_MIR_MATCH n, 31, 21⟩
@[reducible] def JN_MIR_MATCH.M_ADP (n : Nat) : Fld := ⟨JN_MIR_MATCH n, 20, 16⟩
@[reducible] def JN_MIR_MATCH.M_KEY (n : Nat) : Fld := ⟨JN_MIR_MATCH n, 11, 0⟩
/-- `JN_MIR_RATE`, mirror sampling (R186, 04_junction.md). -/
@[reducible] def JN_MIR_RATE (n : Nat) : Nat := 0x200408 + n * 0x10
@[reducible] def JN_MIR_RATE.N (n : Nat) : Fld := ⟨JN_MIR_RATE n, 31, 16⟩
/-- `JN_MIR_TGT`, mirror target (R186, 04_junction.md). -/
@[reducible] def JN_MIR_TGT (n : Nat) : Nat := 0x20040C + n * 0x10
@[reducible] def JN_MIR_TGT.T_HUB (n : Nat) : Fld := ⟨JN_MIR_TGT n, 31, 21⟩
@[reducible] def JN_MIR_TGT.T_ADP (n : Nat) : Fld := ⟨JN_MIR_TGT n, 20, 16⟩
@[reducible] def JN_MIR_TGT.T_TUNNEL (n : Nat) : Fld := ⟨JN_MIR_TGT n, 11, 0⟩
/-- `JN_MIR_COPIES`, copies made (R186, 04_junction.md). -/
@[reducible] def JN_MIR_COPIES (n : Nat) : Nat := 0x200480 + n * 0x4
@[reducible] def JN_MIR_COPIES.COPIES (n : Nat) : Fld := ⟨JN_MIR_COPIES n, 31, 0⟩
/-- `JN_MARK`, marking threshold (R186, 04_junction.md). -/
@[reducible] def JN_MARK (o : Nat) (c : Nat) : Nat := 0x200800 + o * 0x20 + c * 0x4
@[reducible] def JN_MARK.MARK_EN (o : Nat) (c : Nat) : Fld := ⟨JN_MARK o c, 31, 31⟩
@[reducible] def JN_MARK.THRESH (o : Nat) (c : Nat) : Fld := ⟨JN_MARK o c, 11, 0⟩
/-- `JN_LIMIT`, static limit (R186, 04_junction.md). -/
@[reducible] def JN_LIMIT (i : Nat) (o : Nat) (c : Nat) : Nat := 0x201000 + i * 0x200 + o * 0x20 + c * 0x4
@[reducible] def JN_LIMIT.LIMIT (i : Nat) (o : Nat) (c : Nat) : Fld := ⟨JN_LIMIT i o c, 12, 0⟩
/-- `JN_ROUTE`, route entry (R186, 04_junction.md). -/
@[reducible] def JN_ROUTE (h : Nat) : Nat := 0x204000 + h * 0x4
@[reducible] def JN_ROUTE.KIND (h : Nat) : Fld := ⟨JN_ROUTE h, 31, 30⟩
@[reducible] def JN_ROUTE.GROUP (h : Nat) : Fld := ⟨JN_ROUTE h, 7, 2⟩
@[reducible] def JN_ROUTE.PORT (h : Nat) : Fld := ⟨JN_ROUTE h, 1, 0⟩
/-- `JN_GROUP`, multipath group (R186, 04_junction.md). -/
@[reducible] def JN_GROUP (g : Nat) : Nat := 0x206000 + g * 0x4
@[reducible] def JN_GROUP.COUNT (g : Nat) : Fld := ⟨JN_GROUP g, 28, 26⟩
@[reducible] def JN_GROUP.SEED (g : Nat) : Fld := ⟨JN_GROUP g, 23, 16⟩
@[reducible] def JN_GROUP.M3 (g : Nat) : Fld := ⟨JN_GROUP g, 7, 6⟩
@[reducible] def JN_GROUP.M2 (g : Nat) : Fld := ⟨JN_GROUP g, 5, 4⟩
@[reducible] def JN_GROUP.M1 (g : Nat) : Fld := ⟨JN_GROUP g, 3, 2⟩
@[reducible] def JN_GROUP.M0 (g : Nat) : Fld := ⟨JN_GROUP g, 1, 0⟩
/-- `JN_BUCKET`, bucket word (R186, 04_junction.md). -/
@[reducible] def JN_BUCKET (g : Nat) (w : Nat) : Nat := 0x208000 + g * 0x40 + w * 0x4
@[reducible] def JN_BUCKET.B (g : Nat) (w : Nat) : Fld := ⟨JN_BUCKET g w, 31, 0⟩
/-- `IMP_CFG`, Imposition configuration (R222, 05_imposition.md). -/
@[reducible] def IMP_CFG : Nat := 0x280000
@[reducible] def IMP_CFG.MS_PERIOD : Fld := ⟨IMP_CFG, 31, 25⟩
@[reducible] def IMP_CFG.GUARD : Fld := ⟨IMP_CFG, 24, 12⟩
@[reducible] def IMP_CFG.HEAD_SHIFT : Fld := ⟨IMP_CFG, 11, 8⟩
@[reducible] def IMP_CFG.SHRINK_N : Fld := ⟨IMP_CFG, 7, 0⟩
/-- `IMP_STATUS`, Imposition status (R222, 05_imposition.md). -/
@[reducible] def IMP_STATUS : Nat := 0x280004
@[reducible] def IMP_STATUS.FIRST_USE : Fld := ⟨IMP_STATUS, 31, 31⟩
@[reducible] def IMP_STATUS.HOLD_HIST : Fld := ⟨IMP_STATUS, 30, 30⟩
@[reducible] def IMP_STATUS.FIRST_LEFT : Fld := ⟨IMP_STATUS, 29, 25⟩
@[reducible] def IMP_STATUS.LATE_NOW : Fld := ⟨IMP_STATUS, 12, 0⟩
/-- `IMP_MS`, Milestone number (R222, 05_imposition.md). -/
@[reducible] def IMP_MS : Nat := 0x280008
@[reducible] def IMP_MS.MS_NUM : Fld := ⟨IMP_MS, 31, 0⟩
/-- `IMP_EVENT`, Imposition events (R222, 05_imposition.md). -/
@[reducible] def IMP_EVENT : Nat := 0x28000C
@[reducible] def IMP_EVENT.ACT_WR : Fld := ⟨IMP_EVENT, 7, 7⟩
@[reducible] def IMP_EVENT.FIRST_DONE : Fld := ⟨IMP_EVENT, 6, 6⟩
@[reducible] def IMP_EVENT.PACE_WAIT : Fld := ⟨IMP_EVENT, 5, 5⟩
@[reducible] def IMP_EVENT.GIVEBACK : Fld := ⟨IMP_EVENT, 4, 4⟩
@[reducible] def IMP_EVENT.SHED : Fld := ⟨IMP_EVENT, 3, 3⟩
@[reducible] def IMP_EVENT.REFUSED : Fld := ⟨IMP_EVENT, 2, 2⟩
@[reducible] def IMP_EVENT.MS_SKIP : Fld := ⟨IMP_EVENT, 1, 1⟩
@[reducible] def IMP_EVENT.LATE_SHEET : Fld := ⟨IMP_EVENT, 0, 0⟩
/-- `IMP_EVENT_EN`, Imposition event enables (R222, 05_imposition.md). -/
@[reducible] def IMP_EVENT_EN : Nat := 0x280010
@[reducible] def IMP_EVENT_EN.EN_MASK : Fld := ⟨IMP_EVENT_EN, 7, 0⟩
/-- `IMP_COUNT`, skips and active-bank writes (R222, 05_imposition.md). -/
@[reducible] def IMP_COUNT : Nat := 0x280014
@[reducible] def IMP_COUNT.MS_SKIP : Fld := ⟨IMP_COUNT, 31, 16⟩
@[reducible] def IMP_COUNT.ACT_WR : Fld := ⟨IMP_COUNT, 15, 0⟩
/-- `IMP_RING`, request ring pointers (R222, 05_imposition.md). -/
@[reducible] def IMP_RING : Nat := 0x280020
@[reducible] def IMP_RING.HEAD : Fld := ⟨IMP_RING, 23, 16⟩
@[reducible] def IMP_RING.TAIL : Fld := ⟨IMP_RING, 7, 0⟩
/-- `IMP_PORT_CFG`, output capacity (R222, 05_imposition.md). -/
@[reducible] def IMP_PORT_CFG (o : Nat) : Nat := 0x280100 + o * 0x10
@[reducible] def IMP_PORT_CFG.CAP_ENT (o : Nat) : Fld := ⟨IMP_PORT_CFG o, 12, 0⟩
/-- `IMP_PORT_CTL`, Sheet banks (R222, 05_imposition.md). -/
@[reducible] def IMP_PORT_CTL (o : Nat) : Nat := 0x280104 + o * 0x10
@[reducible] def IMP_PORT_CTL.SEAL (o : Nat) : Fld := ⟨IMP_PORT_CTL o, 31, 31⟩
@[reducible] def IMP_PORT_CTL.DIRTY (o : Nat) : Fld := ⟨IMP_PORT_CTL o, 30, 30⟩
@[reducible] def IMP_PORT_CTL.COPY_BUSY (o : Nat) : Fld := ⟨IMP_PORT_CTL o, 29, 29⟩
@[reducible] def IMP_PORT_CTL.BANK (o : Nat) : Fld := ⟨IMP_PORT_CTL o, 28, 28⟩
@[reducible] def IMP_PORT_CTL.LATE_LAST (o : Nat) : Fld := ⟨IMP_PORT_CTL o, 27, 27⟩
@[reducible] def IMP_PORT_CTL.IDX (o : Nat) : Fld := ⟨IMP_PORT_CTL o, 11, 0⟩
/-- `IMP_PORT_CAP`, capacity and commitment (R222, 05_imposition.md). -/
@[reducible] def IMP_PORT_CAP (o : Nat) : Nat := 0x280108 + o * 0x10
@[reducible] def IMP_PORT_CAP.CAP_NOW (o : Nat) : Fld := ⟨IMP_PORT_CAP o, 28, 16⟩
@[reducible] def IMP_PORT_CAP.COMMITTED (o : Nat) : Fld := ⟨IMP_PORT_CAP o, 12, 0⟩
/-- `IMP_PORT_CNT`, late Sheets and walker pauses (R222, 05_imposition.md). -/
@[reducible] def IMP_PORT_CNT (o : Nat) : Nat := 0x28010C + o * 0x10
@[reducible] def IMP_PORT_CNT.LATE (o : Nat) : Fld := ⟨IMP_PORT_CNT o, 31, 16⟩
@[reducible] def IMP_PORT_CNT.SLIP (o : Nat) : Fld := ⟨IMP_PORT_CNT o, 15, 0⟩
/-- `IMP_BE`, class limits (R222, 05_imposition.md). -/
@[reducible] def IMP_BE (o : Nat) (c : Nat) : Nat := 0x280400 + o * 0x20 + c * 0x4
@[reducible] def IMP_BE.BE_MIN (o : Nat) (c : Nat) : Fld := ⟨IMP_BE o c, 28, 16⟩
@[reducible] def IMP_BE.BE_MAX (o : Nat) (c : Nat) : Fld := ⟨IMP_BE o c, 12, 0⟩
/-- `DA_CFG`, adapter configuration (R254, 06_display_tunnels.md). -/
@[reducible] def DA_CFG (d : Nat) : Nat := 0x300000 + d * 0x10000
@[reducible] def DA_CFG.CAP_EN (d : Nat) : Fld := ⟨DA_CFG d, 31, 31⟩
@[reducible] def DA_CFG.CAP_SRC (d : Nat) : Fld := ⟨DA_CFG d, 30, 29⟩
@[reducible] def DA_CFG.CAP_PSR (d : Nat) : Fld := ⟨DA_CFG d, 28, 28⟩
@[reducible] def DA_CFG.AS_STRETCH (d : Nat) : Fld := ⟨DA_CFG d, 27, 27⟩
@[reducible] def DA_CFG.STATIC_MODE (d : Nat) : Fld := ⟨DA_CFG d, 26, 26⟩
@[reducible] def DA_CFG.STATIC_N (d : Nat) : Fld := ⟨DA_CFG d, 25, 22⟩
@[reducible] def DA_CFG.PL_EN (d : Nat) : Fld := ⟨DA_CFG d, 21, 21⟩
@[reducible] def DA_CFG.PL_EDP (d : Nat) : Fld := ⟨DA_CFG d, 20, 20⟩
@[reducible] def DA_CFG.PSR_EN (d : Nat) : Fld := ⟨DA_CFG d, 19, 19⟩
@[reducible] def DA_CFG.OUT_BPC (d : Nat) : Fld := ⟨DA_CFG d, 18, 17⟩
@[reducible] def DA_CFG.PL_LANES (d : Nat) : Fld := ⟨DA_CFG d, 16, 15⟩
@[reducible] def DA_CFG.PL_RATE (d : Nat) : Fld := ⟨DA_CFG d, 14, 12⟩
/-- `DA_CAP_TUN`, capture tunnel (R254, 06_display_tunnels.md). -/
@[reducible] def DA_CAP_TUN (d : Nat) : Nat := 0x300004 + d * 0x10000
@[reducible] def DA_CAP_TUN.DEST_HUB (d : Nat) : Fld := ⟨DA_CAP_TUN d, 31, 21⟩
@[reducible] def DA_CAP_TUN.DEST_ADP (d : Nat) : Fld := ⟨DA_CAP_TUN d, 20, 16⟩
@[reducible] def DA_CAP_TUN.TUNNEL (d : Nat) : Fld := ⟨DA_CAP_TUN d, 11, 0⟩
/-- `DA_CAP_AUX`, capture flow and far limits (R254, 06_display_tunnels.md). -/
@[reducible] def DA_CAP_AUX (d : Nat) : Nat := 0x300008 + d * 0x10000
@[reducible] def DA_CAP_AUX.CAP_FLOW (d : Nat) : Fld := ⟨DA_CAP_AUX d, 31, 21⟩
@[reducible] def DA_CAP_AUX.GB_VBMAX (d : Nat) : Fld := ⟨DA_CAP_AUX d, 20, 9⟩
/-- `DA_CAP_EXP_H`, expected capture width (R254, 06_display_tunnels.md). -/
@[reducible] def DA_CAP_EXP_H (d : Nat) : Nat := 0x30000C + d * 0x10000
@[reducible] def DA_CAP_EXP_H.EXP_W (d : Nat) : Fld := ⟨DA_CAP_EXP_H d, 27, 16⟩
@[reducible] def DA_CAP_EXP_H.EXP_BPC (d : Nat) : Fld := ⟨DA_CAP_EXP_H d, 1, 0⟩
/-- `DA_CAP_EXP_V`, expected capture height and range (R254, 06_display_tunnels.md). -/
@[reducible] def DA_CAP_EXP_V (d : Nat) : Nat := 0x300010 + d * 0x10000
@[reducible] def DA_CAP_EXP_V.EXP_H (d : Nat) : Fld := ⟨DA_CAP_EXP_V d, 31, 20⟩
@[reducible] def DA_CAP_EXP_V.AS_MAX_HZ (d : Nat) : Fld := ⟨DA_CAP_EXP_V d, 19, 10⟩
@[reducible] def DA_CAP_EXP_V.AS_MIN_HZ (d : Nat) : Fld := ⟨DA_CAP_EXP_V d, 9, 0⟩
/-- `DA_CAP_MEAS`, measured capture timing (R254, 06_display_tunnels.md). -/
@[reducible] def DA_CAP_MEAS (d : Nat) : Nat := 0x300014 + d * 0x10000
@[reducible] def DA_CAP_MEAS.M_W (d : Nat) : Fld := ⟨DA_CAP_MEAS d, 31, 20⟩
@[reducible] def DA_CAP_MEAS.M_VTOT (d : Nat) : Fld := ⟨DA_CAP_MEAS d, 19, 8⟩
@[reducible] def DA_CAP_MEAS.M_BPC (d : Nat) : Fld := ⟨DA_CAP_MEAS d, 7, 6⟩
@[reducible] def DA_CAP_MEAS.LINK_UP (d : Nat) : Fld := ⟨DA_CAP_MEAS d, 5, 5⟩
@[reducible] def DA_CAP_MEAS.M_LANES (d : Nat) : Fld := ⟨DA_CAP_MEAS d, 4, 3⟩
@[reducible] def DA_CAP_MEAS.M_RATE (d : Nat) : Fld := ⟨DA_CAP_MEAS d, 2, 0⟩
/-- `DA_CAP_RATE`, capture rate (R254, 06_display_tunnels.md). -/
@[reducible] def DA_CAP_RATE (d : Nat) : Nat := 0x300018 + d * 0x10000
@[reducible] def DA_CAP_RATE.NOM_RU (d : Nat) : Fld := ⟨DA_CAP_RATE d, 31, 16⟩
@[reducible] def DA_CAP_RATE.V_G (d : Nat) : Fld := ⟨DA_CAP_RATE d, 15, 0⟩
/-- `DA_CAP_CNT`, capture counts (R254, 06_display_tunnels.md). -/
@[reducible] def DA_CAP_CNT (d : Nat) : Nat := 0x30001C + d * 0x10000
@[reducible] def DA_CAP_CNT.CAP_DROP (d : Nat) : Fld := ⟨DA_CAP_CNT d, 31, 16⟩
@[reducible] def DA_CAP_CNT.FRAME_SKIP (d : Nat) : Fld := ⟨DA_CAP_CNT d, 15, 8⟩
@[reducible] def DA_CAP_CNT.SDP_DROP (d : Nat) : Fld := ⟨DA_CAP_CNT d, 7, 0⟩
/-- `DA_PL_TUN`, Platen tunnel and return address (R254, 06_display_tunnels.md). -/
@[reducible] def DA_PL_TUN (d : Nat) : Nat := 0x300020 + d * 0x10000
@[reducible] def DA_PL_TUN.PL_RET_HUB (d : Nat) : Fld := ⟨DA_PL_TUN d, 31, 21⟩
@[reducible] def DA_PL_TUN.PL_RET_ADP (d : Nat) : Fld := ⟨DA_PL_TUN d, 20, 16⟩
@[reducible] def DA_PL_TUN.START_LAG (d : Nat) : Fld := ⟨DA_PL_TUN d, 15, 12⟩
@[reducible] def DA_PL_TUN.PL_TUNNEL (d : Nat) : Fld := ⟨DA_PL_TUN d, 11, 0⟩
/-- `DA_PL_H`, Platen horizontal timing (R254, 06_display_tunnels.md). -/
@[reducible] def DA_PL_H (d : Nat) : Nat := 0x300024 + d * 0x10000
@[reducible] def DA_PL_H.PL_H_ACTIVE (d : Nat) : Fld := ⟨DA_PL_H d, 31, 20⟩
@[reducible] def DA_PL_H.PL_H_TOTAL (d : Nat) : Fld := ⟨DA_PL_H d, 19, 7⟩
/-- `DA_PL_HSYNC`, Platen horizontal sync (R254, 06_display_tunnels.md). -/
@[reducible] def DA_PL_HSYNC (d : Nat) : Nat := 0x300028 + d * 0x10000
@[reducible] def DA_PL_HSYNC.HS_POL (d : Nat) : Fld := ⟨DA_PL_HSYNC d, 31, 31⟩
@[reducible] def DA_PL_HSYNC.HS_START (d : Nat) : Fld := ⟨DA_PL_HSYNC d, 16, 8⟩
@[reducible] def DA_PL_HSYNC.HS_WIDTH (d : Nat) : Fld := ⟨DA_PL_HSYNC d, 7, 0⟩
/-- `DA_PL_V`, Platen vertical timing (R254, 06_display_tunnels.md). -/
@[reducible] def DA_PL_V (d : Nat) : Nat := 0x30002C + d * 0x10000
@[reducible] def DA_PL_V.VS_POL (d : Nat) : Fld := ⟨DA_PL_V d, 31, 31⟩
@[reducible] def DA_PL_V.PL_V_ACTIVE (d : Nat) : Fld := ⟨DA_PL_V d, 30, 19⟩
@[reducible] def DA_PL_V.VS_START (d : Nat) : Fld := ⟨DA_PL_V d, 18, 11⟩
@[reducible] def DA_PL_V.VS_WIDTH (d : Nat) : Fld := ⟨DA_PL_V d, 10, 4⟩
/-- `DA_PL_VB`, Platen blanking limits (R254, 06_display_tunnels.md). -/
@[reducible] def DA_PL_VB (d : Nat) : Nat := 0x300030 + d * 0x10000
@[reducible] def DA_PL_VB.VBLANK_MIN (d : Nat) : Fld := ⟨DA_PL_VB d, 27, 16⟩
@[reducible] def DA_PL_VB.VBLANK_MAX (d : Nat) : Fld := ⟨DA_PL_VB d, 11, 0⟩
/-- `DA_PL_CLK`, Platen pixel clock (R254, 06_display_tunnels.md). -/
@[reducible] def DA_PL_CLK (d : Nat) : Nat := 0x300034 + d * 0x10000
@[reducible] def DA_PL_CLK.PCLK_KHZ (d : Nat) : Fld := ⟨DA_PL_CLK d, 19, 0⟩
/-- `DA_PL_BG`, background colour (R254, 06_display_tunnels.md). -/
@[reducible] def DA_PL_BG (d : Nat) : Nat := 0x300038 + d * 0x10000
@[reducible] def DA_PL_BG.BG (d : Nat) : Fld := ⟨DA_PL_BG d, 29, 0⟩
/-- `DA_PL_STATUS`, Platen status (R254, 06_display_tunnels.md). -/
@[reducible] def DA_PL_STATUS (d : Nat) : Nat := 0x30003C + d * 0x10000
@[reducible] def DA_PL_STATUS.PL_STATE (d : Nat) : Fld := ⟨DA_PL_STATUS d, 31, 29⟩
@[reducible] def DA_PL_STATUS.HPD (d : Nat) : Fld := ⟨DA_PL_STATUS d, 28, 28⟩
@[reducible] def DA_PL_STATUS.PL_FRAME (d : Nat) : Fld := ⟨DA_PL_STATUS d, 27, 20⟩
@[reducible] def DA_PL_STATUS.PL_LINE (d : Nat) : Fld := ⟨DA_PL_STATUS d, 19, 8⟩
@[reducible] def DA_PL_STATUS.IN_BLANK (d : Nat) : Fld := ⟨DA_PL_STATUS d, 7, 7⟩
/-- `DA_PL_CNT`, Platen counts (R254, 06_display_tunnels.md). -/
@[reducible] def DA_PL_CNT (d : Nat) : Nat := 0x300040 + d * 0x10000
@[reducible] def DA_PL_CNT.UNDERRUN (d : Nat) : Fld := ⟨DA_PL_CNT d, 31, 16⟩
@[reducible] def DA_PL_CNT.LATE_LINE (d : Nat) : Fld := ⟨DA_PL_CNT d, 15, 8⟩
@[reducible] def DA_PL_CNT.OVERFLOW (d : Nat) : Fld := ⟨DA_PL_CNT d, 7, 0⟩
/-- `DA_PL_CNT2`, Platen rejects (R254, 06_display_tunnels.md). -/
@[reducible] def DA_PL_CNT2 (d : Nat) : Nat := 0x300044 + d * 0x10000
@[reducible] def DA_PL_CNT2.FOREIGN (d : Nat) : Fld := ⟨DA_PL_CNT2 d, 31, 16⟩
@[reducible] def DA_PL_CNT2.DESC_ERR (d : Nat) : Fld := ⟨DA_PL_CNT2 d, 15, 8⟩
@[reducible] def DA_PL_CNT2.STALE (d : Nat) : Fld := ⟨DA_PL_CNT2 d, 7, 4⟩
/-- `DA_PL_VMAX`, forced frame starts (R254, 06_display_tunnels.md). -/
@[reducible] def DA_PL_VMAX (d : Nat) : Nat := 0x300048 + d * 0x10000
@[reducible] def DA_PL_VMAX.VMAX_START (d : Nat) : Fld := ⟨DA_PL_VMAX d, 31, 0⟩
/-- `DA_CAP_LINE`, measured line rate and cells per line (R254, 06_display_tunnels.md). -/
@[reducible] def DA_CAP_LINE (d : Nat) : Nat := 0x30004C + d * 0x10000
@[reducible] def DA_CAP_LINE.M_LRATE (d : Nat) : Fld := ⟨DA_CAP_LINE d, 31, 12⟩
@[reducible] def DA_CAP_LINE.M_CELLS (d : Nat) : Fld := ⟨DA_CAP_LINE d, 7, 0⟩
/-- `DA_AUX_CTL`, AUX transaction (R254, 06_display_tunnels.md). -/
@[reducible] def DA_AUX_CTL (d : Nat) : Nat := 0x300050 + d * 0x10000
@[reducible] def DA_AUX_CTL.GO (d : Nat) : Fld := ⟨DA_AUX_CTL d, 31, 31⟩
@[reducible] def DA_AUX_CTL.BUSY (d : Nat) : Fld := ⟨DA_AUX_CTL d, 30, 30⟩
@[reducible] def DA_AUX_CTL.RESULT (d : Nat) : Fld := ⟨DA_AUX_CTL d, 29, 28⟩
@[reducible] def DA_AUX_CTL.CMD (d : Nat) : Fld := ⟨DA_AUX_CTL d, 27, 24⟩
@[reducible] def DA_AUX_CTL.LEN_M1 (d : Nat) : Fld := ⟨DA_AUX_CTL d, 23, 20⟩
@[reducible] def DA_AUX_CTL.ADDR (d : Nat) : Fld := ⟨DA_AUX_CTL d, 19, 0⟩
/-- `DA_AUX_DATA`, AUX data (R254, 06_display_tunnels.md). -/
@[reducible] def DA_AUX_DATA (d : Nat) (j : Nat) : Nat := 0x300054 + d * 0x10000 + j * 0x4
@[reducible] def DA_AUX_DATA.DATA (d : Nat) (j : Nat) : Fld := ⟨DA_AUX_DATA d j, 31, 0⟩
/-- `DA_EVENT`, display events (R254, 06_display_tunnels.md). -/
@[reducible] def DA_EVENT (d : Nat) : Nat := 0x300064 + d * 0x10000
@[reducible] def DA_EVENT.FAR_HPD (d : Nat) : Fld := ⟨DA_EVENT d, 10, 10⟩
@[reducible] def DA_EVENT.KA_LOST (d : Nat) : Fld := ⟨DA_EVENT d, 9, 9⟩
@[reducible] def DA_EVENT.PSR_EXIT (d : Nat) : Fld := ⟨DA_EVENT d, 8, 8⟩
@[reducible] def DA_EVENT.PSR_ENTER (d : Nat) : Fld := ⟨DA_EVENT d, 7, 7⟩
@[reducible] def DA_EVENT.HPD_IRQ (d : Nat) : Fld := ⟨DA_EVENT d, 6, 6⟩
@[reducible] def DA_EVENT.HPD_CHG (d : Nat) : Fld := ⟨DA_EVENT d, 5, 5⟩
@[reducible] def DA_EVENT.LINK_BW (d : Nat) : Fld := ⟨DA_EVENT d, 4, 4⟩
@[reducible] def DA_EVENT.UNDERRUN (d : Nat) : Fld := ⟨DA_EVENT d, 3, 3⟩
@[reducible] def DA_EVENT.MODE_MISMATCH (d : Nat) : Fld := ⟨DA_EVENT d, 2, 2⟩
@[reducible] def DA_EVENT.CAP_LINK (d : Nat) : Fld := ⟨DA_EVENT d, 1, 1⟩
@[reducible] def DA_EVENT.CFG_BAD (d : Nat) : Fld := ⟨DA_EVENT d, 0, 0⟩
/-- `DA_EVENT_EN`, display event enables (R254, 06_display_tunnels.md). -/
@[reducible] def DA_EVENT_EN (d : Nat) : Nat := 0x300068 + d * 0x10000
@[reducible] def DA_EVENT_EN.EN_MASK (d : Nat) : Fld := ⟨DA_EVENT_EN d, 10, 0⟩
/-- `PX_CFG`, adapter configuration (R290, 07_storage_and_network_tunnels.md). -/
@[reducible] def PX_CFG : Nat := 0x340000
@[reducible] def PX_CFG.EN : Fld := ⟨PX_CFG, 31, 31⟩
@[reducible] def PX_CFG.MODE : Fld := ⟨PX_CFG, 30, 30⟩
@[reducible] def PX_CFG.MAX_WIDTH : Fld := ⟨PX_CFG, 29, 28⟩
@[reducible] def PX_CFG.MAX_SPEED : Fld := ⟨PX_CFG, 27, 26⟩
@[reducible] def PX_CFG.VP_COUNT : Fld := ⟨PX_CFG, 25, 22⟩
@[reducible] def PX_CFG.BIND_TMO : Fld := ⟨PX_CFG, 21, 16⟩
@[reducible] def PX_CFG.TUN_BASE : Fld := ⟨PX_CFG, 15, 4⟩
/-- `PX_ID`, PCI identity (R290, 07_storage_and_network_tunnels.md). -/
@[reducible] def PX_ID : Nat := 0x340004
@[reducible] def PX_ID.PCI_DID : Fld := ⟨PX_ID, 31, 16⟩
@[reducible] def PX_ID.PCI_VID : Fld := ⟨PX_ID, 15, 0⟩
/-- `PX_LINK`, link status (R290, 07_storage_and_network_tunnels.md). -/
@[reducible] def PX_LINK : Nat := 0x340008
@[reducible] def PX_LINK.LTSSM : Fld := ⟨PX_LINK, 31, 26⟩
@[reducible] def PX_LINK.DL_UP : Fld := ⟨PX_LINK, 25, 25⟩
@[reducible] def PX_LINK.NEG_WIDTH : Fld := ⟨PX_LINK, 24, 23⟩
@[reducible] def PX_LINK.NEG_SPEED : Fld := ⟨PX_LINK, 22, 21⟩
@[reducible] def PX_LINK.PERST : Fld := ⟨PX_LINK, 20, 20⟩
/-- `PX_DB`, Downstream Binding state (R290, 07_storage_and_network_tunnels.md). -/
@[reducible] def PX_DB : Nat := 0x34000C
@[reducible] def PX_DB.BOUND : Fld := ⟨PX_DB, 31, 31⟩
@[reducible] def PX_DB.BOUND_HUB : Fld := ⟨PX_DB, 30, 20⟩
@[reducible] def PX_DB.BOUND_TUN : Fld := ⟨PX_DB, 19, 8⟩
@[reducible] def PX_DB.DB_EPOCH : Fld := ⟨PX_DB, 7, 0⟩
/-- `PX_DB_CREDIT`, Downstream Binding pools (R290, 07_storage_and_network_tunnels.md). -/
@[reducible] def PX_DB_CREDIT : Nat := 0x340010
@[reducible] def PX_DB_CREDIT.CR_P : Fld := ⟨PX_DB_CREDIT, 31, 24⟩
@[reducible] def PX_DB_CREDIT.CR_NP : Fld := ⟨PX_DB_CREDIT, 23, 16⟩
@[reducible] def PX_DB_CREDIT.CR_CPL : Fld := ⟨PX_DB_CREDIT, 15, 8⟩
/-- `PX_EVENT`, PCIe events (R290, 07_storage_and_network_tunnels.md). -/
@[reducible] def PX_EVENT : Nat := 0x340080
@[reducible] def PX_EVENT.CFG_BAD : Fld := ⟨PX_EVENT, 7, 7⟩
@[reducible] def PX_EVENT.LINK_CHG : Fld := ⟨PX_EVENT, 6, 6⟩
@[reducible] def PX_EVENT.TUN_MALFORMED : Fld := ⟨PX_EVENT, 5, 5⟩
@[reducible] def PX_EVENT.TLP_GAP : Fld := ⟨PX_EVENT, 4, 4⟩
@[reducible] def PX_EVENT.SURPRISE : Fld := ⟨PX_EVENT, 3, 3⟩
@[reducible] def PX_EVENT.BIND_REFUSED : Fld := ⟨PX_EVENT, 2, 2⟩
@[reducible] def PX_EVENT.BIND_DOWN : Fld := ⟨PX_EVENT, 1, 1⟩
@[reducible] def PX_EVENT.BIND_UP : Fld := ⟨PX_EVENT, 0, 0⟩
/-- `PX_EVENT_EN`, PCIe event enables (R290, 07_storage_and_network_tunnels.md). -/
@[reducible] def PX_EVENT_EN : Nat := 0x340084
@[reducible] def PX_EVENT_EN.EN_MASK : Fld := ⟨PX_EVENT_EN, 7, 0⟩
/-- `PX_CNT`, adapter discards (R290, 07_storage_and_network_tunnels.md). -/
@[reducible] def PX_CNT : Nat := 0x340088
@[reducible] def PX_CNT.TUN_MALFORMED : Fld := ⟨PX_CNT, 31, 16⟩
@[reducible] def PX_CNT.P2P_DROP : Fld := ⟨PX_CNT, 15, 0⟩
/-- `PX_VP_BIND`, binding of VP_n (R290, 07_storage_and_network_tunnels.md). -/
@[reducible] def PX_VP_BIND (n : Nat) : Nat := 0x340100 + n * 0x10
@[reducible] def PX_VP_BIND.VP_EN (n : Nat) : Fld := ⟨PX_VP_BIND n, 31, 31⟩
@[reducible] def PX_VP_BIND.DB_HUB (n : Nat) : Fld := ⟨PX_VP_BIND n, 30, 20⟩
@[reducible] def PX_VP_BIND.DB_TUNNEL (n : Nat) : Fld := ⟨PX_VP_BIND n, 19, 8⟩
/-- `PX_VP_CREDIT`, pools of VP_n (R290, 07_storage_and_network_tunnels.md). -/
@[reducible] def PX_VP_CREDIT (n : Nat) : Nat := 0x340104 + n * 0x10
@[reducible] def PX_VP_CREDIT.CR_P (n : Nat) : Fld := ⟨PX_VP_CREDIT n, 31, 24⟩
@[reducible] def PX_VP_CREDIT.CR_NP (n : Nat) : Fld := ⟨PX_VP_CREDIT n, 23, 16⟩
@[reducible] def PX_VP_CREDIT.CR_CPL (n : Nat) : Fld := ⟨PX_VP_CREDIT n, 15, 8⟩
/-- `PX_VP_STATUS`, state of VP_n (R290, 07_storage_and_network_tunnels.md). -/
@[reducible] def PX_VP_STATUS (n : Nat) : Nat := 0x340108 + n * 0x10
@[reducible] def PX_VP_STATUS.BSTATE (n : Nat) : Fld := ⟨PX_VP_STATUS n, 31, 29⟩
@[reducible] def PX_VP_STATUS.REM_WIDTH (n : Nat) : Fld := ⟨PX_VP_STATUS n, 28, 27⟩
@[reducible] def PX_VP_STATUS.REM_SPEED (n : Nat) : Fld := ⟨PX_VP_STATUS n, 26, 25⟩
@[reducible] def PX_VP_STATUS.EPOCH (n : Nat) : Fld := ⟨PX_VP_STATUS n, 24, 17⟩
@[reducible] def PX_VP_STATUS.NP_OUT (n : Nat) : Fld := ⟨PX_VP_STATUS n, 16, 8⟩
/-- `PX_VP_CNT`, counts of VP_n (R290, 07_storage_and_network_tunnels.md). -/
@[reducible] def PX_VP_CNT (n : Nat) : Nat := 0x34010C + n * 0x10
@[reducible] def PX_VP_CNT.TLP_GAP (n : Nat) : Fld := ⟨PX_VP_CNT n, 31, 16⟩
@[reducible] def PX_VP_CNT.UR_DONE (n : Nat) : Fld := ⟨PX_VP_CNT n, 15, 8⟩
@[reducible] def PX_VP_CNT.UNEXP_CPL (n : Nat) : Fld := ⟨PX_VP_CNT n, 7, 0⟩
/-- `EN_CFG`, adapter configuration (R290, 07_storage_and_network_tunnels.md). -/
@[reducible] def EN_CFG (e : Nat) : Nat := 0x360000 + e * 0x10000
@[reducible] def EN_CFG.EN (e : Nat) : Fld := ⟨EN_CFG e, 31, 31⟩
@[reducible] def EN_CFG.EMODE (e : Nat) : Fld := ⟨EN_CFG e, 30, 28⟩
@[reducible] def EN_CFG.AN_EN (e : Nat) : Fld := ⟨EN_CFG e, 27, 27⟩
@[reducible] def EN_CFG.PAUSE_RX (e : Nat) : Fld := ⟨EN_CFG e, 26, 26⟩
@[reducible] def EN_CFG.PTP_EN (e : Nat) : Fld := ⟨EN_CFG e, 25, 25⟩
@[reducible] def EN_CFG.ECN_EN (e : Nat) : Fld := ⟨EN_CFG e, 24, 24⟩
@[reducible] def EN_CFG.AN_PORT (e : Nat) : Fld := ⟨EN_CFG e, 23, 23⟩
@[reducible] def EN_CFG.MISS_PIPE (e : Nat) : Fld := ⟨EN_CFG e, 22, 22⟩
@[reducible] def EN_CFG.MTU (e : Nat) : Fld := ⟨EN_CFG e, 21, 8⟩
/-- `EN_PORT`, port VLAN and pipe class (R290, 07_storage_and_network_tunnels.md). -/
@[reducible] def EN_PORT (e : Nat) : Nat := 0x360004 + e * 0x10000
@[reducible] def EN_PORT.ACCEPT (e : Nat) : Fld := ⟨EN_PORT e, 31, 30⟩
@[reducible] def EN_PORT.PVID (e : Nat) : Fld := ⟨EN_PORT e, 29, 18⟩
@[reducible] def EN_PORT.PIPE_TC (e : Nat) : Fld := ⟨EN_PORT e, 17, 15⟩
@[reducible] def EN_PORT.PIPE_FLOW (e : Nat) : Fld := ⟨EN_PORT e, 14, 4⟩
/-- `EN_PIPE`, pipe destination (R290, 07_storage_and_network_tunnels.md). -/
@[reducible] def EN_PIPE (e : Nat) : Nat := 0x360008 + e * 0x10000
@[reducible] def EN_PIPE.P_HUB (e : Nat) : Fld := ⟨EN_PIPE e, 31, 21⟩
@[reducible] def EN_PIPE.P_ADP (e : Nat) : Fld := ⟨EN_PIPE e, 20, 16⟩
@[reducible] def EN_PIPE.P_TUNNEL (e : Nat) : Fld := ⟨EN_PIPE e, 11, 0⟩
/-- `EN_TBL`, table places (R290, 07_storage_and_network_tunnels.md). -/
@[reducible] def EN_TBL (e : Nat) : Nat := 0x36000C + e * 0x10000
@[reducible] def EN_TBL.FWD_OFS (e : Nat) : Fld := ⟨EN_TBL e, 31, 16⟩
@[reducible] def EN_TBL.EGR_OFS (e : Nat) : Fld := ⟨EN_TBL e, 15, 0⟩
/-- `EN_AN_MAC0`, analysis destination, low (R290, 07_storage_and_network_tunnels.md). -/
@[reducible] def EN_AN_MAC0 (e : Nat) : Nat := 0x360010 + e * 0x10000
@[reducible] def EN_AN_MAC0.AN_DA_LO (e : Nat) : Fld := ⟨EN_AN_MAC0 e, 31, 0⟩
/-- `EN_AN_MAC1`, analysis addresses, high (R290, 07_storage_and_network_tunnels.md). -/
@[reducible] def EN_AN_MAC1 (e : Nat) : Nat := 0x360014 + e * 0x10000
@[reducible] def EN_AN_MAC1.AN_SA_HI (e : Nat) : Fld := ⟨EN_AN_MAC1 e, 31, 16⟩
@[reducible] def EN_AN_MAC1.AN_DA_HI (e : Nat) : Fld := ⟨EN_AN_MAC1 e, 15, 0⟩
/-- `EN_AN_MAC2`, analysis source, low (R290, 07_storage_and_network_tunnels.md). -/
@[reducible] def EN_AN_MAC2 (e : Nat) : Nat := 0x360018 + e * 0x10000
@[reducible] def EN_AN_MAC2.AN_SA_LO (e : Nat) : Fld := ⟨EN_AN_MAC2 e, 31, 0⟩
/-- `EN_STATUS`, adapter status (R290, 07_storage_and_network_tunnels.md). -/
@[reducible] def EN_STATUS (e : Nat) : Nat := 0x360020 + e * 0x10000
@[reducible] def EN_STATUS.LINK_UP (e : Nat) : Fld := ⟨EN_STATUS e, 31, 31⟩
@[reducible] def EN_STATUS.SG_SPEED (e : Nat) : Fld := ⟨EN_STATUS e, 30, 29⟩
@[reducible] def EN_STATUS.PAUSED (e : Nat) : Fld := ⟨EN_STATUS e, 28, 28⟩
@[reducible] def EN_STATUS.CTX_USED (e : Nat) : Fld := ⟨EN_STATUS e, 27, 21⟩
/-- `EN_EVENT`, Ethernet events (R290, 07_storage_and_network_tunnels.md). -/
@[reducible] def EN_EVENT (e : Nat) : Nat := 0x360040 + e * 0x10000
@[reducible] def EN_EVENT.CFG_BAD (e : Nat) : Fld := ⟨EN_EVENT e, 4, 4⟩
@[reducible] def EN_EVENT.E2E_FCS (e : Nat) : Fld := ⟨EN_EVENT e, 3, 3⟩
@[reducible] def EN_EVENT.CTX_FULL (e : Nat) : Fld := ⟨EN_EVENT e, 2, 2⟩
@[reducible] def EN_EVENT.IN_FULL (e : Nat) : Fld := ⟨EN_EVENT e, 1, 1⟩
@[reducible] def EN_EVENT.LINK_CHG (e : Nat) : Fld := ⟨EN_EVENT e, 0, 0⟩
/-- `EN_EVENT_EN`, Ethernet event enables (R290, 07_storage_and_network_tunnels.md). -/
@[reducible] def EN_EVENT_EN (e : Nat) : Nat := 0x360044 + e * 0x10000
@[reducible] def EN_EVENT_EN.EN_MASK (e : Nat) : Fld := ⟨EN_EVENT_EN e, 4, 0⟩
/-- `EN_RX_CNT`, frames received (R290, 07_storage_and_network_tunnels.md). -/
@[reducible] def EN_RX_CNT (e : Nat) : Nat := 0x360050 + e * 0x10000
@[reducible] def EN_RX_CNT.RX_FRAMES (e : Nat) : Fld := ⟨EN_RX_CNT e, 31, 0⟩
/-- `EN_RX_DROP`, ingress discards (R290, 07_storage_and_network_tunnels.md). -/
@[reducible] def EN_RX_DROP (e : Nat) : Nat := 0x360054 + e * 0x10000
@[reducible] def EN_RX_DROP.FCS_ERR (e : Nat) : Fld := ⟨EN_RX_DROP e, 31, 24⟩
@[reducible] def EN_RX_DROP.SIZE_ERR (e : Nat) : Fld := ⟨EN_RX_DROP e, 23, 16⟩
@[reducible] def EN_RX_DROP.IN_FULL (e : Nat) : Fld := ⟨EN_RX_DROP e, 15, 8⟩
@[reducible] def EN_RX_DROP.FILTERED (e : Nat) : Fld := ⟨EN_RX_DROP e, 7, 0⟩
/-- `EN_TX_CNT`, frames sent (R290, 07_storage_and_network_tunnels.md). -/
@[reducible] def EN_TX_CNT (e : Nat) : Nat := 0x360058 + e * 0x10000
@[reducible] def EN_TX_CNT.TX_FRAMES (e : Nat) : Fld := ⟨EN_TX_CNT e, 31, 0⟩
/-- `EN_TX_DROP`, egress discards (R290, 07_storage_and_network_tunnels.md). -/
@[reducible] def EN_TX_DROP (e : Nat) : Nat := 0x36005C + e * 0x10000
@[reducible] def EN_TX_DROP.E2E_FCS (e : Nat) : Fld := ⟨EN_TX_DROP e, 31, 24⟩
@[reducible] def EN_TX_DROP.REASM (e : Nat) : Fld := ⟨EN_TX_DROP e, 23, 16⟩
@[reducible] def EN_TX_DROP.CTX_FULL (e : Nat) : Fld := ⟨EN_TX_DROP e, 15, 8⟩
@[reducible] def EN_TX_DROP.MIR_DISC (e : Nat) : Fld := ⟨EN_TX_DROP e, 7, 0⟩
/-- `EN_ECN`, ECN mapping (R290, 07_storage_and_network_tunnels.md). -/
@[reducible] def EN_ECN (e : Nat) : Nat := 0x360060 + e * 0x10000
@[reducible] def EN_ECN.ECN_MARKED (e : Nat) : Fld := ⟨EN_ECN e, 31, 16⟩
@[reducible] def EN_ECN.NOT_ECT (e : Nat) : Fld := ⟨EN_ECN e, 15, 0⟩
/-- `EN_TS_RX`, last receive timestamp (R290, 07_storage_and_network_tunnels.md). -/
@[reducible] def EN_TS_RX (e : Nat) : Nat := 0x360068 + e * 0x10000
@[reducible] def EN_TS_RX.TS_RX_NS (e : Nat) : Fld := ⟨EN_TS_RX e, 31, 0⟩
/-- `EN_TS_TX`, last transmit timestamp (R290, 07_storage_and_network_tunnels.md). -/
@[reducible] def EN_TS_TX (e : Nat) : Nat := 0x36006C + e * 0x10000
@[reducible] def EN_TS_TX.TS_TX_NS (e : Nat) : Fld := ⟨EN_TS_TX e, 31, 0⟩
/-- `LB_CFG`, bridge configuration (R321, 08_local_bus_bridge.md). -/
@[reducible] def LB_CFG : Nat := 0x380000
@[reducible] def LB_CFG.EN : Fld := ⟨LB_CFG, 31, 31⟩
@[reducible] def LB_CFG.LB_FREQ : Fld := ⟨LB_CFG, 30, 29⟩
@[reducible] def LB_CFG.NP_MODE : Fld := ⟨LB_CFG, 28, 28⟩
@[reducible] def LB_CFG.WAIT_MAX : Fld := ⟨LB_CFG, 27, 16⟩
@[reducible] def LB_CFG.FAR_TMO : Fld := ⟨LB_CFG, 15, 0⟩
/-- `LB_CFG2`, delayed entries and image access (R321, 08_local_bus_bridge.md). -/
@[reducible] def LB_CFG2 : Nat := 0x380004
@[reducible] def LB_CFG2.DLY_DISCARD : Fld := ⟨LB_CFG2, 31, 16⟩
@[reducible] def LB_CFG2.PI_LB_BASE : Fld := ⟨LB_CFG2, 15, 1⟩
@[reducible] def LB_CFG2.PI_LB_EN : Fld := ⟨LB_CFG2, 0, 0⟩
/-- `LB_STATUS`, bridge status (R321, 08_local_bus_bridge.md). -/
@[reducible] def LB_STATUS : Nat := 0x380008
@[reducible] def LB_STATUS.OWNER : Fld := ⟨LB_STATUS, 31, 30⟩
@[reducible] def LB_STATUS.IN_P : Fld := ⟨LB_STATUS, 29, 20⟩
@[reducible] def LB_STATUS.IN_NP : Fld := ⟨LB_STATUS, 19, 10⟩
@[reducible] def LB_STATUS.DLY_USED : Fld := ⟨LB_STATUS, 9, 6⟩
/-- `LB_EVENT`, bridge events (R321, 08_local_bus_bridge.md). -/
@[reducible] def LB_EVENT : Nat := 0x38000C
@[reducible] def LB_EVENT.CFG_BAD : Fld := ⟨LB_EVENT, 8, 8⟩
@[reducible] def LB_EVENT.SB_LOSS : Fld := ⟨LB_EVENT, 7, 7⟩
@[reducible] def LB_EVENT.PI_STALE : Fld := ⟨LB_EVENT, 6, 6⟩
@[reducible] def LB_EVENT.RESTART : Fld := ⟨LB_EVENT, 5, 5⟩
@[reducible] def LB_EVENT.FENCE : Fld := ⟨LB_EVENT, 4, 4⟩
@[reducible] def LB_EVENT.NP_TMO : Fld := ⟨LB_EVENT, 3, 3⟩
@[reducible] def LB_EVENT.BUS_ERR : Fld := ⟨LB_EVENT, 2, 2⟩
@[reducible] def LB_EVENT.NO_WIN : Fld := ⟨LB_EVENT, 1, 1⟩
@[reducible] def LB_EVENT.FAR_ERR : Fld := ⟨LB_EVENT, 0, 0⟩
/-- `LB_EVENT_EN`, bridge event enables (R321, 08_local_bus_bridge.md). -/
@[reducible] def LB_EVENT_EN : Nat := 0x380010
@[reducible] def LB_EVENT_EN.EN_MASK : Fld := ⟨LB_EVENT_EN, 8, 0⟩
/-- `LB_CNT`, bridge counts (R321, 08_local_bus_bridge.md). -/
@[reducible] def LB_CNT : Nat := 0x380014
@[reducible] def LB_CNT.NO_WIN : Fld := ⟨LB_CNT, 31, 24⟩
@[reducible] def LB_CNT.LATE_CPL : Fld := ⟨LB_CNT, 23, 16⟩
@[reducible] def LB_CNT.DLY_DISCARD : Fld := ⟨LB_CNT, 15, 8⟩
@[reducible] def LB_CNT.BUS_TMO : Fld := ⟨LB_CNT, 7, 0⟩
/-- `LB_CNT2`, fence and log counts (R321, 08_local_bus_bridge.md). -/
@[reducible] def LB_CNT2 : Nat := 0x380018
@[reducible] def LB_CNT2.FENCE_DROP : Fld := ⟨LB_CNT2, 31, 16⟩
@[reducible] def LB_CNT2.BUS_ERR : Fld := ⟨LB_CNT2, 15, 8⟩
@[reducible] def LB_CNT2.FEL_LOST : Fld := ⟨LB_CNT2, 7, 0⟩
/-- `SB_CFG`, sideband sampling (R321, 08_local_bus_bridge.md). -/
@[reducible] def SB_CFG : Nat := 0x380020
@[reducible] def SB_CFG.SB_EN : Fld := ⟨SB_CFG, 31, 31⟩
@[reducible] def SB_CFG.SB_PERIOD_US : Fld := ⟨SB_CFG, 30, 17⟩
@[reducible] def SB_CFG.SB_FILT : Fld := ⟨SB_CFG, 16, 15⟩
@[reducible] def SB_CFG.SB_TC : Fld := ⟨SB_CFG, 14, 12⟩
@[reducible] def SB_CFG.SB_DEST_HUB : Fld := ⟨SB_CFG, 11, 1⟩
/-- `SB_SRC`, sideband source (R321, 08_local_bus_bridge.md). -/
@[reducible] def SB_SRC : Nat := 0x380024
@[reducible] def SB_SRC.SB_SRC_HUB : Fld := ⟨SB_SRC, 31, 21⟩
@[reducible] def SB_SRC.SB_LOSS : Fld := ⟨SB_SRC, 20, 16⟩
@[reducible] def SB_SRC.SB_REMOTE : Fld := ⟨SB_SRC, 15, 0⟩
/-- `SB_OUT`, sideband output values (R321, 08_local_bus_bridge.md). -/
@[reducible] def SB_OUT : Nat := 0x380028
@[reducible] def SB_OUT.SB_SAFE : Fld := ⟨SB_OUT, 31, 16⟩
@[reducible] def SB_OUT.SB_OUT_REG : Fld := ⟨SB_OUT, 15, 0⟩
/-- `SB_STATE`, sideband levels (R321, 08_local_bus_bridge.md). -/
@[reducible] def SB_STATE : Nat := 0x38002C
@[reducible] def SB_STATE.IN_NOW : Fld := ⟨SB_STATE, 31, 16⟩
@[reducible] def SB_STATE.OUT_NOW : Fld := ⟨SB_STATE, 15, 0⟩
/-- `LB_WIN_OUT`, window n, outbound (R321, 08_local_bus_bridge.md). -/
@[reducible] def LB_WIN_OUT (n : Nat) : Nat := 0x380100 + n * 0x10
@[reducible] def LB_WIN_OUT.BASE (n : Nat) : Fld := ⟨LB_WIN_OUT n, 31, 12⟩
@[reducible] def LB_WIN_OUT.OUT_EN (n : Nat) : Fld := ⟨LB_WIN_OUT n, 11, 11⟩
@[reducible] def LB_WIN_OUT.FENCE_EN (n : Nat) : Fld := ⟨LB_WIN_OUT n, 10, 10⟩
@[reducible] def LB_WIN_OUT.W_TC (n : Nat) : Fld := ⟨LB_WIN_OUT n, 9, 7⟩
@[reducible] def LB_WIN_OUT.SIZE (n : Nat) : Fld := ⟨LB_WIN_OUT n, 4, 0⟩
/-- `LB_WIN_TGT`, window n, target (R321, 08_local_bus_bridge.md). -/
@[reducible] def LB_WIN_TGT (n : Nat) : Nat := 0x380104 + n * 0x10
@[reducible] def LB_WIN_TGT.T_HUB (n : Nat) : Fld := ⟨LB_WIN_TGT n, 31, 21⟩
@[reducible] def LB_WIN_TGT.T_WIN (n : Nat) : Fld := ⟨LB_WIN_TGT n, 20, 16⟩
@[reducible] def LB_WIN_TGT.WMODE (n : Nat) : Fld := ⟨LB_WIN_TGT n, 15, 8⟩
@[reducible] def LB_WIN_TGT.P_CR (n : Nat) : Fld := ⟨LB_WIN_TGT n, 7, 4⟩
@[reducible] def LB_WIN_TGT.NP_CR (n : Nat) : Fld := ⟨LB_WIN_TGT n, 3, 0⟩
/-- `LB_WIN_IN`, window n, inbound (R321, 08_local_bus_bridge.md). -/
@[reducible] def LB_WIN_IN (n : Nat) : Nat := 0x380108 + n * 0x10
@[reducible] def LB_WIN_IN.IN_BASE (n : Nat) : Fld := ⟨LB_WIN_IN n, 31, 12⟩
@[reducible] def LB_WIN_IN.IN_EN (n : Nat) : Fld := ⟨LB_WIN_IN n, 11, 11⟩
@[reducible] def LB_WIN_IN.IN_CS (n : Nat) : Fld := ⟨LB_WIN_IN n, 10, 9⟩
@[reducible] def LB_WIN_IN.IN_P_CR (n : Nat) : Fld := ⟨LB_WIN_IN n, 8, 5⟩
@[reducible] def LB_WIN_IN.IN_NP_CR (n : Nat) : Fld := ⟨LB_WIN_IN n, 4, 1⟩
/-- `LB_WIN_CTL`, window n, peer and state (R321, 08_local_bus_bridge.md). -/
@[reducible] def LB_WIN_CTL (n : Nat) : Nat := 0x38010C + n * 0x10
@[reducible] def LB_WIN_CTL.IN_HUB (n : Nat) : Fld := ⟨LB_WIN_CTL n, 31, 21⟩
@[reducible] def LB_WIN_CTL.IN_IWIN (n : Nat) : Fld := ⟨LB_WIN_CTL n, 20, 16⟩
@[reducible] def LB_WIN_CTL.FENCED (n : Nat) : Fld := ⟨LB_WIN_CTL n, 15, 15⟩
@[reducible] def LB_WIN_CTL.NP_OUT (n : Nat) : Fld := ⟨LB_WIN_CTL n, 9, 5⟩
/-- `LB_FEL_HDR`, log entry e, header (R321, 08_local_bus_bridge.md). -/
@[reducible] def LB_FEL_HDR (e : Nat) : Nat := 0x380400 + e * 0x20
@[reducible] def LB_FEL_HDR.V (e : Nat) : Fld := ⟨LB_FEL_HDR e, 31, 31⟩
@[reducible] def LB_FEL_HDR.CODE (e : Nat) : Fld := ⟨LB_FEL_HDR e, 30, 27⟩
@[reducible] def LB_FEL_HDR.INIT (e : Nat) : Fld := ⟨LB_FEL_HDR e, 26, 26⟩
@[reducible] def LB_FEL_HDR.WIN_SIG (e : Nat) : Fld := ⟨LB_FEL_HDR e, 25, 16⟩
@[reducible] def LB_FEL_HDR.FAR_HUB (e : Nat) : Fld := ⟨LB_FEL_HDR e, 10, 0⟩
/-- `LB_FEL_ADDR`, log entry e, address (R321, 08_local_bus_bridge.md). -/
@[reducible] def LB_FEL_ADDR (e : Nat) : Nat := 0x380404 + e * 0x20
@[reducible] def LB_FEL_ADDR.ADDR (e : Nat) : Fld := ⟨LB_FEL_ADDR e, 31, 0⟩
/-- `LB_FEL_TIME_HI`, log entry e, count and seconds high (R321, 08_local_bus_bridge.md). -/
@[reducible] def LB_FEL_TIME_HI (e : Nat) : Nat := 0x380408 + e * 0x20
@[reducible] def LB_FEL_TIME_HI.LOST_CNT (e : Nat) : Fld := ⟨LB_FEL_TIME_HI e, 31, 16⟩
@[reducible] def LB_FEL_TIME_HI.SEC_HI (e : Nat) : Fld := ⟨LB_FEL_TIME_HI e, 15, 0⟩
/-- `LB_FEL_TIME_LO`, log entry e, seconds low (R321, 08_local_bus_bridge.md). -/
@[reducible] def LB_FEL_TIME_LO (e : Nat) : Nat := 0x38040C + e * 0x20
@[reducible] def LB_FEL_TIME_LO.SEC_LO (e : Nat) : Fld := ⟨LB_FEL_TIME_LO e, 31, 0⟩
/-- `LB_FEL_NS`, log entry e, nanoseconds (R321, 08_local_bus_bridge.md). -/
@[reducible] def LB_FEL_NS (e : Nat) : Nat := 0x380410 + e * 0x20
@[reducible] def LB_FEL_NS.NS (e : Nat) : Fld := ⟨LB_FEL_NS e, 31, 0⟩
/-- `PI_STALE`, stale signals (R321, 08_local_bus_bridge.md). -/
@[reducible] def PI_STALE (w : Nat) : Nat := 0x380800 + w * 0x4
@[reducible] def PI_STALE.STALE (w : Nat) : Fld := ⟨PI_STALE w, 31, 0⟩
/-- `TM_CFG`, time configuration (R352, 09_domain_time.md). -/
@[reducible] def TM_CFG : Nat := 0x60000
@[reducible] def TM_CFG.SPINE_EN : Fld := ⟨TM_CFG, 31, 28⟩
@[reducible] def TM_CFG.GM_EN : Fld := ⟨TM_CFG, 27, 27⟩
@[reducible] def TM_CFG.SYNC_US : Fld := ⟨TM_CFG, 26, 16⟩
@[reducible] def TM_CFG.SYNC_LOSS : Fld := ⟨TM_CFG, 15, 12⟩
@[reducible] def TM_CFG.LOCK_NS : Fld := ⟨TM_CFG, 11, 0⟩
/-- `TM_JUMP`, jump threshold (R352, 09_domain_time.md). -/
@[reducible] def TM_JUMP : Nat := 0x60004
@[reducible] def TM_JUMP.JUMP_THR : Fld := ⟨TM_JUMP, 29, 0⟩
/-- `TM_SERVO`, servo settings (R352, 09_domain_time.md). -/
@[reducible] def TM_SERVO : Nat := 0x60008
@[reducible] def TM_SERVO.KP_SHIFT : Fld := ⟨TM_SERVO, 31, 28⟩
@[reducible] def TM_SERVO.KI_SHIFT : Fld := ⟨TM_SERVO, 27, 24⟩
@[reducible] def TM_SERVO.SLEW_PPM : Fld := ⟨TM_SERVO, 23, 16⟩
/-- `TM_GM`, grandmaster data set (R352, 09_domain_time.md). -/
@[reducible] def TM_GM : Nat := 0x6000C
@[reducible] def TM_GM.GM_PRIO1 : Fld := ⟨TM_GM, 31, 24⟩
@[reducible] def TM_GM.GM_CLASS : Fld := ⟨TM_GM, 23, 16⟩
@[reducible] def TM_GM.GM_ACC : Fld := ⟨TM_GM, 15, 8⟩
@[reducible] def TM_GM.GM_PRIO2 : Fld := ⟨TM_GM, 7, 0⟩
/-- `TM_PTP`, PTP on E0 and E1 (R352, 09_domain_time.md). -/
@[reducible] def TM_PTP : Nat := 0x60010
@[reducible] def TM_PTP.E0_ROLE : Fld := ⟨TM_PTP, 31, 30⟩
@[reducible] def TM_PTP.E1_ROLE : Fld := ⟨TM_PTP, 29, 28⟩
@[reducible] def TM_PTP.PROFILE : Fld := ⟨TM_PTP, 27, 27⟩
@[reducible] def TM_PTP.DELAY_MECH : Fld := ⟨TM_PTP, 26, 26⟩
@[reducible] def TM_PTP.TRANSPORT : Fld := ⟨TM_PTP, 25, 24⟩
@[reducible] def TM_PTP.DOMAIN : Fld := ⟨TM_PTP, 23, 16⟩
@[reducible] def TM_PTP.LOG_SYNC : Fld := ⟨TM_PTP, 15, 12⟩
/-- `TM_STATE`, servo state (R352, 09_domain_time.md). -/
@[reducible] def TM_STATE : Nat := 0x60020
@[reducible] def TM_STATE.TSTATE : Fld := ⟨TM_STATE, 31, 29⟩
@[reducible] def TM_STATE.PARENT : Fld := ⟨TM_STATE, 28, 26⟩
@[reducible] def TM_STATE.STEP_USED : Fld := ⟨TM_STATE, 25, 25⟩
@[reducible] def TM_STATE.RTC_HOLD : Fld := ⟨TM_STATE, 24, 24⟩
@[reducible] def TM_STATE.RTC_VALID : Fld := ⟨TM_STATE, 23, 23⟩
@[reducible] def TM_STATE.STEPS_NOW : Fld := ⟨TM_STATE, 22, 15⟩
@[reducible] def TM_STATE.PARENT_HUB : Fld := ⟨TM_STATE, 10, 0⟩
/-- `TM_CMD`, time commands (R352, 09_domain_time.md). -/
@[reducible] def TM_CMD : Nat := 0x60024
@[reducible] def TM_CMD.SET : Fld := ⟨TM_CMD, 1, 1⟩
@[reducible] def TM_CMD.ACCEPT : Fld := ⟨TM_CMD, 0, 0⟩
/-- `TM_NOW_NS`, time, nanoseconds (R352, 09_domain_time.md). -/
@[reducible] def TM_NOW_NS : Nat := 0x60028
@[reducible] def TM_NOW_NS.NOW_NS : Fld := ⟨TM_NOW_NS, 31, 0⟩
/-- `TM_NOW_SEC`, time, seconds low (R352, 09_domain_time.md). -/
@[reducible] def TM_NOW_SEC : Nat := 0x6002C
@[reducible] def TM_NOW_SEC.NOW_SEC_LO : Fld := ⟨TM_NOW_SEC, 31, 0⟩
/-- `TM_NOW_HI`, time, seconds high and fraction (R352, 09_domain_time.md). -/
@[reducible] def TM_NOW_HI : Nat := 0x60030
@[reducible] def TM_NOW_HI.NOW_SEC_HI : Fld := ⟨TM_NOW_HI, 31, 16⟩
@[reducible] def TM_NOW_HI.NOW_FRAC : Fld := ⟨TM_NOW_HI, 15, 0⟩
/-- `TM_OFFSET`, last offset (R352, 09_domain_time.md). -/
@[reducible] def TM_OFFSET : Nat := 0x60034
@[reducible] def TM_OFFSET.OFFSET_Q : Fld := ⟨TM_OFFSET, 31, 0⟩
/-- `TM_ADDEND`, rate (R352, 09_domain_time.md). -/
@[reducible] def TM_ADDEND : Nat := 0x60038
@[reducible] def TM_ADDEND.ADDEND : Fld := ⟨TM_ADDEND, 31, 0⟩
/-- `TM_SET_NS`, set value, nanoseconds (R352, 09_domain_time.md). -/
@[reducible] def TM_SET_NS : Nat := 0x6003C
@[reducible] def TM_SET_NS.SET_NS : Fld := ⟨TM_SET_NS, 31, 0⟩
/-- `TM_SET_SEC`, set value, seconds (R352, 09_domain_time.md). -/
@[reducible] def TM_SET_SEC : Nat := 0x60040
@[reducible] def TM_SET_SEC.SET_SEC : Fld := ⟨TM_SET_SEC, 31, 0⟩
/-- `TM_EVENT`, time events (R352, 09_domain_time.md). -/
@[reducible] def TM_EVENT : Nat := 0x60044
@[reducible] def TM_EVENT.REF_LOSS : Fld := ⟨TM_EVENT, 7, 7⟩
@[reducible] def TM_EVENT.RTC_RELOAD : Fld := ⟨TM_EVENT, 6, 6⟩
@[reducible] def TM_EVENT.PARENT_CHG : Fld := ⟨TM_EVENT, 5, 5⟩
@[reducible] def TM_EVENT.STEPPED : Fld := ⟨TM_EVENT, 4, 4⟩
@[reducible] def TM_EVENT.JUMP_REFUSED : Fld := ⟨TM_EVENT, 3, 3⟩
@[reducible] def TM_EVENT.HOLDOVER : Fld := ⟨TM_EVENT, 2, 2⟩
@[reducible] def TM_EVENT.LOCKED : Fld := ⟨TM_EVENT, 1, 1⟩
@[reducible] def TM_EVENT.WM_MISSED : Fld := ⟨TM_EVENT, 0, 0⟩
/-- `TM_EVENT_EN`, time event enables (R352, 09_domain_time.md). -/
@[reducible] def TM_EVENT_EN : Nat := 0x60048
@[reducible] def TM_EVENT_EN.EN_MASK : Fld := ⟨TM_EVENT_EN, 7, 0⟩
/-- `TM_CNT`, time counts (R352, 09_domain_time.md). -/
@[reducible] def TM_CNT : Nat := 0x6004C
@[reducible] def TM_CNT.JUMPS : Fld := ⟨TM_CNT, 31, 24⟩
@[reducible] def TM_CNT.OUTLIERS : Fld := ⟨TM_CNT, 23, 16⟩
@[reducible] def TM_CNT.SYNC_MISS : Fld := ⟨TM_CNT, 15, 0⟩
/-- `TM_LD`, link delay of Sn (R352, 09_domain_time.md). -/
@[reducible] def TM_LD (n : Nat) : Nat := 0x60100 + n * 0x4
@[reducible] def TM_LD.LD_VALID (n : Nat) : Fld := ⟨TM_LD n, 31, 31⟩
@[reducible] def TM_LD.LD_NOW (n : Nat) : Fld := ⟨TM_LD n, 23, 0⟩
/-- `WM_CTL`, Waymark n control (R352, 09_domain_time.md). -/
@[reducible] def WM_CTL (n : Nat) : Nat := 0x60200 + n * 0x20
@[reducible] def WM_CTL.EN (n : Nat) : Fld := ⟨WM_CTL n, 31, 31⟩
@[reducible] def WM_CTL.WMODE_P (n : Nat) : Fld := ⟨WM_CTL n, 30, 30⟩
@[reducible] def WM_CTL.POL (n : Nat) : Fld := ⟨WM_CTL n, 29, 29⟩
@[reducible] def WM_CTL.PIN_EN (n : Nat) : Fld := ⟨WM_CTL n, 28, 28⟩
@[reducible] def WM_CTL.PER_HI (n : Nat) : Fld := ⟨WM_CTL n, 27, 20⟩
@[reducible] def WM_CTL.START_SEC_HI (n : Nat) : Fld := ⟨WM_CTL n, 15, 0⟩
/-- `WM_START_SEC`, Waymark n start, seconds (R352, 09_domain_time.md). -/
@[reducible] def WM_START_SEC (n : Nat) : Nat := 0x60204 + n * 0x20
@[reducible] def WM_START_SEC.START_SEC_LO (n : Nat) : Fld := ⟨WM_START_SEC n, 31, 0⟩
/-- `WM_START_NS`, Waymark n start, nanoseconds (R352, 09_domain_time.md). -/
@[reducible] def WM_START_NS (n : Nat) : Nat := 0x60208 + n * 0x20
@[reducible] def WM_START_NS.START_NS (n : Nat) : Fld := ⟨WM_START_NS n, 31, 0⟩
/-- `WM_PERIOD`, Waymark n period (R352, 09_domain_time.md). -/
@[reducible] def WM_PERIOD (n : Nat) : Nat := 0x6020C + n * 0x20
@[reducible] def WM_PERIOD.PER_LO (n : Nat) : Fld := ⟨WM_PERIOD n, 31, 0⟩
/-- `WM_WIDTH`, Waymark n width (R352, 09_domain_time.md). -/
@[reducible] def WM_WIDTH (n : Nat) : Nat := 0x60210 + n * 0x20
@[reducible] def WM_WIDTH.WIDTH (n : Nat) : Fld := ⟨WM_WIDTH n, 31, 0⟩
/-- `WM_STAT`, Waymark n counts (R352, 09_domain_time.md). -/
@[reducible] def WM_STAT (n : Nat) : Nat := 0x60214 + n * 0x20
@[reducible] def WM_STAT.MISSED (n : Nat) : Fld := ⟨WM_STAT n, 31, 16⟩
@[reducible] def WM_STAT.PULSES (n : Nat) : Fld := ⟨WM_STAT n, 15, 0⟩
/-- `CAP_CTL`, capture n control (R352, 09_domain_time.md). -/
@[reducible] def CAP_CTL (n : Nat) : Nat := 0x60400 + n * 0x10
@[reducible] def CAP_CTL.EN (n : Nat) : Fld := ⟨CAP_CTL n, 31, 31⟩
@[reducible] def CAP_CTL.EDGE (n : Nat) : Fld := ⟨CAP_CTL n, 30, 29⟩
@[reducible] def CAP_CTL.DEPTH (n : Nat) : Fld := ⟨CAP_CTL n, 11, 8⟩
@[reducible] def CAP_CTL.OVF (n : Nat) : Fld := ⟨CAP_CTL n, 7, 0⟩
/-- `CAP_POP`, capture n entry, high part (R352, 09_domain_time.md). -/
@[reducible] def CAP_POP (n : Nat) : Nat := 0x60404 + n * 0x10
@[reducible] def CAP_POP.EMPTY (n : Nat) : Fld := ⟨CAP_POP n, 31, 31⟩
@[reducible] def CAP_POP.FALL (n : Nat) : Fld := ⟨CAP_POP n, 30, 30⟩
@[reducible] def CAP_POP.QNS (n : Nat) : Fld := ⟨CAP_POP n, 17, 16⟩
@[reducible] def CAP_POP.C_SEC_HI (n : Nat) : Fld := ⟨CAP_POP n, 15, 0⟩
/-- `CAP_SEC`, capture n entry, seconds (R352, 09_domain_time.md). -/
@[reducible] def CAP_SEC (n : Nat) : Nat := 0x60408 + n * 0x10
@[reducible] def CAP_SEC.C_SEC_LO (n : Nat) : Fld := ⟨CAP_SEC n, 31, 0⟩
/-- `CAP_NS`, capture n entry, nanoseconds (R352, 09_domain_time.md). -/
@[reducible] def CAP_NS (n : Nat) : Nat := 0x6040C + n * 0x10
@[reducible] def CAP_NS.C_NS (n : Nat) : Fld := ⟨CAP_NS n, 31, 0⟩
/-- `MS_CFG`, measurement configuration (R352, 09_domain_time.md). -/
@[reducible] def MS_CFG : Nat := 0x70000
@[reducible] def MS_CFG.EN : Fld := ⟨MS_CFG, 31, 31⟩
@[reducible] def MS_CFG.SCAN : Fld := ⟨MS_CFG, 30, 23⟩
@[reducible] def MS_CFG.TRIG : Fld := ⟨MS_CFG, 22, 15⟩
@[reducible] def MS_CFG.THR_CE : Fld := ⟨MS_CFG, 14, 11⟩
@[reducible] def MS_CFG.THR_MBX : Fld := ⟨MS_CFG, 10, 7⟩
/-- `MS_DEST`, stream destination (R352, 09_domain_time.md). -/
@[reducible] def MS_DEST : Nat := 0x70004
@[reducible] def MS_DEST.MS_DEST_HUB : Fld := ⟨MS_DEST, 31, 21⟩
@[reducible] def MS_DEST.MS_DEST_ADP : Fld := ⟨MS_DEST, 20, 16⟩
@[reducible] def MS_DEST.MS_TUNNEL : Fld := ⟨MS_DEST, 11, 0⟩
/-- `MS_STATUS`, unit status (R352, 09_domain_time.md). -/
@[reducible] def MS_STATUS : Nat := 0x70008
@[reducible] def MS_STATUS.BUSY : Fld := ⟨MS_STATUS, 31, 31⟩
@[reducible] def MS_STATUS.HELD : Fld := ⟨MS_STATUS, 30, 30⟩
@[reducible] def MS_STATUS.STATE_HI : Fld := ⟨MS_STATUS, 7, 0⟩
/-- `MS_EVENT`, measurement events (R352, 09_domain_time.md). -/
@[reducible] def MS_EVENT : Nat := 0x7000C
@[reducible] def MS_EVENT.OVERRUN : Fld := ⟨MS_EVENT, 2, 2⟩
@[reducible] def MS_EVENT.THR_HI : Fld := ⟨MS_EVENT, 1, 1⟩
@[reducible] def MS_EVENT.THR_LO : Fld := ⟨MS_EVENT, 0, 0⟩
/-- `MS_EVENT_EN`, measurement event enables (R352, 09_domain_time.md). -/
@[reducible] def MS_EVENT_EN : Nat := 0x70010
@[reducible] def MS_EVENT_EN.EN_MASK : Fld := ⟨MS_EVENT_EN, 2, 0⟩
/-- `MS_CNT`, measurement counts (R352, 09_domain_time.md). -/
@[reducible] def MS_CNT : Nat := 0x70014
@[reducible] def MS_CNT.CELLS : Fld := ⟨MS_CNT, 31, 16⟩
@[reducible] def MS_CNT.OVERRUN : Fld := ⟨MS_CNT, 15, 0⟩
/-- `MS_THR`, thresholds of AIN_k (R352, 09_domain_time.md). -/
@[reducible] def MS_THR (k : Nat) : Nat := 0x70100 + k * 0x4
@[reducible] def MS_THR.HI (k : Nat) : Fld := ⟨MS_THR k, 31, 16⟩
@[reducible] def MS_THR.LO (k : Nat) : Fld := ⟨MS_THR k, 15, 0⟩
/-- `MS_LAST`, last sample of AIN_k (R352, 09_domain_time.md). -/
@[reducible] def MS_LAST (k : Nat) : Nat := 0x70200 + k * 0x4
@[reducible] def MS_LAST.VALUE (k : Nat) : Fld := ⟨MS_LAST k, 15, 0⟩
/-- `ENG_ROLE`, role and watchdog (R391, 10_compositor_engines.md). -/
@[reducible] def ENG_ROLE (n : Nat) : Nat := 0x400000 + n * 0x10000
@[reducible] def ENG_ROLE.ROLE (n : Nat) : Fld := ⟨ENG_ROLE n, 31, 28⟩
@[reducible] def ENG_ROLE.PARAM (n : Nat) : Fld := ⟨ENG_ROLE n, 27, 24⟩
@[reducible] def ENG_ROLE.PROG_SLOT (n : Nat) : Fld := ⟨ENG_ROLE n, 23, 21⟩
@[reducible] def ENG_ROLE.BANK_SEL (n : Nat) : Fld := ⟨ENG_ROLE n, 20, 20⟩
@[reducible] def ENG_ROLE.WDT_WARM (n : Nat) : Fld := ⟨ENG_ROLE n, 19, 19⟩
@[reducible] def ENG_ROLE.WDT_US (n : Nat) : Fld := ⟨ENG_ROLE n, 15, 0⟩
/-- `ENG_CMD`, engine commands (R391, 10_compositor_engines.md). -/
@[reducible] def ENG_CMD (n : Nat) : Nat := 0x400004 + n * 0x10000
@[reducible] def ENG_CMD.LOAD (n : Nat) : Fld := ⟨ENG_CMD n, 31, 31⟩
@[reducible] def ENG_CMD.LOAD_SLOT (n : Nat) : Fld := ⟨ENG_CMD n, 30, 28⟩
@[reducible] def ENG_CMD.RESTART (n : Nat) : Fld := ⟨ENG_CMD n, 1, 1⟩
@[reducible] def ENG_CMD.RETIRE (n : Nat) : Fld := ⟨ENG_CMD n, 0, 0⟩
/-- `ENG_STATUS`, engine state (R391, 10_compositor_engines.md). -/
@[reducible] def ENG_STATUS (n : Nat) : Nat := 0x400008 + n * 0x10000
@[reducible] def ENG_STATUS.STATE (n : Nat) : Fld := ⟨ENG_STATUS n, 31, 29⟩
@[reducible] def ENG_STATUS.RUN_BANK (n : Nat) : Fld := ⟨ENG_STATUS n, 28, 28⟩
@[reducible] def ENG_STATUS.SW_PEND (n : Nat) : Fld := ⟨ENG_STATUS n, 27, 27⟩
@[reducible] def ENG_STATUS.ENTRY (n : Nat) : Fld := ⟨ENG_STATUS n, 26, 25⟩
@[reducible] def ENG_STATUS.ROLE_NOW (n : Nat) : Fld := ⟨ENG_STATUS n, 24, 21⟩
@[reducible] def ENG_STATUS.PARAM_NOW (n : Nat) : Fld := ⟨ENG_STATUS n, 20, 17⟩
@[reducible] def ENG_STATUS.TOOK_FROM (n : Nat) : Fld := ⟨ENG_STATUS n, 16, 13⟩
@[reducible] def ENG_STATUS.LOAD_BUSY (n : Nat) : Fld := ⟨ENG_STATUS n, 12, 12⟩
/-- `ENG_FAULT`, fault record (R391, 10_compositor_engines.md). -/
@[reducible] def ENG_FAULT (n : Nat) : Nat := 0x40000C + n * 0x10000
@[reducible] def ENG_FAULT.CAUSE (n : Nat) : Fld := ⟨ENG_FAULT n, 31, 28⟩
@[reducible] def ENG_FAULT.FAULTS (n : Nat) : Fld := ⟨ENG_FAULT n, 27, 20⟩
@[reducible] def ENG_FAULT.RETIRED (n : Nat) : Fld := ⟨ENG_FAULT n, 19, 19⟩
@[reducible] def ENG_FAULT.PC (n : Nat) : Fld := ⟨ENG_FAULT n, 13, 0⟩
/-- `ENG_EVENT`, engine events (R391, 10_compositor_engines.md). -/
@[reducible] def ENG_EVENT (n : Nat) : Nat := 0x400010 + n * 0x10000
@[reducible] def ENG_EVENT.USER_EVICT (n : Nat) : Fld := ⟨ENG_EVENT n, 8, 8⟩
@[reducible] def ENG_EVENT.MBX_DROP (n : Nat) : Fld := ⟨ENG_EVENT n, 7, 7⟩
@[reducible] def ENG_EVENT.ACT_WR (n : Nat) : Fld := ⟨ENG_EVENT n, 6, 6⟩
@[reducible] def ENG_EVENT.NOYIELD (n : Nat) : Fld := ⟨ENG_EVENT n, 5, 5⟩
@[reducible] def ENG_EVENT.BANK_SWITCHED (n : Nat) : Fld := ⟨ENG_EVENT n, 4, 4⟩
@[reducible] def ENG_EVENT.VACANT (n : Nat) : Fld := ⟨ENG_EVENT n, 3, 3⟩
@[reducible] def ENG_EVENT.ROLE_MOVED (n : Nat) : Fld := ⟨ENG_EVENT n, 2, 2⟩
@[reducible] def ENG_EVENT.RETIRED (n : Nat) : Fld := ⟨ENG_EVENT n, 1, 1⟩
@[reducible] def ENG_EVENT.FAULT (n : Nat) : Fld := ⟨ENG_EVENT n, 0, 0⟩
/-- `ENG_EVENT_EN`, engine event enables (R391, 10_compositor_engines.md). -/
@[reducible] def ENG_EVENT_EN (n : Nat) : Nat := 0x400014 + n * 0x10000
@[reducible] def ENG_EVENT_EN.EN_MASK (n : Nat) : Fld := ⟨ENG_EVENT_EN n, 8, 0⟩
/-- `ENG_MBX_W0`, post word 0 (R391, 10_compositor_engines.md). -/
@[reducible] def ENG_MBX_W0 (n : Nat) : Nat := 0x400020 + n * 0x10000
@[reducible] def ENG_MBX_W0.POST_W0 (n : Nat) : Fld := ⟨ENG_MBX_W0 n, 31, 0⟩
/-- `ENG_MBX_W1`, post word 1 (R391, 10_compositor_engines.md). -/
@[reducible] def ENG_MBX_W1 (n : Nat) : Nat := 0x400024 + n * 0x10000
@[reducible] def ENG_MBX_W1.POST_W1 (n : Nat) : Fld := ⟨ENG_MBX_W1 n, 31, 0⟩
/-- `ENG_MBX_CTL`, post control (R391, 10_compositor_engines.md). -/
@[reducible] def ENG_MBX_CTL (n : Nat) : Nat := 0x400028 + n * 0x10000
@[reducible] def ENG_MBX_CTL.POST_ST (n : Nat) : Fld := ⟨ENG_MBX_CTL n, 31, 30⟩
@[reducible] def ENG_MBX_CTL.POST_MBX (n : Nat) : Fld := ⟨ENG_MBX_CTL n, 3, 0⟩
/-- `ENG_MBX_STAT`, mailbox state (R391, 10_compositor_engines.md). -/
@[reducible] def ENG_MBX_STAT (n : Nat) : Nat := 0x40002C + n * 0x10000
@[reducible] def ENG_MBX_STAT.MBX_DROP (n : Nat) : Fld := ⟨ENG_MBX_STAT n, 31, 16⟩
@[reducible] def ENG_MBX_STAT.NONEMPTY (n : Nat) : Fld := ⟨ENG_MBX_STAT n, 15, 0⟩
/-- `ENG_PERF`, instructions (R391, 10_compositor_engines.md). -/
@[reducible] def ENG_PERF (n : Nat) : Nat := 0x400030 + n * 0x10000
@[reducible] def ENG_PERF.INSTR (n : Nat) : Fld := ⟨ENG_PERF n, 31, 0⟩
/-- `FC_CUSTODY`, custody token mirror (R391, 10_compositor_engines.md). -/
@[reducible] def FC_CUSTODY : Nat := 0x10F00
@[reducible] def FC_CUSTODY.VALID : Fld := ⟨FC_CUSTODY, 31, 31⟩
@[reducible] def FC_CUSTODY.HOLDER : Fld := ⟨FC_CUSTODY, 30, 27⟩
@[reducible] def FC_CUSTODY.EPOCH : Fld := ⟨FC_CUSTODY, 15, 0⟩
/-- `FC_ENG_CFG`, custody and fault limits (R391, 10_compositor_engines.md). -/
@[reducible] def FC_ENG_CFG : Nat := 0x10F04
@[reducible] def FC_ENG_CFG.CUST_MISS : Fld := ⟨FC_ENG_CFG, 31, 28⟩
@[reducible] def FC_ENG_CFG.FAULT_N : Fld := ⟨FC_ENG_CFG, 27, 24⟩
@[reducible] def FC_ENG_CFG.FAULT_WIN_MS : Fld := ⟨FC_ENG_CFG, 23, 12⟩
/-- `FC_CUST_REFUSE`, custody refusals (R391, 10_compositor_engines.md). -/
@[reducible] def FC_CUST_REFUSE : Nat := 0x10F08
@[reducible] def FC_CUST_REFUSE.REFUSED : Fld := ⟨FC_CUST_REFUSE, 31, 16⟩
@[reducible] def FC_CUST_REFUSE.PATH : Fld := ⟨FC_CUST_REFUSE, 15, 13⟩
@[reducible] def FC_CUST_REFUSE.REF_ENG : Fld := ⟨FC_CUST_REFUSE, 12, 9⟩
/-- `FC_CUST_ADDR`, last refused address (R391, 10_compositor_engines.md). -/
@[reducible] def FC_CUST_ADDR : Nat := 0x10F0C
@[reducible] def FC_CUST_ADDR.REF_ADDR : Fld := ⟨FC_CUST_ADDR, 31, 0⟩
/-- `ID_COLO_VER`, Colophon versions (R425, 11_forme.md). -/
@[reducible] def ID_COLO_VER : Nat := 0x100
@[reducible] def ID_COLO_VER.FMT_VER : Fld := ⟨ID_COLO_VER, 31, 16⟩
@[reducible] def ID_COLO_VER.ISA_REQ : Fld := ⟨ID_COLO_VER, 15, 0⟩
/-- `ID_COLO_ID`, image identity (R425, 11_forme.md). -/
@[reducible] def ID_COLO_ID : Nat := 0x104
@[reducible] def ID_COLO_ID.IMG_ID : Fld := ⟨ID_COLO_ID, 31, 0⟩
/-- `ID_COLO_SEQ`, image sequence (R425, 11_forme.md). -/
@[reducible] def ID_COLO_SEQ : Nat := 0x108
@[reducible] def ID_COLO_SEQ.IMG_SEQ : Fld := ⟨ID_COLO_SEQ, 31, 0⟩
/-- `ID_COLO_MISC`, Colophon details (R425, 11_forme.md). -/
@[reducible] def ID_COLO_MISC : Nat := 0x10C
@[reducible] def ID_COLO_MISC.ROLLBACK : Fld := ⟨ID_COLO_MISC, 31, 24⟩
@[reducible] def ID_COLO_MISC.CLASSES : Fld := ⟨ID_COLO_MISC, 23, 16⟩
@[reducible] def ID_COLO_MISC.STEP_MIN : Fld := ⟨ID_COLO_MISC, 15, 8⟩
@[reducible] def ID_COLO_MISC.C_FLAGS : Fld := ⟨ID_COLO_MISC, 7, 0⟩
/-- `ID_COLO_NAME`, image name (R425, 11_forme.md). -/
@[reducible] def ID_COLO_NAME (j : Nat) : Nat := 0x110 + j * 0x4
@[reducible] def ID_COLO_NAME.NAME (j : Nat) : Fld := ⟨ID_COLO_NAME j, 31, 0⟩
/-- `FC_STATUS`, Forme state (R425, 11_forme.md). -/
@[reducible] def FC_STATUS : Nat := 0x10000
@[reducible] def FC_STATUS.ACT_SRC : Fld := ⟨FC_STATUS, 31, 30⟩
@[reducible] def FC_STATUS.STG_SRC : Fld := ⟨FC_STATUS, 29, 28⟩
@[reducible] def FC_STATUS.STAGE_BUSY : Fld := ⟨FC_STATUS, 27, 27⟩
@[reducible] def FC_STATUS.STAGED : Fld := ⟨FC_STATUS, 26, 26⟩
@[reducible] def FC_STATUS.SHADOW_BAD : Fld := ⟨FC_STATUS, 25, 25⟩
@[reducible] def FC_STATUS.ARMED : Fld := ⟨FC_STATUS, 24, 24⟩
@[reducible] def FC_STATUS.PROB : Fld := ⟨FC_STATUS, 23, 23⟩
@[reducible] def FC_STATUS.REVERTING : Fld := ⟨FC_STATUS, 22, 22⟩
@[reducible] def FC_STATUS.KEY_OPEN : Fld := ⟨FC_STATUS, 21, 21⟩
@[reducible] def FC_STATUS.LU_ERR : Fld := ⟨FC_STATUS, 19, 16⟩
@[reducible] def FC_STATUS.PROB_LEFT : Fld := ⟨FC_STATUS, 15, 0⟩
/-- `FC_CMD`, Forme commands (R425, 11_forme.md). -/
@[reducible] def FC_CMD : Nat := 0x10004
@[reducible] def FC_CMD.ARM : Fld := ⟨FC_CMD, 31, 31⟩
@[reducible] def FC_CMD.DISARM : Fld := ⟨FC_CMD, 30, 30⟩
@[reducible] def FC_CMD.STAGE : Fld := ⟨FC_CMD, 29, 29⟩
@[reducible] def FC_CMD.VERIFY : Fld := ⟨FC_CMD, 28, 28⟩
@[reducible] def FC_CMD.SHADOW_RESET : Fld := ⟨FC_CMD, 27, 27⟩
@[reducible] def FC_CMD.COMMIT : Fld := ⟨FC_CMD, 26, 26⟩
@[reducible] def FC_CMD.REVERT : Fld := ⟨FC_CMD, 25, 25⟩
@[reducible] def FC_CMD.MARK : Fld := ⟨FC_CMD, 24, 24⟩
@[reducible] def FC_CMD.CLR_ATTEMPTS : Fld := ⟨FC_CMD, 23, 23⟩
@[reducible] def FC_CMD.CBANK : Fld := ⟨FC_CMD, 22, 21⟩
@[reducible] def FC_CMD.MSTATE : Fld := ⟨FC_CMD, 20, 19⟩
@[reducible] def FC_CMD.AT_EN : Fld := ⟨FC_CMD, 18, 18⟩
/-- `FC_LU_AT`, lock-up target (R425, 11_forme.md). -/
@[reducible] def FC_LU_AT : Nat := 0x10008
@[reducible] def FC_LU_AT.LU_AT : Fld := ⟨FC_LU_AT, 31, 0⟩
/-- `FC_LOAD`, last load result (R425, 11_forme.md). -/
@[reducible] def FC_LOAD : Nat := 0x1000C
@[reducible] def FC_LOAD.CODE : Fld := ⟨FC_LOAD, 31, 27⟩
@[reducible] def FC_LOAD.L_SRC : Fld := ⟨FC_LOAD, 26, 25⟩
@[reducible] def FC_LOAD.L_OP : Fld := ⟨FC_LOAD, 24, 23⟩
@[reducible] def FC_LOAD.ATTEMPT : Fld := ⟨FC_LOAD, 22, 21⟩
@[reducible] def FC_LOAD.SECTION : Fld := ⟨FC_LOAD, 20, 13⟩
/-- `FC_LOAD_CNT`, records and sections passed over (R425, 11_forme.md). -/
@[reducible] def FC_LOAD_CNT : Nat := 0x10010
@[reducible] def FC_LOAD_CNT.EXCLUDED : Fld := ⟨FC_LOAD_CNT, 31, 16⟩
@[reducible] def FC_LOAD_CNT.SKIPPED : Fld := ⟨FC_LOAD_CNT, 15, 8⟩
/-- `FC_ATTEMPT`, attempt record (R425, 11_forme.md). -/
@[reducible] def FC_ATTEMPT : Nat := 0x10014
@[reducible] def FC_ATTEMPT.A_TRIES : Fld := ⟨FC_ATTEMPT, 31, 30⟩
@[reducible] def FC_ATTEMPT.A_CODE : Fld := ⟨FC_ATTEMPT, 29, 25⟩
@[reducible] def FC_ATTEMPT.B_TRIES : Fld := ⟨FC_ATTEMPT, 24, 23⟩
@[reducible] def FC_ATTEMPT.B_CODE : Fld := ⟨FC_ATTEMPT, 22, 18⟩
/-- `FC_DIR`, directory in use (R425, 11_forme.md). -/
@[reducible] def FC_DIR : Nat := 0x10018
@[reducible] def FC_DIR.DIR_A : Fld := ⟨FC_DIR, 31, 24⟩
@[reducible] def FC_DIR.DIR_B : Fld := ⟨FC_DIR, 23, 16⟩
@[reducible] def FC_DIR.DIR_SEQ_LO : Fld := ⟨FC_DIR, 15, 0⟩
/-- `FC_PROB`, probation settings (R425, 11_forme.md). -/
@[reducible] def FC_PROB : Nat := 0x1001C
@[reducible] def FC_PROB.PROB_N : Fld := ⟨FC_PROB, 31, 16⟩
@[reducible] def FC_PROB.PROB_AUTO : Fld := ⟨FC_PROB, 15, 15⟩
@[reducible] def FC_PROB.REVERT_ON : Fld := ⟨FC_PROB, 5, 0⟩
/-- `FC_LU_CNT`, lock-up counts (R425, 11_forme.md). -/
@[reducible] def FC_LU_CNT : Nat := 0x10020
@[reducible] def FC_LU_CNT.LOCKUPS : Fld := ⟨FC_LU_CNT, 31, 16⟩
@[reducible] def FC_LU_CNT.LU_DEFER : Fld := ⟨FC_LU_CNT, 15, 8⟩
@[reducible] def FC_LU_CNT.LU_REFUSED : Fld := ⟨FC_LU_CNT, 7, 0⟩
/-- `FC_ROLLBACK`, trust state (R425, 11_forme.md). -/
@[reducible] def FC_ROLLBACK : Nat := 0x10024
@[reducible] def FC_ROLLBACK.OTP_COUNT : Fld := ⟨FC_ROLLBACK, 31, 24⟩
@[reducible] def FC_ROLLBACK.KEY_PROG : Fld := ⟨FC_ROLLBACK, 23, 20⟩
@[reducible] def FC_ROLLBACK.KEY_REVOKED : Fld := ⟨FC_ROLLBACK, 19, 16⟩
@[reducible] def FC_ROLLBACK.KEY_BUSY : Fld := ⟨FC_ROLLBACK, 15, 15⟩
@[reducible] def FC_ROLLBACK.KEY_USED : Fld := ⟨FC_ROLLBACK, 14, 13⟩
/-- `FC_KEY_CMD`, key slot commands (R425, 11_forme.md). -/
@[reducible] def FC_KEY_CMD : Nat := 0x10028
@[reducible] def FC_KEY_CMD.PROG : Fld := ⟨FC_KEY_CMD, 31, 31⟩
@[reducible] def FC_KEY_CMD.REVOKE : Fld := ⟨FC_KEY_CMD, 30, 30⟩
@[reducible] def FC_KEY_CMD.SLOT : Fld := ⟨FC_KEY_CMD, 29, 28⟩
/-- `FC_EVENT`, Forme events (R425, 11_forme.md). -/
@[reducible] def FC_EVENT : Nat := 0x10030
@[reducible] def FC_EVENT.CMD_REFUSED : Fld := ⟨FC_EVENT, 8, 8⟩
@[reducible] def FC_EVENT.REVERT_FAIL : Fld := ⟨FC_EVENT, 7, 7⟩
@[reducible] def FC_EVENT.REVERTED : Fld := ⟨FC_EVENT, 6, 6⟩
@[reducible] def FC_EVENT.COMMITTED : Fld := ⟨FC_EVENT, 5, 5⟩
@[reducible] def FC_EVENT.LU_REFUSED : Fld := ⟨FC_EVENT, 4, 4⟩
@[reducible] def FC_EVENT.LOCKUP : Fld := ⟨FC_EVENT, 3, 3⟩
@[reducible] def FC_EVENT.STAGE_FAIL : Fld := ⟨FC_EVENT, 2, 2⟩
@[reducible] def FC_EVENT.STAGE_DONE : Fld := ⟨FC_EVENT, 1, 1⟩
@[reducible] def FC_EVENT.FL_DONE : Fld := ⟨FC_EVENT, 0, 0⟩
/-- `FC_EVENT_EN`, Forme event enables (R425, 11_forme.md). -/
@[reducible] def FC_EVENT_EN : Nat := 0x10034
@[reducible] def FC_EVENT_EN.EN_MASK : Fld := ⟨FC_EVENT_EN, 8, 0⟩
/-- `FC_FL_CMD`, flash command (R425, 11_forme.md). -/
@[reducible] def FC_FL_CMD : Nat := 0x10040
@[reducible] def FC_FL_CMD.GO : Fld := ⟨FC_FL_CMD, 31, 31⟩
@[reducible] def FC_FL_CMD.WR : Fld := ⟨FC_FL_CMD, 30, 30⟩
@[reducible] def FC_FL_CMD.ADDR_EN : Fld := ⟨FC_FL_CMD, 29, 29⟩
@[reducible] def FC_FL_CMD.LEN : Fld := ⟨FC_FL_CMD, 28, 20⟩
@[reducible] def FC_FL_CMD.OP : Fld := ⟨FC_FL_CMD, 7, 0⟩
/-- `FC_FL_ADDR`, flash address (R425, 11_forme.md). -/
@[reducible] def FC_FL_ADDR : Nat := 0x10044
@[reducible] def FC_FL_ADDR.FL_ADDR : Fld := ⟨FC_FL_ADDR, 31, 0⟩
/-- `FC_FL_STAT`, flash command state (R425, 11_forme.md). -/
@[reducible] def FC_FL_STAT : Nat := 0x10048
@[reducible] def FC_FL_STAT.FL_BUSY : Fld := ⟨FC_FL_STAT, 31, 31⟩
@[reducible] def FC_FL_STAT.FL_REFUSED : Fld := ⟨FC_FL_STAT, 30, 30⟩
/-- `FC_BUF`, command buffer (R425, 11_forme.md). -/
@[reducible] def FC_BUF (j : Nat) : Nat := 0x10100 + j * 0x4
@[reducible] def FC_BUF.BUF (j : Nat) : Fld := ⟨FC_BUF j, 31, 0⟩
/-- `CAIRN_CAUSE`, reset causes (R449, 12_reset_and_startup.md). -/
@[reducible] def CAIRN_CAUSE : Nat := 0x20000
@[reducible] def CAIRN_CAUSE.TRIM : Fld := ⟨CAIRN_CAUSE, 11, 11⟩
@[reducible] def CAIRN_CAUSE.CUSTODY : Fld := ⟨CAIRN_CAUSE, 10, 10⟩
@[reducible] def CAIRN_CAUSE.FORME : Fld := ⟨CAIRN_CAUSE, 9, 9⟩
@[reducible] def CAIRN_CAUSE.REMOTE : Fld := ⟨CAIRN_CAUSE, 8, 8⟩
@[reducible] def CAIRN_CAUSE.SOFT_COLD : Fld := ⟨CAIRN_CAUSE, 7, 7⟩
@[reducible] def CAIRN_CAUSE.SOFT_WARM : Fld := ⟨CAIRN_CAUSE, 6, 6⟩
@[reducible] def CAIRN_CAUSE.THERM : Fld := ⟨CAIRN_CAUSE, 5, 5⟩
@[reducible] def CAIRN_CAUSE.WDT : Fld := ⟨CAIRN_CAUSE, 4, 4⟩
@[reducible] def CAIRN_CAUSE.XRST : Fld := ⟨CAIRN_CAUSE, 3, 3⟩
@[reducible] def CAIRN_CAUSE.BOR : Fld := ⟨CAIRN_CAUSE, 2, 2⟩
@[reducible] def CAIRN_CAUSE.POR_CORE : Fld := ⟨CAIRN_CAUSE, 1, 1⟩
@[reducible] def CAIRN_CAUSE.POR_KEEP : Fld := ⟨CAIRN_CAUSE, 0, 0⟩
/-- `CAIRN_DETAIL`, last reset (R449, 12_reset_and_startup.md). -/
@[reducible] def CAIRN_DETAIL : Nat := 0x20004
@[reducible] def CAIRN_DETAIL.LAST : Fld := ⟨CAIRN_DETAIL, 31, 27⟩
@[reducible] def CAIRN_DETAIL.SCOPE : Fld := ⟨CAIRN_DETAIL, 26, 25⟩
@[reducible] def CAIRN_DETAIL.ESC : Fld := ⟨CAIRN_DETAIL, 24, 24⟩
@[reducible] def CAIRN_DETAIL.INFO : Fld := ⟨CAIRN_DETAIL, 23, 0⟩
/-- `CAIRN_COUNT_0`, counts of sources 0 to 3 (R449, 12_reset_and_startup.md). -/
@[reducible] def CAIRN_COUNT_0 : Nat := 0x20008
@[reducible] def CAIRN_COUNT_0.CNT_XRST : Fld := ⟨CAIRN_COUNT_0, 31, 24⟩
@[reducible] def CAIRN_COUNT_0.CNT_BOR : Fld := ⟨CAIRN_COUNT_0, 23, 16⟩
@[reducible] def CAIRN_COUNT_0.CNT_POR_CORE : Fld := ⟨CAIRN_COUNT_0, 15, 8⟩
@[reducible] def CAIRN_COUNT_0.CNT_POR_KEEP : Fld := ⟨CAIRN_COUNT_0, 7, 0⟩
/-- `CAIRN_COUNT_1`, counts of sources 4 to 7 (R449, 12_reset_and_startup.md). -/
@[reducible] def CAIRN_COUNT_1 : Nat := 0x2000C
@[reducible] def CAIRN_COUNT_1.CNT_SOFT_COLD : Fld := ⟨CAIRN_COUNT_1, 31, 24⟩
@[reducible] def CAIRN_COUNT_1.CNT_SOFT_WARM : Fld := ⟨CAIRN_COUNT_1, 23, 16⟩
@[reducible] def CAIRN_COUNT_1.CNT_THERM : Fld := ⟨CAIRN_COUNT_1, 15, 8⟩
@[reducible] def CAIRN_COUNT_1.CNT_WDT : Fld := ⟨CAIRN_COUNT_1, 7, 0⟩
/-- `CAIRN_COUNT_2`, counts of sources 8 to 11 (R449, 12_reset_and_startup.md). -/
@[reducible] def CAIRN_COUNT_2 : Nat := 0x20010
@[reducible] def CAIRN_COUNT_2.CNT_TRIM : Fld := ⟨CAIRN_COUNT_2, 31, 24⟩
@[reducible] def CAIRN_COUNT_2.CNT_CUSTODY : Fld := ⟨CAIRN_COUNT_2, 23, 16⟩
@[reducible] def CAIRN_COUNT_2.CNT_FORME : Fld := ⟨CAIRN_COUNT_2, 15, 8⟩
@[reducible] def CAIRN_COUNT_2.CNT_REMOTE : Fld := ⟨CAIRN_COUNT_2, 7, 0⟩
/-- `CAIRN_TIME_NS`, time of last reset, nanoseconds (R449, 12_reset_and_startup.md). -/
@[reducible] def CAIRN_TIME_NS : Nat := 0x20014
@[reducible] def CAIRN_TIME_NS.RT_NS : Fld := ⟨CAIRN_TIME_NS, 31, 0⟩
/-- `CAIRN_TIME_SEC`, time of last reset, seconds (R449, 12_reset_and_startup.md). -/
@[reducible] def CAIRN_TIME_SEC : Nat := 0x20018
@[reducible] def CAIRN_TIME_SEC.RT_SEC_LO : Fld := ⟨CAIRN_TIME_SEC, 31, 0⟩
/-- `CAIRN_TIME_HI`, time of last reset, flags (R449, 12_reset_and_startup.md). -/
@[reducible] def CAIRN_TIME_HI : Nat := 0x2001C
@[reducible] def CAIRN_TIME_HI.COARSE : Fld := ⟨CAIRN_TIME_HI, 31, 31⟩
@[reducible] def CAIRN_TIME_HI.NONE : Fld := ⟨CAIRN_TIME_HI, 30, 30⟩
@[reducible] def CAIRN_TIME_HI.RT_SEC_HI : Fld := ⟨CAIRN_TIME_HI, 15, 0⟩
/-- `RST_CFG`, reset configuration (R449, 12_reset_and_startup.md). -/
@[reducible] def RST_CFG : Nat := 0x20020
@[reducible] def RST_CFG.XRST_WARM : Fld := ⟨RST_CFG, 31, 31⟩
@[reducible] def RST_CFG.THERM_RESTART : Fld := ⟨RST_CFG, 30, 30⟩
@[reducible] def RST_CFG.REM_EN : Fld := ⟨RST_CFG, 29, 29⟩
@[reducible] def RST_CFG.REM_HUB_B : Fld := ⟨RST_CFG, 21, 11⟩
@[reducible] def RST_CFG.REM_HUB_A : Fld := ⟨RST_CFG, 10, 0⟩
/-- `RST_CMD`, software reset (R449, 12_reset_and_startup.md). -/
@[reducible] def RST_CMD : Nat := 0x20024
@[reducible] def RST_CMD.RST_KEY : Fld := ⟨RST_CMD, 31, 24⟩
@[reducible] def RST_CMD.SCOPE : Fld := ⟨RST_CMD, 1, 0⟩
/-- `RST_NONCE`, remote reset nonce (R449, 12_reset_and_startup.md). -/
@[reducible] def RST_NONCE : Nat := 0x20028
@[reducible] def RST_NONCE.NONCE : Fld := ⟨RST_NONCE, 15, 0⟩
/-- `RST_REMOTE`, remote reset request (R449, 12_reset_and_startup.md). -/
@[reducible] def RST_REMOTE : Nat := 0x2002C
@[reducible] def RST_REMOTE.R_NONCE : Fld := ⟨RST_REMOTE, 31, 16⟩
@[reducible] def RST_REMOTE.R_SCOPE : Fld := ⟨RST_REMOTE, 1, 0⟩
/-- `RST_BLOCK`, block reset holds (R449, 12_reset_and_startup.md). -/
@[reducible] def RST_BLOCK : Nat := 0x20030
@[reducible] def RST_BLOCK.ENG_HOLD : Fld := ⟨RST_BLOCK, 31, 20⟩
@[reducible] def RST_BLOCK.DOCK_HOLD : Fld := ⟨RST_BLOCK, 11, 11⟩
@[reducible] def RST_BLOCK.MS_HOLD : Fld := ⟨RST_BLOCK, 10, 10⟩
@[reducible] def RST_BLOCK.LB_HOLD : Fld := ⟨RST_BLOCK, 9, 9⟩
@[reducible] def RST_BLOCK.EN_HOLD : Fld := ⟨RST_BLOCK, 8, 7⟩
@[reducible] def RST_BLOCK.PX_HOLD : Fld := ⟨RST_BLOCK, 6, 6⟩
@[reducible] def RST_BLOCK.DA_HOLD : Fld := ⟨RST_BLOCK, 5, 4⟩
@[reducible] def RST_BLOCK.SP_HOLD : Fld := ⟨RST_BLOCK, 3, 0⟩
/-- `RST_STATUS`, start-up state (R449, 12_reset_and_startup.md). -/
@[reducible] def RST_STATUS : Nat := 0x20034
@[reducible] def RST_STATUS.PHASE : Fld := ⟨RST_STATUS, 31, 28⟩
@[reducible] def RST_STATUS.STRAP_CODE : Fld := ⟨RST_STATUS, 27, 24⟩
@[reducible] def RST_STATUS.STRAP_TRIES : Fld := ⟨RST_STATUS, 23, 20⟩
@[reducible] def RST_STATUS.TRIM_TRIES : Fld := ⟨RST_STATUS, 19, 18⟩
@[reducible] def RST_STATUS.TRIM_CHIP_BAD : Fld := ⟨RST_STATUS, 17, 17⟩
@[reducible] def RST_STATUS.TRIM_BOARD_BAD : Fld := ⟨RST_STATUS, 16, 16⟩
@[reducible] def RST_STATUS.STRAP_MV : Fld := ⟨RST_STATUS, 11, 0⟩
/-- `RST_EVENT`, reset events (R449, 12_reset_and_startup.md). -/
@[reducible] def RST_EVENT : Nat := 0x20038
@[reducible] def RST_EVENT.BLOCK_REFUSED : Fld := ⟨RST_EVENT, 2, 2⟩
@[reducible] def RST_EVENT.SOFT_REFUSED : Fld := ⟨RST_EVENT, 1, 1⟩
@[reducible] def RST_EVENT.REM_REFUSED : Fld := ⟨RST_EVENT, 0, 0⟩
/-- `RST_EVENT_EN`, reset event enables (R449, 12_reset_and_startup.md). -/
@[reducible] def RST_EVENT_EN : Nat := 0x2003C
@[reducible] def RST_EVENT_EN.EN_MASK : Fld := ⟨RST_EVENT_EN, 2, 0⟩
/-- `PP_FEED`, feed selection (R474, 13_power_path.md). -/
@[reducible] def PP_FEED : Nat := 0x40000
@[reducible] def PP_FEED.PRIO : Fld := ⟨PP_FEED, 31, 31⟩
@[reducible] def PP_FEED.AUTO_RET : Fld := ⟨PP_FEED, 30, 30⟩
@[reducible] def PP_FEED.ACTIVE : Fld := ⟨PP_FEED, 29, 28⟩
@[reducible] def PP_FEED.SWITCHES : Fld := ⟨PP_FEED, 27, 16⟩
/-- `PP_EVENT`, power path events (R474, 13_power_path.md). -/
@[reducible] def PP_EVENT : Nat := 0x40004
@[reducible] def PP_EVENT.REFUSED : Fld := ⟨PP_EVENT, 21, 21⟩
@[reducible] def PP_EVENT.FEED_SW : Fld := ⟨PP_EVENT, 20, 20⟩
@[reducible] def PP_EVENT.DAMAGE : Fld := ⟨PP_EVENT, 19, 10⟩
@[reducible] def PP_EVENT.TRIP : Fld := ⟨PP_EVENT, 9, 0⟩
/-- `PP_EVENT_EN`, power path event enables (R474, 13_power_path.md). -/
@[reducible] def PP_EVENT_EN : Nat := 0x40008
@[reducible] def PP_EVENT_EN.EN_MASK : Fld := ⟨PP_EVENT_EN, 21, 0⟩
/-- `PP_CFG`, path configuration (R474, 13_power_path.md). -/
@[reducible] def PP_CFG (n : Nat) : Nat := 0x40100 + n * 0x40
@[reducible] def PP_CFG.PEN (n : Nat) : Fld := ⟨PP_CFG n, 31, 31⟩
@[reducible] def PP_CFG.EN_USE (n : Nat) : Fld := ⟨PP_CFG n, 30, 30⟩
@[reducible] def PP_CFG.SAFE_MV (n : Nat) : Fld := ⟨PP_CFG n, 29, 18⟩
@[reducible] def PP_CFG.DVDT (n : Nat) : Fld := ⟨PP_CFG n, 17, 12⟩
@[reducible] def PP_CFG.PLIM (n : Nat) : Fld := ⟨PP_CFG n, 11, 4⟩
/-- `PP_WIN`, qualification window (R474, 13_power_path.md). -/
@[reducible] def PP_WIN (n : Nat) : Nat := 0x40104 + n * 0x40
@[reducible] def PP_WIN.OV_DV (n : Nat) : Fld := ⟨PP_WIN n, 25, 16⟩
@[reducible] def PP_WIN.UV_DV (n : Nat) : Fld := ⟨PP_WIN n, 9, 0⟩
/-- `PP_LIM`, current limit and cool-down (R474, 13_power_path.md). -/
@[reducible] def PP_LIM (n : Nat) : Nat := 0x40108 + n * 0x40
@[reducible] def PP_LIM.ILIM (n : Nat) : Fld := ⟨PP_LIM n, 31, 20⟩
@[reducible] def PP_LIM.RSNS (n : Nat) : Fld := ⟨PP_LIM n, 19, 12⟩
@[reducible] def PP_LIM.T_COOL (n : Nat) : Fld := ⟨PP_LIM n, 11, 2⟩
/-- `PP_TIME`, path timing (R474, 13_power_path.md). -/
@[reducible] def PP_TIME (n : Nat) : Nat := 0x4010C + n * 0x40
@[reducible] def PP_TIME.T_INS (n : Nat) : Fld := ⟨PP_TIME n, 31, 22⟩
@[reducible] def PP_TIME.T_OC (n : Nat) : Fld := ⟨PP_TIME n, 21, 12⟩
@[reducible] def PP_TIME.T_GRISE (n : Nat) : Fld := ⟨PP_TIME n, 11, 7⟩
@[reducible] def PP_TIME.T_RAMPFLT (n : Nat) : Fld := ⟨PP_TIME n, 6, 0⟩
/-- `PP_STATUS`, path state (R474, 13_power_path.md). -/
@[reducible] def PP_STATUS (n : Nat) : Nat := 0x40110 + n * 0x40
@[reducible] def PP_STATUS.STATE (n : Nat) : Fld := ⟨PP_STATUS n, 31, 29⟩
@[reducible] def PP_STATUS.ROLE (n : Nat) : Fld := ⟨PP_STATUS n, 28, 27⟩
@[reducible] def PP_STATUS.CAUSE (n : Nat) : Fld := ⟨PP_STATUS n, 26, 24⟩
@[reducible] def PP_STATUS.REARM_PEND (n : Nat) : Fld := ⟨PP_STATUS n, 23, 23⟩
@[reducible] def PP_STATUS.REGULATING (n : Nat) : Fld := ⟨PP_STATUS n, 22, 22⟩
@[reducible] def PP_STATUS.EN_LEVEL (n : Nat) : Fld := ⟨PP_STATUS n, 21, 21⟩
@[reducible] def PP_STATUS.COOL_LEFT (n : Nat) : Fld := ⟨PP_STATUS n, 20, 11⟩
/-- `PP_MEAS`, path measurements (R474, 13_power_path.md). -/
@[reducible] def PP_MEAS (n : Nat) : Nat := 0x40114 + n * 0x40
@[reducible] def PP_MEAS.V_IN (n : Nat) : Fld := ⟨PP_MEAS n, 31, 22⟩
@[reducible] def PP_MEAS.V_OUT (n : Nat) : Fld := ⟨PP_MEAS n, 21, 12⟩
@[reducible] def PP_MEAS.I_NOW (n : Nat) : Fld := ⟨PP_MEAS n, 11, 0⟩
/-- `PP_CMD`, path commands (R474, 13_power_path.md). -/
@[reducible] def PP_CMD (n : Nat) : Nat := 0x40118 + n * 0x40
@[reducible] def PP_CMD.REARM (n : Nat) : Fld := ⟨PP_CMD n, 31, 31⟩
@[reducible] def PP_CMD.DMG_CLR (n : Nat) : Fld := ⟨PP_CMD n, 30, 30⟩
@[reducible] def PP_CMD.ON_REQ (n : Nat) : Fld := ⟨PP_CMD n, 29, 29⟩
/-- `PP_COUNT`, path counts (R474, 13_power_path.md). -/
@[reducible] def PP_COUNT (n : Nat) : Nat := 0x4011C + n * 0x40
@[reducible] def PP_COUNT.TRIPS (n : Nat) : Fld := ⟨PP_COUNT n, 31, 24⟩
@[reducible] def PP_COUNT.WIN_LOSS (n : Nat) : Fld := ⟨PP_COUNT n, 23, 16⟩
@[reducible] def PP_COUNT.SAFE_WAIT (n : Nat) : Fld := ⟨PP_COUNT n, 15, 0⟩
/-- `KP_SUPPLY`, always-on supply (R474, 13_power_path.md). -/
@[reducible] def KP_SUPPLY : Nat := 0x40800
@[reducible] def KP_SUPPLY.ON_VBAK : Fld := ⟨KP_SUPPLY, 31, 31⟩
@[reducible] def KP_SUPPLY.VBAK_CHG : Fld := ⟨KP_SUPPLY, 30, 30⟩
@[reducible] def KP_SUPPLY.CHG_MA : Fld := ⟨KP_SUPPLY, 29, 28⟩
@[reducible] def KP_SUPPLY.HVIN_DV : Fld := ⟨KP_SUPPLY, 27, 18⟩
@[reducible] def KP_SUPPLY.VBAK_CV : Fld := ⟨KP_SUPPLY, 17, 10⟩
/-- `KP_SLEEP`, Keep sleep (R474, 13_power_path.md). -/
@[reducible] def KP_SLEEP : Nat := 0x40804
@[reducible] def KP_SLEEP.SLEEP_KEY : Fld := ⟨KP_SLEEP, 31, 24⟩
@[reducible] def KP_SLEEP.SLEEP_KEEP : Fld := ⟨KP_SLEEP, 23, 14⟩
/-- `KP_WAKE`, wake sources (R474, 13_power_path.md). -/
@[reducible] def KP_WAKE : Nat := 0x40808
@[reducible] def KP_WAKE.W0_EN : Fld := ⟨KP_WAKE, 31, 31⟩
@[reducible] def KP_WAKE.W0_HZ : Fld := ⟨KP_WAKE, 30, 29⟩
@[reducible] def KP_WAKE.W1_EN : Fld := ⟨KP_WAKE, 28, 28⟩
@[reducible] def KP_WAKE.W1_HZ : Fld := ⟨KP_WAKE, 27, 26⟩
@[reducible] def KP_WAKE.W2_EN : Fld := ⟨KP_WAKE, 25, 25⟩
@[reducible] def KP_WAKE.W2_HZ : Fld := ⟨KP_WAKE, 24, 23⟩
@[reducible] def KP_WAKE.W3_EN : Fld := ⟨KP_WAKE, 22, 22⟩
@[reducible] def KP_WAKE.W3_HZ : Fld := ⟨KP_WAKE, 21, 20⟩
@[reducible] def KP_WAKE.ALARM_EN : Fld := ⟨KP_WAKE, 19, 19⟩
@[reducible] def KP_WAKE.TEMP_HI : Fld := ⟨KP_WAKE, 18, 11⟩
@[reducible] def KP_WAKE.TEMP_LO : Fld := ⟨KP_WAKE, 10, 3⟩
/-- `KP_ALARM`, RTC alarm (R474, 13_power_path.md). -/
@[reducible] def KP_ALARM : Nat := 0x4080C
@[reducible] def KP_ALARM.ALARM_SEC : Fld := ⟨KP_ALARM, 31, 0⟩
/-- `KP_STATUS`, rails and wake (R474, 13_power_path.md). -/
@[reducible] def KP_STATUS : Nat := 0x40810
@[reducible] def KP_STATUS.WAKE_SRC : Fld := ⟨KP_STATUS, 31, 29⟩
@[reducible] def KP_STATUS.WAKE_PEND : Fld := ⟨KP_STATUS, 28, 28⟩
@[reducible] def KP_STATUS.RAIL_FAIL : Fld := ⟨KP_STATUS, 27, 24⟩
@[reducible] def KP_STATUS.RAIL_TRIES : Fld := ⟨KP_STATUS, 23, 22⟩
@[reducible] def KP_STATUS.PG_NOW : Fld := ⟨KP_STATUS, 21, 16⟩
@[reducible] def KP_STATUS.EN_NOW : Fld := ⟨KP_STATUS, 15, 10⟩
/-- `KP_VCORE`, VCORE regulator (R474, 13_power_path.md). -/
@[reducible] def KP_VCORE : Nat := 0x40814
@[reducible] def KP_VCORE.PMB_FAST : Fld := ⟨KP_VCORE, 26, 26⟩
@[reducible] def KP_VCORE.VOUT_MV : Fld := ⟨KP_VCORE, 25, 16⟩
@[reducible] def KP_VCORE.VC_STATUS : Fld := ⟨KP_VCORE, 15, 0⟩
/-- `KP_EVENT`, Keep events (R474, 13_power_path.md). -/
@[reducible] def KP_EVENT : Nat := 0x40818
@[reducible] def KP_EVENT.SLEEP_REFUSED : Fld := ⟨KP_EVENT, 5, 5⟩
@[reducible] def KP_EVENT.VC_ALERT : Fld := ⟨KP_EVENT, 4, 4⟩
@[reducible] def KP_EVENT.VC_MISMATCH : Fld := ⟨KP_EVENT, 3, 3⟩
@[reducible] def KP_EVENT.PMB_FAIL : Fld := ⟨KP_EVENT, 2, 2⟩
@[reducible] def KP_EVENT.RAIL_FAIL : Fld := ⟨KP_EVENT, 1, 1⟩
@[reducible] def KP_EVENT.WOKE : Fld := ⟨KP_EVENT, 0, 0⟩
/-- `KP_EVENT_EN`, Keep event enables (R474, 13_power_path.md). -/
@[reducible] def KP_EVENT_EN : Nat := 0x4081C
@[reducible] def KP_EVENT_EN.EN_MASK : Fld := ⟨KP_EVENT_EN, 5, 0⟩
/-- `CP_EVENT`, cable power events (R496, 14_cable_power.md). -/
@[reducible] def CP_EVENT : Nat := 0x50000
@[reducible] def CP_EVENT.LAST_PORT : Fld := ⟨CP_EVENT, 31, 29⟩
@[reducible] def CP_EVENT.SAFE_TMO : Fld := ⟨CP_EVENT, 12, 12⟩
@[reducible] def CP_EVENT.DR_FAIL : Fld := ⟨CP_EVENT, 11, 11⟩
@[reducible] def CP_EVENT.VCONN_FAULT : Fld := ⟨CP_EVENT, 10, 10⟩
@[reducible] def CP_EVENT.SRC_REFUSED : Fld := ⟨CP_EVENT, 9, 9⟩
@[reducible] def CP_EVENT.KA_TMO : Fld := ⟨CP_EVENT, 8, 8⟩
@[reducible] def CP_EVENT.FS_FAIL : Fld := ⟨CP_EVENT, 7, 7⟩
@[reducible] def CP_EVENT.FS_DONE : Fld := ⟨CP_EVENT, 6, 6⟩
@[reducible] def CP_EVENT.HARD_RESET : Fld := ⟨CP_EVENT, 5, 5⟩
@[reducible] def CP_EVENT.LAPSE_END : Fld := ⟨CP_EVENT, 4, 4⟩
@[reducible] def CP_EVENT.LAPSE : Fld := ⟨CP_EVENT, 3, 3⟩
@[reducible] def CP_EVENT.CONTRACT : Fld := ⟨CP_EVENT, 2, 2⟩
@[reducible] def CP_EVENT.DETACH : Fld := ⟨CP_EVENT, 1, 1⟩
@[reducible] def CP_EVENT.ATTACH : Fld := ⟨CP_EVENT, 0, 0⟩
/-- `CP_EVENT_EN`, cable power event enables (R496, 14_cable_power.md). -/
@[reducible] def CP_EVENT_EN : Nat := 0x50004
@[reducible] def CP_EVENT_EN.EN_MASK : Fld := ⟨CP_EVENT_EN, 12, 0⟩
/-- `SW_POLICY`, spine power policy (R496, 14_cable_power.md). -/
@[reducible] def SW_POLICY (n : Nat) : Nat := 0x50100 + n * 0x20
@[reducible] def SW_POLICY.SP_MODE (n : Nat) : Fld := ⟨SW_POLICY n, 31, 30⟩
@[reducible] def SW_POLICY.TRY_SRC (n : Nat) : Fld := ⟨SW_POLICY n, 29, 29⟩
@[reducible] def SW_POLICY.FRS_EN (n : Nat) : Fld := ⟨SW_POLICY n, 28, 28⟩
@[reducible] def SW_POLICY.LAPSE_MA (n : Nat) : Fld := ⟨SW_POLICY n, 27, 19⟩
@[reducible] def SW_POLICY.KA_MS (n : Nat) : Fld := ⟨SW_POLICY n, 18, 11⟩
/-- `SW_SRC`, spine source offer (R496, 14_cable_power.md). -/
@[reducible] def SW_SRC (n : Nat) : Nat := 0x50104 + n * 0x20
@[reducible] def SW_SRC.SRC_MIN (n : Nat) : Fld := ⟨SW_SRC n, 31, 21⟩
@[reducible] def SW_SRC.SRC_MAX (n : Nat) : Fld := ⟨SW_SRC n, 20, 10⟩
@[reducible] def SW_SRC.SRC_IMAX (n : Nat) : Fld := ⟨SW_SRC n, 9, 4⟩
/-- `SW_SINK`, spine sink request (R496, 14_cable_power.md). -/
@[reducible] def SW_SINK (n : Nat) : Nat := 0x50108 + n * 0x20
@[reducible] def SW_SINK.SNK_V (n : Nat) : Fld := ⟨SW_SINK n, 31, 21⟩
@[reducible] def SW_SINK.SNK_I (n : Nat) : Fld := ⟨SW_SINK n, 20, 12⟩
@[reducible] def SW_SINK.SNK_VMIN (n : Nat) : Fld := ⟨SW_SINK n, 11, 1⟩
/-- `SW_STATE`, spine contract state (R496, 14_cable_power.md). -/
@[reducible] def SW_STATE (n : Nat) : Nat := 0x5010C + n * 0x20
@[reducible] def SW_STATE.CSTATE (n : Nat) : Fld := ⟨SW_STATE n, 31, 28⟩
@[reducible] def SW_STATE.PROLE (n : Nat) : Fld := ⟨SW_STATE n, 27, 26⟩
@[reducible] def SW_STATE.EXT (n : Nat) : Fld := ⟨SW_STATE n, 25, 25⟩
@[reducible] def SW_STATE.ARMED (n : Nat) : Fld := ⟨SW_STATE n, 24, 24⟩
@[reducible] def SW_STATE.C_V (n : Nat) : Fld := ⟨SW_STATE n, 23, 13⟩
@[reducible] def SW_STATE.C_I (n : Nat) : Fld := ⟨SW_STATE n, 12, 4⟩
@[reducible] def SW_STATE.SCW_LVL (n : Nat) : Fld := ⟨SW_STATE n, 3, 2⟩
/-- `SW_CNT`, spine contract counts (R496, 14_cable_power.md). -/
@[reducible] def SW_CNT (n : Nat) : Nat := 0x50110 + n * 0x20
@[reducible] def SW_CNT.LAPSES (n : Nat) : Fld := ⟨SW_CNT n, 31, 24⟩
@[reducible] def SW_CNT.FS_DONE (n : Nat) : Fld := ⟨SW_CNT n, 23, 16⟩
@[reducible] def SW_CNT.FS_FAIL (n : Nat) : Fld := ⟨SW_CNT n, 15, 8⟩
@[reducible] def SW_CNT.HARD_RESETS (n : Nat) : Fld := ⟨SW_CNT n, 7, 0⟩
/-- `DK_POLICY`, dock power policy (R496, 14_cable_power.md). -/
@[reducible] def DK_POLICY (m : Nat) : Nat := 0x50200 + m * 0x20
@[reducible] def DK_POLICY.DK_MODE (m : Nat) : Fld := ⟨DK_POLICY m, 31, 30⟩
@[reducible] def DK_POLICY.DK_TRY (m : Nat) : Fld := ⟨DK_POLICY m, 29, 28⟩
@[reducible] def DK_POLICY.FRS_EN (m : Nat) : Fld := ⟨DK_POLICY m, 27, 27⟩
@[reducible] def DK_POLICY.PPS_EN (m : Nat) : Fld := ⟨DK_POLICY m, 26, 26⟩
@[reducible] def DK_POLICY.EPR_EN (m : Nat) : Fld := ⟨DK_POLICY m, 25, 25⟩
@[reducible] def DK_POLICY.VCONN_EN (m : Nat) : Fld := ⟨DK_POLICY m, 24, 24⟩
@[reducible] def DK_POLICY.RP_LEVEL (m : Nat) : Fld := ⟨DK_POLICY m, 23, 22⟩
@[reducible] def DK_POLICY.ALT_EN (m : Nat) : Fld := ⟨DK_POLICY m, 21, 21⟩
/-- `DK_SRC`, dock source offer (R496, 14_cable_power.md). -/
@[reducible] def DK_SRC (m : Nat) : Nat := 0x50204 + m * 0x20
@[reducible] def DK_SRC.DK_PDP (m : Nat) : Fld := ⟨DK_SRC m, 31, 24⟩
@[reducible] def DK_SRC.DK_FIXED (m : Nat) : Fld := ⟨DK_SRC m, 23, 17⟩
@[reducible] def DK_SRC.DK_PPS_I (m : Nat) : Fld := ⟨DK_SRC m, 16, 10⟩
/-- `DK_SINK`, dock sink request (R496, 14_cable_power.md). -/
@[reducible] def DK_SINK (m : Nat) : Nat := 0x50208 + m * 0x20
@[reducible] def DK_SINK.SNK_VMIN (m : Nat) : Fld := ⟨DK_SINK m, 31, 20⟩
@[reducible] def DK_SINK.SNK_VMAX (m : Nat) : Fld := ⟨DK_SINK m, 19, 8⟩
@[reducible] def DK_SINK.SNK_I (m : Nat) : Fld := ⟨DK_SINK m, 7, 1⟩
/-- `DK_STATE`, dock contract state (R496, 14_cable_power.md). -/
@[reducible] def DK_STATE (m : Nat) : Nat := 0x5020C + m * 0x20
@[reducible] def DK_STATE.CSTATE (m : Nat) : Fld := ⟨DK_STATE m, 31, 28⟩
@[reducible] def DK_STATE.PROLE (m : Nat) : Fld := ⟨DK_STATE m, 27, 26⟩
@[reducible] def DK_STATE.DROLE (m : Nat) : Fld := ⟨DK_STATE m, 25, 25⟩
@[reducible] def DK_STATE.KIND (m : Nat) : Fld := ⟨DK_STATE m, 24, 22⟩
@[reducible] def DK_STATE.VCONN_ON (m : Nat) : Fld := ⟨DK_STATE m, 21, 21⟩
@[reducible] def DK_STATE.ALT_ON (m : Nat) : Fld := ⟨DK_STATE m, 20, 20⟩
@[reducible] def DK_STATE.C_V (m : Nat) : Fld := ⟨DK_STATE m, 19, 8⟩
@[reducible] def DK_STATE.C_I (m : Nat) : Fld := ⟨DK_STATE m, 7, 1⟩
@[reducible] def DK_STATE.DEAD_BAT (m : Nat) : Fld := ⟨DK_STATE m, 0, 0⟩
/-- `DK_CABLE`, dock cable (R496, 14_cable_power.md). -/
@[reducible] def DK_CABLE (m : Nat) : Nat := 0x50210 + m * 0x20
@[reducible] def DK_CABLE.CBL_I (m : Nat) : Fld := ⟨DK_CABLE m, 31, 30⟩
@[reducible] def DK_CABLE.CBL_EPR (m : Nat) : Fld := ⟨DK_CABLE m, 29, 29⟩
/-- `DK_CNT`, dock contract counts (R496, 14_cable_power.md). -/
@[reducible] def DK_CNT (m : Nat) : Nat := 0x50214 + m * 0x20
@[reducible] def DK_CNT.HARD_RESETS (m : Nat) : Fld := ⟨DK_CNT m, 31, 24⟩
@[reducible] def DK_CNT.FS_DONE (m : Nat) : Fld := ⟨DK_CNT m, 23, 16⟩
@[reducible] def DK_CNT.FS_FAIL (m : Nat) : Fld := ⟨DK_CNT m, 15, 8⟩
@[reducible] def DK_CNT.KA_TMO (m : Nat) : Fld := ⟨DK_CNT m, 7, 0⟩
/-- `USB_CFG`, dock configuration (R521, 15_usb_dock.md). -/
@[reducible] def USB_CFG : Nat := 0x3A0000
@[reducible] def USB_CFG.EN : Fld := ⟨USB_CFG, 31, 31⟩
@[reducible] def USB_CFG.UP_PORT : Fld := ⟨USB_CFG, 30, 30⟩
@[reducible] def USB_CFG.RWAKE_CAP : Fld := ⟨USB_CFG, 29, 29⟩
@[reducible] def USB_CFG.DS_EN : Fld := ⟨USB_CFG, 27, 24⟩
@[reducible] def USB_CFG.SVC_TMO : Fld := ⟨USB_CFG, 23, 16⟩
/-- `USB_ID`, product identity (R521, 15_usb_dock.md). -/
@[reducible] def USB_ID : Nat := 0x3A0004
@[reducible] def USB_ID.PID_HUB : Fld := ⟨USB_ID, 31, 16⟩
@[reducible] def USB_ID.PID_FN : Fld := ⟨USB_ID, 15, 0⟩
/-- `USB_ID2`, vendor and release (R521, 15_usb_dock.md). -/
@[reducible] def USB_ID2 : Nat := 0x3A0008
@[reducible] def USB_ID2.VID : Fld := ⟨USB_ID2, 31, 16⟩
@[reducible] def USB_ID2.BCD_DEV : Fld := ⟨USB_ID2, 15, 0⟩
/-- `USB_STATUS`, dock state (R521, 15_usb_dock.md). -/
@[reducible] def USB_STATUS : Nat := 0x3A000C
@[reducible] def USB_STATUS.USTATE : Fld := ⟨USB_STATUS, 31, 29⟩
@[reducible] def USB_STATUS.ADDR : Fld := ⟨USB_STATUS, 28, 22⟩
@[reducible] def USB_STATUS.RWAKE_EN : Fld := ⟨USB_STATUS, 21, 21⟩
@[reducible] def USB_STATUS.HS : Fld := ⟨USB_STATUS, 20, 20⟩
@[reducible] def USB_STATUS.HALT_OUT : Fld := ⟨USB_STATUS, 19, 16⟩
@[reducible] def USB_STATUS.HALT_IN : Fld := ⟨USB_STATUS, 15, 12⟩
@[reducible] def USB_STATUS.PEND : Fld := ⟨USB_STATUS, 11, 8⟩
/-- `USB_EPOCH`, channel epochs (R521, 15_usb_dock.md). -/
@[reducible] def USB_EPOCH : Nat := 0x3A0010
@[reducible] def USB_EPOCH.EPOCH : Fld := ⟨USB_EPOCH, 31, 0⟩
/-- `USB_EVENT`, dock events (R521, 15_usb_dock.md). -/
@[reducible] def USB_EVENT : Nat := 0x3A0014
@[reducible] def USB_EVENT.CTRL_ABORT : Fld := ⟨USB_EVENT, 11, 11⟩
@[reducible] def USB_EVENT.LATE_REPLY : Fld := ⟨USB_EVENT, 10, 10⟩
@[reducible] def USB_EVENT.OC : Fld := ⟨USB_EVENT, 9, 9⟩
@[reducible] def USB_EVENT.SOF_OVF : Fld := ⟨USB_EVENT, 8, 8⟩
@[reducible] def USB_EVENT.NOT_HS : Fld := ⟨USB_EVENT, 7, 7⟩
@[reducible] def USB_EVENT.CFG_BAD : Fld := ⟨USB_EVENT, 6, 6⟩
@[reducible] def USB_EVENT.STALL : Fld := ⟨USB_EVENT, 5, 5⟩
@[reducible] def USB_EVENT.RESUME : Fld := ⟨USB_EVENT, 4, 4⟩
@[reducible] def USB_EVENT.SUSPEND : Fld := ⟨USB_EVENT, 3, 3⟩
@[reducible] def USB_EVENT.BUS_RESET : Fld := ⟨USB_EVENT, 2, 2⟩
@[reducible] def USB_EVENT.DETACH : Fld := ⟨USB_EVENT, 1, 1⟩
@[reducible] def USB_EVENT.ATTACH : Fld := ⟨USB_EVENT, 0, 0⟩
/-- `USB_EVENT_EN`, dock event enables (R521, 15_usb_dock.md). -/
@[reducible] def USB_EVENT_EN : Nat := 0x3A0018
@[reducible] def USB_EVENT_EN.EN_MASK : Fld := ⟨USB_EVENT_EN, 11, 0⟩
/-- `USB_WAKE`, remote wake (R521, 15_usb_dock.md). -/
@[reducible] def USB_WAKE : Nat := 0x3A001C
@[reducible] def USB_WAKE.WAKE_REQ : Fld := ⟨USB_WAKE, 31, 31⟩
@[reducible] def USB_WAKE.WAKE_WHY : Fld := ⟨USB_WAKE, 30, 28⟩
@[reducible] def USB_WAKE.WAKE_PEND : Fld := ⟨USB_WAKE, 27, 27⟩
@[reducible] def USB_WAKE.WAKES : Fld := ⟨USB_WAKE, 15, 0⟩
/-- `USB_CNT`, service counts (R521, 15_usb_dock.md). -/
@[reducible] def USB_CNT : Nat := 0x3A0020
@[reducible] def USB_CNT.PROTO_ERR : Fld := ⟨USB_CNT, 31, 16⟩
@[reducible] def USB_CNT.CTRL_ABORT : Fld := ⟨USB_CNT, 15, 8⟩
@[reducible] def USB_CNT.LATE_REPLY : Fld := ⟨USB_CNT, 7, 0⟩
/-- `USB_PORT`, downstream port k (R521, 15_usb_dock.md). -/
@[reducible] def USB_PORT (k : Nat) : Nat := 0x3A0040 + k * 0x4
@[reducible] def USB_PORT.PWR (k : Nat) : Fld := ⟨USB_PORT k, 31, 31⟩
@[reducible] def USB_PORT.OC_NOW (k : Nat) : Fld := ⟨USB_PORT k, 30, 30⟩
@[reducible] def USB_PORT.CONN (k : Nat) : Fld := ⟨USB_PORT k, 29, 29⟩
@[reducible] def USB_PORT.SPEED (k : Nat) : Fld := ⟨USB_PORT k, 28, 27⟩
@[reducible] def USB_PORT.PEN (k : Nat) : Fld := ⟨USB_PORT k, 26, 26⟩
@[reducible] def USB_PORT.PSUSP (k : Nat) : Fld := ⟨USB_PORT k, 25, 25⟩
@[reducible] def USB_PORT.OC_CNT (k : Nat) : Fld := ⟨USB_PORT k, 24, 17⟩
/-- `GALLEY_MAP`, Galley buffer n (R521, 15_usb_dock.md). -/
@[reducible] def GALLEY_MAP (n : Nat) : Nat := 0x3A0100 + n * 0x4
@[reducible] def GALLEY_MAP.GM_EN (n : Nat) : Fld := ⟨GALLEY_MAP n, 31, 31⟩
@[reducible] def GALLEY_MAP.GBASE (n : Nat) : Fld := ⟨GALLEY_MAP n, 24, 16⟩
@[reducible] def GALLEY_MAP.GSIZE (n : Nat) : Fld := ⟨GALLEY_MAP n, 5, 0⟩
/-- `USB_CH_REPLY`, Steward reply (R521, 15_usb_dock.md). -/
@[reducible] def USB_CH_REPLY : Nat := 0x3A0200
@[reducible] def USB_CH_REPLY.GO : Fld := ⟨USB_CH_REPLY, 31, 31⟩
@[reducible] def USB_CH_REPLY.CH : Fld := ⟨USB_CH_REPLY, 30, 29⟩
@[reducible] def USB_CH_REPLY.R_EPOCH : Fld := ⟨USB_CH_REPLY, 28, 21⟩
@[reducible] def USB_CH_REPLY.RLEN : Fld := ⟨USB_CH_REPLY, 12, 0⟩
/-- `SOF_CFG`, start-of-frame capture (R521, 15_usb_dock.md). -/
@[reducible] def SOF_CFG : Nat := 0x3A0300
@[reducible] def SOF_CFG.SOF_EN : Fld := ⟨SOF_CFG, 31, 31⟩
@[reducible] def SOF_CFG.SOF_ALL : Fld := ⟨SOF_CFG, 30, 30⟩
@[reducible] def SOF_CFG.SOF_OVF : Fld := ⟨SOF_CFG, 15, 8⟩
@[reducible] def SOF_CFG.SOF_DEPTH : Fld := ⟨SOF_CFG, 4, 0⟩
/-- `SOF_POP`, SOF entry, high part (R521, 15_usb_dock.md). -/
@[reducible] def SOF_POP : Nat := 0x3A0304
@[reducible] def SOF_POP.EMPTY : Fld := ⟨SOF_POP, 31, 31⟩
@[reducible] def SOF_POP.FRAME : Fld := ⟨SOF_POP, 30, 20⟩
@[reducible] def SOF_POP.UFRAME : Fld := ⟨SOF_POP, 19, 17⟩
@[reducible] def SOF_POP.S_SEC_HI : Fld := ⟨SOF_POP, 15, 0⟩
/-- `SOF_SEC`, SOF entry, seconds (R521, 15_usb_dock.md). -/
@[reducible] def SOF_SEC : Nat := 0x3A0308
@[reducible] def SOF_SEC.S_SEC_LO : Fld := ⟨SOF_SEC, 31, 0⟩
/-- `SOF_NS`, SOF entry, nanoseconds (R521, 15_usb_dock.md). -/
@[reducible] def SOF_NS : Nat := 0x3A030C
@[reducible] def SOF_NS.S_NS : Fld := ⟨SOF_NS, 31, 0⟩
/-- `PF_CFG`, Proof and scrub settings (R548, 16_service_and_faults.md). -/
@[reducible] def PF_CFG : Nat := 0x2000000
@[reducible] def PF_CFG.PROOF_TMO : Fld := ⟨PF_CFG, 31, 20⟩
@[reducible] def PF_CFG.AUTO_EN : Fld := ⟨PF_CFG, 19, 19⟩
@[reducible] def PF_CFG.AUTO_S : Fld := ⟨PF_CFG, 18, 11⟩
@[reducible] def PF_CFG.SCRUB_EN : Fld := ⟨PF_CFG, 10, 10⟩
@[reducible] def PF_CFG.SCRUB_S : Fld := ⟨PF_CFG, 9, 6⟩
@[reducible] def PF_CFG.ROW_CE_N : Fld := ⟨PF_CFG, 5, 3⟩
/-- `PF_CFG2`, row window and test size (R548, 16_service_and_faults.md). -/
@[reducible] def PF_CFG2 : Nat := 0x2000004
@[reducible] def PF_CFG2.ROW_WIN : Fld := ⟨PF_CFG2, 31, 24⟩
@[reducible] def PF_CFG2.PF_ENT : Fld := ⟨PF_CFG2, 23, 16⟩
@[reducible] def PF_CFG2.PF_MS : Fld := ⟨PF_CFG2, 15, 8⟩
/-- `PF_REQ`, Proof request (R548, 16_service_and_faults.md). -/
@[reducible] def PF_REQ : Nat := 0x2000008
@[reducible] def PF_REQ.GO : Fld := ⟨PF_REQ, 31, 31⟩
@[reducible] def PF_REQ.TEST : Fld := ⟨PF_REQ, 30, 27⟩
@[reducible] def PF_REQ.ROW : Fld := ⟨PF_REQ, 26, 18⟩
@[reducible] def PF_REQ.TARGET : Fld := ⟨PF_REQ, 15, 0⟩
/-- `PF_RESULT`, last result (R548, 16_service_and_faults.md). -/
@[reducible] def PF_RESULT : Nat := 0x200000C
@[reducible] def PF_RESULT.RESULT : Fld := ⟨PF_RESULT, 31, 29⟩
@[reducible] def PF_RESULT.R_TEST : Fld := ⟨PF_RESULT, 28, 25⟩
@[reducible] def PF_RESULT.RUNNING : Fld := ⟨PF_RESULT, 24, 24⟩
@[reducible] def PF_RESULT.NONINT : Fld := ⟨PF_RESULT, 23, 21⟩
@[reducible] def PF_RESULT.R_TARGET : Fld := ⟨PF_RESULT, 15, 0⟩
/-- `PF_LOC`, failure location (R548, 16_service_and_faults.md). -/
@[reducible] def PF_LOC : Nat := 0x2000010
@[reducible] def PF_LOC.LOC : Fld := ⟨PF_LOC, 31, 0⟩
/-- `PF_EVENT`, Proof and memory events (R548, 16_service_and_faults.md). -/
@[reducible] def PF_EVENT : Nat := 0x2000014
@[reducible] def PF_EVENT.REC_FULL : Fld := ⟨PF_EVENT, 6, 6⟩
@[reducible] def PF_EVENT.SPARE_BAD : Fld := ⟨PF_EVENT, 5, 5⟩
@[reducible] def PF_EVENT.CASE_DEGRADED : Fld := ⟨PF_EVENT, 4, 4⟩
@[reducible] def PF_EVENT.ROW_REPAIR : Fld := ⟨PF_EVENT, 3, 3⟩
@[reducible] def PF_EVENT.PROOF_FAIL : Fld := ⟨PF_EVENT, 2, 2⟩
@[reducible] def PF_EVENT.DEFERRED : Fld := ⟨PF_EVENT, 1, 1⟩
@[reducible] def PF_EVENT.PROOF_DONE : Fld := ⟨PF_EVENT, 0, 0⟩
/-- `PF_EVENT_EN`, Proof event enables (R548, 16_service_and_faults.md). -/
@[reducible] def PF_EVENT_EN : Nat := 0x2000018
@[reducible] def PF_EVENT_EN.EN_MASK : Fld := ⟨PF_EVENT_EN, 6, 0⟩
/-- `PF_CNT`, Proof counts (R548, 16_service_and_faults.md). -/
@[reducible] def PF_CNT : Nat := 0x200001C
@[reducible] def PF_CNT.PASSES : Fld := ⟨PF_CNT, 31, 16⟩
@[reducible] def PF_CNT.FAILS : Fld := ⟨PF_CNT, 15, 8⟩
@[reducible] def PF_CNT.DEFERS : Fld := ⟨PF_CNT, 7, 0⟩
/-- `ELOG_PTR`, log pointers (R548, 16_service_and_faults.md). -/
@[reducible] def ELOG_PTR : Nat := 0x2000100
@[reducible] def ELOG_PTR.ELOG_HEAD : Fld := ⟨ELOG_PTR, 31, 24⟩
@[reducible] def ELOG_PTR.ELOG_TAIL : Fld := ⟨ELOG_PTR, 23, 16⟩
@[reducible] def ELOG_PTR.OVERWRITTEN : Fld := ⟨ELOG_PTR, 15, 0⟩
/-- `EV_SUM`, active sources (R548, 16_service_and_faults.md). -/
@[reducible] def EV_SUM : Nat := 0x2000400
@[reducible] def EV_SUM.ACTIVE : Fld := ⟨EV_SUM, 27, 0⟩
/-- `EV_ENG`, engines with events (R548, 16_service_and_faults.md). -/
@[reducible] def EV_ENG : Nat := 0x2000404
@[reducible] def EV_ENG.ENG_ACT : Fld := ⟨EV_ENG, 11, 0⟩
/-- `EV_REARM`, MSI-X re-arm (R548, 16_service_and_faults.md). -/
@[reducible] def EV_REARM : Nat := 0x2000408
@[reducible] def EV_REARM.REARM : Fld := ⟨EV_REARM, 31, 0⟩
/-- `EV_SINK`, message sinks (R548, 16_service_and_faults.md). -/
@[reducible] def EV_SINK : Nat := 0x200040C
@[reducible] def EV_SINK.SINK_A_V : Fld := ⟨EV_SINK, 31, 31⟩
@[reducible] def EV_SINK.SINK_A : Fld := ⟨EV_SINK, 30, 20⟩
@[reducible] def EV_SINK.SINK_B_V : Fld := ⟨EV_SINK, 19, 19⟩
@[reducible] def EV_SINK.SINK_B : Fld := ⟨EV_SINK, 18, 8⟩
/-- `EV_KL`, Keep link events (R548, 16_service_and_faults.md). -/
@[reducible] def EV_KL : Nat := 0x2000410
@[reducible] def EV_KL.KL_LOST_NOW : Fld := ⟨EV_KL, 3, 3⟩
@[reducible] def EV_KL.KEEP_REFUSED : Fld := ⟨EV_KL, 2, 2⟩
@[reducible] def EV_KL.KL_BACK : Fld := ⟨EV_KL, 1, 1⟩
@[reducible] def EV_KL.KL_LOST : Fld := ⟨EV_KL, 0, 0⟩
/-- `EV_KL_EN`, Keep link event enables (R548, 16_service_and_faults.md). -/
@[reducible] def EV_KL_EN : Nat := 0x2000414
@[reducible] def EV_KL_EN.EN_MASK : Fld := ⟨EV_KL_EN, 2, 0⟩
/-- `EV_ROUTE`, route of source s (R548, 16_service_and_faults.md). -/
@[reducible] def EV_ROUTE (s : Nat) : Nat := 0x2000500 + s * 0x4
@[reducible] def EV_ROUTE.MSI_EN (s : Nat) : Fld := ⟨EV_ROUTE s, 31, 31⟩
@[reducible] def EV_ROUTE.VECTOR (s : Nat) : Fld := ⟨EV_ROUTE s, 30, 26⟩
@[reducible] def EV_ROUTE.MSG_EN (s : Nat) : Fld := ⟨EV_ROUTE s, 25, 25⟩
@[reducible] def EV_ROUTE.INT_EN (s : Nat) : Fld := ⟨EV_ROUTE s, 24, 24⟩
@[reducible] def EV_ROUTE.MBX_EN (s : Nat) : Fld := ⟨EV_ROUTE s, 23, 23⟩
/-- `ID_TAKE`, takeover incarnation (R548, 16_service_and_faults.md). -/
@[reducible] def ID_TAKE : Nat := 0x1C
@[reducible] def ID_TAKE.TAKEOVER : Fld := ⟨ID_TAKE, 31, 31⟩
@[reducible] def ID_TAKE.TAKE_REFUSED : Fld := ⟨ID_TAKE, 30, 30⟩
@[reducible] def ID_TAKE.T_INC : Fld := ⟨ID_TAKE, 15, 0⟩
/-- `KL_CFG`, custody limit (R548, 16_service_and_faults.md). -/
@[reducible] def KL_CFG : Nat := 0x30000
@[reducible] def KL_CFG.CUST_NEVER : Fld := ⟨KL_CFG, 31, 31⟩
@[reducible] def KL_CFG.CUST_LIMIT_MS : Fld := ⟨KL_CFG, 15, 0⟩
/-- `KL_STATUS`, Keep link state (R548, 16_service_and_faults.md). -/
@[reducible] def KL_STATUS : Nat := 0x30004
@[reducible] def KL_STATUS.HOLD : Fld := ⟨KL_STATUS, 31, 31⟩
@[reducible] def KL_STATUS.ESCALATED : Fld := ⟨KL_STATUS, 30, 30⟩
@[reducible] def KL_STATUS.HOLDS : Fld := ⟨KL_STATUS, 29, 16⟩
@[reducible] def KL_STATUS.KL_LOG_LOST : Fld := ⟨KL_STATUS, 15, 8⟩
@[reducible] def KL_STATUS.REC_USED : Fld := ⟨KL_STATUS, 7, 0⟩
/-- `REP_REC`, repair record entry r (R548, 16_service_and_faults.md). -/
@[reducible] def REP_REC (r : Nat) : Nat := 0x30100 + r * 0x4
@[reducible] def REP_REC.REP_LOC (r : Nat) : Fld := ⟨REP_REC r, 31, 0⟩

end Sys2Proof.Machine
end

