-- ==== Sys2Proof/Machine/Ops.lean ====
section
/-! DEFINITION. The named operations over registers, memories and tables through which every command reads and writes
the state, and the shared operations of chapter 16: events and the error log. -/

namespace Sys2Proof.Machine

/-! ### Registers -/

/-- The registers of the block that holds an address, and the offset in that block; repetitions of a whole block
(R43) are taken off. -/
def blockRegs (a : Nat) : List RegD × Nat :=
  let b := a / 0x10000
  let o := a % 0x10000
  if b = 0x00 then (idRegs, o)
  else if b = 0x01 then (formeRegs, o)
  else if b = 0x02 then (resetRegs, o)
  else if b = 0x03 then (custodyRegs, o)
  else if b = 0x04 then (powerRegs, o)
  else if b = 0x05 then (cableRegs, o)
  else if b = 0x06 then (timeRegs, o)
  else if b = 0x07 then (measureRegs, o)
  else if 0x10 ≤ b && b ≤ 0x13 then (spineRegs, o)
  else if b = 0x20 then (junctionRegs, o)
  else if b = 0x28 then (impositionRegs, o)
  else if 0x30 ≤ b && b ≤ 0x31 then (displayRegs, o)
  else if b = 0x34 then (pcieRegs, o)
  else if 0x36 ≤ b && b ≤ 0x37 then (ethernetRegs, o)
  else if b = 0x38 then (bridgeRegs, o)
  else if b = 0x3A then (dockRegs, o)
  else if 0x40 ≤ b && b ≤ 0x4B then (engineRegs, o)
  else if b = 0x200 then (serviceRegs, o)
  else ([], o)

/-- An offset from a register's first place falls on one of its repetitions. -/
def onDims : List (Nat × Nat) → Nat → Bool
  | [], o => o == 0
  | (n, st) :: t, o => decide (o / st < n) && onDims t (o % st)

/-- The register table's row for an address, if the address is a register (R44). -/
def regAt (a : Nat) : Option RegD :=
  let (rs, o) := blockRegs a
  rs.find? fun r => decide (r.base ≤ o) && onDims r.dims (o - r.base)

/-- The word that a field table's reset column gives. -/
def RegD.resetWord (r : RegD) : Word :=
  BitVec.ofNat 32 (r.fields.foldl (fun n f => n + f.rst * 2 ^ f.lo) 0)

/-- The value of a register at reset (R14). -/
def regReset (a : Nat) : Word :=
  match regAt a with
  | none => 0
  | some r => if r.byInst then BitVec.ofNat 32 (tget r.resetWord.toNat a resetByInstance) else r.resetWord

/-- The word of a register; for forme-held fields the active value (R16). -/
def State.reg (s : State) (a : Nat) : Word := tget (regReset a) a s.regs

/-- Write the whole word of a register. -/
def State.setReg (s : State) (a : Nat) (w : Word) : State := { s with regs := tput (regReset a) a w s.regs }

/-- The word of a register in the shadow Forme. -/
def State.shadowReg (s : State) (a : Nat) : Word := tget (regReset a) a s.shadow

/-- Write the word of a register in the shadow Forme. -/
def State.setShadow (s : State) (a : Nat) (w : Word) : State := { s with shadow := tput (regReset a) a w s.shadow }

/-- A field of a register. -/
def State.get (s : State) (f : Fld) : Nat := wordField (s.reg f.addr) f.hi f.lo

/-- A field of the shadow Forme. -/
def State.getShadow (s : State) (f : Fld) : Nat := wordField (s.shadowReg f.addr) f.hi f.lo

/-- A one-bit field is 1. -/
def State.on (s : State) (f : Fld) : Bool := s.get f == 1

/-- Write a field of a register; the value is cut to the field's width. -/
def State.put (s : State) (f : Fld) (v : Nat) : State := s.setReg f.addr (setWordField (s.reg f.addr) f.hi f.lo v)

/-- Write a field of the shadow Forme. -/
def State.putShadow (s : State) (f : Fld) (v : Nat) : State :=
  s.setShadow f.addr (setWordField (s.shadowReg f.addr) f.hi f.lo v)

/-- Add to a counter field, held at its greatest value. -/
def State.addSat (s : State) (f : Fld) (n : Nat) : State := s.put f (sat (f.hi + 1 - f.lo) (s.get f + n))

/-- A saturating counter advances by one. -/
def State.inc (s : State) (f : Fld) : State := s.addSat f 1

/-- Do `g` only when `c` holds. -/
def State.when (s : State) (c : Bool) (g : State → State) : State := if c then g s else s

/-- Do `g` for every element of a list, in order. -/
def State.each {β : Type} (s : State) (l : List β) (g : β → State → State) : State := l.foldl (fun s b => g b s) s

/-! ### Tables of the units -/

def State.port (s : State) (p : Nat) : SpinePort := tget {} p s.ports
def State.setPort (s : State) (p : Nat) (g : SpinePort → SpinePort) : State :=
  { s with ports := tput {} p (g (s.port p)) s.ports }
def State.lane (s : State) (p k : Nat) : Lane := tget {} (8 * p + k) s.lanes
def State.setLane (s : State) (p k : Nat) (g : Lane → Lane) : State :=
  { s with lanes := tput {} (8 * p + k) (g (s.lane p k)) s.lanes }
def State.link (s : State) (p : Nat) : Link := tget {} p s.links
def State.setLink (s : State) (p : Nat) (g : Link → Link) : State :=
  { s with links := tput {} p (g (s.link p)) s.links }
def State.engine (s : State) (n : Nat) : Engine := tget {} n s.eng
def State.setEngine (s : State) (n : Nat) (g : Engine → Engine) : State :=
  { s with eng := tput {} n (g (s.engine n)) s.eng }
def State.setJn (s : State) (g : Junction → Junction) : State := { s with jn := g s.jn }
def State.setImp (s : State) (g : Imposition → Imposition) : State := { s with imp := g s.imp }
def State.setPace (s : State) (g : Pace → Pace) : State := { s with pace := g s.pace }
def State.setTm (s : State) (g : TimeUnit → TimeUnit) : State := { s with tm := g s.tm }
def State.setSvc (s : State) (g : Service → Service) : State := { s with svc := g s.svc }

/-- Append to the log of what the hub sends. -/
def State.emit (s : State) (o : Out) : State := { s with out := o :: s.out }

/-- The next free value (notes/assumptions/2.md). -/
def State.free (s : State) : Nat := Config.freeValue s.freeCtr
/-- The state after a free value has been used. -/
def State.usedFree (s : State) : State := { s with freeCtr := s.freeCtr + 1 }

/-! ### Byte memories -/

/-- `k` bytes of a memory from an address on. -/
def memBytes (m : List Host.Cell) (a k : Nat) : List Byte := (List.range k).map fun i => tget 0 (a + i) m

/-- A memory with bytes written from an address on. -/
def memWrite : List Host.Cell → Nat → List Byte → List Host.Cell
  | m, _, [] => m
  | m, a, b :: t => memWrite (tput 0 a b m) (a + 1) t

/-- A little-endian number of `k` bytes in Case memory. -/
def State.caseNat (s : State) (a k : Nat) : Nat := leNat (memBytes s.caseMem a k)

/-- Write a little-endian number of `k` bytes into Case memory. -/
def State.setCase (s : State) (a k v : Nat) : State := { s with caseMem := memWrite s.caseMem a (leBytes k v) }

/-- Write bytes into Case memory. -/
def State.setCaseBytes (s : State) (a : Nat) (bs : List Byte) : State := { s with caseMem := memWrite s.caseMem a bs }

/-! ### Class and identity -/

/-- Configuration classes (R1). -/
def classTool : Nat := 0
def classSpine : Nat := 1
def classEdge : Nat := 2
def classFull : Nat := 3

/-- The configuration class in force (R1, R7). -/
def State.cls (s : State) : Nat := s.get ID_DEVICE.CLASS

/-- The Keep die is in hold (R23). -/
def State.keepHold (s : State) : Bool := s.on KL_STATUS.HOLD

/-- The Keep die is not reached: it is in hold, or the Spine die has lost its heartbeat (R24, R537). -/
def State.keepOut (s : State) : Bool := s.keepHold || s.on EV_KL.KL_LOST_NOW

/-- The class enables a Junction port (R4, R8). -/
def State.hasJ (s : State) (o : Nat) : Bool := (s.get ID_PRESENT.JPORT).testBit o

/-- The class has display capture (R4). -/
def State.hasCapture (s : State) : Bool := decide (classEdge ≤ s.cls)

/-- The hub ID in use (R142). -/
def State.hubId (s : State) : Nat := s.get ID_HUB.HUB_ID_NOW

/-- The hub's 64-bit serial number (R9). -/
def State.serial (s : State) : Nat := s.get ID_SERIAL_HI.SERIAL_HI * 2 ^ 32 + s.get ID_SERIAL_LO.SERIAL_LO

/-- A cell of this hub's own making (R150). -/
def State.ownCell (s : State) (h : CellHdr) (bs : List Byte) : Cell := Cell.make s.hubId h bs

/-- A cell on its way to a Junction input. -/
def State.present (s : State) (i : Nat) (c : Cell) : State :=
  s.setJn fun j => { j with incoming := tput [] i (tget [] i j.incoming ++ [c]) j.incoming }

/-- Several cells on their way to a Junction input, in order. -/
def State.presentAll (s : State) (i : Nat) (cs : List Cell) : State := s.each cs fun c s => s.present i c

/-! ### Time -/

/-- Nanoseconds of the tick count of the 1.25 GHz clock, 0.8 ns each (R188, R325). -/
def State.elapsed (s : State) (since : Nat) : Nat := (s.tm.tick - since) * 4 / 5

/-- Domain time in whole nanoseconds (R322). -/
def State.nowNs (s : State) : Nat := s.tm.sec * 1000000000 + s.tm.ns

/-- Domain time as a stamp at a resolution of 0.25 ns (R110, R329). -/
def State.stamp (s : State) : Stamp := ⟨s.tm.sec, s.tm.ns, s.tm.frac / 2 ^ 30 * 2 ^ 14⟩

/-! ### Error log (R547, R548) -/

/-- Write one log entry of four words at `ELOG_HEAD` (R548). -/
def State.logWords (s : State) (w0 w1 w2 w3 : Nat) : State :=
  let head := s.get ELOG_PTR.ELOG_HEAD
  let full := (head + 1) % 256 == s.get ELOG_PTR.ELOG_TAIL
  let s := s.when full fun s => (s.put ELOG_PTR.ELOG_TAIL ((s.get ELOG_PTR.ELOG_TAIL + 1) % 256)).inc ELOG_PTR.OVERWRITTEN
  let log := [w0, w1, w2, w3].zipIdx.foldl (fun l (w, i) => tput 0 (4 * head + i) (BitVec.ofNat 32 w) l) s.elog
  { s with elog := log }.put ELOG_PTR.ELOG_HEAD ((head + 1) % 256)

/-- Write a log entry of a kind, stamped with domain time (R547). -/
def State.log (s : State) (source kind detail word3 : Nat) : State :=
  s.logWords s.tm.ns s.tm.sec (source * 2 ^ 27 + kind * 2 ^ 20 + detail % 2 ^ 16) word3

/-- A location word (R26); fields below the level hold all ones (R27). -/
def location (level die plane tile index : Nat) : Nat :=
  let die := if level ≤ 5 then die % 2 else 1
  let plane := if level ≤ 4 then plane % 8 else 7
  let tile := if level ≤ 3 then tile % 512 else 0x1FF
  let index := if level ≤ 2 then index % 2 ^ 16 else 0xFFFF
  level * 2 ^ 29 + die * 2 ^ 28 + plane * 2 ^ 25 + tile * 2 ^ 16 + index

/-! ### Mailboxes (R366) -/

/-- An engine takes messages: it has a role and is not held in block reset (R366, R378, R441). -/
def State.engInService (s : State) (n : Nat) : Bool :=
  decide (n < 12) && s.get (ENG_STATUS.ROLE_NOW n) != 0 && !(s.get RST_BLOCK.ENG_HOLD).testBit n
    && !s.on (ENG_FAULT.RETIRED n)

/-- The engine that takes a message for engine `n`: itself, else the one that now carries its role, else none
(R366, R383). -/
def State.mailTarget (s : State) (n : Nat) : Option Nat :=
  if s.engInService n then some n
  else if n < 12 then (List.range 12).find? fun m => s.get (ENG_STATUS.TOOK_FROM m) == n && s.engInService m
  else none

/-- A message put into a mailbox of eight (R366): 0 delivered, 1 full, 2 no target. -/
def State.sendMail (s : State) (n mb : Nat) (m : Word × Word) : Nat × State :=
  match s.mailTarget n with
  | none => (2, s)
  | some t =>
    let q := tget [] mb (s.engine t).mail
    if q.length < 8 then
      (0, (s.setEngine t fun e => { e with mail := tput [] mb (q ++ [m]) e.mail }).put (ENG_MBX_STAT.NONEMPTY t)
        (s.get (ENG_MBX_STAT.NONEMPTY t) ||| 2 ^ mb))
    else (1, s)

/-! ### Events (R544 to R546) -/

/-- The source of an event register (R544), the engine for source 18, and the address of its enables; `none` for an
event that is always enabled. -/
def eventSource (a : Nat) : Option (Nat × Nat × Option Nat) :=
  let o := a % 0x10000
  let n := a / 0x10000
  if 0x10 ≤ n && n ≤ 0x13 && o == 0x00C then some (n - 0x10, 0, some (a + 4))
  else if 0x10 ≤ n && n ≤ 0x13 && o == 0x42C then some (n - 0x10 + 4, 0, some (a + 4))
  else if a == JN_EVENT then some (8, 0, some JN_EVENT_EN)
  else if a == IMP_EVENT then some (9, 0, some IMP_EVENT_EN)
  else if 0x30 ≤ n && n ≤ 0x31 && o == 0x064 then some (n - 0x30 + 10, 0, some (a + 4))
  else if a == PX_EVENT then some (12, 0, some PX_EVENT_EN)
  else if 0x36 ≤ n && n ≤ 0x37 && o == 0x040 then some (n - 0x36 + 13, 0, some (a + 4))
  else if a == LB_EVENT then some (15, 0, some LB_EVENT_EN)
  else if a == TM_EVENT then some (16, 0, some TM_EVENT_EN)
  else if a == MS_EVENT then some (17, 0, some MS_EVENT_EN)
  else if 0x40 ≤ n && n ≤ 0x4B && o == 0x010 then some (18, n - 0x40, some (a + 4))
  else if a == FC_EVENT then some (19, 0, some FC_EVENT_EN)
  else if a == ID_TAKE then some (19, 0, none)
  else if a == RST_EVENT then some (20, 0, some RST_EVENT_EN)
  else if a == PP_EVENT then some (21, 0, some PP_EVENT_EN)
  else if a == KP_EVENT then some (22, 0, some KP_EVENT_EN)
  else if a == CP_EVENT then some (23, 0, some CP_EVENT_EN)
  else if a == USB_EVENT then some (24, 0, some USB_EVENT_EN)
  else if a == PF_EVENT then some (25, 0, some PF_EVENT_EN)
  else if a == EV_KL then some (26, 0, some EV_KL_EN)
  else if a == PACE_VCORE then some (27, 0, none)
  else none

/-- The masked EVENT word of a source, for source 18 that of one engine (R544, R573). -/
def State.eventWord (s : State) (src eng : Nat) : Nat :=
  let masked (ev en : Nat) := (s.reg ev &&& s.reg en).toNat
  if src < 4 then masked (SP_EVENT src) (SP_EVENT_EN src)
  else if src < 8 then masked (LK_EVENT (src - 4)) (LK_EVENT_EN (src - 4))
  else if src = 8 then masked JN_EVENT JN_EVENT_EN
  else if src = 9 then masked IMP_EVENT IMP_EVENT_EN
  else if src < 12 then masked (DA_EVENT (src - 10)) (DA_EVENT_EN (src - 10))
  else if src = 12 then masked PX_EVENT PX_EVENT_EN
  else if src < 15 then masked (EN_EVENT (src - 13)) (EN_EVENT_EN (src - 13))
  else if src = 15 then masked LB_EVENT LB_EVENT_EN
  else if src = 16 then masked TM_EVENT TM_EVENT_EN
  else if src = 17 then masked MS_EVENT MS_EVENT_EN
  else if src = 18 then masked (ENG_EVENT eng) (ENG_EVENT_EN eng)
  else if src = 19 then masked FC_EVENT FC_EVENT_EN % 512 + s.get ID_TAKE.TAKEOVER * 2 ^ 31
    + s.get ID_TAKE.TAKE_REFUSED * 2 ^ 30
  else if src = 20 then masked RST_EVENT RST_EVENT_EN
  else if src = 21 then masked PP_EVENT PP_EVENT_EN
  else if src = 22 then masked KP_EVENT KP_EVENT_EN
  else if src = 23 then masked CP_EVENT CP_EVENT_EN
  else if src = 24 then masked USB_EVENT USB_EVENT_EN
  else if src = 25 then masked PF_EVENT PF_EVENT_EN
  else if src = 26 then masked EV_KL EV_KL_EN % 8
  else if src = 27 then s.get PACE_VCORE.AT_MAX * 2 ^ 16
  else 0

/-- A source is active (R544, R573). -/
def State.sourceActive (s : State) (src : Nat) : Bool :=
  if src = 18 then (List.range 12).any fun n => s.eventWord 18 n != 0 else s.eventWord src 0 != 0

/-- A Steward notice: a message to mailbox 15 of the engine that holds custody (R545). -/
def State.notice (s : State) (w0 w1 : Nat) : State :=
  let h := s.get FC_CUSTODY.HOLDER
  let (st, s') := s.sendMail h 15 (BitVec.ofNat 32 w0, BitVec.ofNat 32 w1)
  if st = 0 then s' else (s'.inc (ENG_MBX_STAT.MBX_DROP h)).put (ENG_EVENT.MBX_DROP h) 1

/-- A vector is masked, by the Function Mask or by its Vector Control (R545). -/
def State.msixMasked (s : State) (v : Nat) : Bool :=
  s.svc.msixMask || (tget (1 : Word) (4 * v + 3) s.svc.msixTab).getLsbD 0

/-- MSI-X of a source that is active: sent when its vector is armed, which disarms the vector; a masked vector is noted in the
pending-bit array (R545). -/
def State.sendMsix (s : State) (src : Nat) : State :=
  let v := s.get (EV_ROUTE.VECTOR src)
  if s.on (EV_ROUTE.MSI_EN src) && s.svc.msix && s.cls ≥ classEdge && !s.svc.disarmed.contains v && s.sourceActive src
  then
    let s := s.setSvc fun x => { x with disarmed := v :: x.disarmed }
    if s.msixMasked v then s.setSvc fun x => { x with msixPend := x.msixPend ||| 2 ^ v } else s.emit (.msix v)
  else s

/-- `INT_N` follows its sources: low while a source with `INT_EN` is active; a warm reset holds the pad (R443, R545). -/
def State.driveInt (s : State) : State :=
  let low := (List.range 28).any fun src => s.on (EV_ROUTE.INT_EN src) && s.sourceActive src
  if low == s.svc.intLow || s.get RST_STATUS.PHASE == 9 then s
  else (s.setSvc fun x => { x with intLow := low }).emit (.intN low)

/-- MSI-X and `INT_N` after a change of the routes: every source that is active is looked at again (R545). -/
def State.reroute (s : State) : State := (s.each (List.range 28) fun src s => s.sendMsix src).driveInt

/-- What follows when a source gains a bit: the Steward notice, MSI-X and `INT_N` of its route (R545). -/
def State.gained (s : State) (src eng : Nat) : State :=
  let w0 := 3 * 2 ^ 28 + src + (if src = 18 then 2 ^ 12 + eng * 2 ^ 8 else 0)
  let s := s.when (s.on (EV_ROUTE.MBX_EN src) && s.on FC_CUSTODY.VALID) fun s => s.notice w0 (s.eventWord src eng)
  (s.sendMsix src).driveInt

/-- A bit set afresh is one that the source's last message did not carry (R546). -/
def State.unreport (s : State) (src eng b : Nat) : State :=
  let key := if src = 18 then 64 + eng else src
  s.setSvc fun x => { x with msgBits := tput 0 key (tget 0 key x.msgBits &&& (0xFFFFFFFF - 2 ^ b)) x.msgBits }

/-- Set an event bit; when its source gains the bit, act on its route (R545). -/
def State.raise (s : State) (f : Fld) : State :=
  let s' := s.put f 1
  match eventSource f.addr with
  | none => s'
  | some (src, eng, en) =>
    let enabled := match en with
      | none => true
      | some e => (s.reg e).getLsbD f.lo
    if s.on f || !enabled then s' else (s'.unreport src eng f.lo).gained src eng

/-- Put a message for a role into a mailbox from a hardware sender: a failed message is counted (R366). -/
def State.hwMail (s : State) (n mb : Nat) (w0 w1 : Nat) : State :=
  let (st, s') := s.sendMail n mb (BitVec.ofNat 32 w0, BitVec.ofNat 32 w1)
  if st = 0 then s' else (s'.inc (ENG_MBX_STAT.MBX_DROP n)).raise (ENG_EVENT.MBX_DROP n)

/-- Latch a bit of the event word in an engine (R367). -/
def State.latch (s : State) (n b : Nat) : State := s.setEngine n fun e => { e with latch := e.latch ||| 2 ^ b }

/-- The engines whose role is STEWARD (R376). -/
def State.stewards (s : State) : List Nat := (List.range 12).filter fun n => s.get (ENG_STATUS.ROLE_NOW n) == 1

/-- Latch a bit in both Stewards. -/
def State.latchStewards (s : State) (b : Nat) : State := s.each s.stewards fun n s => s.latch n b

/-! ### Proof tests (R534) -/

/-- End the running Proof tests that a change to their target aborts (R534), with result ABORTED. -/
def State.abortTests (s : State) (hit : Nat → Nat → Bool) : State :=
  let gone := s.svc.tests.filter fun t => hit t.1 t.2.1
  let s := s.setSvc fun x => { x with tests := x.tests.filter fun t => !hit t.1 t.2.1 }
  s.each gone fun (t, tgt, _, intr) s =>
    let s := ((s.put PF_RESULT.RESULT 4).put PF_RESULT.R_TEST t).put PF_RESULT.R_TARGET tgt
    let s := if intr then s.put PF_RESULT.RUNNING 0
      else s.put PF_RESULT.NONINT (s.get PF_RESULT.NONINT - 1)
    s.raise PF_EVENT.PROOF_DONE

end Sys2Proof.Machine
end

