-- ==== Sys2Proof/Machine/ResetOps.lean ====
section
/-! DEFINITION. Shared operations of reset (chapter 12): the Cairn record, the decision of a reset, the cold reset. -/

namespace Sys2Proof.Machine

def State.setRs (s : State) (g : ResetCtl → ResetCtl) : State := { s with rs := g s.rs }
def State.setFc (s : State) (g : FormeCtl → FormeCtl) : State := { s with fc := g s.fc }

/-- Reset sources, as bits of `CAIRN_CAUSE` (R428). -/
def srcPorKeep : Nat := 0
def srcPorCore : Nat := 1
def srcBor : Nat := 2
def srcXrst : Nat := 3
def srcWdt : Nat := 4
def srcTherm : Nat := 5
def srcSoftWarm : Nat := 6
def srcSoftCold : Nat := 7
def srcRemote : Nat := 8
def srcForme : Nat := 9
def srcCustody : Nat := 10
def srcTrim : Nat := 11

/-- The count field of a reset source. -/
def cairnCount (src : Nat) : Fld :=
  ([CAIRN_COUNT_0.CNT_POR_KEEP, CAIRN_COUNT_0.CNT_POR_CORE, CAIRN_COUNT_0.CNT_BOR, CAIRN_COUNT_0.CNT_XRST,
    CAIRN_COUNT_1.CNT_WDT, CAIRN_COUNT_1.CNT_THERM, CAIRN_COUNT_1.CNT_SOFT_WARM, CAIRN_COUNT_1.CNT_SOFT_COLD,
    CAIRN_COUNT_2.CNT_REMOTE, CAIRN_COUNT_2.CNT_FORME, CAIRN_COUNT_2.CNT_CUSTODY, CAIRN_COUNT_2.CNT_TRIM]
    : List Fld).getD src CAIRN_COUNT_2.CNT_TRIM

/-- The source's bit and count in the Cairn (R430). -/
def State.cairnBit (s : State) (src : Nat) : State :=
  (s.put ⟨CAIRN_CAUSE, src, src⟩ 1).inc (cairnCount src)

/-- Counts of 1/32,768 s that `n` ticks of the 1.25 GHz clock take. -/
def rtcCounts (n : Nat) : Nat := n * 32768 / 1250000000

/-- The RTC now, in 1/32,768 s. -/
def State.rtcNow (s : State) : Nat := s.rs.rtc + rtcCounts (s.tm.tick - s.rs.rtcAt)

/-- The Keep die's reckoning of domain time in 1/32,768 s (R431): the last domain time it received plus the RTC counts since;
the RTC alone where it received none; `none` when the RTC is not valid either. -/
def State.keepClock (s : State) : Option Nat :=
  match s.rs.sent with
  | some (sec, ns, t) => some (sec * 32768 + ns * 32768 / 1000000000 + rtcCounts (s.tm.tick - t))
  | none => if s.rs.rtcValid then some s.rtcNow else none

/-- Nanoseconds of a count of 1/32,768 s within its second. -/
def rtcNs (n : Nat) : Nat := n % 32768 * 1000000000 / 32768

/-- The time of a decision in the Cairn (R431): domain time for a warm reset, else the Keep die's reckoning. -/
def State.cairnTime (s : State) (warm : Bool) : State :=
  let write (s : State) (sec ns : Nat) (coarse none_ : Bool) : State :=
    let s := ((s.put CAIRN_TIME_NS.RT_NS ns).put CAIRN_TIME_SEC.RT_SEC_LO (sec % 2 ^ 32)).put CAIRN_TIME_HI.RT_SEC_HI
      (sec / 2 ^ 32)
    (s.put CAIRN_TIME_HI.COARSE coarse.toNat).put CAIRN_TIME_HI.NONE none_.toNat
  if warm then write s s.tm.sec s.tm.ns false false
  else match s.keepClock with
    | some n => write s (n / 32768) (rtcNs n) true false
    | none => write s 0 0 false true

/-- The whole Cairn record of a decision (R430). -/
def State.cairn (s : State) (src : Nat) (warm esc : Bool) (info : Nat) : State :=
  let s := (s.cairnBit src).put CAIRN_DETAIL.LAST src
  let s := (s.put CAIRN_DETAIL.SCOPE (if warm then 2 else 1)).put CAIRN_DETAIL.ESC esc.toNat
  (s.put CAIRN_DETAIL.INFO (min info 0xFFFFFF)).cairnTime warm

/-- A register keeps its word through a cold reset (R10, R14, R133, R409, R426, R427, R528): the Keep-die blocks but the
non-retained reset registers, identity that a cold start recomputes, the incarnation, OTP and the attempt record. -/
def keptCold (a : Nat) : Bool :=
  let b := a / 0x10000
  b == 3 || b == 4 || b == 5 || (b == 2 && decide (a % 0x10000 < 0x20)) || a == ID_DEVICE || a == ID_PRESENT
    || a == ID_SERIAL_LO || a == ID_SERIAL_HI || a == ID_INC || a == FC_ATTEMPT || a == FC_ROLLBACK

/-- The shadow Forme takes its reset values (R418); that of `PCI_VID` comes from the chip trim, and in the Tool class CE_2 has all
four Imposition parts (R190, R377). -/
def State.freshShadow (s : State) : State :=
  let s := ({ s with shadow := [] } : State).putShadow PX_ID.PCI_VID (s.get USB_ID2.VID)
  s.when (s.cls == classTool) fun s => (s.putShadow (ENG_ROLE.ROLE 2) 7).putShadow (ENG_ROLE.PROG_SLOT 2) 5

/-- A failed or interrupted attempt on a bank enters the attempt record (R407, R409): failed attempts up to 3, last code. -/
def State.recordAttempt (s : State) (bank tries code : Nat) : State :=
  if bank = 0 then (s.put FC_ATTEMPT.A_TRIES (min 3 tries)).put FC_ATTEMPT.A_CODE code
  else if bank = 1 then (s.put FC_ATTEMPT.B_TRIES (min 3 tries)).put FC_ATTEMPT.B_CODE code
  else s

/-- A cold reset during a cold-start load counts the attempt with code 12 (R410). -/
def State.countInterrupted (s : State) : State :=
  match s.fc.op with
  | some (.load src attempt) => s.recordAttempt src attempt 12
  | _ => s

/-- The Spine die loses its state (R426, R427): everything on it returns to reset; what the Keep die retains, OTP and the
flash are kept. `PHASE` reads `phase`. -/
def State.spineClear (s : State) (phase : Nat) : State :=
  let s := s.countInterrupted
  let t : State :=
    { State.reset with
        regs := s.regs.filter fun e => keptCold e.1
        flash := s.flash
        tm := { tick := s.tm.tick }
        svc := { keepLog := s.svc.keepLog }
        rs := { sent := s.rs.sent, rtc := s.rs.rtc, rtcAt := s.rs.rtcAt, rtcValid := s.rs.rtcValid, xrstLow := s.rs.xrstLow }
        pw := { s.pw with vcOp := none, vcTarget := 750, vcRaise := false, vcFrom := 750, vcReps := 0, vcLowered := false }
        fc := { keyHash := s.fc.keyHash }
        tap := s.tap
        out := s.out
        freeCtr := s.freeCtr
        pending := s.pending }
  let t := t.when (s.get USB_STATUS.USTATE != 0) fun t => t.emit (.usbPull false)
  let t := t.each ((List.range 4).filter fun k => s.on (USB_PORT.PWR k)) fun k t => t.emit (.uhPower k false)
  let t := t.each ((List.range 2).filter fun m => t.on (DK_STATE.ALT_ON m)) fun m t => t.emit (.pd (4 + m) .attention [0, 0])
  let t := t.each ((List.range 2).filter fun d => (tget {} d s.display).hpdOut) fun d t => t.emit (.hpd d false)
  let t := t.when s.svc.intLow fun t => t.emit (.intN false)
  ((t.put FC_ROLLBACK.KEY_BUSY 0).put FC_ROLLBACK.KEY_USED 0).put RST_STATUS.PHASE phase

/-- A cold reset (R426, R435): the incarnation advances (R133), `TRIM_SAFE` is found afresh (R10, R436) and start-up begins at
phase 1; while `XRST_N` is low it waits before phase 1 (R449). -/
def State.coldReset (s : State) : State :=
  let t := ((s.spineClear 1).put ID_DEVICE.TRIM_SAFE 0).put ID_INC.INCARNATION ((s.get ID_INC.INCARNATION + 1) % 65536)
  t.setRs fun r => { r with coldWait := r.xrstLow }

/-- A reset is decided (R430, R433, R434): the Cairn is updated first, then a cold reset applies or a warm one waits for
WARM_RESET. A warm source before any Forme has become active acts as cold, with `ESC` (R410). -/
def State.decideReset (s : State) (src : Nat) (warm : Bool) (info : Nat) : State :=
  let phase := s.get RST_STATUS.PHASE
  if warm then
    if phase == 9 || s.rs.warm then s.cairnBit src
    else if s.rs.hasForme then (s.cairn src true false info).setRs fun r => { r with warm := true, released := false, restored := false }
    else (s.cairn src false true info).coldReset
  else (s.cairn src false false info).coldReset

end Sys2Proof.Machine
end

