-- ==== Sys2Proof/Machine/Faults.lean ====
section
/-! DEFINITION. Shared operations on what fails: custody token, reverts, engine faults and retirement (chapter 10), memory
rows (chapter 16). -/

namespace Sys2Proof.Machine

/-! ### Custody token (R386, R389) -/

/-- Write the custody token word: Case memory, its mirror in `FC_CUSTODY`, and bit 20 in both Stewards on a change. -/
def State.setToken (s : State) (w : Nat) : State :=
  let old := s.caseNat 0 4
  let s := (s.setCase 0 4 w).setReg FC_CUSTODY (BitVec.ofNat 32 w &&& 0xF800FFFF)
  if w = old then s else s.latchStewards 20

/-! ### Reverts (R423) -/

/-- A stage starts (R418 step 1, R420): the shadow Forme takes its reset values. -/
def State.stageStart (s : State) (src : Nat) : State :=
  let s := s.freshShadow.setFc fun f => { f with posts := [], op := some (.stage src) }
  let s := ((s.put FC_STATUS.STAGE_BUSY 1).put FC_STATUS.STG_SRC src).put FC_STATUS.STAGED 0
  (s.put FC_LOAD_CNT.EXCLUDED 0).put FC_LOAD_CNT.SKIPPED 0

/-- A revert starts: the source of the former Forme is staged. -/
def State.startRevert (s : State) : State := (s.stageStart s.fc.prevSrc).put FC_STATUS.REVERTING 1

/-- An event enabled in `REVERT_ON` during probation starts a revert, unless one is under way (R423). -/
def State.revertTrigger (s : State) (b : Nat) : State :=
  if s.on FC_STATUS.PROB && (s.get FC_PROB.REVERT_ON).testBit b && !s.on FC_STATUS.REVERTING then s.startRevert else s

/-! ### Engines (R358, R378, R381, R382) -/

/-- The location word of an engine as a whole. -/
def engLoc (n : Nat) : Nat := location 3 0 1 n 0xFFFF

/-- Put the engine into block reset: it stops, and registers, mailboxes, timer and CSRs clear (R378, R441). -/
def State.engReset (s : State) (n : Nat) : State :=
  let s := s.setEngine n fun e =>
    { ({} : Engine) with faults := e.faults, loading := e.loading, retiredAt := e.retiredAt, taking := e.taking }
  let s := (s.put (ENG_STATUS.STATE n) 0).put (ENG_STATUS.SW_PEND n) 0
  let s := ((s.put (ENG_STATUS.ROLE_NOW n) 0).put (ENG_STATUS.PARAM_NOW n) 0).put (ENG_STATUS.TOOK_FROM n) 15
  s.put (ENG_MBX_STAT.NONEMPTY n) 0

/-- Start an engine at word 0 of its selected bank with an `ENTRY` code (R371, R374, R378, R381): registers and timer clear,
data SRAM and mailboxes are kept, the watchdog restarts. -/
def State.engStart (s : State) (n entry : Nat) : State :=
  let s := s.setEngine n fun e =>
    { e with g := [], pc := 0, timer := none, waiting := none, faulted := false, swMs := 0, wdtAt := s.tm.tick }
  let s := (s.put (ENG_STATUS.STATE n) 1).put (ENG_STATUS.RUN_BANK n) (s.get (ENG_ROLE.BANK_SEL n))
  (s.put (ENG_STATUS.SW_PEND n) 0).put (ENG_STATUS.ENTRY n) entry

/-- The role that an active `ENG_ROLE` gives: a reserved code, and USER outside the Full class, act as NONE (R376, R378). -/
def State.effRole (s : State) (n : Nat) : Nat :=
  let r := s.get (ENG_ROLE.ROLE n)
  if 8 ≤ r ∨ (r = 6 ∧ s.cls ≠ classFull) then 0 else r

/-- An engine that may run a program: not excluded, not retired, not held by `RST_BLOCK` (R377, R382, R441). -/
def State.engUsable (s : State) (n : Nat) : Bool :=
  s.get (ENG_STATUS.STATE n) != 4 && !s.on (ENG_FAULT.RETIRED n) && !(s.get RST_BLOCK.ENG_HOLD).testBit n

/-- The engine has a role moved to it that the lock-up has yet to make active (R383). -/
def State.promised (s : State) (n : Nat) : Bool := (s.engine n).taking.isSome && s.getShadow (ENG_ROLE.ROLE n) != 0

/-- The engine to which a role moves (R383, R384): CE_11 when it has no role or runs a USER program, else the lowest of
role NONE; one engine takes one role. -/
def State.spareEngine (s : State) : Option Nat :=
  if s.engUsable 11 && !s.promised 11 && (s.get (ENG_STATUS.ROLE_NOW 11) == 0 || s.get (ENG_STATUS.ROLE_NOW 11) == 6) then some 11
  else (List.range 12).find? fun n => s.engUsable n && !s.promised n && s.get (ENG_STATUS.ROLE_NOW n) == 0 && s.effRole n == 0

/-- The role of an engine that leaves service stays vacant when no engine can take it (R385). -/
def State.roleVacant (s : State) (n role : Nat) : State :=
  if role ≠ 0 ∧ s.spareEngine = none then s.raise (ENG_EVENT.VACANT n) else s

/-- An engine is judged permanent and retired (R382, R385): held in block reset, `RETIRED` set, raised and logged; the
custody token it holds loses `VALID`; its role waits to move (R383); a test of the engine ends (R534). -/
def State.retireEngine (s : State) (n : Nat) : State :=
  if s.on (ENG_FAULT.RETIRED n) || s.get (ENG_STATUS.STATE n) == 4 then s
  else
    let role := s.effRole n
    let s := s.abortTests fun t tgt => t == 4 && tgt == n
    let s := (s.engReset n).put (ENG_STATUS.STATE n) 3
    let s := ((s.put (ENG_FAULT.RETIRED n) 1).raise (ENG_EVENT.RETIRED n)).log 18 10 n (engLoc n)
    let s := s.setEngine n fun e => { e with retiredAt := if role = 0 then none else some s.tm.tick }
    let tok := s.caseNat 0 4
    let s := if tok / 2 ^ 31 % 2 = 1 ∧ tok / 2 ^ 27 % 16 = n then s.setToken (tok - 2 ^ 31) else s
    (s.roleVacant n role).revertTrigger 1

/-- An engine faults (R381, R382): it stops, the cause and pc are recorded, raised and logged; a watchdog with `WDT_WARM`
takes a warm reset, which does not arrive while the Keep die is not reached (R434); `FAULT_N` faults within `FAULT_WIN_MS` retire the engine. -/
def State.engineFault (s : State) (n cause : Nat) : State :=
  let pc := (s.engine n).pc
  let s := ((s.put (ENG_FAULT.CAUSE n) cause).put (ENG_FAULT.PC n) pc).inc (ENG_FAULT.FAULTS n)
  let s := ((s.put (ENG_STATUS.STATE n) 0).raise (ENG_EVENT.FAULT n)).log 18 9 cause (engLoc n)
  let s := s.setEngine n fun e =>
    { e with faulted := true, waiting := none, faults := s.tm.tick :: e.faults, lastFault := cause * 2 ^ 28 + pc }
  let s := s.revertTrigger 0
  if cause = 7 ∧ s.on (ENG_ROLE.WDT_WARM n) ∧ !s.keepOut then s.decideReset srcWdt true n
  else
    let win := max 1 (s.get FC_ENG_CFG.FAULT_WIN_MS) * 1250000
    let recent := (s.engine n).faults.filter fun t => s.tm.tick - t ≤ win
    if max 1 (s.get FC_ENG_CFG.FAULT_N) ≤ recent.length then s.retireEngine n else s

/-! ### Memory rows (R157, R158, R358, R524 to R528) -/

/-- A memory row: its location word (R26, R158, R358). -/
structure RowId where
  plane : Nat
  tile  : Nat
  index : Nat
  deriving DecidableEq, Repr

def RowId.loc (r : RowId) : Nat := location 0 0 r.plane r.tile r.index

/-- The tile whose spare row serves the row: an engine has one for each SRAM. -/
def RowId.spareKey (r : RowId) : Nat := 1024 * r.plane + 2 * r.tile +
  (if r.plane = 1 ∧ r.tile < 12 then r.index / 2 ^ 15 else 0)

/-- The tile's spare row (R158, R358). -/
def RowId.spare (r : RowId) : RowId :=
  { r with index := if r.plane = 0 then 128 else if r.tile < 12 then r.index / 2 ^ 15 * 2 ^ 15 + 128 else 256 }

/-- The row that holds a row's content: the spare row once the row is repaired (R525). -/
def State.mapRow (s : State) (r : RowId) : RowId := if s.svc.repaired.contains r.loc then r.spare else r

/-- A Junction input buffer row. -/
def RowId.inJunction (r : RowId) : Bool := r.plane == 0

/-- Record a repair in the Keep die's repair record (R528). -/
def State.recordRepair (s : State) (loc : Nat) : State :=
  let n := s.get KL_STATUS.REC_USED
  if n < 64 then (s.put (REP_REC.REP_LOC n) loc).put KL_STATUS.REC_USED (n + 1)
  else s.raise PF_EVENT.REC_FULL

/-- The repair of a row takes effect: raised, logged under kind 6 and recorded (R525, R528). -/
def State.rowRepaired (s : State) (r : RowId) : State :=
  let s := s.setSvc fun x =>
    { x with repairing := x.repairing.filter (· != r.loc), repaired := r.loc :: x.repaired }
  let s := if r.inJunction then s.raise JN_EVENT.ROW_REPAIR else s
  ((s.raise PF_EVENT.ROW_REPAIR).log 25 6 0 r.loc).recordRepair r.loc

/-- A row is judged permanent (R524 to R526): a test that uses the tile's spare row ends (R534); the row is mapped onto the tile's spare row, at once in a Junction buffer and after
the copy elsewhere; with no usable spare, R526 applies. -/
def State.rowPermanent (s : State) (r : RowId) : State :=
  if s.svc.repaired.contains r.loc || s.svc.repairing.contains r.loc || s.svc.lostRows.contains r.loc then s
  else
  let s := s.abortTests fun t tgt => t == 3 && tgt == 512 * r.plane + r.tile
  if s.svc.spareUsed.contains r.spareKey then
    let s := s.setSvc fun x => { x with lostRows := r.loc :: x.lostRows }
    if r.inJunction then
      let i := r.tile / 8
      (s.setJn fun j => { j with lostSlots := tput 0 i (tget 0 i j.lostSlots + 4) j.lostSlots }).log 25 7 0 r.loc
    else if r.tile < 12 then s.retireEngine r.tile
    else (s.raise PF_EVENT.CASE_DEGRADED).log 25 7 0 r.loc
  else
    let s := s.setSvc fun x => { x with spareUsed := r.spareKey :: x.spareUsed }
    if r.inJunction then s.rowRepaired r
    else s.setSvc fun x => { x with repairing := r.loc :: x.repairing }

/-- A corrected error in a row (R524, R547 kind 4): counted in the window, logged, and permanent at `ROW_CE_N`. -/
def State.rowCorrected (s : State) (r0 : RowId) : State :=
  let r := s.mapRow r0
  let pass := max 1 (s.get PF_CFG.SCRUB_S) * 1250000000
  let win := max 1 (s.get PF_CFG2.ROW_WIN) * pass
  let old := (tget [] r.loc s.svc.rowErrs).filter fun t => s.tm.tick - t ≤ win
  let errs := s.tm.tick :: old
  let s := s.setSvc fun x => { x with rowErrs := tput [] r.loc errs x.rowErrs }
  let s := if old.any fun t => decide (s.tm.tick - t < pass) then s else s.log 25 4 errs.length r.loc
  if max 1 (s.get PF_CFG.ROW_CE_N) ≤ errs.length then s.rowPermanent r else s

/-- An uncorrectable error in a row: logged under kind 5, the row is permanent (R524, R527). -/
def State.rowUncorrectable (s : State) (r0 : RowId) : State :=
  let r := s.mapRow r0
  (s.log 25 5 0 r.loc).rowPermanent r

end Sys2Proof.Machine
end

