-- ==== Sys2Proof/Machine/SpineOps.lean ====
section
/-! DEFINITION. Shared operations of the spine ports (chapters 02 and 03): training states, lane roles, lane-level
Detour, link states, link-management records and the sequence state. -/

namespace Sys2Proof.Machine

/-! ### Codes -/

/-- Training states (R74). -/
def stDisabled : Nat := 0
def stDetect : Nat := 1
def stLock : Nat := 2
def stEqualize : Nat := 3
def stCheck : Nat := 4
def stAlign : Nat := 5
def stCaps : Nat := 6
def stActive : Nat := 7
def stTest : Nat := 8
def stHoldoff : Nat := 9

/-- Link states (R137). -/
def lkDown : Nat := 0
def lkHello : Nat := 1
def lkOpen : Nat := 2
def lkDead : Nat := 3
def lkFenced : Nat := 4
def lkRetired : Nat := 5

/-- Lane roles (R62). -/
def roleActive : Nat := 0
def roleSpare : Nat := 1
def roleRetired : Nat := 2
def roleExcluded : Nat := 3

def State.spState (s : State) (p : Nat) : Nat := s.get (SP_STATE.STATE p)
def State.lState (s : State) (p : Nat) : Nat := s.get (LK_STATE.LSTATE p)

/-- A source's location word for a spine lane (R88): direction 0 transmit, 1 receive; FCK counts as lane 5. -/
def laneLoc (p lane dir : Nat) : Nat := location 3 0 0 (0x100 + 16 * p + 2 * lane + dir) 0xFFFF

/-- The location word of a spine port (R547). -/
def portLoc (p : Nat) : Nat := location 3 0 0 (0x10F + 16 * p) 0xFFFF

/-! ### Lane roles -/

/-- Receive lanes of a role. -/
def State.rxLanes (s : State) (p role : Nat) : List Nat :=
  (List.range 5).filter fun k => s.get (LN_RX_STAT.ROLE p k) == role

/-- Transmit lanes of a role. -/
def State.txLanes (s : State) (p role : Nat) : List Nat :=
  (List.range 5).filter fun k => (s.lane p k).txRole == role

/-- `NO_SPARE` is set when either direction has no spare. -/
def State.noteSpares (s : State) (p : Nat) : State :=
  let tx := s.txLanes p roleSpare == []
  let rx := s.rxLanes p roleSpare == []
  ((s.put (SP_STATE.TX_NO_SPARE p) tx.toNat).put (SP_STATE.RX_NO_SPARE p) rx.toNat).put (SP_STATE.NO_SPARE p)
    (tx || rx).toNat

/-- The checker of a lane starts to seek (R99, R100). -/
def State.seek (s : State) (p k : Nat) : State := (s.setLane p k fun l => { l with chk := {} }).put (LN_PRBS.CHK_LOCK p k) 0

/-- Give a receive lane a role and logical position, and show it in `SP_STATE`; in a new role its checker seeks afresh. -/
def State.setRxRole (s : State) (p k role logical : Nat) : State :=
  let s := s.when (s.get (LN_RX_STAT.ROLE p k) != role) fun s => s.seek p k
  let s := (s.put (LN_RX_STAT.ROLE p k) role).put (LN_RX_STAT.LOGICAL p k) logical
  let s := s.put (SP_STATE.RX_ACTIVE p) (ofBits (s.rxLanes p roleActive))
  s.put (SP_STATE.RX_RETIRED p) (ofBits (s.rxLanes p roleRetired))

/-- A receive lane is retired (R84, R91, R96, R145): `RETIRES` counts it, and its clean intervals count from there on. -/
def State.retireRx (s : State) (p k : Nat) : State :=
  ((s.setRxRole p k roleRetired 7).inc (LN_CLASS.RETIRES p k)).setLane p k fun l => { l with cleanRun := 0 }

/-- Give a transmit lane a role and logical position, and show it in `SP_STATE`. -/
def State.setTxRole (s : State) (p k role logical : Nat) : State :=
  let s := s.setLane p k fun l => { l with txRole := role, txLogical := logical }
  let s := s.put (SP_STATE.TX_ACTIVE p) (ofBits (s.txLanes p roleActive))
  s.put (SP_STATE.TX_RETIRED p) (ofBits (s.txLanes p roleRetired))

/-- The transmit cursors of a lane take new steps, and the main weight follows (R68, R69). `MAIN` has 6 bits, so what it reads for
the weight 64 of steps 0 and 0 is a free value (notes/assumptions/97.md). -/
def State.setTaps (s : State) (p k pre post : Nat) : State :=
  let s := (s.put (LN_TX.PRE p k) pre).put (LN_TX.POST p k) post
  if pre + post = 0 then s.usedFree.put (LN_TX.MAIN p k) s.free else s.put (LN_TX.MAIN p k) (64 - pre - post)

/-- The receiver of a lane adapts its CTLE and DFE (R80, R83): the codes it comes to are free values
(notes/assumptions/109.md). -/
def State.adapt (s : State) (p k : Nat) : State :=
  let a := LN_RX_EQ p k
  s.usedFree.setReg a ((s.reg a &&& 0x80000000) ||| (BitVec.ofNat 32 s.free &&& 0x79FFFFFF))

/-- The intervals of the lanes count from here on as good markers on the present lanes (R74, R94). -/
def State.freshMarkers (s : State) (p : Nat) : State :=
  s.each (List.range 5) fun k s => s.setLane p k fun l => { l with goodRun := 0 }

/-- Two consecutive deskewed markers with correct `BIP8` have come on each active receive lane (R64, R74, R94). -/
def State.alignedTwice (s : State) (p : Nat) : Bool :=
  let act := s.rxLanes p roleActive
  act.all fun k => decide (2 ≤ (s.lane p k).goodRun) && (s.lane p k).amSeen == (s.lane p (act.headD 0)).amSeen

/-- The lane that becomes the spare when all five are ready (R77): the lowest ready lane judged permanent at the
receiving end, else `SPARE_PREF`. -/
def State.chooseSpare (s : State) (p : Nat) (perm : List Nat) : Nat :=
  perm.headD (min 4 (s.get (SP_CFG.SPARE_PREF p)))

/-- Roles by lane for one direction, from its ready lanes (R77): role and logical position of each lane. -/
def State.laneRoles (s : State) (p : Nat) (ready perm : List Nat) : List (Nat × Nat × Nat) :=
  let spare := if ready.length = 5 then some (s.chooseSpare p perm) else none
  let active := (ready.filter fun k => some k != spare).take 4
  (List.range 5).map fun k =>
    if some k == spare then (k, roleSpare, 7)
    else match active.findIdx? (· == k) with
      | some i => (k, roleActive, i)
      | none => (k, roleExcluded, 7)

/-- Each direction chooses its lanes as ALIGN is entered (R77). `pperm` names the lanes that the partner's receiver has
judged permanent. -/
def State.chooseLanes (s : State) (p : Nat) (pperm : List Nat) : State :=
  let rxReady := (List.range 5).filter fun k => (s.lane p k).rxReady
  let txReady := (List.range 5).filter fun k => (s.lane p k).partReady
  let rxPerm := rxReady.filter fun k => s.on (LN_CLASS.PERM p k)
  let txPerm := txReady.filter fun k => pperm.contains k
  let rx := s.laneRoles p rxReady rxPerm
  let tx := s.laneRoles p txReady txPerm
  let s := s.each rx fun (k, r, l) s => s.setRxRole p k r l
  let s := s.each tx fun (k, r, l) s => s.setTxRole p k r l
  s.noteSpares p

/-! ### Link-management records (R131, R132) -/

/-- The 16-byte header of a link-management frame. -/
def State.lmHeader (s : State) (sub : Nat) : List Byte :=
  let flags := s.get ID_HUB.ROLE * 128 + s.get ID_HUB.ID_V * 64
  beBytes 1 sub ++ beBytes 1 flags ++ beBytes 2 s.hubId ++ beBytes 2 (s.get ID_INC.INCARNATION)
    ++ beBytes 8 s.serial ++ [0, 0]

/-- A link-management frame waits for a slot of the port (R111). -/
def State.sendLm (s : State) (p sub : Nat) (body : List Byte) : State :=
  let slot := padTo 72 (s.lmHeader sub ++ body)
  s.setLink p fun l => { l with mgmt := l.mgmt ++ [{ slot := slot }] }

/-- `DEAD_N` in force: 2 to 16. -/
def State.deadN (s : State) (p : Nat) : Nat := max 2 (min 16 (s.get (LK_CFG.DEAD_N p)))

/-- `MS_PERIOD` in force: 1 to 64 units of 125 µs (R187). -/
def State.msPeriod (s : State) : Nat := max 1 (min 64 (s.get IMP_CFG.MS_PERIOD))

/-- HELLO (R132, R138). -/
def State.sendHello (s : State) (p : Nat) : State :=
  s.sendLm p 1 (beBytes 1 p ++ beBytes 1 (s.deadN p) ++ beBytes 2 s.msPeriod)

/-- BEACON for the boundary just taken (R132, R139). -/
def State.sendBeacon (s : State) (p : Nat) : State := s.sendLm p 2 (beBytes 6 s.tm.sec ++ beBytes 4 s.tm.ns)

/-- An INCARNATION record (R132). -/
structure IncRec where
  roleId     : Nat
  roleInc    : Nat
  roleSerial : Nat
  vacated    : Option Nat
  hops       : Nat
  deriving DecidableEq, Repr

/-- An optional hub ID: bit 15 valid, bits [10:0] the ID (R132). -/
def optId (o : Option Nat) : Nat := match o with | some v => 2 ^ 15 + v % 2048 | none => 0

def State.sendInc (s : State) (p : Nat) (r : IncRec) : State :=
  s.sendLm p 3 (beBytes 2 r.roleId ++ beBytes 2 r.roleInc ++ beBytes 8 r.roleSerial ++ beBytes 2 (optId r.vacated)
    ++ beBytes 1 r.hops)

/-- REJOIN (R132, R140). -/
def State.sendRejoin (s : State) (p : Nat) (take : Option Nat) (roleId roleInc : Nat) : State :=
  s.sendLm p 4 (beBytes 2 (optId take) ++ beBytes 2 ((roleInc + 1) % 65536) ++ beBytes 2 roleId ++ beBytes 2 roleInc)

/-- NARROW (R132, R144). -/
def State.sendNarrow (s : State) (p lane : Nat) : State := s.sendLm p 5 (beBytes 1 lane)

/-- HELLO on every port in ACTIVE (R138, R142). -/
def State.helloAll (s : State) : State :=
  s.each ((List.range 4).filter fun p => s.spState p == stActive) fun p s => s.sendHello p

/-! ### Sequence state -/

/-- Discard the sequence state and the replay buffer: unacknowledged frames are lost and counted; `LOST` is raised
when there was one (R129, R130). Both sides then start at 0. -/
def State.dropSeq (s : State) (p : Nat) : State :=
  let n := (s.link p).replay.length
  let s := s.when (n != 0) fun s => (s.addSat (LK_LOST.LOST p) n).raise (LK_EVENT.LOST p)
  let s := s.setLink p fun l =>
    { l with replay := [], resend := none, lastFrom := none, replays := 0, ackV := false, accepted := 0,
             nakOwed := false, nakOut := false, seqValid := false, resendAt := none, txAfter := 0 }
  let s := (s.put (LK_SEQ_TX.OLDEST p) 0).put (LK_SEQ_TX.NEXT_TX p) 0
  (s.put (LK_SEQ_RX.EXPECTED p) 0).put (LK_SEQ_RX.ACK_SENT p) 0xFFF

/-- The credit counters start at 0 (R125); a cell that still waits from before is not counted in them. -/
def State.clearCredits (s : State) (p : Nat) : State :=
  (s.setJn fun j => { j with voq := j.voq.map fun e =>
    if e.1 / 128 = p then (e.1, e.2.map fun q => { q with credit := false }) else e }).setLink p fun l => { l with sent := [], ret := [], retOwn := [], retSent := [], creditDue := false }

/-! ### Link states -/

/-- The link state changes; leaving OPEN raises `PORT_DOWN` (R148). -/
def State.setLState (s : State) (p v : Nat) : State :=
  let cur := s.lState p
  let s := s.when (cur == lkOpen && v != lkOpen) fun s =>
    ((s.abortTests fun t tgt => t == 5 && tgt == p).raise (LK_EVENT.PORT_DOWN p)).setLink p fun l => { l with failDue := true }
  let s := s.setLink p fun l => { l with msInState := 0, wasDead := (cur == lkDead && v == lkOpen) }
  s.put (LK_STATE.LSTATE p) v

/-- Retire the port (R147): link state RETIRED, `RETIRED` set, `PORT_RETIRED` raised and logged, sequence state
discarded (R130). -/
def State.retirePort (s : State) (p : Nat) : State :=
  if s.lState p == lkRetired then s
  else
    let s := (s.setLState p lkRetired).put (LK_STATE.RETIRED p) 1
    ((s.raise (LK_EVENT.PORT_RETIRED p)).log (4 + p) 13 p (portLoc p)).dropSeq p

/-- An entry to DOWN; four within 1 s retire the port (R137, R147). -/
def State.toDown (s : State) (p : Nat) : State :=
  let s := s.setLState p lkDown
  let s := s.setLink p fun l => { l with downs := (s.tm.tick :: l.downs.filter fun t => s.tm.tick - t ≤ 1250000000).take 4 }
  if (s.link p).downs.length ≥ 4 then s.retirePort p else s

/-- The port leaves ACTIVE: its swaps are abandoned (R93), what waited to be sent is dropped, the sequence state is kept
for 30 ms (R130), every link state but RETIRED goes to DOWN (R137), and `LD_VALID` clears (R330). -/
def State.leaveActive (s : State) (p : Nat) : State :=
  let s := s.setPort p fun x =>
    { x with swapOwed := none, pauseLane := none, pauseLeft := 0, rxSwap := none, rxMoved := none,
             rxHeld := [], readmit := none, waived := [], spareNext := none, narrowTo := none, narrowNext := [], narrowed := [], narrowAck := none }
  let s := s.setLink p fun l =>
    { l with mgmt := [], delay := [], capsOwed := 0, nakOwed := false, nakOut := false, helloSeen := false,
             fencedBy := none }
  let s := s.put (TM_LD.LD_VALID p) 0
  if s.lState p == lkRetired then s else s.toDown p

/-! ### Capability exchange -/

/-- Slots of the lossless pools of a port as advertised (R121): units of 8 slots by class, TC0 first; a lossy class
advertises 0. -/
def State.ownPools (s : State) (p : Nat) : List Nat :=
  let hi := (s.reg (LK_POOL_HI p)).toNat
  let lo := (s.reg (LK_POOL_LO p)).toNat
  let raw := fun c => if c < 4 then bits lo (8 * c + 7) (8 * c) else bits hi (8 * (c - 4) + 7) (8 * (c - 4))
  let use := fun (f : Nat → Nat) => (List.range 8).map fun c => if (s.get JN_CFG.LOSSLESS).testBit c then f c else 0
  let own := use raw
  if own.foldl (· + ·) 0 * 8 > 3072 then
    use fun c => ([0, 0, 0x20, 0x80, 0, 0, 0x20, 0x08] : List Nat).getD c 0
  else own

/-- The port's pools add up to more than 3,072 slots (R121). -/
def State.poolsTooBig (s : State) (p : Nat) : Bool :=
  let hi := (s.reg (LK_POOL_HI p)).toNat
  let lo := (s.reg (LK_POOL_LO p)).toNat
  let raw := fun c => if c < 4 then bits lo (8 * c + 7) (8 * c) else bits hi (8 * (c - 4) + 7) (8 * (c - 4))
  decide (((List.range 8).map fun c => if (s.get JN_CFG.LOSSLESS).testBit c then raw c else 0).foldl (· + ·) 0 * 8 > 3072)

/-- `RATE_MAX` in force: 0b11 acts as 0b00. -/
def State.rateMax (s : State) (p : Nat) : Nat := if s.get (SP_CFG.RATE_MAX p) = 3 then 0 else s.get (SP_CFG.RATE_MAX p)

/-- The starting rate (R72). -/
def State.startRate (s : State) (p : Nat) : Nat := if s.on ID_DEVICE.TRIM_SAFE then 0 else s.rateMax p

/-- The features this hub declares (R126). -/
def State.ownFeatures (s : State) (p : Nat) : Nat :=
  0b110011 + (s.get (LK_CFG.DEGRADE_EN p)) * 4 + (s.get (LK_CFG.RESUME_EN p)) * 8

/-- This hub's capability record (R126). -/
def State.ownCaps (s : State) (p : Nat) : CapRec :=
  let l := s.link p
  { fmt := 1, major := 2, minor := 1, rates := 2 ^ (s.rateMax p + 1) - 1, features := s.ownFeatures p,
    flags := l.caps.isSome.toNat + l.seqValid.toNat * 2, window := 2047,
    nextExp := s.get (LK_SEQ_RX.EXPECTED p), nextTx := s.get (LK_SEQ_TX.NEXT_TX p),
    pools := s.ownPools p, oldestTx := s.get (LK_SEQ_TX.OLDEST p) }

/-- A capability record as the slot of a training frame (R126). -/
def CapRec.slot (r : CapRec) : List Byte :=
  padTo 72 (beBytes 1 r.fmt ++ beBytes 1 r.major ++ beBytes 1 r.minor ++ beBytes 1 r.rates ++ beBytes 1 r.features
    ++ beBytes 1 r.flags ++ beBytes 2 r.window ++ beBytes 2 r.nextExp ++ beBytes 2 r.nextTx
    ++ (r.pools.reverse.map fun x => BitVec.ofNat 8 x) ++ beBytes 2 r.oldestTx)

/-- The record in the slot of a training frame (R126). -/
def CapRec.ofSlot (b : List Byte) : CapRec :=
  { fmt := beAt b 0 1, major := beAt b 1 1, minor := beAt b 2 1, rates := beAt b 3 1, features := beAt b 4 1,
    flags := beAt b 5 1, window := beAt b 6 2, nextExp := beAt b 8 2, nextTx := beAt b 10 2,
    pools := ((slice b 12 8).reverse.map fun x => x.toNat), oldestTx := beAt b 20 2 }

/-- `x` lies between `a` and `b` modulo 4,096, going forward by at most 2,047 (R129). -/
def seqBetween (a x b : Nat) : Bool :=
  let d := (x + 4096 - a % 4096) % 4096
  decide (d ≤ (b + 4096 - a % 4096) % 4096) && decide (d ≤ 2047)

/-- Both sides decide to resume the sequence (R129). -/
def resumes (feat : Nat) (own part : CapRec) : Bool :=
  feat.testBit 3 && own.flags.testBit 1 && part.flags.testBit 1
    && seqBetween own.oldestTx part.nextExp own.nextTx && seqBetween part.oldestTx own.nextExp part.nextTx

/-- A NARROW of this hub waits to be sent or to be acknowledged. -/
def State.narrowOut (s : State) (p : Nat) : Bool :=
  let l := s.link p
  l.mgmt.any (fun w => beAt w.slot 0 1 == 5) || l.replay.any fun t => t.ftype == 4 && beAt t.slot 0 1 == 5

/-- The transmitter replays from its oldest unacknowledged frame at its next slot (R119, R129, R145). -/
def State.replayAll (s : State) (p : Nat) : State :=
  s.setLink p fun l =>
    { l with resend := if l.replay = [] then none else some 0, resendAt := none, sentTick := s.tm.tick,
             lastFrom := if l.replay = [] then l.lastFrom else some (s.get (LK_SEQ_TX.OLDEST p), s.tm.tick) }

/-- Release every buffered frame up to number `a` (R116). -/
def State.releaseTo (s : State) (p a : Nat) : State :=
  let old := s.get (LK_SEQ_TX.OLDEST p)
  let n := (a + 1 + 4096 - old) % 4096
  let s := s.setLink p fun l =>
    { l with replay := l.replay.drop n, replays := if n = 0 then l.replays else 0,
             resend := match l.resend with
               | none => none
               | some i => if l.replay.length ≤ n then none else some (i - n) }
  s.put (LK_SEQ_TX.OLDEST p) ((old + n) % 4096)

/-- The intervals of a lane are counted from its training on (R77; notes/assumptions/91.md). -/
def State.freshHistory (s : State) (p k : Nat) : State :=
  ((s.setLane p k fun l => { l with hist := [], cleanRun := 0, missRun := 0, lowRun := 0, goodRun := 0, sideErr := false, judged := false }).put
    (LN_CLASS.ERR16 p k) 0).put (LN_CLASS.TRANS_CNT p k) 0

/-- The port enters ACTIVE (R75, R125, R128, R129, R137, R138, R143): the sequence resumes or restarts, the link state
goes to HELLO, and HELLO is the first sequenced frame. -/
def State.enterActive (s : State) (p : Nat) : State :=
  let own := s.ownCaps p
  let res := match (s.link p).caps with
    | some r => resumes (s.get (LK_STATE.FEAT p)) own r
    | none => false
  let pexp := match (s.link p).caps with | some r => r.nextExp | none => 0
  let s := s.raise (SP_EVENT.TRAINED p)
  let s := if res then
      (s.releaseTo p ((pexp + 4095) % 4096)).replayAll p
    else (s.dropSeq p).clearCredits p
  let s := s.put (LK_STATE.RESUMED p) res.toNat
  let s := (s.put (LK_STATE.TX_WIDTH p) 2).put (LK_STATE.RX_WIDTH p) 2
  let s := s.setLink p fun l =>
    { l with trainFails := 0, activeAt := s.tm.tick, seqValid := true, mgmt := [], helloSeen := false, sentTick := s.tm.tick }
  let s := s.setPort p fun x => { x with fast := true }
  let s := s.each (List.range 5) fun k s => s.freshHistory p k
  let s := s.put JN_STATUS.LL_PENDING (s.get JN_STATUS.LL_PENDING &&& (0xF - 2 ^ p))
  let s := s.setJn fun j => { j with llWait := tput 0 p 0 j.llWait }
  let s := if s.lState p == lkRetired then s else s.setLState p lkHello
  s.sendHello p

/-! ### Training states -/

/-- What a state asks for as it is entered (R74). -/
def State.onEnter (s : State) (p st : Nat) : State :=
  if st = stDisabled ∨ st = stHoldoff then s.put (SP_FCK.TX_ON p) 0
  else if st = stDetect then (s.put (SP_FCK.TX_ON p) 1).put (SP_FCK.RX_LOCK p) 0
  else if st = stLock then
    s.each (List.range 5) fun k s =>
      (s.setLane p k fun l => { l with rxReady := false, partReady := false, goodBlocks := 0 }).put (LN_RX_STAT.LOCK p k) 0
  else if st = stEqualize then
    let i := s.get (SP_CFG.INIT_PRESET p)
    let pre := ([0, 0, 0, 0, 3, 3, 6, 4] : List Nat).getD i 0
    let post := ([0, 6, 12, 18, 6, 12, 12, 20] : List Nat).getD i 0
    s.each (List.range 5) fun k s =>
      (s.setTaps p k pre post).setLane p k fun l => { l with reqOut := false, reqReps := 0 }
  else if st = stAlign then
    (s.setPort p fun x => { x with slotIx := 0, amRef := none }).each (List.range 5) fun k s => s.freshHistory p k
  else if st = stCaps then
    let s := s.setPort p fun x => { x with slotIx := 0 }
    let s := s.when (s.poolsTooBig p) fun s => s.raise (LK_EVENT.POOL_BAD p)
    s.setLink p fun l => { l with caps := none, peerOk := false, adv := s.ownPools p }
  else if st = stActive then s.enterActive p
  else s

/-- The port goes to a training state (R74). A tap request that was given up is so for the present EQUALIZE only (R71), and the
checkers stop (R100). -/
def State.enterState (s : State) (p st : Nat) : State :=
  let s := if s.spState p == stActive then s.leaveActive p else s
  let s := s.each (List.range 5) fun k s => (s.seek p k).setLane p k fun l => { l with gaveUp := false }
  (s.put (SP_STATE.STATE p) st).onEnter p st

/-- The port goes to ALIGN: each direction chooses its lanes (R77). -/
def State.enterAlign (s : State) (p : Nat) (pperm : List Nat) : State := (s.chooseLanes p pperm).enterState p stAlign

/-- The next lower rate: a step down to LOCK, or at 10 Gbit/s HOLDOFF with `TRAIN_FAIL` (R75); two failures with no
ACTIVE between retire the port (R147). -/
def State.rateDown (s : State) (p : Nat) : State :=
  let r := s.get (SP_STATE.RATE p)
  if r = 0 then
    let s := (s.raise (SP_EVENT.TRAIN_FAIL p)).enterState p stHoldoff
    let s := s.setLink p fun l => { l with trainFails := l.trainFails + 1 }
    if (s.link p).trainFails ≥ 2 then s.retirePort p else s
  else ((s.put (SP_STATE.RATE p) (r - 1)).raise (SP_EVENT.RATE_DOWN p)).enterState p stLock

/-- The port retrains from ACTIVE to LOCK at its present rate (R76, R120, R144). -/
def State.retrain (s : State) (p : Nat) : State := if s.spState p == stActive then s.enterState p stLock else s

/-- The lower rate that capabilities or the partner set: the rate changes and training goes on from a state (R73). -/
def State.lowerRate (s : State) (p rate st : Nat) : State :=
  ((s.put (SP_STATE.RATE p) rate).raise (SP_EVENT.RATE_DOWN p)).enterState p st

/-! ### Replay -/

/-- t_ACK in ns (R118): `ACK_TMO_DFLT`, 500 at least, until a link delay has been measured. -/
def State.tAck (s : State) (p : Nat) : Nat :=
  if s.on (LK_ACK_TMO.MEASURED p) then s.get (LK_ACK_TMO.TMO_NS p) else max 500 (s.get (LK_CFG.ACK_TMO_DFLT p))

/-- A replay from the buffered frame at a position; eight in a row without progress set `REPLAY_FAIL` and retrain
(R117, R120), a count that runs on through a resumed entry to ACTIVE (notes/assumptions/97.md). `at_` is when the frame that asks
for it arrived. -/
def State.startReplay (s : State) (p i : Nat) (at_ : Option Nat) : State :=
  let l := s.link p
  if l.replay = [] then s
  else if l.replays ≥ 8 then (s.raise (LK_EVENT.REPLAY_FAIL p)).retrain p
  else
    let from_ := (s.get (LK_SEQ_TX.OLDEST p) + i) % 4096
    s.setLink p fun l => { l with resend := some i, resendAt := at_, lastFrom := some (from_, s.tm.tick), replays := l.replays + 1 }

/-- A request for replay is owed to the partner, unless one is outstanding (R115). -/
def State.requestReplay (s : State) (p : Nat) : State :=
  if (s.link p).nakOut then s
  else s.setLink p fun l => { l with nakOwed := true, nakOut := true, nakAt := if l.nakOwed then l.nakAt else s.tm.tick }

/-- `ACKV`, `ACK` and `RETRY_REQ` of a good frame are taken in (R113, R116, R117). -/
def State.takeAck (s : State) (p : Nat) (ackv : Bool) (ack : Nat) (retry : Bool) : State :=
  if !ackv then s
  else
    let old := s.get (LK_SEQ_TX.OLDEST p)
    let n := (ack + 1 + 4096 - old) % 4096
    let ok := decide (n ≤ (s.link p).replay.length)
    let s := if ok then s.releaseTo p ack else s.inc (LK_LOST.BAD_ACK p)
    let s := s.when ((s.port p).narrowed != [] && (s.port p).narrowAck.isNone && !s.narrowOut p) fun s =>
      s.setPort p fun x => { x with narrowAck := some s.tm.tick }
    if !retry then s
    else
      let s := s.inc (LK_NAK.NAK_RX p)
      let i := (ack + 1 + 4096 - s.get (LK_SEQ_TX.OLDEST p)) % 4096
      let recent := match (s.link p).lastFrom with
        | some (f, t) => f == (ack + 1) % 4096 && decide (s.elapsed t < s.tAck p)
        | none => false
      if !ok || recent || decide ((s.link p).replay.length ≤ i) then s else s.startReplay p i (some s.tm.tick)

/-- An uncorrectable frame in the replay buffer: the port discards its sequence state and retrains (R529). -/
def State.replayEccLoss (s : State) (p : Nat) : State := (s.dropSeq p).retrain p

/-- A slot of the class of a cell that left this port's pool is given back (R123). -/
def State.giveCredit (s : State) (p c : Nat) : State :=
  s.setLink p fun l =>
    let v := (tget 0 c l.retOwn + 1) % 65536
    { l with retOwn := tput 0 c v l.retOwn,
             creditDue := l.creditDue || decide ((v + 65536 - tget 0 c l.retSent) % 65536 ≥ 64) }

end Sys2Proof.Machine
end

