-- ==== Sys2Proof/Machine/Spine.lean ====
section
/-! DEFINITION. The commands of the spine lanes (chapter 02): training, adaptation, marker intervals, the lane-level
Detour, test and injection. -/

namespace Sys2Proof.Machine

/-! ### Lane-level Detour -/

/-- The narrower width code below a width, when there is one (R143): 2 x4, 1 x2, 0 x1. -/
def narrower (w : Nat) : Option Nat := if w = 0 then none else some (w - 1)

/-- `MIN_WIDTH` as a width code: values above 2 act as x4. -/
def State.minWidth (s : State) (p : Nat) : Nat := min 2 (s.get (LK_CFG.MIN_WIDTH p))

/-- An active receive lane is permanent and there is no spare (R144): NARROW, or a retrain; a width below `MIN_WIDTH`
retires the port (R147). -/
def State.degrade (s : State) (p k : Nat) : State :=
  let fits := match narrower (s.get (LK_STATE.RX_WIDTH p) - (s.port p).narrowed.length) with
    | some w => decide (s.minWidth p ≤ w)
    | none => false
  let agreed := (s.get (LK_STATE.FEAT p)).testBit 2 && s.on (LK_CFG.DEGRADE_EN p)
  if fits && agreed then (s.sendNarrow p k).setPort p fun x => { x with narrowed := x.narrowed ++ [k], narrowAck := none }
  else
    let s := s.retrain p
    if fits then s else s.retirePort p

/-- Retire an active receive lane: a swap request when the direction has a spare, else degraded width, or
`SWAP_REFUSED` for a forced one; one request at a time (R89, R93). -/
def State.requestRetire (s : State) (p k : Nat) (forced : Bool) : State :=
  let x := s.port p
  if s.get (LN_RX_STAT.ROLE p k) != roleActive then s
  else if x.rxSwap.isSome || x.rxMoved.isSome then
    s.setPort p fun x => { x with rxHeld := x.rxHeld ++ [(k, forced)] }
  else if s.rxLanes p roleSpare != [] then s.setPort p fun x => { x with rxSwap := some (k, forced) }
  else if forced then s.raise (SP_EVENT.SWAP_REFUSED p)
  else s.degrade p k

/-- The lanes held back are handled afresh once a swap has completed or been given up (R89). -/
def State.handleHeld (s : State) (p : Nat) : State :=
  let held := (s.port p).rxHeld
  (s.setPort p fun x => { x with rxHeld := [] }).each held fun (k, f) s => s.requestRetire p k f

/-- The receiver saw no spare in the markers: the request is withdrawn, `SWAP_REFUSED` set, and a judged lane goes to the
degraded-width rules (R93). -/
def State.refuseSwap (s : State) (p : Nat) : State :=
  match (s.port p).rxSwap with
  | none => s
  | some (k, forced) =>
    let s := (s.setPort p fun x => { x with rxSwap := none }).raise (SP_EVENT.SWAP_REFUSED p)
    let s := if forced then s else s.degrade p k
    s.handleHeld p

/-- A lane is judged permanent (R88): `PERM`, the event, a log entry; an active lane is retired through the Detour, a
spare under R84. -/
def State.judgePermanent (s : State) (p k : Nat) : State :=
  let role := s.get (LN_RX_STAT.ROLE p k)
  let s := s.setLane p k fun l => { l with judged := true }
  let s := ((s.put (LN_CLASS.PERM p k) 1).raise (SP_EVENT.PERM p)).log p 8 0 (laneLoc p k 1)
  if role = roleActive then s.requestRetire p k false
  else if role = roleSpare then
    let s := s.retireRx p k
    ((s.noteSpares p).put (SP_STATE.NO_SPARE p) 1).raise (SP_EVENT.SPARE_LOST p)
  else s

/-- A valid swap request reaches the transmitter (R90, R93): for an active lane, with a spare and no swap in progress, the
swap block is owed; otherwise it is ignored. -/
def State.swapRequest (s : State) (p k : Nat) : State :=
  let x := s.port p
  if (s.lane p k).txRole == roleActive && s.txLanes p roleSpare != [] && x.swapOwed.isNone && x.pauseLane.isNone
  then s.setPort p fun x => { x with swapOwed := some k }
  else s

/-- The swap block reaches the receiver on its spare lane: the logical position of lane `k` moves to the spare (R91), and
the request is withdrawn (R89). -/
def State.swapBlock (s : State) (p k : Nat) : State :=
  match s.rxLanes p roleSpare with
  | [] => s
  | sp :: _ =>
    if s.get (LN_RX_STAT.ROLE p k) != roleActive then s
    else
      let logical := s.get (LN_RX_STAT.LOGICAL p k)
      let s := ((s.setRxRole p sp roleActive logical).retireRx p k).freshMarkers p
      let s := s.setPort p fun x =>
        { x with rxMoved := some (k, sp),
                 rxSwap := match x.rxSwap with
                   | some (j, f) => if j == k then none else some (j, f)
                   | none => none }
      s.abortTests fun t tgt => t == 1 && tgt == 16 * p + sp

/-- The swap completes (R94). -/
def State.swapComplete (s : State) (p pauseNs : Nat) : State :=
  let s := s.setPort p fun x => { x with rxMoved := none }
  let s := ((s.inc (SP_DETOUR.SWAPS p)).put (SP_DETOUR.LAST_PAUSE_NS p) (min pauseNs 0xFFFF)).noteSpares p
  (s.raise (SP_EVENT.SWAP_DONE p)).handleHeld p

/-- The receiver requests a retired lane back as spare when R96 holds; `waived` waives the clean intervals (R97). -/
def State.tryReadmit (s : State) (p k : Nat) (waived : Bool) : State :=
  if s.get (LN_RX_STAT.ROLE p k) == roleRetired && s.on (SP_CFG.REQUAL_EN p)
    && (waived || decide (1000 ≤ (s.lane p k).cleanRun)) && decide (s.get (LN_CLASS.RETIRES p k) < 2)
    && s.rxLanes p roleSpare == [] && (s.port p).readmit.isNone
  then s.setPort p fun x => { x with readmit := some k, waived := x.waived.filter (· != k) }
  else s

/-- The role spare shown for a lane under readmission: the lane is the spare again (R96). -/
def State.readmitted (s : State) (p k : Nat) : State :=
  let s := (s.setRxRole p k roleSpare 7).put (LN_CLASS.PERM p k) 0
  let s := (s.setPort p fun x => { x with readmit := none }).setLane p k fun l => { l with judged := false }
  (s.noteSpares p).raise (SP_EVENT.REQUAL p)

/-- A readmission request reaches the transmitter: the retired lane takes the role spare from the next marker (R96). -/
def State.readmitRequest (s : State) (p k : Nat) : State :=
  if (s.lane p k).txRole == roleRetired && s.txLanes p roleSpare == []
  then s.setPort p fun x => { x with spareNext := some k }
  else s

/-! ### Training (R54, R73 to R77) -/

/-- FCK_LOSS (R54): counted and raised; the port leaves ACTIVE and trains from DETECT. In TEST it stays, since only `TEST` = 0
ends that state (R74; notes/assumptions/97.md). -/
def execFckLoss (p : Port) (s : State) : Result :=
  let st := s.spState p
  let s := ((s.raise (SP_EVENT.FCK_LOSS p)).inc (SP_FCK.LOSS_CNT p)).put (SP_FCK.RX_LOCK p) 0
  .next (if st == stDisabled || st == stHoldoff || st == stTest then s else s.enterState p stDetect)

/-- FCK_LOCKED (R73, R74): the received FCK has been locked 100 µs and shows a rate. -/
def execFckLocked (p : Port) (rate : Fin 3) (s : State) : Result :=
  let s := (s.put (SP_FCK.RX_LOCK p) 1).put (SP_FCK.RX_RATE p) rate
  let own := s.get (SP_STATE.RATE p)
  .next (if s.spState p != stDetect then s
    else if rate.val = own then s.enterState p stLock
    else if rate.val < own then s.lowerRate p rate stDetect
    else s)

/-- LANES_LOCKED (R74): training blocks are good on the named lanes; four or more move the port on. -/
def execLanesLocked (p : Port) (good : BitVec 5) (partFast : Bool) (s : State) : Result :=
  let t := s.each (bitList good.toNat 5) fun k s => s.put (LN_RX_STAT.LOCK p k) 1
  let t := t.setPort p fun x => { x with partFast := partFast }
  .next (if s.spState p != stLock || decide (popCount good.toNat 5 < 4) then t
    else if (s.port p).fast && partFast then t.enterState p stCheck
    else t.enterState p stEqualize)

/-- EQUALIZE_DONE (R74, R77): every lane is ready in both directions. -/
def execEqualizeDone (p : Port) (pperm : BitVec 5) (s : State) : Result :=
  .next (if s.spState p == stEqualize && (List.range 5).all fun k => (s.lane p k).rxReady && (s.lane p k).partReady
    then s.enterAlign p (bitList pperm.toNat 5) else s)

/-- ALIGN_DONE (R74): two consecutive deskewed markers with correct `BIP8` have come on every active lane; four are active, as
fewer do not carry frames in training (R77). -/
def execAlignDone (p : Port) (s : State) : Result :=
  .next (if s.spState p == stAlign && s.alignedTwice p && (s.rxLanes p roleActive).length == 4 then s.enterState p stCaps else s)

/-- Lanes of a direction that are ready. -/
def State.readyCount (s : State) (p : Nat) (rx : Bool) : Nat :=
  ((List.range 5).filter fun k => if rx then (s.lane p k).rxReady else (s.lane p k).partReady).length

/-- TRAINING_TIMEOUT (R74): `rxClean` and `txClean` name the lanes with no `TB_CRC` error in CHECK. -/
def execTrainingTimeout (p : Port) (rxClean txClean pperm : BitVec 5) (s : State) : Result :=
  let st := s.spState p
  .next (if st = stLock ∨ st = stAlign ∨ st = stCaps then s.rateDown p
    else if st = stEqualize then
      if 4 ≤ s.readyCount p true ∧ 4 ≤ s.readyCount p false then s.enterAlign p (bitList pperm.toNat 5) else s.rateDown p
    else if st = stCheck then
      if 4 ≤ popCount rxClean.toNat 5 ∧ 4 ≤ popCount txClean.toNat 5 then
        let s := s.each (List.range 5) fun k s =>
          s.setLane p k fun l => { l with rxReady := rxClean.getLsbD k, partReady := txClean.getLsbD k }
        s.enterAlign p (bitList pperm.toNat 5)
      else s.enterState p stEqualize
    else s)

/-- HOLDOFF_EXPIRY (R72, R74). -/
def execHoldoffExpiry (p : Port) (s : State) : Result :=
  .next (if s.spState p == stHoldoff then (s.put (SP_STATE.RATE p) (s.startRate p)).enterState p stDetect else s)

/-! ### Tap requests (R68 to R71) -/

/-- The request for one cursor at a present step: the new step and the status (R70). `room` is the greatest step. -/
def tapStep (req step room : Nat) : Nat × Nat :=
  if req = 1 then (if step < room then (step + 1, 1) else (step, 3))
  else if req = 2 then (if step = 0 then (step, 2) else (step - 1, 1))
  else (step, 0)

/-- A tap request acts on a transmit lane (R68 to R70): requests for the pre-cursor, the post-cursor, and the preset. -/
def State.applyTaps (s : State) (p k preReq postReq preset : Nat) : State :=
  let pre := s.get (LN_TX.PRE p k)
  let post := s.get (LN_TX.POST p k)
  let (pre', ps, post', qs) :=
    if preReq = 3 then
      (([0, 0, 0, 0, 3, 3, 6, 4] : List Nat).getD preset 0, 1, ([0, 6, 12, 18, 6, 12, 12, 20] : List Nat).getD preset 0, 1)
    else
      let (a, x) := tapStep preReq pre (min 15 (36 - post))
      let (b, y) := tapStep postReq post (min 31 (36 - a))
      (a, x, b, y)
  (s.setTaps p k pre' post').setLane p k fun l => { l with preSts := ps, postSts := qs }

/-- A new tap request of this hub goes out on a lane once the last is answered (R71). -/
def State.askTaps (s : State) (p k : Nat) (ask : Option (Fin 4 × Fin 3 × Fin 8)) : State :=
  match ask with
  | none => s
  | some (a, b, c) =>
    let l := s.lane p k
    let may := s.spState p == stEqualize || (s.spState p == stActive && s.get (LN_RX_STAT.ROLE p k) == roleSpare)
    if may && !l.reqOut && !l.gaveUp then
      s.setLane p k fun l =>
        { l with reqSeq := !l.reqSeq, reqOut := true, reqReps := 0, reqPre := a, reqPost := b, reqPreset := c }
    else s

/-- A training block with its sync pattern upright (R55, R67), or `none`: the bits and whether they came inverted. -/
def readBlock (b : BitVec 160) : Option (Nat × Bool) :=
  let n := b.toNat
  let sync := bits n 159 128
  let r := if sync = 0xB4C31E6D then some (n, false)
    else if sync = 0x4B3CE192 then some (2 ^ 160 - 1 - n, true) else none
  match r with
  | some (m, inv) => if crc16 (beBytes 18 (m / 2 ^ 16)) = bits m 15 0 then some (m, inv) else none
  | none => none

/-- The lane that a receive wire of a port carries, as its blocks and markers have shown it (R56). -/
def State.rxLane (s : State) (p w : Nat) : Nat := tget w w (s.port p).rxMap

/-- A block or a marker shows the lane of a wire. -/
def State.learn (s : State) (p w k : Nat) : State := s.setPort p fun x => { x with rxMap := tput w w k x.rxMap }

/-- Errors of the spare lane outside frames count as `BIP8` errors of the lane, and in its present interval (R83, R85). -/
def State.spareErrs (s : State) (p k n : Nat) : State :=
  s.when (n != 0 && s.spState p == stActive && s.get (LN_RX_STAT.ROLE p k) == roleSpare) fun s =>
    (s.addSat (LN_BIP.BIP_ERR p k) n).setLane p k fun l => { l with sideErr := true }

/-- The receiver of a lane adapts on a training block: in training up to EQUALIZE, and on the spare in ACTIVE unless `FREEZE`
stops it (R80, R83). -/
def State.adaptOn (s : State) (p k : Nat) : State :=
  let st := s.spState p
  s.when (st == stLock || st == stEqualize || (st == stActive && !s.on (LN_RX_EQ.FREEZE p k))) fun s => s.adapt p k

/-- A good block `n` on receive lane `j` of a port (R55, R56, R70, R71, R80, R83, R89, R91): lock, polarity and margin, the count
of blocks in a row, the partner's readiness, its tap request, the end of an own one, the next one `ask`, and in ACTIVE its
swap fields. -/
def State.takeBlock (s : State) (p j n : Nat) (inv : Bool) (margin : Nat) (ask : Option (Fin 4 × Fin 3 × Fin 8)) : State :=
  let s := ((s.put (LN_RX_STAT.POL_INV p j) inv.toNat).put (LN_RX_STAT.LOCK p j) 1).put (LN_RX_STAT.MARGIN p j) margin
  let s := s.adaptOn p j
  let s := s.setPort p fun x => { x with partFast := n.testBit 87 }
  let run := if s.get (SP_CLASS.MARGIN_MIN p) ≤ margin then (s.lane p j).goodBlocks + 1 else 0
  let s := s.setLane p j fun l =>
    { l with goodBlocks := min run 1000, rxReady := l.rxReady || decide (1000 ≤ run), partReady := n.testBit 118 }
  let s := if (s.lane p j).answered != n.testBit 117 then
      (s.applyTaps p j (bits n 115 114) (bits n 113 112) (bits n 111 109)).setLane p j fun l =>
        { l with answered := n.testBit 117 }
    else s
  let s := if (s.lane p j).reqOut && n.testBit 116 == (s.lane p j).reqSeq
    then s.setLane p j fun l => { l with reqOut := false, reqReps := 0 } else s
  let s := s.askTaps p j ask
  let s := s.when (s.spState p == stActive && n.testBit 95) fun s => s.swapRequest p (bits n 94 92)
  s.when (s.spState p == stActive && n.testBit 91 && s.get (LN_RX_STAT.ROLE p j) == roleSpare) fun s =>
    s.swapBlock p (bits n 90 88)

/-- TRAINING_BLOCK_RX (R55, R56, R70, R71, R80, R83, R89, R91): a block arrives; `margin` is the lane's eye margin and
`ask` the next tap request that the adaptation makes of the partner. `w` is the receive wire, whose lane a good block shows; a bad
block is charged to the lane it has shown before. -/
def execTrainingBlockRx (p : Port) (w : LaneNo) (b : BitVec 160) (margin : Fin 64)
    (ask : Option (Fin 4 × Fin 3 × Fin 8)) (s : State) : Result :=
  match readBlock b with
  | none =>
    let k := s.rxLane p w
    .next ((s.setLane p k fun l => { l with goodBlocks := 0 }).spareErrs p k 1)
  | some (n, inv) =>
    let k := bits n 123 121
    if 4 < k then .next s else .next ((s.learn p w k).takeBlock p k n inv margin ask)

/-- TAP_REQUEST_TIMEOUT (R71): the request is repeated, or given up after 16 repeats, in EQUALIZE for the rest of it. -/
def execTapRequestTimeout (p : Port) (k : LaneNo) (s : State) : Result :=
  let l := s.lane p k
  .next (if !l.reqOut then s
    else if l.reqReps < 16 then s.setLane p k fun l => { l with reqReps := l.reqReps + 1 }
    else s.setLane p k fun l => { l with reqOut := false, gaveUp := s.spState p == stEqualize })

/-! ### Marker intervals (R62 to R66, R81, R85 to R88, R93, R94, R96) -/

/-- A marker is accepted when both sync patterns and the check are right (R63); its bits as a number. -/
def readMarker (m : BitVec 160) : Option Nat :=
  let n := m.toNat
  if bits n 159 112 = 0x4D1FA6E29C35 ∧ bits n 63 16 = 0xB2E0591D63CA ∧ crc8 (beBytes 5 (bits n 111 72)) = bits n 71 64
  then some n else none

/-- The kind of an interval (R85): 0 clean, 1 errored, 2 missing, with the count of `BIP8` mismatches; a skew above
256 UI, or none that a marker of the same count gives, counts as missing (R66). -/
def intervalKind (m : Option Nat) (rxBip : BitVec 8) (skew : Option Nat) : Nat × Nat :=
  match m, skew with
  | none, _ => (2, 0)
  | _, none => (2, 0)
  | some n, some d =>
    if 256 * 64 < d then (2, 0)
    else
      let e := popCount (bits n 87 80 ^^^ rxBip.toNat) 8
      if e = 0 then (0, 0) else (1, e)

/-- A lane is permanent by R86, from its history with the present interval at its head. -/
def State.permanentNow (s : State) (p k : Nat) : Bool :=
  let l := s.lane p k
  let permN := max 1 (s.get (SP_CLASS.PERM_N p))
  let transMax := max 1 (s.get (SP_CLASS.TRANS_MAX p))
  decide (2 ≤ l.missRun) || decide (permN ≤ ((l.hist.take 16).filter (· != 0)).length) || decide (16 ≤ l.lowRun)
    || decide (transMax ≤ (l.hist.filter (· == 1)).length)

/-- The receive lanes take what the markers of the change show, and the width becomes one less; a further NARROW whose lane is
still active waits for its own change (R145). -/
def State.narrowRx (s : State) (p f : Nat) (others : List Nat) : State :=
  let s := s.each others fun j s =>
    let l := s.lane p j
    s.setRxRole p j l.seenRole (if l.seenRole = roleActive then l.seenLogical else 7)
  let s := (s.retireRx p f).put (LK_STATE.RX_WIDTH p) (s.get (LK_STATE.RX_WIDTH p) - 1)
  let s := s.setPort p fun x =>
    { x with narrowed := (x.narrowed.drop 1).filter fun j => s.get (LN_RX_STAT.ROLE p j) == roleActive, narrowAck := none }
  (s.noteSpares p).raise (LK_EVENT.NARROWED p)

/-- The receiver adopts the narrower width once it has sent NARROW and the good markers of one slot, with count `count`, show it on
the lanes beside the failed one (R145). At x2 the lane that stays may show no change of its own: then the failed lane's role shows
it, or that the partner acknowledged NARROW 1 µs ago (notes/assumptions/98.md). -/
def State.adoptWidth (s : State) (p count : Nat) : State :=
  match (s.port p).narrowed with
  | [] => s
  | f :: _ =>
    let w := s.get (LK_STATE.RX_WIDTH p)
    let others := (s.rxLanes p roleActive).filter (· != f)
    let keep := others.filter fun j => (s.lane p j).seenRole == roleActive
    let moved := keep.any fun j => (s.lane p j).seenLogical != s.get (LN_RX_STAT.LOGICAL p j)
    let due := match (s.port p).narrowAck with | some t => decide (1000 ≤ s.elapsed t) | none => false
    if w != 0 && others.all (fun j => (s.lane p j).amSeen == count) && keep.length == w
        && (w == 2 || moved || (s.lane p f).seenRole != roleActive || due)
    then s.narrowRx p f others else s

/-- The delay of a lane behind the earliest one (R64), from the arrival of its marker: that of the first lane with the same
`AM_COUNT`; none for a marker of an earlier count than has come. The first marker of a count is the earliest lane's. -/
def State.skewOf (s : State) (p count arrival : Nat) : Option Nat × State :=
  let first := (some 0, s.setPort p fun x => { x with amRef := some (count, arrival) })
  match (s.port p).amRef with
  | none => first
  | some (c, a) =>
    if c = count then (some ((arrival + 65536 - a) % 65536), s)
    else if (count + 65536 - c) % 65536 < 32768 then first
    else (none, s)

/-- What an interval of lane `k` shows is recorded (R63, R64, R81, R85): margin, skew, lock, the counts of errors and the runs of
kinds, `mk` being its marker and `kind` its kind; the receiver goes on adapting in ACTIVE (R80). -/
def State.noteInterval (s : State) (p k kind errs margin : Nat) (skew mk : Option Nat) : State :=
  let s := (s.put (LN_RX_STAT.MARGIN p k) margin).put (LN_RX_STAT.LOCK p k) (kind != 2).toNat
  let s := match skew with | some d => s.put (LN_RX_STAT.SKEW p k) d | none => s
  let s := s.when (s.spState p == stActive && !s.on (LN_RX_EQ.FREEZE p k)) fun s => s.adapt p k
  if s.get (LN_RX_STAT.ROLE p k) = roleExcluded then s
  else
    let s := (s.addSat (LN_BIP.BIP_ERR p k) errs).when (kind != 0) fun s => s.inc (LN_BIP.ERR_INT p k)
    s.setLane p k fun l =>
      { l with hist := (kind :: l.hist).take 1024, cleanRun := if kind = 0 then l.cleanRun + 1 else 0,
               goodRun := if kind = 0 then l.goodRun + 1 else 0, sideErr := false,
               amSeen := match mk with | some n => bits n 103 88 | none => (l.amSeen + 1) % 65536,
               missRun := if kind = 2 then l.missRun + 1 else 0,
               lowRun := if margin < s.get (SP_CLASS.MARGIN_MIN p) then l.lowRun + 1 else 0,
               seenRole := match mk with | some n => bits n 108 107 | none => l.seenRole,
               seenLogical := match mk with | some n => bits n 106 104 | none => l.seenLogical }

/-- The present interval is judged (R86 to R88): one that makes the lane permanent is no transient event. -/
def State.judgeInterval (s : State) (p k kind : Nat) : State :=
  let perm := !(s.lane p k).judged && s.permanentNow p k
  let s := s.when (perm && kind == 1) fun s => s.setLane p k fun l => { l with hist := 3 :: l.hist.drop 1 }
  let hist := (s.lane p k).hist
  let s := (s.put (LN_CLASS.ERR16 p k) (min 15 ((hist.take 16).filter (· != 0)).length)).put (LN_CLASS.TRANS_CNT p k)
    (min 255 (hist.filter (· == 1)).length)
  if perm then s.judgePermanent p k else s

/-- The fields of a good marker `n` on lane `k`, which had a role, act in ACTIVE (R89, R93, R96, R145). -/
def State.markerFields (s : State) (p k role n : Nat) : State :=
  -- the partner shows no spare while this hub asks for a swap (R93)
  let s := if (s.port p).rxSwap.isSome && role == roleSpare && bits n 108 107 != roleSpare then s.refuseSwap p else s
  let s := if (s.port p).readmit == some k && bits n 108 107 == roleSpare then s.readmitted p k else s
  let s := s.adoptWidth p (bits n 103 88)
  let s := s.tryReadmit p k ((s.port p).waived.contains k)
  let s := s.when (n.testBit 79) fun s => s.swapRequest p (bits n 78 76)
  s.when (n.testBit 75) fun s => s.readmitRequest p (bits n 74 72)

/-- A marker interval of receive lane `k` ends (R63 to R66, R81, R85 to R88, R93, R94, R96). In ALIGN and CAPS it is recorded, and
a lane whose skew is too great is excluded; in ACTIVE it is judged, a swap under way advances, and the marker's fields act unless
the port has left ACTIVE by it. -/
def State.takeInterval (s : State) (p k : Nat) (mk : Option Nat) (rxBip : BitVec 8) (margin arrival pauseNs : Nat) : State :=
  let role := s.get (LN_RX_STAT.ROLE p k)
  let (skew, s) := match mk with | some n => s.skewOf p (bits n 103 88) arrival | none => (none, s)
  let (kind, errs) := intervalKind mk rxBip skew
  let kind := if kind = 0 ∧ (s.lane p k).sideErr then 1 else kind
  let s := s.noteInterval p k kind errs margin skew mk
  if role = roleExcluded then s
  else if s.spState p != stActive then
    if mk.isSome && kind == 2 then
      ((s.setLane p k fun l => { l with rxReady := false }).setRxRole p k roleExcluded 7).noteSpares p
    else s
  else
    let s := s.judgeInterval p k kind
    let s := if (s.port p).rxMoved.isSome && s.alignedTwice p then s.swapComplete p pauseNs else s
    match mk with
    | none => s
    | some n => if s.spState p == stActive then s.markerFields p k role n else s

/-- AM_RECEIVE (R56, R63 to R66, R81, R85 to R88, R93, R94, R96): the marker slot of a receive wire ends. The operands are what the
receiver has: the 160 bits, the parity of the bits received since the last marker, the margin, the instant of arrival in 1/64 UI,
and the length of the last pause for `LAST_PAUSE_NS`. A good marker shows the lane of the wire. -/
def execAmReceive (p : Port) (w : LaneNo) (m : BitVec 160) (rxBip : BitVec 8) (margin : Fin 64) (arrival : BitVec 16)
    (pauseNs : BitVec 16) (s : State) : Result :=
  let st := s.spState p
  let mk := readMarker m
  let s := match mk with
    | some n => if bits n 111 109 ≤ 4 then s.learn p w (bits n 111 109) else s
    | none => s
  .next (if st = stAlign ∨ st = stCaps ∨ st = stActive then s.takeInterval p (s.rxLane p w) mk rxBip margin arrival.toNat pauseNs.toNat
    else s)

/-- SWAP_REQUEST_RX (R90, R93): a valid swap request for transmit lane `k`. -/
def execSwapRequestRx (p : Port) (k : LaneNo) (s : State) : Result :=
  .next (if s.spState p == stActive then s.swapRequest p k else s)

/-- SWAP_BLOCK_RX (R91): the swap block naming lane `k` arrives on the spare lane. -/
def execSwapBlockRx (p : Port) (k : LaneNo) (s : State) : Result :=
  .next (if s.spState p == stActive then s.swapBlock p k else s)

/-- The pause of a swap ends (R90, R92, R95, R119): the spare carries the stripe of the retired lane, and replay starts from
the oldest unacknowledged frame. -/
def State.endPause (s : State) (p : Nat) : State :=
  match (s.port p).pauseLane, s.txLanes p roleSpare with
  | some k, sp :: _ =>
    let logical := (s.lane p k).txLogical
    let s := (s.setTxRole p sp roleActive logical).setTxRole p k roleRetired 7
    let s := s.setPort p fun x => { x with pauseLane := none, pauseLeft := 0 }
    let s := (s.noteSpares p).inc (SP_DETOUR.SWAPS p)
    s.replayAll p
  | _, _ => s.setPort p fun x => { x with pauseLane := none, pauseLeft := 0 }

/-- SWAP_PAUSE_END (R90, R92, R95, R119). -/
def execSwapPauseEnd (p : Port) (s : State) : Result := .next (s.endPause p)

/-- READMIT_REQUEST_RX (R96). -/
def execReadmitRequestRx (p : Port) (k : LaneNo) (s : State) : Result :=
  .next (if s.spState p == stActive then s.readmitRequest p k else s)

/-! ### Commands written to the port (R76, R89, R97, R99, R101, R102) -/

/-- Writing `TEST` = 1 (R76). -/
def State.testEnter (s : State) (p : Nat) : State :=
  let s := s.put (SP_CMD.TEST p) 1
  if s.spState p == stDisabled || s.spState p == stTest then s else s.enterState p stTest

/-- Writing `TEST` = 0 (R74, R76). -/
def State.testExit (s : State) (p : Nat) : State :=
  let s := s.put (SP_CMD.TEST p) 0
  if s.spState p == stTest then s.enterState p stDetect else s

/-- Writing `FORCE` (R89). -/
def State.force (s : State) (p k : Nat) : State :=
  if s.spState p == stActive then s.requestRetire p k true else s

/-- Writing `CLEAR` (R97), which acts in ACTIVE, where lanes are retired. While another condition of R96 fails the waiver is kept
until they all hold or the port leaves ACTIVE (notes/assumptions/97.md). -/
def State.clearLane (s : State) (p k : Nat) : State :=
  if s.spState p == stActive && s.get (LN_RX_STAT.ROLE p k) == roleRetired then
    (s.setPort p fun x => { x with waived := k :: x.waived.filter (· != k) }).tryReadmit p k true
  else s

/-- The injector of a transmit lane may act (R102). -/
def State.mayInject (s : State) (p k : Nat) : Bool :=
  let st := s.spState p
  let role := (s.lane p k).txRole
  st == stTest || (st == stActive && (role == roleSpare || role == roleRetired ||
    (role == roleActive && s.on (SP_CFG.INJ_MISSION p))))

/-- Writing `GO` in `LN_INJ` (R101, R102): one bit or a burst waits to be inverted, after what still waits of an earlier `GO`
(notes/assumptions/97.md). -/
def State.injGo (s : State) (p k : Nat) : State :=
  if !s.mayInject p k then s
  else
    let n := if s.get (LN_INJ.MODE p k) = 1 then 1
      else if s.get (LN_INJ.MODE p k) = 2 then
        (if s.get (LN_INJ.BURST_LEN p k) = 0 then 64 else s.get (LN_INJ.BURST_LEN p k)) else 0
    s.setLane p k fun l => { l with injLeft := l.injLeft + n }

def execTestEnter (p : Port) (s : State) : Result := .next (s.testEnter p)
def execTestExit (p : Port) (s : State) : Result := .next (s.testExit p)
/-- RETRAIN (R76). -/
def execRetrain (p : Port) (s : State) : Result := .next (s.retrain p)
def execForce (p : Port) (k : LaneNo) (s : State) : Result := .next (s.force p k)
def execClear (p : Port) (k : LaneNo) (s : State) : Result := .next (s.clearLane p k)
def execInjGo (p : Port) (k : LaneNo) (s : State) : Result := .next (s.injGo p k)

/-! ### PRBS generators and checkers (R98 to R100) -/

/-- Taps of a PRBS pattern: length and the two feedback bits (R98). -/
def prbsTaps (pattern : Nat) : Nat × Nat × Nat :=
  if pattern = 0 then (7, 6, 5) else if pattern = 1 then (15, 14, 13) else if pattern = 2 then (23, 22, 17) else (31, 30, 27)

/-- The bit that follows a checker's register: a PRBS feedback, or the bit that the user pattern repeats after 64 (R98). -/
def Checker.want (c : Checker) (pattern : Nat) : Bool :=
  if pattern = 4 then c.reg.getLsbD 63
  else let t := prbsTaps pattern; c.reg.getLsbD t.2.1 != c.reg.getLsbD t.2.2

/-- A bit while the checker seeks (R99): it seeds itself from the bits received, and 64 matches in a row lock it; for the user
pattern the last 64 bits are compared with all 64 alignments. A register of zeros is no state of a PRBS pattern. -/
def Checker.seekBit (c : Checker) (pattern : Nat) (user : BitVec 64) (b : Bool) : Checker :=
  let reg : BitVec 64 := (c.reg <<< 1) ||| (if b then 1 else 0)
  let seen := c.seen + 1
  let len := (prbsTaps pattern).1
  let run := if len ≤ c.seen ∧ c.reg.toNat % 2 ^ len ≠ 0 ∧ c.want pattern = b then c.run + 1 else 0
  let locked := if pattern = 4 then decide (64 ≤ seen) && (List.range 64).any fun r => reg == user.rotateLeft r else decide (64 ≤ run)
  if locked then { locked := true, reg := reg } else { c with reg := reg, seen := seen, run := run }

/-- A bit at a locked checker (R99): a mismatch is an error, and the 32nd within 1,024 bits makes it seek again. -/
def Checker.lockedBit (c : Checker) (pattern : Nat) (b : Bool) : Checker × Nat :=
  let w := c.want pattern
  let errs := (if w = b then c.errs else c.pos :: c.errs).filter fun t => c.pos < t + 1024
  let n := if w = b then 0 else 1
  if 32 ≤ errs.length then ({}, n)
  else ({ c with reg := (c.reg <<< 1) ||| (if w then 1 else 0), pos := c.pos + 1, errs := errs }, n)

/-- Bits at a checker, with the mismatches counted. -/
def Checker.bits (pattern : Nat) (user : BitVec 64) : Checker → List Bool → Checker × Nat
  | c, [] => (c, 0)
  | c, b :: t =>
    let (c, n) := if c.locked then c.lockedBit pattern b else (c.seekBit pattern user b, 0)
    let (c, m) := Checker.bits pattern user c t
    (c, n + m)

/-- The pattern that the checker of a lane is set to, and whether it is inverted (R98, R100): that of `LN_PRBS` in TEST, PRBS31 on
the spare and retired lanes in ACTIVE; none elsewhere. -/
def State.checkerOf (s : State) (p k : Nat) : Option (Nat × Bool) :=
  let role := s.get (LN_RX_STAT.ROLE p k)
  if s.spState p = stTest then
    if s.on (LN_PRBS.CHK_EN p k) then some (s.get (LN_PRBS.PATTERN p k), s.on (LN_PRBS.INV p k)) else none
  else if s.spState p = stActive ∧ (role = roleSpare ∨ role = roleRetired) then some (3, false)
  else none

/-- Bits at the checker of a lane (R83, R99): `CHK_LOCK`, the errors, and on the spare lane its `BIP8` errors. -/
def State.check (s : State) (p k : Nat) (b : List Bool) : State :=
  match s.checkerOf p k with
  | none => s
  | some (pat, inv) =>
    let user := BitVec.ofNat 64 (s.get (LN_USER_HI.USER_HI p k) * 2 ^ 32 + s.get (LN_USER_LO.USER_LO p k))
    let (c, n) := Checker.bits pat user (s.lane p k).chk (b.map fun x => x != inv)
    let s := (s.setLane p k fun l => { l with chk := c }).put (LN_PRBS.CHK_LOCK p k) c.locked.toNat
    (s.addSat (LN_PRBS_ERR.ERRORS p k) n).spareErrs p k n

/-- A write to `LN_PRBS` (R98, R99): in TEST a change restarts the checker, and a new pattern the generator; `CHK_LOCK` is
read-only. -/
def State.prbsWritten (s t : State) (p k : Nat) : State :=
  if t.spState p != stTest || s.reg (LN_PRBS p k) == t.reg (LN_PRBS p k) then t
  else
    (t.seek p k).when (s.get (LN_PRBS.PATTERN p k) != t.get (LN_PRBS.PATTERN p k)) fun t =>
      t.setLane p k fun l => { l with gen := 0x7FFFFFFF, genPos := 0 }

/-- PRBS_CHECKER_LOCK (R83, R98 to R100): a slot of bits, its first half in `early`, the first bit of each half in bit 79, reaches the
checker of the lane on a receive wire, which gains lock, counts, or loses it. -/
def execPrbsCheckerLock (p : Port) (w : LaneNo) (early late : BitVec 80) (s : State) : Result :=
  .next (s.check p (s.rxLane p w) (numBits 160 (early ++ late).toNat))

end Sys2Proof.Machine
end

