-- ==== Sys2Proof/Machine/Link.lean ====
section
/-! DEFINITION. The commands of the spine link (chapter 03): frames, acknowledgement, replay, credits, capabilities,
identity, liveness, fencing and width. -/

namespace Sys2Proof.Machine

/-! ### Frames (R105 to R109, R113 to R117) -/

/-- The trailer of a frame's 80 bytes (R106). -/
structure Trailer where
  seq   : Nat
  ack   : Nat
  ftype : Nat
  ackv  : Bool
  retry : Bool
  idle  : Bool
  deriving DecidableEq, Repr

/-- The trailer fields of a frame, when its CRC is good (R107). -/
def readTrailer (f : List Byte) : Option Trailer :=
  let t := beAt f 72 8
  if crc32c (slice f 0 76) = bits t 31 0 then
    some { seq := bits t 63 52, ack := bits t 51 40, ftype := bits t 39 36, ackv := t.testBit 35, retry := t.testBit 34,
           idle := t.testBit 33 }
  else none

/-- Malformed by its own fields (R109). -/
def Trailer.malformed (t : Trailer) : Bool :=
  (t.idle != (t.ftype == 1 || t.ftype == 3)) || (t.retry && !t.ackv) || decide (7 ≤ t.ftype)

/-- Sequenced frame types (R108). -/
def Trailer.sequenced (t : Trailer) : Bool := t.ftype == 0 || t.ftype == 4

/-- The distance of a sequence number from the expected one (R109, R113). -/
def seqDistance (seq expected : Nat) : Nat := (seq + 4096 - expected) % 4096

/-- The carried `ACK` is updated to the last number accepted (R114). -/
def State.updateAck (s : State) (p : Nat) : State :=
  let s := s.put (LK_SEQ_RX.ACK_SENT p) ((s.get (LK_SEQ_RX.EXPECTED p) + 4095) % 4096)
  s.setLink p fun l => { l with accepted := 0, ackChanged := true }

/-- A class holds a credit pool at this hub (R121). -/
def State.lossless (s : State) (c : Nat) : Bool := (s.get JN_CFG.LOSSLESS).testBit c

/-- The partner of a port spent a credit on a cell: its class has a pool there as last advertised, and it is no mirror copy, which
is treated as lossy (R122 to R124, R186; notes/assumptions/24.md). -/
def State.spentCredit (s : State) (p : Nat) (c : Cell) : Bool := (s.link p).adv.getD c.tc 0 != 0 && c.mir == 0

/-- The content of an accepted data frame (R137): delivered to the Junction in OPEN and DEAD, else discarded, counted in
FENCED, with its slot given back (R123). The port writes the arrival time into a time cell (R332). -/
def State.deliverCell (s : State) (p : Nat) (c : Cell) : State :=
  let ls := s.lState p
  if ls = lkOpen ∨ ls = lkDead then s.present p (if Cell.isTime c then Cell.patch c 16 (Stamp.bytes s.stamp) else c)
  else
    let s := s.when (ls == lkFenced) fun s => s.inc (LK_DISCARD.FENCED p)
    s.when (s.spentCredit p c) fun s => s.giveCredit p c.tc

/-- A sequenced frame with the expected number is accepted (R113 to R115); a request for replay that is still owed goes out all the
same. A link-management frame of an unknown `SUBTYPE` is counted (R131). -/
def State.acceptFrame (s : State) (p : Nat) (t : Trailer) (f : List Byte) : State :=
  let s := s.put (LK_SEQ_RX.EXPECTED p) ((s.get (LK_SEQ_RX.EXPECTED p) + 1) % 4096)
  let s := s.setLink p fun l => { l with ackV := true, accepted := l.accepted + 1, nakOut := l.nakOwed }
  let s := if 32 ≤ (s.link p).accepted then s.updateAck p else s
  if t.ftype = 0 then s.deliverCell p (Cell.ofSlot f)
  else s.when (decide (beAt f 0 1 < 1 ∨ 5 < beAt f 0 1)) fun s => s.inc (LK_LOST.MALFORMED p)

/-- A good frame in ACTIVE: acknowledgement first, then its number (R113); `ecc` says that a frame to be resent cannot be
read from the replay buffer (R529). -/
def State.goodFrame (s : State) (p : Nat) (t : Trailer) (f : List Byte) (ecc : Bool) : State :=
  let s := s.takeAck p t.ackv t.ack t.retry
  let s := if ecc && (s.link p).resend.isSome then s.replayEccLoss p else s
  if s.spState p != stActive then s
  else
    let d := seqDistance t.seq (s.get (LK_SEQ_RX.EXPECTED p))
    if t.sequenced then
      if d = 0 then s.acceptFrame p t f
      else if 2049 ≤ d then s.inc (LK_DISCARD.DUP p)
      else s.requestReplay p
    else if d = 0 ∨ 2049 ≤ d then s
    else s.requestReplay p

/-- A bad frame: a replay request in ACTIVE (R115). -/
def State.badFrame (s : State) (p : Nat) : State := if s.spState p == stActive then s.requestReplay p else s

/-- A good frame in CAPS that the partner sends only in ACTIVE: the port follows once it has the partner's record (R128). -/
def State.partnerActive (s : State) (p : Nat) : State :=
  if (s.link p).caps.isSome then s.enterState p stActive else s.setLink p fun l => { l with peerOk := true }

/-- A frame of 80 bytes arrives in CAPS or ACTIVE (R109, R113, R115, R128). -/
def State.frameRx (s : State) (p : Nat) (f : List Byte) (ecc : Bool) : State :=
  if s.spState p != stActive && s.spState p != stCaps then s
  else match readTrailer f with
    | none => (s.inc (LK_CRC_ERR.CRC_ERR p)).badFrame p
    | some t =>
      if t.malformed then (s.inc (LK_LOST.MALFORMED p)).badFrame p
      else
        let s := s.when (s.spState p == stCaps && t.ftype != 5) fun s => s.partnerActive p
        if s.spState p != stActive then s
        else if seqDistance t.seq (s.get (LK_SEQ_RX.EXPECTED p)) = 2048 then
          (s.inc (LK_LOST.MALFORMED p)).badFrame p
        else s.goodFrame p t f ecc

/-- DATA_FRAME_RX (R105 to R117, R128, R137): the 80 bytes of a frame, of any type, as they arrive. The content of
link-management, credit, training and link-delay frames has commands of its own. -/
def execDataFrameRx (p : Port) (f : List Byte) (ecc : Bool) (s : State) : Result := .next (s.frameRx p (padTo 80 f) ecc)

/-- ACK_ONLY_FRAME_RX (R113, R116, R117): an idle or ack-only frame with a good CRC, by its trailer fields. -/
def execAckOnlyFrameRx (p : Port) (seq ack : BitVec 12) (ackv retry ecc : Bool) (s : State) : Result :=
  let t : Trailer := { seq := seq.toNat, ack := ack.toNat, ftype := 3, ackv := ackv, retry := retry, idle := true }
  let s := s.when (s.spState p == stCaps) fun s => s.partnerActive p
  .next (if s.spState p != stActive then s
    else if t.malformed || seqDistance t.seq (s.get (LK_SEQ_RX.EXPECTED p)) == 2048 then
      (s.inc (LK_LOST.MALFORMED p)).badFrame p
    else s.goodFrame p t [] ecc)

/-- ACK_UPDATE_DUE (R114). -/
def execAckUpdateDue (p : Port) (s : State) : Result :=
  .next (if (s.link p).accepted = 0 then s else s.updateAck p)

/-- RETRY_REQ_EXPIRY (R115): t_ACK has passed since the request was sent. -/
def execRetryReqExpiry (p : Port) (s : State) : Result :=
  .next (if (s.link p).nakOwed then s else s.setLink p fun l => { l with nakOut := false })

/-- ACK_TIMEOUT (R118 to R120, R529). -/
def execAckTimeout (p : Port) (ecc : Bool) (s : State) : Result :=
  .next (if s.spState p != stActive || (s.link p).replay == [] || (s.port p).pauseLane.isSome then s
    else
      let s := (s.inc (LK_REPLAY.TMO p)).startReplay p 0 none
      if ecc && (s.link p).resend.isSome then s.replayEccLoss p else s)

/-- LINK_SILENCE (R120). -/
def execLinkSilence (p : Port) (s : State) : Result := .next (s.retrain p)

/-- SEQ_STATE_EXPIRY (R130). -/
def execSeqStateExpiry (p : Port) (s : State) : Result :=
  .next (if s.spState p == stActive then s else s.dropSeq p)

/-! ### Credits (R121 to R125) -/

/-- CREDIT_FRAME_DUE (R123). -/
def execCreditFrameDue (p : Port) (s : State) : Result :=
  .next (if s.spState p == stActive then s.setLink p fun l => { l with creditDue := true } else s)

/-- The returned counter of a class takes a value that lies 1 to 32,767 ahead (R122, R124). -/
def State.takeReturned (s : State) (p c v : Nat) : State :=
  let d := (v + 65536 - tget 0 c (s.link p).ret) % 65536
  if 1 ≤ d ∧ d ≤ 32767 then s.setLink p fun l => { l with ret := tput 0 c v l.ret } else s

/-- CREDIT_FRAME_RX (R122, R124): counter n of `ret` (bits 16n+15..16n) is `RET_TCn`. -/
def execCreditFrameRx (p : Port) (ret : BitVec 128) (s : State) : Result :=
  .next (if s.spState p == stActive then
      s.each (List.range 8) fun c s => s.takeReturned p c (bits ret.toNat (16 * c + 15) (16 * c))
    else s)

/-- The highest rate code in a set of rates, if any. -/
def highestRate (m : Nat) : Option Nat := ([2, 1, 0] : List Nat).find? fun r => m.testBit r

/-- Both directions give their spare lane the role excluded (R127). -/
def State.noSpares (s : State) (p : Nat) : State :=
  let s := s.each (s.rxLanes p roleSpare) fun k s => s.setRxRole p k roleExcluded 7
  let s := s.each (s.txLanes p roleSpare) fun k s => s.setTxRole p k roleExcluded 7
  s.noteSpares p

/-- A capability record in CAPS (R126 to R128). -/
def State.agreeCaps (s : State) (p : Nat) (r : CapRec) : State :=
  let own := s.ownCaps p
  let s := (s.put (LK_STATE.PVER_MAJOR p) (min 15 r.major)).put (LK_STATE.PVER_MINOR p) (min 15 r.minor)
  let reject (s : State) : State := (s.raise (LK_EVENT.CAPS_REJECT p)).setLink p fun l => { l with caps := none }
  if r.major = 0 then reject s
  else
    let old := decide (r.major = 1)
    let rates := own.rates &&& r.rates &&& (if old then 0b011 else 0b111)
    let feat := own.features &&& r.features &&& (if old then 0b111100 else 0b111111)
    match highestRate rates with
    | none => reject s
    | some rate =>
      let s := s.when old fun s => s.raise (LK_EVENT.VER_LIMIT p)
      let s := s.put (LK_STATE.FEAT p) feat
      let s := s.setLink p fun l =>
        { l with caps := some r, peerOk := l.peerOk || r.flags.testBit 0, window := min own.window r.window,
                 pool := (List.range 8).foldl (fun t c => tput 0 c (8 * r.pools.getD c 0) t) l.pool }
      let s := s.when (!feat.testBit 0) fun s => s.noSpares p
      if rate < s.get (SP_STATE.RATE p) then s.lowerRate p rate stLock
      else if (s.link p).peerOk then s.enterState p stActive
      else s

/-- CAPABILITY_RECORD_RX (R126 to R129): the 72 slot bytes of a training frame. In ACTIVE it is answered for 2 ms, then
counted in `MALFORMED` (R128). -/
def execCapabilityRecordRx (p : Port) (slot : List Byte) (s : State) : Result :=
  .next (if s.spState p == stCaps then s.agreeCaps p (CapRec.ofSlot (padTo 72 slot))
    else if s.spState p == stActive then
      if s.elapsed (s.link p).activeAt ≤ 2000000 then s.setLink p fun l => { l with capsOwed := l.capsOwed + 1 }
      else s.inc (LK_LOST.MALFORMED p)
    else s)

/-! ### Link delay (R110, R329, R330) -/

/-- A stamp in units of 2^-16 ns. -/
def stampUnits (t : Stamp) : Int := (t.sec * 1000000000 + t.ns) * 65536 + t.frac

/-- A link-delay frame's slot (R110); the departure time of `T_A` in a request and `T_C` in a response is written as the
frame leaves. -/
def delaySlot (msg id : Nat) (ta tb : List Byte) : List Byte :=
  padTo 72 (beBytes 1 msg ++ [0] ++ beBytes 2 id ++ padTo 12 ta ++ padTo 12 tb)

/-- LINK_DELAY_REQUEST_RX (R110, R329): `arrived` is the time at which the request's first bit arrived. -/
def execLinkDelayRequestRx (p : Port) (id : BitVec 16) (ta arrived : Stamp) (s : State) : Result :=
  .next (if s.spState p == stActive then
      s.setLink p fun l =>
        { l with delay := l.delay ++ [{ slot := delaySlot 2 id.toNat (Stamp.bytes ta) (Stamp.bytes arrived) }] }
    else s)

/-- The mean of accepted delays, in units of 0.25 ns. -/
def meanDelay (l : List Int) : Nat := (l.foldl (· + ·) 0 / (l.length * 16384 : Int)).toNat

/-- An accepted measurement: `LD_NOW`, `LD_VALID`, and t_ACK = 2 × delay + 500 ns (R118, R330). -/
def State.acceptDelay (s : State) (p : Nat) (ds : List Int) : State :=
  let s := s.setLink p fun l => { l with delays := ds, outliers := [] }
  let m := min 0xFFFFFF (meanDelay ds)
  let s := (s.put (TM_LD.LD_NOW p) m).put (TM_LD.LD_VALID p) 1
  (s.put (LK_ACK_TMO.MEASURED p) 1).put (LK_ACK_TMO.TMO_NS p) (min 0xFFFF (2 * m / 4 + 500))

/-- LINK_DELAY_RESPONSE_RX (R329, R330): the answer to this hub's last request on the port; `arrived` is its T_D. -/
def execLinkDelayResponseRx (p : Port) (id : BitVec 16) (ta tb tc arrived : Stamp) (s : State) : Result :=
  let l := s.link p
  .next (if s.spState p != stActive || id.toNat != l.delayId then s
    else
      let d : Int := ((stampUnits tb - stampUnits ta) + (stampUnits arrived - stampUnits tc)) / 2
      let now : Int := s.get (TM_LD.LD_NOW p) * 16384
      if l.delays = [] ∨ ((d - now).natAbs ≤ 2 * 65536) then s.acceptDelay p ((d :: l.delays).take 8)
      else if 3 ≤ l.outliers.length then s.acceptDelay p [d]
      else (s.inc TM_CNT.OUTLIERS).setLink p fun l => { l with outliers := d :: l.outliers })

/-! ### Incarnation table (R133 to R135, R541) -/

/-- Incarnation i is newer than j (R133). -/
def newer (i j : Nat) : Bool :=
  let d := (i + 65536 - j) % 65536
  decide (1 ≤ d) && decide (d ≤ 32767)

/-- The place of hub `x`'s entry in Case memory; bits [14:0] of `TBL_OFS` are ignored (R134). -/
def State.incPlace (s : State) (x : Nat) : Nat := s.get ID_INC_TBL.TBL_OFS / 0x8000 * 0x8000 + 16 * (x % 2048)

/-- The incarnation and serial of a valid entry (R134, R541). -/
def State.incEntry (s : State) (x : Nat) : Option (Nat × Nat) :=
  let a := s.incPlace x
  let w := s.caseNat a 4
  if w.testBit 31 then some (w % 65536, s.caseNat (a + 4) 8) else none

/-- Write a valid entry (R541). -/
def State.setIncEntry (s : State) (x inc serial : Nat) : State :=
  let a := s.incPlace x
  ((s.setCase a 4 (2 ^ 31 + inc % 65536)).setCase (a + 4) 8 serial).setCase (a + 12) 4 0

/-- Clear an entry's valid bit. -/
def State.clearIncEntry (s : State) (x : Nat) : State :=
  let a := s.incPlace x
  s.setCase a 4 (s.caseNat a 4 % 2 ^ 31)

/-- What entry X makes of an announced incarnation and serial (R135). -/
inductive Verdict | stale (inc : Nat) | older (inc : Nat) | fresh
  deriving DecidableEq, Repr

def State.verdict (s : State) (x inc serial : Nat) : Verdict :=
  match s.incEntry x with
  | none => .fresh
  | some (i, t) =>
    if t ≠ serial ∧ (newer i inc ∨ i = inc) then .stale i
    else if t = serial ∧ newer i inc then .older i
    else .fresh

/-- Apply an INCARNATION record to the table (R134) and remember its `VACATED` (R140). -/
def State.applyInc (s : State) (r : IncRec) : State :=
  let s := s.setIncEntry r.roleId r.roleInc r.roleSerial
  let s := match r.vacated with
    | some v => s.clearIncEntry v
    | none => s
  s.setSvc fun x => { x with vacated := tput 0 r.roleId (optId r.vacated) x.vacated }

/-! ### Identity, liveness and fencing (R135 to R142) -/

/-- The port goes to FENCED: `FENCE` is raised, and what the REJOIN of each boundary names is kept (R136, R140). A retired port stays
so (R147). -/
def State.fence (s : State) (p : Nat) (by_ : Option (Option Nat)) : State :=
  if s.lState p == lkRetired then s
  else
    let s := s.when (s.lState p != lkFenced) fun s => s.raise (LK_EVENT.FENCE p)
    (s.setLState p lkFenced).setLink p fun l => { l with fencedBy := by_ }

/-- An announced identity that this hub's table knows under a newer incarnation is answered to the partner alone (R135). -/
def State.answerOlder (s : State) (p id inc serial : Nat) : State :=
  match s.verdict id inc serial with
  | .older j => s.sendInc p { roleId := id, roleInc := j, roleSerial := serial, vacated := none, hops := 0 }
  | _ => s

/-- The partner becomes stale in OPEN or DEAD (R137). -/
def State.fenceIfStale (s : State) (p id inc serial : Nat) : State :=
  if s.lState p != lkOpen && s.lState p != lkDead then s
  else match s.verdict id inc serial with
    | .stale _ => s.fence p (some (some id))
    | _ => s

/-- The partner's serial as last announced. -/
def State.partnerSerial (s : State) (p : Nat) : Nat :=
  s.get (LK_PARTNER_SER_HI.P_SER_HI p) * 2 ^ 32 + s.get (LK_PARTNER_SER_LO.P_SER_LO p)

/-- The link state goes to OPEN (R137); the first port to open ends phase 7 (R435). -/
def State.openLink (s : State) (p : Nat) : State :=
  let s := s.when (s.get RST_STATUS.PHASE == 7) fun s => s.put RST_STATUS.PHASE 8
  (s.setLState p lkOpen).setLink p fun l => { l with fencedBy := none }

/-- The partner's HELLO is judged (R135 to R137); `fresh` says that the identity differs from that of the last HELLO. -/
def State.judgeHello (s : State) (p : Nat) (fresh : Bool) : State :=
  let ls := s.lState p
  let idv := s.on (LK_PARTNER.P_ID_V p)
  let x := s.get (LK_PARTNER.P_HUB_ID p)
  let inc := s.get (LK_PARTNER.P_INC p)
  let serial := s.partnerSerial p
  if ls = lkDown then s
  else if !idv then (if ls = lkHello ∨ ls = lkFenced then s.fence p none else s)
  else if s.on ID_HUB.ID_V && x == s.hubId then
    -- R136
    let own := s.get ID_INC.INCARNATION
    if newer inc own ∨ (inc = own ∧ s.serial < serial) then s else s.fence p (some none)
  else match s.verdict x inc serial with
    | .stale _ => s.fence p (some (some x))
    | v =>
      let s := match v with
        | .older _ => s.answerOlder p x inc serial
        | _ => s.setIncEntry x inc serial
      if ls = lkHello ∨ (ls = lkFenced ∧ fresh) then s.openLink p else s

/-- The identity of a HELLO is not the one that the port holds of its partner. -/
def State.helloFresh (s : State) (p : Nat) (h : Ident) : Bool :=
  !(s.on (LK_PARTNER.P_ID_V p) == h.idv && s.get (LK_PARTNER.P_HUB_ID p) == h.id.val
    && s.get (LK_PARTNER.P_INC p) == h.inc.toNat && s.partnerSerial p == h.serial.toNat)

/-- The port takes the identity of its partner from a HELLO (R131), and its Milestone period. -/
def State.takeHello (s : State) (p : Nat) (h : Ident) (period : Nat) : State :=
  let s := (s.put (LK_PARTNER.P_ID_V p) h.idv.toNat).put (LK_PARTNER.P_ROLE p) h.standby.toNat
  let s := (s.put (LK_PARTNER.P_HUB_ID p) h.id).put (LK_PARTNER.P_INC p) h.inc.toNat
  let s := (s.put (LK_PARTNER_SER_LO.P_SER_LO p) h.serial.toNat).put (LK_PARTNER_SER_HI.P_SER_HI p)
    (h.serial.toNat / 2 ^ 32)
  let s := s.setLink p fun l => { l with helloSeen := true, pPeriod := period }
  s.when (period != s.msPeriod) fun s => s.raise (LK_EVENT.MS_MISMATCH p)

/-- HELLO_RX (R131, R132, R134 to R139). -/
def execHelloRx (p : Port) (h : Ident) (_port _deadN : Byte) (period : BitVec 16) (s : State) : Result :=
  .next (if s.spState p != stActive then s else (s.takeHello p h period.toNat).judgeHello p (s.helloFresh p h))

/-- BEACON_RX (R135, R137, R139): `MISS` clears; a stale partner is fenced, one that this hub knows under a newer incarnation is
told so, and a DEAD port opens again for the same
identity. -/
def execBeaconRx (p : Port) (h : Ident) (_msSec : BitVec 48) (_msNs : BitVec 32) (s : State) : Result :=
  if s.spState p != stActive then .next s
  else
    let s := s.put (LK_BEACON.MISS p) 0
    let s := s.setLink p fun l => { l with beacon := true }
    let s := if h.idv then (s.fenceIfStale p h.id h.inc.toNat h.serial.toNat).answerOlder p h.id h.inc.toNat h.serial.toNat else s
    let same := h.idv && s.on (LK_PARTNER.P_ID_V p) && s.get (LK_PARTNER.P_HUB_ID p) == h.id.val
      && s.get (LK_PARTNER.P_INC p) == h.inc.toNat && s.partnerSerial p == h.serial.toNat
    .next (if s.lState p == lkDead && same then s.openLink p else s)

/-- A directed INCARNATION record (R135): adopted when it names this hub's ID and serial. -/
def State.adoptDirected (s : State) (p roleId roleInc roleSerial : Nat) : State :=
  if s.lState p != lkRetired && roleId == s.hubId && roleSerial == s.serial
  then (s.put ID_INC.INCARNATION ((roleInc + 1) % 65536)).helloAll else s

/-- Partners that hold a role under an identity that a record has overtaken are fenced (R137). -/
def State.fenceOvertaken (s : State) (role : Nat) : State :=
  s.each (List.range 4) fun q s =>
    if s.on (LK_PARTNER.P_ID_V q) && s.get (LK_PARTNER.P_HUB_ID q) == role
    then s.fenceIfStale q role (s.get (LK_PARTNER.P_INC q)) (s.partnerSerial q) else s

/-- An INCARNATION record that is new (R134, R141): applied, forwarded through the other OPEN ports, and partners it overtakes are
fenced (R137). -/
def State.takeInc (s : State) (p : Nat) (r : IncRec) : State :=
  let s := s.applyInc r
  let s := s.when (r.hops != 0) fun s =>
    s.each ((List.range 4).filter fun q => q != p && s.lState q == lkOpen) fun q s => s.sendInc q r
  s.fenceOvertaken r.roleId

/-- INCARNATION_RX (R134, R141): applied and forwarded when it is new; with `HOPS` 0 it is a directed record. -/
def execIncarnationRx (p : Port) (roleId : Fin 2048) (roleInc : BitVec 16) (roleSerial : BitVec 64)
    (vacated : Option (Fin 2048)) (hops : Byte) (s : State) : Result :=
  let fresh := match s.incEntry roleId with
    | none => true
    | some (i, _) => newer roleInc.toNat i
  .next (if s.spState p != stActive then s
    else if hops = 0 then s.adoptDirected p roleId roleInc.toNat roleSerial.toNat
    else if s.lState p != lkOpen || !fresh then s
    else s.takeInc p { roleId := roleId, roleInc := roleInc.toNat, roleSerial := roleSerial.toNat,
                       vacated := vacated.map (·.val), hops := hops.toNat - 1 })

/-- DIRECTED_INCARNATION_RX (R135). -/
def execDirectedIncarnationRx (p : Port) (roleId : Fin 2048) (roleInc : BitVec 16) (roleSerial : BitVec 64) (s : State) :
    Result :=
  .next (if s.spState p == stActive then s.adoptDirected p roleId roleInc.toNat roleSerial.toNat else s)

/-- The REJOIN of a boundary on a fenced port (R140): the role's table entry, or this hub's own ID and incarnation, as they stand. -/
def State.rejoinDue (s : State) (p : Nat) : State :=
  let send (id inc : Nat) : State :=
    let v := tget 0 id s.svc.vacated
    s.sendRejoin p (if v.testBit 15 then some (v % 2048) else none) id inc
  match (s.link p).fencedBy with
  | none => s
  | some none => send s.hubId (s.get ID_INC.INCARNATION)
  | some (some x) => match s.incEntry x with
    | some (i, _) => send x i
    | none => s

/-! ### Width and retirement (R143 to R148) -/

/-- The transmit set after `lane` fails (R145): active lanes kept, in order of lane number, which is the order of their logical
positions (notes/assumptions/97.md), and the spare. -/
def State.narrowSet (s : State) (p lane : Nat) : List Nat × Option Nat :=
  let rest := (s.txLanes p roleActive).filter (· != lane)
  if s.get (LK_STATE.TX_WIDTH p) = 2 then (rest.take 2, (rest.drop 2).head?) else (rest.take 1, none)

/-- A change of width is owed for a lane that failed, 1 µs or more after tick `t` (R145); a lane that is active no more, or the last
one, changes nothing. -/
def State.oweNarrow (s : State) (p lane t : Nat) : State :=
  if (s.lane p lane).txRole == roleActive && s.get (LK_STATE.TX_WIDTH p) != 0
  then s.setPort p fun x => { x with narrowTo := some (s.narrowSet p lane), narrowAt := t } else s

/-- NARROW_RX (R144, R145): the change of width is owed, behind one that is owed already. -/
def execNarrowRx (p : Port) (lane : LaneNo) (s : State) : Result :=
  .next (if s.spState p != stActive then s
    else if (s.port p).narrowTo.isSome then s.setPort p fun x => { x with narrowNext := x.narrowNext ++ [(lane.val, s.tm.tick)] }
    else s.oweNarrow p lane s.tm.tick)

/-- The transmit width becomes one less (R143, R145): lanes not kept retire or become the spare, the kept ones take new
positions, and the transmitter replays from its oldest unacknowledged frame. -/
def State.changeWidth (s : State) (p : Nat) (keep : List Nat) (spare : Option Nat) : State :=
  let w := s.get (LK_STATE.TX_WIDTH p)
  let gone := (s.txLanes p roleActive).filter fun k => !keep.contains k
  let s := s.each gone fun k s => s.setTxRole p k (if some k == spare then roleSpare else roleRetired) 7
  let s := s.each keep.zipIdx fun (k, i) s => s.setTxRole p k roleActive i
  let s := (s.put (LK_STATE.TX_WIDTH p) (w - 1)).noteSpares p
  let more := (s.port p).narrowNext
  let s := (s.setPort p fun x => { x with narrowTo := none, narrowNext := more.drop 1 }).raise (LK_EVENT.NARROWED p)
  let s := match more with | (k, t) :: _ => s.oweNarrow p k t | [] => s
  s.replayAll p

/-- WIDTH_CHANGE (R143, R145): the marker slot has passed; the new transmit width applies and the transmitter replays
from its oldest unacknowledged frame. -/
def execWidthChange (p : Port) (s : State) : Result :=
  .next (match (s.port p).narrowTo with
    | none => s
    | some (keep, spare) => s.changeWidth p keep spare)

/-- Writing `READMIT` (R137, R147). -/
def State.readmitPort (s : State) (p : Nat) : State :=
  if s.lState p != lkRetired then s.put (LK_STATE.RETIRED p) 0
  else
    let s := (s.put (LK_STATE.RETIRED p) 0).setLState p lkDown
    let s := s.setLink p fun l => { l with downs := [], trainFails := 0 }
    if s.spState p == stActive then (s.setLState p lkHello).sendHello p else s

/-- READMIT (R137). -/
def execReadmit (p : Port) (s : State) : Result := .next (s.readmitPort p)

end Sys2Proof.Machine
end

