-- ==== Sys2Proof/Machine/ImpOps.lean ====
section
/-! DEFINITION. Shared operations of Imposition (chapter 05): reservation records, capacity and commitment, the shaper and
the Sheet walker's state. -/

namespace Sys2Proof.Machine

/-! ### Reservation records (R201) -/

def recPlace (r : Nat) : Nat := 0xC0000 + 32 * r

/-- Bits hi..lo of word `w` of record `r`. -/
def State.recGet (s : State) (r w hi lo : Nat) : Nat := bits (s.caseNat (recPlace r + 4 * w) 4) hi lo
def State.recSet (s : State) (r w hi lo v : Nat) : State :=
  s.setCase (recPlace r + 4 * w) 4 (setBits (s.caseNat (recPlace r + 4 * w) 4) hi lo v)

/-- The records in use, ascending: `V` is bit 7 of byte 7 of a record. -/
def State.recs (s : State) : List Nat :=
  s.caseMem.filterMap fun e =>
    if 0xC0000 ≤ e.1 ∧ e.1 < 0xE0000 ∧ e.1 % 32 = 7 ∧ e.2.getLsbD 7 then some ((e.1 - 0xC0000) / 32) else none

def State.recKey (s : State) (r : Nat) : Nat := s.recGet r 0 31 16 * 2 ^ 16 + s.recGet r 0 11 0
def State.recState (s : State) (r : Nat) : Nat := s.recGet r 1 30 28
def State.recTc (s : State) (r : Nat) : Nat := s.recGet r 1 27 25
def State.recSrc (s : State) (r : Nat) : Bool := s.recGet r 1 24 24 == 1
def State.recDisp (s : State) (r : Nat) : Bool := s.recGet r 1 23 23 == 1
def State.recOut (s : State) (r : Nat) : Nat := s.recGet r 1 19 16
def State.recB6 (s : State) (r : Nat) : Nat := s.recGet r 1 15 8
def State.recRsv (s : State) (r : Nat) : Nat := s.recGet r 2 31 16
def State.recCeil (s : State) (r : Nat) : Nat := s.recGet r 2 15 0
def State.recAllot (s : State) (r : Nat) : Nat := s.recGet r 3 31 16
def State.recShape (s : State) (r : Nat) : Nat := s.recGet r 5 31 16

/-- A tunnel key without its reserved bits. -/
def keyOf (k : Nat) : Nat := k / 2 ^ 16 * 2 ^ 16 + k % 2 ^ 12

/-- The record of a tunnel. -/
def State.findRec (s : State) (key : Nat) : Option Nat := s.recs.find? fun r => s.recKey r == keyOf key

/-- A free record (R210 code 7). -/
def State.freeRec (s : State) : Option Nat := let used := s.recs; (List.range 4096).find? fun r => !used.contains r

/-- Free a record. -/
def State.dropRec (s : State) (r : Nat) : State :=
  (s.recSet r 1 31 31 0).setImp fun i =>
    { i with waiting := i.waiting.filter (·.slot != r), changes := i.changes.filter (·.slot != r),
             order := i.order.filter (· != r), gives := i.gives.filter (·.1 != r),
             origs := tput none r none i.origs, ringOf := tput none r none i.ringOf }

/-- Lower a source's shaper at Milestone `k` (R202, R211). -/
def State.shapeAt (s : State) (r ru k : Nat) : State :=
  if s.recSrc r then (s.recSet r 5 15 0 ru).recSet r 6 31 0 (k % 2 ^ 32) else s

/-! ### Capacity and commitment (R198, R204, R205) -/

/-- Entries that one RU takes on an output (R198): 1 at a slot of 4 ns, 2 at 8 ns and so on. -/
def State.slotFactor (s : State) (o : Nat) : Nat :=
  if o < 4 then 2 ^ (2 - s.get (SP_STATE.RATE o)) * 2 ^ (2 - s.get (LK_STATE.TX_WIDTH o)) else 1

/-- 4,096 × min(1, R_pace / R_link), rounded down (R204), for a planning cycle in ps; 0 stands for no limit. -/
def State.linkCap (s : State) (o ps : Nat) : Nat :=
  if ps = 0 then 4096
  else if o < 4 then min 4096 (4096 * 2500 * s.slotFactor o / ps)
  else min 4096 (4096 * 2500 / ps)

/-- The capacity C of an output (R204) at a planning cycle. -/
def State.capacityAt (s : State) (o ps : Nat) : Nat :=
  if o < 4 then s.linkCap o ps else min (s.get (IMP_PORT_CFG.CAP_ENT o)) (s.linkCap o ps)

def State.capacity (s : State) (o : Nat) : Nat := s.capacityAt o (s.get PACE_PLAN.PLAN_PS)

/-- RU that a record has been granted at this hub (R203): what is placed, or what a change due will leave. -/
def State.grantedRu (s : State) (r : Nat) : Nat :=
  match (s.imp.changes.filter (·.slot == r)).getLast? with
  | some c => c.ru
  | none => s.recAllot r

/-- RU that a record holds at this hub: what is placed, or what a change due will leave, less a give-back asked for; at least
the allotment that a waiting admission asks (R205, R207). -/
def State.heldRu (s : State) (r : Nat) : Nat :=
  let base := s.grantedRu r
  let give := ((s.imp.gives.filter (·.1 == r)).map (·.2.1)).foldl (· + ·) 0
  ((s.imp.waiting.filter (·.slot == r)).map (·.amount)).foldl max (base - give)

/-- The records on an output that hold entries: all but revoked and reserved ones (R205, R207). -/
def State.recsOn (s : State) (o : Nat) : List Nat := s.recs.filter fun r => s.recOut r == o && decide (s.recState r < 6)

/-- Class-owned entries of an output: `BE_MIN` over the classes, and the TC6 entries of R216 beyond those reserved, without
record `skip`. -/
def State.classOwned (s : State) (o : Nat) (skip : Option Nat) (extraB6 extraRu : Nat) : Nat :=
  let least := ((List.range 8).map fun c => s.get (IMP_BE.BE_MIN o c)).foldl (· + ·) 0
  let six := (s.recsOn o).filter fun r => s.recTc r == 6 && some r != skip
  let s6 := (six.map fun r => s.recB6 r).foldl (· + ·) extraB6
  let rsv := ((six.map fun r => s.heldRu r).foldl (· + ·) extraRu) * s.slotFactor o
  least + (if six = [] ∧ extraB6 = 0 then 0 else 64 * max 1 s6 - rsv)

/-- The commitment of an output (R205), without record `skip`, with a TC6 request of `b6` and `ru` on top. -/
def State.commitmentBut (s : State) (o : Nat) (skip : Option Nat) (b6 ru : Nat) : Nat :=
  let rs := (s.recsOn o).filter fun r => some r != skip
  (rs.map fun r => s.heldRu r * s.slotFactor o).foldl (· + ·) 0 + s.classOwned o skip b6 ru + tget 0 o s.imp.proofEnt

/-- Entries on an output that are to leave and have not left yet (R211): those of shrinks, releases and give-backs under way. -/
def State.leaving (s : State) (o : Nat) (skip : Option Nat) : Nat :=
  (((s.recsOn o).filter fun r => some r != skip).map fun r => (s.recAllot r - s.heldRu r) * s.slotFactor o).foldl (· + ·) 0

/-- The boundary at which the last of them leave, as far as it is known. -/
def State.leaveBy (s : State) (o : Nat) : Nat :=
  ((s.imp.changes.filter fun c => s.recOut c.slot == o && decide (c.ru < s.recAllot c.slot)).map (·.due)).foldl max 0

def State.commitment (s : State) (o : Nat) : Nat := s.commitmentBut o none 0 0

/-- `CAP_NOW` and `COMMITTED` are brought up to date (R204, R205). -/
def State.refreshCap (s : State) (o : Nat) : State :=
  (s.put (IMP_PORT_CAP.CAP_NOW o) (s.capacity o)).put (IMP_PORT_CAP.COMMITTED o) (s.commitment o)

def State.refreshCaps (s : State) : State := s.each (List.range 13) fun o s => s.refreshCap o

/-! ### The shaper and the demand count (R200, R202) -/

/-- The 16.384 µs of the shaper and of `PEAK`, in ns. -/
def windowNs : Nat := 16384

/-- The source record that shapes a cell (R200). -/
def State.shapeRec (s : State) (c : Cell) : Option Nat :=
  if c.mir = 1 ∨ c.tc < 3 ∨ 6 < c.tc then none
  else (s.findRec (bits c.hdr.toNat 63 48 * 2 ^ 16 + c.tunnel)).filter fun r => s.recSrc r

/-- Cells of a record in the 16.384 µs of domain time that end now. -/
def State.recent (s : State) (r : Nat) : List Nat :=
  (tget [] r s.imp.sends).filter fun t => s.nowNs - t < windowNs

/-- The window of `PEAK` that now is in: the windows begin at the boundary (R202). -/
def State.peakWindow (s : State) : Nat := (s.nowNs - s.imp.msNum * (s.msPeriod * 125000)) / windowNs

/-- The shaper lets no further cell of the tunnel go now (R200): `SHAPE` plus 8 cells have gone in the window. -/
def State.shaped (s : State) (c : Cell) : Bool :=
  match s.shapeRec c with
  | some r => decide (s.recShape r + 8 ≤ (s.recent r).length)
  | none => false

/-- A cell of a source record has gone: the shaper and the windows of `PEAK` count it (R200, R202). -/
def State.countSend (s : State) (c : Cell) : State :=
  match s.shapeRec c with
  | none => s
  | some r =>
    let win := s.peakWindow
    let (w0, n0) := tget (0, 0) r s.imp.window
    let n := if w0 = win then n0 + 1 else 1
    let recent := s.nowNs :: s.recent r
    s.setImp fun i =>
      { i with sends := tput [] r recent i.sends, window := tput (0, 0) r (win, n) i.window,
               peak := tput 0 r (max n (tget 0 r i.peak)) i.peak }

/-! ### Sheets (R191, R194, R195) -/

/-- The offset in Case memory of an entry of a Sheet bank (R191). -/
def sheetPlace (o b i : Nat) : Nat := 0x80000 + (2 * o + b) * 0x2000 + 2 * i

/-- The Sheet entry due at an output. -/
def State.dueEntry (s : State) (o : Nat) : Nat :=
  s.caseNat (sheetPlace o (s.get (IMP_PORT_CTL.BANK o)) (s.get (IMP_PORT_CTL.IDX o))) 2

/-- What a Sheet entry reserves its slot for (R194, R195). -/
inductive Owner | free | cls (c : Nat) | proof (test : Nat)
  deriving DecidableEq, Repr

def State.owner (s : State) (e : Nat) : Owner :=
  let idx := e % 4096
  if e / 2 ^ 14 % 4 = 1 then .cls (s.recTc idx)
  else if e / 2 ^ 14 % 4 = 2 then .cls (idx % 8)
  else if e / 2 ^ 14 % 4 = 3 then .proof idx
  else .free

/-- The walker advances by one entry; its best-effort counts clear as it wraps (R195). -/
def State.advance (s : State) (o : Nat) : State :=
  let i := (s.get (IMP_PORT_CTL.IDX o) + 1) % 4096
  let s := s.put (IMP_PORT_CTL.IDX o) i
  s.when (i == 0) fun s => s.setImp fun x =>
    { x with beSent := (List.range 8).foldl (fun t c => tput 0 (8 * o + c) 0 t) x.beSent, beTotal := tput 0 o 0 x.beTotal }

/-- The walker does not advance in this slot (R61, R196). -/
def State.slip (s : State) (o : Nat) : State := s.inc (IMP_PORT_CNT.SLIP o)

/-- A best-effort send of a class is counted (R195). -/
def State.countBe (s : State) (o c : Nat) : State :=
  s.setImp fun x => { x with beSent := tput 0 (8 * o + c) (tget 0 (8 * o + c) x.beSent + 1) x.beSent,
                             beTotal := tput 0 o (tget 0 o x.beTotal + 1) x.beTotal }

/-- The class may still send as best effort in this Sheet cycle (R195, R197, R214). -/
def State.mayBe (s : State) (o c : Nat) : Bool :=
  let m := s.get (IMP_BE.BE_MAX o c)
  (decide (0x1000 ≤ m) || decide (tget 0 (8 * o + c) s.imp.beSent < m)) &&
    !(s.on IMP_STATUS.FIRST_USE &&
      decide ((s.get (IMP_PORT_CAP.CAP_NOW o) - s.get (IMP_PORT_CAP.COMMITTED o)) / 2 ≤ tget 0 o s.imp.beTotal))

/-- Cells of Proof test `n` wait at an output: of the tests of R530, test 5 sends cells from J14, without pause while it runs. -/
def State.proofOn (s : State) (o n : Nat) : Bool := n == 5 && s.svc.tests.any fun t => t.1 == 5 && t.2.1 == o

end Sys2Proof.Machine
end

