-- ==== Sys2Proof/Machine/Junction.lean ====
section
/-! DEFINITION. The commands of the Junction (chapter 04): arrival, routes and multipath, acceptance, marking, mirroring,
the match, failure and return. -/

namespace Sys2Proof.Machine

/-! ### Queues -/

def State.voq (s : State) (i o c : Nat) : List QCell := tget [] (128 * i + 8 * o + c) s.jn.voq
def State.stage (s : State) (o c : Nat) : List QCell := tget [] (8 * o + c) s.jn.stage

def State.setVoq (s : State) (i o c : Nat) (q : List QCell) : State :=
  s.setJn fun j => { j with voq := tput [] (128 * i + 8 * o + c) q j.voq }
def State.setStage (s : State) (o c : Nat) (q : List QCell) : State :=
  s.setJn fun j => { j with stage := tput [] (8 * o + c) q j.stage }

/-- Copies waiting at an output (R196). -/
def State.copyStage (s : State) (o : Nat) : List QCell := tget [] o s.jn.copies
def State.setCopyStage (s : State) (o : Nat) (q : List QCell) : State :=
  s.setJn fun j => { j with copies := tput [] o q j.copies }

/-- The rank of a cell in the match (R165): copies below every class of original. -/
def cellRank (c : Cell) : Nat := if c.mir = 1 then c.tc else 8 + c.tc

/-- Slots of an input that exist: 4,096 less those out of use (R158). -/
def State.slots (s : State) (i : Nat) : Nat := 4096 - tget 0 i s.jn.lostSlots

/-- Slots free at an input. -/
def State.freeSlots (s : State) (i : Nat) : Nat := s.slots i - s.get (JN_IN_OCC.OCC i)

/-- A class is treated as lossless at an input (R155, R156). -/
def State.losslessAt (s : State) (i c : Nat) : Bool :=
  s.lossless c && !(decide (i < 4) && (tget 0 i s.jn.llWait).testBit c)

/-- A class has a pool at a spine input: it is lossless there and the port has advertised slots for it; where it advertised none,
its cells are taken as lossy (R121, R124, R159). -/
def State.pooledAt (s : State) (i c : Nat) : Bool := decide (i < 4) && s.losslessAt i c && (s.link i).adv.getD c 0 != 0

/-- Slots set aside for the lossless classes at a spine input (R121, R159). -/
def State.poolSlots (s : State) (i : Nat) : Nat :=
  ((List.range 8).map fun c => if s.pooledAt i c then 8 * (s.link i).adv.getD c 0 else 0).foldl (· + ·) 0

/-- Cells queued at an input of which a test holds. -/
def State.countCells (s : State) (i : Nat) (t : QCell → Bool) : Nat :=
  ((s.jn.voq.filter fun e => e.1 / 128 == i).map fun e => (e.2.filter t).length).foldl (· + ·) 0

/-- Cells of a spine input outside the lossless pools, with those whose class has no pool any more (R155). -/
def State.lossyUsed (s : State) (i : Nat) : Nat := s.countCells i fun q => !(q.pooled && s.pooledAt i q.cell.tc)

/-- The pool of a class at a spine input has room (R159). -/
def State.poolRoom (s : State) (i c : Nat) : Bool :=
  s.pooledAt i c && decide (s.countCells i (fun q => q.pooled && q.cell.tc == c) < 8 * (s.link i).adv.getD c 0)

/-- Slots free outside the lossless pools (R160, R161, R186). -/
def State.freeLossy (s : State) (i : Nat) : Nat :=
  if i < 4 then s.slots i - s.poolSlots i - s.lossyUsed i else s.freeSlots i

/-- A slot of an input is taken. -/
def State.takeSlot (s : State) (i : Nat) : State :=
  let n := s.get (JN_IN_OCC.OCC i) + 1
  (s.put (JN_IN_OCC.OCC i) n).put (JN_IN_OCC.PEAK i) (max n (s.get (JN_IN_OCC.PEAK i)))

/-- A cell leaves the buffer of input `i`: its slot is free, and the credit that the partner spent on it goes back (R123). -/
def State.leaveBuffer (s : State) (i : Nat) (q : QCell) : State :=
  let s := s.put (JN_IN_OCC.OCC i) (s.get (JN_IN_OCC.OCC i) - 1)
  s.when (q.credit && decide (i < 4)) fun s => s.giveCredit i q.cell.tc

/-! ### Discards -/

def State.dropMalformed (s : State) (i : Nat) : State := (s.inc (JN_IN_BAD.MALFORMED i)).raise JN_EVENT.MALFORMED
def State.dropLoop (s : State) (i : Nat) : State := (s.inc (JN_IN_BAD.LOOP i)).raise JN_EVENT.LOOP
def State.dropMisroute (s : State) (i : Nat) : State := (s.inc (JN_IN_BAD.MISROUTE i)).raise JN_EVENT.MISROUTE
def State.dropUnroute (s : State) (i : Nat) : State := (s.inc (JN_IN_BAD.UNROUTE i)).raise JN_EVENT.UNROUTE
def State.dropNoPath (s : State) (i : Nat) : State := (s.inc (JN_IN_ECC.NO_PATH i)).raise JN_EVENT.NO_PATH
def State.dropTail (s : State) (i : Nat) : State := s.inc (JN_IN_DROP.TAIL i)
def State.dropMir (s : State) (i : Nat) : State := s.inc (JN_IN_DROP.MIR_DROP i)

/-! ### Routes (R171 to R176) -/

/-- Where the route lookup sends a cell: an output, through J15 behind the drain of a failed output (R177), or nowhere. -/
inductive Dest | out (o : Nat) | drain (failed : Nat) | misroute | unroute | noPath
  deriving DecidableEq, Repr

/-- A spine port is marked failed in multipath (R148, R176). -/
def State.mpFailed (s : State) (p : Nat) : Bool := (s.get JN_STATUS.MP_FAIL).testBit p

/-- A drain of an output runs (R177). -/
def State.draining (s : State) (p : Nat) : Bool := (s.get JN_STATUS.DRAINING).testBit p

/-- The bucket of a cell in a group (R174). -/
def State.bucket (s : State) (g : Nat) (c : Cell) : Nat :=
  crc8 (beBytes 5 (c.srcHub * 2 ^ 23 + c.tunnel * 2 ^ 11 + c.flow)) ^^^ s.get (JN_GROUP.SEED g)

/-- The members of a group, in ascending member index (R175). -/
def State.members (s : State) (g : Nat) : List Nat :=
  ([s.get (JN_GROUP.M0 g), s.get (JN_GROUP.M1 g), s.get (JN_GROUP.M2 g), s.get (JN_GROUP.M3 g)]).take
    (min 4 (s.get (JN_GROUP.COUNT g)))

/-- The member index that a bucket names. -/
def State.bucketIndex (s : State) (g b : Nat) : Nat := bits (s.get (JN_BUCKET.B g (b / 16))) (2 * (b % 16) + 1) (2 * (b % 16))

/-- A spine port is a member in service (R137, R148): it is not marked failed, and its link is open or has only just left OPEN, which
the Junction has not marked yet. -/
def State.inService (s : State) (p : Nat) : Bool := !s.mpFailed p && (s.lState p == lkOpen || (s.link p).failDue)

/-- The output of a group for a bucket (R175 to R177); `again` for a cell that J15 passes. -/
def State.groupDest (s : State) (g b : Nat) (again : Bool) : Dest :=
  let ms := s.members g
  if ms.length = 0 then .unroute
  else
    let p := ms.getD (s.bucketIndex g b % ms.length) 0
    if s.inService p then .out p
    else
      let live := ms.filter fun m => s.inService m
      if live.length = 0 then .noPath
      else if s.draining p && !again then .drain p
      else .out (live.getD (b % live.length) 0)

/-- The route of a cell at input `i` (R171, R176). -/
def State.route (s : State) (i : Nat) (c : Cell) (again : Bool) : Dest :=
  if c.destHub = s.hubId then
    if 13 ≤ c.destAdp || !s.hasJ c.destAdp then .misroute else .out c.destAdp
  else if i < 4 ∧ s.cls = classTool then .unroute
  else if s.get (JN_ROUTE.KIND c.destHub) = 1 then
    let p := s.get (JN_ROUTE.PORT c.destHub)
    if s.mpFailed p then .noPath else .out p
  else if s.get (JN_ROUTE.KIND c.destHub) = 2 then
    let g := s.get (JN_ROUTE.GROUP c.destHub)
    s.groupDest g (s.bucket g c) again
  else .unroute

/-- The adapter of an output is held in block reset, by `RST_BLOCK` or because the hub is in standby (R142, R441). -/
def State.outHeld (s : State) (o : Nat) : Bool :=
  decide (4 ≤ o ∧ o ≤ 8) && (s.on ID_HUB.ROLE ||
    (if o ≤ 5 then (s.get RST_BLOCK.DA_HOLD).testBit (o - 4)
     else if o = 6 then s.on RST_BLOCK.PX_HOLD
     else (s.get RST_BLOCK.EN_HOLD).testBit (o - 7)))

/-- Malformed cells (R151). -/
def cellMalformed (c : Cell) : Bool :=
  c.len == 0 || decide (64 < c.len) || (decide (c.pos ≤ 1) && decide (c.len < 64))

/-! ### Mirroring (R182 to R186) -/

/-- A mirror session selects a cell at a copy point: `ingress` on acceptance at input `port`, else on entry to the stage of
output `port` (R182). -/
def State.mirSelects (s : State) (n : Nat) (c : Cell) (ingress : Bool) (port : Nat) : Bool :=
  let sel := s.get (JN_MIR_CFG.SEL n)
  let dir := s.get (JN_MIR_CFG.DIR n)
  let hub := s.get (JN_MIR_MATCH.M_HUB n)
  let key := s.get (JN_MIR_MATCH.M_KEY n)
  s.on (JN_MIR_CFG.EN n) && c.mir == 0 &&
    (if sel = 0 then s.get (JN_MIR_CFG.PORT n) == port && dir.testBit (if ingress then 0 else 1)
     else if sel = 3 then false
     else
       (if ingress then dir == 1 || dir == 3 else dir == 2) &&
         (if sel = 1 then c.destHub == hub && c.destAdp == s.get (JN_MIR_MATCH.M_ADP n) && c.tunnel == key
          else c.srcHub == hub && c.flow == key % 2048))

/-- A mirror copy of a cell (R184): of its header as it came to the copy point, before a marking there (notes/assumptions/97.md). -/
def State.mirCopy (s : State) (n : Nat) (c : Cell) : Cell :=
  let h : CellHdr := { destHub := s.get (JN_MIR_TGT.T_HUB n), destAdp := s.get (JN_MIR_TGT.T_ADP n),
                       tunnel := s.get (JN_MIR_TGT.T_TUNNEL n), tc := s.get JN_CFG.MIR_TC, pos := 3, flow := n }
  let x := s.ownCell h ((Cell.slot c).take (min 64 (c.len + 8)))
  x.setFld 31 31 1

/-- A cell joins a VOQ (R180): marked when the VOQ already holds `THRESH` cells. -/
def State.enqueue (s : State) (i o : Nat) (q : QCell) : State :=
  let c := q.cell.tc
  let v := s.voq i o c
  let mark := q.cell.mir == 0 && q.cell.ce == 0 && s.on (JN_MARK.MARK_EN o c) && decide (s.get (JN_MARK.THRESH o c) ≤ v.length)
  let cell := if mark then q.cell.setFld 32 32 1 else q.cell
  let s := s.when mark fun s => s.inc (JN_OUT_MARK.MARKED o)
  (s.setVoq i o c (v ++ [{ q with cell := cell }])).takeSlot i

/-- The VOQ of a copy for an output at J13 and the buffer there have room (R185). -/
def State.copyRoom (s : State) (o : Nat) (x : Cell) : Bool :=
  decide ((s.voq 13 o x.tc).length < s.get (JN_LIMIT.LIMIT 13 o x.tc) ∧ 0 < s.freeSlots 13)

/-- A copy enters at J13 when its VOQ and the buffer have room (R185). -/
def State.enterCopy (s : State) (n : Nat) (x : Cell) : State :=
  match s.route 13 x false with
  | .misroute => s.dropMisroute 13
  | .unroute => s.dropUnroute 13
  | .noPath => s.dropNoPath 13
  | .drain p =>
    if s.copyRoom p x then
      (s.setJn fun j => { j with drainQ := j.drainQ ++ [(p, false, ⟨x, false, false, 13⟩)] }).inc (JN_MIR_COPIES.COPIES n)
    else s.dropMir 13
  | .out o =>
    if s.outHeld o then s.dropNoPath 13
    else if s.copyRoom o x then (s.enqueue 13 o ⟨x, false, false, 13⟩).inc (JN_MIR_COPIES.COPIES n)
    else s.dropMir 13

/-- Every session counts the cell it selects and copies the first of every `N` (R183); a lock-up leaves the count as it is
(notes/assumptions/97.md). -/
def State.mirror (s : State) (c : Cell) (ingress : Bool) (port : Nat) : State :=
  s.each (List.range 8) fun n s =>
    if s.mirSelects n c ingress port then
      let cnt := tget 0 n s.jn.mirCnt
      let every := if s.get (JN_MIR_RATE.N n) = 0 then 65536 else s.get (JN_MIR_RATE.N n)
      let s := s.setJn fun j => { j with mirCnt := tput 0 n ((cnt + 1) % every) j.mirCnt }
      if cnt % every = 0 then s.enterCopy n (s.mirCopy n c) else s
    else s

/-! ### Acceptance (R154 to R161, R186) -/

/-- A cell is accepted at input `i` for output `o`. -/
def State.accept (s : State) (i o : Nat) (c : Cell) (pooled : Bool) : State :=
  (s.enqueue i o ⟨c, pooled, decide (i < 4) && s.spentCredit i c, i⟩).mirror c true i

/-- A discarded cell of a spine input gives the credit back that the partner spent on it (R123). -/
def State.dropped (s : State) (i : Nat) (c : Cell) (drop : State → State) : State :=
  (drop s).when (decide (i < 4) && s.spentCredit i c) fun s => s.giveCredit i c.tc

/-- Acceptance of a routed cell (R159 to R161, R186); `none` when the source is held (R161). -/
def State.admitCell (s : State) (i o : Nat) (c : Cell) : Option State :=
  let room := decide ((s.voq i o c.tc).length < s.get (JN_LIMIT.LIMIT i o c.tc))
  if c.mir = 1 then
    some (if room && decide (s.get JN_CFG.MIR_FREE < s.freeLossy i) then s.accept i o c false else s.dropMir i)
  else if i < 4 then
    if s.poolRoom i c.tc then some (s.accept i o c true)
    else some (if room && decide (0 < s.freeLossy i) then s.accept i o c false else s.dropped i c fun s => s.dropTail i)
  else if s.lossless c.tc then
    if room && decide (0 < s.freeSlots i) then some (s.accept i o c false) else none
  else some (if room && decide (s.get JN_RSV.LOCAL_RSV < s.freeSlots i) then s.accept i o c false else s.dropTail i)

/-- A cell at an input is checked, routed and accepted or discarded (R151, R152, R171 to R177); `none` when it must
wait (R161). -/
def State.tryCell (s : State) (i : Nat) (c : Cell) : Option State :=
  if cellMalformed c then some (s.dropped i c fun s => s.dropMalformed i)
  else if i < 4 ∧ c.srcHub = s.hubId then some (s.dropped i c fun s => s.dropLoop i)
  else match s.route i c false with
    | .misroute => some (s.dropped i c fun s => s.dropMisroute i)
    | .unroute => some (s.dropped i c fun s => s.dropUnroute i)
    | .noPath => some (s.dropped i c fun s => s.dropNoPath i)
    | .drain p =>
      some (s.dropped i c fun s => s.setJn fun j => { j with drainQ := j.drainQ ++ [(p, false, ⟨c, false, false, i⟩)] })
    | .out o => if s.outHeld o then some (s.dropped i c fun s => s.dropNoPath i) else s.admitCell i o c

/-- The same at an adapter's input, where the shaper of the cell's tunnel comes first (R200). -/
def State.tryShaped (s : State) (i : Nat) (c : Cell) : Option State :=
  if i < 4 ∨ 13 ≤ i ∨ c.mir = 1 then s.tryCell i c
  else if s.shaped c then none
  else (s.tryCell i c).map fun s' => s'.countSend c

/-- A cell reaches an input; behind a held cell, or when it must wait, it is held (R161), but for a mirror copy, which never waits
(R186). -/
def State.arrive (s : State) (i : Nat) (c : Cell) : State :=
  let hold (s : State) : State := s.setJn fun j => { j with held := tput [] i (tget [] i j.held ++ [c]) j.held }
  if tget [] i s.jn.held != [] ∧ c.mir = 0 then hold s
  else match s.tryShaped i c with
    | some s' => s'
    | none => hold s

/-- CELL_ARRIVAL (R151, R152, R154, R159 to R161, R171 to R177, R180, R182 to R186): the given cell, or with `none` the
oldest cell on its way to the input. -/
def execCellArrival (i : JPort) (c : Option Cell) (s : State) : Result :=
  match c, tget [] i.val s.jn.incoming with
  | some c, _ => .next (s.arrive i c)
  | none, [] => .next s
  | none, c :: rest => .next ((s.setJn fun j => { j with incoming := tput [] i.val rest j.incoming }).arrive i c)

/-- HELD_CELL_ACCEPT (R161): the oldest held cell is accepted once its VOQ and the buffer have room, by the Forme of that moment
(notes/assumptions/97.md). -/
def execHeldCellAccept (i : JPort) (s : State) : Result :=
  match tget [] i.val s.jn.held with
  | [] => .next s
  | c :: rest => match s.tryShaped i c with
    | some s' => .next (s'.setJn fun j => { j with held := tput [] i.val rest j.held })
    | none => .next s

/-! ### The match (R162 to R165) -/

/-- A VOQ is eligible (R162, R179). -/
def State.eligible (s : State) (i o c : Nat) : Bool :=
  (match s.voq i o c with
    | [] => false
    | q :: _ => if q.cell.mir = 1 then decide ((s.copyStage o).length < 8) else decide ((s.stage o c).length < 32)) && !s.jn.mpHold.contains o &&
    !(decide (o < 4) && (s.lState o != lkOpen || s.mpFailed o))

/-- The rank and class of a VOQ's head. -/
def State.headRank (s : State) (i o c : Nat) : Nat := match s.voq i o c with | q :: _ => cellRank q.cell | [] => 0

/-- The element of greatest rank, the first one among equals. -/
def bestOf {β : Type} (rank : β → Nat) (l : List β) : Option β :=
  l.foldl (fun b x => match b with
    | none => some x
    | some y => if rank y < rank x then some x else b) none

/-- The request of input `i` to output `o`: the class with the highest rank, and the rank (R163). -/
def State.request (s : State) (i o : Nat) : Option (Nat × Nat) :=
  (bestOf (fun c => s.headRank i o c) ((List.range 8).filter fun c => s.eligible i o c)).map fun c => (c, s.headRank i o c)

/-- The first of a list of indices at or after a pointer, wrapping at 16. -/
def firstFrom (ptr : Nat) (l : List Nat) : Option Nat :=
  bestOf (fun i => 16 - (i + 16 - ptr) % 16) l

/-- A grant: output, input, class, rank. -/
structure GrantRec where
  o : Nat
  i : Nat
  c : Nat
  r : Nat
  deriving DecidableEq, Repr

/-- The grant of output `o` among the free inputs (R163). -/
def State.grantOf (s : State) (ins : List Nat) (o : Nat) : Option GrantRec :=
  let reqs := ins.filterMap fun i => (s.request i o).map fun (c, r) => (i, c, r)
  match bestOf (fun x => x.2.2) reqs with
  | none => none
  | some (_, c, r) =>
    let same := (reqs.filter fun x => x.2.2 == r).map (·.1)
    (firstFrom (tget 0 (8 * o + c) s.jn.gptr) same).map fun i => ⟨o, i, c, r⟩

/-- The accept of input `i` among its grants (R163). -/
def State.acceptOf (s : State) (gs : List GrantRec) (i : Nat) : Option GrantRec :=
  let mine := gs.filter fun g => g.i == i
  match bestOf (fun g : GrantRec => g.r) mine with
  | none => none
  | some b =>
    let same := (mine.filter fun g => g.r == b.r).map (·.o)
    match firstFrom (tget 0 (8 * i + b.c) s.jn.aptr) same with
    | none => none
    | some o => mine.find? fun g => g.o == o

/-- One iteration: the pairs newly matched. -/
def State.iteration (s : State) (done : List GrantRec) : List GrantRec :=
  let ins := (List.range 16).filter fun i => !done.any fun g => g.i == i
  let outs := (List.range 16).filter fun o => !done.any fun g => g.o == o
  let gs := outs.filterMap fun o => s.grantOf ins o
  ins.filterMap fun i => s.acceptOf gs i

/-- Pointers move on an accept of the first iteration (R164). -/
def State.movePointers (s : State) (g : GrantRec) : State :=
  s.setJn fun j => { j with gptr := tput 0 (8 * g.o + g.c) ((g.i + 1) % 16) j.gptr,
                            aptr := tput 0 (8 * g.i + g.c) ((g.o + 1) % 16) j.aptr }

/-- A memory error met when a VOQ's head is read: the input, whether uncorrectable, tile and row (R157, R158). -/
structure EccErr where
  i    : Nat
  bad  : Bool
  tile : Nat
  row  : Nat
  deriving DecidableEq, Repr

/-- The error is counted, raised, logged and judged (R157, R158, R524). -/
def State.eccError (s : State) (e : EccErr) : State :=
  let r : RowId := ⟨0, 8 * e.i + e.tile, e.row⟩
  if e.bad then ((s.inc (JN_IN_ECC.ECC_UE e.i)).raise JN_EVENT.ECC_UE).rowUncorrectable r
  else ((s.inc (JN_IN_ECC.ECC_CE e.i)).raise JN_EVENT.ECC_CE).rowCorrected r

/-- A cell enters the egress stage of its output, a copy the copy stage (R163, R196); at the output of a held adapter it is
discarded (R441). -/
def State.intoStage (s : State) (o c : Nat) (q : QCell) : State :=
  if s.outHeld o then s.dropNoPath q.inp
  else
  let s := if q.cell.mir = 1 then s.setCopyStage o (s.copyStage o ++ [q]) else s.setStage o c (s.stage o c ++ [q])
  s.mirror q.cell false o

/-- What waits in the egress stage of an adapter that goes into block reset is discarded (R154, R441). -/
def State.purgeStage (s : State) (o : Nat) : State :=
  let staged := (List.range 8).flatMap (fun c => s.stage o c) ++ s.copyStage o
  let s := s.each staged fun q s => s.dropNoPath q.inp
  (s.each (List.range 8) fun c s => s.setStage o c []).setCopyStage o []

/-- A matched pair moves the VOQ's head into the egress stage (R163), or discards it on an uncorrectable error (R157). -/
def State.transfer (s : State) (g : GrantRec) (ecc : List EccErr) : State :=
  match s.voq g.i g.o g.c with
  | [] => s
  | q :: rest =>
    let s := (s.setVoq g.i g.o g.c rest).leaveBuffer g.i q
    match ecc.find? fun e => e.i == g.i with
    | some e =>
      if e.bad then s.eccError e
      else (s.eccError e).intoStage g.o g.c q
    | none => s.intoStage g.o g.c q

/-- J15 passes its oldest cell through the route lookup again (R177), and accepts it as a local input does (R161, R182, R186): a
lossless cell waits there until there is room. -/
def State.passJ15 (s : State) : State :=
  match s.jn.drainQ with
  | [] => s
  | (_, _, q) :: rest =>
    let t := s.setJn fun j => { j with drainQ := rest }
    match t.route 15 q.cell true with
    | .out o => if t.outHeld o then t.dropNoPath q.inp else (t.admitCell 15 o q.cell).getD s
    | _ => t.dropNoPath q.inp

/-- The oldest cell at J15 is the last one drained from its output: it waits for DRAIN_END. -/
def Junction.lastDrained (j : Junction) : Bool :=
  match j.drainQ with
  | [] => false
  | (p, d, _) :: rest => d && !rest.any fun e => e.1 == p && e.2.1

/-- MATCH_CYCLE (R162 to R165, R157, R177): one cell cycle; `ecc` names the inputs whose read finds an error, with tile and row, 128 being the tile's spare row
(R158). -/
def execMatchCycle (ecc : List (JPort × Bool × Fin 8 × Fin 129)) (s : State) : Result :=
  let errs := ecc.map fun (i, b, t, r) => EccErr.mk i b t r
  let m1 := s.iteration []
  let m2 := s.iteration m1
  let m3 := s.iteration (m1 ++ m2)
  let s := if s.jn.lastDrained then s else s.passJ15
  let s := s.each m1 fun g s => s.movePointers g
  .next (s.each (m1 ++ m2 ++ m3) fun g s => s.transfer g errs)

/-! ### Failure and return (R148, R176 to R179) -/

/-- The queued cells of an output go to J15, stage first, each queue in order; buffer slots are freed (R123, R177). -/
def State.drainOutput (s : State) (p : Nat) : State :=
  let staged := (((List.range 8).reverse).flatMap fun c => s.stage p c) ++ s.copyStage p
  let s := (s.each (List.range 8) fun c s => s.setStage p c []).setCopyStage p []
  let s := s.setJn fun j => { j with drainQ := j.drainQ ++ staged.map fun q => (p, true, q) }
  s.each (List.range 16) fun i s =>
    s.each ((List.range 8).reverse) fun c s =>
      let v := s.voq i p c
      let s := s.setVoq i p c []
      let s := s.each v fun q s => s.leaveBuffer i q
      s.setJn fun j => { j with drainQ := j.drainQ ++ v.map fun q => (p, true, q) }

/-- The port is marked failed in every multipath group and its output is drained (R148, R176, R177). -/
def State.failMember (s : State) (p : Nat) : State :=
  let s := s.setLink p fun l => { l with failDue := false }
  let s := (s.put JN_STATUS.MP_FAIL (s.get JN_STATUS.MP_FAIL ||| 2 ^ p)).put JN_STATUS.DRAINING
    (s.get JN_STATUS.DRAINING ||| 2 ^ p)
  let s := s.setJn fun j => { j with mpHold := j.mpHold.filter (· != p) }
  ((s.abortTests fun t tgt => t == 5 && tgt == p).raise JN_EVENT.MP_FAIL).drainOutput p

/-- MEMBER_FAIL (R148, R176, R177): the link state has left OPEN. -/
def execMemberFail (p : Port) (s : State) : Result :=
  .next (if (s.link p).failDue && !s.mpFailed p then s.failMember p
    else s.setLink p fun l => { l with failDue := false })

/-- DRAIN_END (R177): J15 passes the last drained cell of the output. -/
def execDrainEnd (p : Port) (s : State) : Result :=
  let mine := s.jn.drainQ.filter fun e => e.1 == p.val && e.2.1
  let done (s : State) : State := s.put JN_STATUS.DRAINING (s.get JN_STATUS.DRAINING &&& (0xF - 2 ^ p.val))
  .next (if mine = [] then done s
    else if s.jn.lastDrained && s.jn.drainQ.head? == mine.head? then
      let t := s.passJ15
      if t.jn.drainQ == s.jn.drainQ then t else done t
    else s)

/-- A port returns to its groups at a Milestone boundary (R148, R179). -/
def State.returnMember (s : State) (p : Nat) : State :=
  let s := s.put JN_STATUS.MP_FAIL (s.get JN_STATUS.MP_FAIL &&& (0xF - 2 ^ p))
  let s := s.when (s.get JN_MP_CFG.MP_HOLD != 0) fun s =>
    s.setJn fun j => { j with mpHold := p :: j.mpHold.filter (· != p) }
  let s := (s.raise JN_EVENT.MP_RETURN).raise (LK_EVENT.PORT_UP p)
  s.when (s.link p).wasDead fun s => s.raise (LK_EVENT.REVIVE p)

/-- MP_HOLD_EXPIRY (R179). -/
def execMpHoldExpiry (p : Port) (s : State) : Result :=
  .next (s.setJn fun j => { j with mpHold := j.mpHold.filter (· != p.val) })

end Sys2Proof.Machine
end

