-- ==== Sys2Proof/Machine/TxSlot.lean ====
section
/-! DEFINITION. The transmitter of a spine port and the Sheet walkers: what each lane sends in a slot (R58 to R62, R67, R82,
R98 to R102, R143), the choice of R111, and the walkers of R195 and R196. -/

namespace Sys2Proof.Machine

/-! ### Lanes -/

/-- What a lane sends in a slot. -/
inductive LaneSend
  /-- frame bytes, scrambled (R59) -/
  | share (bs : List Byte)
  /-- bits sent as they are: training blocks, and a slot that begins with a marker -/
  | raw (bits : List Bool) (marker : Bool)
  /-- PRBS31 of a spare or retired lane (R82, R90) -/
  | prbs (n : Nat)
  /-- the pattern generator in TEST (R98) -/
  | test (n : Nat)
  deriving DecidableEq, Repr

/-- `k` bits of a PRBS pattern. -/
def prbsRun (t : Nat × Nat × Nat) : Nat → BitVec 31 → BitVec 31 × List Bool
  | 0, r => (r, [])
  | k + 1, r =>
    let o := r.getLsbD t.2.1 != r.getLsbD t.2.2
    let (r', os) := prbsRun t k ((r <<< 1) ||| (if o then 1 else 0))
    (r', o :: os)

/-- The line bits of a lane before injection, and the lane after them. -/
def State.laneBits (s : State) (p k : Nat) (what : LaneSend) : Lane × List Bool :=
  let l := s.lane p k
  match what with
  | .share bs =>
    let (r, o) := scrBits l.scr (bs.flatMap byteBits)
    ({ l with scr := r, bip := bipBits 0 l.bip o }, o)
  | .raw b marker => ({ l with bip := if marker then bipBits 0 0 (b.drop 160) else bipBits 0 l.bip b }, b)
  | .prbs n =>
    let (r, o) := prbs31 n l.prbs
    ({ l with prbs := r, bip := bipBits 0 l.bip o }, o)
  | .test n =>
    let pat := s.get (LN_PRBS.PATTERN p k)
    let inv := s.on (LN_PRBS.INV p k)
    if pat = 4 then
      let user := s.get (LN_USER_HI.USER_HI p k) * 2 ^ 32 + s.get (LN_USER_LO.USER_LO p k)
      ({ l with genPos := (l.genPos + n) % 64 },
        (List.range n).map fun i => user.testBit (63 - (l.genPos + i) % 64) != inv)
    else
      let (r, o) := prbsRun (prbsTaps pat) n l.gen
      ({ l with gen := r }, o.map fun b => b != inv)

/-- The injector over line bits (R101): `rate` is the bit distance of rate mode, 0 when it is off; the result counts the bits
inverted. -/
def inject (rate : Nat) : Nat → Nat → List Bool → Nat × Nat × Nat × List Bool
  | left, run, [] => (left, run, 0, [])
  | left, run, b :: t =>
    let hitRate := rate != 0 && decide (rate ≤ run + 1)
    let hit := decide (0 < left) || hitRate
    let (left', run', n, bs) := inject rate (left - 1) (if hitRate then 0 else if rate = 0 then run else run + 1) t
    (left', run', n + hit.toNat, (b != hit) :: bs)

/-- The bit distance of rate mode on a lane, 0 when it is off (R101, R102). -/
def State.injRate (s : State) (p k : Nat) : Nat :=
  if s.get (LN_INJ.MODE p k) = 3 ∧ s.mayInject p k then 2 ^ max 8 (min 40 (s.get (LN_INJ.RATE_EXP p k))) else 0

/-- What leaves a lane, the lane after it, and the bits inverted; where the injector may not act, what waits to be inverted
lapses (R102). -/
def State.laneSlot (s : State) (p k : Nat) (what : LaneSend) : Lane × Nat × List Byte :=
  let (l, b) := s.laneBits p k what
  let (left, run, n, b') := inject (s.injRate p k) (if s.mayInject p k then l.injLeft else 0) l.injRun b
  ({ l with injLeft := left, injRun := run }, n,
    (List.range (b'.length / 8)).map fun i => bitsByte ((b'.drop (8 * i)).take 8))

/-- A slot leaves on its lanes. -/
def State.sendLanes (s : State) (p : Nat) (frame : Option (List Byte)) (ls : List (Nat × LaneSend)) : State :=
  let outs := ls.map fun (k, w) => (k, s.laneSlot p k w)
  let s := s.each outs fun (k, l, n, _) s =>
    (s.setLane p k fun _ => l).when (n != 0) fun s => s.addSat (LN_INJ_CNT.INJ_CNT p k) n
  s.emit (.slot p frame (outs.map fun (k, _, _, bs) => (k, bs)))

/-! ### Training blocks and markers (R62, R67) -/

/-- The swap request for the opposite direction, shown on the spare lane and in every marker (R89). -/
def State.swapShown (s : State) (p : Nat) : Nat :=
  match (s.port p).rxSwap with
  | some (k, _) => 8 + k
  | none => 0

/-- Bits 159..16 of the training block of a lane (R67); `go` names the lane of a swap block. -/
def State.blockHead (s : State) (p k : Nat) (go : Option Nat) (fill : List Bool) : List Bool :=
  let l := s.lane p k
  let spare := s.spState p == stActive && l.txRole == roleSpare
  numBits 32 0xB4C31E6D ++ numBits 4 (s.spState p) ++ numBits 3 k ++ numBits 2 (s.get (SP_STATE.RATE p))
    ++ [l.rxReady, l.reqSeq, l.answered]
    ++ numBits 2 l.reqPre ++ numBits 2 l.reqPost ++ numBits 3 l.reqPreset ++ numBits 2 l.preSts ++ numBits 2 l.postSts
    ++ numBits 4 (s.get (LN_TX.PRE p k)) ++ numBits 5 (s.get (LN_TX.POST p k))
    ++ numBits 4 (if spare then s.swapShown p else 0)
    ++ numBits 4 (match go with | some j => 8 + j | none => 0) ++ [(s.port p).fast] ++ numBits 7 0
    ++ fill

/-- The bits of a byte string's bits, eight at a time. -/
def packBits (b : List Bool) : List Byte := (List.range (b.length / 8)).map fun i => bitsByte ((b.drop (8 * i)).take 8)

/-- `n` whole training blocks, one after another, from a `FILL` sequence on. -/
def State.blocksFrom (s : State) (p k : Nat) (go : Option Nat) : Nat → BitVec 31 → List Bool
  | 0, _ => []
  | n + 1, r =>
    let (r', fill) := prbs31 64 r
    let h := s.blockHead p k go fill
    h ++ numBits 16 (crc16 (packBits h)) ++ s.blocksFrom p k go n r'

/-- `n` training blocks of a lane. -/
def State.blocks (s : State) (p k n : Nat) (go : Option Nat) : List Bool := s.blocksFrom p k go n (s.lane p k).fill

/-- The `FILL` sequences of lanes that sent `n` blocks go on. -/
def State.fillOn (s : State) (p n : Nat) (ks : List Nat) : State :=
  s.each ks fun k s => s.setLane p k fun l => { l with fill := (prbs31 (64 * n) l.fill).1 }

/-- Role and logical position that a marker shows: those of a width change that this slot announces, else the present ones
(R62, R145). -/
def State.shownRole (s : State) (p k : Nat) : Nat × Nat :=
  let l := s.lane p k
  match (s.port p).narrowTo with
  | some (keep, spare) =>
    if s.elapsed (s.port p).narrowAt < 1000 then (l.txRole, l.txLogical)
    else match keep.findIdx? (· == k) with
      | some i => (roleActive, i)
      | none => if some k == spare then (roleSpare, 7) else if l.txRole = roleActive then (roleRetired, 7) else (l.txRole, 7)
  | none => (l.txRole, l.txLogical)

/-- The alignment marker of a lane (R62). -/
def State.marker (s : State) (p k : Nat) : List Bool :=
  let (role, logical) := s.shownRole p k
  let body := numBits 3 k ++ numBits 2 role ++ numBits 3 logical ++ numBits 16 (s.port p).amCount
    ++ numBits 8 (s.lane p k).bip.toNat ++ numBits 4 (s.swapShown p)
    ++ numBits 4 (match (s.port p).readmit with | some j => 8 + j | none => 0)
  numBits 48 0x4D1FA6E29C35 ++ body ++ numBits 8 (crc8 (packBits body)) ++ numBits 48 0xB2E0591D63CA ++ numBits 16 0x5A5A

/-! ### Frames (R105 to R109) -/

/-- A frame's 80 bytes around a slot (R105 to R107). -/
def buildFrame (slot : List Byte) (seq ack ftype : Nat) (ackv retry : Bool) : List Byte :=
  let head := seq % 4096 * 2 ^ 20 + ack % 4096 * 2 ^ 8 + ftype % 16 * 2 ^ 4 + ackv.toNat * 8 + retry.toNat * 4
    + (if ftype = 1 ∨ ftype = 3 then 2 else 0)
  let b := padTo 72 slot ++ beBytes 4 head
  b ++ beBytes 4 (crc32c b)

/-- The departure time goes into time cells and link-delay frames as they leave, again at a replay (R110, R332). -/
def State.stampSlot (s : State) (ftype : Nat) (slot : List Byte) : List Byte :=
  let put (a : Nat) : List Byte := slice slot 0 a ++ Stamp.bytes s.stamp ++ slice slot (a + 12) (60 - a)
  if ftype = 0 ∧ (Cell.ofSlot slot).isTime then put 12
  else if ftype = 6 then (if beAt slot 0 1 = 1 then put 4 else put 28)
  else slot

/-- A frame leaves: it carries the present acknowledgement, or a replay request that is owed, 8 ns or more after the faulty frame
(R114, R115). -/
def State.frameOut (s : State) (p seq ftype : Nat) (slot : List Byte) : List Byte × State :=
  let l := s.link p
  if l.nakOwed && decide (8 ≤ s.elapsed l.nakAt) then
    let ack := (s.get (LK_SEQ_RX.EXPECTED p) + 4095) % 4096
    let f := buildFrame (s.stampSlot ftype slot) seq ack ftype true true
    (f, ((s.put (LK_SEQ_RX.ACK_SENT p) ack).inc (LK_NAK.NAK_TX p)).setLink p fun l =>
      { l with nakOwed := false, nakOut := true, accepted := 0, ackChanged := false })
  else
    (buildFrame (s.stampSlot ftype slot) seq (s.get (LK_SEQ_RX.ACK_SENT p)) ftype l.ackV false,
      s.setLink p fun l => { l with ackChanged := false })

/-- A new unsequenced frame carries the number after the last sequenced frame sent, be it one sent again (R106, R108). -/
def State.sendUnseq (s : State) (p ftype : Nat) (slot : List Byte) : List Byte × State :=
  s.frameOut p (s.link p).txAfter ftype slot

/-- A new sequenced frame takes the next number and goes into the replay buffer (R112). -/
def State.sendSeq (s : State) (p ftype : Nat) (slot : List Byte) : List Byte × State :=
  let seq := s.get (LK_SEQ_TX.NEXT_TX p)
  let (f, s) := s.frameOut p seq ftype slot
  let s := s.setLink p fun l =>
    { l with replay := l.replay ++ [⟨seq, ftype, slot⟩], sentTick := if l.replay = [] then s.tm.tick else l.sentTick,
             txAfter := (seq + 1) % 4096 }
  (f, s.put (LK_SEQ_TX.NEXT_TX p) ((seq + 1) % 4096))

/-- An idle frame, or an ack-only frame when the carried `ACK` has changed (R109). -/
def State.sendFill (s : State) (p : Nat) (pause : Bool) : List Byte × State :=
  s.sendUnseq p (if (s.link p).ackChanged && !pause then 3 else 1) []

/-- The window leaves room for a new sequenced frame (R111, R112). -/
def State.windowOpen (s : State) (p : Nat) : Bool := decide ((s.link p).replay.length < min 2047 (s.link p).window)

/-- Credit for a new cell of class `c` towards the partner (R124). -/
def State.creditOk (s : State) (p c : Nat) : Bool :=
  let l := s.link p
  let pool := tget 0 c l.pool
  pool == 0 || decide ((tget 0 c l.sent + 65536 - tget 0 c l.ret) % 65536 + 1 ≤ pool)

/-- A cell of class `c` heads its stage at output `o` and may go now: at a spine output only in OPEN, with window and
credit (R111, R124, R137). -/
def State.mayGo (s : State) (o c : Nat) : Bool :=
  (s.stage o c) != [] && (decide (4 ≤ o) || (s.lState o == lkOpen && s.windowOpen o && s.creditOk o c))

/-- Each slot in which a cell waits for lack of credit is counted (R124). -/
def State.countStall (s : State) (p : Nat) : State :=
  s.when (s.lState p == lkOpen && (List.range 8).any fun c => (s.stage p c) != [] && !s.creditOk p c) fun s =>
    s.inc (LK_CREDIT_STALL.STALL p)

/-! ### The walkers (R195, R196) -/

/-- What the walker hands over in a slot. -/
inductive Pick | cls (c : Nat) (best : Bool) | copy | proof | nothing
  deriving DecidableEq, Repr

/-- The entry due is owned by a waiting cell (R111, R196). -/
def State.ownedNow (s : State) (o : Nat) : Bool :=
  match s.owner (s.dueEntry o) with
  | .cls c => s.mayGo o c
  | .proof n => s.proofOn o n
  | .free => false

/-- The walker's choice (R195). -/
def State.pick (s : State) (o : Nat) : Pick :=
  let best : Pick :=
    match ((List.range 8).reverse).find? fun c => s.mayGo o c && s.mayBe o c with
    | some c => .cls c true
    | none =>
      if (s.copyStage o) != [] && (decide (4 ≤ o) || (s.lState o == lkOpen && s.windowOpen o)) then .copy else .nothing
  match s.owner (s.dueEntry o) with
  | .cls c => if s.mayGo o c then .cls c false else best
  | .proof n => if s.proofOn o n then .proof else best
  | .free => best

/-- The cell of a choice leaves its stage. -/
def State.takePick (s : State) (o : Nat) (k : Pick) : Option Cell × State :=
  match k with
  | .cls c best =>
    match s.stage o c with
    | q :: rest => (some q.cell, (s.setStage o c rest).when best fun s => s.countBe o c)
    | [] => (none, s)
  | .copy =>
    match s.copyStage o with
    | q :: rest => (some q.cell, s.setCopyStage o rest)
    | [] => (none, s)
  | _ => (none, s)

/-- A Proof cell goes to the output and is turned back into J15 (R530 test 5): counted for the comparison. -/
def State.proofSlot (s : State) (o : Nat) : State :=
  s.setSvc fun x => { x with proofCells := tput 0 o (tget 0 o x.proofCells + 1) x.proofCells }

/-- The cell that the slot of a local output took goes to that output; the bridge's reserved tunnels end there (R299). -/
def State.localTaken (s : State) (o : Nat) (c : Option Cell) : State :=
  match c with
  | some c =>
    if o = 9 ∧ (0x400 ≤ c.tunnel ∧ c.tunnel < 0x800 ∨ 0x805 < c.tunnel) then
      ((s.inc LB_CNT.NO_WIN).raise LB_EVENT.NO_WIN).advance o
    else (s.setJn fun j => { j with fifo := tput [] o (tget [] o j.fifo ++ [c]) j.fifo }).advance o
  | none => s.advance o

/-- The slot of a local output takes what its walker picked. -/
def State.giveLocal (s : State) (o : Nat) (k : Pick) : State :=
  let g := s.takePick o k
  g.2.localTaken o g.1

/-- LOCAL_WALKER_SLOT (R195, R196): one slot of 4 ns of a local output's walker. -/
def execLocalWalkerSlot (o : Fin 9) (s : State) : Result :=
  let o := o.val + 4
  let n := (tget [] o s.jn.fifo).length
  .next (match s.pick o with
    | .proof => if n < 64 then (s.proofSlot o).advance o else s.slip o
    | .cls c false => if n < 64 then s.giveLocal o (.cls c false) else s.slip o
    | .cls c true => if n ≤ 32 then s.giveLocal o (.cls c true) else s.advance o
    | .copy => if n ≤ 32 then s.giveLocal o .copy else s.advance o
    | .nothing => s.advance o)

/-! ### The choice of R111 -/

/-- Items that wait still have waited one slot more (R111). -/
def State.ageItems (s : State) (p : Nat) : State :=
  s.setLink p fun l =>
    { l with mgmt := l.mgmt.map fun w => { w with age := w.age + 1 },
             delay := l.delay.map fun w => { w with age := w.age + 1 },
             creditAge := if l.creditDue then l.creditAge + 1 else 0 }

/-- A credit record (R122). -/
def creditSlot (ret : List (Nat × Nat)) : List Byte :=
  padTo 72 (beBytes 1 1 ++ [0, 0, 0] ++ ((List.range 8).reverse).flatMap fun c => beBytes 2 (tget 0 c ret))

/-- The next frame of a replay (R117): its slot and number as before. -/
def State.sendReplay (s : State) (p i : Nat) (t : TxFrame) : List Byte × State :=
  let (f, s) := s.frameOut p t.seq t.ftype t.slot
  let s := s.setLink p fun l =>
    { l with resend := if i + 1 < l.replay.length then some (i + 1) else none,
             sentTick := if i = 0 then s.tm.tick else l.sentTick, txAfter := (t.seq + 1) % 4096 }
  (f, s.inc (LK_REPLAY.REPLAYED p))

/-- The items of R111 that may take a slot ahead of the walker: 2 the capability record, 3 the replay, which starts 8 ns after the
frame that asks for it (R117), 4 a link-delay frame,
5 link management, 6 a credit frame, which HELLO does not send (R137). -/
def State.linkItem (s : State) (p : Nat) : Option Nat :=
  let l := s.link p
  let due (age : Nat) : Bool := !s.ownedNow p || decide (64 ≤ age)
  if 0 < l.capsOwed then some 2
  else if l.resend.isSome && (match l.resendAt with | some t => decide (8 ≤ s.elapsed t) | none => true) then some 3
  else if (match l.delay with | w :: _ => due w.age | [] => false) then some 4
  else if s.windowOpen p && (match l.mgmt with | w :: _ => due w.age | [] => false) then some 5
  else if l.creditDue && s.lState p != lkHello && due l.creditAge then some 6
  else none

/-- The frame of an item of R111. -/
def State.sendItem (s : State) (p item : Nat) : List Byte × State :=
  let l := s.link p
  if item = 2 then
    s.setLink p (fun l => { l with capsOwed := l.capsOwed - 1 }) |>.sendUnseq p 5 (CapRec.slot (s.ownCaps p))
  else if item = 3 then
    match l.resend with
    | some i => match l.replay[i]? with
      | some t => s.sendReplay p i t
      | none => (s.setLink p fun l => { l with resend := none }).sendFill p false
    | none => s.sendFill p false
  else if item = 4 then
    match l.delay with
    | w :: rest => (s.setLink p fun l => { l with delay := rest }).sendUnseq p 6 w.slot
    | [] => s.sendFill p false
  else if item = 5 then
    match l.mgmt with
    | w :: rest => (s.setLink p fun l => { l with mgmt := rest }).sendSeq p 4 w.slot
    | [] => s.sendFill p false
  else
    (s.setLink p fun l => { l with creditDue := false, creditAge := 0, retSent := l.retOwn }).sendUnseq p 2
      (creditSlot l.retOwn)

/-- Item 7, the walker's cell, or item 8 (R111, R195). -/
def State.sendWalker (s : State) (p : Nat) : List Byte × State :=
  match s.pick p with
  | .proof => (s.proofSlot p).advance p |>.sendFill p true
  | .nothing => (s.advance p).sendFill p false
  | k =>
    match s.takePick p k with
    | (some c, s) =>
      let s := (s.advance p).setLink p fun l =>
        { l with sent := if c.mir = 1 then l.sent else tput 0 c.tc ((tget 0 c.tc l.sent + 1) % 65536) l.sent }
      s.sendSeq p 0 (Cell.slot c)
    | (none, s) => (s.advance p).sendFill p false

/-- The frame of a slot in ACTIVE (R90, R111, R196). -/
def State.activeFrame (s : State) (p : Nat) : List Byte × State :=
  let s := s.countStall p
  let (f, s) :=
    if (s.port p).pauseLane.isSome then
      ((s.setPort p fun x => { x with pauseLeft := x.pauseLeft - 1 }).advance p).sendFill p true
    else match s.linkItem p with
      | some i => (if s.ownedNow p then s.slip p else s.advance p).sendItem p i
      | none => s.sendWalker p
  (f, s.ageItems p)

/-- The frame of a slot in CAPS: a training frame in every 16th slot, idle frames between (R126). -/
def State.capsFrame (s : State) (p : Nat) : List Byte × State :=
  if (s.port p).slotIx % 16 = 15 then s.sendUnseq p 5 (CapRec.slot (s.ownCaps p)) else s.sendFill p true

/-! ### TX_SLOT -/

/-- Slot length in units of 160 bits (R58, R143). -/
def State.slotUnits (s : State) (p : Nat) : Nat :=
  if s.spState p = stActive then 2 ^ (2 - s.get (LK_STATE.TX_WIDTH p)) else 1

/-- The marker slot (R60 to R62, R96, R143): markers on all five lanes, training blocks behind them in a longer slot. -/
def State.markerSlot (s : State) (p : Nat) : State :=
  let s := match (s.port p).spareNext with
    | some k =>
      let s := s.setPort p fun x => { x with spareNext := none }
      if s.spState p == stActive && (s.lane p k).txRole == roleRetired then (s.setTxRole p k roleSpare 7).noteSpares p else s
    | none => s
  let n := s.slotUnits p - 1
  let s' := s.sendLanes p none ((List.range 5).map fun k => (k, LaneSend.raw (s.marker p k ++ s.blocks p k n none) true))
  let s' := s'.fillOn p n (List.range 5)
  (s'.setPort p fun x => { x with amCount := (x.amCount + 1) % 65536 }).when (s.spState p == stActive) fun s => s.slip p

/-- What spare and retired lanes carry beside the frame (R82, R90): training blocks on the spare in slots whose index is a
multiple of 64, else PRBS31; in ALIGN and CAPS as in ACTIVE. A longer slot holds several training blocks, each of them a swap
block where one is (notes/assumptions/97.md). -/
def State.sideLanes (s : State) (p : Nat) (tb : Bool) (go : Option Nat) : List (Nat × LaneSend) :=
  let n := s.slotUnits p
  (s.txLanes p roleSpare).map (fun k => (k, if tb then LaneSend.raw (s.blocks p k n go) false else .prbs (160 * n))) ++
    (s.txLanes p roleRetired).map fun k => (k, LaneSend.prbs (160 * n))

/-- The share of each active lane in a frame (R58, R143): frame byte b on logical lane b mod w. -/
def State.shares (s : State) (p : Nat) (f : List Byte) : List (Nat × LaneSend) :=
  let act := s.txLanes p roleActive
  let w := act.length
  act.map fun k => (k, LaneSend.share ((List.range (80 / max 1 w)).map fun j => f.getD (j * w + (s.lane p k).txLogical) 0))

/-- A frame slot in ALIGN, CAPS or ACTIVE (R60, R82, R90). -/
def State.frameSlot (s : State) (p : Nat) : State :=
  let st := s.spState p
  let tb := (s.port p).slotIx % 64 == 0
  let go := if tb && st == stActive && s.txLanes p roleSpare != [] then (s.port p).swapOwed else none
  let (f, s) := if st = stActive then s.activeFrame p else if st = stCaps then s.capsFrame p else s.sendFill p true
  let s := s.sendLanes p (some f) (s.shares p f ++ s.sideLanes p tb go)
  let s := if tb then s.fillOn p (s.slotUnits p) (s.txLanes p roleSpare) else s
  match go with
  | some k => s.setPort p fun x =>
      { x with swapOwed := none, pauseLane := some k, pauseLeft := 64 * 2 ^ s.get (SP_STATE.RATE p) / s.slotUnits p }
  | none => s

/-- A slot of a port in training: one training block on every lane (R67). -/
def State.trainSlot (s : State) (p : Nat) : State :=
  (s.sendLanes p none ((List.range 5).map fun k => (k, LaneSend.raw (s.blocks p k 1 none) false))).fillOn p 1 (List.range 5)

/-- The slot that starts is to carry a frame of a replay. -/
def State.replayDue (s : State) (p : Nat) : Bool :=
  s.spState p == stActive && (s.port p).pauseLane.isNone && s.linkItem p == some 3 && (s.port p).slotIx % 16384 != 0

/-- A slot of the port's transmitter starts. In TEST a lane whose `GEN_EN` is 0 sends nothing (R98; notes/assumptions/97.md); a replay
that meets an uncorrectable error, `bad`, gives up the sequence state and trains again, from this slot on (R529). -/
def State.txSlot (s : State) (p : Nat) (bad : Bool) : State :=
  let st := s.spState p
  if st = stDisabled ∨ st = stHoldoff then s
  else if st ≤ stCheck then s.trainSlot p
  else if st = stTest then
    let on := (List.range 5).filter fun k => s.on (LN_PRBS.GEN_EN p k)
    s.sendLanes p none (on.map fun k => (k, LaneSend.test 160))
  else
    -- the pause of a swap has run its count of slots (R90)
    let s := if (s.port p).pauseLane.isSome && (s.port p).pauseLeft == 0 then s.endPause p else s
    let every := if st = stAlign then 256 else 16384
    let ix := (s.port p).slotIx
    if bad && s.replayDue p then (s.replayEccLoss p).trainSlot p
    else
      let s := if ix % every = 0 then s.markerSlot p else s.frameSlot p
      s.setPort p fun x => { x with slotIx := (ix + 1) % every }

/-- TX_SLOT (R57 to R62, R67, R74, R82, R90, R98, R105 to R117, R124, R126, R195, R196, R529). -/
def execTxSlot (x : SlotStart) (s : State) : Result := .next (s.txSlot x.port x.bad)

end Sys2Proof.Machine
end

