-- ==== Sys2Proof/Machine/Imposition.lean ====
section
/-! DEFINITION. The commands of Imposition (chapter 05): Sheet banks and flips, path admission, the request ring, and what
CE_2 does at a Milestone. -/

namespace Sys2Proof.Machine

/-! ### Sheet banks (R191 to R193) -/

/-- Copy a region of a memory, absent bytes as 0x00. -/
def memCopy (m : List Host.Cell) (src dst n : Nat) : List Host.Cell :=
  (m.filter fun e => decide (src ≤ e.1 ∧ e.1 < src + n)).foldl (fun m e => tput 0 (dst + (e.1 - src)) e.2 m)
    (m.filter fun e => !decide (dst ≤ e.1 ∧ e.1 < dst + n))

/-- The shadow bank becomes a copy of the active bank (R192). -/
def State.copyBank (s : State) (o : Nat) : State :=
  let b := s.get (IMP_PORT_CTL.BANK o)
  { s with caseMem := memCopy s.caseMem (sheetPlace o b 0) (sheetPlace o (1 - b) 0) 0x2000 }

/-- A shadow bank is complete (R193). -/
def State.bankComplete (s : State) (o : Nat) : Bool :=
  s.on (IMP_PORT_CTL.SEAL o) || (!s.on (IMP_PORT_CTL.DIRTY o) && !s.on (IMP_PORT_CTL.COPY_BUSY o))

/-- A write of a Sheet entry (R192): to an active bank it is ignored and counted, to a shadow bank it stalls while the copy
runs. -/
def State.writeSheet (s : State) (o b i w : Nat) : State :=
  if b = s.get (IMP_PORT_CTL.BANK o) then (s.inc IMP_COUNT.ACT_WR).raise IMP_EVENT.ACT_WR
  else if s.on (IMP_PORT_CTL.COPY_BUSY o) then s.setImp fun x => { x with stalled := x.stalled ++ [(o, i, w)] }
  else (s.setCase (sheetPlace o b i) 2 w).put (IMP_PORT_CTL.DIRTY o) 1

/-- SHEET_BANK_WRITE (R192). -/
def execSheetBankWrite (o : Fin 13) (b : Fin 2) (i : Fin 4096) (w : BitVec 16) (s : State) : Result :=
  .next (s.writeSheet o b i w.toNat)

/-- Writing `SEAL` (R193). -/
def State.sealBank (s : State) (o : Nat) : State := s.put (IMP_PORT_CTL.SEAL o) 1

/-- SEAL (R193). -/
def execSeal (o : Fin 13) (s : State) : Result := .next (s.sealBank o)

/-- The flip of an output, or a late Sheet (R28, R29, R193, R423). -/
def State.flip (s : State) (o : Nat) (complete : Bool) : State :=
  let late := s.get IMP_STATUS.LATE_NOW
  if complete then
    let s := s.put (IMP_PORT_CTL.BANK o) (1 - s.get (IMP_PORT_CTL.BANK o))
    let s := ((s.put (IMP_PORT_CTL.SEAL o) 0).put (IMP_PORT_CTL.DIRTY o) 0).put (IMP_PORT_CTL.COPY_BUSY o) 1
    (s.put (IMP_PORT_CTL.LATE_LAST o) 0).put IMP_STATUS.LATE_NOW (if late.testBit o then late - 2 ^ o else late)
  else
    let s := (s.inc (IMP_PORT_CNT.LATE o)).put (IMP_PORT_CTL.LATE_LAST o) 1
    ((s.put IMP_STATUS.LATE_NOW (late ||| 2 ^ o)).raise IMP_EVENT.LATE_SHEET).revertTrigger 2

/-- SHEET_FLIP (R28, R29, R193): the first slot of the output at or after the boundary. -/
def execSheetFlip (o : Fin 13) (s : State) : Result :=
  match s.imp.flipDue.find? fun e => e.1 == o.val with
  | none => .next s
  | some (_, c) => .next ((s.setImp fun x => { x with flipDue := x.flipDue.filter (·.1 != o.val) }).flip o c)

/-- BANK_COPY_DONE (R192): the copy is complete; writes that it stalled land. -/
def execBankCopyDone (o : Fin 13) (s : State) : Result :=
  if !s.on (IMP_PORT_CTL.COPY_BUSY o) then .next s
  else
    let mine := s.imp.stalled.filter (·.1 == o.val)
    let s := (s.copyBank o).put (IMP_PORT_CTL.COPY_BUSY o) 0
    let s := s.setImp fun x => { x with stalled := x.stalled.filter (·.1 != o.val) }
    .next (s.each mine fun (o, i, w) s => s.writeSheet o (1 - s.get (IMP_PORT_CTL.BANK o)) i w)

/-! ### Messages (R206, R208) -/

/-- The payload of an admission message (R206). -/
def admPayload (code : Nat) (m : AdmMsg) : List Byte :=
  beBytes 1 code ++ [m.reason] ++ beBytes 2 m.tag.toNat ++ beBytes 4 m.key.toNat ++ beBytes 2 m.orig ++
    beBytes 2 m.rsv.toNat ++ beBytes 2 m.ceil.toNat ++ beBytes 2 m.amount.toNat ++ [m.tcB6] ++
    beBytes 1 (m.disp.toNat + 2 * m.afterGive.toNat) ++ beBytes 2 m.atHub ++ beBytes 6 m.fSec.toNat ++
    beBytes 4 m.fNs.toNat ++ [0, 0]

/-- Message codes (R206). -/
def admAdmit : Nat := 1
def admGrant : Nat := 2
def admRefuse : Nat := 3
def admRelease : Nat := 4
def admRevoke : Nat := 5
def admGive : Nat := 6
def admGiven : Nat := 7

/-- Send an admission message to a hub from J10 (R206). -/
def State.sendAdm (s : State) (to_ code : Nat) (m : AdmMsg) : State :=
  s.present 10 (s.ownCell { destHub := to_, destAdp := 10, tunnel := 0xFF0, tc := 7, pos := 3, flow := 0 }
    (admPayload code m))

/-- The tunnel key that a display adapter's capture sources (R229). -/
def State.capKey (s : State) (d : Nat) : Nat :=
  s.get (DA_CAP_TUN.DEST_HUB d) * 2 ^ 21 + s.get (DA_CAP_TUN.DEST_ADP d) * 2 ^ 16 + s.get (DA_CAP_TUN.TUNNEL d)

/-- `FLOW` of a tunnel's cells (R229, R260, R310): a storage binding and a process signal send it equal to the low bits of `TUNNEL`, a
capture of this hub as `CAP_FLOW`; elsewhere the tunnel does not give it, and it is open (notes/assumptions/99.md). -/
def State.tunnelFlow (s : State) (key : Nat) : Nat :=
  let adp := key / 2 ^ 16 % 32
  if adp = 6 ∨ (adp = 9 ∧ key % 2 ^ 12 < 0x400) then key % 2 ^ 11
  else match ([0, 1] : List Nat).find? fun d => s.on (DA_CFG.CAP_EN d) && s.capKey d == keyOf key with
    | some d => s.get (DA_CAP_AUX.CAP_FLOW d)
    | none => Config.tunnelFlow (keyOf key)

/-- Where R171 sends a tunnel's cells at this hub, from the hub at which the tunnel starts (R207, R208). -/
def State.tunnelDest (s : State) (key orig : Nat) : Dest :=
  s.route 10 (Cell.make orig { destHub := key / 2 ^ 21, destAdp := key / 2 ^ 16, tunnel := key, tc := 7, pos := 3,
                               flow := s.tunnelFlow key } [0]) true

/-- The output that R171 chooses for a tunnel at this hub (R207, R208). -/
def State.tunnelOut (s : State) (key orig : Nat) : Option Nat :=
  match s.tunnelDest key orig with
  | .out o => some o
  | _ => none

/-- This hub is the tunnel's destination. -/
def State.endsHere (s : State) (key : Nat) : Bool := key / 2 ^ 21 == s.hubId

/-- Send a message towards the tunnel's destination: to the partner on the output that R171 chooses (R208), which is that of the
tunnel's record where there is one. -/
def State.sendOn (s : State) (code : Nat) (m : AdmMsg) : State :=
  let key := m.key.toNat
  if s.endsHere key then s
  else match (match s.findRec key with | some r => some (s.recOut r) | none => s.tunnelOut key m.orig) with
    | some o => if o < 4 then s.sendAdm (s.get (LK_PARTNER.P_HUB_ID o)) code m else s
    | none => s

/-- Send a message towards the tunnel's source: to `UP_HUB` of the record (R208). -/
def State.sendBack (s : State) (r code : Nat) (m : AdmMsg) : State :=
  if s.recSrc r then s else s.sendAdm (s.recGet r 5 10 0) code m

/-- A message about a record of this hub. -/
def State.msgOf (s : State) (r tag orig reason amount : Nat) : AdmMsg :=
  { reason := BitVec.ofNat 8 reason, tag := BitVec.ofNat 16 tag, key := BitVec.ofNat 32 (s.caseNat (recPlace r) 4),
    orig := Fin.ofNat 2048 orig, rsv := BitVec.ofNat 16 (s.recRsv r), ceil := BitVec.ofNat 16 (s.recCeil r),
    amount := BitVec.ofNat 16 amount, tcB6 := BitVec.ofNat 8 (s.recTc r * 32 + s.recB6 r % 32),
    disp := s.recDisp r, afterGive := false, atHub := Fin.ofNat 2048 s.hubId, fSec := 0, fNs := 0 }

/-! ### Admission at one hub (R205, R207, R209, R210) -/

/-- A request as a hub admits it. -/
structure Request where
  key    : Nat
  tc     : Nat
  b6     : Nat
  rsv    : Nat
  ceil   : Nat
  amount : Nat
  disp   : Bool
  src    : Bool
  up     : Nat
  orig   : Nat
  tag    : Nat
  ring   : Option Nat
  deriving DecidableEq, Repr

/-- The request of a message (R206). -/
def admRequest (m : AdmMsg) (src : Bool) (up : Nat) (ring : Option Nat) : Request :=
  let b := m.tcB6.toNat
  { key := keyOf m.key.toNat, tc := b / 32, b6 := if b % 32 = 0 then 32 else b % 32, rsv := m.rsv.toNat, ceil := m.ceil.toNat,
    amount := m.amount.toNat, disp := m.disp, src := src, up := up, orig := m.orig, tag := m.tag.toNat, ring := ring }

/-- Entries free for a request on an output at a capacity, counting its own need; negative when it does not fit (R205). -/
def State.margin (s : State) (o cap : Nat) (ex : Option Nat) (q : Request) : Int :=
  let six := q.tc = 6
  let base := s.commitmentBut o ex (if six then q.b6 else 0) (if six then q.amount else 0)
  (cap : Int) - s.get IMP_CFG.GUARD - (base + q.amount * s.slotFactor o : Nat)

def State.setChange (s : State) (c : AllotChange) : State :=
  s.setImp fun i => { i with changes := (i.changes.filter (·.slot != c.slot)) ++ [c] }

/-- Shrink a record's allotment (R211): its Sheet entries leave at B_k+2, its source's shaper lowers at B_k+1. -/
def State.shrinkRec (s : State) (r ru : Nat) : State :=
  let k := s.imp.msNum
  ((s.recSet r 1 30 28 3).setChange { slot := r, due := k + 2, ru := ru }).shapeAt r ru (k + 1)

/-- Free a record's entries at B_k+2 (R211). -/
def State.releaseRec (s : State) (r : Nat) : State :=
  let k := s.imp.msNum
  ((s.recSet r 1 30 28 3).setChange { slot := r, due := k + 2, ru := 0, drop := true }).shapeAt r 0 (k + 1)

/-- Ask a display tunnel for a give-back (R209 step 3, R219). -/
def State.askGive (s : State) (r ru : Nat) : State :=
  let s := (s.recSet r 1 30 28 4).setImp fun i => { i with gives := i.gives ++ [(r, ru, s.hubId)] }
  s.sendBack r admGive (s.msgOf r 0 s.hubId 0 ru)

/-- Entries wanted as RU, rounded up. -/
def ruFor (f short : Nat) : Nat := (short + f - 1) / max 1 f

/-- R209 step 2: shrink committed tunnels of lower classes to `RSV`, the lowest class first, the largest margin first, until
the request fits. -/
def State.reclaim (o : Nat) (ex : Option Nat) (q : Request) : Nat → State → State
  | 0, s => s
  | n + 1, s =>
    let m := s.margin o (s.capacity o) ex q
    if 0 ≤ m then s
    else
      let cand := (s.recsOn o).filter fun r =>
        some r != ex && s.recState r == 2 && decide (s.recTc r < q.tc) && decide (s.recRsv r < s.heldRu r)
      match bestOf (fun r => (7 - s.recTc r) * 65536 + (s.heldRu r - s.recRsv r)) cand with
      | none => s
      | some r =>
        let cut := min (s.heldRu r - s.recRsv r) (ruFor (s.slotFactor o) (-m).toNat)
        State.reclaim o ex q n (s.shrinkRec r (s.heldRu r - cut))

/-- R209 step 3: give-back from display tunnels down to `GB_FLOOR`, the largest allotment first; the flag says that some was
asked. -/
def State.reclaimGive (o : Nat) (ex : Option Nat) (q : Request) : Nat → State → Bool → State × Bool
  | 0, s, f => (s, f)
  | n + 1, s, f =>
    let m := s.margin o (s.capacity o) ex q
    if 0 ≤ m then (s, f)
    else
      let cand := (s.recsOn o).filter fun r =>
        some r != ex && s.recState r == 2 && s.recDisp r && decide (s.recGet r 4 31 16 < s.heldRu r)
      match bestOf (fun r => s.heldRu r) cand with
      | none => (s, f)
      | some r =>
        let cut := min (s.heldRu r - s.recGet r 4 31 16) (ruFor (s.slotFactor o) (-m).toNat)
        State.reclaimGive o ex q n (s.askGive r cut) true

/-- Refusals that need no capacity (R210). -/
def State.refusal (s : State) (q : Request) (dest : Dest) (ex : Option Nat) : Option Nat :=
  match dest with
  | .noPath => some 10
  | .misroute | .unroute | .drain _ => some 3
  | .out o =>
    if o < 4 ∧ (s.lState o ≠ lkOpen ∨ s.mpFailed o) then some 10
    else if q.tc < 3 ∨ 6 < q.tc then some 8
    else if q.ceil < q.rsv ∨ q.amount < q.rsv ∨ q.ceil < q.amount then some 4
    else if q.tc = 6 ∧
        32 < (((s.recsOn o).filter fun r => s.recTc r == 6 && some r != ex).map fun r => s.recB6 r).foldl (· + ·) q.b6 then some 6
    else if s.on (IMP_PORT_CTL.LATE_LAST o) && (match ex with
        | some r => decide (s.heldRu r < q.amount)
        | none => true) then some 5
    else if ex = none ∧ s.freeRec = none then some 7
    else none

/-- The outcome of admission at this hub: a reason code, or the record and whether entries were freed for it by a shrink or
give-back, and whether by a give-back. -/
inductive Admitted | no (reason : Nat) | yes (r : Nat) (freed give : Bool)
  deriving DecidableEq, Repr

/-- The record of a new tunnel (R201). -/
def State.newRec (s : State) (r o : Nat) (q : Request) : State :=
  let a := recPlace r
  let s := s.setCaseBytes a (List.replicate 32 0)
  let s := (s.setCase a 4 q.key).setCase (a + 4) 4 (2 ^ 31 + q.tc * 2 ^ 25 + q.src.toNat * 2 ^ 24 + q.disp.toNat * 2 ^ 23
    + o * 2 ^ 16 + (if q.tc = 6 then q.b6 * 256 else 0))
  let s := (s.setCase (a + 8) 4 (q.rsv * 65536 + q.ceil)).setCase (a + 12) 4 q.amount
  let s := s.setImp fun i => { i with origs := tput none r (some q.orig) i.origs, ringOf := tput none r q.ring i.ringOf }
  if q.src then s else s.setCase (a + 20) 4 q.up

/-- Admission at output `o`, once entries have been taken back (R205, R209, R210, R212): `s` is the state before, `s2` the
state after that, `ex` the tunnel's own record, and `gave` whether a give-back was asked for. A request that fits only once entries
have left that are still placed waits for them (R211). -/
def State.admitFreed (s : State) (q : Request) (o : Nat) (ex : Option Nat) (s2 : State) (gave : Bool) : Admitted × State :=
  let room := s2.margin o (s2.capacity o) ex q
  if 0 ≤ room then
    let freed := decide (room < (s2.leaving o ex : Int))
    let r := ex.getD ((s2.freeRec).getD 0)
    let leaves := if freed then s2.leaveBy o else 0
    let s3 := if ex.isSome then (s2.recSet r 2 31 16 q.rsv).recSet r 2 15 0 q.ceil else s2.newRec r o q
    let s3 := s3.recSet r 1 30 28 (if q.src then 0 else 1)
    let s3 := s3.setImp fun i =>
      { i with waiting := (i.waiting.filter (·.slot != r)) ++
          [{ slot := r, amount := q.amount, growth := ex.isSome, tag := q.tag, orig := q.orig, ring := q.ring, leaves := leaves,
             gave := gave }] }
    (.yes r freed gave, s3.refreshCap o)
  else if 0 ≤ s2.margin o (s2.capacityAt o 0) ex q then
    (.no 2, (s.raise IMP_EVENT.PACE_WAIT).setImp fun i => { i with raiseReq := true })
  else (.no 1, s)

/-- Admission at output `out` (R205, R207), where `reason` is the refusal code of `State.refusal`, when it gives one. -/
def State.admitAt (s : State) (q : Request) (out ex reason : Option Nat) : Admitted × State :=
  match reason, out with
  | some reason, _ => (.no reason, s)
  | none, none => (.no 3, s)
  | none, some o =>
    let n := s.recs.length
    let g := State.reclaimGive o ex q n (State.reclaim o ex q n s) false
    s.admitFreed q o ex g.1 g.2

/-- Admission at this hub (R205, R207, R209, R210, R212). -/
def State.admitPath (s : State) (q : Request) : Admitted × State :=
  let ex := s.findRec q.key
  s.admitAt q (s.tunnelOut q.key q.orig) ex (s.refusal q (s.tunnelDest q.key q.orig) ex)

/-- The answer goes into the request ring entry in place (R222). -/
def State.answerRing (s : State) (ring : Option Nat) (code reason : Nat) : State :=
  match ring with
  | none => s
  | some i =>
    let s := (s.setCase (0xE0000 + 16 * i) 1 code).setCase (0xE0000 + 16 * i + 1) 1 reason
    s.when (code == admRefuse) fun s => s.raise IMP_EVENT.REFUSED

/-- The greatest multiple m of V_NOM that the far Platen's blanking allows (R244). -/
def State.capMultiple (s : State) (d : Nat) : Nat :=
  max 1 ((s.get (DA_CAP_EXP_V.EXP_H d) + s.get (DA_CAP_AUX.GB_VBMAX d)) / max 1 (s.get (DA_CAP_MEAS.M_VTOT d)))

/-- `GB_FLOOR` of a capture (R244). -/
def State.gbFloor (s : State) (d : Nat) : Nat :=
  let ru := s.get (DA_CAP_RATE.NOM_RU d)
  let lim := s.get (DA_CAP_EXP_V.EXP_H d) + s.get (DA_CAP_AUX.GB_VBMAX d)
  if s.on (DA_CFG.AS_STRETCH d) then (ru * s.get (DA_CAP_MEAS.M_VTOT d) + lim - 1) / max 1 lim
  else (ru + s.capMultiple d - 1) / s.capMultiple d

/-- The capture writes `GB_FLOOR` and `KA_FLOOR` into its source record (R244). -/
def State.writeFloors (s : State) (d : Nat) : State :=
  match s.findRec (s.capKey d) with
  | some r => if s.recSrc r && s.recDisp r then (s.recSet r 4 31 16 (s.gbFloor d)).recSet r 4 15 0 1 else s
  | none => s

/-- One display adapter of chapter 06. -/
def State.disp (s : State) (d : Nat) : Display := tget {} d s.display
def State.setDisp (s : State) (d : Nat) (g : Display → Display) : State :=
  { s with display := tput {} d (g (s.disp d)) s.display }

/-- The source record of a capture's tunnel. -/
def State.capRec (s : State) (d : Nat) : Option Nat := (s.findRec (s.capKey d)).filter fun r => s.recSrc r

/-- The stretched vertical total for an allotment (R245); 0 when none is needed. -/
def State.stretch (s : State) (d a : Nat) : Nat :=
  let nom := s.get (DA_CAP_RATE.NOM_RU d)
  let v := s.get (DA_CAP_MEAS.M_VTOT d)
  if nom ≤ a then 0
  else
    let want := (nom * v + a - 1) / max 1 a
    if s.on (DA_CFG.AS_STRETCH d) then min want (s.get (DA_CAP_EXP_V.EXP_H d) + s.get (DA_CAP_AUX.GB_VBMAX d))
    else min ((want + v - 1) / max 1 v * v) (s.capMultiple d * v)

/-- `CAP_SRC` in force: 3 acts as 0. -/
def State.capSrc (s : State) (d : Nat) : Nat := s.get (DA_CFG.CAP_SRC d) % 3

/-- Where a capture's source is a dock port in Alternate Mode, an Attention carries HPD_State and IRQ_HPD (R225, R480). -/
def State.attention (s : State) (d : Nat) (irq : Bool) : State :=
  let m := s.capSrc d - 1
  s.when (s.capSrc d != 0 && s.on (DK_STATE.ALT_ON m)) fun s =>
    s.emit (.pd (4 + m) .attention [(s.disp d).hpdOut.toNat, irq.toNat])

/-- An HPD IRQ to the video source (R246, R480). -/
def State.hpdIrq (s : State) (d : Nat) : State := (s.emit (.hpdIrq d)).attention d true

/-- The allotment A of a capture's tunnel, less a give-back asked for (R245): a waiting admission has not raised it. -/
def State.capAllot (s : State) (r : Nat) : Nat :=
  s.grantedRu r - ((s.imp.gives.filter (·.1 == r)).map (·.2.1)).foldl (· + ·) 0

/-- `V_G` follows the allotment; with `AS_STRETCH` the Adaptive-Sync maximum follows it, with an HPD IRQ (R245, R246). -/
def State.setStretch (s : State) (d : Nat) : State :=
  let vg := match s.capRec d with
    | some r => s.stretch d (s.capAllot r)
    | none => 0
  if s.get (DA_CAP_RATE.V_G d) = vg then s
  else
    let s := s.put (DA_CAP_RATE.V_G d) vg
    if s.on (DA_CFG.AS_STRETCH d) then
      (s.setDisp d fun x => { x with asMax := if vg = 0 then none else some (s.get (DA_CAP_LINE.M_LRATE d) / vg) }).hpdIrq d
    else s

/-- A display tunnel has a record here, so its GIVEN passes this hub (R208). -/
def State.knowsGiven (s : State) : Bool := s.recs.any fun r => s.recDisp r

/-- A record commits (R207, R211): its entries are placed at B_k+1, or when the entries leave that it waits for; the source's
shaper rises one Milestone later. `after` says that some hop waits for a give-back, whose boundary this hub learns from GIVEN. -/
def State.commitRec (s : State) (w : AdmWait) (after : Bool) : State :=
  let r := w.slot
  let o := s.recOut r
  let hold := (s.imp.gives.any fun g => s.recOut g.1 == o) || ((after || w.gave) && s.knowsGiven)
  let due := max (s.imp.msNum + 1) w.leaves
  let s := (s.recSet r 1 30 28 2).setImp fun i =>
    { i with waiting := i.waiting.filter (·.slot != r), order := r :: i.order.filter (· != r) }
  let s := s.setChange { slot := r, due := due, ru := w.amount, hold := hold }
  let s := s.each [0, 1] fun d s => if s.capKey d = s.recKey r then (s.writeFloors d).setStretch d else s
  (if hold then s else s.shapeAt r w.amount (due + 1)).refreshCap o

/-- A waiting record gives its tentative entries back (R207): growth keeps what was committed. -/
def State.abandon (s : State) (w : AdmWait) : State :=
  let o := s.recOut w.slot
  (if w.growth then (s.recSet w.slot 1 30 28 2).setImp fun i => { i with waiting := i.waiting.filter (·.slot != w.slot) }
   else s.dropRec w.slot).refreshCap o

/-- What a source does with the outcome of admission here (R207): a refusal is answered, a tunnel that ends at this hub is
granted at once, and an ADMIT goes on otherwise. -/
def State.admittedHere (s : State) (q : Request) (m : AdmMsg) (a : Admitted) : State :=
  match a with
  | .no reason => s.answerRing q.ring admRefuse reason
  | .yes r _ gave =>
    match s.imp.waiting.find? (·.slot == r) with
    | none => s
    | some w =>
      if s.endsHere q.key then (s.commitRec w gave).answerRing q.ring admGrant 0
      else s.sendOn admAdmit { m with orig := Fin.ofNat 2048 s.hubId, afterGive := gave }

/-- A source starts path admission (R207 step 1). -/
def State.startAdmission (s : State) (q : Request) (m : AdmMsg) : State :=
  let g := s.admitPath q
  g.2.admittedHere q m g.1

/-! ### Messages taken in at J10 (R207, R208, R211) -/

/-- What a transit or end hub does with the outcome of admission here (R207): REFUSE or GRANT goes back, or ADMIT goes on. -/
def State.admittedFor (s : State) (src : Nat) (m : AdmMsg) (a : Admitted) : State :=
  match a with
  | .no reason => s.sendAdm src admRefuse { m with reason := BitVec.ofNat 8 reason, atHub := Fin.ofNat 2048 s.hubId }
  | .yes r _ gave =>
    let m := { m with afterGive := m.afterGive || gave }
    match s.imp.waiting.find? (·.slot == r) with
    | none => s
    | some w =>
      if s.endsHere m.key.toNat then
        (s.commitRec w m.afterGive).sendAdm src admGrant { m with reason := 0, atHub := 0 }
      else s.sendOn admAdmit m

def State.onAdmit (s : State) (src : Nat) (m : AdmMsg) : State :=
  let g := s.admitPath (admRequest m false src none)
  g.2.admittedFor src m g.1

def State.onGrant (s : State) (m : AdmMsg) : State :=
  match s.findRec m.key.toNat with
  | none => s
  | some r => match s.imp.waiting.find? (·.slot == r) with
    | none => s
    | some w => ((s.commitRec w m.afterGive).sendBack r admGrant m).answerRing w.ring admGrant 0

def State.onRefuse (s : State) (m : AdmMsg) : State :=
  match s.findRec m.key.toNat with
  | none => s
  | some r => match s.imp.waiting.find? (·.slot == r) with
    | none => s
    | some w => ((s.sendBack r admRefuse m).abandon w).answerRing w.ring admRefuse m.reason.toNat

def State.onRelease (s : State) (m : AdmMsg) : State :=
  match s.findRec m.key.toNat with
  | none => s
  | some r => (s.sendOn admRelease m).releaseRec r

/-- The ring entry that asked for a record's tunnel shows its revocation, while it still holds that request (R222). -/
def State.revokeRing (s : State) (r reason : Nat) : State :=
  match tget none r s.imp.ringOf with
  | some i => if keyOf (beAt (memBytes s.caseMem (0xE0000 + 16 * i + 4) 4) 0 4) = s.recKey r then s.answerRing (some i) admRevoke reason else s
  | none => s

/-- REVOKE (R208): transit hubs shrink and pass it on; the source sends RELEASE. -/
def State.onRevoke (s : State) (m : AdmMsg) : State :=
  match s.findRec m.key.toNat with
  | none => s
  | some r =>
    if s.recSrc r then ((s.sendOn admRelease { m with reason := 0 }).revokeRing r m.reason.toNat).releaseRec r
    else (s.sendBack r admRevoke m).releaseRec r

/-- GIVE reaches the source: the display adapter that feeds the tunnel stretches its blanking (R219, R245, R246). -/
def State.takeGive (s : State) (r ru orig : Nat) : State :=
  let s := (s.recSet r 1 30 28 4).setImp fun i => { i with gives := i.gives ++ [(r, ru, orig)] }
  s.each [0, 1] fun d s => if s.capKey d = s.recKey r then s.setStretch d else s

/-- GIVE (R208, R219): passed on to the source, whose adapter is asked to stretch its blanking. -/
def State.onGive (s : State) (m : AdmMsg) : State :=
  match s.findRec m.key.toNat with
  | none => s
  | some r =>
    if s.recSrc r then s.takeGive r m.amount.toNat m.orig
    else s.sendBack r admGive m

/-- The boundary at which a give-back leaves: the first at least one Milestone after `F_TIME` (R211). -/
def State.giveDue (s : State) (fns : Nat) : Nat :=
  let p := s.msPeriod * 125000
  (fns + p - 1) / p + 1

/-- A give-back applies at this hub (R211, R219): `RSV` falls with the allotment, and grants that waited for it get their
boundary, once no other give-back is awaited on their output. -/
def State.applyGiven (s : State) (r amount fns : Nat) : State :=
  let n := s.giveDue fns
  let ru := s.recAllot r - amount
  let s := (s.recSet r 1 30 28 4).recSet r 2 31 16 ru
  let s := s.setImp fun i => { i with gives := i.gives.filter (·.1 != r) }
  let s := s.setChange { slot := r, due := n, ru := ru }
  let held := s.imp.changes.filter fun c => c.hold && !s.imp.gives.any fun g => s.recOut g.1 == s.recOut c.slot
  s.each held fun c s => (s.setChange { c with due := max n c.due, hold := false }).shapeAt c.slot c.ru (max n c.due + 1)

def State.onGiven (s : State) (m : AdmMsg) : State :=
  match s.findRec m.key.toNat with
  | none => s
  | some r => (s.applyGiven r m.amount.toNat (m.fSec.toNat * 1000000000 + m.fNs.toNat)).sendOn admGiven m

/-- An admission message is handled (R207, R208). -/
def State.handleAdm (s : State) (a : AdmIn) : State :=
  if a.code = admAdmit then s.onAdmit a.src a.msg
  else if a.code = admGrant then s.onGrant a.msg
  else if a.code = admRefuse then s.onRefuse a.msg
  else if a.code = admRelease then s.onRelease a.msg
  else if a.code = admRevoke then s.onRevoke a.msg
  else if a.code = admGive then s.onGive a.msg
  else if a.code = admGiven then s.onGiven a.msg
  else s

/-- Take a cell of a tunnel from the head of an adapter's FIFO, if it is there. -/
def State.takeFifo (s : State) (o tunnel : Nat) : State :=
  match tget [] o s.jn.fifo with
  | c :: rest => if c.tunnel = tunnel then s.setJn fun j => { j with fifo := tput [] o rest j.fifo } else s
  | [] => s

/-- An admission message arrives at J10; after the admission window it waits for the next Milestone (R189). -/
def State.admRx (s : State) (code : Nat) (src : Fin 2048) (m : AdmMsg) : State :=
  let s := s.takeFifo 10 0xFF0
  if s.imp.closed then s.setImp fun i => { i with deferred := i.deferred ++ [⟨code, src, m⟩] }
  else s.handleAdm ⟨code, src, m⟩

/-- ADMIT_RX (R207). -/
def execAdmitRx (src : Fin 2048) (m : AdmMsg) (s : State) : Result := .next (s.admRx admAdmit src m)
/-- GRANT_RX (R207). -/
def execGrantRx (src : Fin 2048) (m : AdmMsg) (s : State) : Result := .next (s.admRx admGrant src m)
/-- REFUSE_RX (R207). -/
def execRefuseRx (src : Fin 2048) (m : AdmMsg) (s : State) : Result := .next (s.admRx admRefuse src m)
/-- RELEASE_RX (R208). -/
def execReleaseRx (src : Fin 2048) (m : AdmMsg) (s : State) : Result := .next (s.admRx admRelease src m)
/-- REVOKE_RX (R208). -/
def execRevokeRx (src : Fin 2048) (m : AdmMsg) (s : State) : Result := .next (s.admRx admRevoke src m)
/-- GIVE_RX (R219). -/
def execGiveRx (src : Fin 2048) (m : AdmMsg) (s : State) : Result := .next (s.admRx admGive src m)
/-- GIVEN_RX (R211). -/
def execGivenRx (src : Fin 2048) (m : AdmMsg) (s : State) : Result := .next (s.admRx admGiven src m)

/-- ADMISSION_TIMEOUT (R207, R210): the record's entries are released; at the source the requester receives reason 9. -/
def execAdmissionTimeout (r : Fin 4096) (s : State) : Result :=
  match s.imp.waiting.find? (·.slot == r.val) with
  | none => .next s
  | some w => .next ((s.abandon w).answerRing w.ring admRefuse 9)

/-- ADMISSION_WINDOW_END (R189). -/
def execAdmissionWindowEnd (s : State) : Result :=
  .next ((s.setImp fun i => { i with closed := true }).each
    ((List.range 12).filter fun n => s.get (ENG_STATUS.STATE n) == 1 || s.get (ENG_STATUS.STATE n) == 2) fun n s => s.latch n 22)

/-! ### The request ring (R206, R222) -/

/-- A ring entry as a message; bytes 8 and 9 hold `TC_B6` and `FLAGS` (R222). -/
def State.ringMsg (s : State) (i : Nat) : Nat × AdmMsg :=
  let b := memBytes s.caseMem (0xE0000 + 16 * i) 16
  (beAt b 0 1,
    { reason := 0, tag := BitVec.ofNat 16 (beAt b 2 2), key := BitVec.ofNat 32 (beAt b 4 4), orig := Fin.ofNat 2048 s.hubId,
      rsv := BitVec.ofNat 16 (beAt b 10 2), ceil := BitVec.ofNat 16 (beAt b 12 2), amount := BitVec.ofNat 16 (beAt b 14 2),
      tcB6 := BitVec.ofNat 8 (beAt b 8 1), disp := (beAt b 9 1).testBit 0, afterGive := false, atHub := 0, fSec := 0, fNs := 0 })

/-- The ring entry CE_2 takes next, when it has the message code (R206). -/
def State.ringTake (s : State) (code : Nat) : Option (Nat × AdmMsg) :=
  let h := s.get IMP_RING.HEAD
  if s.imp.closed || h == s.get IMP_RING.TAIL || (s.ringMsg h).1 != code then none else some (h, (s.ringMsg h).2)

def State.ringNext (s : State) : State := s.put IMP_RING.HEAD ((s.get IMP_RING.HEAD + 1) % 256)

/-- RING_ADMIT (R206, R207). -/
def execRingAdmit (s : State) : Result :=
  match s.ringTake admAdmit with
  | none => .next s
  | some (i, m) => .next (s.ringNext.startAdmission (admRequest m true 0 (some i)) m)

/-- RING_RELEASE (R206, R208, R211). -/
def execRingRelease (s : State) : Result :=
  match s.ringTake admRelease with
  | none => .next s
  | some (i, m) => match s.findRec m.key.toNat with
    | none => .next s.ringNext
    | some r => .next (((s.ringNext.sendOn admRelease m).releaseRec r).answerRing (some i) admGrant 0)

/-- RING_GIVE (R206, R219). -/
def execRingGive (s : State) : Result :=
  match s.ringTake admGive with
  | none => .next s
  | some (i, m) => match s.findRec m.key.toNat with
    | none => .next s.ringNext
    | some _ => .next ((s.ringNext.onGive m).answerRing (some i) admGrant 0)

/-! ### Milestone work (R188, R189, R202, R203, R211 to R214) -/

/-- The demand snapshot of boundary `k` (R202). -/
def State.demandSnapshot (s : State) (k : Nat) : State :=
  let s := s.each (s.recs.filter fun r => s.recSrc r) fun r s =>
    let s := if s.recGet r 6 31 0 = k % 2 ^ 32 ∧ k ≠ 0 then s.recSet r 5 31 16 (s.recGet r 5 15 0) else s
    s.recSet r 7 31 16 (tget 0 r s.imp.peak)
  s.setImp fun i => { i with peak := [], window := [] }

/-- Changes due at boundary `k` apply (R211, R219). -/
def State.applyChanges (s : State) (k : Nat) : State :=
  let due := s.imp.changes.filter fun c => !c.hold && decide (c.due ≤ k)
  s.each due fun c s =>
    if c.drop then s.dropRec c.slot
    else
      let give := s.recState c.slot == 4
      let s := (s.recSet c.slot 3 31 16 c.ru).setImp fun i => { i with changes := i.changes.filter (·.slot != c.slot) }
      let st := s.recState c.slot
      let s := if st = 3 ∨ st = 4 then s.recSet c.slot 1 30 28 2 else s
      s.when give fun s => s.raise IMP_EVENT.GIVEBACK

/-- An allotment goes towards a target: growth is asked for at once, a shrink comes after `SHRINK_N` Milestones (R203). What the
record has been granted counts, placed or not. -/
def State.towards (s : State) (r target : Nat) : State :=
  let allot := s.grantedRu r
  let low := s.recGet r 7 15 8
  if allot < target then
    let s := s.recSet r 7 15 8 0
    s.startAdmission (admRequest (s.msgOf r 0 s.hubId 0 target) true 0 none) (s.msgOf r 0 s.hubId 0 target)
  else if target < allot then
    if max 1 (s.get IMP_CFG.SHRINK_N) ≤ low + 1 then (s.recSet r 7 15 8 0).shrinkRec r target
    else s.recSet r 7 15 8 (low + 1)
  else s.recSet r 7 15 8 0

/-- CE_2 takes a committed source record's target from `PEAK` and grows or shrinks its allotment (R203). -/
def State.updateAllot (s : State) (r : Nat) : State :=
  let peak := s.recGet r 7 31 16
  let h := 2 ^ s.get IMP_CFG.HEAD_SHIFT
  s.towards r (min (max (peak + (peak + h - 1) / h) (s.recRsv r)) (s.recCeil r))

/-- The opening estimate of a record, held between `RSV` and `CEIL` (R214). -/
def State.openEst (s : State) (r : Nat) : Nat := min (max (s.recGet r 3 15 0) (s.recRsv r)) (s.recCeil r)

/-- In first use a committed source record takes its opening estimate at once (R214). -/
def State.takeOpenEst (s : State) (r : Nat) : State :=
  let est := s.openEst r
  if est < s.grantedRu r then s.shrinkRec r est
  else if s.grantedRu r < est then
    s.startAdmission (admRequest (s.msgOf r 0 s.hubId 0 est) true 0 none) (s.msgOf r 0 s.hubId 0 est)
  else s

/-- The committed source records. -/
def State.sources (s : State) : List Nat := s.recs.filter fun r => s.recSrc r && s.recState r == 2

/-- R203 over all committed source records that are not display tunnels; in first use R214 over all of them. -/
def State.updateAllots (s : State) : State :=
  if s.on IMP_STATUS.FIRST_USE then s.each s.sources fun r s => s.takeOpenEst r
  else if s.get IMP_STATUS.FIRST_LEFT = 0 then s.each (s.sources.filter fun r => !s.recDisp r) fun r s => s.updateAllot r
  else s

/-- Tunnels whose route has moved to another output, as a member of their group failed or returned, hold their entries there (R176,
R213). -/
def State.moveTunnels (s : State) : State :=
  s.each s.recs fun r s =>
    if 4 ≤ s.recOut r then s
    else match s.tunnelDest (s.recKey r) ((tget none r s.imp.origs).getD s.hubId) with
      | .out o => if o = s.recOut r then s else (s.recSet r 1 19 16 o)
      | _ => s

/-- A whole reservation is shed (R213): its source receives REVOKE with code 11. -/
def State.revokeRec (s : State) (r : Nat) : State :=
  let m := s.msgOf r 0 s.hubId 11 0
  let s := if s.recSrc r then (s.sendOn admRelease { m with reason := 0 }).revokeRing r 11 else s.sendBack r admRevoke m
  (s.releaseRec r).recSet r 1 30 28 6

/-- One output sheds until its commitment fits (R213). -/
def State.shedOn (o : Nat) : Nat → State → State
  | 0, s => s
  | n + 1, s =>
    let excess := s.commitment o + s.get IMP_CFG.GUARD - s.capacity o
    if excess = 0 then s
    else
      let rs := (s.recsOn o).filter fun r => s.recState r == 2
      let whole := (s.recsOn o).filter fun r =>
        decide (2 ≤ s.recState r) && !s.imp.changes.any fun c => c.slot == r && c.drop
      let want := ruFor (s.slotFactor o) excess
      let above := rs.filter fun r => !s.recDisp r && decide (s.recRsv r < s.heldRu r)
      let disp := rs.filter fun r => s.recDisp r && decide (s.recGet r 4 31 16 < s.heldRu r)
      match bestOf (fun r => 7 - s.recTc r) above, bestOf (fun r => s.heldRu r) disp,
          bestOf (fun r => (7 - s.recTc r) * 65536 + (4096 - s.imp.order.findIdx (· == r))) whole with
      | some r, _, _ => State.shedOn o n (s.shrinkRec r (max (s.recRsv r) (s.heldRu r - want)))
      | none, some r, _ => State.shedOn o n (s.shrinkRec r (max (s.recGet r 4 31 16) (s.heldRu r - want)))
      | none, none, some r => State.shedOn o n (s.revokeRec r)
      | none, none, none => s

/-- SHED (R213) over every output. -/
def State.shed (s : State) : State :=
  s.each (List.range 13) fun o s =>
    if s.capacity o < s.commitment o + s.get IMP_CFG.GUARD && s.recsOn o != [] then
      (State.shedOn o (2 * s.recs.length) s).raise IMP_EVENT.SHED
    else s

/-- CE_2 asks for a raise while TC6 is reserved and the planning cycle exceeds 2,750 ps (R212). -/
def State.wantRaise (s : State) : State :=
  if 2750 < s.get PACE_PLAN.PLAN_PS && s.recs.any fun r => s.recTc r == 6 && decide (s.recState r < 6) then
    s.setImp fun i => { i with raiseReq := true } else s

/-- The first 16 Milestones after a reset pass (R214, R215). -/
def State.firstUse (s : State) : State :=
  let n := s.get IMP_STATUS.FIRST_LEFT
  if n = 0 then s
  else if n = 1 then
    (((s.put IMP_STATUS.FIRST_LEFT 0).put IMP_STATUS.FIRST_USE 0).put IMP_STATUS.HOLD_HIST 0).raise IMP_EVENT.FIRST_DONE
  else s.put IMP_STATUS.FIRST_LEFT (n - 1)

/-- What Imposition does at boundary `k` when it is taken (R189, R193, R202, R203, R211 to R214). -/
def State.impBoundary (s : State) (k : Nat) : State :=
  let s := s.setImp fun i => { i with flipDue := (List.range 13).map fun o => (o, s.bankComplete o) }
  let s := (s.demandSnapshot k).applyChanges k
  let s := s.firstUse
  let s := s.setImp fun i => { i with waiting := i.waiting.map fun w => { w with age := w.age + 1 }, closed := false }
  let def_ := s.imp.deferred
  let s := (s.setImp fun i => { i with deferred := [] }).each def_ fun a s => s.handleAdm a
  let s := s.updateAllots.moveTunnels
  (s.shed.wantRaise).refreshCaps

end Sys2Proof.Machine
end

