-- ==== Sys2Proof/Machine/DisplayPath.lean ====
section
/-! DEFINITION. The commands of the display adapters (chapter 06): capture, Platen, give-back, self-refresh, hot-plug and
AUX. -/

namespace Sys2Proof.Machine

/-! ### Configuration (R224, R225, R229, R243) -/

/-- The adapter is held in block reset or absent from the class. -/
def State.dispHeld (s : State) (d : Nat) : Bool := s.outHeld (4 + d) || !s.hasJ (4 + d)

/-- DA1 names the dock port that DA0 names too: DA0 takes it (R225). -/
def State.capClash (s : State) (d : Nat) : Bool := d == 1 && s.capSrc 1 != 0 && s.capSrc 0 == s.capSrc 1

/-- The capture's configuration is invalid (R224, R225, R229). -/
def State.capBad (s : State) (d : Nat) : Bool :=
  let w := s.get (DA_CAP_EXP_H.EXP_W d)
  let h := s.get (DA_CAP_EXP_V.EXP_H d)
  decide (w < 640) || decide (3840 < w) || decide (2160 < h) || s.get (DA_CAP_TUN.TUNNEL d) == 0xFFF
    || s.capClash d

/-- The capture is on, in a class that has display capture (R4): HPD is asserted to the video source (R232). -/
def State.capOn (s : State) (d : Nat) : Bool := s.on (DA_CFG.CAP_EN d) && s.hasCapture && !s.capBad d && !s.dispHeld d

/-- The HPD output follows the capture; a change on a dock port goes out as an Attention (R225, R232, R480). -/
def State.driveHpd (s : State) (d : Nat) : State :=
  if (s.disp d).hpdOut == s.capOn d then s
  else
    let on := s.capOn d
    ((s.setDisp d fun x => { x with hpdOut := on }).emit (.hpd d on)).attention d false

/-- `VBLANK_MIN` and `VBLANK_MAX` in force (R238). -/
def State.vbMin (s : State) (d : Nat) : Nat :=
  let v := s.get (DA_PL_V.VS_START d) + s.get (DA_PL_V.VS_WIDTH d)
  if s.get (DA_PL_VB.VBLANK_MIN d) ≤ v then v + 1 else s.get (DA_PL_VB.VBLANK_MIN d)
def State.vbMax (s : State) (d : Nat) : Nat := max (s.vbMin d) (s.get (DA_PL_VB.VBLANK_MAX d))

/-- The Platen's configuration is invalid (R224). -/
def State.plBad (s : State) (d : Nat) : Bool :=
  let w := s.get (DA_PL_H.PL_H_ACTIVE d)
  decide (w < 640) || decide (3840 < w) || decide (2160 < s.get (DA_PL_V.PL_V_ACTIVE d))
    || decide (600000 < s.get (DA_PL_CLK.PCLK_KHZ d)) || decide (4095 < s.get (DA_PL_V.PL_V_ACTIVE d) + s.vbMax d)

/-- Platen states (R243). -/
def plOff : Nat := 0
def plTrain : Nat := 1
def plFreerun : Nat := 2
def plRaster : Nat := 3
def plPsr : Nat := 4

def State.plState (s : State) (d : Nat) : Nat := s.get (DA_PL_STATUS.PL_STATE d)

/-- The Platen stops: buffer and raster position clear (R243). -/
def State.platenOff (s : State) (d : Nat) : State :=
  let s := (((s.put (DA_PL_STATUS.PL_STATE d) plOff).put (DA_PL_STATUS.PL_LINE d) 0).put (DA_PL_STATUS.IN_BLANK d) 0)
  s.setDisp d fun x =>
    { x with buf := [], rxPlace := none, line0At := none, synced := false, bg := true, allStatic := false, tries := 0,
             scanning := none }

/-- OFF is left for TRAIN when the Platen is enabled, valid and sees HPD (R243). -/
def State.platenTry (s : State) (d : Nat) : State :=
  if s.plState d == plOff && s.on (DA_CFG.PL_EN d) && !s.plBad d && s.on (DA_PL_STATUS.HPD d) && !s.dispHeld d
  then (s.put (DA_PL_STATUS.PL_STATE d) plTrain).setDisp d fun x => { x with tries := 0 }
  else s

/-- A lock-up reaches a display adapter (R224, R225, R229, R243). -/
def State.displayLockup (s : State) (d : Nat) : State :=
  let bad := s.hasJ (4 + d) && ((s.hasCapture && (s.capClash d || (s.on (DA_CFG.CAP_EN d) && s.capBad d)))
    || (s.on (DA_CFG.PL_EN d) && s.plBad d))
  let s := s.when bad fun s => s.raise (DA_EVENT.CFG_BAD d)
  let s := if s.on (DA_CFG.PL_EN d) && !s.plBad d then s else s.platenOff d
  ((s.writeFloors d).driveHpd d).platenTry d

/-! ### Descriptors and cells (R226 to R230, R252) -/

/-- Bits per component of a code. -/
def bpcOf (c : Nat) : Nat := if c = 0 then 6 else if c = 1 then 8 else 10

/-- Widen a component of b bits to 10 (R226). -/
def widen (b v : Nat) : Nat :=
  if b = 6 then v % 64 * 16 + v % 64 / 4 else if b = 8 then v % 256 * 4 + v % 256 / 64 else v % 1024

def widenPixel (b : Nat) (p : BitVec 30) : Nat :=
  let n := p.toNat
  widen b (bits n 29 20) * 2 ^ 20 + widen b (bits n 19 10) * 2 ^ 10 + widen b (bits n 9 0)

/-- Narrow a 30-bit pixel to `OUT_BPC` bits per component by truncation (R226). -/
def narrowPixel (b n : Nat) : BitVec 30 :=
  let cut := fun v => v / 2 ^ (10 - b)
  BitVec.ofNat 30 (cut (bits n 29 20) * 2 ^ 20 + cut (bits n 19 10) * 2 ^ 10 + cut (bits n 9 0))

/-- A line descriptor (R228). -/
def descriptor (dtype frame line : Nat) (static last change skipped : Bool) (width : Nat) : Nat :=
  let d := dtype * 2 ^ 60 + frame % 256 * 2 ^ 52 + line % 4096 * 2 ^ 40 + static.toNat * 2 ^ 39 + last.toNat * 2 ^ 38
    + change.toNat * 2 ^ 37 + skipped.toNat * 2 ^ 36 + width % 4096 * 2 ^ 24
  d + crc8 (beBytes 7 (d / 256))

/-- The payload bytes of a line (R227). -/
def lineBytes (desc : Nat) (px : List Nat) : List Byte :=
  px.zipIdx.flatMap fun (v, i) => beBytes 4 (v + (if i < 32 then bits desc (63 - 2 * i) (62 - 2 * i) * 2 ^ 30 else 0))

/-- The header of a capture's cells (R229). -/
def State.capHdr (s : State) (d : Nat) : CellHdr :=
  { destHub := s.get (DA_CAP_TUN.DEST_HUB d), destAdp := s.get (DA_CAP_TUN.DEST_ADP d), tunnel := s.get (DA_CAP_TUN.TUNNEL d),
    tc := 5, pos := 3, flow := s.get (DA_CAP_AUX.CAP_FLOW d) }

/-- A frame mark (R230). -/
def State.sendMark (s : State) (d : Nat) (static change : Bool) : State :=
  let x := s.disp d
  s.present (4 + d) (s.ownCell (s.capHdr d)
    (beBytes 8 (descriptor 2 x.capFrame 0 static false change x.skipOwed (s.get (DA_CAP_EXP_H.EXP_W d)))))

/-- Cells waiting in the capture's store (R235). -/
def State.storedCells (s : State) (d : Nat) : Nat :=
  (tget [] (4 + d) s.jn.incoming).length + (tget [] (4 + d) s.jn.held).length

/-- Cells of a line of `w` pixels (R229). -/
def lineCells (w : Nat) : Nat := (4 * w + 63) / 64

/-- A line is formed into cells (R226 to R229, R234). -/
def State.formLine (s : State) (d line : Nat) (px : List (BitVec 30)) : State :=
  let x := s.disp d
  let last := line + 1 == s.get (DA_CAP_EXP_V.EXP_H d)
  let desc := descriptor 1 x.capFrame line x.capStatic last x.capChange x.capSkip px.length
  let b := bpcOf (s.get (DA_CAP_EXP_H.EXP_BPC d))
  s.presentAll (4 + d) (Cell.unit s.hubId (s.capHdr d) (lineBytes desc (px.map (widenPixel b))))

/-- A line that arrives is formed into cells, or discarded whole when the store of 16 lines cannot take all of it (R235). -/
def State.sendLine (s : State) (d line : Nat) (px : List (BitVec 30)) : State :=
  if 16 * lineCells px.length < s.storedCells d + lineCells px.length then s.inc (DA_CAP_CNT.CAP_DROP d)
  else s.formLine d line px

/-- A display control message of the Platen (R252). -/
def State.sendDmsg (s : State) (d msg : Nat) : State :=
  let h : CellHdr := ⟨s.get (DA_PL_TUN.PL_RET_HUB d), s.get (DA_PL_TUN.PL_RET_ADP d), 0xFFF, 7, 3, 0⟩
  s.present (4 + d) (s.ownCell h
    (beBytes 1 msg ++ [0] ++ beBytes 2 (s.get (DA_PL_TUN.PL_TUNNEL d)) ++ beBytes 6 s.tm.sec ++ beBytes 4 s.tm.ns ++ [0, 0]))

/-! ### Capture (R232 to R236, R244 to R250) -/

/-- Nominal rate: L × n × 16.384 µs in RU, rounded up (R236). -/
def nomRu (l n : Nat) : Nat := (l * n * 16384 + 999999999) / 1000000000

/-- A give-back asked of this capture's tunnel is answered: `F_TIME` is now, the shaper lowers at once (R219, R245); `ORIG` is the
hub that asked (R208). -/
def State.answerGive (s : State) (d : Nat) : State :=
  match s.capRec d with
  | none => s
  | some r =>
    let gives := s.imp.gives.filter (·.1 == r)
    let amount := (gives.map (·.2.1)).foldl (· + ·) 0
    if amount = 0 then s
    else
      let fns := s.tm.sec * 1000000000 + s.tm.ns
      let orig := (gives.map (·.2.2)).headD s.hubId
      let m := { s.msgOf r 0 orig 0 amount with fSec := BitVec.ofNat 48 s.tm.sec, fNs := BitVec.ofNat 32 s.tm.ns }
      let s := (s.applyGiven r amount fns).recSet r 5 31 16 (s.recAllot r - amount)
      s.sendOn admGiven m

/-- A give-back waits for this capture's next frame. -/
def State.giveWaits (s : State) (d : Nat) : Bool :=
  match s.capRec d with
  | some r => s.imp.gives.any (·.1 == r)
  | none => false

/-- The shaper of the capture's tunnel carries its allotment again (R250). -/
def State.shaperRestored (s : State) (d : Nat) : Bool :=
  match s.capRec d with
  | some r => s.recShape r == s.recAllot r
  | none => true

/-- CE_2 ends the lending (R220): the entries return at the next boundary, the shaper one Milestone later. -/
def State.endLending (s : State) (d : Nat) : State :=
  let s := s.setDisp d fun x => { x with lending := 2 }
  match s.capRec d with
  | some r => (s.recSet r 1 30 28 2).shapeAt r (s.recAllot r) (s.imp.msNum + 2)
  | none => s

/-- The frame is static (R247). -/
def State.frameStatic (s : State) (d : Nat) (crc : BitVec 32) : Bool :=
  if s.on (DA_CFG.STATIC_MODE d) then s.on (DA_CFG.CAP_PSR d) && (s.disp d).srcPsr
  else
    let n := max 2 (s.get (DA_CFG.STATIC_N d))
    let past := (s.disp d).crcs.take (n - 1)
    past.length == n - 1 && past.all (· == crc)

/-- The frame is forwarded: it takes the next frame number. -/
def State.forwardFrame (s : State) (d : Nat) (static change : Bool) : State :=
  s.setDisp d fun x =>
    { x with capMode := 1, capFrame := (x.capFrame + 1) % 256, capStatic := static, capChange := change,
             capSkip := x.skipOwed, skipOwed := false, lastStart := some s.tm.tick }

/-- The frame is replaced by a frame mark (R230, R249, R250). -/
def State.markFrame (s : State) (d : Nat) (change : Bool) : State :=
  let s := (s.setDisp d fun x => { x with capMode := 2, capFrame := (x.capFrame + 1) % 256 }).sendMark d (!change) change
  s.setDisp d fun x => { x with skipOwed := true }

/-- The frame is not forwarded (R245, R250). -/
def State.skipFrame (s : State) (d : Nat) : State :=
  (s.inc (DA_CAP_CNT.FRAME_SKIP d)).setDisp d fun x => { x with capMode := 0, skipOwed := true }

/-- Line 0 comes at least V_G − 1 line times after that of the last forwarded frame (R245). -/
def State.spaced (s : State) (d : Nat) : Bool :=
  let vg := s.get (DA_CAP_RATE.V_G d)
  match (s.disp d).lastStart with
  | none => true
  | some t => vg == 0 || decide ((vg - 1) * 1000000000 ≤ s.elapsed t * s.get (DA_CAP_LINE.M_LRATE d))

/-- A frame with the expected timing (R236, R244 to R250). -/
def State.goodSource (s : State) (d : Nat) (crc : BitVec 32) : State :=
  let static := s.frameStatic d crc
  let wasStatic := (s.disp d).capStatic
  let s := s.setDisp d fun x => { x with crcs := (crc :: x.crcs).take 15 }
  let x := s.disp d
  if x.lending = 1 then
    if static then s.markFrame d false
    else ((s.endLending d).markFrame d true).inc (DA_CAP_CNT.FRAME_SKIP d)
  else if x.lending = 2 ∧ !s.shaperRestored d then (s.markFrame d true).inc (DA_CAP_CNT.FRAME_SKIP d)
  else
    let change := x.lending == 2 || (wasStatic && !static)
    let s := s.setDisp d fun x => { x with lending := 0 }
    if s.giveWaits d then
      ((s.setStretch d).answerGive d).forwardFrame d static change
    else
      let s := s.setStretch d
      if s.spaced d then s.forwardFrame d static change else s.skipFrame d

/-- The source's picture differs from the expected one (R233). -/
def State.modeDiffers (s : State) (d w h bpc : Nat) : Bool :=
  decide (w ≠ s.get (DA_CAP_EXP_H.EXP_W d) ∨ h ≠ s.get (DA_CAP_EXP_V.EXP_H d) ∨
    bpcOf bpc ≠ bpcOf (s.get (DA_CAP_EXP_H.EXP_BPC d)))

/-- The source's vertical total and line rate are measured, and what follows from them (R236). -/
def State.measure (s : State) (d w vnom lrate : Nat) : State :=
  let n := lineCells w
  let s := (s.put (DA_CAP_MEAS.M_VTOT d) vnom).put (DA_CAP_LINE.M_LRATE d) lrate
  (s.put (DA_CAP_LINE.M_CELLS d) n).put (DA_CAP_RATE.NOM_RU d) (min 0xFFFF (nomRu lrate n))

/-- The frame's timing is not the expected one (R233): nothing of it is forwarded. -/
def State.wrongSource (s : State) (d : Nat) (crc : BitVec 32) : State :=
  (s.raise (DA_EVENT.MODE_MISMATCH d)).setDisp d fun x =>
    { x with capMode := 3, skipOwed := true, crcs := (crc :: x.crcs).take 15 }

/-- CAPTURE_FRAME_START (R223, R233, R236, R244 to R250): a source frame starts with the measured width, height, bits per
component, nominal vertical total, line rate, the CRC-32C of its pixel data, and the number of secondary data packets since the
frame before. -/
def execCaptureFrameStart (d : Fin 2) (w h vnom : BitVec 12) (bpc : Fin 3) (lrate : BitVec 20) (crc : BitVec 32)
    (sdps : BitVec 8) (s : State) : Result :=
  if !s.capOn d then .next s
  else
    let t := s.addSat (DA_CAP_CNT.SDP_DROP d) sdps.toNat
    let t := (t.put (DA_CAP_MEAS.M_W d) w.toNat).put (DA_CAP_MEAS.M_BPC d) bpc
    let t := (t.measure d w.toNat vnom.toNat lrate.toNat).writeFloors d
    let t := t.setDisp d fun x => { x with kept := [] }
    if s.modeDiffers d w.toNat h.toNat bpc then .next (t.wrongSource d crc)
    else .next (t.goodSource d crc)

/-- CAPTURE_LINE (R229, R234, R235): an active line arrives, its components right-aligned in 10 bits each. -/
def execCaptureLine (d : Fin 2) (line : BitVec 12) (px : List (BitVec 30)) (s : State) : Result :=
  .next (if !s.capOn d || px.length != s.get (DA_CAP_EXP_H.EXP_W d) then s
    else if (s.disp d).capMode = 3 then s
    else
      let t := s.setDisp d fun x => { x with kept := x.kept ++ [(line.toNat, px)] }
      if (s.disp d).capMode = 1 then t.sendLine d line.toNat px else t)

/-- SOURCE_PSR_CHANGE (R247): with `STATIC_MODE` 1 and `CAP_PSR` the last frame is repeated from the store as static, or as a
frame mark while the tunnel is lent. -/
def execSourcePsrChange (d : Fin 2) (on : Bool) (s : State) : Result :=
  let kept := (s.disp d).kept
  let s := s.setDisp d fun x => { x with srcPsr := on }
  .next (if !(on && s.on (DA_CFG.STATIC_MODE d) && s.on (DA_CFG.CAP_PSR d) && s.capOn d) then s
    else if (s.disp d).capMode = 3 then s
    else if (s.disp d).lending = 1 then s.markFrame d false
    else
      let s := (s.forwardFrame d true false).setDisp d fun x => { x with kept := kept, capMode := 0 }
      s.each kept fun (l, px) s => s.formLine d l px)

/-- CAPTURE_LINK_CHANGE (R223). -/
def execCaptureLinkChange (d : Fin 2) (up : Bool) (lanes : Fin 3) (rate : Fin 8) (s : State) : Result :=
  let s := ((s.put (DA_CAP_MEAS.LINK_UP d) up.toNat).put (DA_CAP_MEAS.M_LANES d) lanes).put (DA_CAP_MEAS.M_RATE d) rate
  .next (s.raise (DA_EVENT.CAP_LINK d))

/-- A byte of a capture's DPCD (R223, R246): the range from `AS_MIN_HZ` to the maximum in force and PSR version 1 as advertised, what the
source has written, or `open_` (notes/assumptions/2.md). -/
def State.dpcdByte (s : State) (d a : Nat) (open_ : Byte) : Byte :=
  let x := s.disp d
  match Config.dpcdAdvert a (s.get (DA_CAP_EXP_V.AS_MIN_HZ d)) (x.asMax.getD (s.get (DA_CAP_EXP_V.AS_MAX_HZ d)))
      (s.on (DA_CFG.CAP_PSR d)) with
  | some b => b
  | none => if x.dpcd.any fun e => e.1 == a then tget 0 a x.dpcd else open_

/-- CAPTURE_AUX_REQUEST (R223, R232, R246): a native request acts on the capture's DPCD, an I2C one on its EDID; the answer to a
read is sent. A DPCD byte that neither the spec nor the source gives is a free value (notes/assumptions/2.md). -/
def execCaptureAuxRequest (d : Fin 2) (native write : Bool) (addr : BitVec 20) (lenM1 : Fin 16) (data : List Byte)
    (s : State) : Result :=
  .next (if !s.capOn d then s
    else if native then
      if write then
        (s.setDisp d fun x => { x with dpcd := memWrite x.dpcd addr.toNat (data.take (lenM1.val + 1)) }).emit (.auxReply d [])
      else
        let bs := (List.range (lenM1.val + 1)).map fun i =>
          s.dpcdByte d (addr.toNat + i) (BitVec.ofNat 8 (s.free / 2 ^ (8 * i)))
        s.usedFree.emit (.auxReply d bs)
    else if write then
      (s.setDisp d fun x => { x with edidPtr := (data.headD 0).toNat }).emit (.auxReply d [])
    else
      let n := lenM1.val + 1
      let p := (s.disp d).edidPtr
      let bs := (List.range n).map fun i => tget 0 (0xE1000 + 0x100 * d.val + (p + i) % 256) s.caseMem
      (s.setDisp d fun x => { x with edidPtr := (p + n) % 256 }).emit (.auxReply d bs))

/-! ### Messages to a capture (R249, R252 to R254) -/

/-- PSR_ENTERED_RX (R220, R249): the lending starts in this Milestone. -/
def execPsrEnteredRx (d : Fin 2) (tunnel : BitVec 12) (s : State) : Result :=
  let t := s.takeFifo (4 + d.val) 0xFFF
  .next (if tunnel.toNat ≠ s.get (DA_CAP_TUN.TUNNEL d) ∨ (s.disp d).lending ≠ 0 then t
    else
      let t := t.setDisp d fun x => { x with lending := 1 }
      match s.capRec d with
      | some r => (t.recSet r 1 30 28 5).shapeAt r (t.recGet r 4 15 0) (s.imp.msNum + 1)
      | none => t)

/-- PSR_EXITED_RX (R252): taken in; no rule gives it a further effect. -/
def execPsrExitedRx (d : Fin 2) (_tunnel : BitVec 12) (s : State) : Result := .next (s.takeFifo (4 + d.val) 0xFFF)

/-- HPD_LOST_RX (R254). -/
def execHpdLostRx (d : Fin 2) (_tunnel : BitVec 12) (s : State) : Result :=
  .next ((s.takeFifo (4 + d.val) 0xFFF).raise (DA_EVENT.FAR_HPD d))

/-- HPD_FOUND_RX (R254): no reservation changes. -/
def execHpdFoundRx (d : Fin 2) (_tunnel : BitVec 12) (s : State) : Result := .next (s.takeFifo (4 + d.val) 0xFFF)

/-! ### Platen (R231, R237 to R241, R248, R250, R251) -/

def State.plPlace (s : State) (d l : Nat) : Option PlLine := tget none (l % 16) (s.disp d).buf
def State.setPlace (s : State) (d l : Nat) (p : Option PlLine) : State :=
  s.setDisp d fun x => { x with buf := tput none (l % 16) p x.buf }

/-- The first half of the descriptor, from the first cell of a line: bits 63..32 (R227, R228). -/
def firstHalf (data : List Byte) : Nat :=
  (List.range 16).foldl (fun n i => n * 4 + (beAt data (4 * i) 1) / 64) 0

/-- The pixels of a whole line of background (R239). -/
def State.background (s : State) (d : Nat) : List (BitVec 30) :=
  List.replicate (s.get (DA_PL_H.PL_H_ACTIVE d)) (narrowPixel (bpcOf (s.get (DA_CFG.OUT_BPC d))) (s.get (DA_PL_BG.BG d)))

/-- The pixels of received data. -/
def State.pixels (s : State) (d : Nat) (data : List Byte) : List (BitVec 30) :=
  (List.range (data.length / 4)).map fun i => narrowPixel (bpcOf (s.get (DA_CFG.OUT_BPC d))) (beAt data (4 * i) 4)

/-- Bytes of a whole line. -/
def State.wholeLine (s : State) (d : Nat) : Nat := 4 * s.get (DA_PL_H.PL_H_ACTIVE d)

/-- A line slot ends with what has come of its line, and background after it (R239): a line cut short is an underrun. -/
def State.scanned (s : State) (d : Nat) (data : List Byte) (static : Bool) : State :=
  let short := decide (data.length < s.wholeLine d)
  let s := s.emit (.scan d (s.pixels d data ++ (s.background d).drop (data.length / 4)))
  let s := s.setDisp d fun x => { x with scanning := none, allStatic := x.allStatic && static && !short }
  s.when short fun s => (s.inc (DA_PL_CNT.UNDERRUN d)).raise (DA_EVENT.UNDERRUN d)

/-- The scan of a line that was still being received ends. -/
def State.endScan (s : State) (d : Nat) : State :=
  match (s.disp d).scanning with
  | none => s
  | some p => match s.plPlace d p with
    | some l => s.scanned d l.data l.static
    | none => s.scanned d [] false

/-- The line that has begun is discarded (R231, R237). -/
def State.dropLine (s : State) (d : Nat) : State := s.setDisp d fun x => { x with rxPlace := none }

/-- The line in a place has not been scanned, and its time has not passed (R237). -/
def State.stillDue (s : State) (d : Nat) (l : PlLine) : Bool :=
  let off := (l.frame + 256 - s.get (DA_PL_STATUS.PL_FRAME d)) % 256
  let past := off == 0 && (s.on (DA_PL_STATUS.IN_BLANK d) || (s.disp d).bg || decide (l.line ≤ s.get (DA_PL_STATUS.PL_LINE d)))
  !l.used && decide (off ≤ 127) && !past

/-- The new line takes its place (R237). -/
def State.takePlace (s : State) (d frame line : Nat) (static : Bool) (c : Cell) : State :=
  let s := s.when ((s.disp d).scanning == some (line % 16)) fun s => s.endScan d
  match s.plPlace d line with
  | some old =>
    if s.stillDue d old then (s.inc (DA_PL_CNT.OVERFLOW d)).dropLine d
    else (s.setPlace d line (some ⟨frame, line, static, c.payload, 1, false, false⟩)).setDisp d fun x =>
      { x with rxPlace := some (line % 16), line0At := if line = 0 then some x.slots else x.line0At }
  | none =>
    (s.setPlace d line (some ⟨frame, line, static, c.payload, 1, false, false⟩)).setDisp d fun x =>
      { x with rxPlace := some (line % 16), line0At := if line = 0 then some x.slots else x.line0At }

/-- A blanking line slot (R238): vertical sync in the slots from b = `VS_START` on, at the level that `VS_POL` gives. -/
def State.blankSlot (s : State) (d b : Nat) : State :=
  let v := s.get (DA_PL_V.VS_START d)
  let sync := decide (v ≤ b ∧ b < v + s.get (DA_PL_V.VS_WIDTH d))
  (s.put (DA_PL_STATUS.PL_LINE d) b).emit (.blankLine d (sync != s.on (DA_PL_V.VS_POL d)))

/-- Vertical blanking begins at b = 0: with the MSA timing-ignore bit and the Adaptive-Sync packet on DisplayPort, with neither on
eDP (R238, R240). -/
def State.enterBlank (s : State) (d : Nat) : State :=
  let dp := !s.on (DA_CFG.PL_EDP d)
  let s := ((s.put (DA_PL_STATUS.IN_BLANK d) 1).blankSlot d 0).emit (.msa d dp)
  s.when dp fun s => s.emit (.sdp d 0 (s.vbMin d) (s.vbMax d))

/-- The Platen leaves PSR on line 0 of a frame that is not static (R250). -/
def State.psrExit (s : State) (d : Nat) : State :=
  let s := (s.put (DA_PL_STATUS.PL_STATE d) plRaster).enterBlank d
  let s := s.setDisp d fun x => { x with synced := false, buf := [], bg := false }
  ((s.emit (.sdp d 2 0 0)).raise (DA_EVENT.PSR_EXIT d)).sendDmsg d 2

/-- The first cell of a line arrives (R237, R241, R250). -/
def State.lineStart (s : State) (d : Nat) (c : Cell) : State :=
  let h := firstHalf c.data
  let frame := bits h 27 20
  let line := bits h 19 8
  let static := h.testBit 7
  let st := s.plState d
  if st = plPsr then
    if line = 0 ∧ !static then
      let s := ((s.psrExit d).put (DA_PL_STATUS.PL_FRAME d) ((frame + 255) % 256)).setDisp d fun x => { x with synced := true }
      s.takePlace d frame line static c
    else s.dropLine d
  else if st = plFreerun ∨ !(s.disp d).synced then
    if line = 0 then
      let s := (s.put (DA_PL_STATUS.PL_STATE d) plRaster).put (DA_PL_STATUS.PL_FRAME d) ((frame + 255) % 256)
      (s.setDisp d fun x => { x with synced := true, buf := [] }).takePlace d frame line static c
    else s.dropLine d
  else
    let off := (frame + 256 - s.get (DA_PL_STATUS.PL_FRAME d)) % 256
    if off = 0 then
      if s.on (DA_PL_STATUS.IN_BLANK d) || (s.disp d).bg || decide (line ≤ s.get (DA_PL_STATUS.PL_LINE d)) then
        (s.inc (DA_PL_CNT.LATE_LINE d)).dropLine d
      else s.takePlace d frame line static c
    else if off ≤ 127 then s.takePlace d frame line static c
    else (s.inc (DA_PL_CNT2.STALE d)).dropLine d

/-- The descriptor of a line from its first two cells (R227). -/
def wholeDescriptor (data : List Byte) : Nat :=
  (List.range 32).foldl (fun n i => n * 4 + (beAt data (4 * i) 1) / 64) 0

/-- A descriptor is good: CRC and width (R228, R231). -/
def State.goodDescriptor (s : State) (d desc : Nat) : Bool :=
  crc8 (beBytes 7 (desc / 256)) == desc % 256 && bits desc 35 24 == s.get (DA_PL_H.PL_H_ACTIVE d)

/-- The line in place `p` has grown: a scan that follows its arrival ends once the line is whole, or gone (R231, R239). -/
def State.scanOn (s : State) (d p : Nat) : State :=
  if (s.disp d).scanning != some p then s
  else match s.plPlace d p with
    | some l => if l.data.length < s.wholeLine d then s else s.endScan d
    | none => s.endScan d

/-- A further cell of the line in progress; the second one completes the descriptor (R231). -/
def State.lineMore (s : State) (d : Nat) (c : Cell) : State :=
  match (s.disp d).rxPlace with
  | none => s
  | some p => match s.plPlace d p with
    | none => s.dropLine d
    | some l =>
      let l := { l with data := l.data ++ c.payload, cells := l.cells + 1 }
      let s := s.when (c.pos == 2) fun s => s.dropLine d
      if l.cells = 2 then
        if s.goodDescriptor d (wholeDescriptor l.data) then (s.setPlace d p (some { l with good := true })).scanOn d p
        else
          let s := s.setDisp d fun x => { x with line0At := if l.line = 0 then none else x.line0At }
          (((s.setPlace d p none).inc (DA_PL_CNT2.DESC_ERR d)).dropLine d).scanOn d p
      else (s.setPlace d p (some l)).scanOn d p

/-- PLATEN_CELL_RX (R231, R237, R241, R250 to R253): the given cell, or with `none` the oldest cell of the adapter's FIFO. -/
def execPlatenCellRx (d : Fin 2) (c : Option Cell) (s : State) : Result :=
  let got : Option (Cell × State) := match c, tget [] (4 + d.val) s.jn.fifo with
    | some c, _ => some (c, s)
    | none, c :: rest => some (c, s.setJn fun j => { j with fifo := tput [] (4 + d.val) rest j.fifo })
    | none, [] => none
  match got with
  | none => .next s
  | some (c, s') =>
    -- control messages are the capture's (R252)
    if c.tc = 7 ∧ c.tunnel = 0xFFF then .next s
    else if c.tunnel ≠ s'.get (DA_PL_TUN.PL_TUNNEL d) ∨ s'.plState d ≤ plTrain then
      .next (s'.inc (DA_PL_CNT2.FOREIGN d))
    else if c.pos = 3 then
      let desc := beAt c.data 0 8
      .next (if bits desc 63 60 = 2 ∧ crc8 (beBytes 7 (desc / 256)) = desc % 256 then s'
        else s'.inc (DA_PL_CNT2.DESC_ERR d))
    else if c.pos = 1 then .next (s'.lineStart d c)
    else .next (s'.lineMore d c)

/-- Active line 0 starts in this slot with blanking count `b`: 1 under the first condition of R238, 2 under the second. -/
def State.frameStarts (s : State) (d b : Nat) : Option Nat :=
  let x := s.disp d
  let ready := match x.line0At with
    | some t => decide (s.vbMin d ≤ b) && decide (s.get (DA_PL_TUN.START_LAG d) ≤ x.slots - t)
    | none => false
  if s.plState d == plRaster && ready then some 1
  else if s.vbMax d ≤ b then some 2
  else none

/-- Active slot `k` (R239): the line is scanned, the slot going on while its cells come in, or background is sent and counted. -/
def State.scanLine (s : State) (d k : Nat) (ranOut : Bool) : State :=
  let here := match s.plPlace d k with
    | some l => if l.frame == s.get (DA_PL_STATUS.PL_FRAME d) && l.line == k && !l.used then some l else none
    | none => none
  if (s.disp d).bg then s.emit (.scan d (s.background d))
  else match here with
    | some l =>
      let s := s.setPlace d k (some { l with used := true })
      if l.data.length < s.wholeLine d && !ranOut then s.setDisp d fun x => { x with scanning := some (k % 16) }
      else s.scanned d l.data l.static
    | none => s.scanned d [] false

/-- A frame starts (R238, R241): the frame whose line 0 is present, else the next number. -/
def State.startFrame (s : State) (d how : Nat) : State :=
  let raster := s.plState d == plRaster
  let frame := match s.plPlace d 0, (s.disp d).line0At with
    | some l, some _ => l.frame
    | _, _ => (s.get (DA_PL_STATUS.PL_FRAME d) + 1) % 256
  let s := s.when (raster && how == 2) fun s => s.inc (DA_PL_VMAX.VMAX_START d)
  let s := s.when raster fun s => s.put (DA_PL_STATUS.PL_FRAME d) frame
  (s.put (DA_PL_STATUS.IN_BLANK d) 0).setDisp d fun x =>
    { x with bg := !raster, allStatic := raster, line0At := none }

/-- Blanking starts after the last active line (R239, R240, R248). -/
def State.startBlank (s : State) (d : Nat) : State :=
  let s := s.enterBlank d
  if s.on (DA_CFG.PL_EDP d) && s.on (DA_CFG.PSR_EN d) && s.plState d == plRaster && !(s.disp d).bg && (s.disp d).allStatic then
    let s := (s.emit (.sdp d 1 0 0)).put (DA_PL_STATUS.PL_STATE d) plPsr
    (s.raise (DA_EVENT.PSR_ENTER d)).sendDmsg d 1
  else s

/-- PLATEN_LINE_SLOT (R238 to R241, R248): the next line slot begins; `ranOut` says that the scan reaches a pixel whose cell has
not arrived, and otherwise the missing cells come in time. -/
def execPlatenLineSlot (d : Fin 2) (ranOut : Bool) (s : State) : Result :=
  let st := s.plState d
  .next (if st ≠ plFreerun ∧ st ≠ plRaster then s
    else
      let s := (s.endScan d).setDisp d fun x => { x with slots := x.slots + 1 }
      let n := s.get (DA_PL_STATUS.PL_LINE d) + 1
      if s.on (DA_PL_STATUS.IN_BLANK d) then
        match s.frameStarts d n with
        | some how => ((s.startFrame d how).put (DA_PL_STATUS.PL_LINE d) 0).scanLine d 0 ranOut
        | none => s.blankSlot d n
      else if s.get (DA_PL_V.PL_V_ACTIVE d) ≤ n then s.startBlank d
      else (s.put (DA_PL_STATUS.PL_LINE d) n).scanLine d n ranOut)

/-- PLATEN_FREERUN (R241). -/
def execPlatenFreerun (d : Fin 2) (s : State) : Result :=
  .next (if s.plState d = plRaster then
      ((s.endScan d).put (DA_PL_STATUS.PL_STATE d) plFreerun).setDisp d fun x => { x with synced := false, line0At := none, bg := true }
    else s)

/-- KA_LOST (R251). -/
def execKaLost (d : Fin 2) (s : State) : Result :=
  .next (if s.plState d = plPsr then s.raise (DA_EVENT.KA_LOST d) else s)

/-- Mbit/s per lane of a rate code. -/
def dpRate (c : Nat) : Nat := ([1620, 2700, 5400, 8100, 2160, 2430, 3240, 4320] : List Nat).getD c 0

/-- The link may train at a lane count and rate code (R223): up to `PL_LANES` and `PL_RATE`, the eDP rates on an eDP output only. -/
def State.mayTrain (s : State) (d lanes rate : Nat) : Bool :=
  decide (lanes ≤ min 2 (s.get (DA_CFG.PL_LANES d)) ∧ dpRate rate ≤ dpRate (s.get (DA_CFG.PL_RATE d)))
    && (decide (rate < 4) || s.on (DA_CFG.PL_EDP d))

/-- PLATEN_TRAIN_DONE (R223, R243): training ends with a lane count (code as `PL_LANES`) and rate code, or fails. -/
def execPlatenTrainDone (d : Fin 2) (ok : Bool) (lanes : Fin 3) (rate : Fin 8) (s : State) : Result :=
  .next (if s.plState d ≠ plTrain ∨ (ok ∧ !s.mayTrain d lanes rate) then s
    else
      let need := s.get (DA_PL_CLK.PCLK_KHZ d) * 3000 * bpcOf (s.get (DA_CFG.OUT_BPC d))
      let fail (s : State) : State := (s.platenOff d).raise (DA_EVENT.LINK_BW d)
      if ok then
        if need ≤ 2 ^ lanes.val * dpRate rate * 800000 then
          (s.put (DA_PL_STATUS.PL_STATE d) plFreerun).enterBlank d
        else fail s
      else if 2 ≤ (s.disp d).tries then fail s
      else s.setDisp d fun x => { x with tries := x.tries + 1 })

/-! ### Hot-plug and AUX (R223, R253) -/

/-- PANEL_HPD_IRQ (R253). -/
def execPanelHpdIrq (d : Fin 2) (s : State) : Result := .next (s.when (s.hasJ (4 + d)) fun s => s.raise (DA_EVENT.HPD_IRQ d))

/-- PANEL_UNPLUG (R253). -/
def execPanelUnplug (d : Fin 2) (s : State) : Result :=
  .next (s.when (s.hasJ (4 + d)) fun s =>
    (((s.platenOff d).put (DA_PL_STATUS.HPD d) 0).raise (DA_EVENT.HPD_CHG d)).sendDmsg d 3)

/-- PANEL_PLUG (R253). -/
def execPanelPlug (d : Fin 2) (s : State) : Result :=
  .next (s.when (s.hasJ (4 + d)) fun s =>
    (((s.put (DA_PL_STATUS.HPD d) 1).raise (DA_EVENT.HPD_CHG d)).sendDmsg d 4).platenTry d)

/-- The data bytes of an AUX transaction: byte 4j in bits [7:0] of `DATA` j. -/
def State.auxData (s : State) (d : Nat) : List Byte :=
  (List.range 4).flatMap fun j => leBytes 4 (s.get (DA_AUX_DATA.DATA d j))

/-- Writing `GO` in `DA_AUX_CTL` (R223). -/
def State.auxGo (s : State) (d : Nat) : State :=
  if s.on (DA_AUX_CTL.BUSY d) then s
  else
    let n := s.get (DA_AUX_CTL.LEN_M1 d) + 1
    (s.put (DA_AUX_CTL.BUSY d) 1).emit
      (.auxRequest d (s.get (DA_AUX_CTL.CMD d)) (s.get (DA_AUX_CTL.ADDR d)) n ((s.auxData d).take n))

/-- AUX_GO (R223). -/
def execAuxGo (d : Fin 2) (s : State) : Result := .next (s.auxGo d)

/-- AUX_DONE (R223): the result code, and the bytes that a read brought back. -/
def execAuxDone (d : Fin 2) (result : Fin 4) (data : Option (List Byte)) (s : State) : Result :=
  .next (if !s.on (DA_AUX_CTL.BUSY d) then s
    else
      let s := (s.put (DA_AUX_CTL.BUSY d) 0).put (DA_AUX_CTL.RESULT d) result
      match data with
      | none => s
      | some bs =>
        let n := s.get (DA_AUX_CTL.LEN_M1 d) + 1
        let all := bs.take n ++ (s.auxData d).drop (min n bs.length)
        s.each (List.range 4) fun j s => s.put (DA_AUX_DATA.DATA d j) (leNat (slice all (4 * j) 4)))

end Sys2Proof.Machine
end

