-- ==== Sys2Proof/Machine/PcieCfg.lean ====
section
/-! DEFINITION. The configuration space that the PCIe adapter presents in Upstream Switch mode (R256, R257): headers, windows,
capabilities, MSI-X, and the routing of TLPs by them. The layouts of TLPs and of configuration registers are those of the PCI
Express Base Specification that R255 names; the places of the capabilities are the model's (notes/assumptions/101.md). -/

namespace Sys2Proof.Machine

def State.bind (s : State) (n : Nat) : Binding := tget {} n s.px.ends
def State.setBind (s : State) (n : Nat) (g : Binding → Binding) : State :=
  { s with px := { s.px with ends := tput {} n (g (s.bind n)) s.px.ends } }
def State.setPx (s : State) (g : Pcie → Pcie) : State := { s with px := g s.px }

/-! ### TLP headers (R255, R267, R273) -/

/-- Posted 0, non-posted 1, completion 2. -/
def tlpKind (t : List Byte) : Nat :=
  let b := beAt t 0 1
  let ty := b % 32
  if (ty = 0 ∧ b.testBit 6) ∨ (16 ≤ ty ∧ ty < 24) then 0
  else if ty = 10 ∨ ty = 11 then 2
  else 1

/-- The type code of a TLP. -/
def tlpType (t : List Byte) : Nat := beAt t 0 1 % 32

/-- The TLP carries data. -/
def tlpHasData (t : List Byte) : Bool := (beAt t 0 1).testBit 6

/-- Doublewords that the length field announces. -/
def tlpDws (t : List Byte) : Nat := if beAt t 2 2 % 1024 = 0 then 1024 else beAt t 2 2 % 1024

/-- Payload bytes that the header announces. -/
def tlpPayload (t : List Byte) : Nat := if tlpHasData t then 4 * tlpDws t else 0

/-- Bytes of the header. -/
def tlpHeader (t : List Byte) : Nat := if (beAt t 0 1).testBit 5 then 16 else 12

/-- The address of a memory or I/O request. -/
def tlpAddr (t : List Byte) : Nat := (if (beAt t 0 1).testBit 5 then beAt t 8 8 else beAt t 8 4) / 4 * 4

/-- The TLP is routed by its address: memory, locked memory, I/O and atomic requests. -/
def byAddress (t : List Byte) : Bool := ([0, 1, 2, 12, 13, 14] : List Nat).contains (tlpType t)

/-- The bus number in an ID-routed TLP: of a configuration request or a message its target, of a completion its requester. -/
def tlpBus (t : List Byte) : Nat := beAt t 8 1

/-- Bytes before the first enabled byte of a doubleword, and after the last one. -/
def beLead (e : Nat) : Nat := if e.testBit 0 then 0 else if e.testBit 1 then 1 else if e.testBit 2 then 2 else if e.testBit 3 then 3 else 0
def beTrail (e : Nat) : Nat := if e.testBit 3 then 0 else if e.testBit 2 then 1 else if e.testBit 1 then 2 else if e.testBit 0 then 3 else 3

/-- Byte count and lower address of the completion of a request. -/
def cplCount (t : List Byte) : Nat :=
  if ([0, 1] : List Nat).contains (tlpType t) then
    let last := if tlpDws t = 1 then beAt t 7 1 % 16 else beAt t 7 1 / 16
    4 * tlpDws t - beLead (beAt t 7 1 % 16) - beTrail last
  else 4
def cplLow (t : List Byte) : Nat :=
  if ([0, 1] : List Nat).contains (tlpType t) then (tlpAddr t + beLead (beAt t 7 1 % 16)) % 128 else 0

/-- A completion for a request: the completer's ID, the status (0 success, 1 Unsupported Request), and data. -/
def completion (id status : Nat) (t data : List Byte) : List Byte :=
  [if data = [] then 0x0A else 0x4A, BitVec.ofNat 8 (beAt t 1 1)]
    ++ beBytes 2 (bits (beAt t 2 1) 5 4 * 4096 + data.length / 4 % 1024)
    ++ beBytes 2 id ++ beBytes 2 (status * 2 ^ 13 + cplCount t % 4096) ++ slice t 4 2 ++ slice t 6 1 ++ beBytes 1 (cplLow t) ++ data

/-! ### Functions: 0 the Switch Upstream Port, 1 the management function, 2 + n the virtual port n (R256) -/

/-- `VP_COUNT` in force. -/
def State.vpCount (s : State) : Nat := min 8 (s.get PX_CFG.VP_COUNT)

/-- The function is a bridge with a Type 1 header. -/
def isBridge (fn : Nat) : Bool := fn != 1

/-- The end whose AER status belongs to a function: 8 stands for function 0, 9 for the management function. -/
def aerEnd (fn : Nat) : Nat := if fn = 0 then 8 else if fn = 1 then 9 else fn - 2

/-- The writable bits of a configuration register as the host wrote them. -/
def State.cfgBits (s : State) (fn k : Nat) : Nat := (tget 0 (1024 * fn + k) s.px.cfg).toNat
def State.setCfgBits (s : State) (fn k w : Nat) : State :=
  s.setPx fun x => { x with cfg := tput 0 (1024 * fn + k) (BitVec.ofNat 32 w) x.cfg }

/-- The bits that the host may write, by register number. -/
def cfgWritable (fn k : Nat) : Nat :=
  if k = 1 then (if isBridge fn then 0x547 else 0x546)
  else if k = 3 then 0xFF
  else if k = 15 then (if isBridge fn then 0x004300FF else 0xFF)
  else if k = 18 then 0x70EF
  else if k = 20 then 0xC0
  else if k = 22 then (if 2 ≤ fn then 0x1028 else 0)
  else if k = 66 ∨ k = 67 then 0x005FF030
  else if isBridge fn then
    if k = 6 then 0x00FFFFFF else if k = 7 then 0xF0F0 else if k = 8 ∨ k = 9 then 0xFFF0FFF0
    else if k = 10 ∨ k = 11 then 0xFFFFFFFF else 0
  else
    if k = 4 ∨ k = 6 then 0xFC000000 else if k = 8 then 0xFFFFE000
    else if k = 5 ∨ k = 7 ∨ k = 9 then 0xFFFFFFFF else 0

/-- Bits of the Command register in force. -/
def State.memOn (s : State) (fn : Nat) : Bool := (s.cfgBits fn 1).testBit 1 && s.cfgBits fn 33 == 0
def State.ioOn (s : State) (fn : Nat) : Bool := (s.cfgBits fn 1).testBit 0 && s.cfgBits fn 33 == 0
def State.masterOn (s : State) (fn : Nat) : Bool := (s.cfgBits fn 1).testBit 2 && s.cfgBits fn 33 == 0

/-- A bus number lies behind a bridge: from its secondary to its subordinate number. -/
def State.secondary (s : State) (fn : Nat) : Nat := bits (s.cfgBits fn 6) 15 8
def State.busBehind (s : State) (fn b : Nat) : Bool :=
  decide (0 < s.secondary fn ∧ s.secondary fn ≤ b ∧ b ≤ bits (s.cfgBits fn 6) 23 16)

/-- An address lies in the memory or prefetchable window of a bridge. -/
def State.memBehind (s : State) (fn a : Nat) : Bool :=
  let w := s.cfgBits fn 8
  let p := s.cfgBits fn 9
  let m := a / 2 ^ 20
  s.memOn fn && (decide (bits w 15 4 ≤ m ∧ m ≤ bits w 31 20)
    || decide (s.cfgBits fn 10 * 2 ^ 12 + bits p 15 4 ≤ m ∧ m ≤ s.cfgBits fn 11 * 2 ^ 12 + bits p 31 20))

/-- An address lies in the I/O window of a bridge. -/
def State.ioBehind (s : State) (fn a : Nat) : Bool :=
  let w := s.cfgBits fn 7
  s.ioOn fn && decide (bits w 7 4 ≤ a / 2 ^ 12 ∧ a / 2 ^ 12 ≤ bits w 15 12)

/-- The address of a request lies behind a bridge. -/
def State.addrBehind (s : State) (fn : Nat) (t : List Byte) : Bool :=
  if tlpType t = 2 then s.ioBehind fn (tlpAddr t) else s.memBehind fn (tlpAddr t)

/-- The base address registers of the management function: 0, 1 and 2 stand for BAR0, BAR2 and BAR4; 64-bit and
non-prefetchable (R46, R256). -/
def State.barBase (s : State) (i : Nat) : Nat := s.cfgBits 1 (5 + 2 * i) * 2 ^ 32 + s.cfgBits 1 (4 + 2 * i)
def barSize (i : Nat) : Nat := if i = 2 then 8192 else 2 ^ 26
def State.barHit (s : State) (a : Nat) : Option Nat :=
  if s.memOn 1 then ([0, 1, 2] : List Nat).find? fun i => decide (s.barBase i ≤ a ∧ a < s.barBase i + barSize i) else none

/-- The ID of a function: the bus number that the last configuration request gave the upstream port, or its secondary bus. -/
def State.fnId (s : State) (fn : Nat) : Nat := if fn < 2 then s.px.busNo * 256 + fn else s.secondary 0 * 256 + (fn - 2) * 8

/-! ### MSI-X (R256, R545) -/

/-- A doubleword of the MSI-X table: four for a vector, the last its Vector Control, masked after a reset. -/
def State.msixDw (s : State) (k : Nat) : Nat := (tget (if k % 4 = 3 then 1 else 0) k s.svc.msixTab).toNat

/-- The management function as after a fundamental reset: MSI-X off, its table masked, nothing pending. -/
def State.msixReset (s : State) : State :=
  s.setSvc fun x => { x with msix := false, msixMask := false, msixTab := [], msixPend := 0 }

/-- Vectors are sent that waited in the pending-bit array or for MSI-X to be enabled. -/
def State.msixFlush (s : State) : State :=
  let s := s.each (List.range 32) fun v s =>
    if s.svc.msixPend.testBit v && s.svc.msix && !s.msixMasked v
    then (s.emit (.msix v)).setSvc fun x => { x with msixPend := x.msixPend - 2 ^ v } else s
  s.each (List.range 28) fun src s => s.sendMsix src

/-- A read of BAR4: the table, then from 0x1000 the pending-bit array. -/
def State.bar4Dw (s : State) (ofs : Nat) : Nat :=
  if ofs < 512 then s.msixDw (ofs / 4) else if ofs = 0x1000 then s.svc.msixPend else 0

/-- The bytes of `new` that `be` enables, the others of `old`. -/
def mergeBytes (be old new : Nat) : Nat :=
  (List.range 4).foldl (fun n i => n + (if be.testBit i then new else old) / 2 ^ (8 * i) % 256 * 2 ^ (8 * i)) 0

/-- A write of a doubleword of the MSI-X table. -/
def State.bar4Write (s : State) (ofs be w : Nat) : State :=
  if ofs < 512 then
    let k := ofs / 4
    let v := mergeBytes be (s.msixDw k) w
    s.setSvc fun x => { x with msixTab := tput (if k % 4 = 3 then 1 else 0) k (BitVec.ofNat 32 v) x.msixTab }
  else s

/-- Byte enables of doubleword `j` of a request. -/
def dwEnables (t : List Byte) (j : Nat) : Nat :=
  if j = 0 then beAt t 7 1 % 16 else if j + 1 = tlpDws t then beAt t 7 1 / 16 else 15

/-- A memory request to BAR4. -/
def State.bar4 (s : State) (t : List Byte) : State :=
  let ofs := tlpAddr t - s.barBase 2
  let n := tlpDws t
  if tlpHasData t then
    (s.each (List.range n) fun j s => s.bar4Write (ofs + 4 * j) (dwEnables t j) (leNat (slice t (tlpHeader t + 4 * j) 4))).msixFlush
  else s.emit (.tlp 9 (completion (s.fnId 1) 0 t ((List.range n).flatMap fun j => leBytes 4 (s.bar4Dw (ofs + 4 * j)))))

/-! ### Configuration registers (R255 to R257, R266, R275, R276) -/

/-- The status bits of AER: a report is sent unless the host masks the bit (R255). -/
def State.aerReport (s : State) (n bit : Nat) : State :=
  let fn := if n = 8 then 0 else if n = 9 then 1 else n + 2
  let s := s.setBind n fun b => { b with aer := b.aer ||| 2 ^ bit }
  if (s.cfgBits fn 66).testBit bit then s else s.emit (.aer n bit)

/-- Status bits of AER: Completer Abort, Malformed TLP, Unsupported Request, Uncorrectable Internal Error. -/
def aerAbort : Nat := 15
def aerMalformed : Nat := 18
def aerUnsupported : Nat := 20
def aerInternal : Nat := 22

/-- Link Status of a function: the drive's link at a virtual port (R257), the upstream link elsewhere. -/
def State.linkStatus (s : State) (fn : Nat) : Nat :=
  if 2 ≤ fn then
    let n := fn - 2
    s.get (PX_VP_STATUS.REM_SPEED n) + 1 + 2 ^ s.get (PX_VP_STATUS.REM_WIDTH n) * 16 + (s.bind n).linkAct.toNat * 2 ^ 13
  else s.get PX_LINK.NEG_SPEED + 1 + 2 ^ s.get PX_LINK.NEG_WIDTH * 16

/-- The read-only bits of a configuration register. -/
def State.cfgFixed (s : State) (fn k : Nat) : Nat :=
  let b := s.bind (aerEnd fn)
  if k = 0 then (if fn = 0 then s.get PX_ID.PCI_DID else (Config.pciOpen fn 0).toNat % 65536) * 65536 + s.get PX_ID.PCI_VID
  else if k = 1 then 0x00100000
  else if k = 2 then (if isBridge fn then 0x060400 else 0x088000) * 256 + (Config.pciOpen fn 2).toNat % 256
  else if k = 3 then (if fn = 0 then 0x81 else if fn = 1 then 0x80 else 0x01) * 65536
  else if k = 9 ∧ isBridge fn then 0x00010001
  else if (k = 4 ∨ k = 6 ∨ k = 8) ∧ fn = 1 then 4
  else if k = 13 then 0x40
  else if k = 16 then (2 + (if fn = 0 then 0x50 else if fn = 1 then 0 else 0x160)) * 65536 + 0x8010
  else if k = 17 then 0x8022
  else if k = 19 then s.get PX_CFG.MAX_SPEED + 1 + 2 ^ min 2 (s.get PX_CFG.MAX_WIDTH) * 16 + (if 2 ≤ fn then 0x180000 else 0)
  else if k = 20 then b.disabled.toNat * 16 + s.linkStatus fn * 65536
  else if k = 21 then (if 2 ≤ fn then 0x60 else 0)
  else if k = 22 then b.presChg.toNat * 2 ^ 19 + b.present.toNat * 2 ^ 22 + b.actChg.toNat * 2 ^ 24
  else if k = 32 then 0x00030001 + (if fn = 1 then 0xA000 else 0)
  else if k = 33 then 8
  else if k = 40 ∧ fn = 1 then 0x11 + (31 + s.svc.msixMask.toNat * 2 ^ 14 + s.svc.msix.toNat * 2 ^ 15) * 65536
  else if k = 41 ∧ fn = 1 then 4
  else if k = 42 ∧ fn = 1 then 0x1004
  else if k = 64 then 0x00010001
  else if k = 65 then b.aer
  else 0

/-- A configuration register as the host reads it. -/
def State.cfgRead (s : State) (fn k : Nat) : Nat := s.cfgBits fn k ||| s.cfgFixed fn k

/-- The hot-plug interrupt of a virtual port, as its Slot Control enables it and the bits that changed (R275). -/
def State.hotPlug (s : State) (n : Nat) : State :=
  let c := s.cfgBits (2 + n) 22
  let b := s.bind n
  if c.testBit 5 && ((c.testBit 3 && b.presChg) || (c.testBit 12 && b.actChg)) then s.emit (.hotPlug n) else s

/-- Bits of Slot Status, and of the Uncorrectable Error Status, that the host clears by writing 1. -/
def State.cfgClear (s : State) (fn k w : Nat) : State :=
  s.setBind (aerEnd fn) fun b =>
    if k = 22 then { b with presChg := b.presChg && !w.testBit 19, actChg := b.actChg && !w.testBit 24 }
    else if k = 65 then { b with aer := b.aer &&& (0xFFFFFFFF - w % 2 ^ 32) }
    else b

/-- The configuration space of every function as after a fundamental reset (R259). -/
def State.fnReset (s : State) : State :=
  let s := s.msixReset.setPx fun x => { x with cfg := [], busNo := 0 }
  s.each (List.range 10) fun n s => s.setBind n fun b => { b with disabled := false, aer := 0 }

/-! ### Routing (R257, R277) -/

/-- Where a TLP from the host goes: a configuration register of a function, the far side of virtual ports, BAR4, BAR0 or BAR2, or
nowhere. -/
inductive PcieTarget | config (fn : Nat) | far (ports : List Nat) | bar4 | bar | nowhere
  deriving DecidableEq, Repr

/-- The virtual port behind which a TLP's bus number or address lies. -/
def State.portOf (s : State) (hit : Nat → Bool) : PcieTarget :=
  if hit 0 then
    match (List.range s.vpCount).find? fun n => hit (2 + n) with
    | some n => .far [n]
    | none => .nowhere
  else .nowhere

/-- A configuration request of Type 1: a virtual port on the internal bus, or beyond one (R256, R257). -/
def State.routeConfig (s : State) (t : List Byte) : PcieTarget :=
  let dev := beAt t 9 1 / 8
  if 0 < s.secondary 0 ∧ tlpBus t = s.secondary 0 then
    if dev < s.vpCount ∧ beAt t 9 1 % 8 = 0 then .config (2 + dev) else .nowhere
  else match s.portOf fun fn => s.busBehind fn (tlpBus t) with
    | .far [n] => if s.secondary (2 + n) = tlpBus t ∧ dev ≠ 0 then .nowhere else .far [n]
    | x => x

/-- The route of a TLP from the host. -/
def State.routeTlp (s : State) (t : List Byte) : PcieTarget :=
  let ty := tlpType t
  if ty = 4 then (if beAt t 9 1 < 2 then .config (beAt t 9 1) else .nowhere)
  else if ty = 5 then s.routeConfig t
  else if byAddress t || ty == 17 then
    match (if ty = 0 then s.barHit (tlpAddr t) else none) with
    | some i => if i = 2 then .bar4 else .bar
    | none => s.portOf fun fn => s.addrBehind fn t
  else if ty = 10 ∨ ty = 11 ∨ ty = 18 then s.portOf fun fn => s.busBehind fn (tlpBus t)
  else if ty = 19 then .far (List.range s.vpCount)
  else .nowhere

/-- A request of Type 1 for the bus right behind a virtual port goes on as Type 0. -/
def State.typeZero (s : State) (n : Nat) (t : List Byte) : List Byte :=
  if tlpType t = 5 ∧ tlpBus t = s.secondary (2 + n) then BitVec.ofNat 8 (beAt t 0 1 - 1) :: t.drop 1 else t

/-- A TLP of a drive behind virtual port `n` routes to another virtual port (R277). -/
def State.toPeer (s : State) (n : Nat) (t : List Byte) : Bool :=
  (List.range s.vpCount).any fun m => m != n &&
    (if byAddress t || tlpType t == 17 then s.addrBehind (2 + m) t
     else ([4, 5, 18] : List Nat).contains (tlpType t) && s.busBehind (2 + m) (tlpBus t))

/-- The switch carries a request of a drive upstream: Bus Master Enable is set on the way. -/
def State.mayMaster (s : State) (n : Nat) (t : List Byte) : Bool :=
  !byAddress t || (s.masterOn (2 + n) && s.masterOn 0)

end Sys2Proof.Machine
end

