-- ==== Sys2Proof/Machine/Storage.lean ====
section
/-! DEFINITION. The commands of the PCIe adapter (chapter 07): bindings, the storage tunnel, credits, errors and resets. -/

namespace Sys2Proof.Machine

/-! ### Configuration and ends (R256, R261, R262, R267) -/

/-- The adapter may run: enabled, in the class, not held, and no Upstream Switch in the Spine class. -/
def State.pxOn (s : State) : Bool :=
  s.on PX_CFG.EN && s.hasJ 6 && !s.outHeld 6 && !(s.get PX_CFG.MODE == 0 && s.cls == classSpine)

def State.upSwitch (s : State) : Bool := s.pxOn && s.get PX_CFG.MODE == 0
def State.downBinding (s : State) : Bool := s.pxOn && s.get PX_CFG.MODE == 1

/-- `BIND_TMO` in force. -/
def State.bindTmo (s : State) : Nat := max 2 (s.get PX_CFG.BIND_TMO)

/-- The pools of the adapter add up to more than its 8,192 cells (R267). -/
def State.poolsBad (s : State) : Bool :=
  if s.get PX_CFG.MODE = 0 then
    let vps := (List.range s.vpCount).filter fun n => s.on (PX_VP_BIND.VP_EN n)
    let sum := (vps.map fun n => s.get (PX_VP_CREDIT.CR_P n) + s.get (PX_VP_CREDIT.CR_NP n) + s.get (PX_VP_CREDIT.CR_CPL n)).foldl
      (· + ·) 0
    decide (8192 < 16 * sum)
  else decide (8192 < 16 * (s.get PX_DB_CREDIT.CR_P + s.get PX_DB_CREDIT.CR_NP + s.get PX_DB_CREDIT.CR_CPL))

/-- The end that receives on a tunnel. -/
def State.endOf (s : State) (tun : Nat) : Option Nat :=
  let b := s.get PX_CFG.TUN_BASE
  if s.downBinding then (if tun = b then some 8 else none)
  else if s.upSwitch then (if b ≤ tun ∧ tun < b + s.vpCount then some (tun - b) else none)
  else none

/-- Binding states (R261). -/
def bsUnbound : Nat := 0
def bsRequested : Nat := 1
def bsBound : Nat := 2
def bsUp : Nat := 3
def bsLost : Nat := 4

/-- The state of an end; the Downstream Binding adapter is UP while bound with its drive's link up. -/
def State.bState (s : State) (n : Nat) : Nat :=
  if n < 8 then s.get (PX_VP_STATUS.BSTATE n)
  else if s.on PX_DB.BOUND then (if s.on PX_LINK.DL_UP then bsUp else bsBound) else bsUnbound

/-- The epoch of an end. -/
def State.epoch (s : State) (n : Nat) : Nat := if n < 8 then s.get (PX_VP_STATUS.EPOCH n) else s.get PX_DB.DB_EPOCH

/-- Counters of an end: the Downstream Binding adapter uses those of VP_0, whose tunnel it has (notes/assumptions/21.md). -/
def cntIx (n : Nat) : Nat := if n < 8 then n else 0

/-! ### PDUs (R260, R264, R265) -/

/-- The bytes of a PDU. -/
def pduBytes (ptype epoch pseq arg : Nat) (body : List Byte) : List Byte :=
  beBytes 1 ptype ++ beBytes 1 epoch ++ beBytes 2 pseq ++ beBytes 2 body.length ++ beBytes 1 arg ++ [0] ++ body

/-- Cells of this adapter that have not entered the Junction. -/
def State.cellsWaiting (s : State) : Nat := (tget [] 6 s.jn.incoming).length + (tget [] 6 s.jn.held).length

/-- The PDUs of which `w` cells are still to go: the last ones, given newest first. -/
def lastPdus : Nat → List (Nat × Nat) → List (Nat × Nat)
  | _, [] => []
  | w, x :: rest => if w = 0 then [] else x :: lastPdus (w - x.2) rest

/-- A PDU of `n` cells is presented to J6 (R272). -/
def State.noteOut (s : State) (kind n : Nat) : State :=
  s.setPx fun x => { x with outbox := (kind, n) :: lastPdus s.cellsWaiting x.outbox }

/-- The kinds of which the Junction or the shaper holds a PDU, so that their credits are not returned to the link partner
(R161, R200, R272). -/
def State.heldKinds (s : State) : List Nat :=
  let shaped := match tget [] 6 s.jn.incoming with
    | c :: _ => s.shaped c
    | [] => false
  if tget [] 6 s.jn.held != [] || shaped then (lastPdus s.cellsWaiting s.px.outbox).map (·.1) else []

/-- The cells of a PDU to a far end. -/
def State.sendPduTo (s : State) (hub tun ptype epoch pseq arg : Nat) (body : List Byte) : State :=
  let h : CellHdr := ⟨hub, 6, tun, 3, 3, tun % 2048⟩
  let cs := Cell.unit s.hubId h (pduBytes ptype epoch pseq arg body)
  (s.noteOut (if ptype = 1 then tlpKind body else 3) cs.length).presentAll 6 cs

/-- A PDU to the far end of a binding. -/
def State.sendPdu (s : State) (n ptype arg : Nat) (body : List Byte) : State :=
  let b := s.bind n
  (s.sendPduTo b.peer.1 b.peer.2 ptype (s.epoch n) 0 arg body).setBind n fun b => { b with sentMs := true }

/-- Cells of a PDU with a body of `k` bytes. -/
def pduCells (k : Nat) : Nat := (8 + k + 63) / 64

/-- Width and speed as one byte (R265). -/
def State.linkByte (s : State) : Nat := s.get PX_LINK.NEG_WIDTH * 4 + s.get PX_LINK.NEG_SPEED

/-! ### TLPs (R255, R273, R274) -/

/-- A received digest is removed and `TD` cleared (R255). -/
def noDigest (t : List Byte) : List Byte :=
  if (beAt t 2 1).testBit 7 then
    let cut := t.take (t.length - 4)
    cut.take 2 ++ [BitVec.ofNat 8 (beAt t 2 1 - 128)] ++ cut.drop 3
  else t

/-- Bits 9 and 8 of the tag, in byte 1. -/
def tagHigh (t : List Byte) : Nat := ((beAt t 1 1).testBit 7).toNat * 2 + ((beAt t 1 1).testBit 3).toNat

/-- What matches a completion to its request: requester ID and tag. -/
def requestKey (t : List Byte) : Nat := beAt t 4 2 * 1024 + tagHigh t * 256 + beAt t 6 1
def completionKey (t : List Byte) : Nat := beAt t 8 2 * 1024 + tagHigh t * 256 + beAt t 10 1

/-- The completion is the last one of its request: nothing of its byte count is left. -/
def lastCompletion (t : List Byte) : Bool :=
  let count := if beAt t 6 2 % 4096 = 0 then 4096 else beAt t 6 2 % 4096
  !(beAt t 0 1).testBit 6 || decide (count ≤ tlpPayload t - beAt t 11 1 % 4)

/-- The completer ID of end `n`: of the virtual port, or for the Downstream Binding adapter, which has none, a free value (R258;
notes/assumptions/2.md). -/
def State.endId (s : State) (n : Nat) : Nat := if n < 8 then s.fnId (2 + n) else s.free % 65536

/-- A completion of status Unsupported Request goes to the link partner of end `n`. -/
def State.completeUr (s : State) (n : Nat) (t : List Byte) : State :=
  (s.when (decide (8 ≤ n)) fun s => s.usedFree).emit (.tlp n (completion (s.endId n) 1 t []))

/-- A request from the link partner is completed with Unsupported Request (R273). -/
def State.answerUr (s : State) (n : Nat) (t : List Byte) : State :=
  (s.completeUr n t).inc (PX_VP_CNT.UR_DONE (cntIx n))

/-! ### Sending (R268, R269) -/

/-- Credit for a TLP (R268). -/
def Binding.hasCredit (b : Binding) (t : Tlp) : Bool :=
  let out := (tget 0 t.kind b.sent + 65536 - tget 0 t.kind b.ret) % 65536
  decide (pduCells t.bytes.length + out ≤ 16 * tget 0 t.kind b.grant)

/-- A TLP may pass the older ones that stay behind, given by kind (R269). -/
def mayPass (kind : Nat) (older : List Nat) : Bool :=
  if kind = 0 then !older.contains 0
  else if kind = 2 then !older.contains 0 && !older.contains 2
  else older.isEmpty

/-- The next TLP to go, and what stays behind. -/
def Binding.next (b : Binding) (behind : List Tlp) : List Tlp → Option (Tlp × List Tlp)
  | [] => none
  | t :: rest =>
    if mayPass t.kind (behind.map (·.kind)) && b.hasCredit t then some (t, behind ++ rest)
    else b.next (behind ++ [t]) rest

/-- One TLP goes to the far end as a PDU (R264, R268). -/
def State.sendTlp (s : State) (n : Nat) (t : Tlp) (rest : List Tlp) : State :=
  let b := s.bind n
  let s := s.sendPduTo b.peer.1 b.peer.2 1 (s.epoch n) b.seqTx 0 t.bytes
  s.setBind n fun b =>
    { b with queue := rest, sentMs := true, seqTx := (b.seqTx + 1) % 65536,
             sent := tput 0 t.kind ((tget 0 t.kind b.sent + pduCells t.bytes.length) % 65536) b.sent }

/-- TLPs go while credit and order let them. -/
def State.sendTlps : Nat → Nat → State → State
  | 0, _, s => s
  | k + 1, n, s =>
    match (s.bind n).next [] (s.bind n).queue with
    | some (t, rest) => State.sendTlps k n (s.sendTlp n t rest)
    | none => s

/-- A TLP joins the queue of its end, and what may go goes. -/
def State.queueTlp (s : State) (n : Nat) (t : Tlp) : State :=
  let s := s.setBind n fun b => { b with queue := b.queue ++ [t] }
  State.sendTlps (s.bind n).queue.length n s

/-- An entry of the outstanding table (R274). -/
def State.track (s : State) (n : Nat) (t : List Byte) : State :=
  let s := s.setBind n fun b => { b with table := b.table ++ [(requestKey t, t)] }
  s.put (PX_VP_STATUS.NP_OUT n) (s.bind n).table.length

/-- A non-posted TLP of a virtual port takes an entry and is queued, or waits for one (R274). -/
def State.queueNp (s : State) (n : Nat) (t : List Byte) : State :=
  if (s.bind n).table.length < 256 then (s.track n t).queueTlp n ⟨1, t⟩
  else s.setBind n fun b => { b with npWait := b.npWait ++ [t] }

/-- An entry is free: the oldest TLP that waited takes it. -/
def State.untrack (s : State) (n key : Nat) : State :=
  let s := s.setBind n fun b => { b with table := b.table.filter fun e => e.1 != key }
  let s := s.put (PX_VP_STATUS.NP_OUT n) (s.bind n).table.length
  match (s.bind n).npWait with
  | [] => s
  | t :: rest => (s.setBind n fun b => { b with npWait := rest }).queueNp n t

/-! ### Leaving and reaching UP (R261, R275) -/

/-- A virtual port reaches UP: a presence change with the drive present; its link stays down while Link Disable is set
(R275, R276). -/
def State.vpUp (s : State) (n : Nat) : State :=
  let s := s.put (PX_VP_STATUS.BSTATE n) bsUp
  let s := s.setBind n fun b =>
    { b with present := true, linkAct := !b.disabled, presChg := true, actChg := b.actChg || !b.disabled }
  (s.hotPlug n).raise PX_EVENT.BIND_UP

/-- A virtual port leaves UP: surprise removal, every outstanding request is completed (R275), and what still waits for the
far side is answered as R273 says. -/
def State.vpDown (s : State) (n next : Nat) : State :=
  if s.bState n ≠ bsUp then s.put (PX_VP_STATUS.BSTATE n) next
  else
    let b := s.bind n
    let s := s.put (PX_VP_STATUS.BSTATE n) next
    let s := s.setBind n fun b =>
      { b with queue := [], linkQ := [], table := [], npWait := [], present := false, linkAct := false, presChg := true, actChg := true }
    let s := (s.hotPlug n).put (PX_VP_STATUS.NP_OUT n) 0
    let s := s.each (b.table.map (·.2) ++ b.npWait) fun t s => s.answerUr n t
    s.raise PX_EVENT.SURPRISE

/-- A binding starts afresh: `PSEQ` and the credit counts at 0. -/
def Binding.fresh (b : Binding) (peer : Nat × Nat) : Binding :=
  { b with peer := peer, queue := [], linkQ := [], npWait := [], grant := [], sent := [], ret := [], released := [], seqTx := 0,
           seqRx := 0, quiet := 0, wait := none, asked := 0 }

/-- A virtual port asks to be bound (R261). -/
def State.bindRequest (s : State) (n : Nat) : State :=
  let hub := s.get (PX_VP_BIND.DB_HUB n)
  let s := (s.put (PX_VP_STATUS.EPOCH n) ((s.epoch n + 1) % 256)).put (PX_VP_STATUS.BSTATE n) bsRequested
  let s := s.setBind n fun b => b.fresh (hub, s.get (PX_VP_BIND.DB_TUNNEL n))
  let body := beBytes 2 s.hubId ++ beBytes 2 (s.get PX_CFG.TUN_BASE + n) ++ beBytes 1 (s.get (PX_VP_CREDIT.CR_P n))
    ++ beBytes 1 (s.get (PX_VP_CREDIT.CR_NP n)) ++ beBytes 1 (s.get (PX_VP_CREDIT.CR_CPL n)) ++ [0]
  s.sendPdu n 2 0 body

/-- UNBOUND is left when the port is enabled and allowed (R261, R267). -/
def State.tryBind (s : State) (n : Nat) : State :=
  if s.bState n == bsUnbound && s.upSwitch && decide (n < s.vpCount) && s.on (PX_VP_BIND.VP_EN n) && !s.poolsBad
  then s.bindRequest n else s

/-- A virtual port goes to UNBOUND, sending UNBIND (R261). -/
def State.vpUnbind (s : State) (n : Nat) : State :=
  if s.bState n = bsUnbound then s
  else
    let was := s.bState n
    let s := (s.sendPdu n 9 0 []).vpDown n bsUnbound
    let s := s.setBind n fun b => b.fresh (0, 0)
    s.when (decide (bsBound ≤ was)) fun s => s.raise PX_EVENT.BIND_DOWN

/-- The Downstream Binding adapter's end starts afresh towards `peer`; what waits for the far side is answered (R273). -/
def State.dbFresh (s : State) (peer : Nat × Nat) : State :=
  let waiting := ((s.bind 8).queue.filter fun t => t.kind == 1).map (·.bytes)
  let s := s.setBind 8 fun b => b.fresh peer
  s.each waiting fun t s => s.answerUr 8 t

/-- The Downstream Binding adapter drops its binding (R262). -/
def State.dbDrop (s : State) : State :=
  if !s.on PX_DB.BOUND then s else ((s.put PX_DB.BOUND 0).dbFresh (0, 0)).raise PX_EVENT.BIND_DOWN

/-- A binding of a virtual port is refused or unanswered: it waits `BIND_TMO` Milestones more (R261). -/
def State.bindRefused (s : State) (n : Nat) : State :=
  (s.setBind n fun b => { b with wait := some 0 }).raise PX_EVENT.BIND_REFUSED

/-- A lock-up reaches the adapter (R256, R258, R261, R267). -/
def State.pxLockup (s : State) : State :=
  let bad := s.on PX_CFG.EN && ((s.get PX_CFG.MODE == 0 && s.cls == classSpine) || s.poolsBad)
  let s := s.when bad fun s => s.raise PX_EVENT.CFG_BAD
  let mode := if s.upSwitch then 1 else if s.downBinding then 2 else 0
  let s := s.when (mode != 2) fun s => s.dbDrop
  let s := s.each (List.range 8) fun n s =>
    let keep := mode == 1 && decide (n < s.vpCount) && s.on (PX_VP_BIND.VP_EN n)
      && (s.bind n).peer == (s.get (PX_VP_BIND.DB_HUB n), s.get (PX_VP_BIND.DB_TUNNEL n))
    (s.when (!keep) fun s => s.vpUnbind n).tryBind n
  let start := mode == 2 && s.px.mode != 2
  let s := s.when start fun s => (s.put PX_LINK.PERST 1).emit (.perst true)
  let s := s.when (mode != s.px.mode) fun s => s.fnReset.setPx fun x => { x with partner := [] }
  s.setPx fun x => { x with mode := mode, refStart := if start then some s.tm.tick else if mode = 2 then x.refStart else none }

/-- The Milestone's work at the bindings (R261, R263, R268). -/
def State.pxMilestone (s : State) : State :=
  let s := s.each (List.range 9) fun n s =>
    if s.bState n = bsUnbound then s
    else
      let s := s.when (!(s.bind n).sentMs) fun s => s.sendPdu n 7 0 []
      let s := s.setBind n fun b =>
        { b with sentMs := false, quiet := b.quiet + 1, wait := b.wait.map (· + 1), asked := b.asked + 1 }
      let waited := match (s.bind n).wait with
        | some w => decide (s.bindTmo ≤ w)
        | none => false
      if decide (n < 8) && s.bState n == bsRequested && waited then
        (s.put (PX_VP_STATUS.BSTATE n) bsUnbound).setBind n fun b => { b with wait := none }
      else s
  s.each (List.range 8) fun n s => s.tryBind n

/-! ### Arrivals (R261 to R266, R268, R276) -/

/-- A PDU that is discarded (R266). -/
def State.pduBad (s : State) (n : Nat) (tlp : Bool) : State :=
  let s := (s.inc PX_CNT.TUN_MALFORMED).raise PX_EVENT.TUN_MALFORMED
  s.when (tlp && decide (n < 8)) fun s => s.aerReport n aerInternal

/-- The `PLEN` of a PDU type (R265). -/
def plenOk (ptype len : Nat) : Bool :=
  if ptype = 1 then decide (12 ≤ len ∧ len ≤ 528)
  else if ptype = 2 then len == 8
  else if ptype = 3 then len == 4
  else if ptype = 5 then len == 6
  else if ptype = 6 then len == 1
  else if ptype = 4 ∨ ptype = 7 ∨ ptype = 8 ∨ ptype = 9 then len == 0
  else false

/-- A PDU arrived at an end: its cells left their FIFO and count as heard. -/
def State.pduHeard (s : State) (p : Pdu) (n : Nat) : State :=
  (s.takeFifo 6 p.tun.toNat).setBind n fun b => { b with quiet := 0 }

/-- A PDU of type `want` at end `n` is good: its epoch, type and length are right (R266). -/
def State.pduGood (s : State) (want : Nat) (p : Pdu) (n : Nat) : Bool :=
  decide (p.epoch.toNat = s.epoch n ∧ p.ptype.toNat = want ∧ p.plen.toNat = p.body.length) && plenOk want p.body.length

/-- A PDU arrives: for a tunnel without an end, or an unbound end, its cells are dropped; any cell of it counts as heard; it is
discarded when it is not good (R266), else taken with `g`. -/
def State.pduRx (s : State) (want : Nat) (p : Pdu) (g : Nat → State → State) : State :=
  match s.endOf p.tun.toNat with
  | none => s.takeFifo 6 p.tun.toNat
  | some n =>
    if s.bState n = bsUnbound then s.takeFifo 6 p.tun.toNat
    else if s.pduGood want p n then g n (s.pduHeard p n)
    else (s.pduHeard p n).pduBad n (want == 1)

/-- The receiver releases the cells of a TLP (R268). -/
def State.releaseCells (s : State) (n : Nat) (t : Tlp) : State :=
  s.setBind n fun b =>
    { b with released := tput 0 t.kind ((tget 0 t.kind b.released + pduCells t.bytes.length) % 65536) b.released }

/-- TLPs go to the PCIe link in arrival order; one whose kind is in `short` waits for link credit, and a posted one or a
completion may pass a non-posted one that waits (R270, R271). -/
def linkSplit (short : List Nat) (behind : List Tlp) : List Tlp → List Tlp × List Tlp
  | [] => ([], behind)
  | t :: rest =>
    let free := behind.isEmpty || (t.kind != 1 && behind.all fun x => x.kind == 1)
    if free && !short.contains t.kind then
      let (go, stay) := linkSplit short behind rest
      (t :: go, stay)
    else linkSplit short (behind ++ [t]) rest

def State.toLink (s : State) (n : Nat) (short : Fin 8) : State :=
  let (go, stay) := linkSplit (bitList short.val 3) [] (s.bind n).linkQ
  let s := s.setBind n fun b => { b with linkQ := stay }
  s.each go fun t s => (s.emit (.tlp n t.bytes)).releaseCells n t

/-- What a receiving end does with a TLP of the far side (R270, R274, R277): a payload above 512 bytes is malformed, a completion
must match an entry, and a request of a drive goes neither to another virtual port nor past a bridge that may not master. -/
def State.tlpDeliver (s : State) (n : Nat) (t : Tlp) (short : Fin 8) : State :=
  let deliver (s : State) : State := (s.setBind n fun b => { b with linkQ := b.linkQ ++ [t] }).toLink n short
  let refuse (s : State) : State :=
    let s := s.releaseCells n t
    if t.kind = 1 then s.queueTlp n ⟨2, completion (s.fnId (2 + n)) 1 t.bytes []⟩ else s
  if 512 < tlpPayload t.bytes then (s.releaseCells n t).when (decide (n < 8)) fun s => s.aerReport n aerMalformed
  else if n = 8 then deliver s
  else if t.kind = 2 then
    let k := completionKey t.bytes
    if (s.bind n).table.any fun e => e.1 == k then
      deliver (s.when (lastCompletion t.bytes) fun s => s.untrack n k)
    else (s.inc (PX_VP_CNT.UNEXP_CPL n)).releaseCells n t
  else if s.toPeer n t.bytes then refuse (s.inc PX_CNT.P2P_DROP)
  else if !s.mayMaster n t.bytes then refuse s
  else deliver s

/-- A good TLP PDU at an end (R266): a gap in `PSEQ` is counted and reported, and the TLP goes on. -/
def State.tlpIn (s : State) (n : Nat) (p : Pdu) (short : Fin 8) : State :=
  let gap := p.pseq.toNat ≠ (s.bind n).seqRx
  let s := s.when gap fun s =>
    ((s.inc (PX_VP_CNT.TLP_GAP (cntIx n))).raise PX_EVENT.TLP_GAP).when (decide (n < 8)) fun s => s.aerReport n aerInternal
  let s := s.setBind n fun b => { b with seqRx := (p.pseq.toNat + 1) % 65536 }
  s.tlpDeliver n ⟨tlpKind p.body, p.body⟩ short

/-- The kinds of TLP without link credit: of posted and non-posted those of `req`, and completions. -/
def shortKinds (req : Fin 4) (cpl : Bool) : Fin 8 := Fin.ofNat 8 (req.val + 4 * cpl.toNat)

/-- TLP_PDU_RX (R264, R266, R268, R270, R274, R277): a TLP PDU; `reqShort` (bit 0 posted, 1 non-posted)
and `cplShort` name the kinds without link credit. -/
def execTlpPduRx (p : Pdu) (reqShort : Fin 4) (cplShort : Bool) (s : State) : Result :=
  .next (s.pduRx 1 p fun n s => s.tlpIn n p (shortKinds reqShort cplShort))

/-- A virtual port forwards: its binding is UP and its link not disabled (R273, R276). -/
def State.endLive (s : State) (n : Nat) : Bool := s.bState n == bsUp && !(s.bind n).disabled

/-- A TLP from the link partner for the far side of an end (R269, R273, R274). -/
def State.tlpFar (s : State) (n : Nat) (t : List Byte) : State :=
  let k := tlpKind t
  if !s.endLive n then (if k = 1 then s.answerUr n t else s)
  else if k = 1 ∧ n < 8 then s.queueNp n t
  else s.queueTlp n ⟨k, t⟩

/-- The bits that a bridge or the management function stores of a configuration write (R256). -/
def State.cfgStore (s : State) (fn k v : Nat) : State :=
  if k = 33 then (if v % 4 = 0 ∨ v % 4 = 3 then s.setCfgBits fn 33 (v % 4) else s)
  else s.setCfgBits fn k (v &&& cfgWritable fn k)

/-- Link Disable of a virtual port (R276): while the binding is UP the drive's link follows it; its own link in any case. -/
def State.linkDisable (s : State) (n : Nat) (set : Bool) : State :=
  let up := s.bState n == bsUp
  let act := up && !set
  let s := s.setBind n fun b => { b with disabled := set, linkAct := act, actChg := b.actChg || b.linkAct != act }
  (s.hotPlug n).when up fun s => s.sendPdu n 8 (if set then 2 else 3) []

/-- Secondary Bus Reset of a virtual port (R276): the bit of Bridge Control, and while the binding is UP a RESET. -/
def State.busReset (s : State) (n : Nat) : State :=
  let s := s.setCfgBits (2 + n) 15 (s.cfgBits (2 + n) 15 ||| 2 ^ 22)
  s.when (s.bState n == bsUp) fun s => s.sendPdu n 8 1 []

/-- What a configuration write does besides storing bits (R256, R257, R275, R276); a write to Retrain Link does nothing. -/
def State.cfgEffect (s : State) (fn k be w : Nat) : State :=
  let old := s.cfgRead fn k
  let v := mergeBytes be old w
  if k = 15 ∧ 2 ≤ fn ∧ v.testBit 22 ∧ !old.testBit 22 then (s.cfgStore fn k v).busReset (fn - 2)
  else if k = 20 ∧ 2 ≤ fn ∧ v.testBit 4 ≠ old.testBit 4 then (s.cfgStore fn k v).linkDisable (fn - 2) (v.testBit 4)
  else if k = 22 ∨ k = 65 then (s.cfgStore fn k v).cfgClear fn k (mergeBytes be 0 w)
  else if k = 40 ∧ fn = 1 then (s.setSvc fun x => { x with msix := v.testBit 31, msixMask := v.testBit 30 }).reroute.msixFlush
  else s.cfgStore fn k v

/-- A configuration request to a function the hub presents, completed at once (R256). -/
def State.configTlp (s : State) (fn : Nat) (t : List Byte) : State :=
  let k := beAt t 10 1 % 16 * 64 + beAt t 11 1 / 4
  let s := s.when (decide (tlpType t = 4)) fun s => s.setPx fun x => { x with busNo := tlpBus t }
  if tlpHasData t then
    let s := s.cfgEffect fn k (beAt t 7 1 % 16) (leNat (slice t (tlpHeader t) 4))
    s.emit (.tlp 9 (completion (s.fnId fn) 0 t []))
  else s.emit (.tlp 9 (completion (s.fnId fn) 0 t (leBytes 4 (s.cfgRead fn k))))

/-- A TLP of the host that the switch can route nowhere (R257): an Unsupported Request of the upstream port. -/
def State.noRoute (s : State) (t : List Byte) : State :=
  if tlpKind t = 1 then (s.emit (.tlp 9 (completion (s.fnId 0) 1 t []))).aerReport 8 aerUnsupported
  else s

/-- A TLP of the host, routed by the switch (R256, R257). An access through BAR0 or BAR2 is the command PCIE_BAR_ACCESS. -/
def State.hostTlp (s : State) (t : List Byte) : State :=
  match s.routeTlp t with
  | .config fn => s.configTlp fn t
  | .bar4 => s.bar4 t
  | .bar => s
  | .far ns => s.each ns fun n s => s.tlpFar n (s.typeZero n t)
  | .nowhere => s.noRoute t

/-- A TLP comes over the PCIe link (R255, R269, R273, R274, R277). -/
def State.tlpOut (s : State) (raw : List Byte) : State :=
  let t := noDigest raw
  if 512 < tlpPayload t then s.when s.upSwitch fun s => s.aerReport 8 aerMalformed
  else if s.downBinding then s.tlpFar 8 t
  else s.hostTlp t

/-- The TLPs that waited in the link partner come, as far as credits and the order among them let them (R272). -/
def State.partnerGo : Nat → List (List Byte) → State → State
  | 0, _, s => s
  | k + 1, behind, s =>
    match s.px.partner with
    | [] => s.setPx fun x => { x with partner := behind }
    | t :: rest =>
      if s.heldKinds.contains (tlpKind t) || !mayPass (tlpKind t) (behind.map tlpKind)
      then State.partnerGo k (behind ++ [t]) (s.setPx fun x => { x with partner := rest })
      else State.partnerGo k behind ((s.setPx fun x => { x with partner := rest }).tlpOut t)

def State.partnerDrain (s : State) : State := State.partnerGo (s.px.partner.length + 1) [] s

/-- The link can bring a TLP: the adapter runs, and the link of an Upstream Switch is not held down by `PERST#` (R259). -/
def State.linkLive (s : State) : Bool := s.downBinding || (s.upSwitch && !s.px.perstIn)

/-- PCIE_TLP_RX (R255 to R257, R268, R269, R272 to R274, R277): a TLP from the PCIe link; one whose kind has no credit waits in the
link partner, behind what it may not pass. -/
def execPcieTlpRx (hdr payload : List Byte) (s : State) : Result :=
  .next (if !s.linkLive then s else (s.setPx fun x => { x with partner := x.partner ++ [hdr ++ payload] }).partnerDrain)

/-- The Downstream Binding adapter takes a binding (R262). -/
def State.dbBind (s : State) (hub tun epoch : Nat) (p : Pdu) : State :=
  let s := (((s.put PX_DB.BOUND 1).put PX_DB.BOUND_HUB hub).put PX_DB.BOUND_TUN tun).put PX_DB.DB_EPOCH epoch
  let cr := (List.range 3).foldl (fun t k => tput 0 k (beAt p.body (4 + k) 1) t) []
  let s := (s.dbFresh (hub, tun)).setBind 8 fun b => { b with grant := cr }
  s.sendPdu 8 3 (s.get PX_LINK.DL_UP) (beBytes 1 (s.get PX_DB_CREDIT.CR_P) ++ beBytes 1 (s.get PX_DB_CREDIT.CR_NP)
    ++ beBytes 1 (s.get PX_DB_CREDIT.CR_CPL) ++ beBytes 1 s.linkByte)

/-- BIND_REQ_RX (R262, R265 to R267): the body's bytes are bytes 8 to 15 of the PDU. -/
def execBindReqRx (p : Pdu) (s : State) : Result :=
  let t := s.takeFifo 6 p.tun.toNat
  let hub := beAt p.body 0 2 % 2048
  let tun := beAt p.body 2 2 % 4096
  let refuse (s : State) (arg : Nat) : State := s.sendPduTo hub tun 4 p.epoch.toNat 0 arg []
  .next (if p.plen.toNat ≠ 8 ∨ p.body.length ≠ 8 then t.pduBad 8 false
    else if !s.downBinding then refuse t 2
    else if p.tun.toNat ≠ s.get PX_CFG.TUN_BASE then t
    else if s.poolsBad then refuse (t.raise PX_EVENT.CFG_BAD) 3
    else if s.on PX_DB.BOUND ∧ (s.bind 8).peer ≠ (hub, tun) then refuse t 1
    else t.dbBind hub tun p.epoch.toNat p)

/-- The drive's width and speed at a virtual port. -/
def State.remLink (s : State) (n b : Nat) : State :=
  (s.put (PX_VP_STATUS.REM_WIDTH n) (bits b 3 2)).put (PX_VP_STATUS.REM_SPEED n) (bits b 1 0)

/-- A virtual port is bound: the grants and the drive's link are noted; it is UP when that link is (R261, R265). -/
def State.bindDone (s : State) (n : Nat) (p : Pdu) : State :=
  let cr := (List.range 3).foldl (fun t k => tput 0 k (beAt p.body k 1) t) []
  let s := (s.setBind n fun b => { b with grant := cr }).remLink n (beAt p.body 3 1)
  if p.arg.toNat = 1 then s.vpUp n else s.put (PX_VP_STATUS.BSTATE n) bsBound

/-- BIND_ACK_RX (R261, R265). -/
def execBindAckRx (p : Pdu) (s : State) : Result :=
  .next (s.pduRx 3 p fun n h =>
    if 8 ≤ n ∨ s.bState n ≠ bsRequested ∨ (s.bind n).wait ≠ none then h else h.bindDone n p)

/-- BIND_REFUSE_RX (R261). -/
def execBindRefuseRx (p : Pdu) (s : State) : Result :=
  .next (s.pduRx 4 p fun n h =>
    if 8 ≤ n ∨ s.bState n ≠ bsRequested ∨ (s.bind n).wait ≠ none then h else h.bindRefused n)

/-- The far end's released counts are taken, and what they let go goes (R268, R269). -/
def State.creditIn (s : State) (n : Nat) (p : Pdu) : State :=
  let ret := (List.range 3).foldl (fun t k => tput 0 k (beAt p.body (2 * k) 2) t) []
  let s := s.setBind n fun b => { b with ret := ret }
  State.sendTlps (s.bind n).queue.length n s

/-- PDU_CREDIT_RX (R268, R269). -/
def execPduCreditRx (p : Pdu) (s : State) : Result := .next (s.pduRx 5 p fun n s => (s.creditIn n p).partnerDrain)

/-- The drive's width and speed at a virtual port, as one byte (R265). -/
def State.remByte (s : State) (n : Nat) : Nat := s.get (PX_VP_STATUS.REM_WIDTH n) * 4 + s.get (PX_VP_STATUS.REM_SPEED n)

/-- The drive's link came up or went down, in binding state `was`; this end too sends LINK at a change (R261, R263, R275). -/
def State.linkIn (s : State) (n was : Nat) (p : Pdu) : State :=
  let changed := decide ((p.arg.toNat = 1) ≠ (was = bsUp)) || s.remByte n != beAt p.body 0 1 % 16
  let s := s.remLink n (beAt p.body 0 1)
  let s := if p.arg.toNat = 1 then (if was = bsBound then s.vpUp n else s)
    else if was = bsUp then s.vpDown n bsBound else s
  s.when changed fun s => s.sendPdu n 6 (decide (p.arg.toNat = 1)).toNat (beBytes 1 (s.remByte n))

/-- LINK_PDU_RX (R261, R263, R275). -/
def execLinkPduRx (p : Pdu) (s : State) : Result :=
  .next (s.pduRx 6 p fun n h => if 8 ≤ n ∨ s.bState n < bsBound then h else h.linkIn n (s.bState n) p)

/-- KEEPALIVE_PDU_RX (R263). -/
def execKeepalivePduRx (p : Pdu) (s : State) : Result := .next (s.pduRx 7 p fun _ s => s)

/-- Hot reset (1), link disable (2) or link enable (3) at the drive (R276). -/
def State.driveReset (s : State) (k : Nat) : State :=
  (s.emit (.driveLink k)).setPx fun x => { x with driveOff := if k = 2 then true else if k = 3 then false else x.driveOff }

/-- RESET_PDU_RX (R276): hot reset, link disable or link enable at the drive. -/
def execResetPduRx (p : Pdu) (s : State) : Result :=
  .next (s.pduRx 8 p fun n s => if n ≠ 8 ∨ p.arg.toNat = 0 ∨ 3 < p.arg.toNat then s else s.driveReset p.arg.toNat)

/-- UNBIND_RX (R262). -/
def execUnbindRx (p : Pdu) (s : State) : Result :=
  .next (s.pduRx 9 p fun n s => if n = 8 then s.dbDrop else s)

/-- BIND_TIMEOUT (R261, R262, R275): end `n`, 8 for the Downstream Binding adapter, has heard nothing for `BIND_TMO`
Milestones; a request has had no answer for as long. -/
def execBindTimeout (n : Fin 9) (s : State) : Result :=
  .next (if s.bState n = bsRequested then
      (if (s.bind n).asked < s.bindTmo ∨ (s.bind n).wait ≠ none then s else s.bindRefused n)
    else if (s.bind n).quiet < s.bindTmo then s
    else if n.val = 8 then s.dbDrop
    else if s.bState n = bsUp then ((s.raise PX_EVENT.BIND_DOWN).vpDown n bsLost).bindRequest n
    else s)

/-- The counts of cells released go to the far end (R268). -/
def State.sendReleased (s : State) (n : Nat) : State :=
  s.sendPdu n 5 0 ((List.range 3).flatMap fun k => beBytes 2 (tget 0 k (s.bind n).released))

/-- PDU_CREDIT_DUE (R268, R270): the counts of cells released are sent; first, TLPs that waited for link credit go, but for the
kinds in `short`. -/
def execPduCreditDue (n : Fin 9) (short : Fin 8) (s : State) : Result :=
  .next (if s.bState n < bsBound then s else ((s.toLink n short).sendReleased n).partnerDrain)

/-! ### PERST#, link changes, hot reset (R255, R258, R259, R263, R276) -/

/-- The PCIe link of the adapter changes: width and speed coded as `MAX_WIDTH` and `MAX_SPEED`. -/
def State.pcieLink (s : State) (up : Bool) (width speed ltssm : Nat) : State :=
  let changed := s.get PX_LINK.DL_UP != up.toNat
  let s := ((s.put PX_LINK.LTSSM ltssm).put PX_LINK.DL_UP up.toNat).put PX_LINK.NEG_WIDTH width
  (s.put PX_LINK.NEG_SPEED speed).when changed fun s => s.raise PX_EVENT.LINK_CHG

/-- `PERST#` falls at a virtual port: hot reset goes to a drive that is up, and what the port holds for the host and the drive
is cleared; its Slot Status shows the drive of a binding that is up (R259, R274). -/
def State.perstPort (s : State) (n : Nat) : State :=
  let up := s.bState n == bsUp
  let s := s.when up fun s => s.sendPdu n 8 1 []
  let s := s.each (s.bind n).linkQ fun t s => s.releaseCells n t
  (s.setBind n fun b =>
    { b with table := [], npWait := [], queue := [], linkQ := [], present := up, linkAct := up, presChg := false, actChg := false,
             disabled := false, aer := 0 }).put (PX_VP_STATUS.NP_OUT n) 0

/-- `PERST#` falls: every function, the management function with its MSI-X included, returns to the state of a fundamental reset
(R259). -/
def State.perstClear (s : State) : State :=
  let s := (s.each (List.range 8) fun n s => s.perstPort n).fnReset
  s.setPx fun x => { x with perstIn := true, partner := [] }

/-- PERST_IN_FALL (R259, R274): nothing but the pin's level changes outside Upstream Switch mode. The LTSSM code of a link held down is a free value. -/
def execPerstInFall (s : State) : Result :=
  .next (if !s.upSwitch then s.setPx fun x => { x with perstIn := true }
    else
      let t := s.perstClear
      t.usedFree.pcieLink false 0 0 (t.free % 64))

/-- PERST_IN_RISE (R259): the link trains again; it comes up with HOST_LINK_CHANGE. -/
def execPerstInRise (s : State) : Result := .next (s.setPx fun x => { x with perstIn := false })

/-- PERST_RELEASE (R258): 100 ms after the reference clock started. -/
def execPerstRelease (s : State) : Result :=
  .next (match s.px.refStart with
    | some t => if 100000000 ≤ s.elapsed t ∧ s.on PX_LINK.PERST then (s.put PX_LINK.PERST 0).emit (.perst false) else s
    | none => s)

/-- A link comes up within `MAX_WIDTH` and `MAX_SPEED` (R255). -/
def State.linkWithin (s : State) (up : Bool) (width speed : Nat) : Bool :=
  !up || decide (width ≤ min 2 (s.get PX_CFG.MAX_WIDTH) ∧ speed ≤ s.get PX_CFG.MAX_SPEED)

/-- The virtual port bound to the Downstream Binding adapter hears of its link (R263). -/
def State.reportDrive (s : State) (up : Bool) : State :=
  s.when (s.on PX_DB.BOUND) fun s => s.sendPdu 8 6 up.toNat (beBytes 1 s.linkByte)

/-- DRIVE_LINK_CHANGE (R263). -/
def execDriveLinkChange (up : Bool) (width : Fin 3) (speed : Fin 4) (ltssm : Fin 64) (s : State) : Result :=
  .next (if !s.downBinding || !s.linkWithin up width speed then s else (s.pcieLink up width speed ltssm).reportDrive up)

/-- HOST_LINK_CHANGE (R255). -/
def execHostLinkChange (up : Bool) (width : Fin 3) (speed : Fin 4) (ltssm : Fin 64) (s : State) : Result :=
  .next (if s.upSwitch && s.linkWithin up width speed && !(up && s.px.perstIn) then s.pcieLink up width speed ltssm else s)

/-- SECONDARY_BUS_RESET (R276). -/
def execSecondaryBusReset (vp : Fin 8) (s : State) : Result := .next (s.when s.upSwitch fun s => s.busReset vp)

/-- LINK_DISABLE (R276): the host sets or clears Link Disable. -/
def execLinkDisable (vp : Fin 8) (set : Bool) (s : State) : Result := .next (s.when s.upSwitch fun s => s.linkDisable vp set)

end Sys2Proof.Machine
end

