-- ==== Sys2Proof/Machine/RegWrite.lean ====
section
/-! DEFINITION. What a write of a word does to the fields of one register, by their access types (R13, R16). -/

namespace Sys2Proof.Machine

/-- One field of a register takes its part of a written word (R13): RW takes it, W1C clears where it is 1, FH goes to the
shadow Forme; RO, RC and WO hold nothing from it. -/
def State.writeField (s : State) (a : Nat) (w : Word) (f : FieldD) : State :=
  let g : Fld := ⟨a, f.hi, f.lo⟩
  let v := wordField w f.hi f.lo
  match f.acc with
  | .rw => s.put g v
  | .w1c => s.put g (s.get g &&& (2 ^ (f.hi + 1 - f.lo) - 1 - v))
  | .fh => s.putShadow g v
  | _ => s

/-- Every field of a register takes its part of a written word. -/
def State.writeFields (s : State) (a : Nat) (w : Word) : State :=
  match regAt a with
  | none => s
  | some r => s.each r.fields fun f s => s.writeField a w f

/-- A register holds at least one FH field (R401). -/
def hasFh (a : Nat) : Bool :=
  match regAt a with
  | none => false
  | some r => r.fields.any fun f => f.acc == .fh

/-- The FH fields of a register take their part of a written word in the shadow Forme (R16, R18). -/
def State.writeShadow (s : State) (a : Nat) (w : Word) : State :=
  match regAt a with
  | none => s
  | some r => s.each (r.fields.filter fun f => f.acc == .fh) fun f s => s.writeField a w f

/-- The class enables a power path controller (R4). -/
def State.hasPath (s : State) (n : Nat) : Bool :=
  if s.cls = classTool then n ≤ 2 || (8 ≤ n && n ≤ 9)
  else if s.cls = classSpine then n ≤ 5 || (8 ≤ n && n ≤ 9)
  else n ≤ 9

/-- An address lies in a block that the class excludes (R4, R5, R8, R377); the registers of a power path controller or of a
cable port count with the unit. -/
def State.blockExcluded (s : State) (a : Nat) : Bool :=
  let b := a / 0x10000
  if 0x10 ≤ b ∧ b ≤ 0x13 then !s.hasJ (b - 0x10)
  else if 0x30 ≤ b ∧ b ≤ 0x31 then
    !s.hasJ (b - 0x30 + 4) || (!s.hasCapture && ([0x04, 0x08, 0x0C, 0x10, 0x14, 0x18, 0x1C, 0x4C] : List Nat).contains (a % 0x10000))
  else if b = 0x34 then !s.hasJ 6
  else if 0x36 ≤ b ∧ b ≤ 0x37 then !s.hasJ (b - 0x36 + 7)
  else if b = 0x07 then !s.hasJ 12
  else if b = 0x3A then !s.on ID_PRESENT.DOCK
  else if 0x40100 ≤ a ∧ a < 0x40380 then !s.hasPath ((a - 0x40100) / 64)
  else if 0x50100 ≤ a ∧ a < 0x50180 then !s.hasJ ((a - 0x50100) / 32)
  else if 0x50200 ≤ a ∧ a < 0x50240 then !s.on ID_PRESENT.DOCK
  else if 0x40 ≤ b ∧ b ≤ 0x4B then s.get (ENG_STATUS.STATE (b - 0x40)) == 4
  else false

/-- A forme-control register (R387): the Forme control block, `ENG_CMD` of every engine, and `RST_BLOCK`. -/
def formeControl (a : Nat) : Bool :=
  a / 0x10000 == 1 || a == RST_BLOCK || (decide (0x40 ≤ a / 0x10000 ∧ a / 0x10000 ≤ 0x4B) && a % 0x10000 == 4)

/-! ### The order of accesses on a path (R51) -/

/-- An access of a path that must wait: it stalls, or an earlier access of its path has stalled and not been made (R19, R51). It
is set aside whole; otherwise it is made. -/
def State.ordered (s : State) (p : Path) (stall : Bool) (c : Instr) (g : State → State) : State :=
  if stall || s.fc.stalled.any fun e => e.1 == p then s.setFc fun f => { f with stalled := f.stalled ++ [(p, c)] } else g s

end Sys2Proof.Machine
end

