-- ==== Sys2Proof/Machine/Bridge.lean ====
section
/-! DEFINITION. The commands of the Local Bus bridge (chapter 08): bus cycles, remote windows, credits and ordering, far-side
errors, sideband signals and the process image. -/

namespace Sys2Proof.Machine

def State.setLb (s : State) (g : Bridge → Bridge) : State := { s with lb := g s.lb }

/-! ### Configuration (R296 to R299, R302) -/

/-- The bridge runs: enabled, in the class and not held in block reset. -/
def State.lbOn (s : State) : Bool := s.on LB_CFG.EN && s.hasJ 9 && !s.on RST_BLOCK.LB_HOLD && !s.on ID_HUB.ROLE

/-- The size of a window in bytes: `SIZE` is held between 12 and 28. -/
def State.winBytes (s : State) (n : Nat) : Nat := 2 ^ max 12 (min 28 (s.get (LB_WIN_OUT.SIZE n)))
def State.winBase (s : State) (n : Nat) : Nat := s.get (LB_WIN_OUT.BASE n) * 0x1000

/-- A count of units of 4 in which 0 means 64; a count in which 0 means 16. -/
def fours (v : Nat) : Nat := if v = 0 then 64 else 4 * v
def sixteens (v : Nat) : Nat := if v = 0 then 16 else v

/-- Inbound pools add up to more than the receive store (R302). -/
def State.inPoolsBad (s : State) : Bool :=
  let on := (List.range 32).filter fun n => s.on (LB_WIN_IN.IN_EN n)
  let sum := (on.map fun n => fours (s.get (LB_WIN_IN.IN_P_CR n)) + sixteens (s.get (LB_WIN_IN.IN_NP_CR n))).foldl (· + ·) 0
  decide (1024 < sum)

/-- A window is in service outbound (R299) and inbound (R302). -/
def State.outWin (s : State) (n : Nat) : Bool := s.on (LB_WIN_OUT.OUT_EN n) && s.lossless (s.get (LB_WIN_OUT.W_TC n))
def State.inWin (s : State) (n : Nat) : Bool := s.on (LB_WIN_IN.IN_EN n) && !s.inPoolsBad

/-! ### Messages (R299, R300) -/

/-- A bridge message to a hub: header, data and class; one cell. -/
def State.sendBridge (s : State) (hub tunnel tc flow : Nat) (payload : List Byte) : State :=
  s.present 9 (s.ownCell ⟨hub, 9, tunnel, tc, 3, flow⟩ payload)

/-- The 16-byte header. -/
def bridgeHdr (btype twin iwin tag off blen stat seq : Nat) : List Byte :=
  beBytes 1 btype ++ beBytes 1 twin ++ beBytes 1 iwin ++ beBytes 1 tag ++ beBytes 4 off ++ beBytes 1 blen ++ beBytes 1 stat
    ++ beBytes 2 seq ++ beBytes 4 0

/-- A message of an outbound window to its target. -/
def State.sendWin (s : State) (n tunnel btype tag off blen seq : Nat) (data : List Byte) : State :=
  s.sendBridge (s.get (LB_WIN_TGT.T_HUB n)) tunnel (s.get (LB_WIN_OUT.W_TC n)) n
    (bridgeHdr btype (s.get (LB_WIN_TGT.T_WIN n)) n tag off blen 0 seq ++ data)

/-- RESYNC of an outbound window: its posted writes wait for the credit that answers (R313). -/
def State.sendResync (s : State) (n : Nat) : State :=
  let s := s.setLb fun b => { b with resync := n :: b.resync.filter (· != n) }
  s.sendBridge (s.get (LB_WIN_TGT.T_HUB n)) 0x804 7 n
    (bridgeHdr 8 (s.get (LB_WIN_TGT.T_WIN n)) n 0 0 0 0 (tget 0 n s.lb.nextSeq))

/-- The credit message of an inbound window (R302). -/
def State.sendCredit (s : State) (n : Nat) : State :=
  let iw := s.get (LB_WIN_CTL.IN_IWIN n)
  s.sendBridge (s.get (LB_WIN_CTL.IN_HUB n)) 0x804 7 iw (bridgeHdr 5 n iw 0 0 0 0 (tget 65535 n s.lb.released))

/-- FAR_ERR for a posted write (R300, R310). -/
def State.sendFarErr (s : State) (hub twin iwin off seq code : Nat) : State :=
  s.sendBridge hub 0x803 7 iwin
    (bridgeHdr 6 twin iwin 0 off 0 code seq ++ beBytes 6 s.tm.sec ++ beBytes 4 s.tm.ns)

/-- FAR_ERR for a delivery (R310): no field of R300 holds `INIT` and the signal index; they go into bytes 12 to 15
(notes/assumptions/22.md). -/
def State.sendSigErr (s : State) (hub sig off code : Nat) : State :=
  let h := (bridgeHdr 6 0 0 0 off 0 code 0).take 12 ++ beBytes 2 0x8000 ++ beBytes 2 sig
  s.sendBridge hub 0x803 7 (sig % 2048) (h ++ beBytes 6 s.tm.sec ++ beBytes 4 s.tm.ns)

/-- A completion to the initiating hub (R299 to R301), in the class of its window, which is that of the request, and its `FLOW`. -/
def State.sendCpl (s : State) (r : Inbound) (stat : Nat) (data : List Byte) : State :=
  s.sendBridge r.src 0x802 r.msg.tc r.msg.iwin
    (bridgeHdr 4 r.msg.twin r.msg.iwin r.msg.tag.toNat r.msg.off.toNat (if data = [] then r.msg.blen.val else data.length) stat 0
      ++ data)

/-! ### The bus (R295) -/

/-- The hub has cycles of its own waiting. -/
def State.lbWork (s : State) : Bool := s.lb.inPosted != [] || s.lb.inNp != [] || s.lb.images != []

/-- The bus is idle: a device that requests gets the grant, unless it is the hub's turn (R295). -/
def State.lbIdle (s : State) : State :=
  if s.get LB_STATUS.OWNER == 0 && s.lb.breq && !(s.lb.lastDev && s.lbWork) then
    (s.put LB_STATUS.OWNER 2).emit (.lbGrant true)
  else s

/-- The device's cycle ends with an answer; a request made meanwhile may have the grant. -/
def State.endDev (s : State) (code : Nat) (data : List Byte) : State :=
  let s := s.emit (.lbAnswer code data)
  let s := s.setLb fun b => { b with lastDev := true, heldDev := none }
  (s.put LB_STATUS.OWNER 0).lbIdle

/-- LB_BUS_REQUEST (R295). -/
def execLbBusRequest (s : State) : Result :=
  .next (if s.lbOn then (s.setLb fun b => { b with breq := true }).lbIdle else s)

/-- LB_GRANT_WITHDRAW (R295): no first address beat within 4 clocks. -/
def execLbGrantWithdraw (s : State) : Result :=
  .next (if s.get LB_STATUS.OWNER = 2 ∧ s.lb.heldDev = none then
      ((s.put LB_STATUS.OWNER 0).setLb fun b => { b with breq := false }).emit (.lbGrant false)
    else s)

/-! ### The process image (R317 to R321) -/

/-- The place of a signal's entry, and bits of its words (R318). -/
def sigPlace (i : Nat) : Nat := 0xE8000 + 32 * i
def State.sigGet (s : State) (i w hi lo : Nat) : Nat := bits (s.caseNat (sigPlace i + 4 * w) 4) hi lo

/-- Entries in use, ascending. -/
def State.sigs (s : State) : List Nat := (List.range 1024).filter fun i => s.sigGet i 0 31 31 == 1

/-- Bytes written into the image. -/
def State.imgPut (s : State) (a : Nat) (bs : List Byte) : State := { s with pimage := memWrite s.pimage a bs }

/-- Bytes written into the image by a device cycle or a management write; a producer's value whose last byte is among them is
committed (R319). -/
def State.imgWrite (s : State) (a : Nat) (bs : List Byte) : State :=
  let s := s.imgPut a bs
  s.each s.sigs fun i s =>
    let ofs := s.sigGet i 0 15 0
    let n := s.sigGet i 0 28 23
    if s.sigGet i 0 30 30 = 0 ∧ a ≤ ofs + n ∧ ofs + n < a + bs.length then
      s.setLb fun b => { b with commit := tput [] i (memBytes s.pimage ofs (n + 1)) b.commit }
    else s

/-- `LAST_NS` and `UPDATES` of an entry (R318). -/
def State.sigTouch (s : State) (i : Nat) : State :=
  (s.setCase (sigPlace i + 20) 4 s.tm.ns).setCase (sigPlace i + 24) 4 ((s.sigGet i 6 31 0 + 1) % 2 ^ 32)

/-- The period of a signal in µs. -/
def State.sigPeriod (s : State) (i : Nat) : Nat := max (s.sigGet i 2 31 16) (s.sigGet i 2 15 0)

/-- A signal's value leaves as one cell (R299, R320). -/
def State.sendSignal (s : State) (i : Nat) (v : List Byte) : State :=
  let peer := s.sigGet i 1 20 11
  (s.sendBridge (s.sigGet i 1 31 21) peer (s.sigGet i 1 10 8) peer v).sigTouch i

/-- SIGNAL_SEND (R318 to R320): the last committed value goes, or with `PMODE` 1 a poll of the device is queued. -/
def execSignalSend (i : Fin 1024) (s : State) : Result :=
  .next (if !s.lbOn || s.sigGet i 0 31 31 != 1 || s.sigGet i 0 30 30 != 0 then s
    else if s.sigGet i 0 29 29 = 1 then s.setLb fun b => { b with images := b.images ++ [.poll i] }
    else
      s.sendSignal i (padTo (s.sigGet i 0 28 23 + 1) (tget [] i.val s.lb.commit)))

/-- A delivery to the device is queued in place of an earlier one of the same signal (R321). -/
def queueDelivery (i src : Nat) (v : List Byte) : List HubCyc → List HubCyc
  | [] => [.delivery i src v]
  | .delivery j p d :: t => if j = i then .delivery i src v :: t else .delivery j p d :: queueDelivery i src v t
  | c :: t => c :: queueDelivery i src v t

/-- A signal's value is taken: written to the image, fresh again, and queued for the device with `PMODE` 1 (R321). -/
def State.signalIn (s : State) (src i : Nat) (v : List Byte) : State :=
  let v := v.take (s.sigGet i 0 28 23 + 1)
  let s := (s.imgPut (s.sigGet i 0 15 0) v).sigTouch i
  let s := s.put (PI_STALE.STALE (i / 32)) (s.get (PI_STALE.STALE (i / 32)) &&& (2 ^ 32 - 1 - 2 ^ (i % 32)))
  let s := s.setLb fun b => { b with updated := tput 0 i s.tm.tick b.updated }
  s.when (s.sigGet i 0 29 29 == 1) fun s => s.setLb fun b => { b with images := queueDelivery i src v b.images }

/-- SIGNAL_RX (R299, R321). -/
def execSignalRx (src : Fin 2048) (i : Fin 1024) (v : List Byte) (s : State) : Result :=
  let t := s.takeFifo 9 i
  .next (if !s.lbOn || s.sigGet i 0 31 31 != 1 || s.sigGet i 0 30 30 != 1 then t else t.signalIn src i v)

/-- SIGNAL_STALE (R321): no update for `STALE_N` periods. -/
def execSignalStale (i : Fin 1024) (s : State) : Result :=
  let limit := max 1 (s.sigGet i 3 15 8) * s.sigPeriod i * 1000
  .next (if s.sigGet i 0 31 31 = 1 ∧ s.sigGet i 0 30 30 = 1 ∧ limit ≤ s.elapsed (tget 0 i.val s.lb.updated) then
      (s.put (PI_STALE.STALE (i / 32)) (s.get (PI_STALE.STALE (i / 32)) ||| 2 ^ (i.val % 32))).raise LB_EVENT.PI_STALE
    else s)

/-! ### Device cycles (R296, R297, R302, R305 to R308, R311, R317) -/

/-- Posted writes of a window not yet released (R302). -/
def State.unreleased (s : State) (n : Nat) : Nat :=
  (tget 0 n s.lb.nextSeq + 65536 - 1 - tget 65535 n s.lb.credited) % 65536

/-- A posted write of the window may go now (R302, R308, R313). -/
def State.postedRoom (s : State) (n : Nat) : Bool :=
  decide (s.unreleased n < fours (s.get (LB_WIN_TGT.P_CR n))) && !s.lb.resync.contains n && tget [] 9 s.jn.held == []

/-- Requests of a window without a completion. -/
def State.npOpen (s : State) (n : Nat) : Nat := (s.lb.reqs.filter fun r => r.win == n && r.reply == none).length

/-- `NP_OUT`, `DLY_USED`, `IN_P` and `IN_NP` follow the lists. -/
def State.lbCounts (s : State) (n : Nat) : State :=
  let s := s.put (LB_WIN_CTL.NP_OUT n) (s.npOpen n)
  let s := s.put LB_STATUS.DLY_USED ((s.lb.reqs.filter fun r => !r.wait).length)
  (s.put LB_STATUS.IN_P s.lb.inPosted.length).put LB_STATUS.IN_NP s.lb.inNp.length

/-- A posted write is sent and completes on the bus (R297). -/
def State.sendPosted (s : State) (n : Nat) (c : DevCyc) : State :=
  let q := tget 0 n s.lb.nextSeq
  let s := s.sendWin n 0x800 1 0 (c.addr - s.winBase n) c.len q c.data
  (s.setLb fun b => { b with nextSeq := tput 0 n ((q + 1) % 65536) b.nextSeq }).endDev 0 []

/-- The window that takes a cycle: the lowest-numbered enabled one (R296). -/
def State.winOf (s : State) (a : Nat) : Option Nat :=
  (List.range 32).find? fun n => s.outWin n && decide (s.winBase n ≤ a) && decide (a < s.winBase n + s.winBytes n)

/-- The write mode of the sub-range in which an address lies: acknowledged (R297). -/
def State.acknowledged (s : State) (n a : Nat) : Bool :=
  (s.get (LB_WIN_TGT.WMODE n)).testBit ((a - s.winBase n) / (s.winBytes n / 8))

/-- A non-posted request leaves (R302, R305, R306). -/
def State.sendRequest (s : State) (n : Nat) (c : DevCyc) (wait : Bool) : State :=
  let tag := s.lb.nextTag
  let s := s.sendWin n 0x801 (if c.write then 2 else 3) tag (c.addr - s.winBase n) c.len 0 c.data
  let s := s.setLb fun b =>
    { b with reqs := b.reqs ++ [⟨n, tag, c, wait, s.tm.tick, none⟩], nextTag := (tag + 1) % 256 }
  s.lbCounts n

/-- A request may leave: `NP_CR` and the completion store of 512 cells (R302). -/
def State.npRoom (s : State) (n : Nat) : Bool :=
  decide (s.npOpen n < sixteens (s.get (LB_WIN_TGT.NP_CR n))) && decide (s.lb.reqs.length < 512)

/-- A held device cycle goes on: a posted write when there is room or its window is fenced, a non-posted one whose request has
not left when it may leave (R302, R306, R308, R311). -/
def State.retryHeld (s : State) : State :=
  match s.lb.heldDev with
  | some (c, _) => match s.winOf c.addr with
    | some n =>
      if c.write && !s.acknowledged n c.addr then
        if s.on (LB_WIN_CTL.FENCED n) then (s.inc LB_CNT2.FENCE_DROP).endDev 0 []
        else if s.postedRoom n then s.sendPosted n c
        else s
      else if s.npRoom n && !s.lb.reqs.any (·.wait) then s.sendRequest n c true
      else s
    | none => s
  | none => s

/-- A read or acknowledged write of the device (R305, R306). -/
def State.npCycle (s : State) (n : Nat) (c : DevCyc) : State :=
  if s.get LB_CFG.NP_MODE = 1 then
    match s.lb.reqs.find? fun r => !r.wait && r.win == n && r.cyc == c with
    | some r => match r.reply with
      | some (stat, data, _) =>
        let s := s.setLb fun b => { b with reqs := b.reqs.filter (· != r) }
        (s.lbCounts n).endDev (if stat = 0 then 0 else 1) data
      | none => s.endDev 2 []
    | none =>
      if 8 ≤ s.get LB_STATUS.DLY_USED ∨ !s.npRoom n then s.endDev 2 []
      else (s.sendRequest n c false).endDev 2 []
  else
    let s := s.setLb fun b => { b with heldDev := some (c, s.tm.tick) }
    if s.npRoom n then s.sendRequest n c true else s

/-- A device cycle in a window (R296, R297, R308, R311). -/
def State.winCycle (s : State) (n : Nat) (c : DevCyc) : State :=
  if s.winBase n + s.winBytes n < c.addr + c.len ∨ 16 < (c.addr % 2 + c.len + 1) / 2 then
    ((s.inc LB_CNT.NO_WIN).raise LB_EVENT.NO_WIN).endDev 1 []
  else if c.write && !s.acknowledged n c.addr then
    if s.on (LB_WIN_CTL.FENCED n) then (s.inc LB_CNT2.FENCE_DROP).endDev 0 []
    else if s.postedRoom n then s.sendPosted n c
    else s.setLb fun b => { b with heldDev := some (c, s.tm.tick) }
  else s.npCycle n c

/-- A device address lies in the process-image region. -/
def State.inImage (s : State) (c : DevCyc) : Bool :=
  let b := s.get LB_CFG2.PI_LB_BASE * 0x10000
  s.on LB_CFG2.PI_LB_EN && decide (b ≤ c.addr) && decide (c.addr + c.len ≤ b + 0x10000)

/-- The bytes of a device cycle that its byte enables choose are written into the image, in ascending order (R291, R319). -/
def State.imgEnabled (s : State) (a en : Nat) (bs : List Byte) : State :=
  if en % 2 ^ bs.length = 2 ^ bs.length - 1 then s.imgWrite a bs
  else s.each (bs.zipIdx.filter fun e => en.testBit e.2) fun (v, i) s => s.imgWrite (a + i) [v]

/-- LB_DEVICE_CYCLE (R291 to R293, R295 to R297, R302, R305, R306, R308, R311, R317, R319): the device, holding the grant, starts
a cycle at a device address over the run of bytes from the first to the last that its byte enables choose; `en` gives them, byte
0 first. A window's message holds no byte enables: it carries the run as `LB_AD` shows it (notes/assumptions/57.md). -/
def execLbDeviceCycle (write : Bool) (addr : Word) (en : BitVec 64) (data : List Byte) (s : State) : Result :=
  let c : DevCyc := ⟨write, addr.toNat, runBytes en, if write then padTo (runBytes en) data else []⟩
  .next (if !s.lbOn || s.get LB_STATUS.OWNER != 2 || s.lb.heldDev != none then s
    else
      let t := (s.setLb fun b => { b with breq := false }).emit (.lbGrant false)
      if s.inImage c then
        let a := c.addr % 0x10000
        if write then (t.imgEnabled a en.toNat c.data).endDev 0 [] else t.endDev 0 (memBytes s.pimage a c.len)
      else match s.winOf c.addr with
        | some n => t.winCycle n c
        | none => ((t.inc LB_CNT.NO_WIN).raise LB_EVENT.NO_WIN).endDev 1 [])

/-- POSTED_HOLD_TIMEOUT (R308). -/
def execPostedHoldTimeout (s : State) : Result :=
  let s := s.retryHeld
  .next (match s.lb.heldDev with
    | some (c, t) =>
      let posted := match s.winOf c.addr with
        | some n => c.write && !s.acknowledged n c.addr
        | none => c.write
      if posted && decide (max 1 (s.get LB_CFG.FAR_TMO) * 1000 ≤ s.elapsed t) then (s.inc LB_CNT.BUS_TMO).endDev 1 [] else s
    | none => s)

/-- A completion, from the far side or local, meets its request (R305 to R307). -/
def State.complete (s : State) (r : BridgeReq) (stat : Nat) (data : List Byte) : State :=
  if r.wait then
    let s := (s.setLb fun b => { b with reqs := b.reqs.filter (· != r) }).lbCounts r.win
    s.endDev (if stat = 0 then 0 else 1) data
  else
    let s := (s.setLb fun b =>
      { b with reqs := b.reqs.map fun x => if x = r then { x with reply := some (stat, data, s.tm.tick) } else x }).lbCounts r.win
    s.retryHeld

/-- The request of a window and tag that has no completion yet. -/
def Bridge.openReq (b : Bridge) (n tag : Nat) : Option BridgeReq := b.reqs.find? fun r => r.win == n && r.tag == tag && r.reply == none

/-- COMPLETION_RX (R305 to R307). -/
def execCompletionRx (_src : Fin 2048) (m : BridgeMsg) (s : State) : Result :=
  let t := s.takeFifo 9 0x802
  .next (match s.lb.openReq m.iwin m.tag.toNat with
    | some r => t.complete r m.stat.toNat (if r.cyc.write then [] else m.data)
    | none => t.inc LB_CNT.LATE_CPL)

/-- FAR_TMO (R307): the request of window and tag. -/
def execFarTmo (n : Fin 32) (tag : Byte) (s : State) : Result :=
  .next (match s.lb.openReq n tag.toNat with
    | some r =>
      if max 1 (s.get LB_CFG.FAR_TMO) * 1000 ≤ s.elapsed r.sent then (s.complete r 5 []).raise LB_EVENT.NP_TMO else s
    | none => s)

/-- DLY_DISCARD (R305): the completion of a delayed entry has found no repeat. -/
def execDlyDiscard (n : Fin 32) (tag : Byte) (s : State) : Result :=
  .next (match s.lb.reqs.find? fun r => r.win == n.val && r.tag == tag.toNat && !r.wait with
    | some r => match r.reply with
      | some (_, _, t) =>
        if s.get LB_CFG2.DLY_DISCARD * 1000 ≤ s.elapsed t then
          ((s.setLb fun b => { b with reqs := b.reqs.filter (· != r) }).lbCounts n).inc LB_CNT.DLY_DISCARD
        else s
      | none => s
    | none => s)

/-! ### Requests from other hubs (R298, R302 to R304, R310, R313) -/

/-- The request is out of its window or the sender is not the window's hub: code 1 (R298). -/
def State.refusedIn (s : State) (src : Nat) (m : BridgeMsg) : Bool :=
  !s.lbOn || !s.inWin m.twin || s.get (LB_WIN_CTL.IN_HUB m.twin) != src || decide (s.winBytes m.twin < m.off.toNat + m.blen.val)

/-- POSTED_WRITE_RX (R298, R302, R310, R313). -/
def execPostedWriteRx (src : Fin 2048) (m : BridgeMsg) (s : State) : Result :=
  let t := s.takeFifo 9 0x800
  let n := m.twin.val
  let fail (code : Nat) : State := t.sendFarErr src n m.iwin m.off.toNat m.seq.toNat code
  .next (if s.refusedIn src m then fail 1
    else match s.lb.synced.find? fun e => e.1 == n with
      | none => t
      | some (_, first) =>
        if 32768 ≤ (m.seq.toNat + 65536 - first) % 65536 then t
        else if fours (s.get (LB_WIN_IN.IN_P_CR n)) ≤ (s.lb.inPosted.filter fun r => r.win == n).length then fail 4
        else (t.setLb fun b => { b with inPosted := b.inPosted ++ [⟨n, src, m⟩] }).lbCounts n)

/-- A non-posted request arrives (R298, R302, R313). -/
def State.npArrive (s : State) (src : Nat) (m : BridgeMsg) (write : Bool) : State :=
  let t := s.takeFifo 9 0x801
  let n := m.twin.val
  let r : Inbound := ⟨n, src, m⟩
  if s.refusedIn src m then t.sendCpl r 1 []
  else if !s.lb.synced.any fun e => e.1 == n then t.sendCpl r 6 []
  else if sixteens (s.get (LB_WIN_IN.IN_NP_CR n)) ≤ (s.lb.inNp.filter fun r => r.1.win == n).length then t.sendCpl r 4 []
  else (t.setLb fun b => { b with inNp := b.inNp ++ [(r, write)] }).lbCounts n

/-- ACKNOWLEDGED_WRITE_RX (R298, R302, R313). -/
def execAcknowledgedWriteRx (src : Fin 2048) (m : BridgeMsg) (s : State) : Result := .next (s.npArrive src m true)

/-- READ_RX (R298, R302, R313). -/
def execReadRx (src : Fin 2048) (m : BridgeMsg) (s : State) : Result := .next (s.npArrive src m false)

/-- The next hub cycle: window requests and image cycles take turns; among requests posted writes come first (R304). -/
def Bridge.nextCycle (b : Bridge) : Option (HubCyc × Bridge) :=
  let window : Option (HubCyc × Bridge) := match b.inPosted, b.inNp with
    | r :: t, _ => some (.posted r, { b with inPosted := t, lastWin := true })
    | [], (r, w) :: t => some (.request r w, { b with inNp := t, lastWin := true })
    | [], [] => none
  let image : Option (HubCyc × Bridge) := match b.images with
    | c :: t => some (c, { b with images := t, lastWin := false })
    | [] => none
  if b.lastWin then image.orElse fun _ => window else window.orElse fun _ => image

/-- The bus cycle that a hub cycle runs (R298, R320, R321). -/
def State.cycleOut (s : State) : HubCyc → Out
  | .posted r => .lbCycle true (s.get (LB_WIN_IN.IN_CS r.win)) (s.get (LB_WIN_IN.IN_BASE r.win) * 0x1000 + r.msg.off.toNat)
      r.msg.blen r.msg.data
  | .request r w => .lbCycle w (s.get (LB_WIN_IN.IN_CS r.win)) (s.get (LB_WIN_IN.IN_BASE r.win) * 0x1000 + r.msg.off.toNat)
      r.msg.blen (if w then r.msg.data else [])
  | .delivery i _ v => .lbCycle true (s.sigGet i 1 7 6) (s.sigGet i 4 31 0) v.length v
  | .poll i => .lbCycle false (s.sigGet i 1 7 6) (s.sigGet i 4 31 0) (s.sigGet i 0 28 23 + 1) []

/-- LB_HUB_CYCLE (R295, R304, R320, R321): the hub starts its next cycle on an idle bus. -/
def execLbHubCycle (s : State) : Result :=
  .next (if !s.lbOn || s.get LB_STATUS.OWNER != 0 || (s.lb.breq && !s.lb.lastDev) then s
    else match s.lb.nextCycle with
      | none => s
      | some (c, b) =>
        let s := { s with lb := { b with cur := some c } }
        let n := match c with
          | .posted r => r.win
          | .request r _ => r.win
          | _ => 0
        ((s.emit (s.cycleOut c)).put LB_STATUS.OWNER 1).lbCounts n)

/-- A posted write is released: credit goes to its initiator (R302). -/
def State.releasePosted (s : State) (r : Inbound) : State :=
  (s.setLb fun b => { b with released := tput 65535 r.win r.msg.seq.toNat b.released }).sendCredit r.win

/-- A hub cycle has ended with a code of R301 and, for a read, its data; its result is returned (R298, R310, R320). -/
def State.cycleResult (s : State) (c : HubCyc) (code : Nat) (data : List Byte) : State :=
  match c with
  | .posted r =>
    let s := s.when (code != 0) fun s => s.sendFarErr r.src r.win r.msg.iwin r.msg.off.toNat r.msg.seq.toNat code
    s.releasePosted r
  | .request r w => s.sendCpl r code (if w ∨ code ≠ 0 then [] else padTo r.msg.blen data)
  | .delivery i src _ => s.when (code != 0) fun s => s.sendSigErr src i (s.sigGet i 0 15 0) code
  | .poll i => s.when (code == 0) fun s => s.sendSignal i (padTo (s.sigGet i 0 28 23 + 1) data)

/-- A cycle answered with retry goes back to the front of its queue. -/
def State.cycleBack (s : State) (c : HubCyc) : State :=
  s.setLb fun b => match c with
    | .posted r => { b with inPosted := r :: b.inPosted }
    | .request r w => { b with inNp := (r, w) :: b.inNp }
    | c => { b with images := c :: b.images }

/-- The bus is free after a hub cycle. -/
def State.hubCycleEnds (s : State) : State :=
  let s := s.setLb fun b => { b with cur := none, lastDev := false }
  ((s.put LB_STATUS.OWNER 0).lbCounts 0).lbIdle

/-- LB_HUB_CYCLE_DONE (R293, R298, R302, R310, R320): 0 complete, 1 error, 2 retry; a read brings its data. -/
def execLbHubCycleDone (result : Fin 3) (data : List Byte) (s : State) : Result :=
  .next (match s.lb.cur with
    | none => s
    | some c =>
      if result.val = 2 then (s.cycleBack c).hubCycleEnds
      else if result.val = 1 then
        (((s.inc LB_CNT2.BUS_ERR).raise LB_EVENT.BUS_ERR).cycleResult c 3 []).hubCycleEnds
      else (s.cycleResult c 0 data).hubCycleEnds)

/-- LB_WAIT_TIMEOUT (R293): the cycle counts in `BUS_TMO` and ends as an error. -/
def execLbWaitTimeout (s : State) : Result :=
  .next (match s.lb.cur with
    | none => s
    | some c => (((s.inc LB_CNT.BUS_TMO).raise LB_EVENT.BUS_ERR).cycleResult c 2 []).hubCycleEnds)

/-! ### Credit, far errors, restart (R302, R310 to R313) -/

/-- A window's credit is taken; it answers a RESYNC when it names the last number sent (R302, R313). -/
def State.creditWin (s : State) (n seq : Nat) : State :=
  let answers := (seq + 1) % 65536 == tget 0 n s.lb.nextSeq
  let s := s.setLb fun b =>
    { b with credited := tput 65535 n seq b.credited, resync := if answers then b.resync.filter (· != n) else b.resync }
  s.retryHeld

/-- A message of the target hub for an outbound window in service. -/
def State.fromTarget (s : State) (n src : Nat) : Bool := s.outWin n && s.get (LB_WIN_TGT.T_HUB n) == src

/-- BRIDGE_CREDIT_RX (R302, R313). -/
def execBridgeCreditRx (src : Fin 2048) (m : BridgeMsg) (s : State) : Result :=
  let t := s.takeFifo 9 0x804
  .next (if !s.fromTarget m.iwin src then t else t.creditWin m.iwin m.seq.toNat)

/-- An entry of the Far Error Log (R312): the lowest-numbered free one, or `FEL_LOST`. -/
def State.felLog (s : State) (code init winSig hub addr lost sec ns : Nat) : State :=
  match (List.range 16).find? fun e => !s.on (LB_FEL_HDR.V e) with
  | none => s.inc LB_CNT2.FEL_LOST
  | some e =>
    let s := (((s.put (LB_FEL_HDR.V e) 1).put (LB_FEL_HDR.CODE e) code).put (LB_FEL_HDR.INIT e) init).put
      (LB_FEL_HDR.WIN_SIG e) winSig
    let s := ((s.put (LB_FEL_HDR.FAR_HUB e) hub).put (LB_FEL_ADDR.ADDR e) addr).put (LB_FEL_TIME_HI.LOST_CNT e) lost
    ((s.put (LB_FEL_TIME_HI.SEC_HI e) (sec / 2 ^ 32)).put (LB_FEL_TIME_LO.SEC_LO e) sec).put (LB_FEL_NS.NS e) ns

/-- FAR_ERR_RX (R310, R312). -/
def execFarErrRx (src : Fin 2048) (m : BridgeMsg) (s : State) : Result :=
  let s := s.takeFifo 9 0x803
  let n := m.iwin.val
  let addr := if m.init then m.off.toNat else s.winBase n + m.off.toNat
  let s := s.felLog m.stat.toNat m.init.toNat (if m.init then m.sig.val else n) src addr 0 m.sec.toNat m.ns.toNat
  let s := s.raise LB_EVENT.FAR_ERR
  .next (s.when (!m.init && s.on (LB_WIN_OUT.FENCE_EN n)) fun s => ((s.put (LB_WIN_CTL.FENCED n) 1).raise LB_EVENT.FENCE).retryHeld)

/-- The far bridge of a window restarted: lost writes are logged with this hub's time, RESYNC goes out, requests end with
code 6 (R312, R313). -/
def State.restartWin (s : State) (n src : Nat) : State :=
  let s := s.felLog 6 0 n src (s.winBase n) (s.unreleased n) s.tm.sec s.tm.ns
  let s := s.setLb fun b => { b with credited := tput 65535 n ((tget 0 n b.nextSeq + 65535) % 65536) b.credited }
  let s := (s.raise LB_EVENT.RESTART).sendResync n
  s.each (s.lb.reqs.filter fun r => r.win == n && r.reply == none) fun r s => s.complete r 6 []

/-- BRIDGE_RESTART_RX (R312, R313). -/
def execBridgeRestartRx (src : Fin 2048) (m : BridgeMsg) (s : State) : Result :=
  let t := s.takeFifo 9 0x804
  .next (if !s.fromTarget m.iwin src then t else t.restartWin m.iwin src)

/-- An inbound window starts again with a sequence number, and answers with its credit (R313). -/
def State.takeResync (s : State) (n q : Nat) : State :=
  (s.setLb fun b =>
    { b with synced := (n, q) :: b.synced.filter (fun e => e.1 != n),
             released := tput 65535 n ((q + 65535) % 65536) b.released }).sendCredit n

/-- RESYNC_RX (R313). -/
def execResyncRx (src : Fin 2048) (m : BridgeMsg) (s : State) : Result :=
  let t := s.takeFifo 9 0x804
  let n := m.twin.val
  .next (if !s.lbOn || !s.inWin n || s.get (LB_WIN_CTL.IN_HUB n) != src.val then t else t.takeResync n m.seq.toNat)

/-- FENCE_CLEAR (R311). -/
def execFenceClear (n : Fin 32) (s : State) : Result := .next (s.put (LB_WIN_CTL.FENCED n) 0)

/-- FEL_ENTRY_FREE (R312). -/
def execFelEntryFree (e : Fin 16) (s : State) : Result := .next (s.put (LB_FEL_HDR.V e) 0)

/-- The forme-held part of word `w` of a window's registers. -/
def State.winWord (s : State) (n w : Nat) : Word := s.reg (LB_WIN_OUT n + 4 * w) &&& (if w = 3 then 0xFFFF0000 else 0xFFFFFFFF)

/-- A window starts (R313): its inbound requests are discarded, RESTART and RESYNC go out. -/
def State.startWindow (s : State) (n : Nat) : State :=
  let s := s.setLb fun b =>
    { b with inPosted := b.inPosted.filter fun r => r.win != n, inNp := b.inNp.filter fun r => r.1.win != n,
             synced := b.synced.filter fun e => e.1 != n,
             winIs := (List.range 4).foldl (fun t w => tput 0 (4 * n + w) (s.winWord n w) t) b.winIs }
  let s := s.lbCounts n
  let iw := s.get (LB_WIN_CTL.IN_IWIN n)
  let s := s.when (s.inWin n) fun s =>
    s.sendBridge (s.get (LB_WIN_CTL.IN_HUB n)) 0x804 7 iw (bridgeHdr 7 n iw 0 0 0 0 0)
  s.when (s.outWin n) fun s => s.sendResync n

/-- The bridge starts (R313), at a cold, warm or block reset. -/
def State.startBridge (s : State) : State :=
  if !s.lbOn then s
  else
    let s := s.setLb fun b => { b with images := [] }
    s.each (List.range 32) fun n s => s.startWindow n

/-- The fields of a window differ from those it was started with. -/
def State.winChanged (s : State) (n : Nat) : Bool :=
  (List.range 4).any fun w =>
    tget 0 (4 * n + w) s.lb.winIs != s.winWord n w

/-! ### Sideband (R315, R316) -/

/-- The levels of the sideband outputs (R316). -/
def State.sbLevels (s : State) : Nat :=
  let remote := if s.lb.sbSafe then s.get SB_OUT.SB_SAFE else s.lb.sbRemote
  let m := s.get SB_SRC.SB_REMOTE
  (remote &&& m) ||| (s.get SB_OUT.SB_OUT_REG &&& (0xFFFF - m))

/-- The outputs follow their sources. -/
def State.sbDrive (s : State) : State :=
  let v := s.sbLevels
  if s.get SB_STATE.OUT_NOW = v then s else (s.put SB_STATE.OUT_NOW v).emit (.sbOut v)

/-- A state message (R315). -/
def State.sendSideband (s : State) : State :=
  let b := s.lb
  let s := s.setLb fun b => { b with sbSeq := (b.sbSeq + 1) % 65536 }
  s.sendBridge (s.get SB_CFG.SB_DEST_HUB) 0x805 (s.get SB_CFG.SB_TC) 0
    (beBytes 2 (s.get SB_STATE.IN_NOW) ++ beBytes 6 b.sbTime.1 ++ beBytes 4 b.sbTime.2 ++ beBytes 2 b.sbSeq ++ [0, 0])

/-- The samples in a row of each input's level are counted, up to 4 (R315). -/
def State.sbCount (s : State) (levels : BitVec 16) : State :=
  s.each (List.range 16) fun k s =>
    let v := (levels.getLsbD k).toNat
    let (w, n) := tget (0, 0) k s.lb.sbRun
    s.setLb fun b => { b with sbRun := tput (0, 0) k (if w = v then (v, min (n + 1) 4) else (v, 1)) b.sbRun }

/-- A level seen often enough is taken; a change is sent at once (R315). -/
def State.sbTake (s : State) : State :=
  let need := s.get SB_CFG.SB_FILT + 1
  let old := s.get SB_STATE.IN_NOW
  let new := (List.range 16).foldl (fun x k =>
    let (v, n) := tget (0, 0) k s.lb.sbRun
    if need ≤ n then setBits x k k v else x) old
  if new = old then s
  else ((s.put SB_STATE.IN_NOW new).setLb fun b => { b with sbTime := (s.tm.sec, s.tm.ns) }).sendSideband

/-- SIDEBAND_SAMPLE (R315): the levels of `SB_IN_0` to `SB_IN_15` now. -/
def execSidebandSample (levels : BitVec 16) (s : State) : Result :=
  .next (if !s.lbOn || !s.on SB_CFG.SB_EN then s else (s.sbCount levels).sbTake)

/-- SIDEBAND_STATE_RX (R316). -/
def execSidebandStateRx (src : Fin 2048) (state : BitVec 16) (s : State) : Result :=
  let t := s.takeFifo 9 0x805
  .next (if !s.lbOn || s.get SB_SRC.SB_SRC_HUB != src.val then t
    else (t.setLb fun b => { b with sbRemote := state.toNat, sbQuiet := 0, sbSafe := false }).sbDrive)

/-- SB_LOSS (R316): no message for `SB_LOSS` Milestones. -/
def execSbLoss (s : State) : Result :=
  .next (if !s.lbOn || s.lb.sbSafe || decide (s.lb.sbQuiet < max 1 (s.get SB_SRC.SB_LOSS)) then s
    else ((s.setLb fun b => { b with sbSafe := true }).sbDrive).raise LB_EVENT.SB_LOSS)

/-! ### Lock-up, Milestone and reset of the bridge (R299, R302, R313 to R315) -/

/-- A lock-up reaches the bridge: invalid pools or classes are raised, changed windows start. -/
def State.lbLockup (s : State) : State :=
  if !s.lbOn then s
  else
    let bad := s.inPoolsBad || (List.range 32).any fun n => s.on (LB_WIN_OUT.OUT_EN n) && !s.outWin n
    let s := s.when bad fun s => s.raise LB_EVENT.CFG_BAD
    let s := s.each (List.range 32) fun n s => s.when (s.winChanged n) fun s => s.startWindow n
    s.sbDrive

/-- The Milestone's work at the bridge: credit and sideband state go at least once per Milestone. -/
def State.lbMilestone (s : State) : State :=
  if !s.lbOn then s
  else
    let s := s.each (s.lb.synced.map (·.1)) fun n s => s.when (s.inWin n) fun s => s.sendCredit n
    let s := s.setLb fun b => { b with sbQuiet := b.sbQuiet + 1 }
    s.when (s.on SB_CFG.SB_EN) fun s => s.sendSideband

/-- A reset is decided: the bus goes idle, a hub cycle is abandoned and a device cycle ends with error (R314). -/
def State.lbQuiesce (s : State) : State :=
  let s := s.when (s.lb.heldDev != none) fun s => s.emit (.lbAnswer 1 [])
  let s := s.emit (.lbGrant false)
  (s.setLb fun b => { b with cur := none, heldDev := none, breq := false, reqs := b.reqs.filter fun r => !r.wait }).put
    LB_STATUS.OWNER 0

end Sys2Proof.Machine
end

