-- ==== Sys2Proof/Machine/Crypto.lean ====
section
/-! DEFINITION. The digests and signatures that authenticate an image (R398, R399, R403): SHA-256 and the check of an ECDSA
signature on curve P-256, on numbers. Their arithmetic is that of the standards the spec names (notes/assumptions/30.md). -/

namespace Sys2Proof.Machine

/-! ### SHA-256 -/

/-- The round constants of SHA-256. -/
def shaK : List Nat :=
  [0x428a2f98, 0x71374491, 0xb5c0fbcf, 0xe9b5dba5, 0x3956c25b, 0x59f111f1, 0x923f82a4, 0xab1c5ed5] ++
  [0xd807aa98, 0x12835b01, 0x243185be, 0x550c7dc3, 0x72be5d74, 0x80deb1fe, 0x9bdc06a7, 0xc19bf174] ++
  [0xe49b69c1, 0xefbe4786, 0x0fc19dc6, 0x240ca1cc, 0x2de92c6f, 0x4a7484aa, 0x5cb0a9dc, 0x76f988da] ++
  [0x983e5152, 0xa831c66d, 0xb00327c8, 0xbf597fc7, 0xc6e00bf3, 0xd5a79147, 0x06ca6351, 0x14292967] ++
  [0x27b70a85, 0x2e1b2138, 0x4d2c6dfc, 0x53380d13, 0x650a7354, 0x766a0abb, 0x81c2c92e, 0x92722c85] ++
  [0xa2bfe8a1, 0xa81a664b, 0xc24b8b70, 0xc76c51a3, 0xd192e819, 0xd6990624, 0xf40e3585, 0x106aa070] ++
  [0x19a4c116, 0x1e376c08, 0x2748774c, 0x34b0bcb5, 0x391c0cb3, 0x4ed8aa4a, 0x5b9cca4f, 0x682e6ff3] ++
  [0x748f82ee, 0x78a5636f, 0x84c87814, 0x8cc70208, 0x90befffa, 0xa4506ceb, 0xbef9a3f7, 0xc67178f2]

/-- The initial hash words of SHA-256. -/
def shaInit : List Word :=
  [0x6a09e667, 0xbb67ae85, 0x3c6ef372, 0xa54ff53a, 0x510e527f, 0x9b05688c, 0x1f83d9ab, 0x5be0cd19]

/-- The next word of the message schedule, from the 16 words before it, oldest first. -/
def shaNext (w : List Word) : Word :=
  let x := w.getD 1 0
  let y := w.getD 14 0
  let s0 := x.rotateRight 7 ^^^ x.rotateRight 18 ^^^ (x >>> 3)
  let s1 := y.rotateRight 17 ^^^ y.rotateRight 19 ^^^ (y >>> 10)
  w.getD 0 0 + s0 + w.getD 9 0 + s1

/-- One round with constant `k` and schedule word `x`. -/
def shaRound (h : List Word) (k : Nat) (x : Word) : List Word :=
  match h with
  | [a, b, c, d, e, f, g, i] =>
    let s1 := e.rotateRight 6 ^^^ e.rotateRight 11 ^^^ e.rotateRight 25
    let t1 := i + s1 + ((e &&& f) ^^^ (~~~e &&& g)) + BitVec.ofNat 32 k + x
    let s0 := a.rotateRight 2 ^^^ a.rotateRight 13 ^^^ a.rotateRight 22
    let t2 := s0 + ((a &&& b) ^^^ (a &&& c) ^^^ (b &&& c))
    [t1 + t2, a, b, c, d + t1, e, f, g]
  | _ => h

/-- The rounds of one block; `w` holds the next 16 schedule words. -/
def shaRounds : List Nat → List Word → List Word → List Word
  | [], _, h => h
  | k :: t, w, h => shaRounds t (w.drop 1 ++ [shaNext w]) (shaRound h k (w.getD 0 0))

/-- One block of 64 bytes. -/
def shaBlock (h : List Word) (bs : List Byte) : List Word :=
  let w := (List.range 16).map fun i => BitVec.ofNat 32 (beAt bs (4 * i) 4)
  (h.zip (shaRounds shaK w h)).map fun (a, b) => a + b

/-- The blocks of a padded message. -/
def shaBlocks : Nat → List Byte → List Word → List Word
  | 0, _, h => h
  | k + 1, bs, h => shaBlocks k (bs.drop 64) (shaBlock h (bs.take 64))

/-- SHA-256 of a byte string, 32 bytes. -/
def sha256 (bs : List Byte) : List Byte :=
  let n := bs.length
  let zeros := (119 - n % 64) % 64
  let padded := bs ++ [0x80] ++ List.replicate zeros 0 ++ beBytes 8 (8 * n)
  (shaBlocks (padded.length / 64) padded shaInit).flatMap fun w => beBytes 4 w.toNat

/-! ### ECDSA on P-256 -/

def p256P : Nat := 2 ^ 256 - 2 ^ 224 + 2 ^ 192 + 2 ^ 96 - 1
def p256N : Nat := 0xffffffff00000000ffffffffffffffffbce6faada7179e84f3b9cac2fc632551
def p256B : Nat := 0x5ac635d8aa3a93e7b3ebbd55769886bc651d06b0cc53b0f63bce3c3e27d2604b
def p256G : Nat × Nat :=
  (0x6b17d1f2e12c4247f8bce6e563a440f277037d812deb33a0f4a13945d898c296,
   0x4fe342e2fe1a7f9b8ee7eb4a7c0f9e162bce33576b315ececbb6406837bf51f5)

/-- A power modulo `m`, by the exponent's bits, most significant first. -/
def powMod (m b e : Nat) : Nat :=
  (numBits 256 e).foldl (fun r bit => let r := r * r % m; if bit then r * b % m else r) (1 % m)

/-- The inverse modulo a prime. -/
def invMod (m a : Nat) : Nat := powMod m a (m - 2)

/-- The sum of two points of the curve; `none` is the point at infinity. -/
def ecAdd : Option (Nat × Nat) → Option (Nat × Nat) → Option (Nat × Nat)
  | none, q => q
  | p, none => p
  | some (x1, y1), some (x2, y2) =>
    let p := p256P
    if x1 = x2 ∧ (y1 + y2) % p = 0 then none
    else
      let num := if x1 = x2 then 3 * x1 * x1 + (p - 3) else y2 + (p - y1)
      let den := if x1 = x2 then 2 * y1 else x2 + (p - x1)
      let l := num * invMod p (den % p) % p
      let x3 := (l * l + (p - x1) + (p - x2)) % p
      some (x3, (l * (x1 + (p - x3)) + (p - y1)) % p)

/-- A multiple of a point, by the bits of the factor. -/
def ecMul (k : Nat) (q : Option (Nat × Nat)) : Option (Nat × Nat) :=
  (numBits 256 k).foldl (fun r bit => let r := ecAdd r r; if bit then ecAdd r q else r) none

/-- The ECDSA check of signature (r, s) on a digest with the public key (x, y), all as numbers. -/
def ecdsaOk (x y r s digest : Nat) : Bool :=
  let onCurve := decide (x < p256P ∧ y < p256P) && y * y % p256P == (x * x * x + (p256P - 3) * x + p256B) % p256P
  let inRange := decide (0 < r ∧ r < p256N ∧ 0 < s ∧ s < p256N)
  let w := invMod p256N s
  let u1 := digest * w % p256N
  let u2 := r * w % p256N
  onCurve && inRange && match ecAdd (ecMul u1 (some p256G)) (ecMul u2 (some (x, y))) with
    | none => false
    | some (vx, _) => vx % p256N == r

end Sys2Proof.Machine
end

