-- ==== Sys2Proof/Machine/Ethernet.lean ====
section
/-! DEFINITION. The commands of the Ethernet adapters (chapter 07): ingress, reassembly and egress, analysis frames,
timestamps. -/

namespace Sys2Proof.Machine

def State.ethA (s : State) (e : Nat) : Eth := tget {} e s.eth
def State.setEth (s : State) (e : Nat) (g : Eth → Eth) : State := { s with eth := tput {} e (g (s.ethA e)) s.eth }

/-- The adapter runs: enabled, in a valid mode, in the class and not held. -/
def State.ethOn (s : State) (e : Nat) : Bool :=
  s.on (EN_CFG.EN e) && decide (s.get (EN_CFG.EMODE e) ≤ 4) && s.hasJ (7 + e) && !s.outHeld (7 + e)

/-- A lock-up reaches an Ethernet adapter. -/
def State.ethLockup (s : State) (e : Nat) : State :=
  s.when (s.on (EN_CFG.EN e) && decide (5 ≤ s.get (EN_CFG.EMODE e))) fun s => s.raise (EN_EVENT.CFG_BAD e)

/-! ### Frames (R278 to R280, R286, R287) -/

/-- An EtherType is that of a VLAN tag. -/
def isTag (t : Nat) : Bool := t == 0x8100 || t == 0x88A8

/-- Where the EtherType stands, behind up to two tags. -/
def typeAt (f : List Byte) : Nat :=
  if isTag (beAt f 12 2) then (if isTag (beAt f 16 2) then 20 else 16) else 12

/-- The VID of the outer tag; 0 for an untagged or priority-tagged frame. -/
def outerVid (f : List Byte) : Nat := if isTag (beAt f 12 2) then beAt f 14 2 % 4096 else 0

/-- A frame without its FCS, and whether the FCS is good. -/
def noFcs (f : List Byte) : List Byte := f.take (f.length - 4)
def fcsGood (f : List Byte) : Bool := leNat (f.drop (f.length - 4)) == crc32 (noFcs f)
def withFcs (f : List Byte) : List Byte := f ++ leBytes 4 (crc32 f)

/-- A PTP message (R280): EtherType 0x88F7, or UDP port 319 or 320 over IPv4 or IPv6. -/
def isPtp (f : List Byte) : Bool :=
  let a := typeAt f
  let ty := beAt f a 2
  let ip := a + 2
  let udp (port : Nat) : Bool := port == 319 || port == 320
  ty == 0x88F7
    || (ty == 0x0800 && beAt f (ip + 9) 1 == 17 && udp (beAt f (ip + 4 * (beAt f ip 1 % 16) + 2) 2))
    || (ty == 0x86DD && beAt f (ip + 6) 1 == 17 && udp (beAt f (ip + 42) 2))

/-- Replace bytes of a frame. -/
def patch (f : List Byte) (a : Nat) (bs : List Byte) : List Byte := f.take a ++ bs ++ f.drop (a + bs.length)

/-- The egress action on tags (R286). -/
def tagAction (act : Nat) (f : List Byte) : List Byte :=
  let vact := act / 2 ^ 30 % 4
  let pcp := act / 2 ^ 27 % 8
  let vid := act % 4096
  let push := f.take 12 ++ beBytes 2 0x8100 ++ beBytes 2 (pcp * 2 ^ 13 + vid) ++ f.drop 12
  let tagged := isTag (beAt f 12 2)
  if vact = 1 then (if tagged then f.take 12 ++ f.drop 16 else f)
  else if vact = 2 then push
  else if vact = 3 then
    if tagged then patch f 14 (beBytes 2 (pcp * 2 ^ 13 + beAt f 14 2 / 2 ^ 12 % 2 * 2 ^ 12 + vid)) else push
  else f

/-- 16-bit one's-complement addition. -/
def onesAdd (a b : Nat) : Nat := let n := a + b; n % 65536 + n / 65536

/-- The place and width-free form of the ECN field (R287): the frame with the field set to 0b11 when it holds 0b01 or 0b10,
and the field's value; `none` when the frame is not IP. -/
def ecnMark (f : List Byte) : Option (Nat × List Byte) :=
  let a := typeAt f
  let ip := a + 2
  if beAt f a 2 = 0x0800 then
    let m := beAt f ip 2
    let m' := m / 4 * 4 + 3
    let sum := 65535 - onesAdd (onesAdd (65535 - beAt f (ip + 10) 2) (65535 - m)) m'
    some (m % 4, patch (patch f ip (beBytes 2 m')) (ip + 10) (beBytes 2 sum))
  else if beAt f a 2 = 0x86DD then
    let b := beAt f (ip + 1) 1
    some (b / 16 % 4, patch f (ip + 1) (beBytes 1 (setBits b 5 4 3)))
  else none

/-- `CE` of a frame is mapped to ECN (R287). -/
def State.mapEcn (s : State) (e : Nat) (f : List Byte) : List Byte × State :=
  match ecnMark f with
  | none => (f, s)
  | some (v, g) =>
    if v = 0 then (f, s.inc (EN_ECN.NOT_ECT e))
    else if v = 3 then (f, s)
    else (g, s.inc (EN_ECN.ECN_MARKED e))

/-! ### Ingress (R279 to R283, R288, R289) -/

/-- The forwarding entry of a VID and MAC (R281, R282): the words of the first valid match in its bucket. -/
def State.fwdEntry (s : State) (e vid mac : Nat) : Option (Nat × Nat) :=
  let b := crc32c (beBytes 2 vid ++ beBytes 6 mac) % 1024
  let base := s.get (EN_TBL.FWD_OFS e) * 0x10000 + 64 * b
  let word (j w : Nat) : Nat := s.caseNat (base + 16 * j + 4 * w) 4
  ((List.range 4).find? fun j => (word j 0).testBit 31 && bits (word j 0) 27 16 == vid && bits (word j 0) 15 0 == mac / 2 ^ 32
    && word j 1 == mac % 2 ^ 32).map fun j => (word j 2, word j 3)

/-- Bytes waiting in the ingress store. -/
def State.ethStored (s : State) (e : Nat) : Nat :=
  ((tget [] (7 + e) s.jn.incoming ++ tget [] (7 + e) s.jn.held).map fun c => c.len).foldl (· + ·) 0

/-- A frame goes into the Junction as cells, when the ingress store of 128 KiB holds it (R283). -/
def State.sendFrame (s : State) (e : Nat) (h : CellHdr) (f : List Byte) : State :=
  if 131072 < s.ethStored e + f.length then (s.inc (EN_RX_DROP.IN_FULL e)).raise (EN_EVENT.IN_FULL e)
  else s.presentAll (7 + e) (Cell.unit s.hubId h f)

/-- A filtered frame. -/
def State.ethFilter (s : State) (e : Nat) : State := s.inc (EN_RX_DROP.FILTERED e)

/-- A MAC control frame (R278): PAUSE is honoured with `PAUSE_RX`; PFC is discarded and counted. -/
def State.macControl (s : State) (e : Nat) (f : List Byte) : State :=
  if beAt f 14 2 = 0x0101 then s.ethFilter e
  else if beAt f 14 2 = 0x0001 ∧ s.on (EN_CFG.PAUSE_RX e) then
    -- a quantum is 512 bit times
    let ticks := ([64, 128, 256, 640] : List Nat).getD (s.get (EN_CFG.EMODE e))
      (([64000, 6400, 640] : List Nat).getD (s.get (EN_STATUS.SG_SPEED e)) 640)
    let q := beAt f 16 2
    (s.setEth e fun x => { x with pauseUntil := s.tm.tick + q * ticks }).put (EN_STATUS.PAUSED e) (if q = 0 then 0 else 1)
  else s

/-- `ACCEPT` rejects the frame (R279). -/
def State.rejects (s : State) (e : Nat) (f : List Byte) : Bool :=
  let a := s.get (EN_PORT.ACCEPT e)
  (a == 1 && outerVid f == 0) || (a == 2 && outerVid f != 0)

/-- The destination of an accepted frame (R280). -/
def State.ethDest (s : State) (e : Nat) (f : List Byte) : State :=
  let vid := if outerVid f = 0 then s.get (EN_PORT.PVID e) else outerVid f
  if s.on (EN_CFG.PTP_EN e) && isPtp f then
    let pre := beBytes 6 s.tm.sec ++ beBytes 4 s.tm.ns ++ beBytes 1 (7 + e) ++ beBytes 5 0
    s.sendFrame e ⟨s.hubId, 11, 0xFFE, 7, 3, 0⟩ (pre ++ f)
  else match s.fwdEntry e vid (beAt f 0 6) with
    | some (w2, w3) =>
      if w3.testBit 17 then s.ethFilter e
      else s.sendFrame e ⟨bits w2 31 21, bits w2 20 16, bits w2 11 0, bits w3 31 29, 3, bits w3 28 18⟩ f
    | none =>
      if s.on (EN_CFG.MISS_PIPE e) then
        s.sendFrame e ⟨s.get (EN_PIPE.P_HUB e), s.get (EN_PIPE.P_ADP e), s.get (EN_PIPE.P_TUNNEL e), s.get (EN_PORT.PIPE_TC e), 3,
          s.get (EN_PORT.PIPE_FLOW e)⟩ f
      else s.ethFilter e

/-- The length of a frame with its FCS is one the adapter takes. -/
def State.frameFits (s : State) (e : Nat) (f : List Byte) : Bool :=
  decide (64 ≤ f.length ∧ f.length ≤ max 64 (min 9216 (s.get (EN_CFG.MTU e))))

/-- ETH_FRAME_RX (R278 to R283, R288, R289): a whole frame, from the destination MAC to the FCS. -/
def execEthFrameRx (e : Fin 2) (f : List Byte) (s : State) : Result :=
  .next (if !s.ethOn e || !s.on (EN_STATUS.LINK_UP e) then s
    else
      let t := s.put (EN_TS_RX.TS_RX_NS e) s.tm.ns
      if !fcsGood f then t.inc (EN_RX_DROP.FCS_ERR e)
      else if !s.frameFits e f then t.inc (EN_RX_DROP.SIZE_ERR e)
      else if beAt f 12 2 = 0x8808 then t.macControl e f
      else if s.rejects e f then t.ethFilter e
      else (t.inc (EN_RX_CNT.RX_FRAMES e)).ethDest e f)

/-! ### Egress (R284 to R287, R290) -/

/-- Contexts in use are shown. -/
def State.setCtx (s : State) (e : Nat) (l : List EthCtx) : State :=
  (s.setEth e fun x => { x with ctx := l }).put (EN_STATUS.CTX_USED e) l.length

def State.reasm (s : State) (e : Nat) : State := s.inc (EN_TX_DROP.REASM e)

/-- The last cell of a frame has arrived: FCS, tags and ECN, and the queue for the wire (R285 to R287). A frame that an
action leaves shorter than the least size is filled with 0x00. -/
def State.frameComplete (s : State) (e : Nat) (x : EthCtx) : State :=
  if !fcsGood x.data then (s.inc (EN_TX_DROP.E2E_FCS e)).raise (EN_EVENT.E2E_FCS e)
  else
    let f := tagAction x.act (noFcs x.data)
    let (g, s) := if x.ce && s.on (EN_CFG.ECN_EN e) then s.mapEcn e f else (f, s)
    s.setEth e fun y => { y with txq := y.txq ++ [⟨padTo (max 60 g.length) g, false, none⟩] }

/-- A cell joins its context, which completes with the last one. -/
def State.ctxCell (s : State) (e : Nat) (x : EthCtx) (c : Cell) : State :=
  let others := (s.ethA e).ctx.filter fun y => y.key != x.key
  let x := { x with data := x.data ++ c.payload, last := s.tm.tick, ce := x.ce || c.ce == 1 }
  if 2 ≤ c.pos then (s.setCtx e others).frameComplete e x else s.setCtx e (others ++ [x])

/-- A cell at the egress of an adapter whose link is up (R284). -/
def State.egressCell (s : State) (e : Nat) (c : Cell) : State :=
  let key := c.srcHub * 4096 + c.tunnel
  match (s.ethA e).ctx.find? fun y => y.key == key with
  | some x =>
    if c.pos = 1 ∨ c.pos = 3 then
      (s.reasm e).ctxCell e { x with data := [], act := s.caseNat (s.get (EN_TBL.EGR_OFS e) * 0x4000 + 4 * c.tunnel) 4,
                                     ce := false } c
    else s.ctxCell e x c
  | none =>
    if c.pos = 1 ∨ c.pos = 3 then
      if 64 ≤ (s.ethA e).ctx.length then (s.inc (EN_TX_DROP.CTX_FULL e)).raise (EN_EVENT.CTX_FULL e)
      else s.ctxCell e ⟨key, [], s.tm.tick, s.caseNat (s.get (EN_TBL.EGR_OFS e) * 0x4000 + 4 * c.tunnel) 4, false⟩ c
    else s.when (c.pos == 2) fun s => s.reasm e

/-- An analysis frame for a copy (R290), its `TX_TIME` still 0. -/
def State.analysisFrame (s : State) (e : Nat) (c : Cell) : List Byte :=
  let da := s.get (EN_AN_MAC1.AN_DA_HI e) * 2 ^ 32 + s.get (EN_AN_MAC0.AN_DA_LO e)
  let sa := s.get (EN_AN_MAC1.AN_SA_HI e) * 2 ^ 32 + s.get (EN_AN_MAC2.AN_SA_LO e)
  let f := beBytes 6 da ++ beBytes 6 sa ++ beBytes 2 0x88B5 ++ [1] ++ beBytes 1 (c.flow % 8) ++ beBytes 2 c.srcHub ++ beBytes 10 0
    ++ beBytes 1 c.len ++ [0] ++ c.payload
  padTo (max 60 f.length) f

/-- A cell is given to the egress. -/
def State.egress (s : State) (e : Nat) (c : Cell) : State :=
  if c.mir = 1 then
    if s.on (EN_CFG.AN_PORT e) then
      s.setEth e fun x => { x with txq := x.txq ++ [⟨s.analysisFrame e c, true, none⟩] }
    else s.inc (EN_TX_DROP.MIR_DISC e)
  else if !s.on (EN_STATUS.LINK_UP e) then
    let key := c.srcHub * 4096 + c.tunnel
    let s := s.when (decide (2 ≤ c.pos)) fun s => s.reasm e
    s.setCtx e ((s.ethA e).ctx.filter fun y => y.key != key)
  else s.egressCell e c

/-- ETH_EGRESS_CELL (R284 to R287, R290): the given cell, or with `none` the oldest cell of the adapter's FIFO. Cells of
`TUNNEL` 0xFFE belong to PTP_TX_REQUEST (R328). -/
def execEthEgressCell (e : Fin 2) (c : Option Cell) (s : State) : Result :=
  .next (match c, tget [] (7 + e.val) s.jn.fifo with
    | some c, _ => if s.ethOn e then s.egress e c else s
    | none, [] => s
    | none, c :: rest =>
      if c.mir = 0 ∧ c.tunnel = 0xFFE then s
      else
        let s := s.setJn fun j => { j with fifo := tput [] (7 + e.val) rest j.fifo }
        if s.ethOn e then s.egress e c else s)

/-- REASM_TIMEOUT (R284): contexts open for more than 1 ms since their last cell are closed. -/
def execReasmTimeout (e : Fin 2) (s : State) : Result :=
  let (old, live) := (s.ethA e).ctx.partition fun x => decide (1000000 < s.elapsed x.last)
  .next ((s.setCtx e live).addSat (EN_TX_DROP.REASM e) old.length)

/-! ### Transmission and PTP (R288 to R290, R328) -/

/-- The cells of one unit of a tunnel leave the head of a FIFO. -/
def takeUnit (tunnel : Nat) : List Cell → List Cell
  | [] => []
  | c :: t => if c.tunnel = tunnel then (if 2 ≤ c.pos then t else takeUnit tunnel t) else c :: t

/-- A frame with a report goes before those without. -/
def State.queueFirst (s : State) (e : Nat) (x : EthFrame) : State :=
  s.setEth e fun y => { y with txq := y.txq.takeWhile (·.report != none) ++ [x] ++ y.txq.dropWhile (·.report != none) }

/-- PTP_TX_REQUEST (R328): a frame from J11, its prefix read: whether a transmit timestamp is wanted, and the tag. It goes
ahead of frames not yet started. -/
def execPtpTxRequest (e : Fin 2) (want : Bool) (tag : Byte) (f : List Byte) (s : State) : Result :=
  let t := s.setJn fun j => { j with fifo := tput [] (7 + e.val) (takeUnit 0xFFE (tget [] (7 + e.val) j.fifo)) j.fifo }
  .next (if !s.ethOn e then t
    else t.queueFirst e ⟨padTo (max 60 f.length) f, false, some (if want then 256 + tag.toNat else 0)⟩)

/-- A frame leaves: it is stamped and counted, and reported to J11 when that was asked (R288 to R290). -/
def State.ethOut (s : State) (e : Nat) (f : EthFrame) (rest : List EthFrame) : State :=
  let time := beBytes 6 s.tm.sec ++ beBytes 4 s.tm.ns
  let s := (s.setEth e fun x => { x with txq := rest }).put (EN_STATUS.PAUSED e) 0
  let s := (s.put (EN_TS_TX.TS_TX_NS e) s.tm.ns).inc (EN_TX_CNT.TX_FRAMES e)
  let s := s.emit (.eth e (withFcs (if f.mirror then patch f.bytes 18 time else f.bytes)))
  match f.report with
  | some r =>
    if 256 ≤ r then
      s.present (7 + e) (s.ownCell ⟨s.hubId, 11, 0xFFE, 7, 3, 0⟩
        ([2] ++ beBytes 1 (r % 256) ++ beBytes 1 (7 + e) ++ [0] ++ time ++ [0, 0]))
    else s
  | none => s

/-- ETH_FRAME_TX (R288 to R290): the next frame leaves, is timestamped, and its timestamp is reported when wanted. -/
def execEthFrameTx (e : Fin 2) (s : State) : Result :=
  .next (if !s.ethOn e || !s.on (EN_STATUS.LINK_UP e) || decide (s.tm.tick < (s.ethA e).pauseUntil) then s
    else match (s.ethA e).txq with
      | [] => s
      | f :: rest => s.ethOut e f rest)

/-- ETH_LINK_CHANGE (R278): with the SGMII speed code. -/
def execEthLinkChange (e : Fin 2) (up : Bool) (speed : Fin 3) (s : State) : Result :=
  let changed := s.get (EN_STATUS.LINK_UP e) != up.toNat
  .next (s.when (s.hasJ (7 + e)) fun s =>
    ((s.put (EN_STATUS.LINK_UP e) up.toNat).put (EN_STATUS.SG_SPEED e) speed).when changed fun s => s.raise (EN_EVENT.LINK_CHG e))

end Sys2Proof.Machine
end

