-- ==== Sys2Proof/Machine/Time.lean ====
section
/-! DEFINITION. The commands of the time unit (chapter 09): domain time, time cells, parent and servo, PTP, the RTC,
Waymarks, capture inputs and the measurement unit. -/

namespace Sys2Proof.Machine

/-! ### The time value (R322, R324, R325) -/

/-- Domain time in units of 2^-32 ns and in 2^-16 ns. -/
def TimeUnit.q32 (t : TimeUnit) : Nat := (t.sec * 1000000000 + t.ns) * 2 ^ 32 + t.frac
def State.nowQ (s : State) : Int := (s.tm.q32 / 2 ^ 16 : Nat)

/-- Domain time set from units of 2^-32 ns; the seconds wrap at 2^48 (R322). -/
def TimeUnit.setQ32 (t : TimeUnit) (q : Nat) : TimeUnit :=
  { t with sec := q / 2 ^ 32 / 1000000000 % 2 ^ 48, ns := q / 2 ^ 32 % 1000000000, frac := q % 2 ^ 32 }

/-- One tick of the 1.25 GHz clock adds `ADDEND` × 2^-32 ns (R325). -/
def State.tickTime (s : State) : State :=
  s.setTm fun t => { t.setQ32 (t.q32 + s.get TM_ADDEND.ADDEND) with tick := t.tick + 1 }

/-- The code of an access path, as `PATH` of `FC_CUST_REFUSE`. -/
def pathCode : Path → Nat
  | .pcie => 0
  | .usb => 1
  | .tunnel _ => 2
  | .smbus => 3
  | .engine _ => 4

/-- A read of `TM_NOW_NS` on a path latches the other parts (R324). -/
def State.latchTime (s : State) (p : Path) : State :=
  s.setTm fun t => { t with latches := tput (0, 0) (pathCode p) (t.sec, t.frac / 2 ^ 16) t.latches }

/-- TIME_READ_LATCH (R324): the read completes on its path. -/
def execTimeReadLatch (p : Path) (s : State) : Result :=
  .next (s.ordered p false (.timeReadLatch p) fun s => (s.latchTime p).emit (.access p TM_NOW_NS 0 (BitVec.ofNat 32 s.tm.ns)))

/-! ### Waymarks (R343 to R346) -/

def State.wm (s : State) (n : Nat) : Waymark := tget {} n s.tm.wm
def State.setWm (s : State) (n : Nat) (g : Waymark → Waymark) : State :=
  s.setTm fun t => { t with wm := tput {} n (g (s.wm n)) t.wm }

/-- `PERIOD` and `WIDTH` in force (R343). -/
def State.wmPeriod (s : State) (n : Nat) : Nat :=
  max 100 (min (10 ^ 12) (s.get (WM_CTL.PER_HI n) * 2 ^ 32 + s.get (WM_PERIOD.PER_LO n)))
def State.wmWidth (s : State) (n : Nat) : Nat := max 8 (min (s.wmPeriod n - 8) (s.get (WM_WIDTH.WIDTH n)))

/-- The start time in nanoseconds. -/
def State.wmStart (s : State) (n : Nat) : Nat :=
  (s.get (WM_CTL.START_SEC_HI n) * 2 ^ 32 + s.get (WM_START_SEC.START_SEC_LO n)) * 1000000000
    + min 999999999 (s.get (WM_START_NS.START_NS n))

/-- Instants passed over are counted (R344). -/
def State.wmMiss (s : State) (n k : Nat) : State :=
  if k = 0 then s else (s.addSat (WM_STAT.MISSED n) k).raise TM_EVENT.WM_MISSED

/-- The level of a Waymark's pin: active or not, with its polarity. -/
def State.wmPin (s : State) (n : Nat) (active : Bool) : State :=
  s.emit (.waymark n ((active && s.on (WM_CTL.PIN_EN n)) != s.on (WM_CTL.POL n)))

/-- A register of a Waymark with no pulse in progress takes a value; the inactive level of its pin follows `POL` (R343). -/
def State.wmSet (s : State) (n a : Nat) (w : Word) : State :=
  let t := s.writeFields a w
  if t.get (WM_CTL.POL n) = s.get (WM_CTL.POL n) then t else t.wmPin n false

/-- The next instant of a Waymark with no pulse in progress (R344): the first one at or after now and after the last one
accounted for; those passed over are counted. -/
def State.wmPlan (s : State) (n : Nat) : State :=
  if !s.on (WM_CTL.EN n) then s.setWm n fun w => { w with next := none, last := none, en := false }
  else
    let w := s.wm n
    let last := if w.en then w.last else none
    let now := s.nowNs + (if s.tm.frac = 0 then 0 else 1)
    let lo := match last with
      | some l => max now (l + 1)
      | none => now
    let start := s.wmStart n
    if s.on (WM_CTL.WMODE_P n) then
      let per := s.wmPeriod n
      let k := (lo - start + per - 1) / per
      let k0 := match last with
        | some l => if l < start then 0 else (l - start) / per + 1
        | none => 0
      let last' := if k0 < k then some (start + (k - 1) * per) else last
      (s.setWm n fun w => { w with en := true, next := some (start + k * per), last := last' }).wmMiss n (k - k0)
    else if lo ≤ start then s.setWm n fun w => { w with en := true, next := some start, last := last }
    else
      (s.setWm n fun w => { w with en := true, next := none, last := some start }).wmMiss n (if last = some start then 0 else 1)

/-- Every Waymark without a pulse in progress is planned again, after a step of time. -/
def State.wmReplan (s : State) : State :=
  s.each (List.range 8) fun n s => s.when ((s.wm n).stop == none && (s.on (WM_CTL.EN n) || (s.wm n).en)) fun s => s.wmPlan n

/-- A write to a Waymark's register: at once, or after the pulse in progress (R345). -/
def State.wmWrite (s : State) (n a : Nat) (w : Word) : State :=
  if (s.wm n).stop = none then (s.wmSet n a w).wmPlan n
  else s.setWm n fun x => { x with pend := x.pend ++ [(a, w)] }

/-- WAYMARK_WRITE (R345): register 0 `WM_CTL` to 4 `WM_WIDTH`. -/
def execWaymarkWrite (n : Fin 8) (r : Fin 5) (w : Word) (s : State) : Result := .next (s.wmWrite n (WM_CTL n + 4 * r) w)

/-! ### The measurement unit (R350 to R352) -/

def State.setMs (s : State) (g : Measure → Measure) : State := s.setTm fun t => { t with ms := g t.ms }

/-- The unit runs: enabled, in the Full class, not held in block reset. -/
def State.msOn (s : State) : Bool := s.on MS_CFG.EN && s.cls == classFull && !s.on RST_BLOCK.MS_HOLD

/-- A scan starts at an instant (R350). -/
def State.scanFrom (s : State) (t : Nat) : State :=
  (s.setMs fun m => { m with todo := bitList (s.get MS_CFG.SCAN) 8, done := 0, trig := t }).put MS_STATUS.BUSY 1

/-- A trigger at an instant starts a scan, is held, or is lost (R350). -/
def State.scanTrigger (s : State) (t : Nat) : State :=
  if !s.msOn || s.get MS_CFG.SCAN == 0 then s
  else if s.tm.ms.todo = [] then s.scanFrom t
  else if s.tm.ms.held = none then (s.setMs fun m => { m with held := some t }).put MS_STATUS.HELD 1
  else ((s.setMs fun m => { m with lost := true }).inc MS_CNT.OVERRUN).raise MS_EVENT.OVERRUN

/-- The samples held go out as one TC6 cell (R351). -/
def State.flushSamples (s : State) : State :=
  match s.tm.ms.samples with
  | [] => s
  | (t0, _, _) :: _ =>
    let l := s.tm.ms.samples
    let tun := s.get MS_DEST.MS_TUNNEL
    let body := l.flatMap fun (t, ch, v) => beBytes 4 (ch * 2 ^ 29 + (t - t0) % 8192 * 2 ^ 16 + v)
    let hdr := beBytes 6 (t0 / 1000000000) ++ beBytes 4 (t0 % 1000000000) ++ beBytes 1 l.length
      ++ [if s.tm.ms.lost then 1 else 0]
    let s := s.present 12 (s.ownCell ⟨s.get MS_DEST.MS_DEST_HUB, s.get MS_DEST.MS_DEST_ADP, tun, 6, 3, tun % 2048⟩ (hdr ++ body))
    (s.setMs fun m => { m with samples := [], lost := false }).inc MS_CNT.CELLS

/-- A sample crosses a threshold of its channel (R352). -/
def State.threshold (s : State) (ch v t : Nat) : State :=
  let high := (s.get MS_STATUS.STATE_HI).testBit ch
  let hi := s.get (MS_THR.HI ch)
  let lo := s.get (MS_THR.LO ch)
  let mail (rising : Nat) (s : State) : State :=
    if hi = 0xFFFF ∧ lo = 0 then s
    else s.hwMail (s.get MS_CFG.THR_CE) (s.get MS_CFG.THR_MBX) (rising * 2 ^ 31 + ch * 2 ^ 16 + v) (t % 1000000000)
  if !high && decide (hi ≤ v) then
    (mail 1 (s.put MS_STATUS.STATE_HI (s.get MS_STATUS.STATE_HI ||| 2 ^ ch))).raise MS_EVENT.THR_HI
  else if high && decide (v ≤ lo) then
    (mail 0 (s.put MS_STATUS.STATE_HI (s.get MS_STATUS.STATE_HI &&& (255 - 2 ^ ch)))).raise MS_EVENT.THR_LO
  else s

/-- A result of channel `ch` taken at `t`: a full cell of samples leaves first; the result is kept, joined to the samples and
compared with the thresholds. -/
def State.sample (s : State) (ch code t : Nat) (rest : List Nat) : State :=
  let full := decide (13 ≤ s.tm.ms.samples.length) || (match s.tm.ms.samples with
    | (t0, _, _) :: _ => decide (8192 ≤ t - t0)
    | [] => false)
  let s := s.when full fun s => s.flushSamples
  let s := (s.put (MS_LAST.VALUE ch) code).setMs fun m =>
    { m with todo := rest, done := m.done + 1, samples := m.samples ++ [(t, ch, code)] }
  s.threshold ch code t

/-- A scan ends with the result taken at `t`; a trigger that was held starts the next. -/
def State.scanEnd (s : State) (t : Nat) : State :=
  match s.tm.ms.held with
  | some h => ((s.setMs fun m => { m with held := none }).put MS_STATUS.HELD 0).scanFrom (max h (t + 500))
  | none => s.put MS_STATUS.BUSY 0

/-- MEASURE_CONVERSION (R350 to R352): the conversion in progress gives a code. -/
def execMeasureConversion (code : BitVec 16) (s : State) : Result :=
  .next (match s.tm.ms.todo with
    | [] => s
    | ch :: rest =>
      let t := s.tm.ms.trig + 500 * s.tm.ms.done
      let u := s.sample ch code.toNat t rest
      if rest ≠ [] then u else u.scanEnd t)

/-- MEASURE_CELL_FLUSH (R351): 13 samples are held, or 8,192 ns have passed since the first. -/
def execMeasureCellFlush (s : State) : Result :=
  .next (match s.tm.ms.samples with
    | [] => s
    | (t0, _, _) :: _ => if 13 ≤ s.tm.ms.samples.length ∨ t0 + 8192 ≤ s.nowNs then s.flushSamples else s)

/-! ### Waymark instants (R343, R344, R349, R350) -/

/-- The pulse of a Waymark at `t` starts; it triggers a scan when `TRIG` has its bit. -/
def State.wmPulse (s : State) (n t : Nat) : State :=
  let s := s.setWm n fun w => { w with next := none, last := some t, stop := some (t + s.wmWidth n) }
  let s := (s.inc (WM_STAT.PULSES n)).wmPin n true
  s.when ((s.get MS_CFG.TRIG).testBit n) fun s => s.scanTrigger t

/-- WAYMARK_INSTANT (R343, R344, R346, R349, R350): the next instant has come; within a warm reset it is counted only. -/
def execWaymarkInstant (n : Fin 8) (s : State) : Result :=
  .next (match (s.wm n).next with
    | some t =>
      if s.nowNs < t then s
      else if s.get RST_STATUS.PHASE = 9 then (s.wmMiss n 1).setWm n fun w => { w with next := none, last := some t }
      else s.wmPulse n t
    | none => s)

/-- The pulse of a Waymark ends: the writes that waited for it act, and the next pulse is planned. -/
def State.wmEnd (s : State) (n : Nat) : State :=
  let w := s.wm n
  let s := (s.wmPin n false).setWm n fun w => { w with stop := none, pend := [] }
  (s.each w.pend fun (a, v) s => s.wmSet n a v).wmPlan n

/-- WAYMARK_PULSE_END (R343, R345, R346): `WIDTH` has passed; writes that waited take effect; the pin holds its level through a
warm reset. -/
def execWaymarkPulseEnd (n : Fin 8) (s : State) : Result :=
  .next (match (s.wm n).stop with
    | some t =>
      if s.nowNs < t ∨ s.get RST_STATUS.PHASE = 9 then s
      else s.wmEnd n
    | none => s)

/-! ### Capture inputs (R347, R348) -/

/-- Entries of a capture FIFO, with `DEPTH`. -/
def State.setCap (s : State) (n : Nat) (l : List (Bool × Nat × Nat × Nat)) : State :=
  (s.setTm fun t => { t with cap := tput [] n l t.cap }).put (CAP_CTL.DEPTH n) l.length

/-- CAPTURE_EDGE (R347): an edge on `CAP_n`; a pulse shorter than 4 ns is ignored. -/
def execCaptureEdge (n : Fin 8) (falling short : Bool) (s : State) : Result :=
  .next (if short || !s.on (CAP_CTL.EN n) || !(s.get (CAP_CTL.EDGE n)).testBit falling.toNat then s
    else
      let q := tget [] n.val s.tm.cap
      if 8 ≤ q.length then s.inc (CAP_CTL.OVF n)
      else s.setCap n (q ++ [(falling, s.tm.frac / 2 ^ 30, s.tm.sec, s.tm.ns)]))

/-- A read of `CAP_POP` (R348). -/
def State.capPop (s : State) (n : Nat) : State :=
  match tget [] n s.tm.cap with
  | [] => s.setReg (CAP_POP n) 0x80000000
  | (fall, q, sec, ns) :: rest =>
    let s := s.setReg (CAP_POP n) (BitVec.ofNat 32 (fall.toNat * 2 ^ 30 + q * 2 ^ 16 + sec / 2 ^ 32))
    ((s.put (CAP_SEC.C_SEC_LO n) sec).put (CAP_NS.C_NS n) ns).setCap n rest

/-- CAP_POP (R348): the read completes on its path. -/
def execCapPop (p : Path) (n : Fin 8) (s : State) : Result :=
  .next (s.ordered p false (.capPop p n) fun s =>
    let s := s.capPop n
    s.emit (.access p (CAP_POP n) 0 (s.reg (CAP_POP n))))

/-! ### The servo (R335 to R338) -/

/-- Servo states. -/
def tsFreerun : Nat := 0
def tsAcquire : Nat := 1
def tsLocked : Nat := 2
def tsHoldover : Nat := 3
def tsSlew : Nat := 4
def tsGm : Nat := 5

def State.tstate (s : State) : Nat := s.get TM_STATE.TSTATE
def State.parent (s : State) : Nat := s.get TM_STATE.PARENT

/-- `ADDEND` at nominal, and 250 ppm of it (R325). -/
def addNominal : Nat := 0xCCCCCCCD
def addRange : Nat := addNominal * 250 / 1000000

/-- The mean of the last 64 values of `ADDEND`, nominal with fewer (R338). -/
def State.meanAddend (s : State) : Nat :=
  if s.tm.addends.length < 64 then addNominal else s.tm.addends.foldl (· + ·) 0 / 64

/-- The data set of a candidate. -/
def State.cand (s : State) (c : Nat) : Option TimeCand := (s.tm.cands.find? fun e => e.1 == c).map (·.2)

/-- The parent is followed in ACQUIRE and LOCKED (R333). -/
def State.follow (s : State) : State :=
  if s.tstate = tsAcquire ∨ s.tstate = tsLocked then
    match s.cand s.parent with
    | some c => s.setTm fun t => { t with followed := some c.ds }
    | none => s
  else s

/-- A servo state is entered (R335, R336, R338, R341); while `REFCLK_25` is lost the servo stays in HOLDOVER (R326: DEDUCED,
notes/assumptions/97.md). -/
def State.setTstate (s : State) (st : Nat) : State :=
  if s.tstate = st ∨ (s.tm.refLost ∧ st ≠ tsHoldover) then s
  else
    let s := (s.put TM_STATE.TSTATE st).setTm fun t => { t with lockRun := 0, holdRun := 0 }
    let s := s.follow
    if st = tsHoldover then
      let h := s.meanAddend
      ((s.put TM_ADDEND.ADDEND h).setTm fun t => { t with heldAdd := h }).raise TM_EVENT.HOLDOVER
    else if st = tsFreerun ∨ st = tsGm then s.put TM_ADDEND.ADDEND addNominal
    else if st = tsLocked then ((s.put TM_STATE.STEP_USED 1).put TM_STATE.RTC_HOLD 0).raise TM_EVENT.LOCKED
    else s

/-- In SLEW the held rate is changed by up to `SLEW_PPM` towards the parent (R338), within ±250 ppm of nominal (R325); `off`
is this hub's lead. -/
def State.slewRate (s : State) (off : Int) : State :=
  let d := addNominal * max 1 (min 200 (s.get TM_SERVO.SLEW_PPM)) / 1000000
  let a := if 0 < off then s.tm.heldAdd - d else s.tm.heldAdd + d
  s.put TM_ADDEND.ADDEND (max (addNominal - addRange) (min (addNominal + addRange) a))

/-- Proportional-integral correction of `ADDEND` within ±250 ppm (R325, R335): the scale of its gains is open, so the value is
free (notes/assumptions/2.md). -/
def State.correctRate (s : State) : State :=
  let a := addNominal - addRange + s.free % (2 * addRange + 1)
  (s.usedFree.put TM_ADDEND.ADDEND a).setTm fun t => { t with addends := (a :: t.addends).take 64 }

/-- The time steps by `off` units of 2^-16 ns backwards (R336). -/
def State.stepTime (s : State) (off : Int) : State :=
  let span : Int := (2 ^ 48 * 1000000000 * 2 ^ 32 : Nat)
  let s := s.setTm fun t => t.setQ32 (((t.q32 : Int) - off * 2 ^ 16) % span).toNat
  (s.raise TM_EVENT.STEPPED).wmReplan

/-- `JUMP_THR` and `LOCK_NS` in units of 2^-16 ns. -/
def State.jumpThr (s : State) : Nat := max 50 (min 1000000000 (s.get TM_JUMP.JUMP_THR)) * 65536
def State.lockNs (s : State) : Nat := s.get TM_CFG.LOCK_NS * 65536

/-- `TM_OFFSET`: 0.25 ns, two's complement, saturating. -/
def State.putOffset (s : State) (off : Int) : State :=
  let q := max (-(2 ^ 31 : Int)) (min (2 ^ 31 - 1) (off / 16384))
  s.put TM_OFFSET.OFFSET_Q (q % (2 ^ 32 : Int)).toNat

/-- The offset is one that R337 refuses. -/
def State.refused (s : State) (off : Int) : Bool := s.on TM_STATE.STEP_USED && decide (s.jumpThr < off.natAbs)

/-- An offset is refused (R337). -/
def State.refuseJump (s : State) : State := ((s.inc TM_CNT.JUMPS).raise TM_EVENT.JUMP_REFUSED).setTstate tsHoldover

/-- An offset in ACQUIRE or LOCKED: refused, applied as a step, or corrected (R335 to R337). -/
def State.followOffset (s : State) (off : Int) : State :=
  let a := off.natAbs
  if s.refused off then s.refuseJump
  else
    let first := !s.on TM_STATE.STEP_USED && !s.tm.first
    let s := s.setTm fun t => { t with first := true }
    let s := if first && decide (100 * 65536 ≤ a) then (s.put TM_STATE.STEP_USED 1).stepTime off else s.correctRate
    if s.tstate = tsAcquire then
      let s := s.setTm fun t => { t with lockRun := if a ≤ s.lockNs then t.lockRun + 1 else 0 }
      s.when (decide (16 ≤ s.tm.lockRun)) fun s => s.setTstate tsLocked
    else s

/-- An offset from the parent reaches the servo (R335 to R338); in HOLDOVER every offset beyond `JUMP_THR` is refused and counted
too (R337: DEDUCED, notes/assumptions/97.md). -/
def State.offset (s : State) (off : Int) : State :=
  let s := (s.putOffset off).setTm fun t => { t with seen := true, offAt := t.tick, missed := 0 }
  let a := off.natAbs
  let st := s.tstate
  if st = tsAcquire ∨ st = tsLocked then s.followOffset off
  else if st = tsHoldover then
    let s := s.setTm fun t => { t with holdRun := if a ≤ s.jumpThr then t.holdRun + 1 else 0 }
    let s := s.when (s.refused off) fun s => s.refuseJump
    s.when (decide (4 ≤ s.tm.holdRun)) fun s => s.setTstate tsAcquire
  else if st = tsSlew then (if a ≤ s.lockNs then s.setTstate tsLocked else s.slewRate off)
  else s

/-! ### The parent (R334) -/

/-- This hub's own data set. -/
def State.ownSet (s : State) : GmSet :=
  ⟨BitVec.ofNat 64 s.serial, BitVec.ofNat 8 (s.get TM_GM.GM_PRIO1), BitVec.ofNat 8 (s.get TM_GM.GM_CLASS),
   BitVec.ofNat 8 (s.get TM_GM.GM_ACC), BitVec.ofNat 8 (s.get TM_GM.GM_PRIO2), 0⟩

/-- The order of comparison: priority 1, class, accuracy, priority 2, identity, steps, port. -/
def candKey (d : GmSet) (steps port : Nat) : List Nat :=
  [d.prio1.toNat, d.cls.toNat, d.acc.toNat, d.prio2.toNat, d.gmId.toNat, steps, port]

/-- Lexicographic order of keys. -/
def lexLt : List Nat → List Nat → Bool
  | a :: t, b :: u => decide (a < b) || (a == b && lexLt t u)
  | _, _ => false

/-- The sync interval of a port's kind in nanoseconds: `SYNC_US`, or 2^`LOG_SYNC` s (R327). -/
def State.syncNs (s : State) (c : Nat) : Nat :=
  if c < 4 then max 1 (s.get TM_CFG.SYNC_US) * 1000
  else
    let l := s.get TM_PTP.LOG_SYNC
    if l < 8 then 1000000000 * 2 ^ min 1 l else 1000000000 / 2 ^ min 7 (16 - l)

/-- Nanoseconds without time after which a candidate lapses: `SYNC_LOSS` intervals of the port's kind. -/
def State.lapseNs (s : State) (c : Nat) : Nat := max 1 (s.get TM_CFG.SYNC_LOSS) * s.syncNs c

/-- `E_ROLE` of an Ethernet port. -/
def State.eRole (s : State) (e : Nat) : Nat := if e = 0 then s.get TM_PTP.E0_ROLE else s.get TM_PTP.E1_ROLE

/-- A candidate counts (R334). -/
def State.candLive (s : State) (c : Nat) (x : TimeCand) : Bool :=
  decide (s.elapsed x.tick ≤ s.lapseNs c) &&
    (if c < 4 then (s.get TM_CFG.SPINE_EN).testBit c && x.parent != s.hubId
     else s.eRole (c - 4) == 1 || s.eRole (c - 4) == 3)

/-- The best candidate: its port code, its key. -/
def State.bestCand (s : State) : Option (Nat × List Nat) :=
  let self := if s.on TM_CFG.GM_EN then [(6, candKey s.ownSet 0 6)] else []
  let others := (s.tm.cands.filter fun e => s.candLive e.1 e.2).map fun e =>
    (e.1, candKey e.2.ds (if e.1 < 4 then e.2.ds.steps.toNat + 1 else e.2.ds.steps.toNat) e.1)
  (self ++ others).foldl (fun b x => match b with
    | none => some x
    | some y => if lexLt x.2 y.2 then some x else b) none

/-- The parent is chosen (R334, R335). -/
def State.chooseParent (s : State) : State :=
  let new := match s.bestCand with
    | some (c, _) => c
    | none => 7
  let steps := match s.cand new with
    | some c => min 255 (c.ds.steps.toNat + 1)
    | none => 0
  let s := (s.put TM_STATE.STEPS_NOW steps).put TM_STATE.PARENT_HUB (if new < 4 then s.get (LK_PARTNER.P_HUB_ID new) else 0)
  if new = s.parent then
    (if s.tstate = tsHoldover ∧ new < 6 ∧ !s.on TM_STATE.STEP_USED then s.setTstate tsAcquire else s.follow)
  else
    let s := (s.put TM_STATE.PARENT new).raise TM_EVENT.PARENT_CHG
    let s := s.setTm fun t => { t with offAt := t.tick, missed := 0 }
    let st := s.tstate
    let s :=
      if new = 6 then s.setTstate tsGm
      else if new = 7 then
        (if st = tsAcquire ∨ st = tsLocked ∨ st = tsSlew then s.setTstate tsHoldover
         else if st = tsGm then s.setTstate tsFreerun else s)
      else if st = tsFreerun ∨ st = tsGm ∨ st = tsLocked then s.setTstate tsAcquire
      else if st = tsHoldover ∧ !s.on TM_STATE.STEP_USED then s.setTstate tsAcquire
      else s
    s.follow

/-- What a lock-up may change in the choice of a parent (R334). -/
def State.timeChoice (s : State) : List Nat :=
  [s.get TM_CFG.GM_EN, (s.reg TM_GM).toNat, s.get TM_CFG.SPINE_EN, s.get TM_PTP.E0_ROLE, s.get TM_PTP.E1_ROLE]

/-! ### Time cells (R331 to R333) -/

/-- The data set that time cells carry, and their flags (R333, R338). -/
def State.sendSet (s : State) : Option (GmSet × Nat) :=
  let st := s.tstate
  if st = tsGm then some (s.ownSet, 2)
  else if st = tsFreerun then none
  else s.tm.followed.map fun d =>
    ({ d with steps := d.steps + 1 }, if st = tsHoldover ∨ st = tsSlew then 1 else 0)

/-- One time cell to the partner of a port (R331). -/
def State.sendTime (s : State) (p : Nat) (d : GmSet) (flags seq : Nat) : State :=
  let ph := if s.parent < 4 then s.get TM_STATE.PARENT_HUB else 0x8000
  let body := beBytes 1 flags ++ beBytes 1 seq ++ beBytes 2 ph ++ beBytes 24 0 ++ beBytes 8 d.gmId.toNat ++ [d.prio1, d.cls, d.acc,
    d.prio2] ++ beBytes 2 d.steps.toNat ++ beBytes 6 0
  s.present 11 (s.ownCell ⟨s.get (LK_PARTNER.P_HUB_ID p), 11, 0xF00, 7, 3, 0⟩ body)

/-- A sync interval without an offset from the parent counts; with a parent on E0 or E1 the interval is that of PTP, and
`SYNC_LOSS` of them end in HOLDOVER (R335). -/
def State.syncMiss (s : State) : State :=
  let c := s.parent
  if c < 4 then (if s.tm.seen then s else s.inc TM_CNT.SYNC_MISS)
  else if c < 6 ∧ (s.tm.missed + 1) * s.syncNs c ≤ s.elapsed s.tm.offAt then
    let s := (s.inc TM_CNT.SYNC_MISS).setTm fun t => { t with missed := t.missed + 1 }
    s.when (decide (max 1 (s.get TM_CFG.SYNC_LOSS) ≤ s.tm.missed)
      && (s.tstate == tsAcquire || s.tstate == tsLocked || s.tstate == tsSlew)) fun s => s.setTstate tsHoldover
  else s

/-- TIME_CELL_SEND (R331, R333, R335): `SYNC_US` has passed. -/
def execTimeCellSend (s : State) : Result :=
  let t := s.syncMiss
  let t := t.setTm fun t => { t with seen := false, tSeq := (t.tSeq + 1) % 256 }
  .next (match s.sendSet with
    | none => t
    | some (d, flags) => t.each (List.range 4) fun p s =>
      if s.lState p == lkOpen && (s.get TM_CFG.SPINE_EN).testBit p then s.sendTime p d flags s.tm.tSeq else s)

/-- The stamp in a cell's payload. -/
def stampAt (c : Cell) (a : Nat) : Stamp := ⟨beAt c.data a 6, beAt c.data (a + 6) 4, beAt c.data (a + 10) 2⟩

/-- A time cell of a partner (R332 to R334). -/
def State.timeCell (s : State) (p : Nat) (c : Cell) : State :=
  if s.lState p != lkOpen || s.get (LK_PARTNER.P_HUB_ID p) != c.srcHub || !s.on (TM_LD.LD_VALID p)
    || !(s.get TM_CFG.SPINE_EN).testBit p then s
  else
    let d : GmSet := ⟨BitVec.ofNat 64 (beAt c.data 28 8), c.data.getD 36 0, c.data.getD 37 0, c.data.getD 38 0, c.data.getD 39 0,
      BitVec.ofNat 16 (beAt c.data 40 2)⟩
    let off := stampUnits (stampAt c 16) - stampUnits (stampAt c 4) - s.get (TM_LD.LD_NOW p) * 16384
    let ph := beAt c.data 2 2
    let x : TimeCand := ⟨d, if ph.testBit 15 then 0x8000 else ph % 2048, s.tm.tick⟩
    let s := (s.setTm fun t => { t with cands := (p, x) :: t.cands.filter fun e => e.1 != p }).chooseParent
    s.when (s.parent == p) fun s => s.offset off

/-- TIME_CELL_RX (R332 to R337): a time cell that came in on port `p`; the given cell, or with `none` the oldest of J11. -/
def execTimeCellRx (p : Port) (c : Option Cell) (s : State) : Result :=
  .next (match c, tget [] 11 s.jn.fifo with
    | some c, _ => s.timeCell p c
    | none, [] => s
    | none, c :: rest =>
      if c.tunnel = 0xF00 then (s.setJn fun j => { j with fifo := tput [] 11 rest j.fifo }).timeCell p c else s)

/-- CANDIDATE_LAPSE (R334, R335): port code `c` has had no time for its interval. -/
def execCandidateLapse (c : Fin 6) (s : State) : Result :=
  .next (match s.cand c with
    | some x =>
      if s.elapsed x.tick ≤ s.lapseNs c then s
      else (s.setTm fun t => { t with cands := t.cands.filter fun e => e.1 != c.val }).chooseParent
    | none => s)

/-! ### PTP on E0 and E1 (R327, R328) -/

def State.ptp (s : State) (e : Nat) : PtpPort := tget {} e s.tm.ptp
def State.setPtp (s : State) (e : Nat) (g : PtpPort → PtpPort) : State :=
  s.setTm fun t => { t with ptp := tput {} e (g (s.ptp e)) t.ptp }

/-- The port is a slave, or a master. -/
def State.ptpSlave (s : State) (e : Nat) : Bool := s.eRole e == 1 || (s.eRole e == 3 && s.parent == 4 + e)
def State.ptpMaster (s : State) (e : Nat) : Bool := s.eRole e == 2 || (s.eRole e == 3 && s.parent != 4 + e)

/-- The peer delay mechanism is in use. -/
def State.peerDelay (s : State) : Bool := s.on TM_PTP.DELAY_MECH || s.on TM_PTP.PROFILE

/-- An offset from a pair of Sync times, once the path delay is known. -/
def State.ptpOffset (s : State) (e : Nat) : State :=
  match (s.ptp e).pair, (s.ptp e).delay with
  | some (t1, t2), some d => if s.parent = 4 + e then s.offset (stampUnits t2 - stampUnits t1 - d) else s
  | _, _ => s

/-- The candidate of a port has had time. -/
def State.ptpSeen (s : State) (e : Nat) : State :=
  s.setTm fun t => { t with cands := t.cands.map fun x => if x.1 = 4 + e then (x.1, { x.2 with tick := t.tick }) else x }

/-- A transmit timestamp is reported (R328). -/
def State.ptpReport (s : State) (e tag : Nat) (ts : Stamp) : State :=
  match (s.ptp e).tags.find? fun x => x.1 == tag with
  | none => s
  | some (_, kind, seq) => s.setPtp e fun p =>
    let p := { p with tags := p.tags.filter fun x => x.1 != tag }
    match kind with
    | .sync => { p with owed := p.owed ++ [(.followUp, seq, ts)] }
    | .pdelayResp => { p with owed := p.owed ++ [(.pdelayRespFollowUp, seq, ts)] }
    | .delayReq => { p with reqAt := some (seq, ts) }
    | .pdelayReq => { p with reqAt := some (seq, ts) }
    | _ => p

/-- A PTP message with its receive timestamp (R327, R334). -/
def State.ptpTake (s : State) (e : Nat) (m : PtpMsg) (rx : Stamp) : State :=
  match m with
  | .sync seq => if s.ptpSlave e || s.eRole e == 3 then s.setPtp e fun p => { p with sync := some (seq.toNat, rx) } else s
  | .followUp seq t1 => match (s.ptp e).sync with
    | some (q, t2) =>
      if q = seq.toNat then ((s.setPtp e fun p => { p with sync := none, pair := some (t1, t2) }).ptpSeen e).ptpOffset e else s
    | none => s
  | .announce d =>
    if s.eRole e = 1 ∨ s.eRole e = 3 then
      (s.setTm fun t =>
        { t with cands := (4 + e, ⟨d, 0x8000, t.tick⟩) :: t.cands.filter fun x => x.1 != 4 + e }).chooseParent
    else s
  | .delayReq seq => s.when (s.ptpMaster e && !s.peerDelay) fun s =>
      s.setPtp e fun p => { p with owed := p.owed ++ [(.delayResp, seq.toNat, rx)] }
  | .delayResp seq t4 => match (s.ptp e).reqAt, (s.ptp e).pair with
    | some (q, t3), some (t1, t2) =>
      if q = seq.toNat ∧ !s.peerDelay then
        s.setPtp e fun p =>
          { p with reqAt := none,
                   delay := some (((stampUnits t2 - stampUnits t1) + (stampUnits t4 - stampUnits t3)) / 2) }
      else s
    | _, _ => s
  | .pdelayReq seq => s.when s.peerDelay fun s =>
      s.setPtp e fun p => { p with owed := p.owed ++ [(.pdelayResp, seq.toNat, rx)] }
  | .pdelayResp seq t2 => s.setPtp e fun p => { p with given := some (seq.toNat, t2, rx) }
  | .pdelayRespFollowUp seq t3 => match (s.ptp e).given, (s.ptp e).reqAt with
    | some (q, t2, t4), some (r, t1) =>
      if q = seq.toNat ∧ r = seq.toNat ∧ s.peerDelay then
        s.setPtp e fun p =>
          { p with given := none, reqAt := none,
                   delay := some (((stampUnits t4 - stampUnits t1) - (stampUnits t3 - stampUnits t2)) / 2) }
      else s
    | _, _ => s
  | .report tag ts => s.ptpReport e tag.toNat ts

/-- The one domain number served (R327). -/
def State.ptpDomain (s : State) : Nat := if s.on TM_PTP.PROFILE then 0 else s.get TM_PTP.DOMAIN

/-- PTP_MESSAGE_RX (R327, R334 to R337): a message of E0 or E1 at J11 with its domain number `dom` and the receive timestamp of its
prefix; a message of another domain is ignored. A transmit timestamp (R328) carries no domain number. -/
def execPtpMessageRx (e : Fin 2) (m : PtpIn) (rx : Stamp) (s : State) : Result :=
  let t := s.setJn fun j => { j with fifo := tput [] 11 (takeUnit 0xFFE (tget [] 11 j.fifo)) j.fifo }
  .next (if s.eRole e = 0 then t
    else match m.msg with
      | .report tag ts => t.ptpReport e tag.toNat ts
      | _ => if m.dom.toNat = s.ptpDomain then t.ptpTake e m.msg rx else t)

/-- What a port may send (R327). -/
def State.ptpMay (s : State) (e : Nat) (k : PtpSend) : Bool :=
  match k with
  | .sync => s.ptpMaster e
  | .announce => s.ptpMaster e
  | .delayReq => s.ptpSlave e && !s.peerDelay
  | .pdelayReq => s.eRole e != 0 && s.peerDelay
  | _ => true

/-- A transmit timestamp is wanted for the message. -/
def PtpSend.timed : PtpSend → Bool
  | .sync => true
  | .delayReq => true
  | .pdelayReq => true
  | .pdelayResp => true
  | _ => false

/-- A PTP message goes to the Ethernet adapter; one whose transmit time is wanted is remembered by its tag. -/
def State.ptpGo (s : State) (e : Fin 2) (k : PtpSend) (tag : Byte) (frame : List Byte) (q : Nat) (time : Option Stamp) : State :=
  let pre := [if PtpSend.timed k then 1 else 0, tag] ++ beBytes 14 0
  let s := s.presentAll 11 (Cell.unit s.hubId ⟨s.hubId, 7 + e.val, 0xFFE, 7, 3, 0⟩ (pre ++ frame))
  let s := s.when (PtpSend.timed k) fun s =>
    s.setPtp e fun p => { p with tags := (tag.toNat, k, q) :: p.tags.filter fun x => x.1 != tag.toNat }
  s.emit (.ptp e k q time)

/-- PTP_MESSAGE_SEND (R327, R328): a message falls due; `frame` is the Ethernet frame in which IEEE 1588 lays it out, `tag` its
tag, `seq` its sequence where it is no answer. -/
def execPtpMessageSend (e : Fin 2) (k : PtpSend) (seq : BitVec 16) (tag : Byte) (frame : List Byte) (s : State) : Result :=
  let answer := k == .followUp || k == .delayResp || k == .pdelayResp || k == .pdelayRespFollowUp
  let owed := (s.ptp e).owed.find? fun x => x.1 == k
  .next (if s.eRole e = 0 ∨ !s.ptpMay e k then s
    else match answer, owed with
      | true, some x => (s.setPtp e fun p => { p with owed := p.owed.filter (· != x) }).ptpGo e k tag frame x.2.1 (some x.2.2)
      | true, none => s
      | false, _ => s.ptpGo e k tag frame seq.toNat none)

/-! ### Reference, setting the time, the RTC (R326, R335, R336, R340) -/

/-- REFCLK_LOSS (R326). -/
def execRefclkLoss (s : State) : Result :=
  .next (((s.setTm fun t => { t with refLost := true }).raise TM_EVENT.REF_LOSS).setTstate tsHoldover)

/-- REFCLK_RETURN (R326, R335): the reference has been present for 100 ms; a hub that is its own parent goes to GM, and one
without a parent stays in HOLDOVER. -/
def execRefclkReturn (s : State) : Result :=
  .next (if !s.tm.refLost then s
    else
      let t := s.setTm fun t => { t with refLost := false }
      if s.tstate ≠ tsHoldover ∨ s.parent = 7 then t else t.setTstate (if s.parent = 6 then tsGm else tsAcquire))

/-- Writing `SET` (R336). -/
def State.setCmd (s : State) : State :=
  if s.tstate = tsFreerun ∨ s.tstate = tsGm then s.setTm fun t => { t with setAt := some (t.sec + 1) } else s

/-- SET (R336). -/
def execSet (s : State) : Result := .next s.setCmd

/-- The domain time takes the value set. -/
def State.setApply (s : State) : State :=
  let ns := if 999999999 < s.get TM_SET_NS.SET_NS then 0 else s.get TM_SET_NS.SET_NS
  let s := s.setTm fun t => { t with sec := s.get TM_SET_SEC.SET_SEC, ns := ns, frac := 0, setAt := none }
  (s.raise TM_EVENT.STEPPED).wmReplan

/-- TIME_SET_APPLY (R336, R344): at the next whole second the time takes `TM_SET`. -/
def execTimeSetApply (s : State) : Result :=
  .next (match s.tm.setAt with
    | some t =>
      if s.tm.sec < t then s else s.setApply
    | none => s)

/-- The last offset as a number. -/
def State.lastOffset (s : State) : Int :=
  let q := s.get TM_OFFSET.OFFSET_Q
  if q < 2 ^ 31 then q else (q : Int) - 2 ^ 32

/-- Writing `ACCEPT` (R335, R338). -/
def State.acceptCmd (s : State) : State :=
  if s.tstate = tsHoldover ∧ s.parent < 6 then (s.setTstate tsSlew).slewRate s.lastOffset else s

/-- ACCEPT (R335). -/
def execAccept (s : State) : Result := .next s.acceptCmd

/-- RTC_SECOND_WRITE (R340): a whole second in LOCKED, SLEW or GM. -/
def execRtcSecondWrite (s : State) : Result :=
  .next (if s.tstate = tsLocked ∨ s.tstate = tsSlew ∨ s.tstate = tsGm then
      { s with rs := { s.rs with rtc := s.tm.sec * 32768, rtcAt := s.tm.tick, rtcValid := true } }.put TM_STATE.RTC_VALID 1
    else s)

end Sys2Proof.Machine
end

