-- ==== Sys2Proof/Machine/EngOps.lean ====
section
/-! DEFINITION. The Compositor engines without their instructions (chapter 10): banks and program copies, roles at a
lock-up and at YIELD, restarts, timers and watchdogs, the move of a retired engine's role; and the custody check of
forme-control writes (R387). -/

namespace Sys2Proof.Machine

/-! ### Custody (R387) -/

/-- The engine of an access path; 0 for the other paths. -/
def pathEngine : Path → Nat
  | .engine n => n.val
  | _ => 0

/-- `PATH` of `FC_CUST_REFUSE`: 0 PCIe, 1 USB, 2 tunnel, 3 SMBus, 4 engine. -/
def pathKind : Path → Nat
  | .pcie => 0
  | .usb => 1
  | .tunnel _ => 2
  | .smbus => 3
  | .engine _ => 4

/-- The detail of a refusal in the error log (R547, kinds 1 and 2). -/
def refusalDetail (p : Path) : Nat := pathKind p * 16 + pathEngine p

/-- A write to a forme-control register is accepted only from engine `HOLDER` while `VALID` is 1. -/
def State.hasCustody (s : State) (p : Path) : Bool :=
  match p with
  | .engine n => s.on FC_CUSTODY.VALID && s.get FC_CUSTODY.HOLDER == n.val
  | _ => false

/-- A forme-control write is refused: counted, recorded and logged (R387); of `RST_BLOCK` also raised (R441). -/
def State.refuseCustody (s : State) (p : Path) (a : Nat) : State :=
  let s := ((s.inc FC_CUST_REFUSE.REFUSED).put FC_CUST_REFUSE.PATH (pathKind p)).put FC_CUST_REFUSE.REF_ENG (pathEngine p)
  let s := (s.put FC_CUST_ADDR.REF_ADDR a).log 19 2 (refusalDetail p) a
  if a = RST_BLOCK then s.raise RST_EVENT.BLOCK_REFUSED else s

/-- A command `c` written to a forme-control register: ignored where the class excludes the register's block (R5), done with
status 0 when the path holds custody, refused with status 2 otherwise. -/
def State.custodyCmd (s : State) (p : Path) (a : Nat) (c : Instr) (g : State → State) : State :=
  s.ordered p false c fun s =>
    if s.blockExcluded a then s.emit (.access p a 0 0)
    else if s.hasCustody p then (g s).emit (.access p a 0 0)
    else (s.refuseCustody p a).emit (.access p a 2 0)

/-- The block of an engine answers: the class does not exclude it (R5). -/
def State.engHere (s : State) (n : Nat) : Bool := s.get (ENG_STATUS.STATE n) != 4

/-! ### Banks (R357, R373) -/

/-- `k` bytes of memory `src` from `b` on, put over `k` bytes of `dst` from `a` on. -/
def memMove (dst : List Host.Cell) (a : Nat) (src : List Host.Cell) (b k : Nat) : List Host.Cell :=
  let part := (src.filter fun e => decide (b ≤ e.1 ∧ e.1 < b + k)).map fun e => (a + (e.1 - b), e.2)
  (dst.filter fun e => decide (e.1 < a)) ++ part ++ dst.filter fun e => decide (a + k ≤ e.1)

/-- The bank that is neither running nor selected, when no switch is pending. -/
def State.freeBank (s : State) (n : Nat) : Nat := 1 - s.get (ENG_ROLE.BANK_SEL n)

/-- The place of a bank in `engBank`. -/
def bankBase (n bank : Nat) : Nat := 0x8000 * n + 0x4000 * bank

/-- Copy a program store slot of Case memory into a bank. -/
def State.copySlot (s : State) (n slot bank : Nat) : State :=
  { s with engBank := memMove s.engBank (bankBase n bank) s.caseMem (0x10000 + slot * 0x4000) 0x4000 }

/-- `LOAD` (R373): the copy starts; ignored and counted while a switch is pending. -/
def State.engLoad (s : State) (n slot : Nat) : State :=
  if s.on (ENG_STATUS.SW_PEND n) then s.raise (ENG_EVENT.ACT_WR n)
  else (s.setEngine n fun e => { e with loading := some (slot, s.freeBank n) }).put (ENG_STATUS.LOAD_BUSY n) 1

/-- A write of a word through the bank window (R373). -/
def State.bankWrite (s : State) (n word : Nat) (w : Word) : State :=
  if s.on (ENG_STATUS.SW_PEND n) then s.raise (ENG_EVENT.ACT_WR n)
  else { s with engBank := memWrite s.engBank (bankBase n (s.freeBank n) + 4 * word) (leBytes 4 w.toNat) }

/-- A read of a word through the bank window (R373). -/
def State.bankRead (s : State) (n word : Nat) : Word :=
  if s.on (ENG_STATUS.SW_PEND n) then 0
  else BitVec.ofNat 32 (leNat (memBytes s.engBank (bankBase n (s.freeBank n) + 4 * word) 4))

/-! ### Roles and switches (R372, R374, R378) -/

/-- The engine runs or waits. -/
def State.engLive (s : State) (n : Nat) : Bool :=
  s.get (ENG_STATUS.STATE n) == 1 || s.get (ENG_STATUS.STATE n) == 2

/-- A lock-up has given the engine another role or parameter (R378). -/
def State.rolePending (s : State) (n : Nat) : Bool :=
  s.effRole n != s.get (ENG_STATUS.ROLE_NOW n) || s.get (ENG_ROLE.PARAM n) != s.get (ENG_STATUS.PARAM_NOW n)

/-- The engine takes the role that its active `ENG_ROLE` gives. -/
def State.takeRole (s : State) (n : Nat) : State :=
  (s.put (ENG_STATUS.ROLE_NOW n) (s.effRole n)).put (ENG_STATUS.PARAM_NOW n) (s.get (ENG_ROLE.PARAM n))

/-- An engine leaves block reset with its active role (R378, R441), if it has one and nothing holds it; where it takes over a
retired engine's role, `TOOK_FROM` names that engine (R383). -/
def State.engLeave (s : State) (n : Nat) : State :=
  if !s.engUsable n || s.effRole n == 0 then s
  else
    let s := ((s.abortTests fun t tgt => t == 4 && tgt == n).takeRole n).engStart n 0
    match (s.engine n).taking with
    | none => s
    | some m =>
      let s := s.setEngine n fun e => { e with taking := none }
      (s.put (ENG_STATUS.TOOK_FROM n) m).raise (ENG_EVENT.ROLE_MOVED n)

/-- A lock-up at an engine (R372, R376, R378): a role given to an engine of role NONE starts it; a changed `BANK_SEL` makes a
switch pending; a code that acts as NONE raises `VACANT`. -/
def State.engLockup (s : State) (n : Nat) : State :=
  if s.get (ENG_STATUS.STATE n) == 4 || s.on (ENG_FAULT.RETIRED n) then s
  else
    let s := if s.get (ENG_ROLE.ROLE n) ≠ s.effRole n then s.raise (ENG_EVENT.VACANT n) else s
    if s.get (ENG_STATUS.ROLE_NOW n) == 0 then s.engLeave n
    else s.put (ENG_STATUS.SW_PEND n) (s.get (ENG_ROLE.BANK_SEL n) != s.get (ENG_STATUS.RUN_BANK n)).toNat

/-- The pc advances by 4 (R360); past the last word of the bank the spec states no address: it is free
(notes/assumptions/60.md). -/
def State.pcNext (s : State) (n : Nat) : State :=
  let pc := (s.engine n).pc
  if pc < 0x3FFC then s.setEngine n fun e => { e with pc := pc + 4 }
  else (s.setEngine n fun e => { e with pc := s.free % 4096 * 4 }).usedFree

/-- YIELD (R372, R378): a pending role change restarts the engine or puts it into block reset; a pending switch alone moves it
to word 0 of the selected bank; nothing else changes. -/
def State.engYield (s : State) (n : Nat) : State :=
  let sw := s.on (ENG_STATUS.SW_PEND n)
  if s.rolePending n then
    if s.effRole n == 0 then s.engReset n
    else ((s.takeRole n).engStart n 0).when sw fun s => s.raise (ENG_EVENT.BANK_SWITCHED n)
  else if sw then
    let s := s.setEngine n fun e => { e with pc := 0, swMs := 0 }
    let s := (s.put (ENG_STATUS.RUN_BANK n) (s.get (ENG_ROLE.BANK_SEL n))).put (ENG_STATUS.SW_PEND n) 0
    (s.put (ENG_STATUS.ENTRY n) 1).raise (ENG_EVENT.BANK_SWITCHED n)
  else s.pcNext n

/-- `RESTART` (R374): no effect in block reset. -/
def State.engRestart (s : State) (n : Nat) : State :=
  if s.get (ENG_STATUS.ROLE_NOW n) == 0 || !s.engUsable n then s
  else if s.on (ENG_STATUS.SW_PEND n) then (s.engStart n 1).raise (ENG_EVENT.BANK_SWITCHED n)
  else s.engStart n 2

/-- A Milestone boundary at an engine: Milestones of a pending switch or role change (R374), and bit 16 of its event word
(R367). -/
def State.engBoundary (s : State) (n : Nat) : State :=
  if !s.engLive n then s
  else
    let pend := s.on (ENG_STATUS.SW_PEND n) || s.rolePending n
    (s.latch n 16).setEngine n fun e => { e with swMs := if pend then e.swMs + 1 else 0 }

/-! ### Move of a role (R383, R384) -/

/-- A custodian Steward is in service. -/
def State.custodianInService (s : State) : Bool :=
  s.on FC_CUSTODY.VALID && s.engInService (s.get FC_CUSTODY.HOLDER) && s.get (ENG_STATUS.ROLE_NOW (s.get FC_CUSTODY.HOLDER)) == 1

/-- The role of retired engine `n` is to move at this boundary: 100 µs have passed, a custodian and a spare are in
service. -/
def State.roleMoveDue (s : State) (n : Nat) : Bool :=
  match (s.engine n).retiredAt with
  | none => false
  | some t => decide (100000 ≤ s.elapsed t) && s.custodianInService && s.spareEngine.isSome

/-- The custodian moves the role of retired engine `n`: a USER program on CE_11 ends, the program store slot goes into the
spare's free bank, and the shadow roles of both engines are written; the lock-up at this boundary makes them active. Where an
earlier move of the same boundary took the last spare, the role stays vacant (R385). -/
def State.roleMove (s : State) (n : Nat) : State :=
  match s.spareEngine with
  | none => s.raise (ENG_EVENT.VACANT n)
  | some m =>
    let s := if s.get (ENG_STATUS.ROLE_NOW m) = 6 then (s.engReset m).raise (ENG_EVENT.USER_EVICT m) else s
    let bank := s.freeBank m
    let s := s.copySlot m (s.get (ENG_ROLE.PROG_SLOT n)) bank
    let s := (s.putShadow (ENG_ROLE.ROLE m) (s.get (ENG_ROLE.ROLE n))).putShadow (ENG_ROLE.PARAM m) (s.get (ENG_ROLE.PARAM n))
    let s := (s.putShadow (ENG_ROLE.PROG_SLOT m) (s.get (ENG_ROLE.PROG_SLOT n))).putShadow (ENG_ROLE.BANK_SEL m) bank
    let s := s.putShadow (ENG_ROLE.ROLE n) 0
    (s.setEngine n fun e => { e with retiredAt := none }).setEngine m fun e => { e with taking := some n }

/-! ### Commands -/

/-- ENGINE_TIMER_EXPIRY (R371): the timer of an engine reaches 0 and bit 18 latches. -/
def execEngineTimerExpiry (n : EngNo) (s : State) : Result :=
  .next (match (s.engine n.val).timer with
    | none => s
    | some t => if t ≤ s.nowNs then (s.setEngine n.val fun e => { e with timer := none }).latch n.val 18 else s)

/-- The watchdog has run for `WDT_US` since the last KICK or start, 0 meaning 65,536 (R379). -/
def State.wdtDue (s : State) (n : Nat) : Bool :=
  let us := s.get (ENG_ROLE.WDT_US n)
  decide ((if us = 0 then 65536 else us) * 1000 ≤ s.elapsed (s.engine n).wdtAt)

/-- WATCHDOG_EXPIRY (R379, R381): no KICK and no start of a running or waiting engine for `WDT_US`. -/
def execWatchdogExpiry (n : EngNo) (s : State) : Result :=
  .next (if s.engLive n.val ∧ s.wdtDue n.val then s.engineFault n.val 7 else s)

/-- ENGINE_FAULT_RESTART (R381): within 1 µs of a fault the engine restarts with `ENTRY` 2. -/
def execEngineFaultRestart (n : EngNo) (s : State) : Result :=
  .next (if (s.engine n.val).faulted ∧ s.engUsable n.val then s.engStart n.val 2 else s)

/-- NOYIELD (R374): a switch or role change has been pending for 4 Milestones. -/
def execNoyield (n : EngNo) (s : State) : Result :=
  .next (if 4 < (s.engine n.val).swMs then s.raise (ENG_EVENT.NOYIELD n.val) else s)

/-- LOAD written in `ENG_CMD` (R373). -/
def execLoad (path : Path) (n : EngNo) (slot : Fin 8) (s : State) : Result :=
  .next (s.custodyCmd path (ENG_CMD n.val) (.load path n slot) fun s => s.engLoad n.val slot.val)

/-- LOAD_DONE (R373): the program copy is complete. -/
def execLoadDone (n : EngNo) (s : State) : Result :=
  .next (match (s.engine n.val).loading with
    | none => s
    | some (slot, bank) =>
      ((s.copySlot n.val slot bank).setEngine n.val fun e => { e with loading := none }).put (ENG_STATUS.LOAD_BUSY n.val) 0)

/-- RESTART written in `ENG_CMD` (R374). -/
def execRestart (path : Path) (n : EngNo) (s : State) : Result :=
  .next (s.custodyCmd path (ENG_CMD n.val) (.restart path n) fun s => s.engRestart n.val)

/-- RETIRE written in `ENG_CMD` (R382). -/
def execRetire (path : Path) (n : EngNo) (s : State) : Result :=
  .next (s.custodyCmd path (ENG_CMD n.val) (.retire path n) fun s => s.retireEngine n.val)

/-- BANK_WINDOW_WRITE (R373): a word of the window at offset 0x4000 of the engine block. -/
def execBankWindowWrite (n : EngNo) (word : Fin 4096) (w : Word) (s : State) : Result :=
  .next (s.when (s.engHere n.val) fun s => s.bankWrite n.val word.val w)

/-- A management post (R366): `POST_W0` and the written word to mailbox `POST_MBX`; a message not delivered is counted. -/
def State.postMail (s : State) (n : Nat) (w1 : Word) : State :=
  let (st, s') := s.sendMail n (s.get (ENG_MBX_CTL.POST_MBX n)) (s.reg (ENG_MBX_W0 n), w1)
  let s' := s'.put (ENG_MBX_CTL.POST_ST n) st
  if st = 0 then s' else (s'.inc (ENG_MBX_STAT.MBX_DROP n)).raise (ENG_EVENT.MBX_DROP n)

/-- MAILBOX_POST (R366): a write of `ENG_MBX_W1`. -/
def execMailboxPost (n : EngNo) (w1 : Word) (s : State) : Result :=
  .next (s.when (s.engHere n.val) fun s => s.postMail n.val w1)

end Sys2Proof.Machine
end

