-- ==== Sys2Proof/Machine/Image.lean ====
section
/-! DEFINITION. The flash, its directory and images (chapter 11): reading and rewriting the directory, the checks of an image
in their order, and what each section puts into the shadow Forme, Case memory and the program banks. -/

namespace Sys2Proof.Machine

/-! ### Flash (R392 to R396) -/

/-- `k` bytes of the flash from an address on; a byte that nothing has written is erased, 0xFF (notes/assumptions/31.md). -/
def State.flashBytes (s : State) (a k : Nat) : List Byte :=
  let part := s.flash.filter fun e => decide (a ≤ e.1 ∧ e.1 < a + k)
  (List.range k).map fun i => tget 0xFF (a + i) part

/-- Write bytes into the flash. -/
def flashWrite (m : List Host.Cell) (a : Nat) (bs : List Byte) : List Host.Cell :=
  (bs.zipIdx).foldl (fun m (b, i) => tput 0xFF (a + i) b m) m

/-- What a directory copy gives: its number, `DIR_SEQ`, flash size as log2 of bytes, bank states; how images are read: mode,
clock in MHz, read opcode, dummy clocks, and the commands that lead into the mode (R394). -/
structure Dir where
  copy  : Option Nat
  seq   : Nat
  size  : Nat
  bankA : Nat
  bankB : Nat
  mode  : Nat
  mhz   : Nat
  op    : Nat
  dummy : Nat
  entry : List (List Byte)
  deriving DecidableEq, Repr

/-- Directory copy `k`, when it is valid (R394, R395). -/
def State.dirCopy (s : State) (k : Nat) : Option Dir :=
  let bs := s.flashBytes (0x1000 * k) 4096
  let le (a n : Nat) := leNat (slice bs a n)
  if le 0 4 = 0x43444952 ∧ le 4092 4 = crc32c (bs.take 4092) then
    some ⟨some k, le 4 4, if 21 ≤ le 12 1 ∧ le 12 1 ≤ 26 then le 12 1 else 26, le 80 1, le 81 1,
      if le 8 1 ≤ 2 then le 8 1 else 0, if 1 ≤ le 9 1 ∧ le 9 1 ≤ 133 then le 9 1 else 25, le 10 1, le 11 1,
      ((List.range 4).map fun i => slice bs (17 + 16 * i) (min 15 (le (16 + 16 * i) 1))).filter (· != [])⟩
  else none

/-- Newer by the rule of R133, modulo 2^32. -/
def newer32 (a b : Nat) : Bool := let d := (a + 2 ^ 32 - b) % 2 ^ 32; decide (0 < d ∧ d < 2 ^ 31)

/-- The directory in use (R395). -/
def State.dir (s : State) : Dir :=
  match s.dirCopy 0, s.dirCopy 1 with
  | some a, some b => if newer32 b.seq a.seq then b else a
  | some a, none => a
  | none, some b => b
  | none, none => ⟨none, 0, 26, 0xFF, 0xFF, 0, 25, 0x13, 0, []⟩

/-- `FC_DIR` shows the directory in use. -/
def State.showDir (s : State) : State :=
  let d := s.dir
  ((s.put FC_DIR.DIR_A d.bankA).put FC_DIR.DIR_B d.bankB).put FC_DIR.DIR_SEQ_LO d.seq

/-- The flash is opened once after a reset (R392, R396): reset, the directory read in 1-1-1 at 25 MHz, and `ENTRY_SEQ` sent unless
the images are to be read in that mode. The opcode of the read is that of R395 (notes/assumptions/102.md). -/
def State.openFlash (s : State) (slow : Bool) : State :=
  if s.fc.flOpen && !slow then s
  else
    let s := s.emit .flashReset
    let s := s.each [0, 0x1000] fun a s => s.emit (.flash 0 25 0 (0x13 :: beBytes 4 a) 4096)
    let s := if slow then s else s.each s.dir.entry fun c s => s.emit (.flash 0 25 0 c 0)
    s.setFc fun f => { f with flOpen := !slow }

/-- The bytes of a bank's image are read in `FL_MODE` at `FL_MHZ`; with `slow`, the third attempt, in 1-1-1 at 25 MHz (R396,
R407); the ROM safe Forme, 2, is read from no flash. -/
def State.readImage (s : State) (bank : Nat) (slow : Bool) : State :=
  let base := if bank = 0 then 0x100000 else 0x2100000
  let d := s.dir
  let len := leNat (s.flashBytes (base + 0x1C) 4)
  if 2 ≤ bank then s
  else if slow then s.emit (.flash 0 25 0 (0x13 :: beBytes 4 base) len)
  else s.emit (.flash d.mode d.mhz d.dummy (BitVec.ofNat 8 d.op :: beBytes 4 base) len)

/-- Bank states: 1 TRIAL, 2 GOOD, 3 FAILED. -/
def Dir.bankState (d : Dir) (bank : Nat) : Nat := if bank = 0 then d.bankA else d.bankB

/-- The directory as written when no copy is valid: the values R395 takes, both bank states unknown. -/
def emptyDir : List Byte :=
  leBytes 4 0x43444952 ++ leBytes 4 0 ++ [0, 25, 0x13, 0, 26, 0, 0, 0] ++ List.replicate 64 0 ++ List.replicate 4012 0xFF

/-- A bank state written into the directory (R395): the copy not in use is rewritten with `DIR_SEQ` one higher. -/
def State.markBank (s : State) (bank st : Nat) : State :=
  let d := s.dir
  let (old, place) := match d.copy with
    | some k => ((s.flashBytes (0x1000 * k) 4096).take 4092, 0x1000 * (1 - k))
    | none => (emptyDir, 0)
  let body := old.take 4 ++ leBytes 4 ((d.seq + 1) % 2 ^ 32) ++ (old.drop 8).take (72 + bank) ++ [BitVec.ofNat 8 st]
    ++ old.drop (81 + bank)
  let flash := flashWrite s.flash place (body ++ leBytes 4 (crc32c body))
  { s with flash := flash }.showDir

/-- The base of a bank (R393). -/
def bankPlace (bank : Nat) : Nat := if bank = 0 then 0x100000 else 0x2100000

/-! ### Images (R397 to R400) -/

/-- An entry of the section table (R398). -/
structure Sec where
  ty     : Nat
  flags  : Nat
  ver    : Nat
  ofs    : Nat
  len    : Nat
  target : Nat
  serial : Nat
  digest : List Byte
  deriving DecidableEq, Repr

def Sec.ofBytes (bs : List Byte) : Sec :=
  let le (a n : Nat) := leNat (slice bs a n)
  ⟨le 0 1, le 1 1, le 2 2, le 4 4, le 8 4, le 12 4, le 16 8, slice bs 32 32⟩

def Sec.critical (x : Sec) : Bool := x.flags.testBit 0
def Sec.coldOnly (x : Sec) : Bool := x.flags.testBit 1

/-- Layout version 1.0 and a type of R400 (R405). -/
def Sec.known (x : Sec) : Bool := x.ver == 0x100 && decide (1 ≤ x.ty ∧ x.ty ≤ 5)

/-- The table section lies in its areas of Case memory (R400). -/
def tablePlace (a n : Nat) : Bool :=
  decide (0x100 ≤ a ∧ a + n ≤ 0x10000) || decide (0x30000 ≤ a ∧ a + n ≤ 0xF0000)

/-- The placement check of one section (R398, R400). -/
def Sec.placed (x : Sec) (hdrLen imgLen : Nat) : Bool :=
  x.ofs % 4 == 0 && x.len % 4 == 0 && decide (hdrLen + 132 ≤ x.ofs) && decide (x.ofs + x.len ≤ imgLen) &&
  (!x.known || (if x.ty = 2 then decide (x.len ≤ 16384) else if x.ty = 3 then tablePlace x.target x.len
    else if x.ty = 4 then decide (x.len ≤ 32768) && x.len % 16 == 0 else true))

/-- Two sections do not overlap. -/
def Sec.apart (x y : Sec) : Bool := decide (x.ofs + x.len ≤ y.ofs) || decide (y.ofs + y.len ≤ x.ofs)

/-- No two sections overlap. -/
def secsApart : List Sec → Bool
  | [] => true
  | x :: t => t.all x.apart && secsApart t

/-! ### Register streams (R401, R402) -/

/-- A record that addresses an excluded block is ignored and counted. -/
def State.countExcluded (s : State) : State := s.inc FC_LOAD_CNT.EXCLUDED

/-- A run of values into consecutive shadow registers; `none` where an address holds no FH field. -/
def State.streamRun (s : State) (a : Nat) (vals : List Nat) : Option State :=
  if s.blockExcluded a then some s.countExcluded
  else if vals.zipIdx.all fun (_, i) => hasFh (a + 4 * i) then
    some (s.each vals.zipIdx fun (v, i) s => s.writeShadow (a + 4 * i) (BitVec.ofNat 32 v))
  else none

/-- One MASK record. -/
def State.streamMask (s : State) (a m v : Nat) : Option State :=
  let old := (s.shadowReg a).toNat
  s.streamRun a [(old &&& (m ^^^ 0xFFFFFFFF)) ||| (v &&& m)]

/-- One POST record: only registers with no FH field, outside the forme-control registers, at most 1,024 pairs. -/
def State.streamPost (s : State) (a v : Nat) : Option State :=
  if s.blockExcluded a then some s.countExcluded
  else if (regAt a).isNone || hasFh a || formeControl a || 1024 ≤ s.fc.posts.length then none
  else some (s.setFc fun f => { f with posts := f.posts ++ [(a, BitVec.ofNat 32 v)] })

/-- A FILL record; a run longer than any block's registers passes over an address that names none. -/
def State.streamFill (s : State) (a n v : Nat) : Option State :=
  if s.blockExcluded a then some s.countExcluded
  else if 0x4000 < n then none
  else s.streamRun a (List.replicate n v)

/-- The records of a register stream, in order; `none` is a section error. -/
def State.stream : Nat → List Nat → State → Option State
  | 0, _, _ => none
  | _, [], _ => none
  | k + 1, h :: t, s =>
    let kind := bits h 31 28
    let low (a : Nat) := a % 2 ^ 31
    if kind = 0xF then some s
    else match kind, t with
      | 1, a :: vs =>
        let n := bits h 23 0
        if vs.length < n then none
        else match s.streamRun (low a) (vs.take n) with
          | none => none
          | some s => State.stream k (vs.drop n) s
      | 2, a :: m :: v :: r =>
        match s.streamMask (low a) m v with
        | none => none
        | some s => State.stream k r s
      | 3, a :: v :: r =>
        match s.streamPost a v with
        | none => none
        | some s => State.stream k r s
      | 4, a :: n :: v :: r =>
        match s.streamFill (low a) n v with
        | none => none
        | some s => State.stream k r s
      | _, _ => none

/-! ### Sections (R400, R402, R405, R406 orders 9 to 11) -/

/-- A section read and digested takes effect; `none` is a section error. -/
def State.applySec (s : State) (x : Sec) (bs : List Byte) : Option State :=
  if x.ty = 1 then
    let ws := (List.range (x.len / 4)).map fun i => leNat (slice bs (4 * i) 4)
    State.stream (ws.length + 1) ws s
  else if x.ty = 2 then some (s.setCaseBytes (0x10000 + x.target % 8 * 0x4000) bs)
  else if x.ty = 3 then some (s.setCaseBytes x.target bs)
  else if x.ty = 4 then some (s.setCaseBytes 0x8000 bs)
  else some s

/-- A section is passed over: for another hub's serial, uncounted; counted in `SKIPPED` as unknown and optional or as
`COLD_ONLY` in a stage; data, and in a stage a table, stay in the flash (R400, R402, R405, R419). -/
def State.passOver (s : State) (x : Sec) (staged : Bool) : Option State :=
  if x.serial ≠ 0 ∧ x.serial ≠ s.serial then some s
  else if !x.known then if x.critical then none else some (s.inc FC_LOAD_CNT.SKIPPED)
  else if x.coldOnly && staged then some (s.inc FC_LOAD_CNT.SKIPPED)
  else if x.ty = 5 ∨ (x.ty = 3 ∧ staged) then some s
  else none

/-- The sections in table order from index `i`: the code and the index of the first failure, 0 where all pass. `err` is a
section whose bytes were read wrong. -/
def State.runSecs (base : Nat) (staged : Bool) (err : Option Nat) : Nat → List Sec → State → Nat × Nat × State
  | _, [], s => (0, 0xFF, s)
  | i, x :: t, s =>
    match s.passOver x staged with
    | some s => State.runSecs base staged err (i + 1) t s
    | none =>
      let bs := s.flashBytes (base + x.ofs) x.len
      if err = some i ∨ sha256 bs ≠ x.digest then (9, i, s)
      else if !x.known then (10, i, s)
      else match s.applySec x bs with
        | none => (11, i, s)
        | some s => State.runSecs base staged err (i + 1) t s

/-! ### The checks (R403 to R406) -/

/-- The Colophon of a bank's image. -/
def State.bankColo (s : State) (base : Nat) : Colo :=
  let h := s.flashBytes base 0x40
  let le (a n : Nat) := leNat (slice h a n)
  { fmt := le 4 2, isa := le 0x0E 2, imgId := le 0x10 4, imgSeq := le 0x14 4, rollback := le 0x18 1, classes := le 0x0D 1,
    stepMin := le 0x0C 1, flags := le 0x19 1, name := slice h 0x20 32,
    key := leNat (s.flashBytes (base + le 6 2) 1) }

/-- Checks 2 and 3: `MAGIC`, `HDR_LEN` and `SEC_COUNT`; `HDR_CRC`. The code of the failure, or 0. -/
def State.headerCode (s : State) (base : Nat) : Nat :=
  let h := s.flashBytes base 0x40
  let le (a n : Nat) := leNat (slice h a n)
  let n := le 0x1A 2
  let len := le 6 2
  if le 0 4 ≠ 0x4D524F46 ∨ len ≠ 0x44 + 64 * n ∨ n = 0 ∨ 255 < n then 2
  else if leNat (s.flashBytes (base + len - 4) 4) ≠ crc32c (s.flashBytes base (len - 4)) then 3
  else 0

/-- Check 4 (R405). -/
def State.versionOk (s : State) (base : Nat) (c : Colo) : Bool :=
  c.fmt / 256 == 3 && leNat (s.flashBytes (base + 8) 4) == 0x4816 && decide (c.stepMin ≤ wordField (s.reg ID_DEVICE) 15 8)
    && c.isa == 0x200 && c.classes.testBit s.cls

/-- No key slot is programmed (R403). -/
def State.keysOpen (s : State) : Bool := s.get FC_ROLLBACK.KEY_PROG == 0

/-- Check 5 (R403). -/
def State.keyOk (s : State) (c : Colo) (key : List Byte) : Bool :=
  s.keysOpen || (decide (c.key < 4) && (s.get FC_ROLLBACK.KEY_PROG).testBit c.key &&
    !(s.get FC_ROLLBACK.KEY_REVOKED).testBit c.key && tget [] c.key s.fc.keyHash == sha256 key)

/-- The checks of an image in the order of R406, each section applied as it passes: the code, the section index, and the
state. `err` is a fault of reading: the code 2, 3 or 9 that it shows as, and the section for 9. -/
def State.checkImage (s : State) (bank : Nat) (staged : Bool) (err : Option (Nat × Nat)) : Nat × Nat × State :=
  let d := s.dir
  let base := bankPlace bank
  let failed (k : Nat) := err.any fun e => e.1 == k
  if 2 ^ d.size ≤ base then (1, 0xFF, s)
  else
    let hc := s.headerCode base
    if failed 2 ∨ hc = 2 then (2, 0xFF, s)
    else if failed 3 ∨ hc = 3 then (3, 0xFF, s)
    else
      let c := s.bankColo base
      let len := leNat (s.flashBytes (base + 6) 2)
      let count := leNat (s.flashBytes (base + 0x1A) 2)
      let imgLen := leNat (s.flashBytes (base + 0x1C) 4)
      let sig := s.flashBytes (base + len) 132
      let secs := (List.range count).map fun i => Sec.ofBytes (s.flashBytes (base + 0x40 + 64 * i) 64)
      if !s.versionOk base c then (4, 0xFF, s)
      else if !s.keyOk c (slice sig 4 64) then (5, 0xFF, s)
      else
        let s := s.put FC_STATUS.KEY_OPEN (s.keysOpen).toNat
        let digest := beNat (sha256 (s.flashBytes base len))
        if !ecdsaOk (beAt sig 4 32) (beAt sig 36 32) (beAt sig 68 32) (beAt sig 100 32) digest then (6, 0xFF, s)
        else if 64 < c.rollback ∨ c.rollback < s.get FC_ROLLBACK.OTP_COUNT then (7, 0xFF, s)
        else if !(secs.all fun x => x.placed len imgLen) || !secsApart secs || decide (0x2000000 < imgLen)
            || decide (2 ^ d.size < base + imgLen) then
          (8, ((secs.findIdx? fun x => !x.placed len imgLen).getD 0xFF), s)
        else
          let (code, i, s) := State.runSecs base staged (err.bind fun e => if e.1 = 9 then some e.2 else none) 0 secs s
          (code, i, if code = 0 then s.setFc fun f => { f with colo := c } else s)

/-- The program store slots that an image's sections fill, for the copies into banks. -/
def State.imageSlots (s : State) (bank : Nat) (staged : Bool) : List Nat :=
  let base := bankPlace bank
  let count := leNat (s.flashBytes (base + 0x1A) 2)
  ((List.range count).map fun i => Sec.ofBytes (s.flashBytes (base + 0x40 + 64 * i) 64)).filterMap fun x =>
    if x.ty = 2 ∧ (s.passOver x staged).isNone then some (x.target % 8) else none

/-! ### ROM safe Forme (R412) -/

/-- The ROM safe Forme in the shadow: reset values but for the settings of R412; power and cable settings stay as they
are. -/
def State.romForme (s : State) : State :=
  let keep := s.regs.filter fun e => decide (0x40000 ≤ e.1 ∧ e.1 < 0x60000)
  let s := (({ s with shadow := keep } : State).putShadow PX_ID.PCI_VID (s.get USB_ID2.VID)).setFc fun f =>
    { f with posts := [], colo := { name := [0x53, 0x41, 0x46, 0x45] ++ List.replicate 28 0 } }
  let s := (s.putShadow ID_HUB.HUB_ID 2047).putShadow ID_HUB.START_STBY 1
  let s := (s.putShadow (SP_CFG.EN 0) 1).putShadow (SP_CFG.RATE_MAX 0) 2
  let s := s.each ((List.range 12).filter fun n => n ≠ 0 ∧ n ≠ 6) fun n s => s.putShadow (ENG_ROLE.ROLE n) 0
  (s.putShadow TM_CFG.SPINE_EN 1).putShadow TM_CFG.GM_EN 0

end Sys2Proof.Machine
end

