-- ==== Sys2Proof/Machine/Forme.lean ====
section
/-! DEFINITION. Forme control (chapter 11): cold-start loads, arms, the Forme's part of a lock-up, stages, verifications,
probation, the custodian's commands, flash commands and key slots. -/

namespace Sys2Proof.Machine

/-- A command of the Forme control is refused. -/
def State.refuseCmd (s : State) : State := s.raise FC_EVENT.CMD_REFUSED

/-! ### Results of checks -/

/-- The result of a load, stage or verification in `FC_LOAD` (R406); `op` 0, 1, 2. -/
def State.loadResult (s : State) (op src attempt code sec : Nat) : State :=
  let s := ((s.put FC_LOAD.CODE code).put FC_LOAD.L_SRC src).put FC_LOAD.L_OP op
  (s.put FC_LOAD.ATTEMPT attempt).put FC_LOAD.SECTION sec

/-- A source applied to the shadow: the code, the section index, and the state. -/
def State.applySource (s : State) (src : Nat) (staged : Bool) (err : Option (Nat × Nat)) : Nat × Nat × State :=
  if src = 2 then (0, 0xFF, s.romForme) else s.showDir.checkImage src staged err

/-- The reading fault of a command: 0 `MAGIC` or lengths (code 2), 1 `HDR_CRC` (3), 2 the digest of a section (9). -/
def readFault (e : Option (Fin 3 × Fin 255)) : Option (Nat × Nat) :=
  e.map fun (k, i) => ([2, 3, 9].getD k.val 9, i.val)

/-! ### Arms (R415, R416) -/

/-- Lock-up is armed. -/
def State.armFor (s : State) (number : Option Nat) : State :=
  (s.setFc fun f => { f with arm := some ⟨number, s.nowNs + 20000, false⟩ }).put FC_STATUS.ARMED 1

/-- An arm is refused. -/
def State.refuseArm (s : State) (err : Nat) : State :=
  ((s.put FC_STATUS.LU_ERR err).inc FC_LU_CNT.LU_REFUSED).raise FC_EVENT.LU_REFUSED

/-- `ARM` (R415): a boundary named by `LU_AT` must begin 20 µs or more from now. -/
def State.armCmd (s : State) (atEn : Bool) : State :=
  if s.on FC_STATUS.SHADOW_BAD then s.refuseArm 2
  else if !atEn then s.armFor none
  else
    let p := s.msPeriod * 125000
    let cur := s.nowNs / p
    let d := (s.get FC_LU_AT.LU_AT + 2 ^ 32 - cur % 2 ^ 32) % 2 ^ 32
    if d = 0 ∨ 2 ^ 31 ≤ d ∨ (cur + d) * p < s.nowNs + 20000 then s.refuseArm 1
    else s.armFor (some (s.get FC_LU_AT.LU_AT))

/-- An armed lock-up falls on the boundary with number `k` (R415, R416). -/
def State.armDue (s : State) (k : Nat) : Bool :=
  match s.fc.arm with
  | none => false
  | some a => a.deferred || match a.number with
    | some n => k % 2 ^ 32 == n
    | none => decide (a.notBefore ≤ k * (s.msPeriod * 125000))

/-- A boundary on which an armed lock-up falls passes without it (R416). -/
def State.deferArm (s : State) : State :=
  (s.inc FC_LU_CNT.LU_DEFER).setFc fun f => { f with arm := f.arm.map fun a => { a with deferred := true } }

/-! ### Lock-up (R417) -/

/-- A register of the Keep die (R21, R43): the blocks at 0x0002_0000 to 0x0005_FFFF. -/
def keepBlock (a : Nat) : Bool := decide (0x20000 ≤ a ∧ a < 0x60000)

/-- The FH fields of one register take their shadow values. -/
def State.flipReg (s : State) (a : Nat) : State :=
  match regAt a with
  | none => s
  | some r => s.each (r.fields.filter fun f => f.acc == .fh) fun f s => s.put ⟨a, f.hi, f.lo⟩ (s.getShadow ⟨a, f.hi, f.lo⟩)

/-- The FH fields of one die take their shadow values. -/
def State.flipFh (s : State) (keep : Bool) : State :=
  s.each ((s.regs ++ s.shadow).map (·.1) |>.filter fun a => keepBlock a == keep) fun a s => s.flipReg a

/-- The Colophon registers show the Colophon of the active Forme (R397). -/
def State.showColo (s : State) : State :=
  let c := s.fc.actColo
  let s := ((s.put ID_COLO_VER.FMT_VER c.fmt).put ID_COLO_VER.ISA_REQ c.isa).put ID_COLO_ID.IMG_ID c.imgId
  let s := ((s.put ID_COLO_SEQ.IMG_SEQ c.imgSeq).put ID_COLO_MISC.ROLLBACK c.rollback).put ID_COLO_MISC.CLASSES c.classes
  let s := ((s.put ID_COLO_MISC.STEP_MIN c.stepMin).put ID_COLO_MISC.C_FLAGS c.flags).put FC_ROLLBACK.KEY_USED c.key
  s.each (List.range 8) fun j s => s.put (ID_COLO_NAME.NAME j) (leNat (slice c.name (4 * j) 4))

/-- The source that a lock-up makes active: a revert ends the probation, another staged image begins one, a cold-start load
begins none (R411, R423); a Forme from flash clears the attempt record (R409). -/
def State.activate (s : State) : State :=
  let src := s.get FC_STATUS.STG_SRC
  let old := s.get FC_STATUS.ACT_SRC
  let image := s.on FC_STATUS.STAGED || !s.rs.hasForme
  if !image then s
  else
    let s := (s.put FC_STATUS.ACT_SRC src).setFc fun f => { f with actColo := f.colo }
    let s := if src < 2 then s.setReg FC_ATTEMPT 0 else s
    let n := s.get FC_PROB.PROB_N
    let s :=
      if s.on FC_STATUS.REVERTING then
        (((s.put FC_STATUS.REVERTING 0).put FC_STATUS.PROB 0).put FC_STATUS.PROB_LEFT 0).raise FC_EVENT.REVERTED
      else if s.on FC_STATUS.STAGED then
        ((s.put FC_STATUS.PROB (n != 0).toNat).put FC_STATUS.PROB_LEFT n).setFc fun f => { f with prevSrc := old }
      else s
    ((s.put FC_STATUS.STAGED 0).put FC_STATUS.STG_SRC 3).showColo

/-- The Forme's part of a lock-up: the Spine-die fields at once; the Keep-die fields, with the words that the shadow gives them
now, the post list, the copy into the shadow and the retained record follow (R413, R414, R417). -/
def State.lockForme (s : State) : State :=
  let s := (s.flipFh false).activate
  let keep := s.shadow.filter fun e => keepBlock e.1
  let s := s.setFc fun f =>
    { f with arm := none, actPosts := f.posts, keepOwed := true, keepFh := keep, postOwed := true, copying := true, recOwed := true,
             recGood := false }
  let s := s.setRs fun r => { r with hasForme := true }
  ((s.put FC_STATUS.ARMED 0).inc FC_LU_CNT.LOCKUPS).raise FC_EVENT.LOCKUP

/-- The FH registers of the active Forme: Keep-die words of a lock-up that are still to be taken count in it (R417). -/
def State.formeTable (s : State) : List (Nat × Word) :=
  let keep := s.fc.keepFh.filter fun e => keepBlock e.1 && s.fc.keepOwed
  let t := s.regs.filter fun e => hasFh e.1 && !(s.fc.keepOwed && keepBlock e.1)
  keep.foldl (fun t e => tput (regReset e.1) e.1 e.2 t) t

/-- The shadow becomes a copy of the active Forme (R19, R420). -/
def State.copyActive (s : State) : State :=
  { s with shadow := s.formeTable }.setFc fun f => { f with posts := f.actPosts, colo := f.actColo }

/-- RETAINED_RECORD_WRITE (R414): the record is rewritten from the active Forme and its marker set. -/
def execRetainedRecordWrite (s : State) : Result :=
  .next (if s.fc.recOwed then
    s.setFc fun f => { f with
      record := some ⟨s.formeTable, f.actPosts, f.actColo⟩, recGood := true, recOwed := false }
  else s)

/-! ### Cold-start load (R406 to R411) -/

def State.bankTries (s : State) (bank : Nat) : Nat :=
  if bank = 0 then s.get FC_ATTEMPT.A_TRIES else s.get FC_ATTEMPT.B_TRIES

/-- The header of a bank's image can be read: its bank is present and checks 2 and 3 pass. -/
def State.headerReads (s : State) (bank : Nat) : Bool :=
  decide (bankPlace bank < 2 ^ s.dir.size) && s.headerCode (bankPlace bank) == 0

/-- The sources in the order of the strap (R408). -/
def State.bootOrder (s : State) : List Nat :=
  let b := s.get ID_DEVICE.BOOT_SRC
  if b = 0 then [0, 1, 2]
  else if b = 1 then [1, 0, 2]
  else if b = 2 then
    if s.headerReads 0 && s.headerReads 1 && decide ((s.bankColo (bankPlace 0)).imgSeq < (s.bankColo (bankPlace 1)).imgSeq)
    then [1, 0, 2] else [0, 1, 2]
  else [2]

/-- The next source in order: a bank that has failed three times is passed over (R409). -/
def State.nextSource (s : State) : Nat := (s.bootOrder.find? fun b => b == 2 || decide (s.bankTries b < 3)).getD 2

/-- A load attempt starts (R396, R406, R407): the directory is read, and the shadow takes its reset values. -/
def State.formeLoad (s : State) : State :=
  let s := s.showDir
  let src := s.nextSource
  let attempt := if src < 2 then s.bankTries src + 1 else 1
  let s := s.openFlash (decide (src < 2) && attempt == 3)
  let s := s.freshShadow.setFc fun f => { f with posts := [], op := some (.load src attempt) }
  let s := ((s.put RST_STATUS.PHASE 5).put FC_LOAD_CNT.EXCLUDED 0).put FC_LOAD_CNT.SKIPPED 0
  s.put FC_STATUS.STG_SRC src

/-- Programs of a cold-start load go into the bank that `BANK_SEL` will select in every engine whose `PROG_SLOT` names their
slot (DEDUCED from R418: the stage gives what a cold start from the bank would give; notes/assumptions/32.md). -/
def State.coldPrograms (s : State) (slots : List Nat) : State :=
  s.each (List.range 12) fun n s =>
    let slot := s.getShadow (ENG_ROLE.PROG_SLOT n)
    if slots.contains slot && s.get (ENG_STATUS.STATE n) != 4 then s.copySlot n slot (s.getShadow (ENG_ROLE.BANK_SEL n))
    else s

/-- A load succeeds (R411): phase 6, and lock-up is armed. -/
def State.loadGood (s : State) (src attempt : Nat) : State :=
  let s := if src < 2 then s.coldPrograms (s.imageSlots src false) else s
  let s := (s.loadResult 0 src attempt 0 0xFF).setFc fun f => { f with op := none }
  (s.put RST_STATUS.PHASE 6).armFor none

/-- A load fails (R406, R407, R409): retried up to three attempts, else the source has failed and a cold reset moves on. -/
def State.loadBad (s : State) (src attempt code sec : Nat) : State :=
  let retried := code == 2 || code == 3 || code == 9
  let tries := if retried then attempt else 3
  let s := ((s.loadResult 0 src attempt code sec).recordAttempt src tries code).setFc fun f => { f with op := none }
  if tries < 3 then s.formeLoad else s.decideReset srcForme false (src * 64 + code)

/-- FORME_LOAD_DONE (R407, R411): a load attempt ends; a bank marked TRIAL or FAILED is not tried and counts as code 1. -/
def execFormeLoadDone (err : Option (Fin 3 × Fin 255)) (s : State) : Result :=
  .next (match s.fc.op with
    | some (.load src attempt) =>
      let st := s.dir.bankState src
      if src < 2 ∧ (st = 1 ∨ st = 3) then s.loadBad src attempt 1 0xFF
      else
        let (code, sec, s') := (s.readImage src (attempt == 3)).applySource src false (readFault err)
        if code = 0 then s'.loadGood src attempt else s'.loadBad src attempt code sec
    | _ => s)

/-! ### Stage and verification (R418 to R421) -/

/-- Programs of a stage go into the free bank of every in-service engine whose `PROG_SLOT` names their slot, and the shadow
selects that bank (R418 step 4). -/
def State.stagePrograms (s : State) (slots : List Nat) : State :=
  s.each (List.range 12) fun n s =>
    let slot := s.getShadow (ENG_ROLE.PROG_SLOT n)
    if slots.contains slot && s.engInService n then
      (s.copySlot n slot (s.freeBank n)).putShadow (ENG_ROLE.BANK_SEL n) (s.freeBank n)
    else s

/-- A stage ends: whether it succeeded, and the state with `STAGED` or `SHADOW_BAD` (R418, R420). -/
def State.stageEnd (s : State) (src : Nat) (err : Option (Nat × Nat)) : Bool × State :=
  let (code, sec, s) := ((s.openFlash false).readImage src false).applySource src true err
  let s := ((s.loadResult 1 src 1 code sec).put FC_STATUS.STAGE_BUSY 0).setFc fun f => { f with op := none }
  if code = 0 then
    let s := if src < 2 then s.stagePrograms (s.imageSlots src true) else s
    (true, ((s.put FC_STATUS.STAGED 1).put FC_STATUS.SHADOW_BAD 0).raise FC_EVENT.STAGE_DONE)
  else (false, (s.put FC_STATUS.SHADOW_BAD 1).raise FC_EVENT.STAGE_FAIL)

/-- `STAGE` (R418). -/
def State.stageCmd (s : State) (src : Nat) : State :=
  let trial := src < 2 ∧ s.showDir.get (if src = 0 then FC_DIR.DIR_A else FC_DIR.DIR_B) = 1
  let pending := (List.range 12).any fun n => s.on (ENG_STATUS.SW_PEND n)
  if pending ∨ s.on FC_STATUS.STAGE_BUSY ∨ src = 3 ∨ (src < 2 ∧ ¬ trial ∧ s.get FC_STATUS.ACT_SRC ≠ src) then s.refuseCmd
  else s.stageStart src

/-- STAGE_DONE (R418, R420): a stage in service ends. -/
def execStageDone (err : Option (Fin 3 × Fin 255)) (s : State) : Result :=
  .next (match s.fc.op with
    | some (.stage src) => if s.on FC_STATUS.REVERTING then s else (s.stageEnd src (readFault err)).2
    | _ => s)

/-- `VERIFY` (R421). -/
def State.verifyCmd (s : State) (src : Nat) : State :=
  if 2 ≤ src ∨ s.on FC_STATUS.STAGE_BUSY then s.refuseCmd
  else (s.setFc fun f => { f with op := some (.verify src) }).put FC_STATUS.STAGE_BUSY 1

/-- VERIFY_DONE (R421): only the result is kept. -/
def execVerifyDone (err : Option (Fin 3 × Fin 255)) (s : State) : Result :=
  .next (match s.fc.op with
    | some (.verify src) =>
      let s := (s.openFlash false).readImage src false
      let (code, sec, _) := s.applySource src false (readFault err)
      ((s.loadResult 2 src 1 code sec).put FC_STATUS.STAGE_BUSY 0).setFc fun f => { f with op := none }
    | _ => s)

/-! ### Probation (R423, R424) -/

/-- The commit of a trial image: its bank is GOOD, and with `ADV` the OTP counter reaches `ROLLBACK`. -/
def State.commitNow (s : State) : State :=
  let src := s.get FC_STATUS.ACT_SRC
  let s := if src < 2 then s.markBank src 2 else s
  let n := s.get ID_COLO_MISC.ROLLBACK
  let s := if (s.get ID_COLO_MISC.C_FLAGS).testBit 0 && decide (s.get FC_ROLLBACK.OTP_COUNT < n) then
      (s.setFc fun f => { f with otp := f.otp ++ [.step n] }).put FC_ROLLBACK.KEY_BUSY 1
    else s
  ((s.put FC_STATUS.PROB 0).put FC_STATUS.PROB_LEFT 0).raise FC_EVENT.COMMITTED

/-- A probation runs and no revert is under way. -/
def State.onProbation (s : State) : Bool := s.on FC_STATUS.PROB && !s.on FC_STATUS.REVERTING

/-- The bank left is marked bad, and the staged one is armed (R423). -/
def State.revertReady (s : State) (act : Nat) : State := (if act < 2 then s.markBank act 3 else s).armFor none

/-- REVERT_STAGE_DONE (R423): the trial bank is marked FAILED and lock-up armed; when the stage failed, the trial Forme
stays. -/
def execRevertStageDone (err : Option (Fin 3 × Fin 255)) (s : State) : Result :=
  .next (match s.fc.op with
    | some (.stage src) =>
      if !s.on FC_STATUS.REVERTING then s
      else
        let r := s.stageEnd src (readFault err)
        if r.1 then r.2.revertReady (s.get FC_STATUS.ACT_SRC)
        else (((r.2.put FC_STATUS.PROB 0).put FC_STATUS.PROB_LEFT 0).put FC_STATUS.REVERTING 0).raise FC_EVENT.REVERT_FAIL
    | _ => s)

/-- PROBATION_END (R423, R424): the last Milestone of a probation has passed. -/
def execProbationEnd (s : State) : Result :=
  .next (if s.onProbation ∧ s.get FC_STATUS.PROB_LEFT = 0 then
    (if s.on FC_PROB.PROB_AUTO then s.commitNow else s.startRevert)
  else s)

/-! ### Flash commands (R422) -/

/-- An address lies in the bank that supplied the active Forme. -/
def State.inActiveBank (s : State) (a : Nat) : Bool :=
  let src := s.get FC_STATUS.ACT_SRC
  decide (src < 2) && decide (bankPlace src ≤ a ∧ a < bankPlace src + 0x2000000)

/-- `k` bytes of `FC_BUF`. -/
def State.bufBytes (s : State) (k : Nat) : List Byte :=
  ((List.range 64).flatMap fun j => leBytes 4 (s.get (FC_BUF.BUF j))).take k

/-- The command of a word of `FC_FL_CMD` goes out in 1-1-1 at the lower of `FL_MHZ` and 50 MHz (R422), to a flash that has been opened
(R392). -/
def State.sendFlash (s : State) (w : Word) : State :=
  let wr := wordField w 30 30 == 1
  let len := min 256 (wordField w 28 20)
  let addr := if wordField w 29 29 = 1 then beBytes 4 (s.get FC_FL_ADDR.FL_ADDR) else []
  (s.openFlash false).emit (.flash 0 (min 50 s.dir.mhz) 0 (BitVec.ofNat 8 (wordField w 7 0) :: addr ++ if wr then s.bufBytes len else [])
    (if wr then 0 else len))

/-- `GO` of `FC_FL_CMD`: refused during the hub's own access, and for a write or a command without data in the active
bank. -/
def State.flashCmd (s : State) (w : Word) : State :=
  let s := ((s.put FC_FL_CMD.WR (wordField w 30 30)).put FC_FL_CMD.ADDR_EN (wordField w 29 29)).put FC_FL_CMD.LEN
    (wordField w 28 20)
  let s := s.put FC_FL_CMD.OP (wordField w 7 0)
  let busy := s.fc.op.isSome || s.on FC_FL_STAT.FL_BUSY
  let writes := wordField w 30 30 == 1 || wordField w 28 20 == 0
  if busy || (writes && s.inActiveBank (s.get FC_FL_ADDR.FL_ADDR)) then s.put FC_FL_STAT.FL_REFUSED 1
  else (((s.sendFlash w).setFc fun f => { f with flCmd := some (w, s.reg FC_FL_ADDR) }).put FC_FL_STAT.FL_BUSY 1).put FC_FL_STAT.FL_REFUSED 0

/-- Bytes put at the start of `FC_BUF`. -/
def State.bufPut (s : State) (bs : List Byte) : State :=
  s.each (bs.zipIdx) fun (b, i) s => s.put ⟨FC_BUF (i / 4), i % 4 * 8 + 7, i % 4 * 8⟩ b.toNat

/-- The flash after what it did with a command. -/
def State.flashEffect (s : State) (a : Nat) (bs : List Byte) : FlashEffect → State
  | .none => s
  | .program =>
    let old := s.flashBytes a bs.length
    { s with flash := flashWrite s.flash a ((old.zip bs).map fun (x, y) => x &&& y) }
  | .erase k =>
    let base := a / 2 ^ k.val * 2 ^ k.val
    { s with flash := s.flash.filter fun e => !decide (base ≤ e.1 ∧ e.1 < base + 2 ^ k.val) }

/-- FLASH_COMMAND_DONE (R422): the data read goes to `FC_BUF`; what the flash did with the command is the operand `eff`. -/
def execFlashCommandDone (data : List Byte) (eff : FlashEffect) (s : State) : Result :=
  .next (match s.fc.flCmd with
    | none => s
    | some (w, a) =>
      let len := min 256 (wordField w 28 20)
      let t := if wordField w 30 30 = 1 then s.flashEffect a.toNat (s.bufBytes len) eff
        else (s.flashEffect a.toNat [] eff).bufPut (padTo len data)
      ((t.setFc fun f => { f with flCmd := none }).put FC_FL_STAT.FL_BUSY 0).raise FC_EVENT.FL_DONE)

/-! ### Key slots (R425) -/

/-- `PROG`: refused on a programmed slot, and while a write is in progress. -/
def State.keyProg (s : State) (slot : Nat) : State :=
  if (s.get FC_ROLLBACK.KEY_PROG).testBit slot || s.on FC_ROLLBACK.KEY_BUSY then s.refuseCmd
  else (s.setFc fun f => { f with otp := [.prog slot (s.bufBytes 32)] }).put FC_ROLLBACK.KEY_BUSY 1

/-- `REVOKE`: refused of the last programmed slot that is not revoked, and while a write is in progress. -/
def State.keyRevoke (s : State) (slot : Nat) : State :=
  let live := (List.range 4).filter fun k =>
    (s.get FC_ROLLBACK.KEY_PROG).testBit k && !(s.get FC_ROLLBACK.KEY_REVOKED).testBit k
  if live = [slot] ∨ s.on FC_ROLLBACK.KEY_BUSY then s.refuseCmd
  else (s.setFc fun f => { f with otp := [.revoke slot] }).put FC_ROLLBACK.KEY_BUSY 1

/-- The OTP write at the head of the queue is over. -/
def State.otpNext (s : State) : State :=
  let s := s.setFc fun f => { f with otp := f.otp.drop 1 }
  if s.fc.otp = [] then s.put FC_ROLLBACK.KEY_BUSY 0 else s

/-- OTP_WRITE_DONE (R424, R425): the slot takes its hash or its revoked bit, or the counter one step more. -/
def execOtpWriteDone (s : State) : Result :=
  .next (match s.fc.otp with
    | [] => s
    | .prog k h :: _ =>
      (s.put FC_ROLLBACK.KEY_PROG (s.get FC_ROLLBACK.KEY_PROG ||| 2 ^ k)).otpNext.setFc fun f =>
        { f with keyHash := tput [] k h f.keyHash }
    | .revoke k :: _ => (s.put FC_ROLLBACK.KEY_REVOKED (s.get FC_ROLLBACK.KEY_REVOKED ||| 2 ^ k)).otpNext
    | .step n :: _ =>
      let s := s.put FC_ROLLBACK.OTP_COUNT (s.get FC_ROLLBACK.OTP_COUNT + 1)
      if s.get FC_ROLLBACK.OTP_COUNT < n then s else s.otpNext)

/-! ### Commands of the custodian -/

/-- ARM (R415). -/
def execArm (path : Path) (atEn : Bool) (s : State) : Result := .next (s.custodyCmd path FC_CMD (.arm path atEn) fun s => s.armCmd atEn)

/-- Withdraw an arm (R415). -/
def State.disarm (s : State) : State := (s.setFc fun f => { f with arm := none }).put FC_STATUS.ARMED 0

/-- DISARM (R415). -/
def execDisarm (path : Path) (s : State) : Result := .next (s.custodyCmd path FC_CMD (.disarm path) State.disarm)

/-- STAGE (R418). -/
def execStage (path : Path) (src : Fin 4) (s : State) : Result := .next (s.custodyCmd path FC_CMD (.stage path src) fun s => s.stageCmd src.val)

/-- VERIFY (R421). -/
def execVerify (path : Path) (src : Fin 4) (s : State) : Result := .next (s.custodyCmd path FC_CMD (.verify path src) fun s => s.verifyCmd src.val)

/-- The active Forme copied into the shadow (R420). -/
def State.shadowReset (s : State) : State := (s.copyActive.put FC_STATUS.SHADOW_BAD 0).put FC_STATUS.STAGED 0

/-- SHADOW_RESET (R420). -/
def execShadowReset (path : Path) (s : State) : Result := .next (s.custodyCmd path FC_CMD (.shadowReset path) State.shadowReset)

/-- `COMMIT` (R424): refused outside probation and during a revert. -/
def State.commitCmd (s : State) : State := if s.onProbation then s.commitNow else s.refuseCmd

/-- COMMIT (R424). -/
def execCommit (path : Path) (s : State) : Result := .next (s.custodyCmd path FC_CMD (.commit path) State.commitCmd)

/-- `REVERT` (R423): refused outside probation and during a revert. -/
def State.revertCmd (s : State) : State := if s.onProbation then s.startRevert else s.refuseCmd

/-- REVERT (R423). -/
def execRevert (path : Path) (s : State) : Result := .next (s.custodyCmd path FC_CMD (.revert path) State.revertCmd)

/-- `MARK` (R422): refused for the bank that supplied the active Forme; state 0 acts as 1. -/
def State.markCmd (s : State) (bank st : Nat) : State :=
  if 2 ≤ bank ∨ s.get FC_STATUS.ACT_SRC = bank then s.refuseCmd else s.markBank bank (if st = 0 then 1 else st)

/-- MARK (R422). -/
def execMark (path : Path) (bank st : Fin 4) (s : State) : Result :=
  .next (s.custodyCmd path FC_CMD (.mark path bank st) fun s => s.markCmd bank.val st.val)

/-- CLR_ATTEMPTS (R409). -/
def execClrAttempts (path : Path) (s : State) : Result := .next (s.custodyCmd path FC_CMD (.clrAttempts path) fun s => s.setReg FC_ATTEMPT 0)

/-- FLASH_COMMAND (R422): a write of `FC_FL_CMD` with `GO`. -/
def execFlashCommand (path : Path) (w : Word) (s : State) : Result :=
  .next (s.custodyCmd path FC_FL_CMD (.flashCommand path w) fun s => s.flashCmd w)

/-- PROG (R425). -/
def execProg (path : Path) (slot : Fin 4) (s : State) : Result :=
  .next (s.custodyCmd path FC_KEY_CMD (.prog path slot) fun s => s.keyProg slot.val)

/-- REVOKE (R425). -/
def execRevoke (path : Path) (slot : Fin 4) (s : State) : Result :=
  .next (s.custodyCmd path FC_KEY_CMD (.revoke path slot) fun s => s.keyRevoke slot.val)

end Sys2Proof.Machine
end

