-- ==== Sys2Proof/Machine/Power.lean ====
section
/-! DEFINITION. The Keep die's power (chapters 01 and 13): supply, Keep sleep and wake, rails, VCORE over PMBus and the Pace
gates that call for it, and the ten power path controllers. -/

namespace Sys2Proof.Machine

def State.setPw (s : State) (g : Power → Power) : State := { s with pw := g s.pw }
def State.path (s : State) (n : Nat) : PowerPath := tget {} n s.pw.ppc
def State.setPath (s : State) (n : Nat) (g : PowerPath → PowerPath) : State :=
  s.setPw fun p => { p with ppc := tput {} n (g (s.path n)) p.ppc }

/-! ### Hold and refusals (R22, R23, R440, R537, R538) -/

/-- Set a bit of a Keep-die event register; in hold the Spine die keeps the last values of the Keep-die sources, so the bit waits for the
end of the hold (R537). -/
def State.raiseKeep (s : State) (f : Fld) : State :=
  if !s.keepHold then s.raise f
  else if s.on f || s.pw.lateGain.contains f then s
  else s.setPw fun p => { p with lateGain := p.lateGain ++ [f] }

/-- A log entry of the Keep die; in hold it is kept back with the Keep die's time, up to 16 entries (R538, R547). -/
def State.logKeep (s : State) (source kind detail word3 : Nat) : State :=
  if !s.keepHold then s.log source kind detail word3
  else if s.svc.keepLog.length < 16 then
    let n := s.keepClock.getD 0
    let w2 := source * 2 ^ 27 + kind * 2 ^ 20 + 2 ^ 16 + detail % 2 ^ 16
    let e := [rtcNs n, n / 32768, w2, word3].map (BitVec.ofNat 32)
    s.setSvc fun x => { x with keepLog := x.keepLog ++ [e] }
  else s.inc KL_STATUS.KL_LOG_LOST

/-- From the decision of a warm reset until the engines start, the Keep die refuses every request of the Spine die that would
change a power path, a rail or VCORE (R440). -/
def State.warmRefuses (s : State) : Bool := s.rs.warm || s.get RST_STATUS.PHASE == 9

/-! ### Power path controllers (R461 to R474) -/

def ppSt (n : Nat) : Fld := PP_STATUS.STATE n
def State.ppState (s : State) (n : Nat) : Nat := s.get (PP_STATUS.STATE n)

/-- The role in which a path is wanted: feeds as sink while `PEN` is 1, cable paths as their contract says, tool outputs as
source while `ON_REQ` is 1 (R461). -/
def State.ppWant (s : State) (n : Nat) : Nat :=
  if n < 2 then s.get (PP_CFG.PEN n)
  else if n < 8 then (s.path n).want
  else if s.on (PP_CMD.ON_REQ n) then 2 else 0

/-- A path may leave OFF (R462). -/
def State.ppAllowed (s : State) (n : Nat) : Bool :=
  s.on (PP_CFG.PEN n) && s.hasPath n && (!s.on (PP_CFG.EN_USE n) || s.on (PP_STATUS.EN_LEVEL n))

/-- A feed's gate is driven, or it waits for its turn. -/
def State.feedLive (s : State) (f : Nat) : Bool := decide (2 ≤ s.ppState f ∧ s.ppState f ≤ 4)

/-- The feed that R464 and R465 select. -/
def State.feedChoice (s : State) : Nat :=
  let cur := s.get PP_FEED.ACTIVE
  let prio := s.get PP_FEED.PRIO
  if s.feedLive 0 && s.feedLive 1 then
    let stays := decide (cur < 2) && decide (3 ≤ s.ppState cur ∧ s.ppState cur ≤ 4) && (!s.on PP_FEED.AUTO_RET || s.keepHold)
    if stays then cur else prio
  else if s.feedLive 0 then 0 else if s.feedLive 1 then 1 else 3

/-- The discharge of a cable path's port side is switched (R495). -/
def State.drain (s : State) (n : Nat) (on : Bool) : State := (s.setPath n fun p => { p with dsch := on }).emit (.discharge n on)

/-- A path in READY closes when it is selected or wanted and its output is at or below `SAFE_MV`; else it waits, counted once
per request (R462), and the port side of a cable path wanted as source is discharged (R495). In hold only a feed closes (R466). -/
def State.ppClose (s : State) (n : Nat) (safe : Bool) : State :=
  let turn := if n < 2 then s.get PP_FEED.ACTIVE == n && !s.pw.feedGap else s.ppWant n != 0 && !s.keepHold
  if s.ppState n ≠ 2 ∨ !turn then s
  else if s.get (PP_CFG.SAFE_MV n) = 0 ∨ safe then s.put (ppSt n) 3
  else if (s.path n).waited then s
  else
    let s := (s.setPath n fun p => { p with waited := true }).inc (PP_COUNT.SAFE_WAIT n)
    s.when (decide (2 ≤ n ∧ n < 8) && s.ppWant n == 2 && !(s.path n).dsch) fun s => s.drain n true

/-- Feed selection (R464, R465): a deselected feed goes to READY, a change is counted and raised, and the other feed closes
after the opened gate has fallen. -/
def State.selectFeed (s : State) : State :=
  let cur := s.get PP_FEED.ACTIVE
  let new := s.feedChoice
  if new = cur then s
  else
    let s := if cur < 2 ∧ 3 ≤ s.ppState cur ∧ s.ppState cur ≤ 4 then (s.put (ppSt cur) 2).put (PP_STATUS.REGULATING cur) 0 else s
    let s := ((s.put PP_FEED.ACTIVE new).inc PP_FEED.SWITCHES).raiseKeep PP_EVENT.FEED_SW
    let s := s.setPw fun p => { p with feedGap := decide (cur < 2 ∧ new < 2) }
    if new < 2 then s.ppClose new false else s

/-- After a feed's state changed. -/
def State.afterFeed (s : State) (n : Nat) : State := if n < 2 then s.selectFeed else s

/-- A path goes to OFF. -/
def State.ppOff (s : State) (n : Nat) : State :=
  let s := (((s.put (ppSt n) 0).put (PP_STATUS.ROLE n) 0).put (PP_STATUS.REGULATING n) 0).setPath n fun p => { p with waited := false }
  s.afterFeed n

/-- The request of a cable path is withdrawn by a detach, a Hard Reset or a discharge that fails; these act in hold too, where
`State.ppEval` is frozen (R496; notes/assumptions/39.md). -/
def State.ppWithdraw (s : State) (n : Nat) : State :=
  if 1 ≤ s.ppState n ∧ s.ppState n < 5 then s.ppOff n else s

/-- A path is judged after a change of its request, enable or role (R461 to R463): withdrawn it goes to OFF; wanted and allowed
it leaves OFF for QUAL. In hold it is frozen (R23). -/
def State.ppEval (s : State) (n : Nat) : State :=
  let st := s.ppState n
  let want := if s.ppAllowed n then s.ppWant n else 0
  if s.keepHold ∨ 5 ≤ st then s
  else
    let s := if st ≠ 0 ∧ s.get (PP_STATUS.ROLE n) ≠ want then s.ppOff n else s
    if s.ppState n = 0 ∧ want ≠ 0 then (s.put (ppSt n) 1).put (PP_STATUS.ROLE n) want else s

/-- A cable port's registers: state, power role, contract voltage and current, whose units differ between spine ports (50 mV,
10 mA) and dock ports (20 mV, 50 mA). -/
def cSt (c : Nat) : Fld := if c < 4 then SW_STATE.CSTATE c else DK_STATE.CSTATE (c - 4)
def cRole (c : Nat) : Fld := if c < 4 then SW_STATE.PROLE c else DK_STATE.PROLE (c - 4)
def State.cState (s : State) (c : Nat) : Nat := s.get (cSt c)
def State.cv (s : State) (c : Nat) : Nat := if c < 4 then s.get (SW_STATE.C_V c) * 50 else s.get (DK_STATE.C_V (c - 4)) * 20
def State.ci (s : State) (c : Nat) : Nat := if c < 4 then s.get (SW_STATE.C_I c) * 10 else s.get (DK_STATE.C_I (c - 4)) * 50
def State.setContract (s : State) (c mv ma : Nat) : State :=
  if c < 4 then (s.put (SW_STATE.C_V c) (mv / 50)).put (SW_STATE.C_I c) (ma / 10)
  else (s.put (DK_STATE.C_V (c - 4)) (mv / 20)).put (DK_STATE.C_I (c - 4)) (ma / 50)
def State.port6 (s : State) (c : Nat) : CablePort := tget {} c s.pw.cable
def State.setPort6 (s : State) (c : Nat) (g : CablePort → CablePort) : State :=
  s.setPw fun p => { p with cable := tput {} c (g (s.port6 c)) p.cable }

/-- An event of a cable port: raised, and the port named in `LAST_PORT`. -/
def State.cpEvent (s : State) (c : Nat) (f : Fld) : State := (s.put CP_EVENT.LAST_PORT c).raiseKeep f

/-- The contract of a cable port is discarded and what its cable declared forgotten (R478), its request withdrawn, and the port is in state `st` with no role. -/
def State.cableDrop (s : State) (c st : Nat) : State :=
  let s := (((s.put (cSt c) st).put (cRole c) 0).setContract c 0 0).setPort6 c fun x =>
    { ({} : CablePort) with dualUp := x.dualUp }
  let s := if c < 4 then s.put (SW_STATE.EXT c) 0
    else (((s.put (DK_STATE.KIND (c - 4)) 0).put (DK_STATE.VCONN_ON (c - 4)) 0).put (DK_STATE.ALT_ON (c - 4)) 0).put
      (DK_STATE.DROLE (c - 4)) 0
  let s := s.when (4 ≤ c) fun s => (s.put (DK_CABLE.CBL_I (c - 4)) 0).put (DK_CABLE.CBL_EPR (c - 4)) 0
  s.setPath (2 + c) fun p => { p with want := 0, limit := 0, window := (0, 0) }

/-- The path of an attached cable port is tripped or damaged: the port goes to ERROR; a source path damaged with cause 5
refuses the source role (R492, R496). -/
def State.pathLost (s : State) (n : Nat) : State :=
  if n < 2 ∨ 8 ≤ n then s
  else
    let c := n - 2
    let s := if s.ppState n = 6 ∧ s.get (PP_STATUS.CAUSE n) = 5 then s.cpEvent c CP_EVENT.SRC_REFUSED else s
    if 2 ≤ s.cState c ∧ s.cState c ≠ 9 then s.cableDrop c 9 else s

/-- A path trips (R469): latched, the cause recorded, counted and raised, and t_COOL starts. -/
def State.ppTrip (s : State) (n cause : Nat) : State :=
  let s := ((s.put (ppSt n) 5).put (PP_STATUS.CAUSE n) cause).put (PP_STATUS.REGULATING n) 0
  let s := ((s.put (PP_STATUS.REARM_PEND n) 0).inc (PP_COUNT.TRIPS n)).raiseKeep ⟨PP_EVENT, n, n⟩
  ((s.setPath n fun p => { p with coolAt := some s.tm.tick, waited := false }).afterFeed n).pathLost n

/-- A path's pass device is damaged (R462, R471, R472). -/
def State.ppDamage (s : State) (n cause : Nat) : State :=
  let s := ((s.put (ppSt n) 6).put (PP_STATUS.CAUSE n) cause).put (PP_STATUS.REGULATING n) 0
  ((s.raiseKeep ⟨PP_EVENT, 10 + n, 10 + n⟩).afterFeed n).pathLost n

/-- A tripped path whose cool-down is over takes a remembered toggle, outside a hold (R469, R474). -/
def State.ppRelease (s : State) (n : Nat) : State :=
  if s.ppState n = 5 ∧ s.on (PP_STATUS.REARM_PEND n) ∧ (s.path n).coolAt = none ∧ !s.keepHold then
    ((s.put (PP_STATUS.REARM_PEND n) 0).ppOff n).ppEval n
  else s

/-- A toggle (R469): remembered, and acted on at once when the cool-down is over. -/
def State.ppToggle (s : State) (n : Nat) : State :=
  if s.ppState n = 5 then (s.put (PP_STATUS.REARM_PEND n) 1).ppRelease n else s

/-- A path in READY or ON whose input has left its window goes back to QUAL (R462). -/
def State.windowLost (s : State) (n : Nat) : State :=
  if !(s.path n).inWin ∧ (s.ppState n = 2 ∨ s.ppState n = 4) then
    (((s.put (ppSt n) 1).inc (PP_COUNT.WIN_LOSS n)).setPath n fun p => { p with waited := false }).afterFeed n
  else s

/-- A hold freezes the state of a path other than a feed, whose failover R466 keeps alive (R23). -/
def State.frozen (s : State) (n : Nat) : Bool := s.keepHold && decide (2 ≤ n)

/-- PPC_WINDOW_CHANGE (R462): the input enters or leaves its window. -/
def execPpcWindowChange (n : Path10) (inside : Bool) (s : State) : Result :=
  let s := s.setPath n.val fun p => { p with inWin := inside }
  .next (if s.frozen n.val then s else s.windowLost n.val)

/-- PPC_QUALIFIED (R462): t_INS in window without a break; `safe`: the output is at or below `SAFE_MV`. -/
def execPpcQualified (n : Path10) (safe : Bool) (s : State) : Result :=
  .next (if s.ppState n.val = 1 ∧ (s.path n.val).inWin ∧ !s.keepHold then
    ((s.put (ppSt n.val) 2).afterFeed n.val).ppClose n.val safe
  else s)

/-- A path leaves RAMP for ON (R462). -/
def State.rampOver (s : State) (n : Nat) : State :=
  if s.ppState n = 3 then ((s.put (ppSt n) 4).put (PP_STATUS.REGULATING n) 0).afterFeed n else s

/-- PPC_RAMP_DONE (R462). -/
def execPpcRampDone (n : Path10) (s : State) : Result :=
  .next (if s.frozen n.val then s.setPath n.val fun p => { p with ramped := s.ppState n.val == 3 } else s.rampOver n.val)

/-- What a hold froze of a path takes effect at its end: the end of a ramp, the loss of its window (R23). -/
def State.thaw (s : State) (n : Nat) : State :=
  let s := s.when (s.path n).ramped fun s => s.rampOver n
  (s.setPath n fun p => { p with ramped := false }).windowLost n

/-- PPC_RAMP_FAULT (R462): regulating for t_RAMPFLT. -/
def execPpcRampFault (n : Path10) (s : State) : Result := .next (if s.ppState n.val = 3 then s.ppTrip n.val 3 else s)

/-- PPC_FAST_TRIP (R462, R467): in RAMP and ON alike. -/
def execPpcFastTrip (n : Path10) (s : State) : Result :=
  .next (if s.ppState n.val = 3 ∨ s.ppState n.val = 4 then s.ppTrip n.val 1 else s)

/-- PPC_TIMED_TRIP (R468). -/
def execPpcTimedTrip (n : Path10) (s : State) : Result := .next (if s.ppState n.val = 4 then s.ppTrip n.val 2 else s)

/-- PPC_GATE_FAULT (R471). -/
def execPpcGateFault (n : Path10) (s : State) : Result := .next (if s.ppState n.val = 4 then s.ppDamage n.val 4 else s)

/-- PPC_SHORT (R472): in OFF, QUAL, READY and TRIPPED. -/
def execPpcShort (n : Path10) (s : State) : Result :=
  .next (if !s.hasPath n.val then s else if s.ppState n.val ≤ 2 ∨ s.ppState n.val = 5 then s.ppDamage n.val 5 else s)

/-- PPC_COOL_END (R469): the cool-down is over. -/
def execPpcCoolEnd (n : Path10) (s : State) : Result :=
  .next ((s.setPath n.val fun p => { p with coolAt := none }).ppRelease n.val)

/-- A write `c` of a Keep-die register: ignored where the class excludes its block (R5), not reached in hold (R24). -/
def State.keepCmd (s : State) (p : Path) (a : Nat) (c : Instr) (g : State → State) : State :=
  s.ordered p (s.fc.copying && hasFh a && !s.keepOut) c fun s =>
    if s.blockExcluded a then s.emit (.access p a 0 0) else if s.keepOut then s.emit (.access p a 4 0) else g s

/-- `REARM` (R469): a toggle, never refused (R473); with `DMG_CLR` a damaged path leaves DAMAGED (R462). -/
def State.ppRearm (s : State) (n : Nat) (dmgClr : Bool) : State :=
  if s.ppState n = 6 then if dmgClr then (s.ppOff n).ppEval n else s else s.ppToggle n

/-- REARM (R469). -/
def execRearm (path : Path) (n : Path10) (dmgClr : Bool) (s : State) : Result :=
  .next (s.keepCmd path (PP_CMD n.val) (.rearm path n dmgClr) fun s => (s.ppRearm n.val dmgClr).emit (.access path (PP_CMD n.val) 0 0))

/-- PPC_EN_EDGE (R462, R469): a fall withdraws a path with `EN_USE`; a rise after 100 µs low (`long`) is a toggle, remembered
during a hold (R474). -/
def execPpcEnEdge (n : Path10) (rise long : Bool) (s : State) : Result :=
  let s := s.when (s.hasPath n.val) fun s => s.put (PP_STATUS.EN_LEVEL n.val) rise.toNat
  .next (if !s.hasPath n.val || !s.on (PP_CFG.EN_USE n.val) then s
  else if rise && long then
    (if s.keepHold then s.setPath n.val fun p => { p with toggled := true } else (s.ppToggle n.val).ppEval n.val)
  else s.ppEval n.val)

/-- The Keep die refuses a request (R22): logged under kind 1. -/
def State.keepRefuse (s : State) (p : Path) (a source : Nat) : State := s.logKeep source 1 (refusalDetail p) a

/-- `ON_REQ` of PPC_8 and PPC_9 and its access status (R461, R473, R440); ignored elsewhere. -/
def State.onReq (s : State) (p : Path) (n : Nat) (on : Bool) : Nat × State :=
  if n < 8 then (0, s)
  else if s.warmRefuses then (3, s.keepRefuse p (PP_CMD n) 21)
  else if on ∧ 5 ≤ s.ppState n then (3, (s.raiseKeep PP_EVENT.REFUSED).keepRefuse p (PP_CMD n) 21)
  else (0, (s.put (PP_CMD.ON_REQ n) on.toNat).ppEval n)

/-- ON_REQ (R473). -/
def execOnReq (path : Path) (n : Path10) (on : Bool) (s : State) : Result :=
  .next (s.keepCmd path (PP_CMD n.val) (.onReq path n on) fun s =>
    let (st, s) := s.onReq path n.val on
    s.emit (.access path (PP_CMD n.val) st 0))

/-- FEED_SWITCH (R464): the opened gate has fallen; the selected feed closes at full drive when its input lies within 2 V of the
bus (`near`), else through RAMP. -/
def execFeedSwitch (near : Bool) (s : State) : Result :=
  let f := s.get PP_FEED.ACTIVE
  .next (if s.pw.feedGap then
    let s := s.setPw fun p => { p with feedGap := false }
    if f < 2 ∧ s.ppState f = 2 then (if near then s.put (ppSt f) 4 else s.put (ppSt f) 3) else s
  else s)

/-! ### VCORE (R12, R31 to R39, R459, R460) -/

/-- A VOUT_COMMAND write is under way. -/
def State.vcWriting (s : State) : Bool :=
  match s.pw.vcOp with
  | some (.write _) => true
  | _ => false

/-- The next 5 mV step of a change goes out, unless one is under way; a further step ends the wait for READ_VOUT (R459). -/
def State.vcStep (s : State) : State :=
  let now := s.get PACE_VCORE.VCORE_MV
  let t := s.pw.vcTarget
  if s.vcWriting ∨ now = t then s
  else s.setPw fun p => { p with vcOp := some (.write (if now < t then now + 5 else now - 5)), vcReps := 0 }

/-- A change to a target is ordered; a setpoint lies from 0.60 to 0.85 V in steps of 5 mV (R459). -/
def State.vcGo (s : State) (mv : Nat) : State :=
  let t := max 600 (min 850 mv)
  let now := s.get PACE_VCORE.VCORE_MV
  (s.setPw fun p => { p with
    vcTarget := t, vcRaise := p.vcRaise || decide (now < t), vcFrom := if p.vcRaise then p.vcFrom else now }).vcStep

/-- A raise is under way whose target is not below a setpoint. -/
def State.vcRising (s : State) (t : Nat) : Bool := s.pw.vcOp.isSome && s.pw.vcRaise && decide (t ≤ s.pw.vcTarget)

/-- A raise to a setpoint, in whole steps above the present one; a lower target than that of a raise under way is dropped
(R36). -/
def State.vcRaiseTo (s : State) (mv : Nat) : State :=
  let now := s.get PACE_VCORE.VCORE_MV
  let t := now + (mv - now + 4) / 5 * 5
  if mv ≤ now ∨ s.vcRising t then s else s.vcGo t

/-- The steps still to come of a change are withdrawn: the setpoint stays as last applied, and READ_VOUT ends a raise of which a
step has been applied (R39, R459; notes/assumptions/38.md). -/
def State.vcWithdraw (s : State) : State :=
  let now := s.get PACE_VCORE.VCORE_MV
  let read := decide (s.pw.vcOp = some .read) || (s.vcWriting && s.pw.vcRaise && s.pw.vcFrom != now)
  s.setPw fun p => { p with
    vcTarget := now, vcOp := if read then some .read else none, vcRaise := p.vcRaise && read, vcReps := 0 }

/-- VCORE is kept at a floor or above (R12, R33): a lowering below it that is under way is withdrawn, and a setpoint below it is
raised. -/
def State.vcKeep (s : State) (floor : Nat) : State :=
  (s.when (s.vcWriting && !s.pw.vcRaise && decide (s.pw.vcTarget < floor)) State.vcWithdraw).vcRaiseTo floor

/-- A request of an engine for VCORE completes with an access status (R22, R37). -/
def State.vcAnswer (s : State) (n : EngNo) (status : Nat) : State := s.emit (.access (.engine n) PACE_VCORE status 0)

/-- A request for VCORE that the Keep die refuses: status 3, and a log entry (R22). -/
def State.vcRefuse (s : State) (n : EngNo) : State := (s.keepRefuse (.engine n) PACE_VCORE 22).vcAnswer n 3

/-- VCORE_RAISE_REQUEST (R36, R39, R440): an Imposition engine names a target. -/
def execVcoreRaiseRequest (n : EngNo) (mv : Fin 1024) (s : State) : Result :=
  .next (if s.keepHold then s.vcAnswer n 4
  else if s.warmRefuses then s.vcRefuse n
  else ((s.vcRaiseTo mv.val).setImp fun i => { i with raiseReq := false }).vcAnswer n 0)

/-- The lowest setpoint that the floors of R459, R12 and R33 allow. -/
def State.vcFloor (s : State) : Nat :=
  max 600 (max (if s.pw.hot then 760 else 0) (if s.on PACE_PLAN.FLOOR then 750 else 0))

/-- On every output the committed rate is 90 % of the Pace capacity of R35 or less (R37). -/
def State.roomToLower (s : State) : Bool :=
  (List.range 13).all fun o => decide (10 * s.commitment o ≤ 9 * s.linkCap o (s.get PACE_PLAN.PLAN_PS))

/-- VCORE_LOWER_REQUEST (R37): one step, at most one in a Milestone; refused below a floor (R22). The engines make no such request
without room on every output. -/
def execVcoreLowerRequest (n : EngNo) (s : State) : Result :=
  let now := s.get PACE_VCORE.VCORE_MV
  .next (if s.keepHold then s.vcAnswer n 4
  else if s.warmRefuses then s.vcRefuse n
  else if !s.roomToLower then s
  else if s.pw.vcLowered then s.vcAnswer n 0
  else if now - 5 < s.vcFloor then s.vcRefuse n
  else if s.pw.vcOp.isSome then s.vcAnswer n 0
  else ((s.setPw fun p => { p with vcLowered := true }).vcGo (now - 5)).vcAnswer n 0)

/-- THERMAL_FLOOR_RAISE (R12): a reading of the hottest junction sensor in °C; above 105 on an FBX part it raises VCORE to
0.76 V, also in hold; while it stays above 103 the floor holds. -/
def execThermalFloorRaise (tj : Fin 256) (s : State) : Result :=
  let fbx := s.get ID_DEVICE.GRADE == 1
  let s := s.setPw fun p => { p with hot := fbx && decide (103 < tj.val) && (p.hot || decide (105 < tj.val)) }
  .next (if s.pw.hot then s.vcKeep 760 else s)

/-- A change of setpoint is complete (R32, R459): READ_VOUT has been read; a raise is counted, and the boundaries after it. -/
def State.vcDone (s : State) (mv : Nat) : State :=
  let set := s.get PACE_VCORE.VCORE_MV
  let s := s.put KP_VCORE.VOUT_MV mv
  let s := if 15 < (mv - set) + (set - mv) then s.raiseKeep KP_EVENT.VC_MISMATCH else s
  let s := if s.pw.vcRaise then s.setPace fun p =>
      { p with raises := p.raises + 1, waits := (p.raises + 1, 0) :: p.waits }
    else s
  s.setPw fun p => { p with vcOp := none, vcRaise := false, vcReps := 0 }

/-- A transaction fails: repeated up to 3 times, then `PMB_FAIL`, and the last applied setpoint stays (R460). -/
def State.vcFail (s : State) : State :=
  if s.pw.vcReps < 3 then s.setPw fun p => { p with vcReps := p.vcReps + 1 }
  else (s.setPw fun p => { p with vcOp := none, vcTarget := s.get PACE_VCORE.VCORE_MV, vcRaise := false, vcReps := 0 }).raiseKeep
    KP_EVENT.PMB_FAIL

/-- PMBUS_TRANSACTION_DONE (R459, R460): `ok` with acknowledge and good PEC; `mv` what READ_VOUT read. -/
def execPmbusTransactionDone (ok : Bool) (mv : Fin 1024) (s : State) : Result :=
  .next (match s.pw.vcOp with
    | none => s
    | some op =>
      if !ok then s.vcFail
      else match op with
        | .write v =>
          let s := s.put PACE_VCORE.VCORE_MV v
          if v = s.pw.vcTarget then s.setPw fun p => { p with vcOp := some .read, vcReps := 0 }
          else (s.setPw fun p => { p with vcOp := none }).vcStep
        | .read => s.vcDone mv.val)

/-- PMB_ALERT (R460): STATUS_WORD is read; `none` when the read fails its repeats. -/
def execPmbAlert (status : Option (BitVec 16)) (s : State) : Result :=
  .next (match status with
    | some w => (s.put KP_VCORE.VC_STATUS w.toNat).raiseKeep KP_EVENT.VC_ALERT
    | none => (s.raiseKeep KP_EVENT.PMB_FAIL).raiseKeep KP_EVENT.VC_ALERT)

/-- A reading exceeds the cycle that the committed rate of some output requires (R38): 512 bits over 1.6 times the rate. -/
def State.paceShort (s : State) (ps : Nat) : Bool :=
  (List.range 13).any fun o => decide (2500 * 4096 * s.slotFactor o < ps * s.commitment o)

/-- A reading enters the present Milestone, under the raises completed when its gate began (R32). -/
def Pace.note (p : Pace) (ps : Nat) : Pace :=
  { p with
    thisMs := tput 0 p.gateAt (max ps (tget 0 p.gateAt p.thisMs)) p.thisMs
    gateAt := p.raises }

/-- A Pace reading (R31). -/
def State.paceNote (s : State) (ps sensor : Nat) : State :=
  ((s.put PACE_NOW.CYCLE_PS ps).put PACE_NOW.SENSOR sensor).setPace fun p => p.note ps

/-- The cycle in ps of each of the eight sensors, from its count of handshakes and the factor of the chip trim (R31). -/
def State.paceCycles (s : State) (counts : BitVec 128) : List Nat :=
  (List.range 8).map fun k => (Config.paceCycle s.rs.paceFactor (counts.extractLsb' (16 * k) 16)).toNat

/-- An emergency (R38): VCORE is raised by 20 mV, or the alarm is set at 0.85 V; a raise that already goes as far stands. -/
def State.paceEmergency (s : State) : State :=
  let now := s.get PACE_VCORE.VCORE_MV
  let t := min 850 (max now (if s.pw.vcRaise then s.pw.vcTarget else now) + 20)
  if 850 ≤ now then s.raise PACE_VCORE.AT_MAX
  else if s.vcRising t then s
  else (s.inc PACE_VCORE.EMERG).vcRaiseTo t

/-- PACE_GATE (R31, R32, R38): a gate ends with a count of each sensor, 16 bits each: sensors 0 to 3 from the low end of `low`, 4 to 7 in `high`; the reading is the
longest cycle, of the first sensor that gave it. A reading above the required cycle is an emergency. A hold drives no regulator
command (R440), so it raises nothing, yet `AT_MAX` is set. -/
def execPaceGate (low high : BitVec 64) (s : State) : Result :=
  let cycles := s.paceCycles (high ++ low)
  let ps := cycles.foldl max 0
  let t := s.paceNote ps (cycles.findIdx (· == ps))
  .next (if s.paceShort ps ∧ (!s.keepHold ∨ 850 ≤ s.get PACE_VCORE.VCORE_MV) then t.paceEmergency else t)

/-! ### Rails (R457, R458) -/

/-- The rail sequence starts with step 1. -/
def State.railsStart (s : State) : State :=
  (s.put KP_STATUS.EN_NOW 1).setPw fun p => { p with railStep := some 0 }

/-- The rails are off, powered down in reverse order. -/
def State.railsOff (s : State) : State :=
  ((s.put KP_STATUS.EN_NOW 0).put KP_STATUS.PG_NOW 0).setPw fun p => { p with railStep := none, railsUp := false }

/-- A step of the sequence fails (R458). -/
def State.railFail (s : State) (k : Nat) : State :=
  ((s.railsOff.put KP_STATUS.RAIL_FAIL k).inc KP_STATUS.RAIL_TRIES).raiseKeep KP_EVENT.RAIL_FAIL

/-- RAIL_GOOD (R457, R459): the awaited good input rises; step 1 also needs a regulator of the linear format (`linear`). -/
def execRailGood (k : Fin 6) (linear : Bool) (s : State) : Result :=
  .next (if s.get RST_STATUS.PHASE = 3 ∧ s.pw.railStep = some k.val then
    (if k.val = 0 ∧ !linear then s.railFail 0
     else
      let s := s.put KP_STATUS.PG_NOW (s.get KP_STATUS.PG_NOW ||| 2 ^ k.val)
      if k.val = 5 then
        ((s.put KP_STATUS.RAIL_TRIES 0).put RST_STATUS.PHASE 4).setPw fun p => { p with railStep := none, railsUp := true }
      else (s.put KP_STATUS.EN_NOW (s.get KP_STATUS.EN_NOW ||| 2 ^ (k.val + 1))).setPw fun p =>
        { p with railStep := some (k.val + 1) })
  else s)

/-- RAIL_TIMEOUT (R458). -/
def execRailTimeout (k : Fin 6) (s : State) : Result :=
  .next (if s.get RST_STATUS.PHASE = 3 ∧ s.pw.railStep = some k.val then s.railFail k.val else s)

/-- RAIL_RETRY (R458): 100 ms later, but not after the third failure in a row. -/
def execRailRetry (s : State) : Result :=
  .next (if s.get RST_STATUS.PHASE = 3 ∧ s.pw.railStep = none ∧ s.get KP_STATUS.RAIL_TRIES < 3 then s.railsStart else s)

/-! ### Supply, Keep sleep and wake (R450 to R456, R563) -/

/-- The charger of the backup supercap (R451): `CHG_MA` while `VBAK_CHG` is 1 and VKEEP comes from HVREG, else no current. -/
def State.charger (s : State) : State :=
  let i := if s.on KP_SUPPLY.VBAK_CHG && !s.on KP_SUPPLY.ON_VBAK then 500 * 2 ^ s.get KP_SUPPLY.CHG_MA else 0
  if s.pw.charge = i then s else (s.setPw fun p => { p with charge := i }).emit (.vbak i)

/-- VKEEP comes from `VBAK` while `HVIN` is low or above 60 V (R450). -/
def State.supply (s : State) : State := (s.put KP_SUPPLY.ON_VBAK (s.pw.hvLow || s.pw.hvOver).toNat).charger

/-- HVIN_RISE (R450): `HVIN` reaches 10.5 V. -/
def execHvinRise (s : State) : Result := .next (s.setPw fun p => { p with hvLow := false, hvGood := true }).supply

/-- HVIN_FALL (R450, R563): `HVIN` falls below 9.0 V. -/
def execHvinFall (s : State) : Result := .next (s.setPw fun p => { p with hvLow := true, hvGood := false }).supply

/-- HVIN_OVERVOLTAGE (R563): `HVIN` rises above 60 V, or falls back below it. -/
def execHvinOvervoltage (above : Bool) (s : State) : Result := .next (s.setPw fun p => { p with hvOver := above }).supply

/-- Keep sleep (R452): the Local Bus goes idle, the rails go off, every path not named in `SLEEP_KEEP` goes to OFF unless it is
tripped or damaged, and `PHASE` is 10. -/
def State.keepSleep (s : State) : State :=
  let s := s.lbQuiesce.railsOff
  let keep := s.get KP_SLEEP.SLEEP_KEEP
  let s := s.each ((List.range 10).filter fun n => !keep.testBit n) fun n s => if s.ppState n < 5 then s.ppOff n else s
  s.spineClear 10

/-- KEEP_SLEEP_ENTRY (R452): `HVIN` below 9.0 V for 1 ms while the Spine die runs. -/
def execKeepSleepEntry (s : State) : Result := .next (if s.pw.hvLow ∧ s.pw.railsUp then s.keepSleep else s)

/-- A write of `KP_SLEEP` (R452): the key 0x5A over a path other than a management tunnel; others are refused by event. -/
def State.sleepWrite (s : State) (p : Path) (w : Word) : State :=
  let tunnel := match p with
    | .tunnel _ => true
    | _ => false
  let s := s.writeShadow KP_SLEEP w
  if wordField w 31 24 = 0x5A ∧ !tunnel then s.keepSleep else s.raiseKeep KP_EVENT.SLEEP_REFUSED

/-- KEEP_SLEEP_WRITE (R452). -/
def execKeepSleepWrite (path : Path) (w : Word) (s : State) : Result :=
  .next (s.keepCmd path KP_SLEEP (.keepSleepWrite path w) fun s => (s.emit (.access path KP_SLEEP 0 0)).sleepWrite path w)

/-- A wake starts a cold start recorded as `POR_CORE` (R428, R455). -/
def State.wake (s : State) (src : Nat) : State :=
  let s := (s.put KP_STATUS.WAKE_SRC src).put KP_STATUS.WAKE_PEND 0
  let s := (s.put KP_STATUS.RAIL_TRIES 0).decideReset srcPorCore false src
  s.raiseKeep KP_EVENT.WOKE

/-- A wake source is enabled (R455). -/
def State.wakeEnabled (s : State) (src : Nat) : Bool :=
  s.on ([KP_WAKE.W0_EN, KP_WAKE.W1_EN, KP_WAKE.W2_EN, KP_WAKE.W3_EN, KP_WAKE.ALARM_EN].getD src KP_WAKE.W0_EN)

/-- The hub is off and a wake can start it: in Keep sleep; off after `THERM` without restart, by `WAKE` (R429); with the rails
left off after three failures (R458). -/
def State.canWake (s : State) (src : Nat) : Bool :=
  let ph := s.get RST_STATUS.PHASE
  ph == 10 || (ph == 11 && src == 2 && s.pw.thermStay) || (ph == 3 && s.get KP_STATUS.RAIL_TRIES == 3)

/-- WAKE_EVENT (R455, R456): an enabled source acts; with `HVIN` below 10.5 V the wake waits. -/
def execWakeEvent (src : Fin 5) (s : State) : Result :=
  .next (if s.canWake src.val ∧ s.wakeEnabled src.val then
    (if s.pw.hvGood then s.wake src.val else (s.put KP_STATUS.WAKE_SRC src.val).put KP_STATUS.WAKE_PEND 1)
  else s)

/-- WAKE_HVIN_SAMPLE (R456): a sample of `HVIN` for a pending wake, at 10.5 V or more when `good`. -/
def execWakeHvinSample (good : Bool) (s : State) : Result :=
  .next (if s.on KP_STATUS.WAKE_PEND ∧ good then
    (s.setPw fun p => { p with hvGood := true, hvLow := false }).supply.wake (s.get KP_STATUS.WAKE_SRC)
  else s)

end Sys2Proof.Machine
end

