-- ==== Sys2Proof/Machine/Cable.lean ====
section
/-! DEFINITION. Cable power contracts (chapter 14): attach and detach, negotiation, swaps, Hard Reset, keep-alives and lapse,
fast swap, and DisplayPort Alternate Mode on the dock ports. Voltages are in mV and currents in mA. -/

namespace Sys2Proof.Machine

/-! ### Roles and pulls (R475, R476, R482, R496) -/

/-- The board trim names a converter for the port. -/
def State.hasConv (s : State) (c : Nat) : Bool := s.pw.conv.testBit c

/-- Source roles are refused on the port: its path is damaged with cause 5. -/
def State.srcBarred (s : State) (c : Nat) : Bool := s.ppState (2 + c) == 6 && s.get (PP_STATUS.CAUSE (2 + c)) == 5

/-- The policy allows the port to be sink, to be source. A dock port without a converter allows sinking only. -/
def State.roleAllowed (s : State) (c role : Nat) : Bool :=
  let mode := if c < 4 then s.get (SW_POLICY.SP_MODE c) else s.get (DK_POLICY.DK_MODE (c - 4))
  let enabled := s.hasPath (2 + c)
  if role = 1 then enabled && (mode == 1 || mode == 3)
  else enabled && decide (2 ≤ mode) && !s.srcBarred c && (decide (c < 4) || s.hasConv c)

def State.frsEn (s : State) (c : Nat) : Bool := if c < 4 then s.on (SW_POLICY.FRS_EN c) else s.on (DK_POLICY.FRS_EN (c - 4))

/-- The pull a detached port presents: 0 none, 1 up, 2 down. -/
def State.freePull (s : State) (c : Nat) : Nat :=
  let snk := s.roleAllowed c 1
  let src := s.roleAllowed c 2
  if snk && src then (if (s.port6 c).dualUp then 1 else 2) else if src then 1 else if snk then 2 else 0

/-! ### Paths (R461, R463, R488, R494) -/

/-- The contract logic asks the path for a role under a current limit of 1.25 times the contract current and a window, in
units of the path registers. -/
def State.orderPath (s : State) (c role ma : Nat) (win : Nat × Nat) : State :=
  (s.setPath (2 + c) fun p => { p with want := role, limit := (ma * 5 + 39) / 40, window := win }).ppEval (2 + c)

/-- The window of a sink path during a transition between two voltages (R494), in 0.1 V. -/
def moveWindow (c old new : Nat) : Nat × Nat :=
  let low := min old new
  let level := if low ≤ 5000 then 3670 else max (low * 3 / 4) (if c < 4 then 9000 else 3670)
  (level / 100, max old new * 105 / 100 / 100)

/-- Discharge of the port side is switched (R495). -/
def State.discharge (s : State) (c : Nat) (on : Bool) : State :=
  s.drain (2 + c) on

/-! ### Offers (R476, R478, R484, R486, R487) -/

/-- A spine power object (R484): mV, mV, mA. -/
def spineObj (vmax vmin ma : Nat) : Nat := 0xF * 2 ^ 28 + vmax / 50 * 2 ^ 17 + vmin / 50 * 2 ^ 6 + ma / 100

/-- A fixed supply object of USB Power Delivery (PRESUMED layout; notes/assumptions/41.md). -/
def fixedObj (mv ma : Nat) : Nat := mv / 50 * 2 ^ 10 + ma / 10

/-- The most current a dock port offers (R478): 5 A only over a cable that declares it, and 3 A after a VCONN fault. -/
def State.cableMax (s : State) (c : Nat) : Nat :=
  if s.get (DK_CABLE.CBL_I (c - 4)) = 2 ∧ !(s.port6 c).vcFault then 5000 else 3000

/-- Voltages of the fixed supplies of `DK_FIXED`. -/
def fixedMv : List Nat := [5000, 9000, 15000, 20000, 28000, 36000, 48000]

/-- The supplies a port offers as source, as voltage range and current; `bus` is the bus voltage in mV, which a spine port
without a converter offers. -/
def State.offers (s : State) (c bus : Nat) : List (Nat × Nat × Nat) :=
  if c < 4 then
    if !s.on (SW_STATE.EXT c) then [(24000, 24000, 500)]
    else if s.hasConv c then
      [(s.get (SW_SRC.SRC_MIN c) * 50, s.get (SW_SRC.SRC_MAX c) * 50, s.get (SW_SRC.SRC_IMAX c) * 100)]
    else [(bus / 50 * 50, bus / 50 * 50, s.get (SW_SRC.SRC_IMAX c) * 100)]
  else
    let m := c - 4
    let pdp := s.get (DK_SRC.DK_PDP m) * 1000000
    let epr := s.on (DK_POLICY.EPR_EN m) && s.on (DK_CABLE.CBL_EPR m)
    let fixed := (bitList (s.get (DK_SRC.DK_FIXED m)) 7).map fun i => fixedMv.getD i 5000
    let fixed := fixed.filter fun v => decide (v ≤ 20000) || epr
    let fixed := fixed.map fun v => (v, v, min (s.cableMax c) (pdp / v))
    let pps := if s.on (DK_POLICY.PPS_EN m) then [(3300, 21000, min (s.cableMax c) (s.get (DK_SRC.DK_PPS_I m) * 50))] else []
    let avs := if epr then [(15000, 48000, min (s.cableMax c) (s.get (DK_SRC.DK_PPS_I m) * 50))] else []
    fixed ++ pps ++ avs

/-- The source sends its capabilities. -/
def State.sendCaps (s : State) (c bus : Nat) : State :=
  let objs := (s.offers c bus).map fun (lo, hi, ma) => if c < 4 ∧ s.on (SW_STATE.EXT c) then spineObj hi lo ma else fixedObj hi ma
  s.emit (.pd c .sourceCapabilities objs)

/-! ### Attach (R482, R483, R492) -/

/-- The current that a dock source advertises by its pull-up (R475). -/
def State.rpMa (rp : Nat) : Nat := if rp = 0 then 500 else if rp = 1 then 1500 else 3000

/-- A port enters DEFAULT in a role (R492): a source supplies 5.0 V or 24.0 V at 0.5 A and sends its capabilities; `rp` is the
partner's current advertisement to a dock sink. -/
def State.enterDefault (s : State) (c role rp : Nat) : State :=
  let s := (s.put (cSt c) 2).put (cRole c) role
  let s := s.setPort6 c fun x =>
    { x with pull := if role = 2 then 1 else 2, explicit := false, swap := 0, leaving := false, trying := false }
  let ma := if c < 4 then 500 else State.rpMa (if role = 2 then min 2 (s.get (DK_POLICY.RP_LEVEL (c - 4))) else rp)
  let mv := if c < 4 then 24000 else 5000
  let s := s.setContract c mv ma
  let s := if c < 4 then s else s.put (DK_STATE.KIND (c - 4)) 1
  let s := s.orderPath c role ma (0, 0)
  if role = 2 then
    let s := if s.hasConv c then s.emit (.converter c mv) else s
    s.sendCaps c mv
  else s

/-- A port attaches: a dock source is DFP at first (R477) and supplies VCONN under `VCONN_EN` (R478). -/
def State.attach (s : State) (c role rp : Nat) : State :=
  let s := (s.enterDefault c role rp).cpEvent c CP_EVENT.ATTACH
  if c < 4 then s
  else
    let m := c - 4
    let s := (s.put (DK_STATE.DROLE m) (role - 1)).put (DK_STATE.DEAD_BAT m) (role == 1 && !s.pw.railsUp).toNat
    if role = 2 ∧ s.on (DK_POLICY.VCONN_EN m) then (s.put (DK_STATE.VCONN_ON m) 1).emit (.pd c .cableIdentity []) else s

/-- The level of a control wire. -/
def State.scwLevel (s : State) (c v : Nat) : State := if c < 4 then s.put (SW_STATE.SCW_LVL c) v else s

/-- CABLE_ATTACH_LEVEL (R492). -/
def execCableAttachLevel (c : CPort) (s : State) : Result :=
  let pull := s.freePull c.val
  .next (if s.cState c.val = 0 ∧ pull ≠ 0 ∧ !(s.port6 c.val).leaving then
    ((s.put (cSt c.val) 1).setPort6 c.val fun x => { x with pull := pull, trying := false, tried := false }).scwLevel c.val 1
  else s)

/-- The other role is to be tried once: source where `TRY_SRC` or Try.SRC asks for it, sink where Try.SNK does (R475, R482);
only a port that may be both tries. -/
def State.wantsTry (s : State) (c role : Nat) : Bool :=
  let both := s.roleAllowed c 1 && s.roleAllowed c 2 && !(s.port6 c).tried
  let code := if c < 4 then s.get (SW_POLICY.TRY_SRC c) else s.get (DK_POLICY.DK_TRY (c - 4))
  both && ((role == 1 && code == 1) || (role == 2 && code == 2))

/-- ATTACH_DEBOUNCE_DONE (R482, R483, R492): the level has been held 100 ms, or is lost; `dual` tells whether the partner is a
dual port, `rp` its current advertisement. -/
def execAttachDebounceDone (c : CPort) (held dual : Bool) (rp : Fin 3) (s : State) : Result :=
  .next (if s.cState c.val ≠ 1 ∨ (s.port6 c.val).trying then s
  else if !held then (s.put (cSt c.val) 0).scwLevel c.val 0
  else
    let role := if (s.port6 c.val).pull = 1 then 2 else 1
    if dual ∧ s.wantsTry c.val role then
      s.setPort6 c.val fun x => { x with trying := true, tried := true, pull := 3 - x.pull }
    else s.attach c.val role rp.val)

/-- TRY_SRC_TIMEOUT (R482): the one try of the other role ends, attached in it or not. -/
def execTrySrcTimeout (c : CPort) (attached : Bool) (rp : Fin 3) (s : State) : Result :=
  .next (if (s.port6 c.val).trying then
    let pull := if attached then (s.port6 c.val).pull else 3 - (s.port6 c.val).pull
    s.attach c.val (if pull = 1 then 2 else 1) rp.val
  else s)

/-- DRP_TOGGLE (R482). -/
def execDrpToggle (c : CPort) (s : State) : Result :=
  .next (if s.cState c.val = 0 ∧ s.roleAllowed c.val 1 ∧ s.roleAllowed c.val 2 then
    s.setPort6 c.val fun x => { x with dualUp := !x.dualUp } else s)

/-! ### Detach, ERROR and safe low (R492, R493, R495) -/

/-- A fast swap failed. -/
def State.fsFail (s : State) (c : Nat) : State :=
  (s.inc (if c < 4 then SW_CNT.FS_FAIL c else DK_CNT.FS_FAIL (c - 4))).cpEvent c CP_EVENT.FS_FAIL

/-- CABLE_DETACH (R493, R496): the request is withdrawn and the contract discarded; a source discharges to safe low first. -/
def execCableDetach (c : CPort) (s : State) : Result :=
  .next (if s.cState c.val = 0 ∨ (s.port6 c.val).leaving then s
  else if s.cState c.val = 1 then (s.put (cSt c.val) 0).scwLevel c.val 0
  else
    let source := s.get (PP_STATUS.ROLE (2 + c.val)) == 2 || s.get (cRole c.val) == 2
    let s := if (s.port6 c.val).swap = 2 then s.fsFail c.val else s
    let s := ((s.cableDrop c.val 0).ppWithdraw (2 + c.val)).scwLevel c.val 0
    let s := if source then (s.setPort6 c.val fun x => { x with leaving := true }).discharge c.val true else s
    s.cpEvent c.val CP_EVENT.DETACH)

/-- SAFE_LOW_REACHED (R462, R495): a path in READY closes; a discharge ends. -/
def execSafeLowReached (n : Path10) (s : State) : Result :=
  let s := s.ppClose n.val true
  .next (if (s.path n.val).dsch then
    (s.discharge (n.val - 2) false).setPort6 (n.val - 2) fun x => { x with leaving := false }
  else s)

/-- SAFE_LOW_TIMEOUT (R495). -/
def execSafeLowTimeout (c : CPort) (s : State) : Result :=
  .next (if (s.path (2 + c.val)).dsch then
    (((s.discharge c.val false).cableDrop c.val 9).ppWithdraw (2 + c.val)).cpEvent c.val CP_EVENT.SAFE_TMO
  else s)

/-- ERROR_STATE_EXPIRY (R492): 25 ms in ERROR with the path in OFF. -/
def execErrorStateExpiry (c : CPort) (s : State) : Result :=
  .next (if s.cState c.val = 9 ∧ s.ppState (2 + c.val) = 0 then (s.put (cSt c.val) 0).scwLevel c.val 0 else s)

/-- The policy no longer allows a port's role: the port goes to ERROR (R492, R496). -/
def State.cablePolicy (s : State) (c : Nat) : State :=
  let role := s.get (cRole c)
  if 2 ≤ s.cState c ∧ s.cState c ≠ 9 ∧ role ≠ 0 ∧ !s.roleAllowed c role then (s.cableDrop c 9).ppEval (2 + c) else s

/-! ### Negotiation as sink (R486, R487, R492) -/

/-- The sink asks for a supply: object position, voltage, current, `KIND`, mismatch. -/
structure Ask where
  pos  : Nat
  mv   : Nat
  ma   : Nat
  kind : Nat
  miss : Bool
  deriving DecidableEq, Repr

/-- The Request object (R485); a dock port's voltage and current fields in its units. -/
def Ask.rdo (a : Ask) (c : Nat) : Nat :=
  a.pos * 2 ^ 28 + a.miss.toNat * 2 ^ 26 + (if c < 4 then a.mv / 50 * 2 ^ 9 + a.ma / 10
    else if a.kind = 3 ∨ a.kind = 5 then a.mv / 20 * 2 ^ 9 + a.ma / 50 else a.ma / 10 * 2 ^ 10 + a.ma / 10)

/-- What a spine sink asks for (R486, R487). -/
def State.spineAsk (s : State) (c : Nat) (objs : List Word) : Ask :=
  let want := s.get (SW_SINK.SNK_V c) * 50
  let ma := s.get (SW_SINK.SNK_I c) * 10
  let least := s.get (SW_SINK.SNK_VMIN c) * 50
  match objs.zipIdx.find? fun (o, _) => wordField o 31 28 == 0xF with
  | none => ⟨1, 24000, 500, 0, false⟩
  | some (o, i) =>
    let hi := wordField o 27 17 * 50
    let lo := wordField o 16 6 * 50
    let most := wordField o 5 0 * 100
    if lo ≤ want ∧ want ≤ hi then ⟨i + 1, want, min ma most, 0, decide (most < ma)⟩
    else if hi < want ∧ least ≤ hi then ⟨i + 1, hi, min ma most, 0, decide (most < ma)⟩
    else ⟨1, 24000, 500, 0, true⟩

/-- What a dock sink asks for: the highest fixed supply from `SNK_VMIN` to `SNK_VMAX`, else the first object
(DESIGN CHOICE; notes/assumptions/41.md). -/
def State.dockAsk (s : State) (c : Nat) (objs : List Word) : Ask :=
  let m := c - 4
  let hi := s.get (DK_SINK.SNK_VMAX m) * 20
  let lo := s.get (DK_SINK.SNK_VMIN m) * 20
  let ma := s.get (DK_SINK.SNK_I m) * 50
  let epr := s.on (DK_POLICY.EPR_EN m)
  let fixed := (objs.zipIdx.filter fun (o, _) => wordField o 31 30 == 0).map fun (o, i) =>
    (i + 1, wordField o 19 10 * 50, wordField o 9 0 * 10)
  let fit := fixed.filter fun (_, v, _) => decide (lo ≤ v ∧ v ≤ hi) && (decide (v ≤ 20000) || epr)
  match fit.foldl (fun best x => match best with
      | none => some x
      | some b => if b.2.1 < x.2.1 then some x else some b) (none : Option (Nat × Nat × Nat)) with
  | some (i, v, most) => ⟨i, v, min ma most, if 20000 < v then 4 else 2, decide (most < ma)⟩
  | none => ⟨1, 5000, min ma 3000, 2, true⟩

/-- SOURCE_CAPABILITIES_RX (R487, R492): the sink requests a supply; in hold it keeps what it has (R496). -/
def execSourceCapabilitiesRx (c : CPort) (objs : List Word) (s : State) : Result :=
  let st := s.cState c.val
  .next (if s.get (cRole c.val) ≠ 1 ∨ s.keepHold ∨ (st ≠ 2 ∧ st ≠ 5) then s
  else
    let a := if c.val < 4 then s.spineAsk c.val objs else s.dockAsk c.val objs
    let s := if c.val < 4 then s.put (SW_STATE.EXT c.val) (objs.any fun o => wordField o 31 28 == 0xF).toNat else s
    let s := s.setPort6 c.val fun x =>
      { x with before := st, askV := a.mv, askI := a.ma, askKind := a.kind, rdo := a.rdo c.val }
    (s.put (cSt c.val) 3).emit (.pd c.val .request [a.rdo c.val]))

/-! ### Negotiation as source (R478, R485, R489, R492, R496) -/

/-- The voltage, current and `KIND` that a Request names. -/
def State.readRdo (_s : State) (c : Nat) (rdo : Word) (offer : Nat × Nat × Nat) : Nat × Nat × Nat :=
  let (lo, hi, _) := offer
  if c < 4 then (wordField rdo 19 9 * 50, wordField rdo 8 0 * 10, 0)
  else if lo = hi then (hi, wordField rdo 19 10 * 10, if 20000 < hi then 4 else 2)
  else (wordField rdo 20 9 * 20, wordField rdo 6 0 * 50, if 21000 < hi then 5 else 3)

/-- The sink is heard from: the time without a Request or an EPR_KeepAlive starts again (R479, R489). -/
def State.alive (s : State) (c : Nat) : State := s.setPort6 c fun x => { x with aliveAt := s.tm.tick }

/-- The sink has been silent for so many milliseconds. -/
def State.silentMs (s : State) (c ms : Nat) : Bool := decide (ms * 1000000 ≤ s.elapsed (s.port6 c).aliveAt)

/-- REQUEST_RX (R485, R489, R492): answered Wait in hold, rejected outside the object it names, accepted otherwise; an unchanged
Request in CONTRACT is answered at once. `bus` is the bus voltage in 50 mV, `ext` whether the partner knows spine power
objects. -/
def execRequestRx (c : CPort) (rdo : Word) (bus : Fin 1200) (ext : Bool) (s : State) : Result :=
  let st := s.cState c.val
  .next (if s.get (cRole c.val) ≠ 2 ∨ (st ≠ 2 ∧ st ≠ 5 ∧ st ≠ 6) then s
  else if s.keepHold ∧ st ≠ 5 then s.emit (.pd c.val .wait [])
  else
    let s := if c.val < 4 then s.put (SW_STATE.EXT c.val) ext.toNat else s
    let s := s.when (c.val < 4 || s.get (DK_STATE.KIND (c.val - 4)) == 3) fun s => s.alive c.val
    let pos := wordField rdo 31 28
    match (s.offers c.val (bus.val * 50))[pos - 1]? with
    | none => s.emit (.pd c.val .reject [])
    | some o =>
      let (mv, ma, kind) := s.readRdo c.val rdo o
      let same := st == 5 && rdo.toNat == (s.port6 c.val).rdo
      if pos = 0 ∨ mv < o.1 ∨ o.2.1 < mv ∨ o.2.2 < ma then s.emit (.pd c.val .reject [])
      else if same then (s.emit (.pd c.val .accept [])).emit (.pd c.val .psRdy [])
      else if s.keepHold then s.emit (.pd c.val .wait [])
      else
        let s := if st = 6 then s.cpEvent c.val CP_EVENT.LAPSE_END else s
        let s := s.setPort6 c.val fun x =>
          { x with before := st, askV := mv, askI := ma, askKind := kind, rdo := rdo.toNat }
        let s := if s.hasConv c.val then s.emit (.converter c.val mv) else s
        (s.put (cSt c.val) 4).emit (.pd c.val .accept []))

/-- PD_ACCEPT_RX (R491, R492): the sink moves to TRANSITION under the window of R494; the new source of a fast swap sends PS_RDY,
takes the pull-up and sends its capabilities. -/
def execPdAcceptRx (c : CPort) (s : State) : Result :=
  let x := s.port6 c.val
  .next (if s.cState c.val = 3 then
    (s.put (cSt c.val) 4).orderPath c.val 1 x.askI (moveWindow c.val (s.cv c.val) x.askV)
  else if s.cState c.val = 7 ∧ x.swap = 2 ∧ x.toSource then
    let s := s.emit (.pd c.val .psRdy [])
    let s := ((s.put (cSt c.val) 2).put (cRole c.val) 2).setPort6 c.val fun x => { x with swap := 0, pull := 1, fsOwed := true }
    s.sendCaps c.val (s.cv c.val)
  else s)

/-- A refused or delayed Request leaves the port in the state before. -/
def State.backToBefore (s : State) (c : Nat) : State :=
  if s.cState c = 3 then s.put (cSt c) (s.port6 c).before else s

/-- PD_REJECT_RX (R492). -/
def execPdRejectRx (c : CPort) (s : State) : Result := .next (s.backToBefore c.val)

/-- PD_WAIT_RX (R492). -/
def execPdWaitRx (c : CPort) (s : State) : Result := .next (s.backToBefore c.val)

/-- The contract asked for is in force (R477, R488, R492): limit and window follow it, a fast swap is complete, and a dock
source sends its DR_Swap once. -/
def State.contractNow (s : State) (c : Nat) : State :=
  let x := s.port6 c
  let role := s.get (cRole c)
  let s := (s.setContract c x.askV x.askI).put (cSt c) 5
  let s := if c < 4 then s else s.put (DK_STATE.KIND (c - 4)) x.askKind
  let s := (s.orderPath c role x.askI (0, 0)).setPort6 c fun y => { y with explicit := true, fsOwed := false, aliveAt := s.tm.tick }
  let s := if x.fsOwed then
      (s.inc (if c < 4 then SW_CNT.FS_DONE c else DK_CNT.FS_DONE (c - 4))).cpEvent c CP_EVENT.FS_DONE
    else s
  let s := s.cpEvent c CP_EVENT.CONTRACT
  if 4 ≤ c ∧ role = 2 ∧ !x.drSent ∧ s.on (DK_STATE.DROLE (c - 4)) then
    (s.emit (.pd c .drSwap [])).setPort6 c fun y => { y with drSent := true }
  else s

/-- A swap ends at its last PS_RDY: DEFAULT in the new role (R491, R492). -/
def State.swapDone (s : State) (c : Nat) : State :=
  let x := s.port6 c
  let role := s.get (cRole c)
  if x.swap = 2 then
    ((s.put (cSt c) 2).put (cRole c) 1).setPort6 c fun y => { y with swap := 0, pull := 2, fsOwed := true, explicit := false }
  else if x.swap = 1 then s.enterDefault c (3 - role) 0
  else s.enterDefault c role 0

/-- PS_RDY_RX (R492): the new contract comes into force, or a swap ends; at a source in TRANSITION, the source's own PS_RDY as its
voltage has settled (notes/assumptions/41.md). -/
def execPsRdyRx (c : CPort) (s : State) : Result :=
  .next (if s.cState c.val = 4 then
    let s := if s.get (cRole c.val) = 2 then s.emit (.pd c.val .psRdy []) else s
    s.contractNow c.val
  else if s.cState c.val = 7 ∧ !(s.port6 c.val).toSource then s.swapDone c.val
  else s)

/-! ### Swaps (R477, R478, R491, R492, R496) -/

/-- A swap request is answered Wait in hold, and else accepted or rejected. -/
def State.answerSwap (s : State) (c : Nat) (ok : Bool) (g : State → State) : State :=
  if s.keepHold then s.emit (.pd c .wait [])
  else if ok then g (s.emit (.pd c .accept [])) else s.emit (.pd c .reject [])

/-- PR_SWAP_RX (R492): accepted in CONTRACT when the policy allows the other role. -/
def execPrSwapRx (c : CPort) (s : State) : Result :=
  let role := s.get (cRole c.val)
  .next (s.answerSwap c.val (s.cState c.val == 5 && s.roleAllowed c.val (3 - role)) fun s =>
    (s.put (cSt c.val) 7).setPort6 c.val fun x => { x with swap := 1, toSource := false })

/-- FR_SWAP_RX (R491): the old source answers Accept. -/
def execFrSwapRx (c : CPort) (s : State) : Result :=
  let x := s.port6 c.val
  .next (if s.cState c.val = 7 ∧ x.swap = 2 ∧ !x.toSource then s.emit (.pd c.val .accept []) else s.emit (.pd c.val .reject []))

/-- VCONN_SWAP_RX (R478): accepted only with `VCONN_EN`. -/
def execVconnSwapRx (m : Fin 2) (s : State) : Result :=
  let c := 4 + m.val
  let was := s.cState c == 5
  .next (if s.cState c < 2 ∨ s.cState c = 9 then s
  else s.answerSwap c (s.on (DK_POLICY.VCONN_EN m.val)) fun s =>
    let s := s.put (DK_STATE.VCONN_ON m.val) (1 - s.get (DK_STATE.VCONN_ON m.val))
    s.when was fun s => (s.put (cSt c) 7).setPort6 c fun x => { x with swap := 3, toSource := false })

/-- DR_SWAP_RX (R477): accepted only towards the hub being UFP. -/
def execDrSwapRx (m : Fin 2) (s : State) : Result :=
  .next (s.answerSwap (4 + m.val) (s.on (DK_STATE.DROLE m.val)) fun s => s.put (DK_STATE.DROLE m.val) 0)

/-- DR_SWAP_RESULT (R477): the hub's own DR_Swap is accepted, or rejected or unanswered. -/
def execDrSwapResult (m : Fin 2) (accepted : Bool) (s : State) : Result :=
  let c := 4 + m.val
  .next (if !(s.port6 c).drSent then s
  else if accepted then s.put (DK_STATE.DROLE m.val) 0
  else (s.setPort6 c fun x => { x with drFailed := true }).cpEvent c CP_EVENT.DR_FAIL)

/-! ### Hard Reset (R492, R496) -/

/-- A Hard Reset at an attached port: the roles are those of the pulls in force, the contract is discarded; a source goes to
safe low. -/
def State.hardReset (s : State) (c : Nat) : State :=
  let pull := (s.port6 c).pull
  let role := if pull = 1 then 2 else 1
  let s := (((s.put (cSt c) 8).put (cRole c) role).setContract c 0 0).setPort6 c fun x =>
    { x with explicit := false, swap := 0, toSource := false, fsOwed := false, drSent := false }
  let s := if c < 4 then s else (s.put (DK_STATE.KIND (c - 4)) 0).put (DK_STATE.ALT_ON (c - 4)) 0
  let s := if role = 2 then
      ((s.setPath (2 + c) fun p => { p with want := 0, limit := 0, window := (0, 0) }).ppWithdraw (2 + c)).discharge c true
    else s
  (s.inc (if c < 4 then SW_CNT.HARD_RESETS c else DK_CNT.HARD_RESETS (c - 4))).cpEvent c CP_EVENT.HARD_RESET

/-- HARD_RESET_RX (R492): sent or received. -/
def execHardResetRx (c : CPort) (s : State) : Result :=
  .next (if s.cState c.val < 2 ∨ s.cState c.val = 9 then s else s.hardReset c.val)

/-- HARD_RESET_RECOVER (R492): after safe low and 700 ms or 50 ms the source supplies the default again; a sink sees it. -/
def execHardResetRecover (c : CPort) (rp : Fin 3) (s : State) : Result :=
  .next (if s.cState c.val = 8 ∧ !(s.path (2 + c.val)).dsch then s.enterDefault c.val (s.get (cRole c.val)) rp.val else s)

/-! ### Keep-alives and lapse (R479, R489) -/

/-- EPR_KEEPALIVE_RX (R479). -/
def execEprKeepaliveRx (m : Fin 2) (s : State) : Result :=
  .next (if s.get (cRole (4 + m.val)) = 2 then s.alive (4 + m.val) else s)

/-- SINK_KEEPALIVE_SEND (R479, R489): the Request again, or EPR_KeepAlive under an EPR contract. -/
def execSinkKeepaliveSend (c : CPort) (s : State) : Result :=
  let epr := decide (4 ≤ c.val) && decide (4 ≤ s.get (DK_STATE.KIND (c.val - 4)))
  .next (if s.cState c.val = 5 ∧ s.get (cRole c.val) = 1 then
    (if epr then s.emit (.pd c.val .eprKeepAlive []) else s.emit (.pd c.val .request [(s.port6 c.val).rdo]))
  else s)

/-- The longest silence of a sink in a contract of a dock source (R479): 13 s in PPS, 900 ms in EPR. -/
def State.kaLimitMs (s : State) (m : Nat) : Nat := if s.get (DK_STATE.KIND m) = 3 then 13000 else 900

/-- KA_TIMEOUT (R479): a PPS, EPR or AVS contract of a dock source without keep-alive. -/
def execKaTimeout (m : Fin 2) (s : State) : Result :=
  let c := 4 + m.val
  .next (if s.cState c = 5 ∧ s.get (cRole c) = 2 ∧ 3 ≤ s.get (DK_STATE.KIND m.val) ∧ s.silentMs c (s.kaLimitMs m.val) then
    (((s.emit (.pd c .hardReset [])).hardReset c).inc (DK_CNT.KA_TMO m.val)).cpEvent c CP_EVENT.KA_TMO
  else s)

/-- SPINE_CONTRACT_LAPSE (R489): 6 s without a Request at a spine source under an explicit contract. -/
def execSpineContractLapse (p : Port) (s : State) : Result :=
  .next (if s.cState p.val = 5 ∧ s.get (cRole p.val) = 2 ∧ (s.port6 p.val).explicit ∧ s.silentMs p.val 6000 then
    let s := (s.put (cSt p.val) 6).setPath (2 + p.val) fun x => { x with limit := s.get (SW_POLICY.LAPSE_MA p.val) }
    ((s.emit (.pd p.val .alert [])).inc (SW_CNT.LAPSES p.val)).cpEvent p.val CP_EVENT.LAPSE
  else s)

/-! ### VCONN and the cable (R478) -/

/-- VCONN_FAULT (R478). -/
def execVconnFault (m : Fin 2) (s : State) : Result :=
  .next (if s.on (DK_STATE.VCONN_ON m.val) then
    ((s.put (DK_STATE.VCONN_ON m.val) 0).setPort6 (4 + m.val) fun x => { x with vcFault := true }).cpEvent (4 + m.val)
      CP_EVENT.VCONN_FAULT
  else s)

/-- CABLE_IDENTITY_RX (R478): the e-marker's answer as 5 A and EPR capability, or none; the offers follow. -/
def execCableIdentityRx (m : Fin 2) (answer : Option (Bool × Bool)) (s : State) : Result :=
  let s := match answer with
    | none => (s.put (DK_CABLE.CBL_I m.val) 0).put (DK_CABLE.CBL_EPR m.val) 0
    | some (five, epr) => (s.put (DK_CABLE.CBL_I m.val) (if five then 2 else 1)).put (DK_CABLE.CBL_EPR m.val) epr.toNat
  .next (if s.get (cRole (4 + m.val)) = 2 ∧ 2 ≤ s.cState (4 + m.val) then s.sendCaps (4 + m.val) 5000 else s)

/-! ### Fast swap (R463, R490, R491) -/

/-- A feed of the hub is in ON. -/
def State.feedOn (s : State) : Bool := s.ppState 0 == 4 || s.ppState 1 == 4

/-- A sink is armed for fast swap (R490); `busOk` is that a hub without a converter has its bus within 5 % of the contract
voltage. -/
def State.fsArmed (s : State) (c : Nat) (busOk : Bool) : Bool :=
  s.frsEn c && s.ppState (2 + c) == 4 && s.get (cRole c) == 1 && s.cState c == 5 && (s.port6 c).explicit && s.feedOn &&
  (if s.hasConv c then
    if c < 4 then decide (s.get (SW_SRC.SRC_MIN c) * 50 ≤ s.cv c ∧ s.cv c ≤ s.get (SW_SRC.SRC_MAX c) * 50) else true
  else busOk)

/-- The path changes its role in ON (R463), under a window of 12.0 V to 105 % of the contract voltage (R491). -/
def State.fastRole (s : State) (c role : Nat) : State :=
  (s.setPath (2 + c) fun p => { p with want := role, window := (120, s.cv c * 105 / 100 / 100) }).put (PP_STATUS.ROLE (2 + c)) role

/-- FAST_SWAP_DETECT (R463, R491): a source with no feed in ON loses its power; refused for a path not in ON. -/
def execFastSwapDetect (c : CPort) (s : State) : Result :=
  .next (if s.frsEn c.val ∧ s.get (cRole c.val) = 2 ∧ (s.cState c.val = 5 ∨ s.cState c.val = 6) ∧ !s.feedOn
      ∧ s.ppState (2 + c.val) = 4 then
    let s := ((s.emit (.scw c.val true)).fastRole c.val 1).put (cSt c.val) 7
    s.setPort6 c.val fun x => { x with swap := 2, toSource := false }
  else s)

/-- FAST_SWAP_SIGNAL_RX (R491): an armed sink becomes source and sends FR_Swap; one not armed changes nothing. -/
def execFastSwapSignalRx (c : CPort) (busOk : Bool) (s : State) : Result :=
  .next (if s.get (cRole c.val) ≠ 1 then s
  else if s.fsArmed c.val busOk then
    let s := (s.fastRole c.val 2).put (cSt c.val) 7
    (s.setPort6 c.val fun x => { x with swap := 2, toSource := true }).emit (.pd c.val .frSwap [])
  else s.fsFail c.val)

/-- FAST_SWAP_PULSE_END (R491). -/
def execFastSwapPulseEnd (c : CPort) (s : State) : Result :=
  .next (if (s.port6 c.val).swap = 2 ∧ !(s.port6 c.val).toSource then s.emit (.scw c.val false) else s)

/-! ### DisplayPort Alternate Mode (R480) -/

/-- The display adapter whose capture takes dock port `m`: DA0 where both name it (R225). -/
def State.captureOf (s : State) (m : Nat) : Option Nat := (List.range 2).find? fun d => s.capSrc d == m + 1

/-- The hub offers the Alternate Mode on a dock port. -/
def State.altOffered (s : State) (m : Nat) : Bool :=
  s.on (DK_POLICY.ALT_EN m) && (s.captureOf m).isSome && !s.on (DK_STATE.DROLE m) && !(s.port6 (4 + m)).drFailed

/-- A structured message is answered, or Not_Supported where the mode is not offered. -/
def State.altAnswer (s : State) (m : Nat) (msg : PdSend) (objs : List Nat) : State :=
  if s.altOffered m then s.emit (.pd (4 + m) msg objs) else s.emit (.pd (4 + m) .notSupported [])

/-- DISCOVER_IDENTITY. -/
def execDiscoverIdentity (m : Fin 2) (s : State) : Result := .next (s.altAnswer m.val .identity [])

/-- DISCOVER_SVIDS. -/
def execDiscoverSvids (m : Fin 2) (s : State) : Result := .next (s.altAnswer m.val .svids [0xFF01])

/-- DISCOVER_MODES: pin assignments C and E. -/
def execDiscoverModes (m : Fin 2) (s : State) : Result := .next (s.altAnswer m.val .modes [0b10100])

/-- ENTER_MODE. -/
def execEnterMode (m : Fin 2) (s : State) : Result := .next (s.altAnswer m.val .ack [])

/-- DISPLAYPORT_CONFIGURE: pin assignment 2 is C, 4 is E; the capture takes the lanes. -/
def execDisplayportConfigure (m : Fin 2) (pin : Fin 8) (s : State) : Result :=
  .next (if s.altOffered m.val ∧ (pin.val = 2 ∨ pin.val = 4) then
    (s.put (DK_STATE.ALT_ON m.val) 1).emit (.pd (4 + m.val) .ack [])
  else s.emit (.pd (4 + m.val) .notSupported []))

/-- EXIT_MODE: sent when the capture leaves the port; the lanes return to electrical idle. -/
def execExitMode (m : Fin 2) (s : State) : Result :=
  .next (if s.on (DK_STATE.ALT_ON m.val) then (s.put (DK_STATE.ALT_ON m.val) 0).emit (.pd (4 + m.val) .exitMode []) else s)

/-- HPD_State of a dock port: the capture's HPD (R232). -/
def State.hpdState (s : State) (m : Nat) : Nat :=
  match s.captureOf m with
  | none => 0
  | some d => (s.capOn d).toNat

/-- DISPLAYPORT_STATUS_UPDATE: answered with HPD_State. -/
def execDisplayportStatusUpdate (m : Fin 2) (s : State) : Result :=
  .next (s.altAnswer m.val .dpStatus [s.hpdState m.val])

/-- NOT_SUPPORTED_REPLY (R475). -/
def execNotSupportedReply (m : Fin 2) (s : State) : Result := .next (s.emit (.pd (4 + m.val) .notSupported []))

end Sys2Proof.Machine
end

