-- ==== Sys2Proof/Machine/Usb.lean ====
section
/-! DEFINITION. The USB dock (chapter 15) without the accesses that its service protocol makes: connection, resets, control
transfers, the Galley, service channels, start-of-frame capture, suspend and remote wake. -/

namespace Sys2Proof.Machine

def State.setDk (s : State) (g : Dock → Dock) : State := { s with dk := g s.dk }
def State.chan (s : State) (c : Nat) : Channel := tget {} c s.dk.chans
def State.setChan (s : State) (c : Nat) (g : Channel → Channel) : State :=
  s.setDk fun d => { d with chans := tput {} c (g (s.chan c)) d.chans }

def State.ustate (s : State) : Nat := s.get USB_STATUS.USTATE

/-! ### The Galley (R502, R503) -/

/-- Buffer entries of channel `c`: OUT and IN. -/
def outBuf (c : Nat) : Nat := 1 + c
def inBuf (c : Nat) : Nat := 5 + c

def State.bufBase (s : State) (n : Nat) : Nat := s.get (GALLEY_MAP.GBASE n)
def State.bufGran (s : State) (n : Nat) : Nat := if s.get (GALLEY_MAP.GSIZE n) = 0 then 64 else s.get (GALLEY_MAP.GSIZE n)
def State.bufSize (s : State) (n : Nat) : Nat := s.bufGran n * 64

/-- The carving of the active Forme is valid (R503). -/
def State.carvingOk (s : State) : Bool :=
  let en := (List.range 9).filter fun n => s.on (GALLEY_MAP.GM_EN n)
  s.on (GALLEY_MAP.GM_EN 0) && (en.all fun n => decide (s.bufBase n + s.bufGran n ≤ 512 ∧ (n = 0 ∨ 8 ≤ s.bufGran n)))
    && en.all fun n => en.all fun m =>
      n == m || decide (s.bufBase n + s.bufGran n ≤ s.bufBase m) || decide (s.bufBase m + s.bufGran m ≤ s.bufBase n)

/-- Bytes of a buffer. -/
def State.bufRead (s : State) (n a k : Nat) : List Byte := memBytes s.galley (s.bufBase n * 64 + a) k

/-- Write bytes of a buffer. -/
def State.bufWrite (s : State) (n a : Nat) (bs : List Byte) : State :=
  { s with galley := memWrite s.galley (s.bufBase n * 64 + a) bs }

/-! ### Channels (R504 to R514) -/

/-- Set or clear bit `c` of a field. -/
def State.putBit (s : State) (f : Fld) (c : Nat) (v : Bool) : State := s.put ⟨f.addr, f.lo + c, f.lo + c⟩ v.toNat
def State.getBit (s : State) (f : Fld) (c : Nat) : Bool := (s.get f).testBit c

def State.chEpoch (s : State) (c : Nat) : Nat := s.get ⟨USB_EPOCH, 8 * c + 7, 8 * c⟩

/-- The COMMAND of a channel is no longer outstanding. -/
def State.endCmd (s : State) (c : Nat) : State := (s.setChan c fun x => { x with cmd := none }).putBit USB_STATUS.PEND c false

/-- Put a reply into the IN buffer and arm it (R505). -/
def State.armReply (s : State) (c len : Nat) : State := s.setChan c fun x => { x with reply := some (len, 0) }

/-- A field of the request in the OUT buffer of a channel (R507). -/
def State.reqNat (s : State) (c a k : Nat) : Nat := leNat (s.bufRead (outBuf c) a k)

/-- The hub writes and arms a reply (R508). -/
def State.svcReply (s : State) (c status words : Nat) (body : List Byte) : State :=
  let h := s.bufRead (outBuf c) 0 16
  let hdr := [BitVec.ofNat 8 (leNat (h.take 1) + 0x80), BitVec.ofNat 8 status] ++ slice h 2 4 ++ leBytes 2 body.length ++ slice h 8 4
    ++ leBytes 2 words ++ [0, 0]
  (s.bufWrite (inBuf c) 0 (hdr ++ body)).armReply c (16 + body.length)

/-- A protocol error (R513): both endpoints halt, the request is discarded. -/
def State.protoErr (s : State) (c : Nat) : State :=
  let s := s.setChan c fun x => { x with got := 0, whole := false, served := false }
  let s := (s.putBit USB_STATUS.HALT_OUT c true).putBit USB_STATUS.HALT_IN c true
  (s.inc USB_CNT.PROTO_ERR).raise USB_EVENT.STALL

/-- The abort notice for the COMMAND outstanding on a channel, and the next `EPOCH` (R511, R514, R520). -/
def State.bumpEpoch (s : State) (c : Nat) : State :=
  let s := match (s.chan c).cmd with
    | none => s
    | some (w0, w1, _) => (s.hwMail (s.get FC_CUSTODY.HOLDER) 15 (2 * 2 ^ 28 + w0) w1).endCmd c
  s.put ⟨USB_EPOCH, 8 * c + 7, 8 * c⟩ (s.chEpoch c + 1)

/-- The header of a request breaks a rule of R513. -/
def State.badHeader (s : State) (c : Nat) : Bool :=
  let f := s.reqNat c
  let sop := f 0 1
  let blen := f 6 2
  let words := f 12 2
  let access := sop == 1 || sop == 2
  sop == 0 || decide (4 < sop) || f 1 1 != 0 || f 14 2 != 0
    || (sop == 1 && blen != 0) || (sop == 2 && blen != 4 * words)
    || (access && (words == 0 || decide (128 < words))) || (!access && words != 0)
    || (sop == 3 && f 4 2 != 0xFFFF && f 4 2 != s.hubId)
    || decide (s.bufSize (outBuf c) < 16 + blen)
    || (sop == 1 && decide (s.bufSize (inBuf c) < 16 + 4 * words)) || (sop == 4 && decide (s.bufSize (inBuf c) < 16 + blen))

/-- A packet of an OUT endpoint that is taken: its bytes join the request in the buffer, which is whole with `BLEN` bytes
after its header (R504, R507, R513). -/
def State.outPacket (s : State) (c : Nat) (data : List Byte) : State :=
  let x := s.chan c
  let answer (s : State) (code : Nat) : State := s.emit (.usbHandshake c code)
  let s := s.setChan c fun x => { x with outTog := !x.outTog }
  if data.isEmpty ∧ x.got = 0 then answer s 0
  else
    let room := s.bufSize (outBuf c) - x.got
    let s := s.bufWrite (outBuf c) x.got (data.take room)
    let got := x.got + data.length
    let s := s.setChan c fun x => { x with got }
    if got < 16 then answer (s.protoErr c) 0
    else if s.badHeader c then answer (s.protoErr c) 0
    else if 16 + s.reqNat c 6 2 ≤ got then answer (s.setChan c fun x => { x with whole := true }) 2
    else if data.length < 512 then answer (s.protoErr c) 0
    else answer s 0

/-- BULK_OUT_PACKET (R504, R507, R513): a packet of a request with its data toggle. -/
def execBulkOutPacket (c : ChanNo) (tog : Bool) (data : List Byte) (s : State) : Result :=
  let x := s.chan c.val
  let answer (s : State) (code : Nat) : State := s.emit (.usbHandshake c.val code)
  .next (if s.ustate ≠ 4 ∨ !s.on (GALLEY_MAP.GM_EN (outBuf c.val)) then s
  else if s.getBit USB_STATUS.HALT_OUT c.val then answer s 3
  else if x.whole then answer s 1
  else if tog ≠ x.outTog then answer s 0
  else s.outPacket c.val (data.take 512))

/-- A complete request of kind `sop` waits on the channel. -/
def State.asked (s : State) (c sop : Nat) : Bool := (s.chan c).whole && !(s.chan c).served && s.reqNat c 0 1 == sop

/-- SVC_ECHO (R508). -/
def execSvcEcho (c : ChanNo) (s : State) : Result :=
  .next (if s.asked c.val 4 then
    (s.setChan c.val fun x => { x with served := true }).svcReply c.val 0 0 (s.bufRead (outBuf c.val) 16 (s.reqNat c.val 6 2))
  else s)

/-- The notice of a COMMAND goes to the custodian; the channel waits for its reply (R511, R512). -/
def State.toSteward (s : State) (c : Nat) : State :=
  let w0 := c * 2 ^ 26 + s.chEpoch c * 2 ^ 16 + s.reqNat c 2 2
  let w1 := s.bufBase (outBuf c) * 64 * 2 ^ 16 + s.reqNat c 6 2
  let h := s.get FC_CUSTODY.HOLDER
  let (st, t) := s.sendMail h 15 (BitVec.ofNat 32 (2 ^ 28 + w0), BitVec.ofNat 32 w1)
  if st ≠ 0 then ((s.inc (ENG_MBX_STAT.MBX_DROP h)).raise (ENG_EVENT.MBX_DROP h)).svcReply c 4 0 []
  else (t.setChan c fun x => { x with cmd := some (w0, w1, t.tm.tick) }).putBit USB_STATUS.PEND c true

/-- SVC_COMMAND (R511, R512): posted to mailbox 15 of the custodian, or answered with status 4. -/
def execSvcCommand (c : ChanNo) (s : State) : Result :=
  .next (if s.asked c.val 3 then
    let t := s.setChan c.val fun x => { x with served := true }
    if !s.on FC_CUSTODY.VALID then t.svcReply c.val 4 0 [] else t.toSteward c.val
  else s)

/-- A Steward reply (R511, R513): armed for the COMMAND outstanding with the channel's `EPOCH`, else counted as late. -/
def State.stewardReply (s : State) (w : Word) : State :=
  let c := wordField w 30 29
  let len := wordField w 12 0
  if wordField w 31 31 = 0 then s
  else if (s.chan c).cmd.isNone || wordField w 28 21 != s.chEpoch c then
    (s.inc USB_CNT.LATE_REPLY).raise USB_EVENT.LATE_REPLY
  else if s.bufSize (inBuf c) < len then s.protoErr c
  else (s.endCmd c).armReply c len

/-- STEWARD_REPLY (R511): a write of `USB_CH_REPLY`. -/
def execStewardReply (w : Word) (s : State) : Result := .next (s.stewardReply w)

/-- SVC_TIMEOUT (R512): no reply within `SVC_TMO` ms. -/
def execSvcTimeout (c : ChanNo) (s : State) : Result :=
  .next (if (s.chan c.val).cmd.isSome then (s.endCmd c.val).svcReply c.val 4 0 [] else s)

/-- BULK_IN_ACK (R504, R505): the host acknowledges the packet in flight; after the last both buffers are empty. -/
def execBulkInAck (c : ChanNo) (s : State) : Result :=
  .next (match (s.chan c.val).reply with
    | none => s
    | some (len, k) =>
      if s.getBit USB_STATUS.HALT_IN c.val || s.ustate != 4 then s
      else
        (s.emit (.usbIn c.val (s.bufRead (inBuf c.val) (512 * k) (min 512 (len - 512 * k))))).setChan c.val fun x =>
          if k = len / 512 then { x with reply := none, got := 0, whole := false, served := false, inTog := !x.inTog }
          else { x with reply := some (len, k + 1), inTog := !x.inTog })

/-! ### Downstream ports (R498, R500) -/

/-- Switch a downstream port's power. -/
def State.uhPower (s : State) (k : Nat) (on : Bool) : State :=
  let s := if on then s.put (USB_PORT.OC_NOW k) 0
    else ((s.put (USB_PORT.CONN k) 0).put (USB_PORT.PEN k) 0).put (USB_PORT.PSUSP k) 0
  (s.put (USB_PORT.PWR k) on.toNat).emit (.uhPower k on)

def State.uhOff (s : State) : State := s.each (List.range 4) fun k s => s.when (s.on (USB_PORT.PWR k)) fun s => s.uhPower k false

/-- An over-current on a downstream port (R500). -/
def State.uhOver (s : State) (k : Nat) : State :=
  (((s.uhPower k false).put (USB_PORT.OC_NOW k) 1).inc (USB_PORT.OC_CNT k)).raise USB_EVENT.OC

/-- A device connects to a powered downstream port, or leaves it. -/
def State.uhConnect (s : State) (k : Nat) (conn : Bool) (speed : Nat) : State :=
  if !s.on (USB_PORT.PWR k) then s
  else
    let s := s.when (!conn) fun s => (s.put (USB_PORT.PEN k) 0).put (USB_PORT.PSUSP k) 0
    (s.put (USB_PORT.CONN k) conn.toNat).when conn fun s => s.put (USB_PORT.SPEED k) speed

/-! ### Reset of the function tile (R519, R520, R521) -/

/-- The control transfer in progress is abandoned. -/
def State.abandonCtrl (s : State) : State :=
  if s.dk.ctrl.isNone then s
  else ((s.setDk fun d => { d with ctrl := none }).inc USB_CNT.CTRL_ABORT).raise USB_EVENT.CTRL_ABORT

/-- What a bus reset does to the function tile. -/
def State.tileReset (s : State) : State :=
  let s := s.abandonCtrl
  let s := (s.put USB_STATUS.ADDR 0).put USB_STATUS.RWAKE_EN 0
  let s := (s.put USB_STATUS.HALT_OUT 0).put USB_STATUS.HALT_IN 0
  let s := s.each (List.range 4) fun c s => s.bumpEpoch c
  let s := s.when s.dk.driving fun s => s.emit (.usbK false)
  let s := s.setDk fun d => { d with chans := [], why := 0, driving := false, hostK := false }
  (s.put USB_WAKE.WAKE_PEND 0).uhOff

/-- The upstream port disconnects. -/
def State.usbDrop (s : State) : State :=
  (((s.tileReset.put USB_WAKE.WAKE_WHY 0).put USB_STATUS.USTATE 0).put USB_STATUS.HS 0).emit (.usbPull false)

/-- The upstream port disconnects, raised (R519). -/
def State.usbDetach (s : State) : State := if s.ustate = 0 then s else s.usbDrop.raise USB_EVENT.DETACH

/-- A cold, warm or block reset of the dock (R521): connection, downstream power and Galley are gone, nothing is recorded. -/
def State.dockReset (s : State) : State :=
  let s := { s.uhOff with galley := [] }.setDk fun d => { ({} : Dock) with badMap := d.badMap }
  let s := s.when (s.ustate != 0) fun s => s.emit (.usbPull false)
  let s := ((s.put USB_STATUS.USTATE 0).put USB_STATUS.HS 0).put USB_STATUS.ADDR 0
  let s := ((s.put USB_STATUS.RWAKE_EN 0).put USB_STATUS.HALT_OUT 0).put USB_STATUS.HALT_IN 0
  ((s.put USB_STATUS.PEND 0).put USB_WAKE.WAKE_PEND 0).put SOF_CFG.SOF_DEPTH 0

/-- The dock may connect: enabled, present, not held, a valid carving, and its dock port attached with the hub as UFP
(R497, R503). -/
def State.mayConnect (s : State) : Bool :=
  let m := s.get USB_CFG.UP_PORT
  s.on USB_CFG.EN && s.on ID_PRESENT.DOCK && !s.on RST_BLOCK.DOCK_HOLD && !s.dk.badMap
    && decide (2 ≤ s.get (DK_STATE.CSTATE m) ∧ s.get (DK_STATE.CSTATE m) < 9) && s.get (DK_STATE.DROLE m) == 0

/-- A lock-up at the dock (R503, R519): the carving is judged, and a dock no longer enabled, or whose pair has changed,
disconnects; a disabled downstream port loses its power. -/
def State.dockLockup (s : State) : State :=
  let bad := !s.carvingOk
  let s := (s.setDk fun d => { d with badMap := bad }).when bad fun s => s.raise USB_EVENT.CFG_BAD
  let s := s.when (!s.mayConnect) State.usbDetach
  s.each (List.range 4) fun k s => s.when (!(s.getBit USB_CFG.DS_EN k) && s.on (USB_PORT.PWR k)) fun s => s.uhPower k false

/-- USB_CONNECT (R497): the conditions of the upstream port are met. -/
def execUsbConnect (s : State) : Result :=
  .next (if s.ustate = 0 ∧ s.mayConnect then
    ((s.put USB_STATUS.USTATE 1).emit (.usbPull true)).raise USB_EVENT.ATTACH else s)

/-- USB_DISCONNECT (R519): VBUS below 4.0 V or the Type-C detach. -/
def execUsbDisconnect (s : State) : Result := .next s.usbDetach

/-- BUS_RESET (R501, R520): `hs` says whether the high-speed handshake succeeds. -/
def execBusReset (hs : Bool) (s : State) : Result :=
  .next (if s.ustate = 0 then s
  else
    let s := s.tileReset.raise USB_EVENT.BUS_RESET
    if hs then (s.put USB_STATUS.USTATE 2).put USB_STATUS.HS 1
    else (((s.put USB_STATUS.USTATE 0).put USB_STATUS.HS 0).emit (.usbPull false)).raise USB_EVENT.NOT_HS)

/-! ### Control transfers (R499, R506, R520) -/

/-- Fields of a setup packet: request type, request, value, index. -/
def setupField (n a k : Nat) : Nat := n / 256 ^ a % 256 ^ k

/-- A request of one hub port by the host (R498). -/
def State.hubPort (s : State) (set : Bool) (feature k : Nat) : State :=
  if k = 0 ∨ 4 < k then s
  else
    let k := k - 1
    if set then
      if feature = 8 then (if s.getBit USB_CFG.DS_EN k && !s.on (USB_PORT.PWR k) then s.uhPower k true else s)
      else if feature = 4 then (if s.on (USB_PORT.CONN k) then (s.put (USB_PORT.PEN k) 1).put (USB_PORT.PSUSP k) 0 else s)
      else if feature = 2 then (if s.on (USB_PORT.PEN k) then s.put (USB_PORT.PSUSP k) 1 else s)
      else s
    else if feature = 8 then s.uhPower k false
    else if feature = 1 then s.put (USB_PORT.PEN k) 0
    else if feature = 2 then s.put (USB_PORT.PSUSP k) 0
    else s

/-- The 16 upper-case hexadecimal digits of the hub serial (R499). -/
def serialDigits (n : Nat) : List Byte :=
  (List.range 16).map fun i => let d := n / 16 ^ (15 - i) % 16; BitVec.ofNat 8 (if d < 10 then 48 + d else 55 + d)

/-- Addresses of the function's bulk endpoints; one whose entry of the map is disabled is absent (R498, R503). -/
def State.bulkPresent (s : State) : List Nat :=
  ((List.range 8).filter fun b => s.on (GALLEY_MAP.GM_EN (1 + b))).map fun b => if b < 4 then b + 1 else 0x80 + (b - 3)

/-- What a standard or hub-class request without a command of its own does by its status stage. -/
def State.ctrlRequest (s : State) (setup : Nat) (fn : Bool) : State :=
  let rt := setupField setup 0 1
  let rq := setupField setup 1 1
  let val := setupField setup 2 2
  let ix := setupField setup 4 2
  if rt = 0x80 ∧ rq = 6 ∧ val / 256 = 1 then
    s.emit (.usbIds fn (s.get USB_ID2.VID) (if fn then s.get USB_ID.PID_FN else s.get USB_ID.PID_HUB)
      (if fn then some (s.get USB_ID2.BCD_DEV) else none))
  else if rt = 0x80 ∧ rq = 6 ∧ val / 256 = 2 then s.emit (.usbConfig fn (s.on USB_CFG.RWAKE_CAP) (if fn then s.bulkPresent else []))
  else if rt = 0x80 ∧ rq = 6 ∧ val / 256 = 3 ∧ val % 256 ≠ 0 then s.emit (.usbSerial (serialDigits s.serial))
  else if rt = 0xA0 ∧ rq = 6 ∧ !fn then s.emit (.usbHub true (2 ^ 5))
  else if rt = 0 ∧ rq = 3 ∧ val = 1 then s.put USB_STATUS.RWAKE_EN 1
  else if rt = 0 ∧ rq = 1 ∧ val = 1 then s.put USB_STATUS.RWAKE_EN 0
  else if rt = 0x23 ∧ (rq = 3 ∨ rq = 1) ∧ !fn then s.hubPort (rq == 3) val (ix % 256)
  else s

/-- A request whose status stage is a command of its own: SET_ADDRESS, SET_CONFIGURATION, the endpoint halt feature. -/
def ownStage (setup : Nat) : Bool :=
  let rt := setupField setup 0 1
  let rq := setupField setup 1 1
  (rt == 0 && (rq == 5 || rq == 9)) || (rt == 2 && (rq == 1 || rq == 3) && setupField setup 2 2 == 0)

/-- CONTROL_SETUP (R506, R520): a SETUP on endpoint 0 of the hub or of the function; `done` says whether its status stage
completes, which for the requests of `ownStage` is a command of its own. -/
def execControlSetup (setup : BitVec 64) (fn done : Bool) (s : State) : Result :=
  .next (if s.ustate < 2 ∨ s.ustate = 5 then s
  else
    let s := s.abandonCtrl.bufWrite 0 0 (leBytes 8 setup.toNat)
    let n := setup.toNat
    if setupField n 0 1 / 32 % 4 = 2 then s.emit .usbStall
    else if done && !ownStage n then s.ctrlRequest n fn
    else s.setDk fun d => { d with ctrl := some (n, fn) })

/-- The control transfer in progress, when its request is `rq` of type `rt`; it ends. -/
def State.stageOf (s : State) (rt rq : Nat) : Option (Nat × State) :=
  match s.dk.ctrl with
  | none => none
  | some (n, _) =>
    if setupField n 0 1 = rt ∧ setupField n 1 1 = rq then some (n, s.setDk fun d => { d with ctrl := none }) else none

/-- SET_ADDRESS (R520): its status stage completes. -/
def execSetAddress (s : State) : Result :=
  .next (match s.stageOf 0 5 with
    | none => s
    | some (n, s) =>
      let a := setupField n 2 2 % 128
      (s.put USB_STATUS.ADDR a).put USB_STATUS.USTATE (if a = 0 then 2 else 3))

/-- SET_CONFIGURATION (R520): its status stage completes; data toggles start at DATA0. -/
def execSetConfiguration (s : State) : Result :=
  .next (match s.stageOf 0 9 with
    | none => s
    | some (n, s) =>
      let s := s.each (List.range 4) fun c s => s.setChan c fun x => { x with outTog := false, inTog := false }
      s.put USB_STATUS.USTATE (if setupField n 2 1 = 0 then 3 else 4))

/-- The channel and direction (IN) of the endpoint that a request names. -/
def endpointOf (n : Nat) : Option (Nat × Bool) :=
  let ep := setupField n 4 1
  if 1 ≤ ep % 128 ∧ ep % 128 ≤ 4 then some (ep % 128 - 1, decide (128 ≤ ep)) else none

/-- SET_FEATURE_HALT (R514). -/
def execSetFeatureHalt (s : State) : Result :=
  .next (match s.stageOf 2 3 with
    | none => s
    | some (n, s) => match endpointOf n with
      | none => s
      | some (c, dir) => s.putBit (if dir then USB_STATUS.HALT_IN else USB_STATUS.HALT_OUT) c true)

/-- A halt ends: the endpoint's toggle is DATA0, what it held is dropped, and the channel's epoch advances (R514). -/
def State.unhalt (s : State) (c : Nat) (dir : Bool) : State :=
  let s := s.putBit (if dir then USB_STATUS.HALT_IN else USB_STATUS.HALT_OUT) c false
  let s := s.setChan c fun x =>
    if dir then { x with inTog := false, reply := none } else { x with outTog := false, got := 0, whole := false, served := false }
  s.bumpEpoch c

/-- CLEAR_FEATURE_HALT (R514): toggle, buffer and `EPOCH`; a COMMAND outstanding is aborted. -/
def execClearFeatureHalt (s : State) : Result :=
  .next (match s.stageOf 2 1 with
    | none => s
    | some (n, s) => match endpointOf n with
      | none => s
      | some (c, dir) =>
        s.unhalt c dir)

/-! ### Suspend, resume and remote wake (R517 to R519) -/

/-- USB_SUSPEND (R517): 3 ms of bus idle. -/
def execUsbSuspend (s : State) : Result :=
  .next (if 2 ≤ s.ustate ∧ s.ustate ≤ 4 then
    let s := s.setDk fun d => { d with before := s.ustate, suspAt := s.tm.tick, why := 0, driving := false, hostK := false }
    (s.put USB_STATUS.USTATE 5).raise USB_EVENT.SUSPEND
  else s)

/-- A reason to wake the host comes in suspend (R518, R519): the first one is kept; in a host resume it is the host's. -/
def State.wakeReason (s : State) (why : Nat) : State :=
  if s.ustate ≠ 5 then s
  else if s.dk.hostK then s.put USB_WAKE.WAKE_WHY 1
  else if !s.on USB_STATUS.RWAKE_EN || s.on USB_WAKE.WAKE_PEND then s
  else (s.setDk fun d => { d with why }).put USB_WAKE.WAKE_PEND 1

/-- A write of `WAKE_REQ` (R518). -/
def State.wakeReq (s : State) : State := if s.dk.hostK then s else s.wakeReason 4

/-- WAKE_REQ (R518). -/
def execWakeReq (s : State) : Result := .next s.wakeReq

/-- DOWNSTREAM_WAKE (R518, R519): in suspend a downstream port sees a remote wake (0), a connect of a device (1) with its speed, a
disconnect (2) or an over-current (3). -/
def execDownstreamWake (k : Fin 4) (what : Fin 4) (speed : Fin 3) (s : State) : Result :=
  .next (if s.ustate ≠ 5 then s
  else if what.val = 0 then (s.put (USB_PORT.PSUSP k.val) 0).wakeReason 2
  else if what.val = 3 then (s.uhOver k.val).wakeReason 3
  else (s.uhConnect k.val (what == 1) speed.val).wakeReason 3)

/-- REMOTE_WAKE_DRIVE (R518): after 5 ms of idle since suspend the hub drives K. -/
def execRemoteWakeDrive (s : State) : Result :=
  .next (if s.ustate = 5 ∧ s.on USB_WAKE.WAKE_PEND ∧ !s.dk.driving ∧ 5000000 ≤ s.elapsed s.dk.suspAt then
    (s.setDk fun d => { d with driving := true }).emit (.usbK true) else s)

/-- HOST_K_SEEN (R519): the host drives K, before the hub's own K or in one of its release windows. -/
def execHostKSeen (s : State) : Result :=
  .next (if s.ustate ≠ 5 then s
  else
    let s := s.when s.dk.driving fun s => s.emit (.usbK false)
    ((s.setDk fun d => { d with driving := false, hostK := true, why := 1 }).put USB_WAKE.WAKE_PEND 0).put USB_WAKE.WAKE_WHY 1)

/-- USB_RESUME (R518): the host ends the resume. -/
def execUsbResume (s : State) : Result :=
  .next (if s.ustate ≠ 5 then s
  else
    let why := if s.dk.driving then s.dk.why else 1
    let s := s.when s.dk.driving fun s => s.emit (.usbK false)
    let s := (s.put USB_STATUS.USTATE s.dk.before).setDk fun d => { d with why := 0, driving := false, hostK := false }
    (((s.put USB_WAKE.WAKE_PEND 0).put USB_WAKE.WAKE_WHY why).inc USB_WAKE.WAKES).raise USB_EVENT.RESUME)

/-- UH_OVERCURRENT (R500): `UH_OC_k_N` has been low for 1 ms; in suspend also a reason to wake. -/
def execUhOvercurrent (k : Fin 4) (s : State) : Result :=
  .next (s.when (s.on ID_PRESENT.DOCK) fun s => (s.uhOver k.val).wakeReason 3)

/-- DOWNSTREAM_CONNECT_CHANGE (R498): outside suspend. -/
def execDownstreamConnectChange (k : Fin 4) (conn : Bool) (speed : Fin 3) (s : State) : Result :=
  .next (if s.ustate = 5 ∨ !s.on ID_PRESENT.DOCK then s else s.uhConnect k.val conn speed.val)

/-! ### Start-of-frame capture (R515, R516) -/

/-- SOF_TOKEN (R349, R515). -/
def execSofToken (frame : BitVec 11) (s : State) : Result :=
  .next (if s.ustate ≠ 4 then s
  else
    let f := frame.toNat
    let u := if f = s.dk.frame then (s.dk.uframe + 1) % 8 else 0
    let t := s.setDk fun d => { d with frame := f, uframe := u }
    if !s.on SOF_CFG.SOF_EN || (!s.on SOF_CFG.SOF_ALL && u != 0) then t
    else if s.dk.sof.length = 16 then (t.inc SOF_CFG.SOF_OVF).raise USB_EVENT.SOF_OVF
    else (t.setDk fun d => { d with sof := d.sof ++ [(f, u, s.tm.sec, s.tm.ns)] }).put SOF_CFG.SOF_DEPTH (s.dk.sof.length + 1))

/-- The oldest entry leaves the FIFO into `SOF_POP`, `SOF_SEC` and `SOF_NS`. -/
def State.sofPop (s : State) : State :=
  match s.dk.sof with
  | [] => s.setReg SOF_POP 0x80000000
  | (f, u, sec, ns) :: t =>
    let s := (s.setDk fun d => { d with sof := t }).put SOF_CFG.SOF_DEPTH t.length
    let s := s.setReg SOF_POP (BitVec.ofNat 32 (f * 2 ^ 20 + u * 2 ^ 17 + sec / 2 ^ 32 % 2 ^ 16))
    (s.setReg SOF_SEC (BitVec.ofNat 32 sec)).setReg SOF_NS (BitVec.ofNat 32 ns)

/-- SOF_POP (R516): a read of `SOF_POP`. -/
def execSofPop (p : Path) (s : State) : Result :=
  .next (s.ordered p false (.sofPop p) fun s =>
    if !s.on ID_PRESENT.DOCK then s.emit (.access p SOF_POP 0 0)
    else
      let s := s.sofPop
      s.emit (.access p SOF_POP 0 (s.reg SOF_POP)))

end Sys2Proof.Machine
end

