-- ==== Sys2Proof/Machine/Service.lean ====
section
/-! DEFINITION. Service (chapter 16): scrubbing and row repair, Proof, custody between the dies, MSI-X re-arm and event
messages. -/

namespace Sys2Proof.Machine

/-! ### Custody between the dies (R23, R537 to R539) -/

/-- Milliseconds since the hold began. -/
def State.holdMs (s : State) : Nat := s.elapsed s.pw.holdAt / 1000000

/-- KEEP_HOLD_ENTER (R23): the Keep die has seen no heartbeat for more than 2 ms. VCORE stays at its last setpoint, but for the
floor of R12 (R39). -/
def execKeepHoldEnter (s : State) : Result :=
  .next (if s.keepHold then s
  else
    let s := ((s.put KL_STATUS.HOLD 1).inc KL_STATUS.HOLDS).setPw fun p => { p with holdAt := s.tm.tick, custWarm := false }
    let s := s.vcWithdraw.when s.pw.hot fun s => s.vcRaiseTo 760
    (s.logKeep 26 12 0 0).revertTrigger 3)

/-- KL_LOST (R537): the Spine die has received no heartbeat for more than 2 ms. -/
def execKlLost (s : State) : Result :=
  .next (if s.on EV_KL.KL_LOST_NOW then s
  else ((s.put EV_KL.KL_LOST_NOW 1).raise EV_KL.KL_LOST).latchStewards 21)

/-- What a hold put off is done (R474, R538): kept log entries, event bits, remembered toggles, paths. -/
def State.afterHold (s : State) : State :=
  let entries := s.svc.keepLog
  let s := s.setSvc fun x => { x with keepLog := [] }
  let s := s.each entries fun e s => match e with
    | [a, b, c, d] => s.logWords a.toNat b.toNat c.toNat d.toNat
    | _ => s
  let late := s.pw.lateGain
  let s := (s.setPw fun p => { p with lateGain := [] }).each late fun f s => s.raise f
  let s := s.each (List.range 10) fun n s => s.thaw n
  let s := s.each (List.range 10) fun n s =>
    (s.when (s.path n).toggled fun s => (s.setPath n fun p => { p with toggled := false }).ppToggle n).ppRelease n
  (s.each (List.range 10) fun n s => (s.ppEval n).ppClose n false).selectFeed

/-- KEEP_HOLD_LEAVE (R538, R539): 1 ms of heartbeats. The floor of R33 acts again. -/
def execKeepHoldLeave (s : State) : Result :=
  let t := s.put EV_KL.KL_LOST_NOW 0
  .next (if s.keepHold then
    let t := ((t.put KL_STATUS.HOLD 0).put KL_STATUS.ESCALATED 0).setPw fun p => { p with custWarm := false }
    let t := t.when (t.on PACE_PLAN.FLOOR) fun t => t.vcKeep 750
    (((t.afterHold).log 26 12 1 s.holdMs).raise EV_KL.KL_BACK).latchStewards 21
  else t)

/-- CUSTODY_LIMIT (R23, R539): hold has lasted `CUST_LIMIT_MS`. -/
def execCustodyLimit (s : State) : Result :=
  .next (if s.keepHold ∧ !s.on KL_CFG.CUST_NEVER ∧ !s.pw.custWarm ∧ max 1 (s.get KL_CFG.CUST_LIMIT_MS) ≤ s.holdMs then
    (s.setPw fun p => { p with custWarm := true }).decideReset srcCustody true s.holdMs
  else s)

/-- CUSTODY_ESCALATION (R539): the heartbeat is still absent 20 ms after the warm reset; one cold reset. -/
def execCustodyEscalation (s : State) : Result :=
  .next (if s.keepHold ∧ s.pw.custWarm ∧ !s.on KL_STATUS.ESCALATED then
    ((s.cairn srcCustody false true s.holdMs).put KL_STATUS.ESCALATED 1).coldReset
  else s)

/-! ### Scrubbing and repair (R524 to R527) -/

/-- The row of an engine SRAM or of Case memory as its location. -/
def scrubRow : ScrubRow → RowId
  | .caseMem t r => ⟨1, 16 + t.val, r.val⟩
  | .engine n d r => ⟨1, n.val, d.toNat * 2 ^ 15 + r.val⟩

/-- SCRUB_WORD (R527): the scrubber reads a word of a row: clean (0), with a corrected error (1), uncorrectable (2). -/
def execScrubWord (r : ScrubRow) (what : Fin 3) (s : State) : Result :=
  let live := match r with
    | .caseMem _ _ => true
    | .engine n _ _ => s.engInService n.val
  .next (if !s.on PF_CFG.SCRUB_EN || !live then s
  else if what.val = 1 then s.rowCorrected (scrubRow r)
  else if what.val = 2 then s.rowUncorrectable (scrubRow r)
  else s)

/-- ROW_REPAIR_DONE (R525): the copy of a row into the spare is complete. -/
def execRowRepairDone (r : ScrubRow) (s : State) : Result :=
  .next (if s.svc.repairing.contains (scrubRow r).loc then s.rowRepaired (scrubRow r) else s)

/-! ### Proof (R530 to R536) -/

/-- A target in its canonical form: the bits that the test reads. -/
def proofTarget (test t : Nat) : Nat :=
  if test = 1 then t % 64 - t % 16 / 8 * 8
  else if test = 2 ∨ test = 3 then t % 4096
  else t % 16

/-- The rows of a tile (R158, R358); of an engine tile the instruction SRAM's and then the data SRAM's
(notes/assumptions/51.md); 0 where the tile does not exist. -/
def State.tileRows (s : State) (t : Nat) : Nat :=
  if t < 128 then (if s.hasJ (t / 8) then 128 else 0)
  else if 512 ≤ t ∧ t < 524 then (if s.get (ENG_STATUS.STATE (t - 512)) = 4 then 0 else 256)
  else if 528 ≤ t ∧ t < 544 then 256
  else 0

/-- The row of a tile by number. -/
def proofRow (t row : Nat) : RowId :=
  if 512 ≤ t ∧ t < 524 then ⟨1, t - 512, row / 128 * 2 ^ 15 + row % 128⟩ else ⟨t / 512, t % 512, row⟩

/-- A test and a target that Proof knows (R530). -/
def State.proofValid (s : State) (test row t : Nat) : Bool :=
  if test = 1 then s.hasJ (t / 16) && decide (t % 8 < 5)
  else if test = 2 then s.tileRows t != 0
  else if test = 3 then decide (row < s.tileRows t)
  else if test = 4 then decide (t < 12) && s.get (ENG_STATUS.STATE t) != 4
  else if test = 5 then decide (t < 13) && s.hasJ t
  else false

/-- `PF_ENT` (R533). -/
def State.proofEntries (s : State) : Nat := max 1 (s.get PF_CFG2.PF_ENT)

/-- The target is spare or idle, or its entries fit (R221, R530, R533), and Proof has room for the test (R531). -/
def State.proofReady (s : State) (test row t : Nat) : Bool :=
  let quiet := s.svc.tests.filter fun x => !x.2.2.2
  if test = 5 then
    !(s.svc.tests.any fun x => x.2.2.2) &&
      decide (s.commitment t + s.proofEntries + s.get IMP_CFG.GUARD ≤ s.capacity t)
  else if 4 ≤ quiet.length then false
  else if test = 1 then s.get (LN_RX_STAT.ROLE (t / 16) (t % 8)) == roleSpare
  else if test = 4 then s.engUsable t && s.get (ENG_STATUS.ROLE_NOW t) == 0 && s.effRole t == 0
  else !s.svc.spareUsed.contains (proofRow t row).spareKey

/-- A result is reported. -/
def State.proofResult (s : State) (test t code : Nat) : State :=
  ((s.put PF_RESULT.RESULT code).put PF_RESULT.R_TEST test).put PF_RESULT.R_TARGET t

/-- A test starts. -/
def State.proofStart (s : State) (test row t : Nat) : State :=
  let s := s.setSvc fun x => { x with tests := x.tests ++ [(test, t, row, test == 5)] }
  if test = 5 then
    let s := s.setImp fun i => { i with proofEnt := tput 0 t s.proofEntries i.proofEnt }
    let s := s.setSvc fun x => { x with proofCells := tput 0 t 0 x.proofCells }
    (s.put PF_RESULT.RUNNING 1).refreshCap t
  else
    let s := s.put PF_RESULT.NONINT (s.get PF_RESULT.NONINT + 1)
    if test = 4 then s.put (ENG_STATUS.STATE t) 1 else s

/-- A waiting request starts when its target is ready. -/
def State.proofTry (s : State) : State :=
  s.each s.svc.asks fun (test, t, row) s =>
    if s.proofReady test row t then
      (s.setSvc fun x => { x with asks := x.asks.filter (· != (test, t, row)) }).proofStart test row t
    else s

/-- Two tests name one target: the tests of a tile's spare row and of its rows share the tile, any other two are of one kind (R531). -/
def sameTarget (test t test' t' : Nat) : Bool :=
  t == t' && (test == test' || (decide (2 ≤ test ∧ test ≤ 3) && decide (2 ≤ test' ∧ test' ≤ 3)))

/-- A request of Proof (R530, R531): INVALID, BUSY, started, or waiting. -/
def State.proofAsk (s : State) (test row target : Nat) : State :=
  let t := proofTarget test target
  if !s.proofValid test row t then s.proofResult test target 5
  else if (s.svc.tests.any fun x => sameTarget test t x.1 x.2.1) || (s.svc.asks.any fun x => x.1 == test && x.2.1 == t) then
    s.proofResult test t 3
  else if s.proofReady test row t then s.proofStart test row t
  else s.setSvc fun x => { x with asks := x.asks ++ [(test, t, row)] }

/-- A write of `PF_REQ`: the request's fields, and with `GO` the request. -/
def State.proofWrite (s : State) (w : Word) : State :=
  let s := s.writeFields PF_REQ w
  if w.getLsbD 31 then s.proofAsk (wordField w 30 27) (wordField w 26 18) (wordField w 15 0) else s

/-- The word of `PF_REQ` for a test. -/
def proofWord (test : Nat) (row : Fin 512) (target : BitVec 16) : Word :=
  BitVec.ofNat 32 (2 ^ 31 + test * 2 ^ 27 + row.val * 2 ^ 18 + target.toNat)

/-- PROOF_SPARE_EYE (R530 test 1). -/
def execProofSpareEye (target : BitVec 16) (s : State) : Result := .next (s.proofWrite (proofWord 1 0 target))
/-- PROOF_SPARE_ROW (R530 test 2). -/
def execProofSpareRow (target : BitVec 16) (s : State) : Result := .next (s.proofWrite (proofWord 2 0 target))
/-- PROOF_LIVE_ROW (R530 test 3). -/
def execProofLiveRow (row : Fin 512) (target : BitVec 16) (s : State) : Result := .next (s.proofWrite (proofWord 3 row target))
/-- PROOF_ENGINE_CORE (R530 test 4). -/
def execProofEngineCore (target : BitVec 16) (s : State) : Result := .next (s.proofWrite (proofWord 4 0 target))
/-- PROOF_JUNCTION_PATH (R530 test 5, R533). -/
def execProofJunctionPath (target : BitVec 16) (s : State) : Result := .next (s.proofWrite (proofWord 5 0 target))
/-- PROOF_INVALID (R530): a request of any test and target. -/
def execProofInvalid (test : Fin 16) (row : Fin 512) (target : BitVec 16) (s : State) : Result :=
  .next (s.proofWrite (proofWord test.val row target))

/-- A test that runs ends: it leaves the list, and the engine of test 4 goes back to block reset (R532). -/
def State.proofLeave (s : State) (test t : Nat) : State :=
  let s := s.setSvc fun x => { x with tests := x.tests.filter fun y => !(y.1 == test && y.2.1 == t) }
  if test = 5 then s.put PF_RESULT.RUNNING 0
  else (s.put PF_RESULT.NONINT (s.get PF_RESULT.NONINT - 1)).when (test == 4) fun s => s.engReset t

/-- The location word of a failed test (R26, R535), and whether it is a free value: a local output has no tile number
(notes/assumptions/52.md). -/
def State.proofLoc (s : State) (test t row : Nat) (data : Bool) : Nat × State :=
  if test = 1 then (laneLoc (t / 16) (t % 8) 1, s)
  else if test = 2 then
    (if 512 ≤ t ∧ t < 524 then location 0 0 1 (t - 512) (data.toNat * 2 ^ 15 + 128)
      else location 0 0 (t / 512) (t % 512) (if t < 512 then 128 else 256), s)
  else if test = 3 then ((proofRow t row).loc, s)
  else if test = 4 then (engLoc t, s)
  else if t < 4 then (portLoc t, s)
  else (location 3 0 0 (s.free % 512) 0xFFFF, s.usedFree)

/-- A FAIL makes the target permanent (R535). -/
def State.proofFail (s : State) (test t row : Nat) (data : Bool) : State :=
  let (loc, s) := s.proofLoc test t row data
  let s := ((s.put PF_LOC.LOC loc).raise PF_EVENT.PROOF_FAIL).log 25 11 test loc
  if test = 1 then s.judgePermanent (t / 16) (t % 8)
  else if test = 2 then
    (s.setSvc fun x => { x with spareUsed := (proofRow t (data.toNat * 128)).spareKey :: x.spareUsed }).raise PF_EVENT.SPARE_BAD
  else if test = 3 then s.rowPermanent (proofRow t row)
  else if test = 4 then s.retireEngine t
  else s

/-- PROOF_TEST_DONE (R535): a running test ends with PASS or FAIL; `data`: the fault of an engine tile is in its data SRAM. -/
def execProofTestDone (test : Fin 6) (target : BitVec 16) (pass data : Bool) (s : State) : Result :=
  .next (match s.svc.tests.find? fun x => x.1 == test.val && x.2.1 == target.toNat with
    | none => s
    | some (k, t, row, _) =>
      let s := ((s.proofLeave k t).proofResult k t (!pass).toNat).raise PF_EVENT.PROOF_DONE
      if pass then s.inc PF_CNT.PASSES else (s.inc PF_CNT.FAILS).proofFail k t row data)

/-- PROOF_DEFERRED (R532, R533): a request has waited for `PROOF_TMO`; when its target is ready now the test starts. -/
def execProofDeferred (test : Fin 6) (target : BitVec 16) (s : State) : Result :=
  let s := s.proofTry
  .next (match s.svc.asks.find? fun x => x.1 == test.val && x.2.1 == target.toNat with
    | none => s
    | some a =>
      let s := s.setSvc fun x => { x with asks := x.asks.filter (· != a) }
      ((s.proofResult a.1 a.2.1 2).inc PF_CNT.DEFERS).raise PF_EVENT.DEFERRED)

/-- The first number from `k` on, around `n`, that satisfies `q`. -/
def nextFrom (n k : Nat) (q : Nat → Bool) : Option Nat := ((List.range n).map fun i => (k + i) % n).find? q

/-- The next tile with a spare row is tested. -/
def State.autoRow (s : State) : State :=
  match nextFrom 544 s.svc.autoTile fun t => s.tileRows t != 0 with
  | none => s
  | some t => (s.setSvc fun x => { x with autoTile := (t + 1) % 544 }).proofAsk 2 0 t

/-- The next spare lane is tested. -/
def State.autoEye (s : State) : State :=
  match nextFrom 64 s.svc.autoLane fun t => decide (t % 16 < 5) && s.get (LN_RX_STAT.ROLE (t / 16) (t % 8)) == roleSpare with
  | none => s
  | some t => (s.setSvc fun x => { x with autoLane := (t + 1) % 64 }).proofAsk 1 0 t

/-- PROOF_AUTO_TURN (R536): test 2 on the next tile, test 1 on the next spare lane. -/
def execProofAutoTurn (s : State) : Result :=
  .next (if !s.on PF_CFG.AUTO_EN then s
  else
    s.autoRow.autoEye)

/-- A Milestone boundary at Proof (R532, R533): entries of ended tests are released, waiting requests are tried again. -/
def State.proofMilestone (s : State) : State :=
  let ended := (s.imp.proofEnt.map (·.1)).filter fun o => !s.svc.tests.any fun x => x.1 == 5 && x.2.1 == o
  let s := s.each ended fun o s => (s.setImp fun i => { i with proofEnt := tput 0 o 0 i.proofEnt }).refreshCap o
  s.proofTry

/-! ### Events (R545, R546) -/

/-- A write of `EV_REARM`: vectors are armed again, and sent at once while a source routed to them is active. -/
def State.rearm (s : State) (w : Word) : State :=
  let s := s.setSvc fun x => { x with disarmed := x.disarmed.filter fun v => !w.getLsbD v }
  s.each ((List.range 28).filter fun src => w.getLsbD (s.get (EV_ROUTE.VECTOR src))) fun src s => s.sendMsix src

/-- EV_REARM (R545). -/
def execEvRearm (w : Word) (s : State) : Result := .next (s.rearm w)

/-- EVENT_MESSAGE_RX (R546): an event message for this sink hub goes to mailbox 15 of the custodian Steward. -/
def execEventMessageRx (src : Fin 2048) (source : Fin 32) (eng : Option EngNo) (word : Word) (s : State) : Result :=
  let s := s.takeFifo 10 0xFE0
  let sub := match source.val, eng with
    | 18, some n => 2 ^ 12 + n.val * 2 ^ 8
    | _, _ => 0
  .next (s.notice (4 * 2 ^ 28 + src.val * 2 ^ 16 + source.val + sub) word.toNat)

/-- The messages of a boundary (R546): one occasion for each source, or engine of source 18, whose word has a bit that its last
message did not carry, to each valid sink. -/
def State.eventMessages (s : State) : State :=
  let subs := ((List.range 28).filter (· != 18)).map (fun k => (k, 0)) ++ (List.range 12).map fun n => (18, n)
  s.each subs fun (src, n) s =>
    let key := if src = 18 then 64 + n else src
    let w := s.eventWord src n
    let last := tget 0 key s.svc.msgBits
    if !s.on (EV_ROUTE.MSG_EN src) then s
    else if w &&& (0xFFFFFFFF - last % 2 ^ 32) = 0 then s.setSvc fun x => { x with msgBits := tput 0 key (last &&& w) x.msgBits }
    else
      let body := [(1 : Byte), BitVec.ofNat 8 src] ++ beBytes 2 s.hubId ++ beBytes 4 w ++ beBytes 6 s.tm.sec ++ beBytes 4 s.tm.ns
        ++ beBytes 2 s.svc.msgSeq ++ beBytes 2 (s.get ID_INC.INCARNATION) ++ [BitVec.ofNat 8 (if src = 18 then 0x80 + n else 0), 0]
      let sinks := (if s.on EV_SINK.SINK_A_V then [s.get EV_SINK.SINK_A] else [])
        ++ if s.on EV_SINK.SINK_B_V then [s.get EV_SINK.SINK_B] else []
      let s := s.setSvc fun x => { x with msgSeq := (x.msgSeq + 1) % 65536, msgBits := tput 0 key w x.msgBits }
      s.each sinks fun hub s => s.present 10 (s.ownCell ⟨hub, 10, 0xFE0, 2, 3, 0⟩ body)

end Sys2Proof.Machine
end

