-- ==== Sys2Proof/Machine/ResetCmd.lean ====
section
/-! DEFINITION. Requests to the reset controller through registers (chapter 12): block holds, software resets and remote
resets. -/

namespace Sys2Proof.Machine

/-! ### Spine port enable (R74, R76) -/

/-- The active Forme at a spine port: `EN` moves DISABLED to DETECT at the starting rate, and `EN` 0 or a block hold any state
to DISABLED. -/
def State.spEnable (s : State) (p : Nat) : State :=
  let on := s.on (SP_CFG.EN p) && s.hasJ p && !(s.get RST_BLOCK.SP_HOLD).testBit p
  if on && s.spState p == stDisabled then (s.put (SP_STATE.RATE p) (s.startRate p)).enterState p stDetect
  else if !on && s.spState p != stDisabled then s.enterState p stDisabled
  else s

/-! ### Block holds (R441) -/

/-- The class excludes the block of a bit of `RST_BLOCK`. -/
def State.blockAbsent (s : State) (b : Nat) : Bool :=
  if b < 4 then !s.hasJ b
  else if b < 10 then !s.hasJ b
  else if b = 10 then !s.hasJ 12
  else if b = 11 then !s.on ID_PRESENT.DOCK
  else if b < 20 then true
  else s.get (ENG_STATUS.STATE (b - 20)) == 4

/-- Set or clear a bit of `RST_BLOCK`. -/
def State.setHold (s : State) (b : Nat) (v : Bool) : State := s.put ⟨RST_BLOCK, b, b⟩ v.toNat

/-- A spine port goes into block reset: idle, link state DOWN, failed in multipath, sequence state discarded. -/
def State.spineHold (s : State) (p : Nat) : State :=
  let s := (s.spEnable p).dropSeq p
  let s := if s.lState p = lkRetired then s else s.setLState p lkDown
  if s.mpFailed p then s else s.failMember p

/-- A spine port leaves block reset: lane settings are cleared, `FAST` is 0, and it starts at DETECT. -/
def State.spineFree (s : State) (p : Nat) : State :=
  let s := s.each (List.range 5) fun k s =>
    let s := (s.setLane p k fun _ => {}).setReg (LN_TX p k) (regReset (LN_TX p k))
    (s.setReg (LN_RX_EQ p k) (regReset (LN_RX_EQ p k))).setReg (LN_RX_STAT p k) (regReset (LN_RX_STAT p k))
  (s.setPort p fun _ => {}).spEnable p

/-- What a block does as it goes into block reset. -/
def State.holdBlock (s : State) (b : Nat) : State :=
  let s := if 4 ≤ b ∧ b ≤ 8 then s.purgeStage b else s
  if b < 4 then s.spineHold b
  else if b < 6 then (s.displayLockup (b - 4)).setDisp (b - 4) fun _ => {}
  else if b = 6 then s.pxLockup
  else if b < 9 then { s with eth := tput {} (b - 7) {} s.eth }
  else if b = 9 then s.lbQuiesce.setLb fun x => { x with inPosted := [], inNp := [], images := [], reqs := [] }
  else if b = 10 then s.setTm fun t => { t with ms := {} }
  else if b = 11 then s.dockReset
  else
    let n := b - 20
    let role := s.get (ENG_STATUS.ROLE_NOW n)
    if s.on (ENG_FAULT.RETIRED n) then s else (s.engReset n).roleVacant n role

/-- What a block does as it leaves block reset: it starts from the active Forme. An adapter of a hub in standby is still held
(R142). -/
def State.freeBlock (s : State) (b : Nat) : State :=
  if 4 ≤ b ∧ b ≤ 9 ∧ s.on ID_HUB.ROLE then s
  else if b < 4 then s.spineFree b
  else if b < 6 then s.displayLockup (b - 4)
  else if b = 6 then s.pxLockup
  else if b < 9 then s.ethLockup (b - 7)
  else if b = 9 then s.startBridge.sbDrive
  else if b = 10 then s
  else if b = 11 then s.dockLockup
  else s.engLeave (b - 20)

/-- A bit of `RST_BLOCK` is written. -/
def State.writeHold (s : State) (b : Nat) (v : Bool) : State :=
  if s.blockAbsent b || (s.reg RST_BLOCK).getLsbD b == v then s
  else if v then (s.setHold b true).holdBlock b else (s.setHold b false).freeBlock b

/-- BLOCK_HOLD (R441): the custodian sets a bit of `RST_BLOCK`; in hold the Keep die is not reached (R24). -/
def execBlockHold (path : Path) (b : Fin 32) (s : State) : Result :=
  .next (s.keepCmd path RST_BLOCK (.blockHold path b) fun s => s.custodyCmd path RST_BLOCK (.blockHold path b) fun s => s.writeHold b.val true)

/-- BLOCK_RELEASE (R441): the custodian clears a bit of `RST_BLOCK`. -/
def execBlockRelease (path : Path) (b : Fin 32) (s : State) : Result :=
  .next (s.keepCmd path RST_BLOCK (.blockRelease path b) fun s => s.custodyCmd path RST_BLOCK (.blockRelease path b) fun s => s.writeHold b.val false)

/-! ### Software resets (R434, R446, R448) -/

/-- The path is a management tunnel. -/
def Path.isTunnel : Path → Bool
  | .tunnel _ => true
  | _ => false

/-- A write of `RST_CMD`: its status, and the state; the reply goes out before the reset applies. -/
def State.softReset (_s : State) (p : Path) (w : Word) : Nat × (State → State) :=
  let scope := wordField w 1 0
  if Sys2Proof.Machine.Path.isTunnel p || wordField w 31 24 != 0xC5 || scope == 0 || scope == 3 then
    (3, fun s => s.raiseKeep RST_EVENT.SOFT_REFUSED)
  else (0, fun s => s.decideReset (if scope = 1 then srcSoftWarm else srcSoftCold) (scope == 1) (pathKind p))

/-- A write of `RST_CMD` over a path. -/
def State.softCmd (s : State) (p : Path) (c : Instr) (w : Word) : State :=
  s.keepCmd p RST_CMD c fun s =>
    let (st, g) := s.softReset p w
    g (s.emit (.access p RST_CMD st 0))

/-- SOFT_WARM (R446): a write of `RST_CMD` with `SCOPE` 1 and a key. -/
def execSoftWarm (path : Path) (key : Byte) (s : State) : Result :=
  .next (s.softCmd path (.softWarm path key) (BitVec.ofNat 32 (key.toNat * 2 ^ 24 + 1)))

/-- SOFT_COLD (R446): a write of `RST_CMD` with `SCOPE` 2 and a key. -/
def execSoftCold (path : Path) (key : Byte) (s : State) : Result :=
  .next (s.softCmd path (.softCold path key) (BitVec.ofNat 32 (key.toNat * 2 ^ 24 + 2)))

/-! ### Remote reset (R447) -/

/-- A read of `RST_NONCE`: a fresh value (free), with its reader when a tunnel reads it. -/
def State.readNonce (s : State) (p : Path) : Nat × State :=
  let v := s.free % 2 ^ 16
  let s := (s.usedFree.put RST_NONCE.NONCE v).setRs fun r =>
    { r with nonce := match p with
      | .tunnel h => some (v, h.val, s.tm.tick)
      | _ => none }
  (v, s)

/-- RST_NONCE (R447). -/
def execRstNonce (path : Path) (s : State) : Result :=
  .next (s.keepCmd path RST_NONCE (.rstNonce path) fun s =>
    let (v, s) := s.readNonce path
    s.emit (.access path RST_NONCE 0 (BitVec.ofNat 32 v)))

/-- A write of `RST_REMOTE` is accepted. -/
def State.remoteOk (s : State) (p : Path) (w : Word) : Bool :=
  match p, s.rs.nonce with
  | .tunnel h, some (v, reader, at') =>
    s.on RST_CFG.REM_EN && (s.get RST_CFG.REM_HUB_A == h.val || s.get RST_CFG.REM_HUB_B == h.val) && reader == h.val
      && wordField w 31 16 == v && decide (s.elapsed at' ≤ 2 * s.msPeriod * 125000) && (wordField w 1 0 == 1 || wordField w 1 0 == 2)
  | _, _ => false

/-- A write of `RST_REMOTE`: its status, and what follows the reply. -/
def State.remoteReset (s : State) (p : Path) (w : Word) : Nat × (State → State) :=
  let hub := match p with
    | .tunnel h => h.val
    | _ => 0
  let drop (s : State) : State := s.setRs fun r => { r with nonce := none }
  if s.remoteOk p w then
    (0, fun s => (drop s).decideReset srcRemote (wordField w 1 0 == 1) (hub + (if wordField w 1 0 = 2 then 2 ^ 11 else 0)))
  else (3, fun s => (drop s).raiseKeep RST_EVENT.REM_REFUSED)

/-- RST_REMOTE (R447, R448). -/
def execRstRemote (path : Path) (w : Word) (s : State) : Result :=
  .next (s.keepCmd path RST_REMOTE (.rstRemote path w) fun s =>
    let (st, g) := s.remoteReset path w
    g (s.emit (.access path RST_REMOTE st 0)))

end Sys2Proof.Machine
end

