-- ==== Sys2Proof/Machine/Access.lean ====
section
/-! DEFINITION. Management accesses (chapters 00 and 01): the address map, what a read or a write of any location does on any
path, and the commands that make accesses: registers, PCIe BARs, SMBus, management tunnels, the USB service protocol. -/

namespace Sys2Proof.Machine

/-! ### The address map (R43, R44) -/

/-- What a plain management address names. -/
inductive Place
  | reg
  | image (ofs : Nat)
  | galley (ofs : Nat)
  | bank (n word : Nat)
  | sram (n ofs : Nat)
  | elog (word : Nat)
  | caseMem (ofs : Nat)
  | nothing
  deriving DecidableEq, Repr

/-- An address lies in Case memory. -/
def inCase (a : Nat) : Bool := decide (0x1000000 ≤ a ∧ a < 0x1100000)

/-- What a plain management address names; an unassigned part of a block names nothing. -/
def place (a : Nat) : Place :=
  if 0x390000 ≤ a ∧ a < 0x3A0000 then .image (a - 0x390000)
  else if 0x3A8000 ≤ a ∧ a < 0x3B0000 then .galley (a - 0x3A8000)
  else if 0x400000 ≤ a ∧ a < 0x4C0000 ∧ 0x8000 ≤ a % 0x10000 then .sram ((a - 0x400000) / 0x10000) (a % 0x8000)
  else if 0x400000 ≤ a ∧ a < 0x4C0000 ∧ 0x4000 ≤ a % 0x10000 then .bank ((a - 0x400000) / 0x10000) (a % 0x4000 / 4)
  else if 0x2001000 ≤ a ∧ a < 0x2002000 then .elog ((a - 0x2001000) / 4)
  else if inCase a then .caseMem (a - 0x1000000)
  else if (regAt a).isSome then .reg
  else .nothing

/-- The plain address behind an address, and whether it is the shadow alias (R16). -/
def plain (a : Nat) : Nat := a % 2 ^ 31
def isAlias (a : Nat) : Bool := decide (2 ^ 31 ≤ a)

/-- An access has the size and alignment its location takes (R15, R17). -/
def aligned (a sz : Nat) : Bool := a % sz == 0 && (sz == 4 || (inCase (plain a) && (sz == 1 || sz == 2)))

/-- The location lies in a block that the class excludes (R5). -/
def State.excludedAt (s : State) (b : Nat) : Bool := if b / 0x10000 = 0x39 then !s.hasJ 9 else s.blockExcluded b

/-- The status with which an access is turned away, 0 where it is not (R45): misaligned, no target, excluded (no error), the Keep
die not reached (R24), custody (R387). -/
def State.turnedAway (s : State) (p : Path) (a sz : Nat) (write : Bool) : Nat :=
  let b := plain a
  if !aligned a sz then 1
  else if place b = .nothing then 5
  else if s.excludedAt b then 0
  else if keepBlock b && s.keepOut then 4
  else if write && formeControl b && (!isAlias a || hasFh b) && !s.hasCustody p then 2
  else 0

/-! ### Case memory -/

/-- Bytes of Case memory as an access reads them: those of the retained record are free, since the spec gives it no layout
(R413). -/
def State.caseRead (s : State) (ofs k : Nat) : Nat × State :=
  if 0xF0000 ≤ ofs ∧ ofs < 0xF8000 then (s.free % 2 ^ (8 * k), s.usedFree) else (s.caseNat ofs k, s)

/-- A byte of Case memory written by an access: in a Sheet bank the entry that holds it is written (R192). -/
def State.sheetByte (s : State) (ofs : Nat) (b : Byte) : State :=
  let k := ofs - 0x80000
  let old := s.caseNat (ofs / 2 * 2) 2
  let w := if ofs % 2 = 0 then old / 256 * 256 + b.toNat else old % 256 + b.toNat * 256
  s.writeSheet (k / 0x4000) (k / 0x2000 % 2) (k % 0x2000 / 2) w

/-- A write of `k` bytes of Case memory: the custody token (R386), the Sheet banks (R192), the retained record (R413: what is
written spoils it), or plain memory. -/
def State.caseWrite (s : State) (ofs k v : Nat) : State :=
  if ofs < 4 then s.setToken (setBits (s.caseNat 0 4) (8 * (ofs + k) - 1) (8 * ofs) v)
  else if 0x80000 ≤ ofs ∧ ofs < 0xB4000 then
    if k = 1 then s.sheetByte ofs (BitVec.ofNat 8 v)
    else s.each (List.range (k / 2)) fun i s =>
      let e := ofs - 0x80000 + 2 * i
      s.writeSheet (e / 0x4000) (e / 0x2000 % 2) (e % 0x2000 / 2) (v / 2 ^ (16 * i) % 2 ^ 16)
  else if 0xF0000 ≤ ofs ∧ ofs < 0xF8000 then s.setFc fun f => { f with recGood := false }
  else s.setCase ofs k v

/-! ### Reading a register (R13, R16, R18) -/

/-- The bits of the readable fields of a register. -/
def RegD.mask (r : RegD) (q : Acc → Bool) : Word := (r.fields.filter fun f => q f.acc).foldl (fun m f => m ||| wordMask f.hi f.lo) 0

/-- A register's readable fields; reserved and write-only fields read 0. -/
def readable (a : Nat) (w : Word) : Word := match regAt a with | none => 0 | some r => w &&& r.mask (· != .wo)

/-- A register's FH fields. -/
def fhOnly (a : Nat) (w : Word) : Word := match regAt a with | none => 0 | some r => w &&& r.mask (· == .fh)

/-- A read clears the RC fields of a register. -/
def State.clearRc (s : State) (a : Nat) : State :=
  match regAt a with
  | none => s
  | some r => s.each (r.fields.filter fun f => f.acc == .rc) fun f s => s.put ⟨a, f.hi, f.lo⟩ 0

/-- The cool-down left of a path, in 100 ms (R469). -/
def State.coolLeft (s : State) (n : Nat) : Nat :=
  match (s.path n).coolAt with
  | none => 0
  | some t => max 1 (s.get (PP_LIM.T_COOL n)) - s.elapsed t / 100000000

/-- Fields that follow the present moment take their values before a read: measurements of the board and `REGULATING` in RAMP are
free, as is `ARMED` of a port without a converter, whose bus the spec leaves to the board. -/
def State.refresh (s : State) (a : Nat) : State :=
  let b := a / 0x10000
  let o := a % 0x10000
  if a = EV_SUM then s.put EV_SUM.ACTIVE (ofBits ((List.range 28).filter fun k => s.sourceActive k))
  else if a = EV_ENG then s.put EV_ENG.ENG_ACT (ofBits ((List.range 12).filter fun n => s.eventWord 18 n != 0))
  else if 0x10 ≤ b ∧ b ≤ 0x13 ∧ a = LK_ACK_TMO (b - 0x10) then s.put (LK_ACK_TMO.TMO_NS (b - 0x10)) (s.tAck (b - 0x10))
  else if 0x36 ≤ b ∧ b ≤ 0x37 ∧ a = EN_STATUS (b - 0x36) then
    s.put (EN_STATUS.PAUSED (b - 0x36)) (decide (s.tm.tick < (s.ethA (b - 0x36)).pauseUntil)).toNat
  else if a = FC_FL_STAT then s.put FC_FL_STAT.FL_BUSY (s.fc.flCmd.isSome || s.fc.op.isSome).toNat
  else if a = KP_SUPPLY then
    (s.usedFree.usedFree.put KP_SUPPLY.HVIN_DV s.free).put KP_SUPPLY.VBAK_CV s.usedFree.free
  else if b = 4 ∧ 0x100 ≤ o ∧ o < 0x380 then
    let n := (o - 0x100) / 0x40
    if o % 0x40 = 0x14 then s.usedFree.setReg a (BitVec.ofNat 32 s.free)
    else if o % 0x40 = 0x10 then
      let s := s.put (PP_STATUS.COOL_LEFT n) (s.coolLeft n)
      if s.ppState n = 3 then s.usedFree.put (PP_STATUS.REGULATING n) s.free else s
    else s
  else if b = 5 ∧ 0x100 ≤ o ∧ o < 0x180 ∧ o % 0x20 = 0x0C then
    let n := (o - 0x100) / 0x20
    if s.hasConv n then s.put (SW_STATE.ARMED n) (s.fsArmed n true).toNat
    else s.usedFree.put (SW_STATE.ARMED n) (s.fsArmed n (s.free % 2 == 1)).toNat
  else s

/-- A read at the plain address of a register: what the read itself does, the word, the RC fields cleared. -/
def State.readReg (s : State) (p : Path) (a : Nat) : Word × State :=
  if a = TM_NOW_NS then (BitVec.ofNat 32 s.tm.ns, s.latchTime p)
  else if a = TM_NOW_SEC then (BitVec.ofNat 32 (tget (0, 0) (pathCode p) s.tm.latches).1, s)
  else if a = TM_NOW_HI then
    let (sec, frac) := tget (0, 0) (pathCode p) s.tm.latches
    (BitVec.ofNat 32 (sec / 2 ^ 32 * 2 ^ 16 + frac), s)
  else if a = RST_NONCE then let (v, s) := s.readNonce p; (BitVec.ofNat 32 v, s)
  else
    let s := if a = SOF_POP then s.sofPop
      else if 0x60400 ≤ a ∧ a < 0x60480 ∧ a % 0x10 = 4 then s.capPop ((a - 0x60400) / 0x10)
      else s.refresh a
    (readable a (s.reg a), s.clearRc a)

/-! ### Writing a register (R13, R16, R18 and the rules of the registers that start something) -/

/-- The source whose enables a register holds (R544): every enable register stands after its event register. -/
def enabledSource (a : Nat) : Option (Nat × Nat) :=
  match eventSource (a - 4) with
  | some (src, eng, some en) => if en = a then some (src, eng) else none
  | _ => none

/-- The fields of a register take a written word; a source that gains a bit through its enables acts on it, and `INT_N` follows one
that loses its last bit (R545). -/
def State.writePlain (s : State) (a : Nat) (w : Word) : State :=
  let t := s.writeFields a w
  match enabledSource a with
  | none => t.when (eventSource a).isSome State.driveInt
  | some (src, eng) =>
    if t.eventWord src eng &&& (s.eventWord src eng ^^^ 0xFFFFFFFF) = 0 then t.driveInt else t.gained src eng

/-- Registers of a spine port: `TEST` and `RETRAIN` of `SP_CMD`, `READMIT`, `CLEAR` and `FORCE`, `GO` of `LN_INJ`. -/
def State.writeSpine (s : State) (p o : Nat) (w : Word) : State :=
  let a := 0x100000 + p * 0x10000 + o
  let k := (o - 0x100) / 0x40
  if a = SP_CMD p then
    let test := wordField w (SP_CMD.TEST p).hi (SP_CMD.TEST p).lo == 1
    let s := if test then s.testEnter p else s.testExit p
    if w.getLsbD 0 then s.retrain p else s
  else if a = LK_CMD p then if w.getLsbD 0 then s.readmitPort p else s
  else if 0x100 ≤ o ∧ a = LN_RETIRE p k then
    (s.when (w.getLsbD 1) fun s => s.clearLane p k).when (w.getLsbD 0) fun s => s.force p k
  else if 0x100 ≤ o ∧ a = LN_PRBS p k then s.prbsWritten (s.writePlain a w) p k
  else if 0x100 ≤ o ∧ a = LN_INJ p k then (s.writePlain a w).when (w.getLsbD 29) fun s => s.injGo p k
  else s.writePlain a w

/-- `FC_CMD`: of several commands in one word the highest bit acts. -/
def State.writeFcCmd (s : State) (w : Word) : State :=
  let bank := wordField w 22 21
  if w.getLsbD 31 then s.armCmd (w.getLsbD 18)
  else if w.getLsbD 30 then s.disarm
  else if w.getLsbD 29 then s.stageCmd bank
  else if w.getLsbD 28 then s.verifyCmd bank
  else if w.getLsbD 27 then s.shadowReset
  else if w.getLsbD 26 then s.commitCmd
  else if w.getLsbD 25 then s.revertCmd
  else if w.getLsbD 24 then s.markCmd bank (wordField w 20 19)
  else if w.getLsbD 23 then s.setReg FC_ATTEMPT 0
  else s

/-- Registers of an engine: `LOAD`, `RESTART`, `RETIRE`, and a mailbox post. -/
def State.writeEngine (s : State) (n : Nat) (a : Nat) (w : Word) : State :=
  if a = ENG_CMD n then
    let s := s.when (w.getLsbD 31) fun s => s.engLoad n (wordField w 30 28)
    (s.when (w.getLsbD 1) fun s => s.engRestart n).when (w.getLsbD 0) fun s => s.retireEngine n
  else if a = ENG_MBX_W1 n then s.postMail n w
  else s.writePlain a w

/-- Registers of the time block: `SET` and `ACCEPT`, and the Waymarks (R345). -/
def State.writeTime (s : State) (a : Nat) (w : Word) : State :=
  if a = TM_CMD then (s.when (w.getLsbD 1) State.setCmd).when (w.getLsbD 0) State.acceptCmd
  else if 0x60200 ≤ a ∧ a < 0x60300 ∧ a % 0x20 ≤ 0x10 then s.wmWrite ((a - 0x60200) / 0x20) a w
  else s.writePlain a w

/-- A write at the plain address of a register other than those that answer with a status of their own. -/
def State.writeHook (s : State) (a : Nat) (w : Word) : State :=
  let b := a / 0x10000
  if 0x10 ≤ b ∧ b ≤ 0x13 then s.writeSpine (b - 0x10) (a % 0x10000) w
  else if 0x40 ≤ b ∧ b ≤ 0x4B then s.writeEngine (b - 0x40) a w
  else if b = 6 then s.writeTime a w
  else if a = FC_CMD then s.writeFcCmd w
  else if a = FC_KEY_CMD then
    if w.getLsbD 31 then s.keyProg (wordField w 29 28) else if w.getLsbD 30 then s.keyRevoke (wordField w 29 28) else s
  else if a = FC_FL_CMD ∧ w.getLsbD 31 then s.flashCmd w
  else if a = RST_BLOCK then s.each (List.range 32) fun k s => s.writeHold k (w.getLsbD k)
  else if 0x30 ≤ b ∧ b ≤ 0x31 ∧ a = DA_AUX_CTL (b - 0x30) then
    (s.writePlain a w).when (w.getLsbD 31) fun s => s.auxGo (b - 0x30)
  else if a = SB_OUT then (s.writePlain a w).sbDrive
  else if a = USB_WAKE then s.when (w.getLsbD 31) State.wakeReq
  else if a = USB_CH_REPLY then s.stewardReply w
  else if a = PF_REQ then s.proofWrite w
  else if a = EV_REARM then s.rearm w
  else s.writePlain a w

/-- A write of `PP_CMD` of path `n`: `REARM` is never refused; `ON_REQ` may be, and then alone gives the status (R473). -/
def State.writePp (s : State) (p : Path) (n : Nat) (w : Word) : Nat × State × (State → State) :=
  let s := s.when (w.getLsbD 31) fun s => s.ppRearm n (w.getLsbD 30)
  let r := s.onReq p n (wordField w (PP_CMD.ON_REQ n).hi (PP_CMD.ON_REQ n).lo == 1)
  if w.getLsbD 31 then (0, if r.1 = 0 then r.2 else s, id) else (r.1, r.2, id)

/-- A write at the plain address of a register: its status, the state, and what follows once the write has been answered
(R448, R452). -/
def State.writeReg (s : State) (p : Path) (a : Nat) (w : Word) : Nat × State × (State → State) :=
  if a = RST_CMD then ((s.softReset p w).1, s, (s.softReset p w).2)
  else if a = RST_REMOTE then ((s.remoteReset p w).1, s, (s.remoteReset p w).2)
  else if a = KP_SLEEP then (0, s, fun s => s.sleepWrite p w)
  else if 0x40100 ≤ a ∧ a < 0x40380 ∧ a % 0x40 = 0x18 then
    s.writePp p ((a - 0x40100) / 0x40) w
  else (0, s.writeHook a w, id)

/-! ### Accesses -/

/-- A read: its status, the data, the state (R16 to R18, R24, R45). -/
def State.mgmtRead (s : State) (p : Path) (a sz : Nat) : Nat × Word × State :=
  let b := plain a
  let st := s.turnedAway p a sz false
  if st ≠ 0 then (st, 0, s)
  else if s.excludedAt b then (0, 0, s)
  else if isAlias a then (0, if place b = .reg then fhOnly b (s.shadowReg b) else 0, s)
  else match place b with
    | .reg => let (w, s) := s.readReg p b; (0, w, s)
    | .image o => (0, BitVec.ofNat 32 (leNat (memBytes s.pimage o 4)), s)
    | .galley o => (0, BitVec.ofNat 32 (leNat (memBytes s.galley o 4)), s)
    | .bank n k => (0, s.bankRead n k, s)
    | .sram n o => (0, BitVec.ofNat 32 (leNat (memBytes s.engSram (0x8000 * n + o) 4)), s)
    | .elog k => (0, tget 0 k s.elog, s)
    | .caseMem o => let (v, s) := s.caseRead o sz; (0, BitVec.ofNat 32 v, s)
    | .nothing => (5, 0, s)

/-- A write to FH fields waits for the copy of a lock-up (R19). -/
def State.stalls (s : State) (a : Nat) : Bool :=
  s.fc.copying && place (plain a) == .reg && hasFh (plain a) && !s.excludedAt (plain a)

/-- A write that is not turned away lands: its status, the state, and what follows the answer. -/
def State.landWrite (s : State) (p : Path) (a sz : Nat) (w : Word) : Nat × State × (State → State) :=
  let b := plain a
  if s.excludedAt b then (0, s, id)
  else if isAlias a then (0, if place b = .reg then s.writeShadow b w else s, id)
  else match place b with
    | .reg => s.writeReg p b w
    | .image o => (0, s.imgWrite o (leBytes 4 w.toNat), id)
    | .galley o => (0, { s with galley := memWrite s.galley o (leBytes 4 w.toNat) }, id)
    | .bank n k => (0, s.bankWrite n k w, id)
    | .sram n o => (0, { s with engSram := memWrite s.engSram (0x8000 * n + o) (leBytes 4 w.toNat) }, id)
    | .elog _ => (0, s, id)
    | .caseMem o => (0, s.caseWrite o sz (w.toNat % 2 ^ (8 * sz)), id)
    | .nothing => (5, s, id)

/-- A write (R13 to R20, R24, R45). -/
def State.mgmtWrite (s : State) (p : Path) (a sz : Nat) (w : Word) : Nat × State × (State → State) :=
  let st := s.turnedAway p a sz true
  if st = 2 then (2, s.refuseCustody p a, id)
  else if st ≠ 0 then (st, s, id)
  else s.landWrite p a sz w

/-- An earlier access of the path has stalled and not been made (R51). -/
def State.behind (s : State) (p : Path) : Bool := s.fc.stalled.any fun e => e.1 == p

/-- A word access that must wait: a write that stalls, or any behind one (R19, R51). -/
def State.accessWaits (s : State) (p : Path) (a : Nat) : Bool :=
  (s.turnedAway p a 4 true == 0 && s.stalls a) || s.behind p

/-- Reads of consecutive words up to the first that does not complete with 0 (R49, R509): the status, the words. -/
def State.readWords (p : Path) : Nat → Nat → State → Nat × List Word × State
  | 0, _, s => (0, [], s)
  | k + 1, a, s =>
    let (st, w, s) := s.mgmtRead p a 4
    if st ≠ 0 then (st, [], s)
    else
      let (st, ws, s) := State.readWords p k ((a + 4) % 2 ^ 32) s
      (st, w :: ws, s)

/-- Writes of consecutive words up to the first that does not complete with 0: the status, how many completed, the state and
what follows the answer. -/
def State.writeWords (p : Path) : List Word → Nat → State → Nat × Nat × State × (State → State)
  | [], _, s => (0, 0, s, id)
  | w :: ws, a, s =>
    let (st, s, g) := s.mgmtWrite p a 4 w
    if st ≠ 0 then (st, 0, s, g)
    else
      let (st, n, s, h) := State.writeWords p ws ((a + 4) % 2 ^ 32) s
      (st, n + 1, s, fun s => h (g s))

/-- A unit of `k` consecutive words holds one that stalls; the unit then waits whole (R19, R51). -/
def State.unitStalls (s : State) (p : Path) (k a : Nat) : Bool :=
  (List.range k).any fun i => let b := (a + 4 * i) % 2 ^ 32; s.turnedAway p b 4 true == 0 && s.stalls b

/-! ### Accesses as commands -/

/-- An access size of 8, 16 or 32 bits, in bytes. -/
def sizeOf (sz : Fin 3) : Nat := 2 ^ sz.val

/-- A write stalls for the copy of a lock-up (R19). -/
def State.writeStalls (s : State) (p : Path) (a sz : Nat) : Bool := s.turnedAway p a sz true == 0 && s.stalls a

/-- A write on a path, answered with its status; one that waits is answered when it lands. -/
def State.writeCmd (s : State) (p : Path) (a sz : Nat) (w : Word) (c : Instr) : State :=
  s.ordered p (s.writeStalls p a sz) c fun s =>
    let (st, s, g) := s.mgmtWrite p a sz w
    g (s.emit (.access p a st 0))

/-- A read on a path, answered with its status and data. -/
def State.readCmd (s : State) (p : Path) (a sz : Nat) (c : Instr) : State :=
  s.ordered p false c fun s =>
    let (st, w, s) := s.mgmtRead p a sz
    s.emit (.access p a st w)

/-- REGISTER_WRITE (R13, R15 to R20, R24, R45). -/
def execRegisterWrite (p : Path) (a : Word) (sz : Fin 3) (w : Word) (s : State) : Result :=
  .next (s.writeCmd p a.toNat (sizeOf sz) w (.registerWrite p a sz w))

/-- RC_READ (R13, R17, R18): a read of any location. -/
def execRcRead (p : Path) (a : Word) (sz : Fin 3) (s : State) : Result := .next (s.readCmd p a.toNat (sizeOf sz) (.rcRead p a sz))

/-- KEEP_ACCESS_COMPLETE (R24, R25): an access over the Keep link, a write of `w` or a read. -/
def execKeepAccessComplete (p : Path) (a : Word) (w : Option Word) (s : State) : Result :=
  .next (if !keepBlock (plain a.toNat) then s
  else match w with
    | some w => s.writeCmd p a.toNat 4 w (.keepAccessComplete p a (some w))
    | none => s.readCmd p a.toNat 4 (.keepAccessComplete p a none))

/-- PCIE_BAR_ACCESS (R46): an access of 8 to 64 bits through BAR0 or BAR2; a read, or a posted write of `w`. A posted write that
fails with status 1 to 4 is logged, and the source PCIe gives notice of it. -/
def execPcieBarAccess (bar2 : Bool) (ofs : BitVec 26) (sz : Fin 4) (w : Option Word) (s : State) : Result :=
  let a := ofs.toNat + (if bar2 then 2 ^ 31 else 0)
  let k := 2 ^ sz.val
  .next (if !s.upSwitch then s
  else s.ordered .pcie (w.isSome && s.writeStalls .pcie a k) (.pcieBarAccess bar2 ofs sz w) fun s =>
    match w with
    | none =>
      let (st, v, s) := s.mgmtRead .pcie a k
      let s := if st = 0 then s else s.aerReport 9 (if st = 5 then aerUnsupported else aerAbort)
      s.emit (.bar (if st = 0 then 0 else if st = 5 then 1 else 2) v)
    | some w =>
      let (st, s, g) := s.mgmtWrite .pcie a k w
      if st = 0 then g s
      else if st = 5 then (s.aerReport 9 aerUnsupported).emit (.bar 1 0)
      else g (((s.log 12 3 st a).gained 12 0).emit (.bar 3 0)))

/-! ### SMBus (R50) -/

def State.setMg (s : State) (g : Mgmt → Mgmt) : State := { s with mg := g s.mg }

/-- A transaction comes with a wrong PEC. -/
def State.badPec (s : State) : State := s.setMg fun m => { m with pecBad := true }

/-- SMBUS_WRITE (R50): command 0x01. -/
def execSmbusWrite (pecOk : Bool) (a w : Word) (s : State) : Result :=
  .next (s.ordered .smbus (pecOk && s.writeStalls .smbus a.toNat 4) (.smbusWrite pecOk a w) fun s =>
    if !pecOk then s.badPec
    else
      let (_, s, g) := s.mgmtWrite .smbus a.toNat 4 w
      g s)

/-- SMBUS_SET_ADDRESS (R50): command 0x02. -/
def execSmbusSetAddress (pecOk : Bool) (a : Word) (s : State) : Result :=
  .next (s.ordered .smbus false (.smbusSetAddress pecOk a) fun s =>
    if !pecOk then s.badPec else s.setMg fun m => { m with readAddr := a.toNat })

/-- SMBUS_READ (R50): command 0x03; the data beside a status other than 0 is free. -/
def execSmbusRead (pecOk : Bool) (s : State) : Result :=
  .next (s.ordered .smbus false (.smbusRead pecOk) fun s =>
    if !pecOk then s.badPec
    else if s.mg.pecBad then
      (s.usedFree.setMg fun m => { m with pecBad := false }).emit (.smbus 1 (BitVec.ofNat 32 s.free))
    else
      let (st, w, s) := s.mgmtRead .smbus s.mg.readAddr 4
      if st = 0 then s.emit (.smbus 0 w) else s.usedFree.emit (.smbus st (BitVec.ofNat 32 s.free)))

/-! ### Management tunnels (R48, R49) -/

/-- A unit of a management tunnel: header and data words, most significant byte first. -/
def mtUnit (op status tag addr words done inc : Nat) (data : List Word) : List Byte :=
  beBytes 1 op ++ beBytes 1 status ++ beBytes 2 tag ++ beBytes 4 addr ++ beBytes 2 words ++ beBytes 2 done ++ beBytes 2 inc
    ++ [0, 0] ++ data.flatMap fun w => beBytes 4 w.toNat

/-- Send a unit from J10. -/
def State.sendMt (s : State) (hub tunnel tag : Nat) (bs : List Byte) : State :=
  s.presentAll 10 (Cell.unit s.hubId ⟨hub, 10, tunnel, 2, 0, tag % 2048⟩ bs)

/-- The cells of a unit leave the egress FIFO of J10. -/
def State.takeMt (s : State) (tunnel : Nat) : State :=
  s.setJn fun j => { j with fifo := tput [] 10 (takeUnit tunnel (tget [] 10 j.fifo)) j.fifo }

/-- The data words of a unit. -/
def mtWords (u : List Byte) (k : Nat) : List Word := (List.range k).map fun i => BitVec.ofNat 32 (beAt u (16 + 4 * i) 4)

/-- The reply to a request unit; that of an unassigned `MT_OP` is free in its `MT_OP`. -/
def State.mtAnswer (s : State) (src : Nat) (u : List Byte) (status done : Nat) (data : List Word) : State :=
  let op := beAt u 0 1
  let known := op = 1 ∨ op = 2
  let rop := if known then op + 0x80 else s.free
  let s := if known then s else s.usedFree
  s.sendMt src 0xFD1 (beAt u 2 2) (mtUnit rop status (beAt u 2 2) (beAt u 4 4) (beAt u 8 2) done (s.get ID_INC.INCARNATION) data)

/-- A request is malformed: an unassigned `MT_OP`, `MT_WORDS` out of range, or a length that disagrees. -/
def mtBad (u : List Byte) : Bool :=
  let op := beAt u 0 1
  let n := beAt u 8 2
  (op != 1 && op != 2) || n == 0 || decide (128 < n) || u.length != 16 + (if op = 2 then 4 * n else 0)

/-- The request names a unit of `MT_OP` 0x02. -/
def mtIsWrite (u : List Byte) : Bool := beAt u 0 1 == 2

/-- MT_READ_REQUEST (R49): a request unit that is no WRITE arrives from hub `src`. -/
def execMtReadRequest (src : Fin 2048) (u : List Byte) (s : State) : Result :=
  .next (if mtIsWrite u then s
  else s.ordered (.tunnel src) false (.mtReadRequest src u) fun s =>
    let s := s.takeMt 0xFD0
    if mtBad u then s.mtAnswer src u 1 0 []
    else
      let (st, ws, s) := State.readWords (.tunnel src) (beAt u 8 2) (beAt u 4 4) s
      s.mtAnswer src u st ws.length ws)

/-- MT_WRITE_REQUEST (R49): a WRITE request unit arrives from hub `src`; the reply goes before a reset that it asked for
(R448). -/
def execMtWriteRequest (src : Fin 2048) (u : List Byte) (s : State) : Result :=
  .next (if !mtIsWrite u then s
  else s.ordered (.tunnel src) (s.unitStalls (.tunnel src) (beAt u 8 2) (beAt u 4 4)) (.mtWriteRequest src u) fun s =>
    let s := s.takeMt 0xFD0
    if mtBad u then s.mtAnswer src u 1 0 []
    else
      let (st, n, s, g) := State.writeWords (.tunnel src) (mtWords u (beAt u 8 2)) (beAt u 4 4) s
      g (s.mtAnswer src u st n []))

/-- The service channel that an ended request served takes its reply, unless the channel's epoch has moved on (R510, R514). -/
def State.mtDone (s : State) (r : MtReq) (status done : Nat) (ws : List Word) : State :=
  let s := s.setMg fun m => { m with mt := m.mt.filter (· != r) }
  if s.chEpoch r.chan = r.epoch ∧ (s.chan r.chan).served then
    s.svcReply r.chan status done (ws.flatMap fun w => leBytes 4 w.toNat)
  else s

/-- MT_REPLY (R49): matched by source hub and tag; any other is discarded. -/
def execMtReply (src : Fin 2048) (u : List Byte) (s : State) : Result :=
  let t := s.takeMt 0xFD1
  .next (match s.mg.mt.find? fun r => r.hub == src.val && r.tag == beAt u 2 2 with
    | none => t
    | some r =>
      let n := min (beAt u 10 2) (s.reqNat r.chan 12 2)
      t.mtDone r (beAt u 1 1) n (if s.reqNat r.chan 0 1 = 1 then mtWords u n else []))

/-- MT_TIMEOUT (R48, R510): two Milestones without a reply. -/
def execMtTimeout (tag : BitVec 16) (s : State) : Result :=
  .next (match s.mg.mt.find? fun r => r.tag == tag.toNat with
    | none => s
    | some r => s.mtDone r 4 0 [])

/-! ### READ and WRITE of the service protocol (R508 to R510) -/

/-- The request names this hub. -/
def State.svcLocal (s : State) (c : Nat) : Bool := s.reqNat c 4 2 == 0xFFFF || s.reqNat c 4 2 == s.hubId

/-- The request goes to another hub as one tunnel request; its tag is free, apart from those outstanding. -/
def State.svcForward (s : State) (c : Nat) (data : List Word) : State :=
  let hub := s.reqNat c 4 2 % 2048
  let tag := (4 * s.free + c) % 65536
  let u := mtUnit (s.reqNat c 0 1) 0 tag (s.reqNat c 8 4) (s.reqNat c 12 2) 0 (s.get ID_INC.INCARNATION) data
  let s := s.usedFree.setMg fun m =>
    { m with mt := m.mt.filter (fun r => r.chan != c) ++ [⟨tag, hub, c, s.chEpoch c⟩] }
  s.sendMt hub 0xFD0 tag u

/-- The words that a request of a channel names are read and sent back. -/
def State.svcReadHere (s : State) (c : Nat) : State :=
  let (st, ws, s) := State.readWords .usb (s.reqNat c 12 2) (s.reqNat c 8 4) s
  s.svcReply c st ws.length (ws.flatMap fun w => leBytes 4 w.toNat)

/-- SVC_READ (R509, R510). -/
def execSvcRead (c : ChanNo) (s : State) : Result :=
  .next (if s.asked c.val 1 then
    s.ordered .usb false (.svcRead c) fun s =>
      let t := s.setChan c.val fun x => { x with served := true }
      if s.svcLocal c.val then t.svcReadHere c.val else t.svcForward c.val []
  else s)

/-- The words that a write request of a channel carries. -/
def State.reqWords (s : State) (c : Nat) : List Word :=
  (List.range (s.reqNat c 12 2)).map fun i => BitVec.ofNat 32 (s.reqNat c (16 + 4 * i) 4)

/-- They are written, and the answer names how many were. -/
def State.svcWriteHere (s : State) (c : Nat) : State :=
  let (st, n, s, g) := State.writeWords .usb (s.reqWords c) (s.reqNat c 8 4) s
  g (s.svcReply c st n [])

/-- SVC_WRITE (R509, R510). -/
def execSvcWrite (c : ChanNo) (s : State) : Result :=
  .next (if s.asked c.val 2 then
    s.ordered .usb (s.svcLocal c.val && s.unitStalls .usb (s.reqNat c.val 12 2) (s.reqNat c.val 8 4)) (.svcWrite c) fun s =>
      let t := s.setChan c.val fun x => { x with served := true }
      if s.svcLocal c.val then t.svcWriteHere c.val else t.svcForward c.val (s.reqWords c.val)
  else s)

/-! ### The post list of a lock-up (R417) -/

/-- POST_LIST_WRITE (R417): the pairs of the active post list, in stream order, as writes of CE_0. -/
def execPostListWrite (s : State) : Result :=
  .next (if s.fc.postOwed then
    (s.setFc fun f => { f with postOwed := false }).each s.fc.actPosts fun (a, w) s =>
      s.ordered (.engine 0) (s.writeStalls (.engine 0) a 4) (.registerWrite (.engine 0) (BitVec.ofNat 32 a) 2 w) fun s =>
        let r := s.mgmtWrite (.engine 0) a 4 w
        r.2.2 r.2.1
  else s)

end Sys2Proof.Machine
end

