-- ==== Sys2Proof/Machine/Reset.lean ====
section
/-! DEFINITION. Reset and start-up (chapter 12): the Keep reset, the phases of a cold start, the sources that act on the Keep
die, and the warm reset. -/

namespace Sys2Proof.Machine

/-- `PHASE` (R435). -/
def State.phase (s : State) : Nat := s.get RST_STATUS.PHASE
def State.setPhase (s : State) (k : Nat) : State := s.put RST_STATUS.PHASE k

/-! ### Keep reset (R426, R428, R432, R435) -/

/-- POR_KEEP (R428): VKEEP has been away; everything but the flash, OTP, the part's grade and the levels that the board drives returns to reset.
The Cairn's reset values record the source itself. -/
def execPorKeep (s : State) : Result :=
  let otp (a : Nat) : Bool := a == FC_ROLLBACK || a == ID_SERIAL_LO || a == ID_SERIAL_HI
  let t : State :=
    { State.reset with
        regs := s.regs.filter fun e => otp e.1
        flash := s.flash
        tm := { tick := s.tm.tick }
        rs := { xrstLow := s.rs.xrstLow }
        pw := { hvLow := s.pw.hvLow, hvOver := s.pw.hvOver, hvGood := s.pw.hvGood }
        fc := { keyHash := s.fc.keyHash }
        out := s.out
        freeCtr := s.freeCtr
        pending := s.pending }
  .next ((((t.put FC_ROLLBACK.KEY_BUSY 0).put FC_ROLLBACK.KEY_USED 0).put CAIRN_TIME_HI.NONE 1).put ID_DEVICE.GRADE
    (s.get ID_DEVICE.GRADE))

/-- KEEP_OSC_STABLE (R435): phase 0 ends. -/
def execKeepOscStable (s : State) : Result :=
  .next (if s.phase = 0 then (s.setPhase 1).setRs fun r => { r with coldWait := r.xrstLow } else s)

/-! ### Phases 1 and 2 (R436 to R438) -/

/-- Chip trim is committed: vendor identifier, manufacturer code, Pace factor. -/
def State.chipTrim (s : State) (vid maker : Nat) (factor : BitVec 16) : State :=
  let s := (s.put USB_ID2.VID vid).put PX_ID.PCI_VID vid
  (s.putShadow PX_ID.PCI_VID vid).setRs fun r => { r with maker, paceFactor := factor }

/-- Board trim is committed: the cable ports with a converter, the sense resistor of each path (R466, R476). -/
def State.boardTrim (s : State) (conv : Nat) (rsns : Nat → Nat) : State :=
  (s.each (List.range 10) fun n s => s.put (PP_LIM.RSNS n) (rsns n)).setPw fun p => { p with conv }

/-- The next trim block is done; after the second the strap is measured. -/
def State.trimNext (s : State) : State :=
  let s := s.setRs fun r => { r with trimmed := r.trimmed + 1 }
  if 2 ≤ s.rs.trimmed then s.setPhase 2 else s

/-- A CRC failure restarts the load; at the third in one cold start the failing block takes safe defaults: midpoints, and 10 Gbit/s
through `TRIM_SAFE` (R436). -/
def State.trimFail (s : State) : State :=
  let s := s.put RST_STATUS.TRIM_TRIES (min 3 (s.get RST_STATUS.TRIM_TRIES + 1))
  if s.get RST_STATUS.TRIM_TRIES < 3 then s.setRs fun r => { r with trimmed := 0 }
  else
    let s := (s.cairnBit srcTrim).put ID_DEVICE.TRIM_SAFE 1
    if s.rs.trimmed = 0 then ((s.put RST_STATUS.TRIM_CHIP_BAD 1).chipTrim 0x8000 0x400 Config.paceSafe).trimNext
    else ((s.put RST_STATUS.TRIM_BOARD_BAD 1).boardTrim 0 fun _ => 0x80).trimNext

/-- TRIM_LOAD (R436): the next block is read, with a good CRC or not; what it holds. The part's grade (R7) is read beside the
chip trim; the sense resistors of paths 0 to 4 are in `rsnsLow`, those of 5 to 9 in `rsnsHigh`. -/
def execTrimLoad (good : Bool) (chip : ChipTrim) (conv : BitVec 6) (rsnsLow rsnsHigh : BitVec 40) (s : State) : Result :=
  .next (if s.phase ≠ 1 ∨ s.rs.coldWait then s
  else if !good then s.trimFail
  else if s.rs.trimmed = 0 then ((s.put ID_DEVICE.GRADE chip.grade.toNat).chipTrim chip.vid.toNat chip.maker.toNat chip.factor).trimNext
  else (s.boardTrim conv.toNat fun n => bits (rsnsHigh ++ rsnsLow).toNat (8 * n + 7) (8 * n)).trimNext)

/-- The upper ends of the windows of codes 0 to 14, in 0.1 mV (R437). -/
def strapEnds : List Nat := [50, 122, 182, 269, 394, 565, 825, 1225, 1817, 2694, 3938, 5653, 8246, 12247, 16500]

/-- The code of a reading in 0.1 mV; on a boundary the higher code. -/
def strapCode (v : Nat) : Nat := (strapEnds.filter fun e => decide (e ≤ v)).length

/-- The Junction ports that a class enables (R4, R8). -/
def classPorts (c : Nat) : Nat :=
  if c = classTool then ofBits [0, 7, 9, 10, 11, 13, 14, 15]
  else if c = classFull then 0xFFFF
  else 0xFFFF - 2 ^ 12

/-- The engines that a class excludes (R4, R377). -/
def classExcluded (c n : Nat) : Bool := c == classTool && ([3, 4, 5, 7, 8, 9] : List Nat).contains n

/-- The strap code is taken (R1, R7, R8, R10): class, boot source, what the class enables; then the rails, unless they are up. -/
def State.takeStrap (s : State) (code : Nat) : State :=
  let c := code / 4
  let s := ((s.put RST_STATUS.STRAP_CODE code).put ID_DEVICE.CLASS c).put ID_DEVICE.BOOT_SRC (code % 4)
  let s := (s.put ID_PRESENT.JPORT (classPorts c)).put ID_PRESENT.DOCK (decide (classEdge ≤ c)).toNat
  let s := s.each (List.range 12) fun n s => s.put (ENG_STATUS.STATE n) (if classExcluded c n then 4 else 0)
  let s := s.when (c == classTool) fun s => (s.put (ENG_ROLE.ROLE 2) 7).put (ENG_ROLE.PROG_SLOT 2) 5
  if s.pw.railsUp then s.setPhase 4 else (s.setPhase 3).railsStart

/-- STRAP_MEASURE (R437, R438): four readings of `PROF` in 0.1 mV. -/
def execStrapMeasure (r0 r1 r2 r3 : BitVec 16) (s : State) : Result :=
  .next (if s.phase ≠ 2 then s
  else
    let s := (s.put RST_STATUS.STRAP_MV (r3.toNat / 10)).put RST_STATUS.STRAP_TRIES (s.get RST_STATUS.STRAP_TRIES + 1)
    let c := strapCode r0.toNat
    if strapCode r1.toNat = c ∧ strapCode r2.toNat = c ∧ strapCode r3.toNat = c then (s.put ID_DEVICE.STRAP_DFLT 0).takeStrap c
    else if s.get RST_STATUS.STRAP_TRIES < 9 then s
    else (s.put ID_DEVICE.STRAP_DFLT 1).takeStrap 15)

/-! ### Phase 4 (R341, R435, R528) -/

/-- Domain time starts from the RTC when it is valid (R341). -/
def State.startTime (s : State) : State :=
  if !s.rs.rtcValid then s
  else
    let n := s.rtcNow
    let s := s.setTm fun t => { t with sec := n / 32768, ns := rtcNs n, frac := 0 }
    let s := ((s.put TM_STATE.RTC_VALID 1).put TM_STATE.RTC_HOLD 1).put TM_STATE.TSTATE tsHoldover
    s.raise TM_EVENT.RTC_RELOAD

/-- The row of a location word of the repair record. -/
def rowOf (loc : Nat) : RowId := ⟨bits loc 27 25, bits loc 24 16, bits loc 15 0⟩

/-- The repair record is applied again (R528). -/
def State.reRepair (s : State) : State :=
  s.each (List.range (s.get KL_STATUS.REC_USED)) fun r s =>
    let x := rowOf (s.get (REP_REC.REP_LOC r))
    s.setSvc fun v => { v with repaired := x.loc :: v.repaired, spareUsed := x.spareKey :: v.spareUsed }

/-- CORE_RELEASE (R435): the first heartbeat in each direction ends phase 4; the Forme load begins. -/
def execCoreRelease (s : State) : Result :=
  .next (if s.phase = 4 then ((s.put EV_KL.KL_LOST_NOW 0).startTime.reRepair).formeLoad else s)

/-! ### Sources that act on the Keep die (R428, R429, R433, R449) -/

/-- A reset that follows an escalation of its own ends `ESCALATED`; a later custody limit may act again (R539). -/
def State.endEscalation (s : State) : State :=
  (s.when (s.on KL_STATUS.ESCALATED) fun s => s.setPw fun p => { p with custWarm := false }).put KL_STATUS.ESCALATED 0

/-- BOR (R428): a good input, or VCORE as 6, fails while the Spine die runs. -/
def execBor (idx : Fin 7) (s : State) : Result :=
  .next (if s.pw.railsUp then (s.endEscalation.railsOff).decideReset srcBor false idx.val else s)

/-- XRST (R449): `XRST_N` has been low for 10 µs; rails left off after three failures are tried afresh (R458). -/
def execXrst (s : State) : Result :=
  let t := (s.setRs fun r => { r with xrstLow := true }).when (s.get KP_STATUS.RAIL_TRIES == 3) fun s => s.put KP_STATUS.RAIL_TRIES 0
  let warm := s.on RST_CFG.XRST_WARM
  .next (if s.phase = 0 then t else t.endEscalation.decideReset srcXrst warm warm.toNat)

/-- XRST_RELEASE (R449): `XRST_N` rises; what waited for it goes on. -/
def execXrstRelease (s : State) : Result := .next (s.setRs fun r => { r with xrstLow := false, coldWait := false })

/-- The thermal shutdown point in °C: of the grade FBX, and of the others (R6). -/
def State.shutdownPoint (s : State) : Nat := if s.get ID_DEVICE.GRADE = 1 then 135 else 125

/-- THERM (R6, R429): a junction sensor reads above the shutdown point; the Spine-die rails are removed, the power paths kept. -/
def execTherm (x : TempReading) (s : State) : Result :=
  let stay := !s.on RST_CFG.THERM_RESTART
  .next (if s.phase = 0 ∨ s.phase = 11 ∨ x.tj.val ≤ s.shutdownPoint then s
  else (((s.endEscalation.railsOff).decideReset srcTherm false x.sensor.val).setPhase 11).setPw fun p => { p with thermStay := stay })

/-- THERM_RESTART (R429): for 100 ms every sensor has been 20 °C below the point, which the command says (notes/assumptions/1.md). -/
def execThermRestart (s : State) : Result :=
  .next (if s.phase = 11 ∧ !s.pw.thermStay then
    (s.setPhase 1).setRs fun r => { r with coldWait := r.xrstLow }
  else s)

/-! ### Warm reset (R413, R426, R439) -/

/-- A field keeps its value through a warm reset though its access type has no ST (R9, R10, R13, R133, R359, R386, R409, R425,
R439, R499). -/
def keptWarm (a : Nat) (f : FieldD) : Bool :=
  a == ID_DEVICE || a == ID_PRESENT || a == ID_SERIAL_LO || a == ID_SERIAL_HI || a == ID_INC || a == FC_ATTEMPT
    || a == FC_ROLLBACK || (a == PACE_VCORE && f.name == "VCORE_MV") || (a == USB_ID2 && f.name == "VID")
    || (a == TM_STATE && (f.name == "PARENT_HUB" || f.name == "STEPS_NOW" || f.name == "RTC_VALID"))

/-- The word of a Spine-die register after a warm reset: fields of type ST are kept, the others take their reset values (R14). -/
def warmWord (a : Nat) (w : Word) : Word :=
  match regAt a with
  | none => regReset a
  | some r => r.fields.foldl (fun v f =>
      if f.st || keptWarm a f then setWordField v f.hi f.lo (wordField w f.hi f.lo) else v) (regReset a)

/-- The registers of the Spine die after a warm reset; engines keep their retirement and exclusion, and `PCI_VID` is that of the
chip trim until the Forme is re-applied. -/
def State.warmRegs (s : State) : State :=
  let t := s.each (s.regs.map (·.1)) fun a s => if keepBlock a then s else s.setReg a (warmWord a (s.reg a))
  let t := t.each (List.range 12) fun n t =>
    let st := s.get (ENG_STATUS.STATE n)
    t.put (ENG_STATUS.STATE n) (if st = 3 ∨ st = 4 then st else 0)
  let t := t.each (List.range 4) fun p t => t.put (LK_STATE.LSTATE p) (if s.on (LK_STATE.RETIRED p) then lkRetired else lkDown)
  let t := (t.put PX_ID.PCI_VID (s.get USB_ID2.VID)).setReg RST_BLOCK 0
  ((t.put IMP_STATUS.FIRST_USE 0).put IMP_STATUS.HOLD_HIST 1).put IMP_STATUS.FIRST_LEFT 16

/-- The units of the Spine die after a warm reset: what their chapters keep, the rest as at reset (R79, R158, R215, R342, R346,
R359, R413, R523, R546). -/
def State.warmUnits (s : State) : State :=
  { s with
      shadow := []
      galley := []
      pimage := []
      ports := (List.range 4).map fun p => (p, { fast := true })
      lanes := s.lanes.filterMap fun e =>
        let l : Lane := { txRole := e.2.txRole, txLogical := e.2.txLogical }
        if l = {} then none else some (e.1, l)
      links := []
      jn := { lostSlots := s.jn.lostSlots }
      imp := { msNum := s.imp.msNum, msTick := s.imp.msTick, taken := s.imp.taken, order := s.imp.order, gives := s.imp.gives, origs := s.imp.origs, ringOf := s.imp.ringOf }
      pace := {}
      eng := s.eng.filterMap fun e =>
        let x : Engine := { faults := e.2.faults, retiredAt := e.2.retiredAt, taking := e.2.taking }
        if x = {} then none else some (e.1, x)
      tm := { s.tm with latches := [], ptp := [], cap := [], ms := {}, setAt := none }
      svc := { vacated := s.svc.vacated, msgSeq := s.svc.msgSeq, keepLog := s.svc.keepLog, rowErrs := s.svc.rowErrs,
               spareUsed := s.svc.spareUsed, repaired := s.svc.repaired, repairing := s.svc.repairing,
               lostRows := s.svc.lostRows, intLow := s.svc.intLow }
      rs := { s.rs with warm := true, released := false, restored := false }
      fc := { s.fc with op := none, arm := none, posts := [], keepOwed := false, postOwed := false, copying := false,
                        recOwed := false, stalled := [], flCmd := none, flOpen := false }
      display := s.display.filterMap fun e => if e.2.hpdOut then some (e.1, { hpdOut := true }) else none
      px := { perstIn := s.px.perstIn }
      eth := []
      lb := { breq := s.lb.breq }
      dk := {}
      mg := {} }

/-- The warm reset applies (R432, R433): units and registers as a warm reset leaves them, the custody token without `VALID`, phase
9, and VCORE at its least value or above, outside a hold (R33, R39). -/
def State.warmApply (s : State) : State :=
  let s := (s.lbQuiesce.dockReset).warmRegs.warmUnits
  let tok := s.caseNat 0 4
  ((s.setToken (tok % 2 ^ 31)).setPhase 9).when (!s.keepHold) fun s => s.vcKeep 750

/-- WARM_RESET (R388, R439, R440): a decided warm reset is carried out up to the release of the Spine-die logic. Outputs that
are held keep their levels; the dock drops its upstream connection (R521). -/
def execWarmReset (s : State) : Result := .next (if !s.rs.warm ∨ s.phase = 9 then s else s.warmApply)

/-- A spine port starts at DETECT at the retained rate (R79, R439). -/
def State.warmPort (s : State) (p : Nat) : State :=
  if s.on (SP_CFG.EN p) && s.hasJ p && s.spState p == stDisabled then s.enterState p stDetect else s

/-- An engine in service starts with its active role and `ENTRY` 3 (R359). -/
def State.warmEngine (s : State) (n : Nat) : State :=
  if !s.engUsable n || s.effRole n == 0 then s else (s.takeRole n).engStart n 3

/-- Step 6 of a warm reset (R215, R423, R439, R445): shadow Sheet banks copied, engines and ports start, units act on the active
Forme again; a warm reset in probation is a revert event. -/
def State.warmFinish (s : State) : State :=
  let s := s.each (List.range 13) fun o s => s.copyBank o
  let s := s.each (List.range 12) fun n s => s.warmEngine n
  let s := s.each (List.range 4) fun p s => s.warmPort p
  let s := (s.startBridge.sbDrive).wmReplan
  let s := s.each (List.range 2) fun d s => s.displayLockup d
  let s := s.pxLockup.dockLockup
  let s := s.each (List.range 2) fun e s => s.ethLockup e
  let s := ((s.setPhase 8).setRs fun r => { r with warm := false, released := false, restored := false }).driveInt
  s.revertTrigger 4

/-- WARM_RESET_RELEASE (R439, R449): the Spine-die logic is released, once `XRST_N` is high. -/
def execWarmResetRelease (s : State) : Result :=
  .next (if s.phase ≠ 9 ∨ s.rs.xrstLow then s
  else
    let s := s.setRs fun r => { r with released := true }
    if s.rs.restored then s.warmFinish else s)

/-- The FH fields of one register of the retained record come back (R413); those of the Keep die were kept. -/
def State.restoreReg (s : State) (a : Nat) (w : Word) : State :=
  if keepBlock a then s
  else match regAt a with
    | none => s
    | some r => s.each (r.fields.filter fun f => f.acc == .fh) fun f s => s.put ⟨a, f.hi, f.lo⟩ (wordField w f.hi f.lo)

/-- The retained record's words, post list and colophon are put back, and copied to the active registers. -/
def State.restoreRecord (s : State) (r : Retained) : State :=
  let s := s.each r.words fun e s => s.restoreReg e.1 e.2
  let s := s.setFc fun f => { f with actPosts := r.posts, actColo := r.colo }
  let s := s.each r.posts fun e s =>
    let (_, s, g) := s.mgmtWrite (.engine 0) e.1 4 e.2
    g s
  s.copyActive.setRs fun x => { x with restored := true }

/-- RETAINED_RECORD_RESTORE (R413, R433): a record with a bad CRC or marker makes the reset cold; a good one is written back, the
post list is written and the shadow copied. `crcOk` is what the check of the stored record finds. -/
def execRetainedRecordRestore (crcOk : Bool) (s : State) : Result :=
  .next (if s.phase ≠ 9 ∨ s.rs.restored then s
  else match s.fc.record with
    | some r =>
      if !s.fc.recGood ∨ !crcOk then (s.cairn srcForme false true (3 * 64)).coldReset
      else
        let t := s.restoreRecord r
        if t.rs.released then t.warmFinish else t
    | none => (s.cairn srcForme false true (3 * 64)).coldReset)

end Sys2Proof.Machine
end

