-- ==== Sys2Proof/Machine/Milestone.lean ====
section
/-! DEFINITION. The Milestone boundary (chapters 01, 03, 05, 11, 16): when it is taken, a lock-up on it, the work of each unit; the
parts of a lock-up that follow it; and a REJOIN. -/

namespace Sys2Proof.Machine

/-! ### Pace (R32 to R34) -/

/-- `FLOOR_PS` in force. -/
def State.floorPs (s : State) : Nat := max 2500 (s.get PACE_FLOOR.FLOOR_PS)

/-- The Milestone that ends enters the readings (R32): from the second boundary after a raise completed on, those of gates begun
before it are left out. -/
def Pace.boundary (p : Pace) : Pace :=
  let waits := p.waits.map fun (r, n) => (r, n + 1)
  let some' := p.thisMs != []
  { p with
    thisMs := []
    last := if some' then (p.thisMs :: p.last).take 4 else p.last
    whole := true
    count := if some' && p.whole then min 4 (p.count + 1) else p.count
    waits := waits.filter fun (_, n) => n < 2
    leftOut := (waits.filter fun (_, n) => decide (2 ≤ n)).foldl (fun m e => max m e.1) p.leftOut }

/-- The longest reading that counts; where none counts, the longest of all (notes/assumptions/77.md). -/
def Pace.longest (p : Pace) : Nat :=
  let all := p.last.foldr (· ++ ·) []
  let now := all.filter fun (e, _) => decide (p.leftOut ≤ e)
  (if now = [] then all else now).foldl (fun m e => max m e.2) 0

/-- The planning cycle is recomputed at a boundary (R32); until four complete Milestones have readings it is the floor (R33). -/
def State.paceBoundary (s : State) : State :=
  let s := s.setPace Pace.boundary
  if s.pace.count < 4 then (s.put PACE_PLAN.FLOOR 1).put PACE_PLAN.PLAN_PS s.floorPs
  else (s.put PACE_PLAN.FLOOR 0).put PACE_PLAN.PLAN_PS s.pace.longest

/-! ### Spine links (R137, R139, R140, R148, R329) -/

/-- The link engine of a port runs (R139, R376). -/
def State.linkEngine (s : State) (p : Nat) : Bool :=
  (List.range 12).any fun n => s.engLive n && s.get (ENG_STATUS.ROLE_NOW n) == 4 && s.get (ENG_STATUS.PARAM_NOW n) == p

/-- A boundary counts towards `MISS` (R139): where the partner's period is longer, only the first one at or after each of the
partner's boundaries does. -/
def State.missCounts (s : State) (p k : Nat) : Bool :=
  let other := max 1 (s.link p).pPeriod
  decide (other ≤ s.msPeriod) || k * s.msPeriod / other != (k - 1) * s.msPeriod / other

/-- A boundary that counts: one without a BEACON since the one before is missed, and enough of them make a port in OPEN dead. -/
def State.missBeacon (s : State) (p : Nat) : State :=
  if (s.link p).beacon then s.setLink p fun l => { l with beacon := false }
  else
    let s := (s.inc (LK_BEACON.MISS p)).inc (LK_BEACON.MISSED p)
    if s.lState p == lkOpen && decide (s.deadN p ≤ s.get (LK_BEACON.MISS p))
    then (s.setLState p lkDead).raise (LK_EVENT.DEAD p) else s

/-- A boundary at the link state: HELLO that stays away and beacons that stay away make the port DEAD, a fenced port sends
REJOIN, a port in OPEN for `UP_HOLD` Milestones returns to its groups. A Milestone runs from boundary to boundary (R189), so the
part of one in which the state began is none. -/
def State.linkWatch (s : State) (p k : Nat) : State :=
  let st := s.lState p
  let s := s.setLink p fun l => { l with msInState := l.msInState + 1 }
  let s :=
    if st = lkHello then
      if !(s.link p).helloSeen && decide (s.deadN p < (s.link p).msInState) then (s.setLState p lkDead).raise (LK_EVENT.DEAD p) else s
    else if st = lkFenced then s.rejoinDue p
    else if st = lkOpen ∧ s.mpFailed p ∧ max 1 (s.get (LK_CFG.UP_HOLD p)) < (s.link p).msInState then s.returnMember p
    else s
  if s.missCounts p k then s.missBeacon p else s

/-- A boundary at a port in ACTIVE: the link engine's BEACON, the link state, a link-delay request where `LINK_DELAY` is
agreed. -/
def State.linkBoundary (s : State) (p k : Nat) : State :=
  if s.spState p != stActive then s
  else
    let s := s.when (s.linkEngine p) fun s => s.sendBeacon p
    let s := s.linkWatch p k
    let id := ((s.link p).delayId + 1) % 65536
    s.when ((s.get (LK_STATE.FEAT p)).testBit 4) fun s =>
      s.setLink p fun l => { l with delayId := id, delay := l.delay ++ [{ slot := delaySlot 1 id [] [] }] }

/-! ### Lock-up (R156, R334, R378, R417, R534, R542) -/

/-- The first Forme gives the hub its identity (reset column of `ID_HUB`). -/
def State.firstIdentity (s : State) : State :=
  ((s.put ID_HUB.ID_V 1).put ID_HUB.ROLE (s.get ID_HUB.START_STBY)).put ID_HUB.HUB_ID_NOW (s.get ID_HUB.HUB_ID)

/-- The role of `HUB_ID` is taken with a new incarnation (R141, R542); the adapters leave the standby hold (R142), those but the
bridge by what the lock-up then does. -/
def State.takeHubRole (s : State) (inc : Nat) : State :=
  let id := s.get ID_HUB.HUB_ID
  let old := if s.on ID_HUB.ID_V then some s.hubId else none
  let s := (s.put ID_INC.INCARNATION inc).firstIdentity
  let r : IncRec := { roleId := id, roleInc := s.get ID_INC.INCARNATION, roleSerial := s.serial, vacated := old, hops := 64 }
  let s := s.applyInc r
  let s := s.each ((List.range 4).filter fun p => s.lState p == lkOpen) fun p s => s.sendInc p r
  let s := (s.fenceOvertaken id).helloAll.raise ID_TAKE.TAKEOVER
  s.when s.lbOn fun s => s.freeBlock 9

/-- A takeover that a lock-up asks for (R542): the incarnation of the Forme, else one above the table entry, else refused. -/
def State.takeover (s : State) : State :=
  if !s.on ID_HUB.ROLE || s.on ID_HUB.START_STBY || (s.on ID_HUB.ID_V && s.get ID_HUB.HUB_ID == s.hubId) then s
  else if s.get ID_TAKE.T_INC ≠ 0 then s.takeHubRole (s.get ID_TAKE.T_INC)
  else match s.incEntry (s.get ID_HUB.HUB_ID) with
    | some (i, _) => s.takeHubRole ((i + 1) % 65536)
    | none => s.raise ID_TAKE.TAKE_REFUSED

/-- Classes made lossless await CAPS at every spine input (R156). -/
def State.newLossless (s : State) (old : Nat) : State :=
  let new := s.get JN_CFG.LOSSLESS &&& (255 - old % 256)
  if new = 0 then s
  else
    let ps := (List.range 4).filter fun p => s.hasJ p
    let s := s.each ps fun p s => s.setJn fun j => { j with llWait := tput 0 p (tget 0 p j.llWait ||| new) j.llWait }
    (s.put JN_STATUS.LL_PENDING (s.get JN_STATUS.LL_PENDING ||| ofBits ps)).raise JN_EVENT.LL_PENDING

/-- What a lock-up may change under a Proof test of spine port or output `o` (R534). -/
def State.underTest (s : State) (o : Nat) : List Word :=
  s.reg JN_CFG :: s.reg (IMP_PORT_CFG o) :: (if o < 4 then [s.reg (SP_CFG o), s.reg (LK_CFG o)] else [])

/-- A lock-up takes place at this boundary (R417): the Forme, and what each unit does with it. -/
def State.lockup (s : State) : State :=
  let s := s.each ((List.range 12).filter fun n => s.roleMoveDue n) fun n s => s.roleMove n
  let first := !s.rs.hasForme
  let lossless := s.get JN_CFG.LOSSLESS
  let choice := s.timeChoice
  let was := (List.range 13).map fun o => s.underTest o
  let s := s.lockForme
  let s := if first then s.firstIdentity else s.takeover
  let hit (o : Nat) : Bool := s.underTest o != was.getD o []
  let s := s.abortTests fun t tgt => (t == 1 && hit (tgt / 16)) || (t == 5 && hit tgt)
  let s := s.newLossless lossless
  let s := s.each (List.range 2) fun d s => s.displayLockup d
  let s := (s.pxLockup.lbLockup).dockLockup
  let s := s.each (List.range 2) fun e s => s.ethLockup e
  let s := if s.timeChoice = choice then s else s.chooseParent
  let s := s.each (List.range 4) fun p s => s.spEnable p
  let s := s.each (List.range 12) fun n s => s.engLockup n
  let s := s.each ((List.range 12).filter fun n => s.engLive n) fun n s => s.latch n 17
  let s := s.reroute
  s.when (s.phase == 6) fun s => s.setPhase 7

/-- A role of a retired engine is to move, so a lock-up is armed for this boundary (R383). -/
def State.roleDue (s : State) : Bool := (List.range 12).any fun n => s.roleMoveDue n

/-- A lock-up that falls on this boundary takes place, or is put off (R416). -/
def State.lockupDue (s : State) (k : Nat) : State :=
  let armed := s.armDue k
  if !armed && !s.roleDue then s
  else if s.on FC_STATUS.STAGE_BUSY || s.keepOut then (if armed then s.deferArm else s)
  else s.lockup

/-! ### The boundary (R188) -/

/-- Custody vacant for `CUST_MISS` boundaries in a row is a revert event (R423). -/
def State.custodyWatch (s : State) : State :=
  let n := if s.on FC_CUSTODY.VALID then 0 else s.fc.vacant + 1
  let s := s.setFc fun f => { f with vacant := n }
  if n = max 1 (s.get FC_ENG_CFG.CUST_MISS) then s.revertTrigger 5 else s

/-- Counts that run from boundary to boundary: probation, one lowering of VCORE, the time sent to the Keep die. -/
def State.boundaryCounts (s : State) : State :=
  let s := s.when (s.on FC_STATUS.PROB) fun s => s.put FC_STATUS.PROB_LEFT (s.get FC_STATUS.PROB_LEFT - 1)
  let s := (s.custodyWatch).setPw fun p => { p with vcLowered := false }
  s.setRs fun r =>
    { r with sent := if s.keepOut then r.sent else some (s.tm.sec, s.tm.ns, s.tm.tick) }

/-- Boundary `k` is taken. -/
def State.takeBoundary (s : State) (k : Nat) : State :=
  let s := (s.setImp fun i => { i with msNum := k, msTick := s.tm.tick, taken := true }).put IMP_MS.MS_NUM k
  let s := (s.boundaryCounts.paceBoundary).lockupDue k
  let s := s.each (List.range 12) fun n s => s.engBoundary n
  let s := s.each (List.range 4) fun p s => s.linkBoundary p k
  let s := s.impBoundary k
  (s.pxMilestone.partnerDrain.lbMilestone.proofMilestone).eventMessages

/-- The boundary is taken: its number is above the last one's, and half a period has passed since (R188). -/
def State.boundaryTaken (s : State) (k : Nat) : Bool :=
  !s.imp.taken || (decide (s.imp.msNum < k) && decide (s.msPeriod * 62500 ≤ s.elapsed s.imp.msTick))

/-- MILESTONE_BOUNDARY (R187, R188, R416): a boundary of domain time passes while the Spine die runs; one not taken is
counted. -/
def execMilestoneBoundary (s : State) : Result :=
  let k := s.nowNs / (s.msPeriod * 125000)
  .next (if s.phase < 5 ∨ 8 < s.phase then s
  else if s.boundaryTaken k then s.takeBoundary k
  else ((s.inc IMP_COUNT.MS_SKIP).raise IMP_EVENT.MS_SKIP).when (s.armDue k) State.deferArm)

/-! ### What follows a lock-up (R19, R417, R540) -/

/-- The Keep-die FH fields of one register take the word of the lock-up, but for `PEN` 1 of a path that is tripped or damaged (R22,
R540). -/
def State.keepFlip (s : State) (a : Nat) : State :=
  let n := (a - 0x40100) / 0x40
  let t := State.flipReg { s with shadow := s.fc.keepFh } a
  let t : State := { t with shadow := s.shadow }
  if a = PP_CFG n ∧ n < 10 ∧ 5 ≤ s.ppState n ∧ !s.on (PP_CFG.PEN n) ∧ t.on (PP_CFG.PEN n) then
    ((t.put (PP_CFG.PEN n) 0).logKeep 26 1 0 a).raise EV_KL.KEEP_REFUSED
  else t

/-- The Keep die takes its FH fields and acts on them. -/
def State.keepApply (s : State) : State :=
  let s := s.setFc fun f => { f with keepOwed := false }
  let mine := (s.regs.map (·.1)).filter keepBlock
  let more := (s.fc.keepFh.map (·.1)).filter fun a => !mine.contains a
  let s := s.each (mine ++ more) fun a s => s.keepFlip a
  let s := (s.each (List.range 10) fun n s => s.ppEval n).selectFeed
  ((s.each (List.range 6) fun c s => s.cablePolicy c).setFc fun f => { f with keepFh := [] }).charger

/-- KEEP_FH_APPLY (R417, R540). -/
def execKeepFhApply (s : State) : Result := .next (if s.fc.keepOwed ∧ !s.keepOut then s.keepApply else s)

/-- SHADOW_COPY_DONE (R19, R417): the new shadow is a copy of the new active Forme, and stalled writes may land. -/
def execShadowCopyDone (s : State) : Result :=
  .next (if s.fc.copying then
    let s := if s.fc.keepOwed ∧ !s.keepOut then s.keepApply else s
    s.copyActive.setFc fun f => { f with copying := false }
  else s)

/-- An access that waited is made. -/
def State.runHeld (s : State) (c : Instr) : Result :=
  match c with
  | .registerWrite p a sz w => execRegisterWrite p a sz w s
  | .rcRead p a sz => execRcRead p a sz s
  | .keepAccessComplete p a w => execKeepAccessComplete p a w s
  | .pcieBarAccess bar2 ofs sz w => execPcieBarAccess bar2 ofs sz w s
  | .smbusWrite ok a w => execSmbusWrite ok a w s
  | .smbusSetAddress ok a => execSmbusSetAddress ok a s
  | .smbusRead ok => execSmbusRead ok s
  | .mtReadRequest h u => execMtReadRequest h u s
  | .mtWriteRequest h u => execMtWriteRequest h u s
  | .svcRead ch => execSvcRead ch s
  | .svcWrite ch => execSvcWrite ch s
  | .timeReadLatch p => execTimeReadLatch p s
  | .capPop p n => execCapPop p n s
  | .sofPop p => execSofPop p s
  | .load p n slot => execLoad p n slot s
  | .restart p n => execRestart p n s
  | .retire p n => execRetire p n s
  | .arm p atEn => execArm p atEn s
  | .disarm p => execDisarm p s
  | .stage p src => execStage p src s
  | .verify p src => execVerify p src s
  | .shadowReset p => execShadowReset p s
  | .commit p => execCommit p s
  | .revert p => execRevert p s
  | .mark p bank st => execMark p bank st s
  | .clrAttempts p => execClrAttempts p s
  | .flashCommand p w => execFlashCommand p w s
  | .prog p slot => execProg p slot s
  | .revoke p slot => execRevoke p slot s
  | .softWarm p key => execSoftWarm p key s
  | .softCold p key => execSoftCold p key s
  | .rstNonce p => execRstNonce p s
  | .rstRemote p w => execRstRemote p w s
  | .blockHold p b => execBlockHold p b s
  | .blockRelease p b => execBlockRelease p b s
  | .keepSleepWrite p w => execKeepSleepWrite p w s
  | .rearm p n clr => execRearm p n clr s
  | .onReq p n on => execOnReq p n on s
  | _ => .next s

/-- The state a result goes on from. -/
def Result.state (r : Result) (s : State) : State :=
  match r with
  | .next t => t
  | _ => s

/-- A waiting access is made as if none waited; those set aside meanwhile come after it, and end with a reset that it starts. -/
def State.makeHeld (s : State) (c : Instr) : State :=
  let rest := s.fc.stalled
  let s := s.setFc fun f => { f with stalled := [] }
  let t := Result.state (s.runHeld c) s
  if t.phase = s.phase then t.setFc fun f => { f with stalled := rest ++ f.stalled } else t

/-- The access is a write that stalled, not one that only waits behind another. -/
def State.wasStalled (c : Instr) : Bool :=
  match c with
  | .registerWrite _ a _ _ => hasFh (plain a.toNat)
  | .keepAccessComplete _ a (some _) => hasFh (plain a.toNat)
  | .pcieBarAccess _ _ _ (some _) | .smbusWrite _ _ _ | .mtWriteRequest _ _ | .svcWrite _ | .keepSleepWrite _ _ => true
  | _ => false

/-- SHADOW_WRITE_RELEASE (R19, R51): the copy is complete; the oldest stalled write lands in the new shadow, and the accesses
that only waited behind it follow. -/
def execShadowWriteRelease (s : State) : Result :=
  .next (if s.fc.copying then s
  else match s.fc.stalled with
    | [] => s
    | e :: t =>
      let behind := t.takeWhile fun e => !State.wasStalled e.2
      let s := s.setFc fun f => { f with stalled := t.drop behind.length }
      s.each (e :: behind) fun e u => u.when (u.phase == s.phase) fun u => u.makeHeld e.2)

/-! ### REJOIN (R133, R142) -/

/-- The adapters go into block reset with the hub in standby. -/
def State.holdAdapters (s : State) : State := s.each [4, 5, 6, 7, 8, 9] fun b s => s.holdBlock b

/-- The hub takes another ID, or none, with a newer incarnation, as a standby; HELLO goes out on every port (R142). -/
def State.rejoin (s : State) (p : Nat) (takeId : Option (Fin 2048)) (minInc : Nat) : State :=
  let next := (s.get ID_INC.INCARNATION + 1) % 65536
  let s := (s.put ID_INC.INCARNATION (if newer minInc next then minInc else next)).put ID_HUB.ROLE 1
  let s := match takeId with
    | some t => s.put ID_HUB.HUB_ID_NOW t.val
    | none => (s.put ID_HUB.ID_V 0).raise (LK_EVENT.ID_NONE p)
  let s := (s.helloAll.raise (LK_EVENT.REJOIN_RCVD p)).holdAdapters
  s.each ((List.range 4).filter fun q => s.lState q == lkHello && (s.link q).helloSeen) fun q s => s.judgeHello q true

/-- REJOIN_RX (R142): a hub with this role's ID takes a new incarnation and stands by; links that waited on its identity judge
their partner again. -/
def execRejoinRx (p : Port) (takeId : Option (Fin 2048)) (minInc : BitVec 16) (roleId : Fin 2048) (_roleInc : BitVec 16)
    (s : State) : Result :=
  .next (if s.spState p != stActive || !s.on ID_HUB.ID_V || s.hubId != roleId.val then s
  else s.rejoin p takeId minInc.toNat)

end Sys2Proof.Machine
end

