-- ==== Sys2Proof/Machine/Engine.lean ====
section
/-! DEFINITION. The Compositor instructions (R360 to R374): an engine that runs executes one instruction. A command names
the engine, the fields of the instruction, and what the check bits show meanwhile. -/

namespace Sys2Proof.Machine

/-! ### Registers, counts, fetch -/

/-- A register of an engine: g0 reads 0 (R360). -/
def State.engG (s : State) (n : Nat) (k : GReg) : Word := if k = 0 then 0 else tget 0 k.toNat (s.engine n).g

/-- Write a register of an engine: a write of g0 is ignored (R360). -/
def State.setG (s : State) (n : Nat) (k : GReg) (w : Word) : State :=
  if k = 0 then s else s.setEngine n fun e => { e with g := tput 0 k.toNat w e.g }

/-- An instruction is counted in `CYCLES` and `ENG_PERF` (R371). -/
def State.engCount (s : State) (n : Nat) : State :=
  (s.setEngine n fun e => { e with cycles := (e.cycles + 1) % 2 ^ 32 }).inc (ENG_PERF.INSTR n)

/-- An instruction completes: it is counted and the pc advances (R360). -/
def State.engDone (s : State) (n : Nat) : State := (s.engCount n).pcNext n

/-- The row of instruction SRAM that holds the word at the pc (R358). -/
def State.fetchRow (s : State) (n : Nat) : RowId :=
  ⟨1, n, (0x4000 * s.get (ENG_STATUS.RUN_BANK n) + (s.engine n).pc) / 256⟩

/-- An engine that runs executes an instruction: an uncorrectable error in the fetched word faults it with cause 5 (R380); a
corrected one counts for its row (R524). An engine that does not run executes nothing. -/
def State.engRun (s : State) (n : EngNo) (ecc : Ecc) (f : State → State) : Result :=
  .next (if s.get (ENG_STATUS.STATE n.val) ≠ 1 then s
  else match ecc with
    | .badFetch => (s.engineFault n.val 5).rowUncorrectable (s.fetchRow n.val)
    | .fixedFetch =>
      let s' := s.rowCorrected (s.fetchRow n.val)
      if s'.get (ENG_STATUS.STATE n.val) = 1 then f s' else s'
    | _ => f s)

/-- An instruction that only writes `rd`. -/
def State.engAlu (s : State) (n : EngNo) (ecc : Ecc) (rd : GReg) (v : State → Word) : Result :=
  s.engRun n ecc fun s => (s.engDone n.val).setG n.val rd (v s)

/-- An instruction of `ra` and `rb` that only writes `rd`. -/
def State.engOp3 (s : State) (n : EngNo) (ecc : Ecc) (rd ra rb : GReg) (f : Word → Word → Word) : Result :=
  s.engAlu n ecc rd fun s => f (s.engG n.val ra) (s.engG n.val rb)

/-- An instruction of `ra` and a sign-extended immediate that only writes `rd`. -/
def State.engOpI (s : State) (n : EngNo) (ecc : Ecc) (rd ra : GReg) (imm : BitVec 18) (f : Word → Word → Word) : Result :=
  s.engAlu n ecc rd fun s => f (s.engG n.val ra) (imm.signExtend 32)

/-! ### Register and immediate arithmetic (R363) -/

/-- The truth value of a comparison as a word. -/
def boolWord (b : Bool) : Word := if b then 1 else 0

/-- Unsigned division: all ones when the divisor is 0. -/
def divu (a b : Word) : Word := if b = 0 then BitVec.allOnes 32 else a / b

/-- Unsigned remainder: the dividend when the divisor is 0. -/
def remu (a b : Word) : Word := if b = 0 then a else a % b

/-- The high word of an unsigned product. -/
def mulhu (a b : Word) : Word := BitVec.ofNat 32 (a.toNat * b.toNat / 2 ^ 32)

/-- ADD (R363). -/
def execAdd (n : EngNo) (ecc : Ecc) (rd ra rb : GReg) (s : State) : Result := s.engOp3 n ecc rd ra rb fun a b => a + b
/-- SUB (R363). -/
def execSub (n : EngNo) (ecc : Ecc) (rd ra rb : GReg) (s : State) : Result := s.engOp3 n ecc rd ra rb fun a b => a - b
/-- AND (R363). -/
def execAnd (n : EngNo) (ecc : Ecc) (rd ra rb : GReg) (s : State) : Result := s.engOp3 n ecc rd ra rb fun a b => a &&& b
/-- OR (R363). -/
def execOr (n : EngNo) (ecc : Ecc) (rd ra rb : GReg) (s : State) : Result := s.engOp3 n ecc rd ra rb fun a b => a ||| b
/-- XOR (R363). -/
def execXor (n : EngNo) (ecc : Ecc) (rd ra rb : GReg) (s : State) : Result := s.engOp3 n ecc rd ra rb fun a b => a ^^^ b
/-- SLL (R363): by rb[4:0]. -/
def execSll (n : EngNo) (ecc : Ecc) (rd ra rb : GReg) (s : State) : Result :=
  s.engOp3 n ecc rd ra rb fun a b => a <<< (b.toNat % 32)
/-- SRL (R363). -/
def execSrl (n : EngNo) (ecc : Ecc) (rd ra rb : GReg) (s : State) : Result :=
  s.engOp3 n ecc rd ra rb fun a b => a >>> (b.toNat % 32)
/-- SRA (R363). -/
def execSra (n : EngNo) (ecc : Ecc) (rd ra rb : GReg) (s : State) : Result :=
  s.engOp3 n ecc rd ra rb fun a b => a.sshiftRight (b.toNat % 32)
/-- SLT (R363). -/
def execSlt (n : EngNo) (ecc : Ecc) (rd ra rb : GReg) (s : State) : Result :=
  s.engOp3 n ecc rd ra rb fun a b => boolWord (a.slt b)
/-- SLTU (R363). -/
def execSltu (n : EngNo) (ecc : Ecc) (rd ra rb : GReg) (s : State) : Result :=
  s.engOp3 n ecc rd ra rb fun a b => boolWord (a.ult b)
/-- MUL (R363). -/
def execMul (n : EngNo) (ecc : Ecc) (rd ra rb : GReg) (s : State) : Result := s.engOp3 n ecc rd ra rb fun a b => a * b
/-- MULHU (R363). -/
def execMulhu (n : EngNo) (ecc : Ecc) (rd ra rb : GReg) (s : State) : Result := s.engOp3 n ecc rd ra rb mulhu
/-- DIVU (R363). -/
def execDivu (n : EngNo) (ecc : Ecc) (rd ra rb : GReg) (s : State) : Result := s.engOp3 n ecc rd ra rb divu
/-- REMU (R363). -/
def execRemu (n : EngNo) (ecc : Ecc) (rd ra rb : GReg) (s : State) : Result := s.engOp3 n ecc rd ra rb remu

/-- A bit field instruction whose field of `w` + 1 bits at `lsb` lies within a word; for one that does not the spec states no
result: `rd` is free (notes/assumptions/61.md). -/
def State.engField (s : State) (n : EngNo) (ecc : Ecc) (rd : GReg) (lsb w : BitVec 5) (v : State → Word) : Result :=
  s.engRun n ecc fun s =>
    if lsb.toNat + w.toNat < 32 then (s.engDone n.val).setG n.val rd (v s)
    else
      let s' := s.engDone n.val
      (s'.setG n.val rd (BitVec.ofNat 32 s'.free)).usedFree

/-- BEXT (R363). -/
def execBext (n : EngNo) (ecc : Ecc) (rd ra : GReg) (lsb w : BitVec 5) (s : State) : Result :=
  s.engField n ecc rd lsb w fun s => BitVec.ofNat 32 (wordField (s.engG n.val ra) (lsb.toNat + w.toNat) lsb.toNat)

/-- BINS (R363). -/
def execBins (n : EngNo) (ecc : Ecc) (rd ra : GReg) (lsb w : BitVec 5) (s : State) : Result :=
  s.engField n ecc rd lsb w fun s =>
    setWordField (s.engG n.val rd) (lsb.toNat + w.toNat) lsb.toNat (s.engG n.val ra).toNat

/-- ADDI (R363). -/
def execAddi (n : EngNo) (ecc : Ecc) (rd ra : GReg) (imm : BitVec 18) (s : State) : Result :=
  s.engOpI n ecc rd ra imm fun a i => a + i
/-- ANDI (R363). -/
def execAndi (n : EngNo) (ecc : Ecc) (rd ra : GReg) (imm : BitVec 18) (s : State) : Result :=
  s.engOpI n ecc rd ra imm fun a i => a &&& i
/-- ORI (R363). -/
def execOri (n : EngNo) (ecc : Ecc) (rd ra : GReg) (imm : BitVec 18) (s : State) : Result :=
  s.engOpI n ecc rd ra imm fun a i => a ||| i
/-- XORI (R363). -/
def execXori (n : EngNo) (ecc : Ecc) (rd ra : GReg) (imm : BitVec 18) (s : State) : Result :=
  s.engOpI n ecc rd ra imm fun a i => a ^^^ i
/-- SLLI (R363): imm[17:5] is 0. -/
def execSlli (n : EngNo) (ecc : Ecc) (rd ra : GReg) (sh : BitVec 5) (s : State) : Result :=
  s.engAlu n ecc rd fun s => s.engG n.val ra <<< sh.toNat
/-- SRLI (R363). -/
def execSrli (n : EngNo) (ecc : Ecc) (rd ra : GReg) (sh : BitVec 5) (s : State) : Result :=
  s.engAlu n ecc rd fun s => s.engG n.val ra >>> sh.toNat
/-- SRAI (R363). -/
def execSrai (n : EngNo) (ecc : Ecc) (rd ra : GReg) (sh : BitVec 5) (s : State) : Result :=
  s.engAlu n ecc rd fun s => (s.engG n.val ra).sshiftRight sh.toNat
/-- LUI (R363): the immediate is unsigned. -/
def execLui (n : EngNo) (ecc : Ecc) (rd : GReg) (imm : BitVec 18) (s : State) : Result :=
  s.engAlu n ecc rd fun _ => imm.setWidth 32 <<< 14
/-- SLTI (R363). -/
def execSlti (n : EngNo) (ecc : Ecc) (rd ra : GReg) (imm : BitVec 18) (s : State) : Result :=
  s.engOpI n ecc rd ra imm fun a i => boolWord (a.slt i)

/-! ### Memory (R354, R355, R363, R373) -/

/-- What an engine address names (R354). -/
inductive EngPlace
  | sram (ofs : Nat)
  | caseMem (ofs : Nat)
  | mgmt (a : Nat)
  | nothing
  deriving DecidableEq, Repr

/-- The engine's memory map (R354). -/
def engPlace (a : Nat) : EngPlace :=
  if a < 0x8000 then .sram a
  else if 0x100000 ≤ a ∧ a < 0x200000 then .caseMem (a - 0x100000)
  else if 0x10000000 ≤ a ∧ a < 0x14000000 then .mgmt (a - 0x10000000)
  else if 0x14000000 ≤ a ∧ a < 0x18000000 then .mgmt (0x80000000 + (a - 0x14000000))
  else .nothing

/-- An access that a USER engine may not make (R373). -/
def State.userDenied (s : State) (n : Nat) (pl : EngPlace) (write : Bool) : Bool :=
  s.get (ENG_STATUS.ROLE_NOW n) == 6 && (match pl with
    | .sram _ => false
    | .caseMem o => write && !decide (0x30000 ≤ o ∧ o < 0x50000)
    | .mgmt a => !(a / 0x10000 == 6 || a / 0x10000 == 7 || a / 0x10000 == 0x38)
    | .nothing => true)

/-- The cause with which an access of `k` bytes faults (R354, R355, R363, R373): 2 misaligned, 3 access fault; which of the
two where both hold is free (notes/assumptions/62.md). -/
def State.engCheck (s : State) (n a k : Nat) (write : Bool) : Option Nat × State :=
  let pl := engPlace a
  let acc := pl == .nothing || s.userDenied n pl write
  let mis := a % k != 0 && (match pl with | .mgmt _ => false | _ => true)
  if acc && mis then (some (2 + s.free % 2), s.usedFree)
  else if acc then (some 3, s)
  else if mis then (some 2, s)
  else (none, s)

/-- `MSTAT` (R371): the status of a failed management access. -/
def State.setMstat (s : State) (n st : Nat) : State := s.setEngine n fun e => { e with mstat := st }

/-- The row of an engine's data SRAM and of Case memory that holds an offset (R358). -/
def sramRow (n ofs : Nat) : RowId := ⟨1, n, 2 ^ 15 + ofs / 256⟩
def caseRow (ofs : Nat) : RowId := ⟨1, 16 + ofs / 0x10000, ofs % 0x10000 / 256⟩

/-- A load of memory: an uncorrectable error in the loaded word faults the engine (causes 6 and 8); a corrected one counts
for its row (R380, R524). -/
def State.engLoaded (s : State) (n : Nat) (ecc : Ecc) (row : RowId) (cause : Nat) (f : State → State) : State :=
  match ecc with
  | .badData => (s.engineFault n cause).rowUncorrectable row
  | .fixedData =>
    let s' := s.rowCorrected row
    if s'.get (ENG_STATUS.STATE n) = 1 then f s' else s'
  | _ => f s

/-- A load of `k` bytes into `rd`. A management load behind a stalled access of the engine's path does not complete (R51). -/
def State.engLoadFrom (n : EngNo) (ecc : Ecc) (rd : GReg) (k : Nat) (s : State) (a : Word) : State :=
  match s.engCheck n.val a.toNat k false with
  | (some c, s) => s.engineFault n.val c
  | (none, s) =>
    match engPlace a.toNat with
    | .sram o => s.engLoaded n.val ecc (sramRow n.val o) 6 fun s =>
        (s.engDone n.val).setG n.val rd (BitVec.ofNat 32 (leNat (memBytes s.engSram (0x8000 * n.val + o) k)))
    | .caseMem o => s.engLoaded n.val ecc (caseRow o) 8 fun s =>
        let (v, s) := s.caseRead o k
        (s.engDone n.val).setG n.val rd (BitVec.ofNat 32 v)
    | .mgmt b =>
      if k ≠ 4 ∨ b % 4 ≠ 0 then ((s.engDone n.val).setG n.val rd 0).setMstat n.val 1
      else if s.behind (.engine n) then s
      else
        let s := s.engDone n.val
        let (st, w, s) := s.mgmtRead (.engine n) b 4
        if st = 0 then s.setG n.val rd w else (s.setG n.val rd 0).setMstat n.val st
    | .nothing => s

/-- A store of the low `k` bytes of `w`. A management store that waits for the copy of a lock-up does not complete: the
instruction stays (R19, R355). -/
def State.engStoreTo (n : EngNo) (k : Nat) (w : Word) (s : State) (a : Word) : State :=
  match s.engCheck n.val a.toNat k true with
  | (some c, s) => s.engineFault n.val c
  | (none, s) =>
    match engPlace a.toNat with
    | .sram o => { s.engDone n.val with engSram := memWrite s.engSram (0x8000 * n.val + o) (leBytes k w.toNat) }
    | .caseMem o => (s.engDone n.val).caseWrite o k (w.toNat % 2 ^ (8 * k))
    | .mgmt b =>
      if k ≠ 4 ∨ b % 4 ≠ 0 then (s.engDone n.val).setMstat n.val 1
      else if s.accessWaits (.engine n) b then s
      else
        let (st, s, g) := (s.engDone n.val).mgmtWrite (.engine n) b 4 w
        if st = 0 then g s else (g s).setMstat n.val st
    | .nothing => s

/-- The address of a load or store. -/
def State.engAddr (s : State) (n : EngNo) (ra : GReg) (imm : BitVec 18) : Word := s.engG n.val ra + imm.signExtend 32

/-- LW (R363). -/
def execLw (n : EngNo) (ecc : Ecc) (rd ra : GReg) (imm : BitVec 18) (s : State) : Result :=
  s.engRun n ecc fun s => State.engLoadFrom n ecc rd 4 s (s.engAddr n ra imm)
/-- LHU (R363). -/
def execLhu (n : EngNo) (ecc : Ecc) (rd ra : GReg) (imm : BitVec 18) (s : State) : Result :=
  s.engRun n ecc fun s => State.engLoadFrom n ecc rd 2 s (s.engAddr n ra imm)
/-- LBU (R363). -/
def execLbu (n : EngNo) (ecc : Ecc) (rd ra : GReg) (imm : BitVec 18) (s : State) : Result :=
  s.engRun n ecc fun s => State.engLoadFrom n ecc rd 1 s (s.engAddr n ra imm)
/-- SW (R363). -/
def execSw (n : EngNo) (ecc : Ecc) (rd ra : GReg) (imm : BitVec 18) (s : State) : Result :=
  s.engRun n ecc fun s => State.engStoreTo n 4 (s.engG n.val rd) s (s.engAddr n ra imm)
/-- SH (R363). -/
def execSh (n : EngNo) (ecc : Ecc) (rd ra : GReg) (imm : BitVec 18) (s : State) : Result :=
  s.engRun n ecc fun s => State.engStoreTo n 2 (s.engG n.val rd) s (s.engAddr n ra imm)
/-- SB (R363). -/
def execSb (n : EngNo) (ecc : Ecc) (rd ra : GReg) (imm : BitVec 18) (s : State) : Result :=
  s.engRun n ecc fun s => State.engStoreTo n 1 (s.engG n.val rd) s (s.engAddr n ra imm)

/-- CAS (R365): an address that is not an aligned one in Case memory, or that a USER engine may not write (R373), faults. -/
def execCas (n : EngNo) (ecc : Ecc) (rd ra rb : GReg) (s : State) : Result :=
  s.engRun n ecc fun s =>
    let a := (s.engG n.val ra).toNat
    match engPlace a with
    | .caseMem o =>
      if a % 4 ≠ 0 ∨ s.userDenied n.val (.caseMem o) true then s.engineFault n.val 3
      else s.engLoaded n.val ecc (caseRow o) 8 fun s =>
        let (old, s) := s.caseRead o 4
        let same := old == (s.engG n.val rd).toNat
        let w := (s.engG n.val rb).toNat
        let s := (s.engDone n.val).setG n.val rd (BitVec.ofNat 32 old)
        if same then s.caseWrite o 4 w else s
    | _ => s.engineFault n.val 3

/-- FENCE (R356): the stores of this model are complete when they issue. -/
def execFence (n : EngNo) (ecc : Ecc) (s : State) : Result := s.engRun n ecc fun s => s.engDone n.val

/-! ### Control flow (R360, R363, R364) -/

/-- A branch condition of `ra`; `none` for a reserved one. -/
def condHolds (c : BitVec 4) (a : Word) : Option Bool :=
  match c.toNat with
  | 0 => some true
  | 1 => some (a == 0)
  | 2 => some (a != 0)
  | 3 => some (a.slt 0)
  | 4 => some (!a.slt 0)
  | 5 => some (!a.slt 0 && a != 0)
  | 6 => some (a.slt 0 || a == 0)
  | _ => none

/-- A jump to a byte address: outside the bank or not a multiple of 4 it is an access fault, and the engine links
nothing. -/
def State.engJump (s : State) (n : Nat) (link : GReg) (t : Int) : State :=
  if 0 ≤ t ∧ t ≤ 0x3FFC ∧ t % 4 = 0 then
    let pc := (s.engine n).pc
    ((s.engCount n).setG n link (BitVec.ofNat 32 (pc + 4))).setEngine n fun e => { e with pc := t.toNat }
  else s.engineFault n 3

/-- A branch, with a link register or g0 for none. -/
def State.engBranch (s : State) (n : Nat) (link : GReg) (c : BitVec 4) (ra : GReg) (off : BitVec 18) : State :=
  match condHolds c (s.engG n ra) with
  | none => s.engineFault n 1
  | some false => s.engDone n
  | some true => s.engJump n link ((s.engine n).pc + off.toInt * 4)

/-- JALR (R363). -/
def execJalr (n : EngNo) (ecc : Ecc) (rd ra : GReg) (imm : BitVec 18) (s : State) : Result :=
  s.engRun n ecc fun s => s.engJump n.val rd ((s.engG n.val ra + imm.signExtend 32 * 4).toNat : Int)

/-- B (R363, R364). -/
def execB (n : EngNo) (ecc : Ecc) (c : BitVec 4) (ra : GReg) (off : BitVec 18) (s : State) : Result :=
  s.engRun n ecc fun s => s.engBranch n.val 0 c ra off

/-- BAL (R363, R364): links into g15. -/
def execBal (n : EngNo) (ecc : Ecc) (c : BitVec 4) (ra : GReg) (off : BitVec 18) (s : State) : Result :=
  s.engRun n ecc fun s => s.engBranch n.val 15 c ra off

/-! ### Mailboxes and events (R366, R367) -/

/-- SEND (R366). -/
def execSend (n : EngNo) (ecc : Ecc) (rd ra rb : GReg) (tgt mbx : BitVec 4) (s : State) : Result :=
  s.engRun n ecc fun s =>
    let (st, s') := s.sendMail tgt.toNat mbx.toNat (s.engG n.val ra, s.engG n.val rb)
    (s'.engDone n.val).setG n.val rd (BitVec.ofNat 32 st)

/-- Take the oldest message of a mailbox into `rd` and `rd` + 1; nothing where it is empty. -/
def State.takeMail (s : State) (n rd mbx : Nat) : Option State :=
  match tget [] mbx (s.engine n).mail with
  | [] => none
  | (w0, w1) :: rest =>
    let s := s.setEngine n fun e => { e with mail := tput [] mbx rest e.mail, waiting := none }
    let s := s.put (ENG_MBX_STAT.NONEMPTY n)
      (if rest = [] then s.get (ENG_MBX_STAT.NONEMPTY n) - 2 ^ mbx else s.get (ENG_MBX_STAT.NONEMPTY n))
    some (((s.engDone n).setG n (BitVec.ofNat 4 rd) w0).setG n (BitVec.ofNat 4 (rd + 1)) w1)

/-- The engine waits (R366, R367). -/
def State.engWait (s : State) (n : Nat) (w : EngWait) : State :=
  (s.setEngine n fun e => { e with waiting := some w }).put (ENG_STATUS.STATE n) 2

/-- RECV (R366): rd is even and from g2 to g14. -/
def execRecv (n : EngNo) (ecc : Ecc) (rd : GReg) (mbx : BitVec 4) (s : State) : Result :=
  s.engRun n ecc fun s =>
    if !recvReg rd then s.engineFault n.val 1
    else match s.takeMail n.val rd.toNat mbx.toNat with
      | some s' => s'
      | none => s.engWait n.val (.recv rd.toNat mbx.toNat)

/-- The event word of an engine (R367). -/
def State.engEvents (s : State) (n : Nat) : Nat :=
  s.get (ENG_MBX_STAT.NONEMPTY n) ||| s.get (ENG_STATUS.SW_PEND n) * 2 ^ 19 ||| (s.engine n).latch

/-- The selected events go to `rd`; latched bits among them are cleared. -/
def State.takeEvents (s : State) (n : Nat) (rd : GReg) (r : Nat) : State :=
  let s := s.setEngine n fun e => { e with latch := e.latch ^^^ (e.latch &&& r), waiting := none }
  (s.engDone n).setG n rd (BitVec.ofNat 32 r)

/-- WAIT (R367). -/
def execWait (n : EngNo) (ecc : Ecc) (rd ra : GReg) (s : State) : Result :=
  s.engRun n ecc fun s =>
    let mask := (s.engG n.val ra).toNat
    let r := s.engEvents n.val &&& mask
    if r ≠ 0 ∨ mask = 0 then s.takeEvents n.val rd r else s.engWait n.val (.event rd.toNat mask)

/-- RECV_WAKE (R366): a message is there for an engine that waits in RECV. -/
def execRecvWake (n : EngNo) (s : State) : Result :=
  .next (match (s.engine n.val).waiting with
    | some (.recv rd mbx) =>
      match s.takeMail n.val rd mbx with
      | some s' => s'.put (ENG_STATUS.STATE n.val) 1
      | none => s
    | _ => s)

/-- WAIT_WAKE (R367): a selected event is there for an engine that waits in WAIT. -/
def execWaitWake (n : EngNo) (s : State) : Result :=
  .next (match (s.engine n.val).waiting with
    | some (.event rd mask) =>
      let r := s.engEvents n.val &&& mask
      if r ≠ 0 then (s.takeEvents n.val (BitVec.ofNat 4 rd) r).put (ENG_STATUS.STATE n.val) 1 else s
    | _ => s)

/-- YIELD (R372, R374, R378). -/
def execYield (n : EngNo) (ecc : Ecc) (s : State) : Result := s.engRun n ecc fun s => (s.engCount n.val).engYield n.val

/-- KICK (R379). -/
def execKick (n : EngNo) (ecc : Ecc) (s : State) : Result :=
  s.engRun n ecc fun s => (s.engDone n.val).setEngine n.val fun e => { e with wdtAt := s.tm.tick }

/-! ### Tables, hashes, checksums, time (R368 to R370) -/

/-- A word of the table descriptors: `TBL_BASE_d` at 2 d, `TBL_SHAPE_d` at 2 d + 1 (R371). -/
def State.engTbl (s : State) (n k : Nat) : Word := tget 0 k (s.engine n).tbl

/-- TBL (R368). -/
def execTbl (n : EngNo) (ecc : Ecc) (rd ra rb : GReg) (d : BitVec 3) (s : State) : Result :=
  s.engRun n ecc fun s =>
    let base := s.engTbl n.val (2 * d.toNat)
    let shape := s.engTbl n.val (2 * d.toNat + 1)
    let a := s.engG n.val ra
    let b := s.engG n.val rb
    let size := wordField shape 15 0
    if wordField shape 31 16 ≤ a.toNat ∨ size ≤ b.toNat then s.engineFault n.val 4
    else (s.engDone n.val).setG n.val rd (BitVec.ofNat 32 (0x100000 + wordField base 19 0 + a.toNat * size + b.toNat))

/-- HASH (R369). -/
def execHash (n : EngNo) (ecc : Ecc) (rd ra rb : GReg) (sel : BitVec 1) (s : State) : Result :=
  s.engAlu n ecc rd fun s =>
    let a := beBytes 4 (s.engG n.val ra).toNat
    let b := beBytes 4 (s.engG n.val rb).toNat
    BitVec.ofNat 32 (if sel = 0 then crc8 (b.drop 3 ++ a) else crc32c (b ++ a))

/-- The checksum register after bytes (R369): CRC-32C reflected, CRC-16, CRC-8, without final XOR. -/
def crcRun (alg : Nat) (r : Nat) (bs : List Byte) : Nat :=
  if alg = 0 then bs.foldl (crc32Byte 0x82F63B78) r
  else if alg = 1 then crcBytes 16 0x1021 (r % 2 ^ 16) bs
  else crcBytes 8 0x07 (r % 2 ^ 8) bs

/-- The checksum over a range goes to `rd`; a length above 4,096 has no stated result, and bytes of the retained record are
free: `rd` is free there. -/
def State.engCrc (s : State) (n : Nat) (rd : GReg) (known : Bool) (v : Nat) : State :=
  if known then (s.engDone n).setG n rd (BitVec.ofNat 32 v)
  else
    let s' := s.engDone n
    (s'.setG n rd (BitVec.ofNat 32 s'.free)).usedFree

/-- CRC (R369): over data SRAM or Case memory; the range lies wholly within one of them or the engine takes an access
fault. -/
def execCrc (n : EngNo) (ecc : Ecc) (rd ra rb : GReg) (alg : BitVec 2) (s : State) : Result :=
  s.engRun n ecc fun s =>
    let a := (s.engG n.val ra).toNat
    let len := (s.engG n.val rb).toNat
    let r := (s.engG n.val rd).toNat
    if alg = 3 then s.engineFault n.val 1
    else match engPlace a with
      | .sram o =>
        if 0x8000 < o + len then s.engineFault n.val 3
        else s.engLoaded n.val ecc (sramRow n.val o) 6 fun s =>
          s.engCrc n.val rd (decide (len ≤ 4096)) (crcRun alg.toNat r (memBytes s.engSram (0x8000 * n.val + o) (min len 4096)))
      | .caseMem o =>
        if 0x100000 < o + len then s.engineFault n.val 3
        else s.engLoaded n.val ecc (caseRow o) 8 fun s =>
          s.engCrc n.val rd (decide (len ≤ 4096 ∧ (o + len ≤ 0xF0000 ∨ 0xF8000 ≤ o)))
            (crcRun alg.toNat r (memBytes s.caseMem o (min len 4096)))
      | _ => s.engineFault n.val 3

/-- TIME (R370): a read of the nanoseconds latches the rest of the instant for this engine. -/
def execTime (n : EngNo) (ecc : Ecc) (rd : GReg) (sel : BitVec 2) (s : State) : Result :=
  s.engRun n ecc fun s =>
    let s' := s.engDone n.val
    let (sec, frac) := (s.engine n.val).latched
    match sel.toNat with
    | 0 => (s'.setG n.val rd (BitVec.ofNat 32 s.tm.ns)).setEngine n.val fun e =>
        { e with latched := (s.tm.sec, s.tm.frac / 2 ^ 16) }
    | 1 => s'.setG n.val rd (BitVec.ofNat 32 sec)
    | 2 => s'.setG n.val rd (BitVec.ofNat 32 (sec / 2 ^ 32 * 2 ^ 16 + frac))
    | _ => s'.setG n.val rd (BitVec.ofNat 32 (s.get IMP_MS.MS_NUM))

/-! ### CSRs (R371) -/

/-- The nanoseconds left on the timer. -/
def State.timerLeft (s : State) (n : Nat) : Nat := match (s.engine n).timer with | none => 0 | some t => t - s.nowNs

/-- A CSR as CSRR reads it. -/
def State.csrRead (s : State) (n k : Nat) : Nat :=
  match k with
  | 0 => n + s.get (ENG_STATUS.ROLE_NOW n) * 16 + s.get (ENG_STATUS.PARAM_NOW n) * 256
  | 1 => s.get (ENG_STATUS.ENTRY n)
  | 2 => (s.engine n).lastFault
  | 3 => (s.engine n).mstat
  | 4 => s.engEvents n
  | 5 => s.timerLeft n
  | 6 => (s.engine n).cycles
  | 7 => s.get (ENG_STATUS.RUN_BANK n) + s.get (ENG_ROLE.BANK_SEL n) * 2
  | _ => (s.engTbl n (k - 16)).toNat

/-- A CSR as CSRW writes it: a write of a read-only CSR is ignored (notes/assumptions/63.md). -/
def State.csrWrite (s : State) (n k : Nat) (w : Word) : State :=
  if k = 3 then s.setMstat n 0
  else if k = 5 then s.setEngine n fun e => { e with timer := if w = 0 then none else some (s.nowNs + w.toNat) }
  else if 16 ≤ k then
    s.setEngine n fun e => { e with tbl := tput 0 (k - 16) (if k % 2 = 0 then w &&& 0xFFFFF else w) e.tbl }
  else s

/-- CSRR (R371). -/
def execCsrr (n : EngNo) (ecc : Ecc) (rd : GReg) (csr : BitVec 8) (s : State) : Result :=
  s.engRun n ecc fun s =>
    if csrKnown csr.toNat then (s.engDone n.val).setG n.val rd (BitVec.ofNat 32 (s.csrRead n.val csr.toNat))
    else s.engineFault n.val 1

/-- CSRW (R371). -/
def execCsrw (n : EngNo) (ecc : Ecc) (ra : GReg) (csr : BitVec 8) (s : State) : Result :=
  s.engRun n ecc fun s =>
    if csrKnown csr.toNat then (s.engDone n.val).csrWrite n.val csr.toNat (s.engG n.val ra)
    else s.engineFault n.val 1

/-- ILLEGAL_OP (R362): a word that spells no instruction has no effect and faults the engine. -/
def execIllegalOp (n : EngNo) (ecc : Ecc) (w : Word) (s : State) : Result :=
  s.engRun n ecc fun s => if decodeEngine n ecc w = none then s.engineFault n.val 1 else s

end Sys2Proof.Machine
end

