-- ==== Sys2Proof/Machine/Jtag.lean ====
section
/-! DEFINITION. The test access port (R558): its instructions, the identification register and the boundary-scan register,
whose cells follow the ball rows of R554. -/

namespace Sys2Proof.Machine

/-- The scanned pins of a ball row, from column 4 upwards: how many in succession, and whether each has an output-enable cell
beside its data cell (R554, R557). The test port's own pins have no cells (notes/assumptions/53.md). -/
def bsrRuns : List (Nat × Bool) :=
  -- row F: LB_AD_0 to LB_AD_15, LB_CLK, five strobes, LB_RDY_N and LB_ERR_N; LB_BREQ_N; LB_BGNT_N, LB_CS_0_N, LB_CS_1_N
  [(24, true), (1, false), (3, true),
  -- row G: LB_CS_2_N, LB_CS_3_N; SB_IN_0 to SB_IN_15; WM_0 to WM_7; REFCLK_25
   (2, true), (16, false), (8, true), (1, false),
  -- row H: SB_OUT_0 to SB_OUT_15; CAP_0 to CAP_7; INT_N, SMB_SCL, SMB_SDA
   (16, true), (8, false), (3, true),
  -- row J: FL_CLK, FL_CS_N, FL_IO_0 to FL_IO_7, FL_DQS, FL_RST_N; PE_PERST_N; PE_PERST_IN_N; UH_PWR_1 to 4; UH_OC_1_N to 4
   (12, true), (1, true), (1, false), (4, true), (4, false),
  -- row K: capture and Platen HPD of DA0 and of DA1
   (1, true), (1, false), (1, true), (1, false)]

/-- Cells of the boundary-scan register. -/
def bsrLength : Nat := bsrRuns.foldl (fun n r => n + (if r.2 then 2 * r.1 else r.1)) 0

/-- A list of cells cut or padded to the register's length. -/
def bsrFit (l : List Bool) : List Bool := (List.range bsrLength).map fun i => l.getD i false

def State.setTap (s : State) (g : Tap → Tap) : State := { s with tap := g s.tap }

/-- What an instruction makes of the scanned pins: EXTEST and CLAMP drive them from the boundary-scan register, HIGHZ floats
them, every other leaves them in mission function. -/
def State.tapPins (s : State) (ir : Nat) : State :=
  if ir = 0 ∨ ir = 4 then s.emit (.tapDrive (bsrFit s.tap.bsr))
  else if ir = 5 then s.emit .tapFloat
  else s.emit .tapMission

/-- An instruction is loaded; without effect while `TRST_N` holds the port in test-logic reset. -/
def State.tapLoad (s : State) (ir : Nat) : State :=
  if s.tap.held then s else (s.setTap fun t => { t with ir }).tapPins ir

/-- The identification register. -/
def State.idcode (s : State) : Nat :=
  s.get ID_DEVICE.STEP_MAJOR * 2 ^ 28 + 0x4816 * 2 ^ 12 + s.rs.maker % 2 ^ 11 * 2 + 1

/-- The lowest `k` bits of a number, least significant first, as shifted out. -/
def shiftBits (n k : Nat) : List Bool := (List.range k).map fun i => n.testBit i

/-- JTAG_EXTEST: the pins are driven from the boundary-scan register. -/
def execJtagExtest (s : State) : Result := .next (s.tapLoad 0)

/-- JTAG_IDCODE: the identification register is selected and shifted out. -/
def execJtagIdcode (s : State) : Result :=
  .next (if s.tap.held then s else (s.tapLoad 1).emit (.tapShift (shiftBits s.idcode 32)))

/-- JTAG_SAMPLE_PRELOAD: the levels of the pins are sampled and shifted out, and the register is preloaded. -/
def execJtagSamplePreload (pins data : List Bool) (s : State) : Result :=
  .next (if s.tap.held then s
  else ((s.tapLoad 2).emit (.tapShift (bsrFit pins))).setTap fun t => { t with bsr := bsrFit data })

/-- JTAG_CLAMP: the pins keep the boundary-scan register's values while the bypass register is selected. -/
def execJtagClamp (s : State) : Result := .next (s.tapLoad 4)

/-- JTAG_HIGHZ: the scanned pins float. -/
def execJtagHighz (s : State) : Result := .next (s.tapLoad 5)

/-- JTAG_BYPASS: BYPASS or any code without an instruction of its own; the bypass register is selected. -/
def execJtagBypass (code : Fin 16) (s : State) : Result :=
  .next (if code.val ∈ [0, 1, 2, 4, 5] then s else s.tapLoad code.val)

/-- JTAG_TRST: `TRST_N` falls, which resets the test logic to IDCODE with every pin in mission function, or rises. -/
def execJtagTrst (low : Bool) (s : State) : Result :=
  .next (if low then (s.setTap fun t => { t with ir := 1, held := true }).emit .tapMission
  else s.setTap fun t => { t with held := false })

end Sys2Proof.Machine
end

