-- ==== Sys2Proof/Machine/Dispatch.lean ====
section
/-! DEFINITION. The effect of every command: one direct call of its meaning. -/

namespace Sys2Proof.Machine

def exec (i : Instr) (s : State) : Host.Outcome State Fault Refusal :=
  match i with
  | .registerWrite p a sz w => Sys2Proof.Machine.execRegisterWrite p a sz w s
  | .rcRead p a sz => Sys2Proof.Machine.execRcRead p a sz s
  | .shadowWriteRelease => Sys2Proof.Machine.execShadowWriteRelease s
  | .pcieBarAccess bar2 ofs sz w => Sys2Proof.Machine.execPcieBarAccess bar2 ofs sz w s
  | .smbusWrite pecOk a w => Sys2Proof.Machine.execSmbusWrite pecOk a w s
  | .smbusSetAddress pecOk a => Sys2Proof.Machine.execSmbusSetAddress pecOk a s
  | .smbusRead pecOk => Sys2Proof.Machine.execSmbusRead pecOk s
  | .mtReadRequest src u => Sys2Proof.Machine.execMtReadRequest src u s
  | .mtWriteRequest src u => Sys2Proof.Machine.execMtWriteRequest src u s
  | .mtReply src u => Sys2Proof.Machine.execMtReply src u s
  | .mtTimeout tag => Sys2Proof.Machine.execMtTimeout tag s
  | .keepAccessComplete p a w => Sys2Proof.Machine.execKeepAccessComplete p a w s
  | .keepHoldEnter => Sys2Proof.Machine.execKeepHoldEnter s
  | .klLost => Sys2Proof.Machine.execKlLost s
  | .keepHoldLeave => Sys2Proof.Machine.execKeepHoldLeave s
  | .custodyLimit => Sys2Proof.Machine.execCustodyLimit s
  | .custodyEscalation => Sys2Proof.Machine.execCustodyEscalation s
  | .milestoneBoundary => Sys2Proof.Machine.execMilestoneBoundary s
  | .keepFhApply => Sys2Proof.Machine.execKeepFhApply s
  | .postListWrite => Sys2Proof.Machine.execPostListWrite s
  | .shadowCopyDone => Sys2Proof.Machine.execShadowCopyDone s
  | .retainedRecordWrite => Sys2Proof.Machine.execRetainedRecordWrite s
  | .sheetFlip o => Sys2Proof.Machine.execSheetFlip o s
  | .bankCopyDone o => Sys2Proof.Machine.execBankCopyDone o s
  | .sheetBankWrite o b ix w => Sys2Proof.Machine.execSheetBankWrite o b ix w s
  | .sealSheet o => Sys2Proof.Machine.execSeal o s
  | .admissionWindowEnd => Sys2Proof.Machine.execAdmissionWindowEnd s
  | .paceGate low high => Sys2Proof.Machine.execPaceGate low high s
  | .vcoreRaiseRequest n mv => Sys2Proof.Machine.execVcoreRaiseRequest n mv s
  | .vcoreLowerRequest n => Sys2Proof.Machine.execVcoreLowerRequest n s
  | .thermalFloorRaise tj => Sys2Proof.Machine.execThermalFloorRaise tj s
  | .pmbusTransactionDone ok mv => Sys2Proof.Machine.execPmbusTransactionDone ok mv s
  | .pmbAlert status => Sys2Proof.Machine.execPmbAlert status s
  | .fckLoss p => Sys2Proof.Machine.execFckLoss p s
  | .fckLocked p rate => Sys2Proof.Machine.execFckLocked p rate s
  | .lanesLocked p good partFast => Sys2Proof.Machine.execLanesLocked p good partFast s
  | .equalizeDone p pperm => Sys2Proof.Machine.execEqualizeDone p pperm s
  | .alignDone p => Sys2Proof.Machine.execAlignDone p s
  | .trainingTimeout p rxClean txClean pperm => Sys2Proof.Machine.execTrainingTimeout p rxClean txClean pperm s
  | .holdoffExpiry p => Sys2Proof.Machine.execHoldoffExpiry p s
  | .trainingBlockRx p k b margin ask => Sys2Proof.Machine.execTrainingBlockRx p k b margin ask s
  | .tapRequestTimeout p k => Sys2Proof.Machine.execTapRequestTimeout p k s
  | .amReceive p k m rxBip margin skew pauseNs => Sys2Proof.Machine.execAmReceive p k m rxBip margin skew pauseNs s
  | .swapRequestRx p k => Sys2Proof.Machine.execSwapRequestRx p k s
  | .swapBlockRx p k => Sys2Proof.Machine.execSwapBlockRx p k s
  | .swapPauseEnd p => Sys2Proof.Machine.execSwapPauseEnd p s
  | .readmitRequestRx p k => Sys2Proof.Machine.execReadmitRequestRx p k s
  | .testEnter p => Sys2Proof.Machine.execTestEnter p s
  | .testExit p => Sys2Proof.Machine.execTestExit p s
  | .retrain p => Sys2Proof.Machine.execRetrain p s
  | .force p k => Sys2Proof.Machine.execForce p k s
  | .clear p k => Sys2Proof.Machine.execClear p k s
  | .injGo p k => Sys2Proof.Machine.execInjGo p k s
  | .txSlot x => Sys2Proof.Machine.execTxSlot x s
  | .localWalkerSlot o => Sys2Proof.Machine.execLocalWalkerSlot o s
  | .dataFrameRx p f ecc => Sys2Proof.Machine.execDataFrameRx p f ecc s
  | .ackUpdateDue p => Sys2Proof.Machine.execAckUpdateDue p s
  | .retryReqExpiry p => Sys2Proof.Machine.execRetryReqExpiry p s
  | .ackTimeout p ecc => Sys2Proof.Machine.execAckTimeout p ecc s
  | .linkSilence p => Sys2Proof.Machine.execLinkSilence p s
  | .creditFrameDue p => Sys2Proof.Machine.execCreditFrameDue p s
  | .creditFrameRx p ret => Sys2Proof.Machine.execCreditFrameRx p ret s
  | .capabilityRecordRx p slot => Sys2Proof.Machine.execCapabilityRecordRx p slot s
  | .seqStateExpiry p => Sys2Proof.Machine.execSeqStateExpiry p s
  | .linkDelayRequestRx p id ta arrived => Sys2Proof.Machine.execLinkDelayRequestRx p id ta arrived s
  | .linkDelayResponseRx p id ta tb tc arrived => Sys2Proof.Machine.execLinkDelayResponseRx p id ta tb tc arrived s
  | .helloRx p h port deadN period => Sys2Proof.Machine.execHelloRx p h port deadN period s
  | .beaconRx p h msSec msNs => Sys2Proof.Machine.execBeaconRx p h msSec msNs s
  | .incarnationRx p roleId roleInc roleSerial vacated hops => Sys2Proof.Machine.execIncarnationRx p roleId roleInc roleSerial vacated hops s
  | .directedIncarnationRx p roleId roleInc roleSerial => Sys2Proof.Machine.execDirectedIncarnationRx p roleId roleInc roleSerial s
  | .rejoinRx p takeId minInc roleId roleInc => Sys2Proof.Machine.execRejoinRx p takeId minInc roleId roleInc s
  | .narrowRx p lane => Sys2Proof.Machine.execNarrowRx p lane s
  | .widthChange p => Sys2Proof.Machine.execWidthChange p s
  | .readmit p => Sys2Proof.Machine.execReadmit p s
  | .memberFail p => Sys2Proof.Machine.execMemberFail p s
  | .mpHoldExpiry p => Sys2Proof.Machine.execMpHoldExpiry p s
  | .cellArrival ix c => Sys2Proof.Machine.execCellArrival ix c s
  | .heldCellAccept ix => Sys2Proof.Machine.execHeldCellAccept ix s
  | .matchCycle ecc => Sys2Proof.Machine.execMatchCycle ecc s
  | .drainEnd p => Sys2Proof.Machine.execDrainEnd p s
  | .admitRx src m => Sys2Proof.Machine.execAdmitRx src m s
  | .grantRx src m => Sys2Proof.Machine.execGrantRx src m s
  | .refuseRx src m => Sys2Proof.Machine.execRefuseRx src m s
  | .releaseRx src m => Sys2Proof.Machine.execReleaseRx src m s
  | .revokeRx src m => Sys2Proof.Machine.execRevokeRx src m s
  | .giveRx src m => Sys2Proof.Machine.execGiveRx src m s
  | .givenRx src m => Sys2Proof.Machine.execGivenRx src m s
  | .admissionTimeout r => Sys2Proof.Machine.execAdmissionTimeout r s
  | .ringAdmit => Sys2Proof.Machine.execRingAdmit s
  | .ringRelease => Sys2Proof.Machine.execRingRelease s
  | .ringGive => Sys2Proof.Machine.execRingGive s
  | .captureFrameStart d w h vnom bpc lrate crc sdps => Sys2Proof.Machine.execCaptureFrameStart d w h vnom bpc lrate crc sdps s
  | .captureLine d line px => Sys2Proof.Machine.execCaptureLine d line px s
  | .platenCellRx d c => Sys2Proof.Machine.execPlatenCellRx d c s
  | .platenLineSlot d ranOut => Sys2Proof.Machine.execPlatenLineSlot d ranOut s
  | .platenFreerun d => Sys2Proof.Machine.execPlatenFreerun d s
  | .kaLost d => Sys2Proof.Machine.execKaLost d s
  | .platenTrainDone d ok lanes rate => Sys2Proof.Machine.execPlatenTrainDone d ok lanes rate s
  | .panelHpdIrq d => Sys2Proof.Machine.execPanelHpdIrq d s
  | .panelUnplug d => Sys2Proof.Machine.execPanelUnplug d s
  | .panelPlug d => Sys2Proof.Machine.execPanelPlug d s
  | .psrEnteredRx d tunnel => Sys2Proof.Machine.execPsrEnteredRx d tunnel s
  | .psrExitedRx d tunnel => Sys2Proof.Machine.execPsrExitedRx d tunnel s
  | .hpdLostRx d tunnel => Sys2Proof.Machine.execHpdLostRx d tunnel s
  | .hpdFoundRx d tunnel => Sys2Proof.Machine.execHpdFoundRx d tunnel s
  | .auxGo d => Sys2Proof.Machine.execAuxGo d s
  | .auxDone d result data => Sys2Proof.Machine.execAuxDone d result data s
  | .pcieTlpRx hdr payload => Sys2Proof.Machine.execPcieTlpRx hdr payload s
  | .tlpPduRx p reqShort cplShort => Sys2Proof.Machine.execTlpPduRx p reqShort cplShort s
  | .bindReqRx p => Sys2Proof.Machine.execBindReqRx p s
  | .bindAckRx p => Sys2Proof.Machine.execBindAckRx p s
  | .bindRefuseRx p => Sys2Proof.Machine.execBindRefuseRx p s
  | .pduCreditRx p => Sys2Proof.Machine.execPduCreditRx p s
  | .linkPduRx p => Sys2Proof.Machine.execLinkPduRx p s
  | .keepalivePduRx p => Sys2Proof.Machine.execKeepalivePduRx p s
  | .resetPduRx p => Sys2Proof.Machine.execResetPduRx p s
  | .unbindRx p => Sys2Proof.Machine.execUnbindRx p s
  | .bindTimeout n => Sys2Proof.Machine.execBindTimeout n s
  | .pduCreditDue n short => Sys2Proof.Machine.execPduCreditDue n short s
  | .perstInFall => Sys2Proof.Machine.execPerstInFall s
  | .perstInRise => Sys2Proof.Machine.execPerstInRise s
  | .perstRelease => Sys2Proof.Machine.execPerstRelease s
  | .driveLinkChange up width speed ltssm => Sys2Proof.Machine.execDriveLinkChange up width speed ltssm s
  | .secondaryBusReset vp => Sys2Proof.Machine.execSecondaryBusReset vp s
  | .linkDisable vp set => Sys2Proof.Machine.execLinkDisable vp set s
  | .ethFrameRx e f => Sys2Proof.Machine.execEthFrameRx e f s
  | .ethEgressCell e c => Sys2Proof.Machine.execEthEgressCell e c s
  | .reasmTimeout e => Sys2Proof.Machine.execReasmTimeout e s
  | .ptpTxRequest e want tag f => Sys2Proof.Machine.execPtpTxRequest e want tag f s
  | .ethFrameTx e => Sys2Proof.Machine.execEthFrameTx e s
  | .ethLinkChange e up speed => Sys2Proof.Machine.execEthLinkChange e up speed s
  | .lbBusRequest => Sys2Proof.Machine.execLbBusRequest s
  | .lbDeviceCycle write addr en data => Sys2Proof.Machine.execLbDeviceCycle write addr en data s
  | .lbGrantWithdraw => Sys2Proof.Machine.execLbGrantWithdraw s
  | .lbHubCycle => Sys2Proof.Machine.execLbHubCycle s
  | .lbHubCycleDone result data => Sys2Proof.Machine.execLbHubCycleDone result data s
  | .lbWaitTimeout => Sys2Proof.Machine.execLbWaitTimeout s
  | .postedWriteRx src m => Sys2Proof.Machine.execPostedWriteRx src m s
  | .acknowledgedWriteRx src m => Sys2Proof.Machine.execAcknowledgedWriteRx src m s
  | .readRx src m => Sys2Proof.Machine.execReadRx src m s
  | .completionRx src m => Sys2Proof.Machine.execCompletionRx src m s
  | .bridgeCreditRx src m => Sys2Proof.Machine.execBridgeCreditRx src m s
  | .farErrRx src m => Sys2Proof.Machine.execFarErrRx src m s
  | .bridgeRestartRx src m => Sys2Proof.Machine.execBridgeRestartRx src m s
  | .resyncRx src m => Sys2Proof.Machine.execResyncRx src m s
  | .farTmo n tag => Sys2Proof.Machine.execFarTmo n tag s
  | .postedHoldTimeout => Sys2Proof.Machine.execPostedHoldTimeout s
  | .dlyDiscard n tag => Sys2Proof.Machine.execDlyDiscard n tag s
  | .fenceClear n => Sys2Proof.Machine.execFenceClear n s
  | .felEntryFree e => Sys2Proof.Machine.execFelEntryFree e s
  | .sidebandSample levels => Sys2Proof.Machine.execSidebandSample levels s
  | .sidebandStateRx src state => Sys2Proof.Machine.execSidebandStateRx src state s
  | .sbLoss => Sys2Proof.Machine.execSbLoss s
  | .signalSend ix => Sys2Proof.Machine.execSignalSend ix s
  | .signalRx src ix v => Sys2Proof.Machine.execSignalRx src ix v s
  | .signalStale ix => Sys2Proof.Machine.execSignalStale ix s
  | .timeReadLatch p => Sys2Proof.Machine.execTimeReadLatch p s
  | .refclkLoss => Sys2Proof.Machine.execRefclkLoss s
  | .refclkReturn => Sys2Proof.Machine.execRefclkReturn s
  | .timeCellSend => Sys2Proof.Machine.execTimeCellSend s
  | .timeCellRx p c => Sys2Proof.Machine.execTimeCellRx p c s
  | .candidateLapse c => Sys2Proof.Machine.execCandidateLapse c s
  | .ptpMessageRx e m rx => Sys2Proof.Machine.execPtpMessageRx e m rx s
  | .ptpMessageSend e k seq tag frame => Sys2Proof.Machine.execPtpMessageSend e k seq tag frame s
  | .set => Sys2Proof.Machine.execSet s
  | .timeSetApply => Sys2Proof.Machine.execTimeSetApply s
  | .accept => Sys2Proof.Machine.execAccept s
  | .rtcSecondWrite => Sys2Proof.Machine.execRtcSecondWrite s
  | .waymarkInstant n => Sys2Proof.Machine.execWaymarkInstant n s
  | .waymarkPulseEnd n => Sys2Proof.Machine.execWaymarkPulseEnd n s
  | .waymarkWrite n r w => Sys2Proof.Machine.execWaymarkWrite n r w s
  | .captureEdge n falling short => Sys2Proof.Machine.execCaptureEdge n falling short s
  | .capPop p n => Sys2Proof.Machine.execCapPop p n s
  | .measureConversion code => Sys2Proof.Machine.execMeasureConversion code s
  | .measureCellFlush => Sys2Proof.Machine.execMeasureCellFlush s
  | .add n ecc rd ra rb => Sys2Proof.Machine.execAdd n ecc rd ra rb s
  | .sub n ecc rd ra rb => Sys2Proof.Machine.execSub n ecc rd ra rb s
  | .and n ecc rd ra rb => Sys2Proof.Machine.execAnd n ecc rd ra rb s
  | .or n ecc rd ra rb => Sys2Proof.Machine.execOr n ecc rd ra rb s
  | .xor n ecc rd ra rb => Sys2Proof.Machine.execXor n ecc rd ra rb s
  | .sll n ecc rd ra rb => Sys2Proof.Machine.execSll n ecc rd ra rb s
  | .srl n ecc rd ra rb => Sys2Proof.Machine.execSrl n ecc rd ra rb s
  | .sra n ecc rd ra rb => Sys2Proof.Machine.execSra n ecc rd ra rb s
  | .slt n ecc rd ra rb => Sys2Proof.Machine.execSlt n ecc rd ra rb s
  | .sltu n ecc rd ra rb => Sys2Proof.Machine.execSltu n ecc rd ra rb s
  | .mul n ecc rd ra rb => Sys2Proof.Machine.execMul n ecc rd ra rb s
  | .mulhu n ecc rd ra rb => Sys2Proof.Machine.execMulhu n ecc rd ra rb s
  | .divu n ecc rd ra rb => Sys2Proof.Machine.execDivu n ecc rd ra rb s
  | .remu n ecc rd ra rb => Sys2Proof.Machine.execRemu n ecc rd ra rb s
  | .bext n ecc rd ra lsb w => Sys2Proof.Machine.execBext n ecc rd ra lsb w s
  | .bins n ecc rd ra lsb w => Sys2Proof.Machine.execBins n ecc rd ra lsb w s
  | .addi n ecc rd ra imm => Sys2Proof.Machine.execAddi n ecc rd ra imm s
  | .andi n ecc rd ra imm => Sys2Proof.Machine.execAndi n ecc rd ra imm s
  | .ori n ecc rd ra imm => Sys2Proof.Machine.execOri n ecc rd ra imm s
  | .xori n ecc rd ra imm => Sys2Proof.Machine.execXori n ecc rd ra imm s
  | .slli n ecc rd ra sh => Sys2Proof.Machine.execSlli n ecc rd ra sh s
  | .srli n ecc rd ra sh => Sys2Proof.Machine.execSrli n ecc rd ra sh s
  | .srai n ecc rd ra sh => Sys2Proof.Machine.execSrai n ecc rd ra sh s
  | .lui n ecc rd imm => Sys2Proof.Machine.execLui n ecc rd imm s
  | .lw n ecc rd ra imm => Sys2Proof.Machine.execLw n ecc rd ra imm s
  | .lhu n ecc rd ra imm => Sys2Proof.Machine.execLhu n ecc rd ra imm s
  | .lbu n ecc rd ra imm => Sys2Proof.Machine.execLbu n ecc rd ra imm s
  | .sw n ecc rd ra imm => Sys2Proof.Machine.execSw n ecc rd ra imm s
  | .sh n ecc rd ra imm => Sys2Proof.Machine.execSh n ecc rd ra imm s
  | .sb n ecc rd ra imm => Sys2Proof.Machine.execSb n ecc rd ra imm s
  | .jalr n ecc rd ra imm => Sys2Proof.Machine.execJalr n ecc rd ra imm s
  | .slti n ecc rd ra imm => Sys2Proof.Machine.execSlti n ecc rd ra imm s
  | .cas n ecc rd ra rb => Sys2Proof.Machine.execCas n ecc rd ra rb s
  | .send n ecc rd ra rb tgt mbx => Sys2Proof.Machine.execSend n ecc rd ra rb tgt mbx s
  | .recv n ecc rd mbx => Sys2Proof.Machine.execRecv n ecc rd mbx s
  | .recvWake n => Sys2Proof.Machine.execRecvWake n s
  | .wait n ecc rd ra => Sys2Proof.Machine.execWait n ecc rd ra s
  | .waitWake n => Sys2Proof.Machine.execWaitWake n s
  | .tbl n ecc rd ra rb d => Sys2Proof.Machine.execTbl n ecc rd ra rb d s
  | .hash n ecc rd ra rb sel => Sys2Proof.Machine.execHash n ecc rd ra rb sel s
  | .crc n ecc rd ra rb alg => Sys2Proof.Machine.execCrc n ecc rd ra rb alg s
  | .time n ecc rd sel => Sys2Proof.Machine.execTime n ecc rd sel s
  | .yield n ecc => Sys2Proof.Machine.execYield n ecc s
  | .csrr n ecc rd csr => Sys2Proof.Machine.execCsrr n ecc rd csr s
  | .csrw n ecc ra csr => Sys2Proof.Machine.execCsrw n ecc ra csr s
  | .fence n ecc => Sys2Proof.Machine.execFence n ecc s
  | .kick n ecc => Sys2Proof.Machine.execKick n ecc s
  | .b n ecc c ra off => Sys2Proof.Machine.execB n ecc c ra off s
  | .bal n ecc c ra off => Sys2Proof.Machine.execBal n ecc c ra off s
  | .illegalOp n ecc w => Sys2Proof.Machine.execIllegalOp n ecc w s
  | .engineTimerExpiry n => Sys2Proof.Machine.execEngineTimerExpiry n s
  | .watchdogExpiry n => Sys2Proof.Machine.execWatchdogExpiry n s
  | .engineFaultRestart n => Sys2Proof.Machine.execEngineFaultRestart n s
  | .noyield n => Sys2Proof.Machine.execNoyield n s
  | .load path n slot => Sys2Proof.Machine.execLoad path n slot s
  | .loadDone n => Sys2Proof.Machine.execLoadDone n s
  | .restart path n => Sys2Proof.Machine.execRestart path n s
  | .retire path n => Sys2Proof.Machine.execRetire path n s
  | .bankWindowWrite n word w => Sys2Proof.Machine.execBankWindowWrite n word w s
  | .mailboxPost n w1 => Sys2Proof.Machine.execMailboxPost n w1 s
  | .arm path atEn => Sys2Proof.Machine.execArm path atEn s
  | .disarm path => Sys2Proof.Machine.execDisarm path s
  | .stage path src => Sys2Proof.Machine.execStage path src s
  | .stageDone err => Sys2Proof.Machine.execStageDone err s
  | .verify path src => Sys2Proof.Machine.execVerify path src s
  | .verifyDone err => Sys2Proof.Machine.execVerifyDone err s
  | .shadowReset path => Sys2Proof.Machine.execShadowReset path s
  | .commit path => Sys2Proof.Machine.execCommit path s
  | .revert path => Sys2Proof.Machine.execRevert path s
  | .revertStageDone err => Sys2Proof.Machine.execRevertStageDone err s
  | .probationEnd => Sys2Proof.Machine.execProbationEnd s
  | .mark path bank st => Sys2Proof.Machine.execMark path bank st s
  | .clrAttempts path => Sys2Proof.Machine.execClrAttempts path s
  | .flashCommand path w => Sys2Proof.Machine.execFlashCommand path w s
  | .flashCommandDone data eff => Sys2Proof.Machine.execFlashCommandDone data eff s
  | .prog path slot => Sys2Proof.Machine.execProg path slot s
  | .revoke path slot => Sys2Proof.Machine.execRevoke path slot s
  | .formeLoadDone err => Sys2Proof.Machine.execFormeLoadDone err s
  | .porKeep => Sys2Proof.Machine.execPorKeep s
  | .keepOscStable => Sys2Proof.Machine.execKeepOscStable s
  | .trimLoad good chip conv rsnsLow rsnsHigh => Sys2Proof.Machine.execTrimLoad good chip conv rsnsLow rsnsHigh s
  | .strapMeasure r0 r1 r2 r3 => Sys2Proof.Machine.execStrapMeasure r0 r1 r2 r3 s
  | .railGood k linear => Sys2Proof.Machine.execRailGood k linear s
  | .railTimeout k => Sys2Proof.Machine.execRailTimeout k s
  | .railRetry => Sys2Proof.Machine.execRailRetry s
  | .coreRelease => Sys2Proof.Machine.execCoreRelease s
  | .bor idx => Sys2Proof.Machine.execBor idx s
  | .xrst => Sys2Proof.Machine.execXrst s
  | .xrstRelease => Sys2Proof.Machine.execXrstRelease s
  | .therm x => Sys2Proof.Machine.execTherm x s
  | .thermRestart => Sys2Proof.Machine.execThermRestart s
  | .softWarm path key => Sys2Proof.Machine.execSoftWarm path key s
  | .softCold path key => Sys2Proof.Machine.execSoftCold path key s
  | .rstNonce path => Sys2Proof.Machine.execRstNonce path s
  | .rstRemote path w => Sys2Proof.Machine.execRstRemote path w s
  | .warmReset => Sys2Proof.Machine.execWarmReset s
  | .warmResetRelease => Sys2Proof.Machine.execWarmResetRelease s
  | .retainedRecordRestore crcOk => Sys2Proof.Machine.execRetainedRecordRestore crcOk s
  | .blockHold path b => Sys2Proof.Machine.execBlockHold path b s
  | .blockRelease path b => Sys2Proof.Machine.execBlockRelease path b s
  | .hvinRise => Sys2Proof.Machine.execHvinRise s
  | .hvinFall => Sys2Proof.Machine.execHvinFall s
  | .keepSleepEntry => Sys2Proof.Machine.execKeepSleepEntry s
  | .keepSleepWrite path w => Sys2Proof.Machine.execKeepSleepWrite path w s
  | .wakeEvent src => Sys2Proof.Machine.execWakeEvent src s
  | .wakeHvinSample good => Sys2Proof.Machine.execWakeHvinSample good s
  | .ppcWindowChange n inside => Sys2Proof.Machine.execPpcWindowChange n inside s
  | .ppcQualified n safe => Sys2Proof.Machine.execPpcQualified n safe s
  | .ppcRampDone n => Sys2Proof.Machine.execPpcRampDone n s
  | .ppcRampFault n => Sys2Proof.Machine.execPpcRampFault n s
  | .ppcFastTrip n => Sys2Proof.Machine.execPpcFastTrip n s
  | .ppcTimedTrip n => Sys2Proof.Machine.execPpcTimedTrip n s
  | .ppcGateFault n => Sys2Proof.Machine.execPpcGateFault n s
  | .ppcShort n => Sys2Proof.Machine.execPpcShort n s
  | .ppcCoolEnd n => Sys2Proof.Machine.execPpcCoolEnd n s
  | .rearm path n dmgClr => Sys2Proof.Machine.execRearm path n dmgClr s
  | .ppcEnEdge n rise long => Sys2Proof.Machine.execPpcEnEdge n rise long s
  | .onReq path n on => Sys2Proof.Machine.execOnReq path n on s
  | .safeLowReached n => Sys2Proof.Machine.execSafeLowReached n s
  | .feedSwitch near => Sys2Proof.Machine.execFeedSwitch near s
  | .cableAttachLevel c => Sys2Proof.Machine.execCableAttachLevel c s
  | .attachDebounceDone c held dual rp => Sys2Proof.Machine.execAttachDebounceDone c held dual rp s
  | .cableDetach c => Sys2Proof.Machine.execCableDetach c s
  | .drpToggle c => Sys2Proof.Machine.execDrpToggle c s
  | .trySrcTimeout c attached rp => Sys2Proof.Machine.execTrySrcTimeout c attached rp s
  | .sourceCapabilitiesRx c objs => Sys2Proof.Machine.execSourceCapabilitiesRx c objs s
  | .requestRx c rdo bus ext => Sys2Proof.Machine.execRequestRx c rdo bus ext s
  | .pdAcceptRx c => Sys2Proof.Machine.execPdAcceptRx c s
  | .pdRejectRx c => Sys2Proof.Machine.execPdRejectRx c s
  | .pdWaitRx c => Sys2Proof.Machine.execPdWaitRx c s
  | .psRdyRx c => Sys2Proof.Machine.execPsRdyRx c s
  | .prSwapRx c => Sys2Proof.Machine.execPrSwapRx c s
  | .frSwapRx c => Sys2Proof.Machine.execFrSwapRx c s
  | .vconnSwapRx m => Sys2Proof.Machine.execVconnSwapRx m s
  | .drSwapRx m => Sys2Proof.Machine.execDrSwapRx m s
  | .drSwapResult m accepted => Sys2Proof.Machine.execDrSwapResult m accepted s
  | .hardResetRx c => Sys2Proof.Machine.execHardResetRx c s
  | .hardResetRecover c rp => Sys2Proof.Machine.execHardResetRecover c rp s
  | .eprKeepaliveRx m => Sys2Proof.Machine.execEprKeepaliveRx m s
  | .sinkKeepaliveSend c => Sys2Proof.Machine.execSinkKeepaliveSend c s
  | .kaTimeout m => Sys2Proof.Machine.execKaTimeout m s
  | .spineContractLapse p => Sys2Proof.Machine.execSpineContractLapse p s
  | .errorStateExpiry c => Sys2Proof.Machine.execErrorStateExpiry c s
  | .safeLowTimeout c => Sys2Proof.Machine.execSafeLowTimeout c s
  | .vconnFault m => Sys2Proof.Machine.execVconnFault m s
  | .fastSwapDetect c => Sys2Proof.Machine.execFastSwapDetect c s
  | .fastSwapSignalRx c busOk => Sys2Proof.Machine.execFastSwapSignalRx c busOk s
  | .fastSwapPulseEnd c => Sys2Proof.Machine.execFastSwapPulseEnd c s
  | .discoverIdentity m => Sys2Proof.Machine.execDiscoverIdentity m s
  | .discoverSvids m => Sys2Proof.Machine.execDiscoverSvids m s
  | .discoverModes m => Sys2Proof.Machine.execDiscoverModes m s
  | .enterMode m => Sys2Proof.Machine.execEnterMode m s
  | .displayportConfigure m pin => Sys2Proof.Machine.execDisplayportConfigure m pin s
  | .exitMode m => Sys2Proof.Machine.execExitMode m s
  | .notSupportedReply m => Sys2Proof.Machine.execNotSupportedReply m s
  | .usbConnect => Sys2Proof.Machine.execUsbConnect s
  | .usbDisconnect => Sys2Proof.Machine.execUsbDisconnect s
  | .busReset hs => Sys2Proof.Machine.execBusReset hs s
  | .controlSetup setup fn done => Sys2Proof.Machine.execControlSetup setup fn done s
  | .setAddress => Sys2Proof.Machine.execSetAddress s
  | .setConfiguration => Sys2Proof.Machine.execSetConfiguration s
  | .setFeatureHalt => Sys2Proof.Machine.execSetFeatureHalt s
  | .clearFeatureHalt => Sys2Proof.Machine.execClearFeatureHalt s
  | .bulkOutPacket c tog data => Sys2Proof.Machine.execBulkOutPacket c tog data s
  | .svcRead c => Sys2Proof.Machine.execSvcRead c s
  | .svcWrite c => Sys2Proof.Machine.execSvcWrite c s
  | .svcCommand c => Sys2Proof.Machine.execSvcCommand c s
  | .svcEcho c => Sys2Proof.Machine.execSvcEcho c s
  | .stewardReply w => Sys2Proof.Machine.execStewardReply w s
  | .svcTimeout c => Sys2Proof.Machine.execSvcTimeout c s
  | .bulkInAck c => Sys2Proof.Machine.execBulkInAck c s
  | .usbSuspend => Sys2Proof.Machine.execUsbSuspend s
  | .wakeReq => Sys2Proof.Machine.execWakeReq s
  | .downstreamWake k what speed => Sys2Proof.Machine.execDownstreamWake k what speed s
  | .remoteWakeDrive => Sys2Proof.Machine.execRemoteWakeDrive s
  | .hostKSeen => Sys2Proof.Machine.execHostKSeen s
  | .usbResume => Sys2Proof.Machine.execUsbResume s
  | .uhOvercurrent k => Sys2Proof.Machine.execUhOvercurrent k s
  | .sofToken frame => Sys2Proof.Machine.execSofToken frame s
  | .sofPop p => Sys2Proof.Machine.execSofPop p s
  | .scrubWord r what => Sys2Proof.Machine.execScrubWord r what s
  | .rowRepairDone r => Sys2Proof.Machine.execRowRepairDone r s
  | .proofSpareEye target => Sys2Proof.Machine.execProofSpareEye target s
  | .proofSpareRow target => Sys2Proof.Machine.execProofSpareRow target s
  | .proofLiveRow row target => Sys2Proof.Machine.execProofLiveRow row target s
  | .proofEngineCore target => Sys2Proof.Machine.execProofEngineCore target s
  | .proofJunctionPath target => Sys2Proof.Machine.execProofJunctionPath target s
  | .proofInvalid test row target => Sys2Proof.Machine.execProofInvalid test row target s
  | .proofTestDone test target pass data => Sys2Proof.Machine.execProofTestDone test target pass data s
  | .proofDeferred test target => Sys2Proof.Machine.execProofDeferred test target s
  | .proofAutoTurn => Sys2Proof.Machine.execProofAutoTurn s
  | .evRearm w => Sys2Proof.Machine.execEvRearm w s
  | .eventMessageRx src source eng word => Sys2Proof.Machine.execEventMessageRx src source eng word s
  | .jtagExtest => Sys2Proof.Machine.execJtagExtest s
  | .jtagIdcode => Sys2Proof.Machine.execJtagIdcode s
  | .jtagSamplePreload pins data => Sys2Proof.Machine.execJtagSamplePreload pins data s
  | .jtagClamp => Sys2Proof.Machine.execJtagClamp s
  | .jtagHighz => Sys2Proof.Machine.execJtagHighz s
  | .jtagBypass code => Sys2Proof.Machine.execJtagBypass code s
  | .jtagTrst low => Sys2Proof.Machine.execJtagTrst low s
  | .prbsCheckerLock p w early late => Sys2Proof.Machine.execPrbsCheckerLock p w early late s
  | .ackOnlyFrameRx p seq ack ackv retry ecc => Sys2Proof.Machine.execAckOnlyFrameRx p seq ack ackv retry ecc s
  | .captureLinkChange d up lanes rate => Sys2Proof.Machine.execCaptureLinkChange d up lanes rate s
  | .sourcePsrChange d on => Sys2Proof.Machine.execSourcePsrChange d on s
  | .captureAuxRequest d native write addr lenM1 data => Sys2Proof.Machine.execCaptureAuxRequest d native write addr lenM1 data s
  | .hostLinkChange up width speed ltssm => Sys2Proof.Machine.execHostLinkChange up width speed ltssm s
  | .otpWriteDone => Sys2Proof.Machine.execOtpWriteDone s
  | .displayportStatusUpdate m => Sys2Proof.Machine.execDisplayportStatusUpdate m s
  | .cableIdentityRx m answer => Sys2Proof.Machine.execCableIdentityRx m answer s
  | .downstreamConnectChange k conn speed => Sys2Proof.Machine.execDownstreamConnectChange k conn speed s
  | .hvinOvervoltage above => Sys2Proof.Machine.execHvinOvervoltage above s

end Sys2Proof.Machine
end

