-- ==== Sys2Proof/Machine/Step.lean ====
section
/-! DEFINITION. A step of the hub: the command at the front of the queue; with none waiting, a tick of the hub's clock. -/

namespace Sys2Proof.Machine

/-- Take the command at the front of the queue and run it; on an empty queue one tick of the 1.25 GHz clock passes
(notes/assumptions/3.md). -/
def step (s : State) : Host.Outcome State Fault Refusal :=
  match s.pending with
  | [] => .next s.tickTime
  | c :: rest => exec c { s with pending := rest }

/-- The state with the command that a table word spells at the front of its queue; no word spells one. -/
def State.withFetchWord (s : State) (nbits w : Nat) : State :=
  match decodeTableWord nbits w with
  | none => s
  | some c => { s with pending := c :: s.pending }

end Sys2Proof.Machine
end

