-- ==== Sys2Proof/WellFormed.lean ====
section
/-! DEFINITION. When a command has a shape that the spec gives it: lengths and ranges of what arrives, field values of
Compositor instructions. The meanings answer for ill-formed commands too. -/

namespace Sys2Proof

/-- A time stamp in its ranges (R110, R322). -/
def Stamp.ok (t : Stamp) : Bool := decide (t.sec < 2 ^ 48 ∧ t.ns < 1000000000 ∧ t.frac < 2 ^ 16)

/-- A cell carries 64 payload bytes (R105, R149). -/
def cellOk : Option Cell → Bool
  | none => true
  | some c => c.data.length == 64

/-- A PDU body is no longer than a length field can say (R264). -/
def pduOk (p : Pdu) : Bool := decide (p.body.length < 65536)

/-- A bridge message carries at most 32 bytes of data (R300). -/
def msgOk (m : BridgeMsg) : Bool := decide (m.data.length ≤ 32 ∧ m.ns.toNat < 1000000000)

/-- The stamps of a PTP message in their ranges. -/
def ptpOk : PtpMsg → Bool
  | .followUp _ t => Stamp.ok t
  | .delayResp _ t => Stamp.ok t
  | .pdelayResp _ t => Stamp.ok t
  | .pdelayRespFollowUp _ t => Stamp.ok t
  | .report _ t => Stamp.ok t
  | .sync _ => true
  | .announce _ => true
  | .delayReq _ => true
  | .pdelayReq _ => true

/-- A command of a shape that the spec gives. -/
def Instr.wellFormed : Instr → Bool
  | .registerWrite _ _ _ _ => true
  | .rcRead _ _ _ => true
  | .shadowWriteRelease => true
  | .pcieBarAccess _ _ _ _ => true
  | .smbusWrite _ _ _ => true
  | .smbusSetAddress _ _ => true
  | .smbusRead _ => true
  | .mtReadRequest _ u => decide (16 ≤ u.length)
  | .mtWriteRequest _ u => decide (16 ≤ u.length)
  | .mtReply _ u => decide (16 ≤ u.length)
  | .mtTimeout _ => true
  | .keepAccessComplete _ _ _ => true
  | .keepHoldEnter => true
  | .klLost => true
  | .keepHoldLeave => true
  | .custodyLimit => true
  | .custodyEscalation => true
  | .milestoneBoundary => true
  | .keepFhApply => true
  | .postListWrite => true
  | .shadowCopyDone => true
  | .retainedRecordWrite => true
  | .sheetFlip _ => true
  | .bankCopyDone _ => true
  | .sheetBankWrite _ _ _ _ => true
  | .sealSheet _ => true
  | .admissionWindowEnd => true
  | .paceGate _ _ => true
  | .vcoreRaiseRequest _ _ => true
  | .vcoreLowerRequest _ => true
  | .thermalFloorRaise _ => true
  | .pmbusTransactionDone _ _ => true
  | .pmbAlert _ => true
  | .fckLoss _ => true
  | .fckLocked _ _ => true
  | .lanesLocked _ _ _ => true
  | .equalizeDone _ _ => true
  | .alignDone _ => true
  | .trainingTimeout _ _ _ _ => true
  | .holdoffExpiry _ => true
  | .trainingBlockRx _ _ _ _ _ => true
  | .tapRequestTimeout _ _ => true
  | .amReceive _ _ _ _ _ _ _ => true
  | .swapRequestRx _ _ => true
  | .swapBlockRx _ _ => true
  | .swapPauseEnd _ => true
  | .readmitRequestRx _ _ => true
  | .testEnter _ => true
  | .testExit _ => true
  | .retrain _ => true
  | .force _ _ => true
  | .clear _ _ => true
  | .injGo _ _ => true
  | .txSlot _ => true
  | .localWalkerSlot _ => true
  | .dataFrameRx _ f _ => f.length == 80
  | .ackUpdateDue _ => true
  | .retryReqExpiry _ => true
  | .ackTimeout _ _ => true
  | .linkSilence _ => true
  | .creditFrameDue _ => true
  | .creditFrameRx _ _ => true
  | .capabilityRecordRx _ slot => slot.length == 72
  | .seqStateExpiry _ => true
  | .linkDelayRequestRx _ _ ta arrived => Stamp.ok ta && Stamp.ok arrived
  | .linkDelayResponseRx _ _ ta tb tc arrived => Stamp.ok ta && Stamp.ok tb && Stamp.ok tc && Stamp.ok arrived
  | .helloRx _ _ _ _ _ => true
  | .beaconRx _ _ _ _ => true
  | .incarnationRx _ _ _ _ _ _ => true
  | .directedIncarnationRx _ _ _ _ => true
  | .rejoinRx _ _ _ _ _ => true
  | .narrowRx _ _ => true
  | .widthChange _ => true
  | .readmit _ => true
  | .memberFail _ => true
  | .mpHoldExpiry _ => true
  | .cellArrival _ c => cellOk c
  | .heldCellAccept _ => true
  | .matchCycle _ => true
  | .drainEnd _ => true
  | .admitRx _ _ => true
  | .grantRx _ _ => true
  | .refuseRx _ _ => true
  | .releaseRx _ _ => true
  | .revokeRx _ _ => true
  | .giveRx _ _ => true
  | .givenRx _ _ => true
  | .admissionTimeout _ => true
  | .ringAdmit => true
  | .ringRelease => true
  | .ringGive => true
  | .captureFrameStart _ _ _ _ _ _ _ _ => true
  | .captureLine _ _ _ => true
  | .platenCellRx _ c => cellOk c
  | .platenLineSlot _ _ => true
  | .platenFreerun _ => true
  | .kaLost _ => true
  | .platenTrainDone _ _ _ _ => true
  | .panelHpdIrq _ => true
  | .panelUnplug _ => true
  | .panelPlug _ => true
  | .psrEnteredRx _ _ => true
  | .psrExitedRx _ _ => true
  | .hpdLostRx _ _ => true
  | .hpdFoundRx _ _ => true
  | .auxGo _ => true
  | .auxDone _ _ _ => true
  | .pcieTlpRx _ _ => true
  | .tlpPduRx p _ _ => pduOk p
  | .bindReqRx p => pduOk p
  | .bindAckRx p => pduOk p
  | .bindRefuseRx p => pduOk p
  | .pduCreditRx p => pduOk p
  | .linkPduRx p => pduOk p
  | .keepalivePduRx p => pduOk p
  | .resetPduRx p => pduOk p
  | .unbindRx p => pduOk p
  | .bindTimeout _ => true
  | .pduCreditDue _ _ => true
  | .perstInFall => true
  | .perstInRise => true
  | .perstRelease => true
  | .driveLinkChange _ _ _ _ => true
  | .secondaryBusReset _ => true
  | .linkDisable _ _ => true
  | .ethFrameRx _ _ => true
  | .ethEgressCell _ c => cellOk c
  | .reasmTimeout _ => true
  | .ptpTxRequest _ _ _ _ => true
  | .ethFrameTx _ => true
  | .ethLinkChange _ _ _ => true
  | .lbBusRequest => true
  | .lbDeviceCycle write _ en data => data.length == (if write then runBytes en else 0) && en.getLsbD 0
  | .lbGrantWithdraw => true
  | .lbHubCycle => true
  | .lbHubCycleDone _ _ => true
  | .lbWaitTimeout => true
  | .postedWriteRx _ m => msgOk m
  | .acknowledgedWriteRx _ m => msgOk m
  | .readRx _ m => msgOk m
  | .completionRx _ m => msgOk m
  | .bridgeCreditRx _ m => msgOk m
  | .farErrRx _ m => msgOk m
  | .bridgeRestartRx _ m => msgOk m
  | .resyncRx _ m => msgOk m
  | .farTmo _ _ => true
  | .postedHoldTimeout => true
  | .dlyDiscard _ _ => true
  | .fenceClear _ => true
  | .felEntryFree _ => true
  | .sidebandSample _ => true
  | .sidebandStateRx _ _ => true
  | .sbLoss => true
  | .signalSend _ => true
  | .signalRx _ _ _ => true
  | .signalStale _ => true
  | .timeReadLatch _ => true
  | .refclkLoss => true
  | .refclkReturn => true
  | .timeCellSend => true
  | .timeCellRx _ c => cellOk c
  | .candidateLapse _ => true
  | .ptpMessageRx _ m rx => ptpOk m.msg && Stamp.ok rx
  | .ptpMessageSend _ _ _ _ _ => true
  | .set => true
  | .timeSetApply => true
  | .accept => true
  | .rtcSecondWrite => true
  | .waymarkInstant _ => true
  | .waymarkPulseEnd _ => true
  | .waymarkWrite _ _ _ => true
  | .captureEdge _ _ _ => true
  | .capPop _ _ => true
  | .measureConversion _ => true
  | .measureCellFlush => true
  | .add _ _ _ _ _ => true
  | .sub _ _ _ _ _ => true
  | .and _ _ _ _ _ => true
  | .or _ _ _ _ _ => true
  | .xor _ _ _ _ _ => true
  | .sll _ _ _ _ _ => true
  | .srl _ _ _ _ _ => true
  | .sra _ _ _ _ _ => true
  | .slt _ _ _ _ _ => true
  | .sltu _ _ _ _ _ => true
  | .mul _ _ _ _ _ => true
  | .mulhu _ _ _ _ _ => true
  | .divu _ _ _ _ _ => true
  | .remu _ _ _ _ _ => true
  | .bext _ _ _ _ _ _ => true
  | .bins _ _ _ _ _ _ => true
  | .addi _ _ _ _ _ => true
  | .andi _ _ _ _ _ => true
  | .ori _ _ _ _ _ => true
  | .xori _ _ _ _ _ => true
  | .slli _ _ _ _ _ => true
  | .srli _ _ _ _ _ => true
  | .srai _ _ _ _ _ => true
  | .lui _ _ _ _ => true
  | .lw _ _ _ _ _ => true
  | .lhu _ _ _ _ _ => true
  | .lbu _ _ _ _ _ => true
  | .sw _ _ _ _ _ => true
  | .sh _ _ _ _ _ => true
  | .sb _ _ _ _ _ => true
  | .jalr _ _ _ _ _ => true
  | .slti _ _ _ _ _ => true
  | .cas _ _ _ _ _ => true
  | .send _ _ _ _ _ _ _ => true
  | .recv _ _ rd _ => recvReg rd
  | .recvWake _ => true
  | .wait _ _ _ _ => true
  | .waitWake _ => true
  | .tbl _ _ _ _ _ _ => true
  | .hash _ _ _ _ _ _ => true
  | .crc _ _ _ _ _ alg => alg != 3
  | .time _ _ _ _ => true
  | .yield _ _ => true
  | .csrr _ _ _ csr => csrKnown csr.toNat
  | .csrw _ _ _ csr => csrKnown csr.toNat
  | .fence _ _ => true
  | .kick _ _ => true
  | .b _ _ c _ _ => condKnown c
  | .bal _ _ c _ _ => condKnown c
  | .illegalOp n ecc w => decodeEngine n ecc w == none
  | .engineTimerExpiry _ => true
  | .watchdogExpiry _ => true
  | .engineFaultRestart _ => true
  | .noyield _ => true
  | .load _ _ _ => true
  | .loadDone _ => true
  | .restart _ _ => true
  | .retire _ _ => true
  | .bankWindowWrite _ _ _ => true
  | .mailboxPost _ _ => true
  | .arm _ _ => true
  | .disarm _ => true
  | .stage _ _ => true
  | .stageDone _ => true
  | .verify _ _ => true
  | .verifyDone _ => true
  | .shadowReset _ => true
  | .commit _ => true
  | .revert _ => true
  | .revertStageDone _ => true
  | .probationEnd => true
  | .mark _ _ _ => true
  | .clrAttempts _ => true
  | .flashCommand _ _ => true
  | .flashCommandDone _ _ => true
  | .prog _ _ => true
  | .revoke _ _ => true
  | .formeLoadDone _ => true
  | .porKeep => true
  | .keepOscStable => true
  | .trimLoad _ _ _ _ _ => true
  | .strapMeasure _ _ _ _ => true
  | .railGood _ _ => true
  | .railTimeout _ => true
  | .railRetry => true
  | .coreRelease => true
  | .bor _ => true
  | .xrst => true
  | .xrstRelease => true
  | .therm _ => true
  | .thermRestart => true
  | .softWarm _ _ => true
  | .softCold _ _ => true
  | .rstNonce _ => true
  | .rstRemote _ _ => true
  | .warmReset => true
  | .warmResetRelease => true
  | .retainedRecordRestore _ => true
  | .blockHold _ _ => true
  | .blockRelease _ _ => true
  | .hvinRise => true
  | .hvinFall => true
  | .keepSleepEntry => true
  | .keepSleepWrite _ _ => true
  | .wakeEvent _ => true
  | .wakeHvinSample _ => true
  | .ppcWindowChange _ _ => true
  | .ppcQualified _ _ => true
  | .ppcRampDone _ => true
  | .ppcRampFault _ => true
  | .ppcFastTrip _ => true
  | .ppcTimedTrip _ => true
  | .ppcGateFault _ => true
  | .ppcShort _ => true
  | .ppcCoolEnd _ => true
  | .rearm _ _ _ => true
  | .ppcEnEdge _ _ _ => true
  | .onReq _ _ _ => true
  | .safeLowReached _ => true
  | .feedSwitch _ => true
  | .cableAttachLevel _ => true
  | .attachDebounceDone _ _ _ _ => true
  | .cableDetach _ => true
  | .drpToggle _ => true
  | .trySrcTimeout _ _ _ => true
  | .sourceCapabilitiesRx _ objs => decide (1 ≤ objs.length ∧ objs.length ≤ 11)
  | .requestRx _ _ _ _ => true
  | .pdAcceptRx _ => true
  | .pdRejectRx _ => true
  | .pdWaitRx _ => true
  | .psRdyRx _ => true
  | .prSwapRx _ => true
  | .frSwapRx _ => true
  | .vconnSwapRx _ => true
  | .drSwapRx _ => true
  | .drSwapResult _ _ => true
  | .hardResetRx _ => true
  | .hardResetRecover _ _ => true
  | .eprKeepaliveRx _ => true
  | .sinkKeepaliveSend _ => true
  | .kaTimeout _ => true
  | .spineContractLapse _ => true
  | .errorStateExpiry _ => true
  | .safeLowTimeout _ => true
  | .vconnFault _ => true
  | .fastSwapDetect _ => true
  | .fastSwapSignalRx _ _ => true
  | .fastSwapPulseEnd _ => true
  | .discoverIdentity _ => true
  | .discoverSvids _ => true
  | .discoverModes _ => true
  | .enterMode _ => true
  | .displayportConfigure _ _ => true
  | .exitMode _ => true
  | .notSupportedReply _ => true
  | .usbConnect => true
  | .usbDisconnect => true
  | .busReset _ => true
  | .controlSetup _ _ _ => true
  | .setAddress => true
  | .setConfiguration => true
  | .setFeatureHalt => true
  | .clearFeatureHalt => true
  | .bulkOutPacket _ _ data => decide (data.length ≤ 512)
  | .svcRead _ => true
  | .svcWrite _ => true
  | .svcCommand _ => true
  | .svcEcho _ => true
  | .stewardReply _ => true
  | .svcTimeout _ => true
  | .bulkInAck _ => true
  | .usbSuspend => true
  | .wakeReq => true
  | .downstreamWake _ _ _ => true
  | .remoteWakeDrive => true
  | .hostKSeen => true
  | .usbResume => true
  | .uhOvercurrent _ => true
  | .sofToken _ => true
  | .sofPop _ => true
  | .scrubWord _ _ => true
  | .rowRepairDone _ => true
  | .proofSpareEye _ => true
  | .proofSpareRow _ => true
  | .proofLiveRow _ _ => true
  | .proofEngineCore _ => true
  | .proofJunctionPath _ => true
  | .proofInvalid _ _ _ => true
  | .proofTestDone _ _ _ _ => true
  | .proofDeferred _ _ => true
  | .proofAutoTurn => true
  | .evRearm _ => true
  | .eventMessageRx _ _ _ _ => true
  | .jtagExtest => true
  | .jtagIdcode => true
  | .jtagSamplePreload pins data => pins.length == data.length
  | .jtagClamp => true
  | .jtagHighz => true
  | .jtagBypass _ => true
  | .jtagTrst _ => true
  | .prbsCheckerLock _ _ _ _ => true
  | .ackOnlyFrameRx _ _ _ _ _ _ => true
  | .captureLinkChange _ _ _ _ => true
  | .sourcePsrChange _ _ => true
  | .captureAuxRequest _ _ write _ lenM1 data => data.length == (if write then lenM1.val + 1 else 0)
  | .hostLinkChange _ _ _ _ => true
  | .otpWriteDone => true
  | .displayportStatusUpdate _ => true
  | .cableIdentityRx _ _ => true
  | .downstreamConnectChange _ _ _ => true
  | .hvinOvervoltage _ => true

end Sys2Proof
end

