-- ==== Sys2Proof/Safety.lean ====
section
/-! DEFINITION. Terms in which a safe run is said: memories in canonical form, and commands that the hub's own programs
could have given. -/

namespace Sys2Proof.Machine

/-- The engine that executes an instruction, and what its check bits show; none for the other commands. -/
def engineOf : Instr → Option (EngNo × Ecc)
  | .add n ecc _ _ _ => some (n, ecc)
  | .sub n ecc _ _ _ => some (n, ecc)
  | .and n ecc _ _ _ => some (n, ecc)
  | .or n ecc _ _ _ => some (n, ecc)
  | .xor n ecc _ _ _ => some (n, ecc)
  | .sll n ecc _ _ _ => some (n, ecc)
  | .srl n ecc _ _ _ => some (n, ecc)
  | .sra n ecc _ _ _ => some (n, ecc)
  | .slt n ecc _ _ _ => some (n, ecc)
  | .sltu n ecc _ _ _ => some (n, ecc)
  | .mul n ecc _ _ _ => some (n, ecc)
  | .mulhu n ecc _ _ _ => some (n, ecc)
  | .divu n ecc _ _ _ => some (n, ecc)
  | .remu n ecc _ _ _ => some (n, ecc)
  | .bext n ecc _ _ _ _ => some (n, ecc)
  | .bins n ecc _ _ _ _ => some (n, ecc)
  | .addi n ecc _ _ _ => some (n, ecc)
  | .andi n ecc _ _ _ => some (n, ecc)
  | .ori n ecc _ _ _ => some (n, ecc)
  | .xori n ecc _ _ _ => some (n, ecc)
  | .slli n ecc _ _ _ => some (n, ecc)
  | .srli n ecc _ _ _ => some (n, ecc)
  | .srai n ecc _ _ _ => some (n, ecc)
  | .lui n ecc _ _ => some (n, ecc)
  | .lw n ecc _ _ _ => some (n, ecc)
  | .lhu n ecc _ _ _ => some (n, ecc)
  | .lbu n ecc _ _ _ => some (n, ecc)
  | .sw n ecc _ _ _ => some (n, ecc)
  | .sh n ecc _ _ _ => some (n, ecc)
  | .sb n ecc _ _ _ => some (n, ecc)
  | .jalr n ecc _ _ _ => some (n, ecc)
  | .slti n ecc _ _ _ => some (n, ecc)
  | .cas n ecc _ _ _ => some (n, ecc)
  | .send n ecc _ _ _ _ _ => some (n, ecc)
  | .recv n ecc _ _ => some (n, ecc)
  | .wait n ecc _ _ => some (n, ecc)
  | .tbl n ecc _ _ _ _ => some (n, ecc)
  | .hash n ecc _ _ _ _ => some (n, ecc)
  | .crc n ecc _ _ _ _ => some (n, ecc)
  | .time n ecc _ _ => some (n, ecc)
  | .yield n ecc => some (n, ecc)
  | .csrr n ecc _ _ => some (n, ecc)
  | .csrw n ecc _ _ => some (n, ecc)
  | .fence n ecc => some (n, ecc)
  | .kick n ecc => some (n, ecc)
  | .b n ecc _ _ _ => some (n, ecc)
  | .bal n ecc _ _ _ => some (n, ecc)
  | .illegalOp n ecc _ => some (n, ecc)
  | _ => none

/-- The word at an engine's pc in its running bank (R354, R360). -/
def State.fetchWord (s : State) (n : Nat) : Word :=
  BitVec.ofNat 32 (leNat (memBytes s.engBank (bankBase n (s.get (ENG_STATUS.RUN_BANK n)) + (s.engine n).pc) 4))

/-- A command that can come next (R354): of the right shape, and an instruction is the one in its engine's running bank. The
meanings do not ask for it (notes/assumptions/64.md): what they do with other commands, the hub does not. -/
def State.faithful (s : State) (i : Instr) : Bool :=
  i.wellFormed && (match engineOf i with
    | none => true
    | some (n, ecc) =>
      match i with
      | .illegalOp _ _ w => w == s.fetchWord n.val
      | _ => decodeEngine n ecc (s.fetchWord n.val) == some i)

/-- A memory in its canonical form: addresses strictly rising and no entry that reads as an unlisted address does. -/
def memOk (unlisted : Byte) (m : List Host.Cell) : Bool := canonical (fun _ => unlisted) m

/-- Every memory of the hub in its canonical form. Flash reads 0xFF where nothing is listed, the others 0. -/
def State.memoriesOk (s : State) : Bool :=
  memOk 0 s.caseMem && memOk 0 s.engSram && memOk 0 s.engBank && memOk 0 s.galley && memOk 0 s.pimage && memOk 0xFF s.flash

/-- Every table of the hub in its canonical form: the memories, and the registers with their shadow copies. -/
def State.tablesOk (s : State) : Bool := s.memoriesOk && canonical regReset s.regs && canonical regReset s.shadow

/-! ### What a command leaves as it was -/

/-- Every memory holds the same bytes. -/
def sameMemories (s t : State) : Prop :=
  t.caseMem = s.caseMem ∧ t.engSram = s.engSram ∧ t.engBank = s.engBank ∧ t.galley = s.galley ∧ t.pimage = s.pimage ∧ t.flash = s.flash

/-- Everything outside the engines, the registers and the free values is the same. -/
def sameUnits (s t : State) : Prop :=
  t.shadow = s.shadow ∧ t.elog = s.elog ∧ t.ports = s.ports ∧ t.lanes = s.lanes ∧ t.links = s.links ∧ t.jn = s.jn ∧ t.imp = s.imp ∧
  t.pace = s.pace ∧ t.tm = s.tm ∧ t.svc = s.svc ∧ t.rs = s.rs ∧ t.fc = s.fc ∧ t.display = s.display ∧ t.px = s.px ∧ t.eth = s.eth ∧
  t.lb = s.lb ∧ t.pw = s.pw ∧ t.dk = s.dk ∧ t.tap = s.tap ∧ t.mg = s.mg ∧ t.out = s.out ∧ t.pending = s.pending

/-- What an engine holds beside its registers, its pc and its count of cycles. -/
def sameEngineRest (e f : Engine) : Prop :=
  { f with g := e.g, pc := e.pc, cycles := e.cycles } = e

/-! ### Safe runs -/

/-- A safe run: no step of it ends in a fault or a refusal, and its tables keep their form. -/
def Safe : Nat → State → Bool
  | 0, s => s.tablesOk
  | k + 1, s => s.tablesOk && (match step s with
    | .next t => Safe k t
    | .fault _ => false
    | .refused _ => false)

end Sys2Proof.Machine
end

