-- ==== Sys2Proof/Certificates/Slice0/Obligations.lean ====
section
/-! DEFINITION. The statements about the model, for the provers. The statements on commands give, for each command of a family
and every state and operands that meet the hypotheses, the next state that `exec` answers, in the shared operations that the
rules give names to. -/

namespace Sys2Proof.Machine

/-- The fields of an instruction word that the instruction with opcode `op` does not use (R361, R363): some bit in them is set. -/
def unusedBitSet (op : Nat) (w : Word) : Bool :=
  let any (lo k : Nat) : Bool := w.toNat / 2 ^ lo % 2 ^ k != 0
  if op ≤ 0x0D ∨ op = 0x20 then any 0 14
  else if op ≤ 0x0F then any 10 8
  else if 0x14 ≤ op ∧ op ≤ 0x16 then any 5 13
  else if op = 0x17 then any 18 4
  else if op = 0x21 then any 8 6
  else if op = 0x22 then any 4 18
  else if op = 0x23 then any 0 18
  else if op = 0x24 then any 3 11
  else if op = 0x25 then any 1 13
  else if op = 0x26 then any 2 12
  else if op = 0x27 then any 2 20
  else if op = 0x28 ∨ op = 0x2B ∨ op = 0x2C then any 0 26
  else if op = 0x29 then any 8 14
  else if op = 0x2A then any 8 10 || any 22 4
  else false

/-- The destination of an instruction that only computes a register (R363, R369). -/
def aluDest : Instr → Option GReg
  | .add _ _ rd _ _ => some rd
  | .sub _ _ rd _ _ => some rd
  | .and _ _ rd _ _ => some rd
  | .or _ _ rd _ _ => some rd
  | .xor _ _ rd _ _ => some rd
  | .sll _ _ rd _ _ => some rd
  | .srl _ _ rd _ _ => some rd
  | .sra _ _ rd _ _ => some rd
  | .slt _ _ rd _ _ => some rd
  | .sltu _ _ rd _ _ => some rd
  | .mul _ _ rd _ _ => some rd
  | .mulhu _ _ rd _ _ => some rd
  | .divu _ _ rd _ _ => some rd
  | .remu _ _ rd _ _ => some rd
  | .bext _ _ rd _ _ _ => some rd
  | .bins _ _ rd _ _ _ => some rd
  | .addi _ _ rd _ _ => some rd
  | .andi _ _ rd _ _ => some rd
  | .ori _ _ rd _ _ => some rd
  | .xori _ _ rd _ _ => some rd
  | .slli _ _ rd _ _ => some rd
  | .srli _ _ rd _ _ => some rd
  | .srai _ _ rd _ _ => some rd
  | .lui _ _ rd _ => some rd
  | .slti _ _ rd _ _ => some rd
  | .hash _ _ rd _ _ _ => some rd
  | _ => none

/-- The bytes, the address register, the offset and the value register of a store (R363). -/
def storeForm : Instr → Option (Nat × GReg × BitVec 18 × GReg)
  | .sw _ _ rd ra imm => some (4, ra, imm, rd)
  | .sh _ _ rd ra imm => some (2, ra, imm, rd)
  | .sb _ _ rd ra imm => some (1, ra, imm, rd)
  | _ => none

/-- Check bits that stop or count nothing at the fetch (R380, R524). -/
def fetchesClean (ecc : Ecc) : Prop := ecc ≠ .badFetch ∧ ecc ≠ .fixedFetch

end Sys2Proof.Machine

open Sys2Proof Sys2Proof.Machine

/-- The command at the front of the queue runs, and the rest stays queued. A step with a command at the front of its queue is
that command's `exec` on the state with the queue's rest. -/
def Obligations.StepRunsFrontCommand : Prop :=
  ∀ (c : Instr) (rest : List Instr) (s : State),
    step { s with pending := c :: rest } = exec c { s with pending := rest }

/-- With nothing queued a step is one tick of the 1.25 GHz clock: the time gains ADDEND × 2^-32 ns and nothing else changes.
That an empty queue lets one tick pass is the model's choice (notes/assumptions/3.md); what a tick adds is R325. -/
def Obligations.IdleStepIsOneTick : Prop :=
  ∀ s : State, s.pending = [] → ∃ t, step s = .next t ∧ t.tm.tick = s.tm.tick + 1 ∧
    t.tm.q32 = (s.tm.q32 + s.get TM_ADDEND.ADDEND) % (2 ^ 48 * 1000000000 * 2 ^ 32) ∧ { t with tm := s.tm } = s

/-- No command of the table faults or is refused: exec answers a next state for every command in every state. -/
def Obligations.EveryCommandAnswersNext : Prop := ∀ (c : Instr) (s : State), ∃ t, exec c s = .next t

/-- After reset every table is in its canonical form, nothing is queued and nothing has been sent. -/
def Obligations.ResetTablesInForm : Prop :=
  State.reset.tablesOk = true ∧ State.reset.pending = [] ∧ State.reset.out = []

/-- Every step keeps the canonical form of the registers, their shadow copies and every memory, takes at most the front
command, and never takes back what was sent. The register tables and the six memories stay lists of rising keys without
default entries; one command leaves the queue and none is added; the record of what the hub sent only grows; free values are
used up, never reused. -/
def Obligations.StepKeepsTablesInForm : Prop :=
  ∀ s t : State, s.tablesOk = true → step s = .next t →
    t.tablesOk = true ∧ t.pending = s.pending.tail ∧ s.out <:+ t.out ∧ s.freeCtr ≤ t.freeCtr

/-- Every well-formed Compositor instruction but an illegal word has a word, and decoding that word gives the instruction back
with every operand. -/
def Obligations.EngineWordsRoundTrip : Prop :=
  ∀ (i : Instr) (n : EngNo) (ecc : Ecc), engineOf i = some (n, ecc) → i.wellFormed = true →
    (∃ w, i = .illegalOp n ecc w) ∨ ∃ w, encodeEngine i = some w ∧ decodeEngine n ecc w = some i

/-- Every word that decodes spells a well-formed instruction of the engine that fetched it, and encoding that instruction
gives the word back. -/
def Obligations.EngineWordsHaveOneReading : Prop :=
  ∀ (n : EngNo) (ecc : Ecc) (w : Word) (i : Instr), decodeEngine n ecc w = some i →
    encodeEngine i = some w ∧ i.wellFormed = true ∧ engineOf i = some (n, ecc)

/-- Words written out from the encoding tables decode to the instructions they stand for. -/
def Obligations.EngineWordsOfTheSpec : Prop :=
  decodeEngine 3 .clean 0x40CBFFFB = some (.addi 3 .clean 3 2 (-5)) ∧
  decodeEngine 3 .clean 0xC093FFFD = some (.b 3 .clean 2 4 (-3)) ∧
  decodeEngine 3 .clean 0x8159C000 = some (.cas 3 .clean 5 6 7) ∧
  decodeEngine 3 .clean 0x38440063 = some (.bext 3 .clean 1 1 3 3) ∧
  decodeEngine 3 .clean 0x84C8C0BF = some (.send 3 .clean 3 2 3 11 15) ∧
  decodeEngine 3 .clean 0xA3FFFFFF = none

/-- An unassigned opcode, a reserved condition, or a bit in an unused field is an illegal instruction: it has no effect and
the engine faults. What the fault itself does is `State.engineFault` (R381); the engine's instruction adds nothing to it. -/
def Obligations.IllegalWordsFault : Prop :=
  (∀ (n : EngNo) (ecc : Ecc) (w : Word),
    let op := w.toNat / 2 ^ 26
    (0x2D ≤ op ∧ op ≤ 0x2F ∨ 0x32 ≤ op) ∨ (op = 0x30 ∨ op = 0x31) ∧ 7 ≤ w.toNat / 2 ^ 22 % 16 ∨ unusedBitSet op w = true →
    decodeEngine n ecc w = none) ∧
  ∀ (n : EngNo) (ecc : Ecc) (w : Word) (s : State), decodeEngine n ecc w = none → fetchesClean ecc →
    s.get (ENG_STATUS.STATE n) = 1 → exec (.illegalOp n ecc w) s = .next (s.engineFault n 1)

/-- TBL computes a table address from its descriptor, or takes a table fault. -/
def Obligations.TableAddressRule : Prop :=
  ∀ (n : EngNo) (ecc : Ecc) (rd ra rb : GReg) (d : BitVec 3) (s : State), fetchesClean ecc → s.get (ENG_STATUS.STATE n) = 1 →
    let base := wordField (s.engTbl n (2 * d.toNat)) 19 0
    let count := wordField (s.engTbl n (2 * d.toNat + 1)) 31 16
    let size := wordField (s.engTbl n (2 * d.toNat + 1)) 15 0
    let a := (s.engG n ra).toNat
    let b := (s.engG n rb).toNat
    (a < count ∧ b < size → ∃ t, exec (.tbl n ecc rd ra rb d) s = .next t ∧
      t.engG n rd = (if rd = 0 then 0 else BitVec.ofNat 32 (0x100000 + base + a * size + b)) ∧
      (∀ k, k ≠ rd → t.engG n k = s.engG n k) ∧ sameMemories s t ∧ sameUnits s t) ∧
    (count ≤ a ∨ size ≤ b → exec (.tbl n ecc rd ra rb d) s = .next (s.engineFault n 4))

/-- CAS reads the aligned word, swaps it when it matches, gives the old value either way, and faults off an aligned Case
address. Case memory is read and written as every access reads and writes it: `State.caseRead` and `State.caseWrite` hold
the rules of the custody token, the Sheet banks and the retained record. A USER engine is kept out of the other tables
(R373). -/
def Obligations.CompareAndSwapRule : Prop :=
  ∀ (n : EngNo) (ecc : Ecc) (rd ra rb : GReg) (s : State), fetchesClean ecc → s.get (ENG_STATUS.STATE n) = 1 →
    let a := (s.engG n ra).toNat
    (0x100000 ≤ a → a < 0x200000 → a % 4 = 0 → s.userDenied n (.caseMem (a - 0x100000)) true = false → ecc = .clean →
      let old := s.caseRead (a - 0x100000) 4
      let t := (old.2.engDone n).setG n rd (BitVec.ofNat 32 old.1)
      exec (.cas n ecc rd ra rb) s = .next
        (if BitVec.ofNat 32 old.1 = s.engG n rd then t.caseWrite (a - 0x100000) 4 (s.engG n rb).toNat else t)) ∧
    (¬ (0x100000 ≤ a ∧ a < 0x200000 ∧ a % 4 = 0) → exec (.cas n ecc rd ra rb) s = .next (s.engineFault n 3))

/-- A read of TM_NOW_NS latches the instant for its path, and the other two registers return what was latched. -/
def Obligations.TimeLatchRule : Prop :=
  ∀ (p : Path) (s : State), s.behind p = false → (∃ t, exec (.timeReadLatch p) s = .next t ∧
      tget (0, 0) (pathCode p) t.tm.latches = (s.tm.sec, s.tm.frac / 2 ^ 16) ∧
      (∀ q : Path, pathCode q ≠ pathCode p → tget (0, 0) (pathCode q) t.tm.latches = tget (0, 0) (pathCode q) s.tm.latches)) ∧
    (∃ t, exec (.rcRead p (BitVec.ofNat 32 TM_NOW_NS) 2) s = .next t ∧
      tget (0, 0) (pathCode p) t.tm.latches = (s.tm.sec, s.tm.frac / 2 ^ 16) ∧
      (∀ q : Path, pathCode q ≠ pathCode p → tget (0, 0) (pathCode q) t.tm.latches = tget (0, 0) (pathCode q) s.tm.latches)) ∧
    let l := tget (0, 0) (pathCode p) s.tm.latches
    exec (.rcRead p (BitVec.ofNat 32 TM_NOW_SEC) 2) s = .next (s.emit (.access p TM_NOW_SEC 0 (BitVec.ofNat 32 l.1))) ∧
    exec (.rcRead p (BitVec.ofNat 32 TM_NOW_HI) 2) s =
      .next (s.emit (.access p TM_NOW_HI 0 (BitVec.ofNat 32 (l.1 / 2 ^ 32 * 2 ^ 16 + l.2))))

/-- The class is the strap code divided by 4 and the boot source the remainder. -/
def Obligations.StrapClassRule : Prop :=
  ∀ (r0 r1 r2 r3 : BitVec 16) (s : State), s.phase = 2 → strapCode r1.toNat = strapCode r0.toNat →
    strapCode r2.toNat = strapCode r0.toNat → strapCode r3.toNat = strapCode r0.toNat →
    ∃ t, exec (.strapMeasure r0 r1 r2 r3) s = .next t ∧ t.get ID_DEVICE.CLASS = strapCode r0.toNat / 4 ∧
      t.get ID_DEVICE.BOOT_SRC = strapCode r0.toNat % 4

/-- A log entry goes to ELOG_HEAD of a ring of 256, and a full ring gives its oldest entry up and counts it. -/
def Obligations.ErrorLogRingRule : Prop :=
  ∀ (w0 w1 w2 w3 : Nat) (s : State),
    let t := s.logWords w0 w1 w2 w3
    let h := s.get ELOG_PTR.ELOG_HEAD
    t.get ELOG_PTR.ELOG_HEAD = (h + 1) % 256 ∧
    tget 0 (4 * h) t.elog = BitVec.ofNat 32 w0 ∧ tget 0 (4 * h + 1) t.elog = BitVec.ofNat 32 w1 ∧
    tget 0 (4 * h + 2) t.elog = BitVec.ofNat 32 w2 ∧ tget 0 (4 * h + 3) t.elog = BitVec.ofNat 32 w3 ∧
    (∀ k, k < 4 * h ∨ 4 * h + 4 ≤ k → tget 0 k t.elog = tget 0 k s.elog) ∧
    (if (h + 1) % 256 = s.get ELOG_PTR.ELOG_TAIL then
      t.get ELOG_PTR.ELOG_TAIL = (s.get ELOG_PTR.ELOG_TAIL + 1) % 256 ∧
      t.get ELOG_PTR.OVERWRITTEN = min (s.get ELOG_PTR.OVERWRITTEN + 1) (2 ^ (ELOG_PTR.OVERWRITTEN.hi + 1 - ELOG_PTR.OVERWRITTEN.lo) - 1)
    else t.get ELOG_PTR.ELOG_TAIL = s.get ELOG_PTR.ELOG_TAIL ∧ t.get ELOG_PTR.OVERWRITTEN = s.get ELOG_PTR.OVERWRITTEN)

/-- A fault alone stops the engine, records cause, pc and count, raises FAULT, and keeps the engine's registers and every
memory. -/
def Obligations.EngineFaultRecords : Prop :=
  ∀ (n : EngNo) (cause : Nat) (s : State), 1 ≤ cause → cause ≤ 8 →
    (cause = 7 → s.on (ENG_ROLE.WDT_WARM n) = false) → s.on FC_STATUS.PROB = false → (s.engine n).faults = [] →
    2 ≤ s.get FC_ENG_CFG.FAULT_N → (s.engine n).pc ≤ 0x3FFC →
    let t := s.engineFault n cause
    t.get (ENG_FAULT.CAUSE n) = cause ∧ t.get (ENG_FAULT.PC n) = (s.engine n).pc ∧
    t.get (ENG_FAULT.FAULTS n) = min (s.get (ENG_FAULT.FAULTS n) + 1) (2 ^ ((ENG_FAULT.FAULTS n).hi + 1 - (ENG_FAULT.FAULTS n).lo) - 1) ∧
    t.get (ENG_STATUS.STATE n) = 0 ∧ t.on (ENG_EVENT.FAULT n) = true ∧ (t.engine n).g = (s.engine n).g ∧ sameMemories s t

/-- Whatever the instruction, an uncorrectable error in the fetched word faults a running engine with cause 5 and nothing of
the instruction happens. -/
def Obligations.BadFetchFaultsAnyInstruction : Prop :=
  ∀ (i : Instr) (n : EngNo) (s : State), engineOf i = some (n, .badFetch) → s.get (ENG_STATUS.STATE n) = 1 →
    exec i s = .next ((s.engineFault n 5).rowUncorrectable (s.fetchRow n))

/-- An engine that does not run executes nothing: every instruction of it leaves the state as it is. -/
def Obligations.StoppedEngineExecutesNothing : Prop :=
  ∀ (i : Instr) (n : EngNo) (ecc : Ecc) (s : State), engineOf i = some (n, ecc) → s.get (ENG_STATUS.STATE n) ≠ 1 → exec i s = .next s

/-- An instruction that only computes a register changes that register, the pc and the counts of its engine, and nothing else;
g0 stays 0. -/
def Obligations.ComputingInstructionsFrame : Prop :=
  ∀ (i : Instr) (n : EngNo) (ecc : Ecc) (rd : GReg) (s t : State), engineOf i = some (n, ecc) → aluDest i = some rd →
    fetchesClean ecc → s.get (ENG_STATUS.STATE n) = 1 → exec i s = .next t →
    (∀ k, k ≠ rd → t.engG n k = s.engG n k) ∧ t.engG n 0 = 0 ∧ sameEngineRest (s.engine n) (t.engine n) ∧
    (∀ m, m ≠ n.val → t.engine m = s.engine m) ∧ (∀ a, a ≠ ENG_PERF n → t.reg a = s.reg a) ∧ sameMemories s t ∧ sameUnits s t

/-- A store to data SRAM or to plain Case memory writes exactly its bytes at ra + imm, and no other byte of any memory, no
register and no other unit. Plain Case memory is what is neither the custody token, a Sheet bank nor the retained record. -/
def Obligations.StoreFrame : Prop :=
  ∀ (i : Instr) (n : EngNo) (ecc : Ecc) (k : Nat) (ra rd : GReg) (imm : BitVec 18) (s : State), engineOf i = some (n, ecc) →
    storeForm i = some (k, ra, imm, rd) → fetchesClean ecc → s.get (ENG_STATUS.STATE n) = 1 →
    (s.engAddr n ra imm).toNat % k = 0 →
    (∀ o, engPlace (s.engAddr n ra imm).toNat = .sram o → ∃ t, exec i s = .next t ∧
      memBytes t.engSram (0x8000 * n + o) k = leBytes k (s.engG n rd).toNat ∧
      (∀ x, x < 0x8000 * n + o ∨ 0x8000 * n + o + k ≤ x → tget 0 x t.engSram = tget 0 x s.engSram) ∧
      (∀ g, t.engG n g = s.engG n g) ∧ (∀ m, m ≠ n.val → t.engine m = s.engine m) ∧ sameMemories { s with engSram := t.engSram } t ∧
      sameUnits s t ∧ ∀ a, a ≠ ENG_PERF n → t.reg a = s.reg a) ∧
    (∀ o, engPlace (s.engAddr n ra imm).toNat = .caseMem o → s.userDenied n (.caseMem o) true = false →
      4 ≤ o → (o < 0x80000 ∨ 0xB4000 ≤ o) → (o < 0xF0000 ∨ 0xF8000 ≤ o) → ∃ t, exec i s = .next t ∧
      memBytes t.caseMem o k = leBytes k (s.engG n rd).toNat ∧
      (∀ x, x < o ∨ o + k ≤ x → tget 0 x t.caseMem = tget 0 x s.caseMem) ∧
      (∀ g, t.engG n g = s.engG n g) ∧ (∀ m, m ≠ n.val → t.engine m = s.engine m) ∧ sameMemories { s with caseMem := t.caseMem } t ∧
      sameUnits s t ∧ ∀ a, a ≠ ENG_PERF n → t.reg a = s.reg a)

/-- A store or CAS of a USER engine outside its part of Case memory is an access fault and stores nothing. Where the address
is misaligned as well, which of the two causes is reported is left open. -/
def Obligations.UserEngineIsKeptOut : Prop :=
  ∀ (n : EngNo) (ecc : Ecc) (rd ra rb : GReg) (imm : BitVec 18) (s : State), fetchesClean ecc → s.get (ENG_STATUS.STATE n) = 1 →
    s.get (ENG_STATUS.ROLE_NOW n) = 6 →
    (∀ (i : Instr) (k : Nat), (i = .sw n ecc rd ra imm ∧ k = 4 ∨ i = .sh n ecc rd ra imm ∧ k = 2 ∨ i = .sb n ecc rd ra imm ∧ k = 1) → ∀ o, engPlace (s.engAddr n ra imm).toNat = .caseMem o →
      (o < 0x30000 ∨ 0x50000 ≤ o) → (s.engAddr n ra imm).toNat % k = 0 → exec i s = .next (s.engineFault n 3)) ∧
    (∀ o, engPlace (s.engG n ra).toNat = .caseMem o → (o < 0x30000 ∨ 0x50000 ≤ o) →
      exec (.cas n ecc rd ra rb) s = .next (s.engineFault n 3))

/-- A write of a forme-control register by anyone but the valid holder is refused with status 2, counted and recorded with its
path, engine and address. -/
def Obligations.FormeControlNeedsCustody : Prop :=
  (∀ (p : Path) (s : State), s.hasCustody p = true ↔
    s.on FC_CUSTODY.VALID = true ∧ ∃ n : EngNo, p = .engine n ∧ s.get FC_CUSTODY.HOLDER = n) ∧
  ∀ (p : Path) (a w : Word) (s : State),
    (0x10000 ≤ a.toNat ∧ a.toNat < 0x20000 ∨ a.toNat = RST_BLOCK ∨ ∃ n : EngNo, a.toNat = ENG_CMD n) → a.toNat % 4 = 0 →
    place a.toNat ≠ .nothing → s.excludedAt a.toNat = false → s.keepOut = false → s.behind p = false →
    s.hasCustody p = false →
    ∃ t, exec (.registerWrite p a 2 w) s = .next t ∧ t.out.head? = some (.access p a.toNat 2 0) ∧
      t.get FC_CUST_REFUSE.REFUSED = min (s.get FC_CUST_REFUSE.REFUSED + 1)
        (2 ^ (FC_CUST_REFUSE.REFUSED.hi + 1 - FC_CUST_REFUSE.REFUSED.lo) - 1) ∧
      t.get FC_CUST_REFUSE.PATH = pathKind p ∧ t.get FC_CUST_REFUSE.REF_ENG = pathEngine p ∧
      t.reg FC_CUST_ADDR = a ∧ sameMemories s t ∧ t.shadow = s.shadow

/-- SEND puts its message at the end of the target's mailbox, and RECV takes the oldest one into rd and rd + 1. -/
def Obligations.MailboxOrder : Prop :=
  (∀ (n : EngNo) (ecc : Ecc) (rd ra rb : GReg) (tgt mbx : BitVec 4) (m : Nat) (s : State), fetchesClean ecc →
    s.get (ENG_STATUS.STATE n) = 1 → s.mailTarget tgt.toNat = some m → (tget [] mbx.toNat (s.engine m).mail).length < 8 →
    ∃ t, exec (.send n ecc rd ra rb tgt mbx) s = .next t ∧
      tget [] mbx.toNat (t.engine m).mail = tget [] mbx.toNat (s.engine m).mail ++ [(s.engG n ra, s.engG n rb)] ∧
      t.engG n rd = 0) ∧
  (∀ (n : EngNo) (ecc : Ecc) (rd : GReg) (mbx : BitVec 4) (m : Word × Word) (rest : List (Word × Word)) (s : State),
    fetchesClean ecc → s.get (ENG_STATUS.STATE n) = 1 → recvReg rd = true →
    tget [] mbx.toNat (s.engine n).mail = m :: rest →
    ∃ t, exec (.recv n ecc rd mbx) s = .next t ∧ tget [] mbx.toNat (t.engine n).mail = rest ∧
      t.engG n rd = m.1 ∧ t.engG n (rd + 1) = m.2)

/-- In a block that the class excludes a read returns 0 and a write is ignored, and neither raises an error. -/
def Obligations.ExcludedBlockIsSilent : Prop :=
  ∀ (p : Path) (a w : Word) (s : State), a.toNat % 4 = 0 → place (plain a.toNat) ≠ .nothing → s.excludedAt (plain a.toNat) = true →
    s.behind p = false →
    exec (.rcRead p a 2) s = .next (s.emit (.access p a.toNat 0 0)) ∧
    exec (.registerWrite p a 2 w) s = .next (s.emit (.access p a.toNat 0 0))

/-- A write at an address with bit 31 set never changes an active register or any memory: it lands in the shadow Forme or
nowhere. -/
def Obligations.ShadowAliasSparesActive : Prop :=
  ∀ (p : Path) (a w : Word) (sz : Fin 3) (s : State), 2 ^ 31 ≤ a.toNat → s.turnedAway p a.toNat (Machine.sizeOf sz) true ≠ 2 →
    ∃ t, exec (.registerWrite p a sz w) s = .next t ∧ t.regs = s.regs ∧ sameMemories s t ∧
      (s.stalls a.toNat = true ∨ s.behind p = true ∨ t = s.emit (.access p a.toNat (s.turnedAway p a.toNat (Machine.sizeOf sz) true) 0) ∨
        t = (s.writeShadow (plain a.toNat) w).emit (.access p a.toNat 0 0))

/-- Registers of every chapter hold the reset values of their field tables after reset. -/
def Obligations.ResetRegisterValues : Prop :=
  let s := State.reset
  s.get ID_DEVICE.PART = 0x4816 ∧ s.get PACE_PLAN.PLAN_PS = 2500 ∧ s.get PACE_VCORE.VCORE_MV = 750 ∧
  s.get (SP_CLASS.MARGIN_MIN 3) = 8 ∧ s.get (LN_TX.MAIN 3 4) = 0x37 ∧ s.get (LK_POOL_LO.POOL_TC3 2) = 0x80 ∧
  s.get (LK_ACK_TMO.TMO_NS 1) = 4000 ∧ s.get JN_CFG.LOSSLESS = 0xCC ∧ s.get (JN_BUCKET.B 63 15) = 0xE4E4E4E4 ∧
  s.get IMP_CFG.SHRINK_N = 16 ∧ s.get (DA_PL_CLK.PCLK_KHZ 1) = 148500 ∧ s.get (EN_CFG.MTU 0) = 1522 ∧
  s.get LB_CFG.WAIT_MAX = 256 ∧ s.get TM_ADDEND.ADDEND = 0xCCCCCCCD ∧ s.get (ENG_ROLE.WDT_US 11) = 500 ∧
  s.get (ENG_STATUS.TOOK_FROM 0) = 15 ∧ s.get FC_PROB.REVERT_ON = 0x3B ∧ s.get (PP_WIN.OV_DV 9) = 560 ∧
  s.get (SW_SRC.SRC_MAX 3) = 480 ∧ s.get USB_ID.PID_HUB = 0x4817 ∧ s.get KL_CFG.CUST_LIMIT_MS = 500 ∧ s.get (REP_REC.REP_LOC 63) = 0xFFFFFFFF

/-- A power path controller's measurements, timers and commands: in the state that each names, the state and the actions of
R461 to R473 follow. -/
def Obligations.PowerPathCommands : Prop :=
  (∀ (n : Path10) (s : State), (s.ppState n.val = 2 ∨ s.ppState n.val = 4) → s.frozen n.val = false → exec
    (.ppcWindowChange n false) s = .next (((((s.setPath n.val fun p => { p with inWin := false }).put (PP_STATUS.STATE
    n.val) 1).inc (PP_COUNT.WIN_LOSS n.val)).setPath n.val fun p => { p with waited := false }).afterFeed n.val)) ∧
  (∀ (n : Path10) (safe : Bool) (s : State), s.ppState n.val = 1 → (s.path n.val).inWin = true → s.keepHold = false → exec
    (.ppcQualified n safe) s = .next (((s.put (PP_STATUS.STATE n.val) 2).afterFeed n.val).ppClose n.val safe)) ∧
  (∀ (n : Path10) (s : State), s.ppState n.val = 3 → s.frozen n.val = false → exec (.ppcRampDone n) s = .next (((s.put
    (PP_STATUS.STATE n.val) 4).put (PP_STATUS.REGULATING n.val) 0).afterFeed n.val)) ∧
  (∀ (n : Path10) (s : State), s.ppState n.val = 3 → exec (.ppcRampFault n) s = .next (s.ppTrip n.val 3)) ∧
  (∀ (n : Path10) (s : State), (s.ppState n.val = 3 ∨ s.ppState n.val = 4) → exec (.ppcFastTrip n) s = .next (s.ppTrip
    n.val 1)) ∧
  (∀ (n : Path10) (s : State), s.ppState n.val = 4 → exec (.ppcTimedTrip n) s = .next (s.ppTrip n.val 2)) ∧
  (∀ (n : Path10) (s : State), s.ppState n.val = 4 → exec (.ppcGateFault n) s = .next (s.ppDamage n.val 4)) ∧
  (∀ (n : Path10) (s : State), s.hasPath n.val = true → (s.ppState n.val ≤ 2 ∨ s.ppState n.val = 5) → exec (.ppcShort n) s
    = .next (s.ppDamage n.val 5)) ∧
  (∀ (n : Path10) (s : State), exec (.ppcCoolEnd n) s = .next ((s.setPath n.val fun p =>
    { p with coolAt := none }).ppRelease n.val)) ∧
  (∀ (path : Path) (n : Path10) (dmgClr : Bool) (s : State), s.keepOut = false → s.behind path = false → s.blockExcluded
    (PP_CMD n.val) = false → exec (.rearm path n dmgClr) s = .next ((s.ppRearm n.val dmgClr).emit (.access path (PP_CMD
    n.val) 0 0))) ∧
  (∀ (n : Path10) (rise long : Bool) (s : State), s.hasPath n.val = true → s.on (PP_CFG.EN_USE n.val) = true → s.keepHold
    = false → exec (.ppcEnEdge n rise long) s = .next (if rise && long then ((s.put (PP_STATUS.EN_LEVEL n.val)
    rise.toNat).ppToggle n.val).ppEval n.val else (s.put (PP_STATUS.EN_LEVEL n.val) rise.toNat).ppEval n.val)) ∧
  (∀ (path : Path) (n : Path10) (on : Bool) (s : State), s.keepOut = false → s.behind path = false → s.blockExcluded
    (PP_CMD n.val) = false → s.warmRefuses = false → 8 ≤ n.val → (on = false ∨ s.ppState n.val < 5) → exec (.onReq path n
    on) s = .next (((s.put (PP_CMD.ON_REQ n.val) on.toNat).ppEval n.val).emit (.access path (PP_CMD n.val) 0 0))) ∧
  (∀ (near : Bool) (s : State), s.pw.feedGap = true → s.get PP_FEED.ACTIVE < 2 → s.ppState (s.get PP_FEED.ACTIVE) = 2 →
    exec (.feedSwitch near) s = .next ((s.setPw fun p => { p with feedGap := false }).put (PP_STATUS.STATE (s.get
    PP_FEED.ACTIVE)) (if near then 4 else 3)))

/-- The supply, the rails, Keep sleep and wake, and the Keep hold with the link loss and custody limits that go with it. -/
def Obligations.SupplyAndRailCommands : Prop :=
  (∀ (s : State), exec .hvinRise s = .next ((s.setPw fun p => { p with hvLow := false, hvGood := true }).supply)) ∧
  (∀ (s : State), exec .hvinFall s = .next ((s.setPw fun p => { p with hvLow := true, hvGood := false }).supply)) ∧
  (∀ (above : Bool) (s : State), exec (.hvinOvervoltage above) s = .next ((s.setPw fun p =>
    { p with hvOver := above }).supply)) ∧
  (∀ (s : State), s.pw.hvLow = true → s.pw.railsUp = true → exec .keepSleepEntry s = .next (s.keepSleep)) ∧
  (∀ (path : Path) (w : Word) (s : State), s.keepOut = false → s.behind path = false → s.fc.copying = false → exec
    (.keepSleepWrite path w) s = .next ((s.emit (.access path KP_SLEEP 0 0)).sleepWrite path w)) ∧
  (∀ (src : Fin 5) (s : State), s.canWake src.val = true → s.wakeEnabled src.val = true → exec (.wakeEvent src) s = .next
    (if s.pw.hvGood then s.wake src.val else (s.put KP_STATUS.WAKE_SRC src.val).put KP_STATUS.WAKE_PEND 1)) ∧
  (∀ (s : State), s.on KP_STATUS.WAKE_PEND = true → exec (.wakeHvinSample true) s = .next ((s.setPw fun p =>
    { p with hvGood := true, hvLow := false }).supply.wake (s.get KP_STATUS.WAKE_SRC))) ∧
  (∀ (k : Fin 6) (s : State), s.get RST_STATUS.PHASE = 3 → s.pw.railStep = some k.val → k.val < 5 → exec (.railGood k
    true) s = .next (((s.put KP_STATUS.PG_NOW (s.get KP_STATUS.PG_NOW ||| 2 ^ k.val)).put KP_STATUS.EN_NOW (s.get
    KP_STATUS.EN_NOW ||| 2 ^ (k.val + 1))).setPw fun p => { p with railStep := some (k.val + 1) })) ∧
  (∀ (k : Fin 6) (s : State), s.get RST_STATUS.PHASE = 3 → s.pw.railStep = some k.val → exec (.railTimeout k) s = .next
    (s.railFail k.val)) ∧
  (∀ (s : State), s.get RST_STATUS.PHASE = 3 → s.pw.railStep = none → s.get KP_STATUS.RAIL_TRIES < 3 → exec .railRetry s =
    .next (s.railsStart)) ∧
  (∀ (s : State), s.keepHold = false → exec .keepHoldEnter s = .next ((((((s.put KL_STATUS.HOLD 1).inc
    KL_STATUS.HOLDS).setPw fun p => { p with holdAt := s.tm.tick, custWarm := false }).vcWithdraw.when s.pw.hot fun s =>
    s.vcRaiseTo 760).logKeep 26 12 0 0).revertTrigger 3)) ∧
  (∀ (s : State), s.on EV_KL.KL_LOST_NOW = false → exec .klLost s = .next (((s.put EV_KL.KL_LOST_NOW 1).raise
    EV_KL.KL_LOST).latchStewards 21)) ∧
  (∀ (s : State), s.keepHold = true → exec .keepHoldLeave s = .next (((((((((s.put EV_KL.KL_LOST_NOW 0).put KL_STATUS.HOLD
    0).put KL_STATUS.ESCALATED 0).setPw fun p => { p with custWarm := false }).when (((((s.put EV_KL.KL_LOST_NOW 0).put
    KL_STATUS.HOLD 0).put KL_STATUS.ESCALATED 0).setPw fun p => { p with custWarm := false }).on PACE_PLAN.FLOOR) fun t =>
    t.vcKeep 750).afterHold).log 26 12 1 s.holdMs).raise EV_KL.KL_BACK).latchStewards 21)) ∧
  (∀ (s : State), s.keepHold = true → s.on KL_CFG.CUST_NEVER = false → s.pw.custWarm = false → max 1 (s.get
    KL_CFG.CUST_LIMIT_MS) ≤ s.holdMs → exec .custodyLimit s = .next ((s.setPw fun p =>
    { p with custWarm := true }).decideReset srcCustody true s.holdMs)) ∧
  (∀ (s : State), s.keepHold = true → s.pw.custWarm = true → s.on KL_STATUS.ESCALATED = false → exec .custodyEscalation s
    = .next (((s.cairn srcCustody false true s.holdMs).put KL_STATUS.ESCALATED 1).coldReset))

/-- Pace gates and the core voltage: requests outside a hold and a warm reset, and what the regulator reports. -/
def Obligations.VcoreCommands : Prop :=
  (∀ (low high : BitVec 64) (s : State), exec (.paceGate low high) s = .next (if s.paceShort ((s.paceCycles (high ++
    low)).foldl max 0) ∧ (!s.keepHold ∨ 850 ≤ s.get PACE_VCORE.VCORE_MV) then (s.paceNote ((s.paceCycles (high ++
    low)).foldl max 0) ((s.paceCycles (high ++ low)).findIdx (· == (s.paceCycles (high ++ low)).foldl max
    0))).paceEmergency else s.paceNote ((s.paceCycles (high ++ low)).foldl max 0) ((s.paceCycles (high ++ low)).findIdx (·
    == (s.paceCycles (high ++ low)).foldl max 0)))) ∧
  (∀ (n : EngNo) (mv : Fin 1024) (s : State), s.keepHold = false → s.warmRefuses = false → exec (.vcoreRaiseRequest n mv)
    s = .next (((s.vcRaiseTo mv.val).setImp fun i => { i with raiseReq := false }).vcAnswer n 0)) ∧
  (∀ (n : EngNo) (mv : Fin 1024) (s : State), s.keepHold = false → s.warmRefuses = true → exec (.vcoreRaiseRequest n mv) s
    = .next ((s.keepRefuse (.engine n) PACE_VCORE 22).vcAnswer n 3)) ∧
  (∀ (n : EngNo) (s : State), s.keepHold = false → s.warmRefuses = false → s.roomToLower = true → s.pw.vcLowered = false →
    s.pw.vcOp = none → s.vcFloor ≤ s.get PACE_VCORE.VCORE_MV - 5 → exec (.vcoreLowerRequest n) s = .next (((s.setPw fun p
    => { p with vcLowered := true }).vcGo (s.get PACE_VCORE.VCORE_MV - 5)).vcAnswer n 0)) ∧
  (∀ (n : EngNo) (s : State), s.keepHold = false → s.warmRefuses = false → s.roomToLower = true → s.pw.vcLowered = false →
    s.get PACE_VCORE.VCORE_MV - 5 < s.vcFloor → exec (.vcoreLowerRequest n) s = .next ((s.keepRefuse (.engine n)
    PACE_VCORE 22).vcAnswer n 3)) ∧
  (∀ (tj : Fin 256) (s : State), s.get ID_DEVICE.GRADE = 1 → 105 < tj.val → exec (.thermalFloorRaise tj) s = .next
    ((s.setPw fun p => { p with hot := true }).vcKeep 760)) ∧
  (∀ (mv : Fin 1024) (s : State), s.pw.vcOp = some .read → exec (.pmbusTransactionDone true mv) s = .next (s.vcDone
    mv.val)) ∧
  (∀ (w : BitVec 16) (s : State), exec (.pmbAlert (some w)) s = .next ((s.put KP_VCORE.VC_STATUS w.toNat).raiseKeep
    KP_EVENT.VC_ALERT))

/-- Power-on and the phases of a cold start; the results of loads, stages, verification, probation, OTP writes and flash
commands. -/
def Obligations.StartUpCommands : Prop :=
  (∀ (s : State), ∃ t, exec .porKeep s = .next t ∧ t.regs =
    (((({ State.reset with regs := s.regs.filter fun e => e.1 == FC_ROLLBACK || e.1 == ID_SERIAL_LO || e.1 == ID_SERIAL_HI }.put
    FC_ROLLBACK.KEY_BUSY 0).put FC_ROLLBACK.KEY_USED 0).put CAIRN_TIME_HI.NONE 1).put ID_DEVICE.GRADE (s.get
    ID_DEVICE.GRADE)).regs ∧ t.shadow = [] ∧ t.flash = s.flash ∧ t.caseMem = [] ∧ t.engSram = [] ∧ t.galley = [] ∧ t.elog
    = [] ∧ t.eng = [] ∧ t.pending = s.pending) ∧
  (∀ (s : State), s.get RST_STATUS.PHASE = 0 → exec .keepOscStable s = .next ((s.put RST_STATUS.PHASE 1).setRs fun r =>
    { r with coldWait := r.xrstLow })) ∧
  (∀ (chip : ChipTrim) (conv : BitVec 6) (rsnsLow rsnsHigh : BitVec 40) (s : State), s.get RST_STATUS.PHASE = 1 →
    s.rs.coldWait = false → s.rs.trimmed = 0 → exec (.trimLoad true chip conv rsnsLow rsnsHigh) s = .next (((s.put
    ID_DEVICE.GRADE chip.grade.toNat).chipTrim chip.vid.toNat chip.maker.toNat chip.factor).trimNext)) ∧
  (∀ (chip : ChipTrim) (conv : BitVec 6) (rsnsLow rsnsHigh : BitVec 40) (s : State), s.get RST_STATUS.PHASE = 1 →
    s.rs.coldWait = false → s.rs.trimmed ≠ 0 → exec (.trimLoad true chip conv rsnsLow rsnsHigh) s = .next ((s.boardTrim
    conv.toNat fun n => bits (rsnsHigh ++ rsnsLow).toNat (8 * n + 7) (8 * n)).trimNext)) ∧
  (∀ (chip : ChipTrim) (conv : BitVec 6) (rsnsLow rsnsHigh : BitVec 40) (s : State), s.get RST_STATUS.PHASE = 1 →
    s.rs.coldWait = false → exec (.trimLoad false chip conv rsnsLow rsnsHigh) s = .next (s.trimFail)) ∧
  (∀ (r0 r1 r2 r3 : BitVec 16) (s : State), s.get RST_STATUS.PHASE = 2 → strapCode r1.toNat = strapCode r0.toNat →
    strapCode r2.toNat = strapCode r0.toNat → strapCode r3.toNat = strapCode r0.toNat → exec (.strapMeasure r0 r1 r2 r3) s
    = .next ((((s.put RST_STATUS.STRAP_MV (r3.toNat / 10)).put RST_STATUS.STRAP_TRIES (s.get RST_STATUS.STRAP_TRIES +
    1)).put ID_DEVICE.STRAP_DFLT 0).takeStrap (strapCode r0.toNat))) ∧
  (∀ (s : State), s.get RST_STATUS.PHASE = 4 → exec .coreRelease s = .next (((s.put EV_KL.KL_LOST_NOW
    0).startTime.reRepair).formeLoad)) ∧
  (∀ (err : Option (Fin 3 × Fin 255)) (src a : Nat) (s : State), s.fc.op = some (.load src a) → exec (.formeLoadDone err)
    s = .next (if src < 2 ∧ (s.dir.bankState src = 1 ∨ s.dir.bankState src = 3) then s.loadBad src a 1 0xFF else if
    ((s.readImage src (a == 3)).applySource src false (readFault err)).1 = 0 then ((s.readImage src (a == 3)).applySource
    src false (readFault err)).2.2.loadGood src a else ((s.readImage src (a == 3)).applySource src false (readFault
    err)).2.2.loadBad src a ((s.readImage src (a == 3)).applySource src false (readFault err)).1 ((s.readImage src (a ==
    3)).applySource src false (readFault err)).2.1)) ∧
  (∀ (err : Option (Fin 3 × Fin 255)) (src : Nat) (s : State), s.fc.op = some (.stage src) → s.on FC_STATUS.REVERTING =
    false → exec (.stageDone err) s = .next ((s.stageEnd src (readFault err)).2)) ∧
  (∀ (err : Option (Fin 3 × Fin 255)) (src : Nat) (s : State), s.fc.op = some (.verify src) → exec (.verifyDone err) s =
    .next (((((s.openFlash false).readImage src false).loadResult 2 src 1 (((s.openFlash false).readImage src
    false).applySource src false (readFault err)).1 (((s.openFlash false).readImage src false).applySource src false
    (readFault err)).2.1).put FC_STATUS.STAGE_BUSY 0).setFc fun f => { f with op := none })) ∧
  (∀ (err : Option (Fin 3 × Fin 255)) (src : Nat) (s : State), s.fc.op = some (.stage src) → s.on FC_STATUS.REVERTING =
    true → (s.stageEnd src (readFault err)).1 = true → exec (.revertStageDone err) s = .next ((s.stageEnd src (readFault
    err)).2.revertReady (s.get FC_STATUS.ACT_SRC))) ∧
  (∀ (err : Option (Fin 3 × Fin 255)) (src : Nat) (s : State), s.fc.op = some (.stage src) → s.on FC_STATUS.REVERTING =
    true → (s.stageEnd src (readFault err)).1 = false → exec (.revertStageDone err) s = .next (((((s.stageEnd src
    (readFault err)).2.put FC_STATUS.PROB 0).put FC_STATUS.PROB_LEFT 0).put FC_STATUS.REVERTING 0).raise
    FC_EVENT.REVERT_FAIL)) ∧
  (∀ (s : State), s.onProbation = true → s.get FC_STATUS.PROB_LEFT = 0 → exec .probationEnd s = .next (if s.on
    FC_PROB.PROB_AUTO then s.commitNow else s.startRevert)) ∧
  (∀ (data : List Byte) (eff : FlashEffect) (w a : Word) (s : State), s.fc.flCmd = some (w, a) → wordField w 30 30 = 1 →
    exec (.flashCommandDone data eff) s = .next ((((s.flashEffect a.toNat (s.bufBytes (min 256 (wordField w 28 20)))
    eff).setFc fun f => { f with flCmd := none }).put FC_FL_STAT.FL_BUSY 0).raise FC_EVENT.FL_DONE)) ∧
  (∀ (data : List Byte) (eff : FlashEffect) (w a : Word) (s : State), s.fc.flCmd = some (w, a) → wordField w 30 30 ≠ 1 →
    exec (.flashCommandDone data eff) s = .next (((((s.flashEffect a.toNat [] eff).bufPut (padTo (min 256 (wordField w 28
    20)) data)).setFc fun f => { f with flCmd := none }).put FC_FL_STAT.FL_BUSY 0).raise FC_EVENT.FL_DONE)) ∧
  (∀ (k : Nat) (r : List OtpOp) (s : State), s.fc.otp = List.cons (.revoke k) r → exec .otpWriteDone s = .next ((s.put
    FC_ROLLBACK.KEY_REVOKED (s.get FC_ROLLBACK.KEY_REVOKED ||| 2 ^ k)).otpNext)) ∧
  (∀ (k : Nat) (b : List Byte) (r : List OtpOp) (s : State), s.fc.otp = List.cons (.prog k b) r → exec .otpWriteDone s =
    .next ((s.put FC_ROLLBACK.KEY_PROG (s.get FC_ROLLBACK.KEY_PROG ||| 2 ^ k)).otpNext.setFc fun f =>
    { f with keyHash := tput [] k b f.keyHash })) ∧
  (∀ (n : Nat) (r : List OtpOp) (s : State), s.fc.otp = List.cons (.step n) r → (s.put FC_ROLLBACK.OTP_COUNT (s.get
    FC_ROLLBACK.OTP_COUNT + 1)).get FC_ROLLBACK.OTP_COUNT < n → exec .otpWriteDone s = .next (s.put FC_ROLLBACK.OTP_COUNT
    (s.get FC_ROLLBACK.OTP_COUNT + 1))) ∧
  (∀ (n : Nat) (r : List OtpOp) (s : State), s.fc.otp = List.cons (.step n) r → n ≤ (s.put FC_ROLLBACK.OTP_COUNT (s.get
    FC_ROLLBACK.OTP_COUNT + 1)).get FC_ROLLBACK.OTP_COUNT → exec .otpWriteDone s = .next ((s.put FC_ROLLBACK.OTP_COUNT
    (s.get FC_ROLLBACK.OTP_COUNT + 1)).otpNext))

/-- The sources of a reset, requests to the reset controller, and the phases that a reset goes through. -/
def Obligations.ResetSources : Prop :=
  (∀ (idx : Fin 7) (s : State), s.pw.railsUp = true → exec (.bor idx) s = .next ((s.endEscalation.railsOff).decideReset
    srcBor false idx.val)) ∧
  (∀ (s : State), s.get RST_STATUS.PHASE ≠ 0 → exec .xrst s = .next ((((s.setRs fun r => { r with xrstLow := true }).when
    (s.get KP_STATUS.RAIL_TRIES == 3) fun s => s.put KP_STATUS.RAIL_TRIES 0).endEscalation).decideReset srcXrst (s.on
    RST_CFG.XRST_WARM) (s.on RST_CFG.XRST_WARM).toNat)) ∧
  (∀ (s : State), exec .xrstRelease s = .next (s.setRs fun r => { r with xrstLow := false, coldWait := false })) ∧
  (∀ (x : TempReading) (s : State), s.get RST_STATUS.PHASE ≠ 0 → s.get RST_STATUS.PHASE ≠ 11 → s.shutdownPoint < x.tj.val
    → exec (.therm x) s = .next ((((s.endEscalation.railsOff).decideReset srcTherm false x.sensor.val).put
    RST_STATUS.PHASE 11).setPw fun p => { p with thermStay := !s.on RST_CFG.THERM_RESTART })) ∧
  (∀ (s : State), s.get RST_STATUS.PHASE = 11 → s.pw.thermStay = false → exec .thermRestart s = .next ((s.put
    RST_STATUS.PHASE 1).setRs fun r => { r with coldWait := r.xrstLow })) ∧
  (∀ (s : State), s.rs.warm = true → s.get RST_STATUS.PHASE ≠ 9 → exec .warmReset s = .next (s.warmApply)) ∧
  (∀ (s : State), s.get RST_STATUS.PHASE = 9 → s.rs.xrstLow = false → s.rs.restored = true → exec .warmResetRelease s =
    .next ((s.setRs fun r => { r with released := true }).warmFinish)) ∧
  (∀ (s : State), s.get RST_STATUS.PHASE = 9 → s.rs.restored = false → exec (.retainedRecordRestore false) s = .next
    ((s.cairn srcForme false true (3 * 64)).coldReset)) ∧
  (∀ (r : Retained) (s : State), s.get RST_STATUS.PHASE = 9 → s.rs.restored = false → s.fc.record = some r → s.fc.recGood
    = true → (s.restoreRecord r).rs.released = false → exec (.retainedRecordRestore true) s = .next (s.restoreRecord r)) ∧
  (∀ (path : Path) (b : Fin 32) (s : State), s.keepOut = false → s.behind path = false → s.hasCustody path = true → exec
    (.blockHold path b) s = .next ((s.writeHold b.val true).emit (.access path RST_BLOCK 0 0))) ∧
  (∀ (path : Path) (b : Fin 32) (s : State), s.keepOut = false → s.behind path = false → s.hasCustody path = true → exec
    (.blockRelease path b) s = .next ((s.writeHold b.val false).emit (.access path RST_BLOCK 0 0))) ∧
  (∀ (path : Path) (key : Byte) (s : State), s.keepOut = false → s.behind path = false → exec (.softWarm path key) s =
    .next ((s.softReset path (BitVec.ofNat 32 (key.toNat * 2 ^ 24 + 1))).2 (s.emit (.access path RST_CMD (s.softReset path
    (BitVec.ofNat 32 (key.toNat * 2 ^ 24 + 1))).1 0)))) ∧
  (∀ (path : Path) (key : Byte) (s : State), s.keepOut = false → s.behind path = false → exec (.softCold path key) s =
    .next ((s.softReset path (BitVec.ofNat 32 (key.toNat * 2 ^ 24 + 2))).2 (s.emit (.access path RST_CMD (s.softReset path
    (BitVec.ofNat 32 (key.toNat * 2 ^ 24 + 2))).1 0)))) ∧
  (∀ (path : Path) (s : State), s.keepOut = false → s.behind path = false → exec (.rstNonce path) s = .next ((s.readNonce
    path).2.emit (.access path RST_NONCE 0 (BitVec.ofNat 32 (s.readNonce path).1)))) ∧
  (∀ (path : Path) (w : Word) (s : State), s.keepOut = false → s.behind path = false → exec (.rstRemote path w) s = .next
    ((s.remoteReset path w).2 (s.emit (.access path RST_REMOTE (s.remoteReset path w).1 0)))) ∧
  (∀ (s : State), ∃ t, exec .porKeep s = .next t ∧ t.regs =
    (((({ State.reset with regs := s.regs.filter fun e => e.1 == FC_ROLLBACK || e.1 == ID_SERIAL_LO || e.1 == ID_SERIAL_HI }.put
    FC_ROLLBACK.KEY_BUSY 0).put FC_ROLLBACK.KEY_USED 0).put CAIRN_TIME_HI.NONE 1).put ID_DEVICE.GRADE (s.get
    ID_DEVICE.GRADE)).regs ∧ t.shadow = [] ∧ t.flash = s.flash ∧ t.caseMem = [] ∧ t.engSram = [] ∧ t.galley = [] ∧ t.elog
    = [] ∧ t.eng = [] ∧ t.pending = s.pending) ∧
  (∀ (s : State), s.get RST_STATUS.PHASE = 0 → exec .keepOscStable s = .next ((s.put RST_STATUS.PHASE 1).setRs fun r =>
    { r with coldWait := r.xrstLow })) ∧
  (∀ (chip : ChipTrim) (conv : BitVec 6) (rsnsLow rsnsHigh : BitVec 40) (s : State), s.get RST_STATUS.PHASE = 1 →
    s.rs.coldWait = false → s.rs.trimmed = 0 → exec (.trimLoad true chip conv rsnsLow rsnsHigh) s = .next (((s.put
    ID_DEVICE.GRADE chip.grade.toNat).chipTrim chip.vid.toNat chip.maker.toNat chip.factor).trimNext)) ∧
  (∀ (chip : ChipTrim) (conv : BitVec 6) (rsnsLow rsnsHigh : BitVec 40) (s : State), s.get RST_STATUS.PHASE = 1 →
    s.rs.coldWait = false → s.rs.trimmed ≠ 0 → exec (.trimLoad true chip conv rsnsLow rsnsHigh) s = .next ((s.boardTrim
    conv.toNat fun n => bits (rsnsHigh ++ rsnsLow).toNat (8 * n + 7) (8 * n)).trimNext)) ∧
  (∀ (chip : ChipTrim) (conv : BitVec 6) (rsnsLow rsnsHigh : BitVec 40) (s : State), s.get RST_STATUS.PHASE = 1 →
    s.rs.coldWait = false → exec (.trimLoad false chip conv rsnsLow rsnsHigh) s = .next (s.trimFail)) ∧
  (∀ (r0 r1 r2 r3 : BitVec 16) (s : State), s.get RST_STATUS.PHASE = 2 → strapCode r1.toNat = strapCode r0.toNat →
    strapCode r2.toNat = strapCode r0.toNat → strapCode r3.toNat = strapCode r0.toNat → exec (.strapMeasure r0 r1 r2 r3) s
    = .next ((((s.put RST_STATUS.STRAP_MV (r3.toNat / 10)).put RST_STATUS.STRAP_TRIES (s.get RST_STATUS.STRAP_TRIES +
    1)).put ID_DEVICE.STRAP_DFLT 0).takeStrap (strapCode r0.toNat))) ∧
  (∀ (s : State), s.get RST_STATUS.PHASE = 4 → exec .coreRelease s = .next (((s.put EV_KL.KL_LOST_NOW
    0).startTime.reRepair).formeLoad))

/-- Cable ports: attach, detach, contracts as source and sink. -/
def Obligations.CableAttachAndPower : Prop :=
  (∀ (c : CPort) (s : State), s.cState c.val = 0 → s.freePull c.val ≠ 0 → (s.port6 c.val).leaving = false → exec
    (.cableAttachLevel c) s = .next (((s.put (cSt c.val) 1).setPort6 c.val fun x =>
    { x with pull := s.freePull c.val, trying := false, tried := false }).scwLevel c.val 1)) ∧
  (∀ (c : CPort) (rp : Fin 3) (s : State), s.cState c.val = 1 → (s.port6 c.val).trying = false → exec (.attachDebounceDone
    c true false rp) s = .next (s.attach c.val (if (s.port6 c.val).pull = 1 then 2 else 1) rp.val)) ∧
  (∀ (c : CPort) (rp : Fin 3) (s : State), (s.port6 c.val).trying = true → exec (.trySrcTimeout c true rp) s = .next
    (s.attach c.val (if (s.port6 c.val).pull = 1 then 2 else 1) rp.val)) ∧
  (∀ (c : CPort) (s : State), s.cState c.val = 0 → s.roleAllowed c.val 1 = true → s.roleAllowed c.val 2 = true → exec
    (.drpToggle c) s = .next (s.setPort6 c.val fun x => { x with dualUp := !x.dualUp })) ∧
  (∀ (c : CPort) (s : State), s.cState c.val = 1 → (s.port6 c.val).leaving = false → exec (.cableDetach c) s = .next
    ((s.put (cSt c.val) 0).scwLevel c.val 0)) ∧
  (∀ (n : Path10) (s : State), ((s.ppClose n.val true).path n.val).dsch = true → exec (.safeLowReached n) s = .next
    (((s.ppClose n.val true).discharge (n.val - 2) false).setPort6 (n.val - 2) fun x => { x with leaving := false })) ∧
  (∀ (c : CPort) (s : State), (s.path (2 + c.val)).dsch = true → exec (.safeLowTimeout c) s = .next ((((s.discharge c.val
    false).cableDrop c.val 9).ppWithdraw (2 + c.val)).cpEvent c.val CP_EVENT.SAFE_TMO)) ∧
  (∀ (c : CPort) (s : State), s.cState c.val = 9 → s.ppState (2 + c.val) = 0 → exec (.errorStateExpiry c) s = .next
    ((s.put (cSt c.val) 0).scwLevel c.val 0)) ∧
  (∀ (c : CPort) (objs : List Word) (s : State), s.get (cRole c.val) = 1 → s.keepHold = false → (s.cState c.val = 2 ∨
    s.cState c.val = 5) → ¬ c.val < 4 → exec (.sourceCapabilitiesRx c objs) s = .next (((s.setPort6 c.val fun x =>
    { x with before := s.cState c.val, askV := (s.dockAsk c.val objs).mv, askI := (s.dockAsk c.val objs).ma, askKind := (s.dockAsk c.val objs).kind, rdo := (s.dockAsk c.val objs).rdo c.val }).put
    (cSt c.val) 3).emit (.pd c.val .request [(s.dockAsk c.val objs).rdo c.val]))) ∧
  (∀ (c : CPort) (rdo : Word) (bus : Fin 1200) (ext : Bool) (s : State), s.get (cRole c.val) = 2 → s.cState c.val = 2 →
    s.keepHold = true → exec (.requestRx c rdo bus ext) s = .next (s.emit (.pd c.val .wait []))) ∧
  (∀ (c : CPort) (s : State), s.cState c.val = 3 → exec (.pdAcceptRx c) s = .next ((s.put (cSt c.val) 4).orderPath c.val 1
    (s.port6 c.val).askI (moveWindow c.val (s.cv c.val) (s.port6 c.val).askV))) ∧
  (∀ (c : CPort) (s : State), exec (.pdRejectRx c) s = .next (s.backToBefore c.val)) ∧
  (∀ (c : CPort) (s : State), exec (.pdWaitRx c) s = .next (s.backToBefore c.val)) ∧
  (∀ (c : CPort) (s : State), s.cState c.val = 4 → s.get (cRole c.val) = 1 → exec (.psRdyRx c) s = .next (s.contractNow
    c.val)) ∧
  (∀ (p : Port) (s : State), s.cState p.val = 5 → s.get (cRole p.val) = 2 → (s.port6 p.val).explicit = true → s.silentMs
    p.val 6000 = true → exec (.spineContractLapse p) s = .next (((((s.put (cSt p.val) 6).setPath (2 + p.val) fun x =>
    { x with limit := s.get (SW_POLICY.LAPSE_MA p.val) }).emit (.pd p.val .alert [])).inc (SW_CNT.LAPSES p.val)).cpEvent
    p.val CP_EVENT.LAPSE)) ∧
  (∀ (m : Fin 2) (s : State), s.get (cRole (4 + m.val)) = 2 → exec (.eprKeepaliveRx m) s = .next (s.alive (4 + m.val))) ∧
  (∀ (c : CPort) (s : State), s.cState c.val = 5 → s.get (cRole c.val) = 1 → c.val < 4 → exec (.sinkKeepaliveSend c) s =
    .next (s.emit (.pd c.val .request [(s.port6 c.val).rdo]))) ∧
  (∀ (m : Fin 2) (s : State), s.cState (4 + m.val) = 5 → s.get (cRole (4 + m.val)) = 2 → 3 ≤ s.get (DK_STATE.KIND m.val) →
    s.silentMs (4 + m.val) (s.kaLimitMs m.val) = true → exec (.kaTimeout m) s = .next ((((s.emit (.pd (4 + m.val)
    .hardReset [])).hardReset (4 + m.val)).inc (DK_CNT.KA_TMO m.val)).cpEvent (4 + m.val) CP_EVENT.KA_TMO))

/-- Swaps, Hard Reset, fast role swap and DisplayPort Alternate Mode. -/
def Obligations.CableSwapsAndModes : Prop :=
  (∀ (c : CPort) (s : State), exec (.prSwapRx c) s = .next (s.answerSwap c.val (s.cState c.val == 5 && s.roleAllowed c.val
    (3 - s.get (cRole c.val))) fun s => (s.put (cSt c.val) 7).setPort6 c.val fun x =>
    { x with swap := 1, toSource := false })) ∧
  (∀ (c : CPort) (s : State), s.cState c.val = 7 → (s.port6 c.val).swap = 2 → (s.port6 c.val).toSource = false → exec
    (.frSwapRx c) s = .next (s.emit (.pd c.val .accept []))) ∧
  (∀ (m : Fin 2) (s : State), s.cState (4 + m.val) = 2 → s.keepHold = false → s.on (DK_POLICY.VCONN_EN m.val) = true →
    exec (.vconnSwapRx m) s = .next ((s.emit (.pd (4 + m.val) .accept [])).put (DK_STATE.VCONN_ON m.val) (1 - s.get
    (DK_STATE.VCONN_ON m.val)))) ∧
  (∀ (m : Fin 2) (s : State), exec (.drSwapRx m) s = .next (s.answerSwap (4 + m.val) (s.on (DK_STATE.DROLE m.val)) fun s
    => s.put (DK_STATE.DROLE m.val) 0)) ∧
  (∀ (m : Fin 2) (s : State), (s.port6 (4 + m.val)).drSent = true → exec (.drSwapResult m true) s = .next (s.put
    (DK_STATE.DROLE m.val) 0)) ∧
  (∀ (c : CPort) (s : State), 2 ≤ s.cState c.val → s.cState c.val ≠ 9 → exec (.hardResetRx c) s = .next (s.hardReset
    c.val)) ∧
  (∀ (c : CPort) (rp : Fin 3) (s : State), s.cState c.val = 8 → (s.path (2 + c.val)).dsch = false → exec
    (.hardResetRecover c rp) s = .next (s.enterDefault c.val (s.get (cRole c.val)) rp.val)) ∧
  (∀ (m : Fin 2) (s : State), s.on (DK_STATE.VCONN_ON m.val) = true → exec (.vconnFault m) s = .next (((s.put
    (DK_STATE.VCONN_ON m.val) 0).setPort6 (4 + m.val) fun x => { x with vcFault := true }).cpEvent (4 + m.val)
    CP_EVENT.VCONN_FAULT)) ∧
  (∀ (m : Fin 2) (s : State), s.cState (4 + m.val) < 2 → exec (.cableIdentityRx m none) s = .next ((s.put (DK_CABLE.CBL_I
    m.val) 0).put (DK_CABLE.CBL_EPR m.val) 0)) ∧
  (∀ (c : CPort) (s : State), s.frsEn c.val = true → s.get (cRole c.val) = 2 → (s.cState c.val = 5 ∨ s.cState c.val = 6) →
    s.feedOn = false → s.ppState (2 + c.val) = 4 → exec (.fastSwapDetect c) s = .next ((((s.emit (.scw c.val
    true)).fastRole c.val 1).put (cSt c.val) 7).setPort6 c.val fun x => { x with swap := 2, toSource := false })) ∧
  (∀ (c : CPort) (busOk : Bool) (s : State), s.get (cRole c.val) = 1 → s.fsArmed c.val busOk = false → exec
    (.fastSwapSignalRx c busOk) s = .next (s.fsFail c.val)) ∧
  (∀ (c : CPort) (s : State), (s.port6 c.val).swap = 2 → (s.port6 c.val).toSource = false → exec (.fastSwapPulseEnd c) s =
    .next (s.emit (.scw c.val false))) ∧
  (∀ (m : Fin 2) (s : State), s.altOffered m.val = true → exec (.discoverIdentity m) s = .next (s.emit (.pd (4 + m.val)
    .identity []))) ∧
  (∀ (m : Fin 2) (s : State), s.altOffered m.val = true → exec (.discoverSvids m) s = .next (s.emit (.pd (4 + m.val)
    .svids [0xFF01]))) ∧
  (∀ (m : Fin 2) (s : State), s.altOffered m.val = true → exec (.discoverModes m) s = .next (s.emit (.pd (4 + m.val)
    .modes [0b10100]))) ∧
  (∀ (m : Fin 2) (s : State), s.altOffered m.val = true → exec (.enterMode m) s = .next (s.emit (.pd (4 + m.val) .ack
    []))) ∧
  (∀ (m : Fin 2) (pin : Fin 8) (s : State), s.altOffered m.val = true → (pin.val = 2 ∨ pin.val = 4) → exec
    (.displayportConfigure m pin) s = .next ((s.put (DK_STATE.ALT_ON m.val) 1).emit (.pd (4 + m.val) .ack []))) ∧
  (∀ (m : Fin 2) (s : State), s.on (DK_STATE.ALT_ON m.val) = true → exec (.exitMode m) s = .next ((s.put (DK_STATE.ALT_ON
    m.val) 0).emit (.pd (4 + m.val) .exitMode []))) ∧
  (∀ (m : Fin 2) (s : State), s.altOffered m.val = true → exec (.displayportStatusUpdate m) s = .next (s.emit (.pd (4 +
    m.val) .dpStatus [s.hpdState m.val]))) ∧
  (∀ (m : Fin 2) (s : State), exec (.notSupportedReply m) s = .next (s.emit (.pd (4 + m.val) .notSupported [])))

/-- Spine ports: from the clock to ACTIVE, the state entered by each event and timer. -/
def Obligations.SpineTrainingCommands : Prop :=
  (∀ (p : Port) (s : State), s.spState p.val ≠ stDisabled → s.spState p.val ≠ stHoldoff → s.spState p.val ≠ stTest → exec
    (.fckLoss p) s = .next ((((s.raise (SP_EVENT.FCK_LOSS p.val)).inc (SP_FCK.LOSS_CNT p.val)).put (SP_FCK.RX_LOCK p.val)
    0).enterState p.val stDetect)) ∧
  (∀ (p : Port) (rate : Fin 3) (s : State), s.spState p.val = stDetect → rate.val = s.get (SP_STATE.RATE p.val) → exec
    (.fckLocked p rate) s = .next (((s.put (SP_FCK.RX_LOCK p.val) 1).put (SP_FCK.RX_RATE p.val) rate.val).enterState p.val
    stLock)) ∧
  (∀ (p : Port) (good : BitVec 5) (fast : Bool) (s : State), s.spState p.val = stLock → 4 ≤ popCount good.toNat 5 → exec
    (.lanesLocked p good fast) s = .next (((s.each (bitList good.toNat 5) fun k s => s.put (LN_RX_STAT.LOCK p.val k)
    1).setPort p.val fun x => { x with partFast := fast }).enterState p.val (if (s.port p.val).fast && fast then stCheck
    else stEqualize))) ∧
  (∀ (p : Port) (pperm : BitVec 5) (s : State), s.spState p.val = stEqualize → ((List.range 5).all fun k => (s.lane p.val
    k).rxReady && (s.lane p.val k).partReady) = true → exec (.equalizeDone p pperm) s = .next (s.enterAlign p.val (bitList
    pperm.toNat 5))) ∧
  (∀ (p : Port) (s : State), s.spState p.val = stAlign → s.alignedTwice p.val = true → (s.rxLanes p.val roleActive).length
    = 4 → exec (.alignDone p) s = .next (s.enterState p.val stCaps)) ∧
  (∀ (p : Port) (rxClean txClean pperm : BitVec 5) (s : State), (s.spState p.val = stLock ∨ s.spState p.val = stAlign ∨
    s.spState p.val = stCaps) → exec (.trainingTimeout p rxClean txClean pperm) s = .next (s.rateDown p.val)) ∧
  (∀ (p : Port) (s : State), s.spState p.val = stHoldoff → exec (.holdoffExpiry p) s = .next ((s.put (SP_STATE.RATE p.val)
    (s.startRate p.val)).enterState p.val stDetect)) ∧
  (∀ (p : Port) (w : LaneNo) (b : BitVec 160) (margin : Fin 64) (ask : Option (Fin 4 × Fin 3 × Fin 8)) (n : Nat) (inv :
    Bool) (s : State), readBlock b = some (n, inv) → bits n 123 121 ≤ 4 → exec (.trainingBlockRx p w b margin ask) s =
    .next ((s.learn p.val w.val (bits n 123 121)).takeBlock p.val (bits n 123 121) n inv margin.val ask)) ∧
  (∀ (p : Port) (w : LaneNo) (b : BitVec 160) (margin : Fin 64) (ask : Option (Fin 4 × Fin 3 × Fin 8)) (s : State),
    readBlock b = none → exec (.trainingBlockRx p w b margin ask) s = .next ((s.setLane p.val (s.rxLane p.val w.val) fun l
    => { l with goodBlocks := 0 }).spareErrs p.val (s.rxLane p.val w.val) 1)) ∧
  (∀ (p : Port) (k : LaneNo) (s : State), (s.lane p.val k.val).reqOut = true → (s.lane p.val k.val).reqReps < 16 → exec
    (.tapRequestTimeout p k) s = .next (s.setLane p.val k.val fun l => { l with reqReps := l.reqReps + 1 })) ∧
  (∀ (p : Port) (s : State), exec (.testEnter p) s = .next (s.testEnter p.val)) ∧
  (∀ (p : Port) (s : State), exec (.testExit p) s = .next (s.testExit p.val)) ∧
  (∀ (p : Port) (s : State), exec (.retrain p) s = .next (s.retrain p.val)) ∧
  (∀ (p : Port) (k : LaneNo) (s : State), exec (.injGo p k) s = .next (s.injGo p.val k.val)) ∧
  (∀ (p : Port) (w : LaneNo) (early late : BitVec 80) (s : State), exec (.prbsCheckerLock p w early late) s = .next
    (s.check p.val (s.rxLane p.val w.val) (numBits 160 (early ++ late).toNat))) ∧
  (∀ (p : Port) (bad : Bool) (s : State), s.spState p.val = stTest → exec (.txSlot ⟨p, bad⟩) s = .next (s.sendLanes p.val
    none (((List.range 5).filter fun k => s.on (LN_PRBS.GEN_EN p.val k)).map fun k => (k, LaneSend.test 160)))) ∧
  (∀ (p : Port) (bad : Bool) (s : State), (s.spState p.val = stDetect ∨ s.spState p.val = stLock ∨ s.spState p.val =
    stEqualize ∨ s.spState p.val = stCheck) → exec (.txSlot ⟨p, bad⟩) s = .next (s.trainSlot p.val)) ∧
  (∀ (p : Port) (s : State), s.spState p.val = stActive → (s.port p.val).pauseLane = none → (s.port p.val).slotIx % 16384
    ≠ 0 → exec (.txSlot ⟨p, false⟩) s = .next ((s.frameSlot p.val).setPort p.val fun x =>
    { x with slotIx := ((s.port p.val).slotIx + 1) % 16384 })) ∧
  (∀ (p : Port) (s : State), s.spState p.val = stActive → (s.port p.val).pauseLane = none → s.replayDue p.val = true →
    exec (.txSlot ⟨p, true⟩) s = .next ((s.replayEccLoss p.val).trainSlot p.val))

/-- The lane-level Detour: markers, swaps, readmission, narrowing. -/
def Obligations.SpineLaneDetourCommands : Prop :=
  (∀ (p : Port) (w : LaneNo) (m : BitVec 160) (rxBip : BitVec 8) (margin : Fin 64) (arrival pauseNs : BitVec 16) (n : Nat)
    (s : State), (s.spState p.val = stAlign ∨ s.spState p.val = stCaps ∨ s.spState p.val = stActive) → readMarker m = some
    n → bits n 111 109 ≤ 4 → exec (.amReceive p w m rxBip margin arrival pauseNs) s = .next ((s.learn p.val w.val (bits n
    111 109)).takeInterval p.val ((s.learn p.val w.val (bits n 111 109)).rxLane p.val w.val) (some n) rxBip margin.val
    arrival.toNat pauseNs.toNat)) ∧
  (∀ (p : Port) (w : LaneNo) (m : BitVec 160) (rxBip : BitVec 8) (margin : Fin 64) (arrival pauseNs : BitVec 16) (s :
    State), (s.spState p.val = stAlign ∨ s.spState p.val = stCaps ∨ s.spState p.val = stActive) → readMarker m = none →
    exec (.amReceive p w m rxBip margin arrival pauseNs) s = .next (s.takeInterval p.val (s.rxLane p.val w.val) none rxBip
    margin.val arrival.toNat pauseNs.toNat)) ∧
  (∀ (p : Port) (k : LaneNo) (s : State), s.spState p.val = stActive → exec (.swapRequestRx p k) s = .next (s.swapRequest
    p.val k.val)) ∧
  (∀ (p : Port) (k : LaneNo) (s : State), s.spState p.val = stActive → exec (.swapBlockRx p k) s = .next (s.swapBlock
    p.val k.val)) ∧
  (∀ (p : Port) (s : State), exec (.swapPauseEnd p) s = .next (s.endPause p.val)) ∧
  (∀ (p : Port) (k : LaneNo) (s : State), s.spState p.val = stActive → exec (.readmitRequestRx p k) s = .next
    (s.readmitRequest p.val k.val)) ∧
  (∀ (p : Port) (s : State), exec (.readmit p) s = .next (s.readmitPort p.val)) ∧
  (∀ (p : Port) (k : LaneNo) (s : State), exec (.force p k) s = .next (s.force p.val k.val)) ∧
  (∀ (p : Port) (k : LaneNo) (s : State), exec (.clear p k) s = .next (s.clearLane p.val k.val)) ∧
  (∀ (p : Port) (lane : LaneNo) (s : State), s.spState p.val = stActive → (s.port p.val).narrowTo = none → exec (.narrowRx
    p lane) s = .next (s.oweNarrow p.val lane.val s.tm.tick)) ∧
  (∀ (p : Port) (lane : LaneNo) (s : State), s.spState p.val = stActive → (s.port p.val).narrowTo.isSome = true → exec
    (.narrowRx p lane) s = .next (s.setPort p.val fun x =>
    { x with narrowNext := x.narrowNext ++ [(lane.val, s.tm.tick)] })) ∧
  (∀ (p : Port) (keep : List Nat) (spare : Option Nat) (s : State), (s.port p.val).narrowTo = some (keep, spare) → exec
    (.widthChange p) s = .next (s.changeWidth p.val keep spare))

/-- Frames of the spine link: acknowledgement, replay, credits, capabilities, link delay. -/
def Obligations.SpineLinkFrameCommands : Prop :=
  (∀ (p : Port) (f : List Byte) (ecc : Bool) (s : State), exec (.dataFrameRx p f ecc) s = .next (s.frameRx p.val (padTo 80
    f) ecc)) ∧
  (∀ (p : Port) (seq ack : BitVec 12) (ackv retry ecc : Bool) (s : State), s.spState p.val = stActive →
    ({ seq := seq.toNat, ack := ack.toNat, ftype := 3, ackv := ackv, retry := retry, idle := true } : Trailer).malformed =
    false → seqDistance seq.toNat (s.get (LK_SEQ_RX.EXPECTED p.val)) ≠ 2048 → exec (.ackOnlyFrameRx p seq ack ackv retry
    ecc) s = .next (s.goodFrame p.val
    { seq := seq.toNat, ack := ack.toNat, ftype := 3, ackv := ackv, retry := retry, idle := true } [] ecc)) ∧
  (∀ (p : Port) (s : State), (s.link p.val).accepted ≠ 0 → exec (.ackUpdateDue p) s = .next (s.updateAck p.val)) ∧
  (∀ (p : Port) (s : State), (s.link p.val).nakOwed = false → exec (.retryReqExpiry p) s = .next (s.setLink p.val fun l =>
    { l with nakOut := false })) ∧
  (∀ (p : Port) (s : State), s.spState p.val = stActive → (s.link p.val).replay ≠ [] → (s.port p.val).pauseLane = none →
    exec (.ackTimeout p false) s = .next ((s.inc (LK_REPLAY.TMO p.val)).startReplay p.val 0 none)) ∧
  (∀ (p : Port) (s : State), exec (.linkSilence p) s = .next (s.retrain p.val)) ∧
  (∀ (p : Port) (s : State), s.spState p.val ≠ stActive → exec (.seqStateExpiry p) s = .next (s.dropSeq p.val)) ∧
  (∀ (p : Port) (s : State), s.spState p.val = stActive → exec (.creditFrameDue p) s = .next (s.setLink p.val fun l =>
    { l with creditDue := true })) ∧
  (∀ (p : Port) (ret : BitVec 128) (s : State), s.spState p.val = stActive → exec (.creditFrameRx p ret) s = .next (s.each
    (List.range 8) fun c s => s.takeReturned p.val c (bits ret.toNat (16 * c + 15) (16 * c)))) ∧
  (∀ (p : Port) (slot : List Byte) (s : State), s.spState p.val = stCaps → exec (.capabilityRecordRx p slot) s = .next
    (s.agreeCaps p.val (CapRec.ofSlot (padTo 72 slot)))) ∧
  (∀ (p : Port) (id : BitVec 16) (ta arrived : Stamp) (s : State), s.spState p.val = stActive → exec (.linkDelayRequestRx
    p id ta arrived) s = .next (s.setLink p.val fun l =>
    { l with delay := l.delay ++ [{ slot := delaySlot 2 id.toNat (Stamp.bytes ta) (Stamp.bytes arrived) }] })) ∧
  (∀ (p : Port) (id : BitVec 16) (ta tb tc arrived : Stamp) (s : State), s.spState p.val = stActive → id.toNat = (s.link
    p.val).delayId → (s.link p.val).delays = [] → exec (.linkDelayResponseRx p id ta tb tc arrived) s = .next
    (s.acceptDelay p.val [((stampUnits tb - stampUnits ta) + (stampUnits arrived - stampUnits tc)) / 2]))

/-- Identity and liveness: HELLO, BEACON, INCARNATION, REJOIN. -/
def Obligations.SpineIdentityCommands : Prop :=
  (∀ (p : Port) (h : Ident) (port deadN : Byte) (period : BitVec 16) (s : State), s.spState p.val = stActive → exec
    (.helloRx p h port deadN period) s = .next ((s.takeHello p.val h period.toNat).judgeHello p.val (s.helloFresh p.val
    h))) ∧
  (∀ (p : Port) (h : Ident) (msSec : BitVec 48) (msNs : BitVec 32) (s : State), s.spState p.val = stActive → h.idv = false
    → exec (.beaconRx p h msSec msNs) s = .next ((s.put (LK_BEACON.MISS p.val) 0).setLink p.val fun l =>
    { l with beacon := true })) ∧
  (∀ (p : Port) (h : Ident) (msSec : BitVec 48) (msNs : BitVec 32) (s : State), s.spState p.val = stActive → h.idv = true
    → ((((s.put (LK_BEACON.MISS p.val) 0).setLink p.val fun l => { l with beacon := true }).fenceIfStale p.val h.id
    h.inc.toNat h.serial.toNat).answerOlder p.val h.id h.inc.toNat h.serial.toNat).lState p.val ≠ lkDead → exec (.beaconRx
    p h msSec msNs) s = .next ((((s.put (LK_BEACON.MISS p.val) 0).setLink p.val fun l =>
    { l with beacon := true }).fenceIfStale p.val h.id h.inc.toNat h.serial.toNat).answerOlder p.val h.id h.inc.toNat
    h.serial.toNat)) ∧
  (∀ (p : Port) (roleId : Fin 2048) (roleInc : BitVec 16) (roleSerial : BitVec 64) (vacated : Option (Fin 2048)) (hops :
    Byte) (s : State), s.spState p.val = stActive → s.lState p.val = lkOpen → hops ≠ 0 → s.incEntry roleId.val = none →
    exec (.incarnationRx p roleId roleInc roleSerial vacated hops) s = .next (s.takeInc p.val
    { roleId := roleId.val, roleInc := roleInc.toNat, roleSerial := roleSerial.toNat, vacated := vacated.map (·.val), hops := hops.toNat - 1 }))
    ∧
  (∀ (p : Port) (roleId : Fin 2048) (roleInc : BitVec 16) (roleSerial : BitVec 64) (s : State), s.spState p.val = stActive
    → exec (.directedIncarnationRx p roleId roleInc roleSerial) s = .next (s.adoptDirected p.val roleId.val roleInc.toNat
    roleSerial.toNat)) ∧
  (∀ (p : Port) (takeId : Option (Fin 2048)) (minInc : BitVec 16) (roleId : Fin 2048) (roleInc : BitVec 16) (s : State),
    s.spState p.val = stActive → s.on ID_HUB.ID_V = true → s.hubId = roleId.val → exec (.rejoinRx p takeId minInc roleId
    roleInc) s = .next (s.rejoin p.val takeId minInc.toNat))

/-- The Junction and the Sheet walkers: arrival, acceptance, the match, failed members, and a slot of a local output. -/
def Obligations.JunctionCommands : Prop :=
  (∀ (i : JPort) (c : Cell) (s : State), exec (.cellArrival i (some c)) s = .next (s.arrive i.val c)) ∧
  (∀ (i : JPort) (c : Cell) (rest : List Cell) (s s' : State), tget [] i.val s.jn.held = List.cons c rest → s.tryShaped
    i.val c = some s' → exec (.heldCellAccept i) s = .next (s'.setJn fun j =>
    { j with held := tput [] i.val rest j.held })) ∧
  (∀ (ecc : List (JPort × Bool × Fin 8 × Fin 129)) (s : State), exec (.matchCycle ecc) s = .next ((((if s.jn.lastDrained
    then s else s.passJ15).each (s.iteration []) fun g s => s.movePointers g).each (s.iteration [] ++ s.iteration
    (s.iteration []) ++ s.iteration (s.iteration [] ++ s.iteration (s.iteration []))) fun g s => s.transfer g (ecc.map fun
    (i, b, t, r) => EccErr.mk i b t r)))) ∧
  (∀ (p : Port) (s : State), (s.link p.val).failDue = true → s.mpFailed p.val = false → exec (.memberFail p) s = .next
    (s.failMember p.val)) ∧
  (∀ (p : Port) (s : State), (s.jn.drainQ.filter fun e => e.1 == p.val && e.2.1) = [] → exec (.drainEnd p) s = .next
    (s.put JN_STATUS.DRAINING (s.get JN_STATUS.DRAINING &&& (0xF - 2 ^ p.val)))) ∧
  (∀ (p : Port) (s : State), exec (.mpHoldExpiry p) s = .next (s.setJn fun j =>
    { j with mpHold := j.mpHold.filter (· != p.val) })) ∧
  (∀ (o : Fin 9) (c : Cell) (s s' : State), s.pick (o.val + 4) = .copy → s.takePick (o.val + 4) .copy = (some c, s') →
    (tget [] (o.val + 4) s.jn.fifo).length ≤ 32 → o.val ≠ 5 → exec (.localWalkerSlot o) s = .next ((s'.setJn fun j =>
    { j with fifo := tput [] (o.val + 4) (tget [] (o.val + 4) j.fifo ++ [c]) j.fifo }).advance (o.val + 4))) ∧
  (∀ (o : Fin 9) (c : Nat) (s : State), s.pick (o.val + 4) = .cls c false → (tget [] (o.val + 4) s.jn.fifo).length < 64 →
    exec (.localWalkerSlot o) s = .next (s.giveLocal (o.val + 4) (.cls c false))) ∧
  (∀ (o : Fin 9) (s : State), s.pick (o.val + 4) = .nothing → exec (.localWalkerSlot o) s = .next (s.advance (o.val + 4)))

/-- Imposition: Sheet banks, admission messages between hubs, the request ring, the end of the admission window. -/
def Obligations.ImpositionCommands : Prop :=
  (∀ (o : Fin 13) (b : Fin 2) (i : Fin 4096) (w : BitVec 16) (s : State), exec (.sheetBankWrite o b i w) s = .next
    (s.writeSheet o.val b.val i.val w.toNat)) ∧
  (∀ (o : Fin 13) (s : State), exec (.sealSheet o) s = .next (s.sealBank o.val)) ∧
  (∀ (o : Fin 13) (e : Nat × Bool) (s : State), (s.imp.flipDue.find? fun e => e.1 == o.val) = some e → exec (.sheetFlip o)
    s = .next ((s.setImp fun x => { x with flipDue := x.flipDue.filter (·.1 != o.val) }).flip o.val e.2)) ∧
  (∀ (o : Fin 13) (s : State), s.on (IMP_PORT_CTL.COPY_BUSY o.val) = true → exec (.bankCopyDone o) s = .next
    ((((s.copyBank o.val).put (IMP_PORT_CTL.COPY_BUSY o.val) 0).setImp fun x =>
    { x with stalled := x.stalled.filter (·.1 != o.val) }).each (s.imp.stalled.filter (·.1 == o.val)) fun (o, i, w) s =>
    s.writeSheet o (1 - s.get (IMP_PORT_CTL.BANK o)) i w)) ∧
  (∀ (src : Fin 2048) (m : AdmMsg) (s : State), exec (.admitRx src m) s = .next (s.admRx admAdmit src m)) ∧
  (∀ (src : Fin 2048) (m : AdmMsg) (s : State), exec (.grantRx src m) s = .next (s.admRx admGrant src m)) ∧
  (∀ (src : Fin 2048) (m : AdmMsg) (s : State), exec (.refuseRx src m) s = .next (s.admRx admRefuse src m)) ∧
  (∀ (src : Fin 2048) (m : AdmMsg) (s : State), exec (.releaseRx src m) s = .next (s.admRx admRelease src m)) ∧
  (∀ (src : Fin 2048) (m : AdmMsg) (s : State), exec (.revokeRx src m) s = .next (s.admRx admRevoke src m)) ∧
  (∀ (src : Fin 2048) (m : AdmMsg) (s : State), exec (.giveRx src m) s = .next (s.admRx admGive src m)) ∧
  (∀ (src : Fin 2048) (m : AdmMsg) (s : State), exec (.givenRx src m) s = .next (s.admRx admGiven src m)) ∧
  (∀ (r : Fin 4096) (w : AdmWait) (s : State), s.imp.waiting.find? (·.slot == r.val) = some w → exec (.admissionTimeout r)
    s = .next ((s.abandon w).answerRing w.ring admRefuse 9)) ∧
  (∀ (s : State), exec .admissionWindowEnd s = .next ((s.setImp fun i => { i with closed := true }).each ((List.range
    12).filter fun n => s.get (ENG_STATUS.STATE n) == 1 || s.get (ENG_STATUS.STATE n) == 2) fun n s => s.latch n 22)) ∧
  (∀ (i : Nat) (m : AdmMsg) (s : State), s.ringTake admAdmit = some (i, m) → exec .ringAdmit s = .next
    (s.ringNext.startAdmission (admRequest m true 0 (some i)) m)) ∧
  (∀ (i r : Nat) (m : AdmMsg) (s : State), s.ringTake admRelease = some (i, m) → s.findRec m.key.toNat = some r → exec
    .ringRelease s = .next (((s.ringNext.sendOn admRelease m).releaseRec r).answerRing (some i) admGrant 0)) ∧
  (∀ (i r : Nat) (m : AdmMsg) (s : State), s.ringTake admGive = some (i, m) → s.findRec m.key.toNat = some r → exec
    .ringGive s = .next ((s.ringNext.onGive m).answerRing (some i) admGrant 0))

/-- The capture of a display adapter: frames, lines, self-refresh, link and AUX. -/
def Obligations.CaptureCommands : Prop :=
  (∀ (d : Fin 2) (w h vnom : BitVec 12) (bpc : Fin 3) (lrate : BitVec 20) (crc : BitVec 32) (sdps : BitVec 8) (s : State),
    s.capOn d.val = true → s.modeDiffers d.val w.toNat h.toNat bpc.val = false → exec (.captureFrameStart d w h vnom bpc
    lrate crc sdps) s = .next ((((((((s.addSat (DA_CAP_CNT.SDP_DROP d.val) sdps.toNat).put (DA_CAP_MEAS.M_W d.val)
    w.toNat).put (DA_CAP_MEAS.M_BPC d.val) bpc.val).measure d.val w.toNat vnom.toNat lrate.toNat).writeFloors
    d.val).setDisp d.val fun x => { x with kept := [] }).goodSource d.val crc))) ∧
  (∀ (d : Fin 2) (line : BitVec 12) (px : List (BitVec 30)) (s : State), s.capOn d.val = true → px.length = s.get
    (DA_CAP_EXP_H.EXP_W d.val) → (s.disp d.val).capMode = 1 → exec (.captureLine d line px) s = .next ((s.setDisp d.val
    fun x => { x with kept := x.kept ++ [(line.toNat, px)] }).sendLine d.val line.toNat px)) ∧
  (∀ (d : Fin 2) (on : Bool) (s : State), (on = false ∨ s.on (DA_CFG.STATIC_MODE d.val) = false) → exec (.sourcePsrChange
    d on) s = .next (s.setDisp d.val fun x => { x with srcPsr := on })) ∧
  (∀ (d : Fin 2) (up : Bool) (lanes : Fin 3) (rate : Fin 8) (s : State), exec (.captureLinkChange d up lanes rate) s =
    .next ((((s.put (DA_CAP_MEAS.LINK_UP d.val) up.toNat).put (DA_CAP_MEAS.M_LANES d.val) lanes.val).put
    (DA_CAP_MEAS.M_RATE d.val) rate.val).raise (DA_EVENT.CAP_LINK d.val))) ∧
  (∀ (d : Fin 2) (addr : BitVec 20) (lenM1 : Fin 16) (data : List Byte) (s : State), s.capOn d.val = true → exec
    (.captureAuxRequest d true true addr lenM1 data) s = .next ((s.setDisp d.val fun x =>
    { x with dpcd := memWrite x.dpcd addr.toNat (data.take (lenM1.val + 1)) }).emit (.auxReply d.val []))) ∧
  (∀ (d : Fin 2) (tunnel : BitVec 12) (s : State), tunnel.toNat = s.get (DA_CAP_TUN.TUNNEL d.val) → (s.disp d.val).lending
    = 0 → s.capRec d.val = none → exec (.psrEnteredRx d tunnel) s = .next ((s.takeFifo (4 + d.val) 0xFFF).setDisp d.val
    fun x => { x with lending := 1 })) ∧
  (∀ (d : Fin 2) (tunnel : BitVec 12) (s : State), exec (.psrExitedRx d tunnel) s = .next (s.takeFifo (4 + d.val) 0xFFF))
    ∧
  (∀ (d : Fin 2) (tunnel : BitVec 12) (s : State), exec (.hpdLostRx d tunnel) s = .next ((s.takeFifo (4 + d.val)
    0xFFF).raise (DA_EVENT.FAR_HPD d.val))) ∧
  (∀ (d : Fin 2) (tunnel : BitVec 12) (s : State), exec (.hpdFoundRx d tunnel) s = .next (s.takeFifo (4 + d.val) 0xFFF))

/-- The Platen of a display adapter: cells, line slots, freerun, training, hot-plug, AUX. -/
def Obligations.PlatenCommands : Prop :=
  (∀ (d : Fin 2) (c : Cell) (s : State), c.tc ≠ 7 → c.tunnel = s.get (DA_PL_TUN.PL_TUNNEL d.val) → plTrain < s.plState
    d.val → c.pos = 1 → exec (.platenCellRx d (some c)) s = .next (s.lineStart d.val c)) ∧
  (∀ (d : Fin 2) (ranOut : Bool) (s : State), (s.plState d.val = plFreerun ∨ s.plState d.val = plRaster) → (s.endScan
    d.val).on (DA_PL_STATUS.IN_BLANK d.val) = false → (s.endScan d.val).get (DA_PL_V.PL_V_ACTIVE d.val) ≤ (s.endScan
    d.val).get (DA_PL_STATUS.PL_LINE d.val) + 1 → exec (.platenLineSlot d ranOut) s = .next (((s.endScan d.val).setDisp
    d.val fun x => { x with slots := x.slots + 1 }).startBlank d.val)) ∧
  (∀ (d : Fin 2) (ranOut : Bool) (s : State), (s.plState d.val = plFreerun ∨ s.plState d.val = plRaster) → (s.endScan
    d.val).on (DA_PL_STATUS.IN_BLANK d.val) = false → (s.endScan d.val).get (DA_PL_STATUS.PL_LINE d.val) + 1 < (s.endScan
    d.val).get (DA_PL_V.PL_V_ACTIVE d.val) → exec (.platenLineSlot d ranOut) s = .next ((((s.endScan d.val).setDisp d.val
    fun x => { x with slots := x.slots + 1 }).put (DA_PL_STATUS.PL_LINE d.val) ((s.endScan d.val).get
    (DA_PL_STATUS.PL_LINE d.val) + 1)).scanLine d.val ((s.endScan d.val).get (DA_PL_STATUS.PL_LINE d.val) + 1) ranOut)) ∧
  (∀ (d : Fin 2) (ranOut : Bool) (s : State), (s.plState d.val = plFreerun ∨ s.plState d.val = plRaster) → (s.endScan
    d.val).on (DA_PL_STATUS.IN_BLANK d.val) = true → ((s.endScan d.val).setDisp d.val fun x =>
    { x with slots := x.slots + 1 }).frameStarts d.val ((s.endScan d.val).get (DA_PL_STATUS.PL_LINE d.val) + 1) = none →
    exec (.platenLineSlot d ranOut) s = .next (((s.endScan d.val).setDisp d.val fun x =>
    { x with slots := x.slots + 1 }).blankSlot d.val ((s.endScan d.val).get (DA_PL_STATUS.PL_LINE d.val) + 1))) ∧
  (∀ (d : Fin 2) (s : State), s.plState d.val = plRaster → exec (.platenFreerun d) s = .next (((s.endScan d.val).put
    (DA_PL_STATUS.PL_STATE d.val) plFreerun).setDisp d.val fun x =>
    { x with synced := false, line0At := none, bg := true })) ∧
  (∀ (d : Fin 2) (s : State), s.plState d.val = plPsr → exec (.kaLost d) s = .next (s.raise (DA_EVENT.KA_LOST d.val))) ∧
  (∀ (d : Fin 2) (lanes : Fin 3) (rate : Fin 8) (s : State), s.plState d.val = plTrain → s.mayTrain d.val lanes.val
    rate.val = true → s.get (DA_PL_CLK.PCLK_KHZ d.val) * 3000 * bpcOf (s.get (DA_CFG.OUT_BPC d.val)) ≤ 2 ^ lanes.val *
    dpRate rate.val * 800000 → exec (.platenTrainDone d true lanes rate) s = .next ((s.put (DA_PL_STATUS.PL_STATE d.val)
    plFreerun).enterBlank d.val)) ∧
  (∀ (d : Fin 2) (s : State), s.hasJ (4 + d.val) = true → exec (.panelHpdIrq d) s = .next (s.raise (DA_EVENT.HPD_IRQ
    d.val))) ∧
  (∀ (d : Fin 2) (s : State), s.hasJ (4 + d.val) = true → exec (.panelUnplug d) s = .next ((((s.platenOff d.val).put
    (DA_PL_STATUS.HPD d.val) 0).raise (DA_EVENT.HPD_CHG d.val)).sendDmsg d.val 3)) ∧
  (∀ (d : Fin 2) (s : State), s.hasJ (4 + d.val) = true → exec (.panelPlug d) s = .next ((((s.put (DA_PL_STATUS.HPD d.val)
    1).raise (DA_EVENT.HPD_CHG d.val)).sendDmsg d.val 4).platenTry d.val)) ∧
  (∀ (d : Fin 2) (s : State), exec (.auxGo d) s = .next (s.auxGo d.val)) ∧
  (∀ (d : Fin 2) (result : Fin 4) (s : State), s.on (DA_AUX_CTL.BUSY d.val) = true → exec (.auxDone d result none) s =
    .next ((s.put (DA_AUX_CTL.BUSY d.val) 0).put (DA_AUX_CTL.RESULT d.val) result.val))

/-- The PCIe adapter: TLPs, PDUs of the storage tunnel, bindings, PERST# and link changes. -/
def Obligations.StorageCommands : Prop :=
  (∀ (hdr payload : List Byte) (s : State), s.linkLive = true → exec (.pcieTlpRx hdr payload) s = .next ((s.setPx fun x =>
    { x with partner := x.partner ++ [hdr ++ payload] }).partnerDrain)) ∧
  (∀ (p : Pdu) (reqShort : Fin 4) (cplShort : Bool) (n : Nat) (s : State), s.endOf p.tun.toNat = some n → s.bState n ≠
    bsUnbound → s.pduGood 1 p n = true → exec (.tlpPduRx p reqShort cplShort) s = .next ((s.pduHeard p n).tlpIn n p
    (shortKinds reqShort cplShort))) ∧
  (∀ (p : Pdu) (s : State), p.plen = 8 → p.body.length = 8 → s.downBinding = true → p.tun.toNat = s.get PX_CFG.TUN_BASE →
    s.poolsBad = false → s.on PX_DB.BOUND = false → exec (.bindReqRx p) s = .next ((s.takeFifo 6 p.tun.toNat).dbBind (beAt
    p.body 0 2 % 2048) (beAt p.body 2 2 % 4096) p.epoch.toNat p)) ∧
  (∀ (p : Pdu) (n : Nat) (s : State), s.endOf p.tun.toNat = some n → s.bState n = bsRequested → n < 8 → (s.bind n).wait =
    none → s.pduGood 3 p n = true → exec (.bindAckRx p) s = .next ((s.pduHeard p n).bindDone n p)) ∧
  (∀ (p : Pdu) (n : Nat) (s : State), s.endOf p.tun.toNat = some n → s.bState n = bsRequested → n < 8 → (s.bind n).wait =
    none → s.pduGood 4 p n = true → exec (.bindRefuseRx p) s = .next ((s.pduHeard p n).bindRefused n)) ∧
  (∀ (p : Pdu) (n : Nat) (s : State), s.endOf p.tun.toNat = some n → s.bState n ≠ bsUnbound → s.pduGood 5 p n = true →
    exec (.pduCreditRx p) s = .next (((s.pduHeard p n).creditIn n p).partnerDrain)) ∧
  (∀ (p : Pdu) (n : Nat) (s : State), s.endOf p.tun.toNat = some n → n < 8 → bsBound ≤ s.bState n → s.pduGood 6 p n = true
    → exec (.linkPduRx p) s = .next ((s.pduHeard p n).linkIn n (s.bState n) p)) ∧
  (∀ (p : Pdu) (n : Nat) (s : State), s.endOf p.tun.toNat = some n → s.bState n ≠ bsUnbound → s.pduGood 7 p n = true →
    exec (.keepalivePduRx p) s = .next (s.pduHeard p n)) ∧
  (∀ (p : Pdu) (s : State), s.endOf p.tun.toNat = some 8 → s.bState 8 ≠ bsUnbound → s.pduGood 8 p 8 = true → 1 ≤
    p.arg.toNat → p.arg.toNat ≤ 3 → exec (.resetPduRx p) s = .next ((s.pduHeard p 8).driveReset p.arg.toNat)) ∧
  (∀ (p : Pdu) (s : State), s.endOf p.tun.toNat = some 8 → s.bState 8 ≠ bsUnbound → s.pduGood 9 p 8 = true → exec
    (.unbindRx p) s = .next ((s.pduHeard p 8).dbDrop)) ∧
  (∀ (n : Fin 9) (s : State), s.bindTmo ≤ (s.bind n.val).quiet → n.val ≠ 8 → s.bState n.val = bsUp → exec (.bindTimeout n)
    s = .next (((s.raise PX_EVENT.BIND_DOWN).vpDown n.val bsLost).bindRequest n.val)) ∧
  (∀ (n : Fin 9) (s : State), s.bState n.val = bsRequested → s.bindTmo ≤ (s.bind n.val).asked → (s.bind n.val).wait = none
    → exec (.bindTimeout n) s = .next (s.bindRefused n.val)) ∧
  (∀ (n : Fin 9) (s : State), n.val = 8 → s.bState n.val ≠ bsRequested → s.bindTmo ≤ (s.bind n.val).quiet → exec
    (.bindTimeout n) s = .next (s.dbDrop)) ∧
  (∀ (n : Fin 9) (short : Fin 8) (s : State), bsBound ≤ s.bState n.val → exec (.pduCreditDue n short) s = .next
    (((s.toLink n.val short).sendReleased n.val).partnerDrain)) ∧
  (∀ (s : State), s.upSwitch = true → exec .perstInFall s = .next (s.perstClear.usedFree.pcieLink false 0 0
    (s.perstClear.free % 64))) ∧
  (∀ (s : State), exec .perstInRise s = .next (s.setPx fun x => { x with perstIn := false })) ∧
  (∀ (t : Nat) (s : State), s.px.refStart = some t → 100000000 ≤ s.elapsed t → s.on PX_LINK.PERST = true → exec
    .perstRelease s = .next ((s.put PX_LINK.PERST 0).emit (.perst false))) ∧
  (∀ (up : Bool) (width : Fin 3) (speed : Fin 4) (ltssm : Fin 64) (s : State), s.downBinding = true → s.linkWithin up
    width.val speed.val = true → exec (.driveLinkChange up width speed ltssm) s = .next ((s.pcieLink up width.val
    speed.val ltssm.val).reportDrive up)) ∧
  (∀ (up : Bool) (width : Fin 3) (speed : Fin 4) (ltssm : Fin 64) (s : State), s.upSwitch = true → s.px.perstIn = false →
    s.linkWithin up width.val speed.val = true → exec (.hostLinkChange up width speed ltssm) s = .next (s.pcieLink up
    width.val speed.val ltssm.val)) ∧
  (∀ (vp : Fin 8) (s : State), s.upSwitch = true → exec (.secondaryBusReset vp) s = .next ((s.setCfgBits (2 + vp.val) 15
    (s.cfgBits (2 + vp.val) 15 ||| 2 ^ 22)).when (s.bState vp.val == bsUp) fun s => s.sendPdu vp.val 8 1 [])) ∧
  (∀ (vp : Fin 8) (set : Bool) (s : State), s.upSwitch = true → s.bState vp.val = bsUp → exec (.linkDisable vp set) s =
    .next (((s.setBind vp.val fun b =>
    { b with disabled := set, linkAct := !set, actChg := b.actChg || b.linkAct != !set }).hotPlug vp.val).sendPdu vp.val 8
    (if set then 2 else 3) [])) ∧
  (∀ (vp : Fin 8) (set : Bool) (s : State), s.upSwitch = true → s.bState vp.val ≠ bsUp → exec (.linkDisable vp set) s =
    .next ((s.setBind vp.val fun b =>
    { b with disabled := set, linkAct := false, actChg := b.actChg || b.linkAct }).hotPlug vp.val))

/-- The Ethernet adapters: frames in and out, cells, PTP requests, link changes. -/
def Obligations.EthernetCommands : Prop :=
  (∀ (e : Fin 2) (f : List Byte) (s : State), s.ethOn e.val = true → s.on (EN_STATUS.LINK_UP e.val) = true → fcsGood f =
    true → s.frameFits e.val f = true → beAt f 12 2 ≠ 0x8808 → s.rejects e.val f = false → exec (.ethFrameRx e f) s =
    .next (((s.put (EN_TS_RX.TS_RX_NS e.val) s.tm.ns).inc (EN_RX_CNT.RX_FRAMES e.val)).ethDest e.val f)) ∧
  (∀ (e : Fin 2) (c : Cell) (s : State), s.ethOn e.val = true → exec (.ethEgressCell e (some c)) s = .next (s.egress e.val
    c)) ∧
  (∀ (e : Fin 2) (s : State), exec (.reasmTimeout e) s = .next ((s.setCtx e.val ((s.ethA e.val).ctx.filter fun x =>
    !decide (1000000 < s.elapsed x.last))).addSat (EN_TX_DROP.REASM e.val) ((s.ethA e.val).ctx.filter fun x => decide
    (1000000 < s.elapsed x.last)).length)) ∧
  (∀ (e : Fin 2) (want : Bool) (tag : Byte) (f : List Byte) (s : State), s.ethOn e.val = true → exec (.ptpTxRequest e want
    tag f) s = .next ((s.setJn fun j =>
    { j with fifo := tput [] (7 + e.val) (takeUnit 0xFFE (tget [] (7 + e.val) j.fifo)) j.fifo }).queueFirst e.val ⟨padTo
    (max 60 f.length) f, false, some (if want then 256 + tag.toNat else 0)⟩)) ∧
  (∀ (e : Fin 2) (f : EthFrame) (rest : List EthFrame) (s : State), s.ethOn e.val = true → s.on (EN_STATUS.LINK_UP e.val)
    = true → (s.ethA e.val).pauseUntil ≤ s.tm.tick → (s.ethA e.val).txq = List.cons f rest → exec (.ethFrameTx e) s =
    .next (s.ethOut e.val f rest)) ∧
  (∀ (e : Fin 2) (up : Bool) (speed : Fin 3) (s : State), s.hasJ (7 + e.val) = true → exec (.ethLinkChange e up speed) s =
    .next (((s.put (EN_STATUS.LINK_UP e.val) up.toNat).put (EN_STATUS.SG_SPEED e.val) speed.val).when (s.get
    (EN_STATUS.LINK_UP e.val) != up.toNat) fun s => s.raise (EN_EVENT.LINK_CHG e.val)))

/-- The Local Bus: requests, device cycles, hub cycles and what ends them. -/
def Obligations.LocalBusCommands : Prop :=
  (∀ (s : State), s.lbOn = true → exec .lbBusRequest s = .next ((s.setLb fun b => { b with breq := true }).lbIdle)) ∧
  (∀ (write : Bool) (addr : Word) (en : BitVec 64) (data : List Byte) (n : Nat) (s : State), s.lbOn = true → s.get
    LB_STATUS.OWNER = 2 → s.lb.heldDev = none → s.inImage ⟨write, addr.toNat, runBytes en, if write then padTo (runBytes
    en) data else []⟩ = false → s.winOf addr.toNat = some n → exec (.lbDeviceCycle write addr en data) s = .next
    (((s.setLb fun b => { b with breq := false }).emit (.lbGrant false)).winCycle n ⟨write, addr.toNat, runBytes en, if
    write then padTo (runBytes en) data else []⟩)) ∧
  (∀ (s : State), s.get LB_STATUS.OWNER = 2 → s.lb.heldDev = none → exec .lbGrantWithdraw s = .next (((s.put
    LB_STATUS.OWNER 0).setLb fun b => { b with breq := false }).emit (.lbGrant false))) ∧
  (∀ (r : Inbound) (b : Bridge) (s : State), s.lbOn = true → s.get LB_STATUS.OWNER = 0 → s.lb.breq = false →
    s.lb.nextCycle = some (.posted r, b) → exec .lbHubCycle s = .next
    ((((({ s with lb := { b with cur := some (.posted r) } } : State).emit (s.cycleOut (.posted r))).put LB_STATUS.OWNER
    1).lbCounts r.win))) ∧
  (∀ (c : HubCyc) (data : List Byte) (s : State), s.lb.cur = some c → exec (.lbHubCycleDone 0 data) s = .next
    ((s.cycleResult c 0 data).hubCycleEnds)) ∧
  (∀ (c : HubCyc) (s : State), s.lb.cur = some c → exec .lbWaitTimeout s = .next ((((s.inc LB_CNT.BUS_TMO).raise
    LB_EVENT.BUS_ERR).cycleResult c 2 []).hubCycleEnds)) ∧
  (∀ (c : DevCyc) (t : Nat) (s : State), s.retryHeld.lb.heldDev = some (c, t) → s.retryHeld.winOf c.addr = none → c.write
    = true → max 1 (s.retryHeld.get LB_CFG.FAR_TMO) * 1000 ≤ s.retryHeld.elapsed t → exec .postedHoldTimeout s = .next
    ((s.retryHeld.inc LB_CNT.BUS_TMO).endDev 1 []))

/-- The remote windows of the bridge: writes, reads, completions, credit, restart, far-side errors. -/
def Obligations.BridgeCommands : Prop :=
  (∀ (src : Fin 2048) (m : BridgeMsg) (first : Nat) (s : State), s.refusedIn src.val m = false → (s.lb.synced.find? fun e
    => e.1 == m.twin.val) = some (m.twin.val, first) → (m.seq.toNat + 65536 - first) % 65536 < 32768 →
    (s.lb.inPosted.filter fun r => r.win == m.twin.val).length < fours (s.get (LB_WIN_IN.IN_P_CR m.twin.val)) → exec
    (.postedWriteRx src m) s = .next (((s.takeFifo 9 0x800).setLb fun b =>
    { b with inPosted := b.inPosted ++ [⟨m.twin.val, src.val, m⟩] }).lbCounts m.twin.val)) ∧
  (∀ (src : Fin 2048) (m : BridgeMsg) (s : State), exec (.acknowledgedWriteRx src m) s = .next (s.npArrive src.val m
    true)) ∧
  (∀ (src : Fin 2048) (m : BridgeMsg) (s : State), exec (.readRx src m) s = .next (s.npArrive src.val m false)) ∧
  (∀ (src : Fin 2048) (m : BridgeMsg) (r : BridgeReq) (s : State), s.lb.openReq m.iwin.val m.tag.toNat = some r → exec
    (.completionRx src m) s = .next ((s.takeFifo 9 0x802).complete r m.stat.toNat (if r.cyc.write then [] else m.data))) ∧
  (∀ (src : Fin 2048) (m : BridgeMsg) (s : State), s.fromTarget m.iwin.val src.val = true → exec (.bridgeCreditRx src m) s
    = .next ((s.takeFifo 9 0x804).creditWin m.iwin.val m.seq.toNat)) ∧
  (∀ (src : Fin 2048) (m : BridgeMsg) (s : State), m.init = true → exec (.farErrRx src m) s = .next ((((s.takeFifo 9
    0x803).felLog m.stat.toNat 1 m.sig.val src.val m.off.toNat 0 m.sec.toNat m.ns.toNat).raise LB_EVENT.FAR_ERR))) ∧
  (∀ (src : Fin 2048) (m : BridgeMsg) (s : State), s.fromTarget m.iwin.val src.val = true → exec (.bridgeRestartRx src m)
    s = .next ((s.takeFifo 9 0x804).restartWin m.iwin.val src.val)) ∧
  (∀ (src : Fin 2048) (m : BridgeMsg) (s : State), s.lbOn = true → s.inWin m.twin.val = true → s.get (LB_WIN_CTL.IN_HUB
    m.twin.val) = src.val → exec (.resyncRx src m) s = .next ((s.takeFifo 9 0x804).takeResync m.twin.val m.seq.toNat)) ∧
  (∀ (n : Fin 32) (tag : Byte) (r : BridgeReq) (s : State), s.lb.openReq n.val tag.toNat = some r → max 1 (s.get
    LB_CFG.FAR_TMO) * 1000 ≤ s.elapsed r.sent → exec (.farTmo n tag) s = .next ((s.complete r 5 []).raise
    LB_EVENT.NP_TMO)) ∧
  (∀ (n : Fin 32) (tag : Byte) (r : BridgeReq) (st t : Nat) (d : List Byte) (s : State), (s.lb.reqs.find? fun r => r.win
    == n.val && r.tag == tag.toNat && !r.wait) = some r → r.reply = some (st, d, t) → s.get LB_CFG2.DLY_DISCARD * 1000 ≤
    s.elapsed t → exec (.dlyDiscard n tag) s = .next (((s.setLb fun b =>
    { b with reqs := b.reqs.filter (· != r) }).lbCounts n.val).inc LB_CNT.DLY_DISCARD)) ∧
  (∀ (n : Fin 32) (s : State), exec (.fenceClear n) s = .next (s.put (LB_WIN_CTL.FENCED n.val) 0)) ∧
  (∀ (e : Fin 16) (s : State), exec (.felEntryFree e) s = .next (s.put (LB_FEL_HDR.V e.val) 0))

/-- Sideband signals and the process image. -/
def Obligations.SidebandAndSignalCommands : Prop :=
  (∀ (levels : BitVec 16) (s : State), s.lbOn = true → s.on SB_CFG.SB_EN = true → exec (.sidebandSample levels) s = .next
    ((s.sbCount levels).sbTake)) ∧
  (∀ (src : Fin 2048) (state : BitVec 16) (s : State), s.lbOn = true → s.get SB_SRC.SB_SRC_HUB = src.val → exec
    (.sidebandStateRx src state) s = .next (((s.takeFifo 9 0x805).setLb fun b =>
    { b with sbRemote := state.toNat, sbQuiet := 0, sbSafe := false }).sbDrive)) ∧
  (∀ (s : State), s.lbOn = true → s.lb.sbSafe = false → max 1 (s.get SB_SRC.SB_LOSS) ≤ s.lb.sbQuiet → exec .sbLoss s =
    .next (((s.setLb fun b => { b with sbSafe := true }).sbDrive).raise LB_EVENT.SB_LOSS)) ∧
  (∀ (i : Fin 1024) (s : State), s.lbOn = true → s.sigGet i.val 0 31 31 = 1 → s.sigGet i.val 0 30 30 = 0 → s.sigGet i.val
    0 29 29 = 0 → exec (.signalSend i) s = .next (s.sendSignal i.val (padTo (s.sigGet i.val 0 28 23 + 1) (tget [] i.val
    s.lb.commit)))) ∧
  (∀ (src : Fin 2048) (i : Fin 1024) (v : List Byte) (s : State), s.lbOn = true → s.sigGet i.val 0 31 31 = 1 → s.sigGet
    i.val 0 30 30 = 1 → exec (.signalRx src i v) s = .next ((s.takeFifo 9 i.val).signalIn src.val i.val v)) ∧
  (∀ (i : Fin 1024) (s : State), s.sigGet i.val 0 31 31 = 1 → s.sigGet i.val 0 30 30 = 1 → max 1 (s.sigGet i.val 3 15 8) *
    s.sigPeriod i.val * 1000 ≤ s.elapsed (tget 0 i.val s.lb.updated) → exec (.signalStale i) s = .next ((s.put
    (PI_STALE.STALE (i.val / 32)) (s.get (PI_STALE.STALE (i.val / 32)) ||| 2 ^ (i.val % 32))).raise LB_EVENT.PI_STALE))

/-- Domain time: latching, the reference clock, time cells, PTP, setting and accepting time. -/
def Obligations.TimeServoCommands : Prop :=
  (∀ (p : Path) (s : State), s.behind p = false → exec (.timeReadLatch p) s = .next ((s.latchTime p).emit (.access p
    TM_NOW_NS 0 (BitVec.ofNat 32 s.tm.ns)))) ∧
  (∀ (d : GmSet) (flags : Nat) (s : State), s.sendSet = some (d, flags) → exec .timeCellSend s = .next ((s.syncMiss.setTm
    fun t => { t with seen := false, tSeq := (t.tSeq + 1) % 256 }).each (List.range 4) fun p u => if u.lState p == lkOpen
    && (u.get TM_CFG.SPINE_EN).testBit p then u.sendTime p d flags u.tm.tSeq else u)) ∧
  (∀ (p : Port) (c : Cell) (s : State), exec (.timeCellRx p (some c)) s = .next (s.timeCell p.val c)) ∧
  (∀ (c : Fin 6) (x : TimeCand) (s : State), s.cand c.val = some x → s.lapseNs c.val < s.elapsed x.tick → exec
    (.candidateLapse c) s = .next ((s.setTm fun t =>
    { t with cands := t.cands.filter fun e => e.1 != c.val }).chooseParent)) ∧
  (∀ (e : Fin 2) (dom : Byte) (m : PtpMsg) (rx : Stamp) (s : State), s.eRole e.val ≠ 0 → dom.toNat = s.ptpDomain → (match
    m with | .report _ _ => false | _ => true) = true → exec (.ptpMessageRx e ⟨dom, m⟩ rx) s = .next ((s.setJn fun j =>
    { j with fifo := tput [] 11 (takeUnit 0xFFE (tget [] 11 j.fifo)) j.fifo }).ptpTake e.val m rx)) ∧
  (∀ (e : Fin 2) (dom : Byte) (tag : Byte) (ts : Stamp) (rx : Stamp) (s : State), s.eRole e.val ≠ 0 → exec (.ptpMessageRx
    e ⟨dom, .report tag ts⟩ rx) s = .next ((s.setJn fun j =>
    { j with fifo := tput [] 11 (takeUnit 0xFFE (tget [] 11 j.fifo)) j.fifo }).ptpReport e.val tag.toNat ts)) ∧
  (∀ (e : Fin 2) (seq : BitVec 16) (tag : Byte) (frame : List Byte) (s : State), s.eRole e.val ≠ 0 → s.ptpMay e.val .sync
    = true → exec (.ptpMessageSend e .sync seq tag frame) s = .next (s.ptpGo e .sync tag frame seq.toNat none)) ∧
  (∀ (s : State), exec .refclkLoss s = .next (((s.setTm fun t => { t with refLost := true }).raise
    TM_EVENT.REF_LOSS).setTstate tsHoldover)) ∧
  (∀ (s : State), s.tm.refLost = true → s.tstate = tsHoldover → s.parent ≠ 7 → exec .refclkReturn s = .next ((s.setTm fun
    t => { t with refLost := false }).setTstate (if s.parent = 6 then tsGm else tsAcquire))) ∧
  (∀ (s : State), exec .set s = .next (s.setCmd)) ∧
  (∀ (t : Nat) (s : State), s.tm.setAt = some t → t ≤ s.tm.sec → exec .timeSetApply s = .next (s.setApply)) ∧
  (∀ (s : State), exec .accept s = .next (s.acceptCmd)) ∧
  (∀ (s : State), (s.tstate = tsLocked ∨ s.tstate = tsSlew ∨ s.tstate = tsGm) → exec .rtcSecondWrite s = .next
    (({ s with rs := { s.rs with rtc := s.tm.sec * 32768, rtcAt := s.tm.tick, rtcValid := true } } : State).put
    TM_STATE.RTC_VALID 1))

/-- Waymarks, captures and measurement. -/
def Obligations.WaymarkAndMeasureCommands : Prop :=
  (∀ (n : Fin 8) (r : Fin 5) (w : Word) (s : State), exec (.waymarkWrite n r w) s = .next (s.wmWrite n.val (WM_CTL n.val +
    4 * r.val) w)) ∧
  (∀ (n : Fin 8) (t : Nat) (s : State), (s.wm n.val).next = some t → t ≤ s.nowNs → s.get RST_STATUS.PHASE ≠ 9 → exec
    (.waymarkInstant n) s = .next (s.wmPulse n.val t)) ∧
  (∀ (n : Fin 8) (t : Nat) (s : State), (s.wm n.val).stop = some t → t ≤ s.nowNs → s.get RST_STATUS.PHASE ≠ 9 → exec
    (.waymarkPulseEnd n) s = .next (s.wmEnd n.val)) ∧
  (∀ (n : Fin 8) (falling : Bool) (s : State), s.on (CAP_CTL.EN n.val) = true → (s.get (CAP_CTL.EDGE n.val)).testBit
    falling.toNat = true → (tget [] n.val s.tm.cap).length < 8 → exec (.captureEdge n falling false) s = .next (s.setCap
    n.val (tget [] n.val s.tm.cap ++ [(falling, s.tm.frac / 2 ^ 30, s.tm.sec, s.tm.ns)]))) ∧
  (∀ (p : Path) (n : Fin 8) (s : State), s.behind p = false → exec (.capPop p n) s = .next ((s.capPop n.val).emit (.access
    p (CAP_POP n.val) 0 ((s.capPop n.val).reg (CAP_POP n.val))))) ∧
  (∀ (code : BitVec 16) (ch : Nat) (rest : List Nat) (s : State), s.tm.ms.todo = List.cons ch rest → rest ≠ [] → exec
    (.measureConversion code) s = .next (s.sample ch code.toNat (s.tm.ms.trig + 500 * s.tm.ms.done) rest)) ∧
  (∀ (code : BitVec 16) (ch : Nat) (s : State), s.tm.ms.todo = [ch] → exec (.measureConversion code) s = .next ((s.sample
    ch code.toNat (s.tm.ms.trig + 500 * s.tm.ms.done) []).scanEnd (s.tm.ms.trig + 500 * s.tm.ms.done))) ∧
  (∀ (x : Nat × Nat × Nat) (rest : List (Nat × Nat × Nat)) (s : State), s.tm.ms.samples = List.cons x rest → x.1 + 8192 ≤
    s.nowNs → exec .measureCellFlush s = .next (s.flushSamples))

/-- What acts on an engine from outside: timers, load, restart, retirement, mailbox, bank window; custody commands of the
Forme controller. -/
def Obligations.EngineServiceCommands : Prop :=
  (∀ (n : EngNo) (t : Nat) (s : State), (s.engine n.val).timer = some t → t ≤ s.nowNs → exec (.engineTimerExpiry n) s =
    .next ((s.setEngine n.val fun e => { e with timer := none }).latch n.val 18)) ∧
  (∀ (n : EngNo) (s : State), s.engLive n.val = true → s.wdtDue n.val = true → exec (.watchdogExpiry n) s = .next
    (s.engineFault n.val 7)) ∧
  (∀ (n : EngNo) (s : State), (s.engine n.val).faulted = true → s.engUsable n.val = true → exec (.engineFaultRestart n) s
    = .next (s.engStart n.val 2)) ∧
  (∀ (n : EngNo) (s : State), 4 < (s.engine n.val).swMs → exec (.noyield n) s = .next (s.raise (ENG_EVENT.NOYIELD n.val)))
    ∧
  (∀ (path : Path) (n : EngNo) (slot : Fin 8) (s : State), s.behind path = false → s.blockExcluded (ENG_CMD n.val) = false
    → s.hasCustody path = true → exec (.load path n slot) s = .next ((s.engLoad n.val slot.val).emit (.access path
    (ENG_CMD n.val) 0 0))) ∧
  (∀ (n : EngNo) (slot bank : Nat) (s : State), (s.engine n.val).loading = some (slot, bank) → exec (.loadDone n) s =
    .next (((s.copySlot n.val slot bank).setEngine n.val fun e => { e with loading := none }).put (ENG_STATUS.LOAD_BUSY
    n.val) 0)) ∧
  (∀ (path : Path) (n : EngNo) (s : State), s.behind path = false → s.blockExcluded (ENG_CMD n.val) = false → s.hasCustody
    path = true → exec (.restart path n) s = .next ((s.engRestart n.val).emit (.access path (ENG_CMD n.val) 0 0))) ∧
  (∀ (path : Path) (n : EngNo) (s : State), s.behind path = false → s.blockExcluded (ENG_CMD n.val) = false → s.hasCustody
    path = true → exec (.retire path n) s = .next ((s.retireEngine n.val).emit (.access path (ENG_CMD n.val) 0 0))) ∧
  (∀ (n : EngNo) (word : Fin 4096) (w : Word) (s : State), s.engHere n.val = true → s.on (ENG_STATUS.SW_PEND n.val) =
    false → exec (.bankWindowWrite n word w) s = .next
    (({ s with engBank := memWrite s.engBank (bankBase n.val (s.freeBank n.val) + 4 * word.val) (leBytes 4 w.toNat) } :
    State))) ∧
  (∀ (n : EngNo) (w1 : Word) (s : State), s.engHere n.val = true → (s.sendMail n.val (s.get (ENG_MBX_CTL.POST_MBX n.val))
    (s.reg (ENG_MBX_W0 n.val), w1)).1 = 0 → exec (.mailboxPost n w1) s = .next ((s.sendMail n.val (s.get
    (ENG_MBX_CTL.POST_MBX n.val)) (s.reg (ENG_MBX_W0 n.val), w1)).2.put (ENG_MBX_CTL.POST_ST n.val) 0)) ∧
  (∀ (path : Path) (atEn : Bool) (s : State), s.behind path = false → s.hasCustody path = true → exec (.arm path atEn) s =
    .next ((s.armCmd atEn).emit (.access path FC_CMD 0 0))) ∧
  (∀ (path : Path) (s : State), s.behind path = false → s.hasCustody path = true → exec (.disarm path) s = .next
    (s.disarm.emit (.access path FC_CMD 0 0))) ∧
  (∀ (path : Path) (src : Fin 4) (s : State), s.behind path = false → s.hasCustody path = true → exec (.stage path src) s
    = .next ((s.stageCmd src.val).emit (.access path FC_CMD 0 0))) ∧
  (∀ (path : Path) (src : Fin 4) (s : State), s.behind path = false → s.hasCustody path = true → exec (.verify path src) s
    = .next ((s.verifyCmd src.val).emit (.access path FC_CMD 0 0))) ∧
  (∀ (path : Path) (s : State), s.behind path = false → s.hasCustody path = true → exec (.shadowReset path) s = .next
    (s.shadowReset.emit (.access path FC_CMD 0 0))) ∧
  (∀ (path : Path) (s : State), s.behind path = false → s.hasCustody path = true → exec (.commit path) s = .next
    (s.commitCmd.emit (.access path FC_CMD 0 0))) ∧
  (∀ (path : Path) (s : State), s.behind path = false → s.hasCustody path = true → exec (.revert path) s = .next
    (s.revertCmd.emit (.access path FC_CMD 0 0))) ∧
  (∀ (path : Path) (bank st : Fin 4) (s : State), s.behind path = false → s.hasCustody path = true → exec (.mark path bank
    st) s = .next ((s.markCmd bank.val st.val).emit (.access path FC_CMD 0 0))) ∧
  (∀ (path : Path) (s : State), s.behind path = false → s.hasCustody path = true → exec (.clrAttempts path) s = .next
    ((s.setReg FC_ATTEMPT 0).emit (.access path FC_CMD 0 0))) ∧
  (∀ (path : Path) (w : Word) (s : State), s.behind path = false → s.hasCustody path = true → exec (.flashCommand path w)
    s = .next ((s.flashCmd w).emit (.access path FC_FL_CMD 0 0))) ∧
  (∀ (path : Path) (slot : Fin 4) (s : State), s.behind path = false → s.hasCustody path = true → exec (.prog path slot) s
    = .next ((s.keyProg slot.val).emit (.access path FC_KEY_CMD 0 0))) ∧
  (∀ (path : Path) (slot : Fin 4) (s : State), s.behind path = false → s.hasCustody path = true → exec (.revoke path slot)
    s = .next ((s.keyRevoke slot.val).emit (.access path FC_KEY_CMD 0 0)))

/-- The Forme controller: custody commands, loads, stages, lock-up, flash and keys. -/
def Obligations.FormeCommands : Prop :=
  (∀ (path : Path) (atEn : Bool) (s : State), s.behind path = false → s.hasCustody path = true → exec (.arm path atEn) s =
    .next ((s.armCmd atEn).emit (.access path FC_CMD 0 0))) ∧
  (∀ (path : Path) (s : State), s.behind path = false → s.hasCustody path = true → exec (.disarm path) s = .next
    (s.disarm.emit (.access path FC_CMD 0 0))) ∧
  (∀ (path : Path) (src : Fin 4) (s : State), s.behind path = false → s.hasCustody path = true → exec (.stage path src) s
    = .next ((s.stageCmd src.val).emit (.access path FC_CMD 0 0))) ∧
  (∀ (path : Path) (src : Fin 4) (s : State), s.behind path = false → s.hasCustody path = true → exec (.verify path src) s
    = .next ((s.verifyCmd src.val).emit (.access path FC_CMD 0 0))) ∧
  (∀ (path : Path) (s : State), s.behind path = false → s.hasCustody path = true → exec (.shadowReset path) s = .next
    (s.shadowReset.emit (.access path FC_CMD 0 0))) ∧
  (∀ (path : Path) (s : State), s.behind path = false → s.hasCustody path = true → exec (.commit path) s = .next
    (s.commitCmd.emit (.access path FC_CMD 0 0))) ∧
  (∀ (path : Path) (s : State), s.behind path = false → s.hasCustody path = true → exec (.revert path) s = .next
    (s.revertCmd.emit (.access path FC_CMD 0 0))) ∧
  (∀ (path : Path) (bank st : Fin 4) (s : State), s.behind path = false → s.hasCustody path = true → exec (.mark path bank
    st) s = .next ((s.markCmd bank.val st.val).emit (.access path FC_CMD 0 0))) ∧
  (∀ (path : Path) (s : State), s.behind path = false → s.hasCustody path = true → exec (.clrAttempts path) s = .next
    ((s.setReg FC_ATTEMPT 0).emit (.access path FC_CMD 0 0))) ∧
  (∀ (path : Path) (w : Word) (s : State), s.behind path = false → s.hasCustody path = true → exec (.flashCommand path w)
    s = .next ((s.flashCmd w).emit (.access path FC_FL_CMD 0 0))) ∧
  (∀ (path : Path) (slot : Fin 4) (s : State), s.behind path = false → s.hasCustody path = true → exec (.prog path slot) s
    = .next ((s.keyProg slot.val).emit (.access path FC_KEY_CMD 0 0))) ∧
  (∀ (path : Path) (slot : Fin 4) (s : State), s.behind path = false → s.hasCustody path = true → exec (.revoke path slot)
    s = .next ((s.keyRevoke slot.val).emit (.access path FC_KEY_CMD 0 0))) ∧
  (∀ (err : Option (Fin 3 × Fin 255)) (src a : Nat) (s : State), s.fc.op = some (.load src a) → exec (.formeLoadDone err)
    s = .next (if src < 2 ∧ (s.dir.bankState src = 1 ∨ s.dir.bankState src = 3) then s.loadBad src a 1 0xFF else if
    ((s.readImage src (a == 3)).applySource src false (readFault err)).1 = 0 then ((s.readImage src (a == 3)).applySource
    src false (readFault err)).2.2.loadGood src a else ((s.readImage src (a == 3)).applySource src false (readFault
    err)).2.2.loadBad src a ((s.readImage src (a == 3)).applySource src false (readFault err)).1 ((s.readImage src (a ==
    3)).applySource src false (readFault err)).2.1)) ∧
  (∀ (err : Option (Fin 3 × Fin 255)) (src : Nat) (s : State), s.fc.op = some (.stage src) → s.on FC_STATUS.REVERTING =
    false → exec (.stageDone err) s = .next ((s.stageEnd src (readFault err)).2)) ∧
  (∀ (err : Option (Fin 3 × Fin 255)) (src : Nat) (s : State), s.fc.op = some (.verify src) → exec (.verifyDone err) s =
    .next (((((s.openFlash false).readImage src false).loadResult 2 src 1 (((s.openFlash false).readImage src
    false).applySource src false (readFault err)).1 (((s.openFlash false).readImage src false).applySource src false
    (readFault err)).2.1).put FC_STATUS.STAGE_BUSY 0).setFc fun f => { f with op := none })) ∧
  (∀ (err : Option (Fin 3 × Fin 255)) (src : Nat) (s : State), s.fc.op = some (.stage src) → s.on FC_STATUS.REVERTING =
    true → (s.stageEnd src (readFault err)).1 = true → exec (.revertStageDone err) s = .next ((s.stageEnd src (readFault
    err)).2.revertReady (s.get FC_STATUS.ACT_SRC))) ∧
  (∀ (err : Option (Fin 3 × Fin 255)) (src : Nat) (s : State), s.fc.op = some (.stage src) → s.on FC_STATUS.REVERTING =
    true → (s.stageEnd src (readFault err)).1 = false → exec (.revertStageDone err) s = .next (((((s.stageEnd src
    (readFault err)).2.put FC_STATUS.PROB 0).put FC_STATUS.PROB_LEFT 0).put FC_STATUS.REVERTING 0).raise
    FC_EVENT.REVERT_FAIL)) ∧
  (∀ (s : State), s.onProbation = true → s.get FC_STATUS.PROB_LEFT = 0 → exec .probationEnd s = .next (if s.on
    FC_PROB.PROB_AUTO then s.commitNow else s.startRevert)) ∧
  (∀ (data : List Byte) (eff : FlashEffect) (w a : Word) (s : State), s.fc.flCmd = some (w, a) → wordField w 30 30 = 1 →
    exec (.flashCommandDone data eff) s = .next ((((s.flashEffect a.toNat (s.bufBytes (min 256 (wordField w 28 20)))
    eff).setFc fun f => { f with flCmd := none }).put FC_FL_STAT.FL_BUSY 0).raise FC_EVENT.FL_DONE)) ∧
  (∀ (data : List Byte) (eff : FlashEffect) (w a : Word) (s : State), s.fc.flCmd = some (w, a) → wordField w 30 30 ≠ 1 →
    exec (.flashCommandDone data eff) s = .next (((((s.flashEffect a.toNat [] eff).bufPut (padTo (min 256 (wordField w 28
    20)) data)).setFc fun f => { f with flCmd := none }).put FC_FL_STAT.FL_BUSY 0).raise FC_EVENT.FL_DONE)) ∧
  (∀ (k : Nat) (r : List OtpOp) (s : State), s.fc.otp = List.cons (.revoke k) r → exec .otpWriteDone s = .next ((s.put
    FC_ROLLBACK.KEY_REVOKED (s.get FC_ROLLBACK.KEY_REVOKED ||| 2 ^ k)).otpNext)) ∧
  (∀ (k : Nat) (b : List Byte) (r : List OtpOp) (s : State), s.fc.otp = List.cons (.prog k b) r → exec .otpWriteDone s =
    .next ((s.put FC_ROLLBACK.KEY_PROG (s.get FC_ROLLBACK.KEY_PROG ||| 2 ^ k)).otpNext.setFc fun f =>
    { f with keyHash := tput [] k b f.keyHash })) ∧
  (∀ (n : Nat) (r : List OtpOp) (s : State), s.fc.otp = List.cons (.step n) r → (s.put FC_ROLLBACK.OTP_COUNT (s.get
    FC_ROLLBACK.OTP_COUNT + 1)).get FC_ROLLBACK.OTP_COUNT < n → exec .otpWriteDone s = .next (s.put FC_ROLLBACK.OTP_COUNT
    (s.get FC_ROLLBACK.OTP_COUNT + 1))) ∧
  (∀ (n : Nat) (r : List OtpOp) (s : State), s.fc.otp = List.cons (.step n) r → n ≤ (s.put FC_ROLLBACK.OTP_COUNT (s.get
    FC_ROLLBACK.OTP_COUNT + 1)).get FC_ROLLBACK.OTP_COUNT → exec .otpWriteDone s = .next ((s.put FC_ROLLBACK.OTP_COUNT
    (s.get FC_ROLLBACK.OTP_COUNT + 1)).otpNext)) ∧
  (∀ (s : State), s.fc.recOwed = true → exec .retainedRecordWrite s = .next (s.setFc fun f =>
    { f with record := some ⟨s.formeTable, f.actPosts, f.actColo⟩, recGood := true, recOwed := false })) ∧
  (∀ (s : State), s.fc.postOwed = true → exec .postListWrite s = .next ((s.setFc fun f =>
    { f with postOwed := false }).each s.fc.actPosts fun e u => u.ordered (.engine 0) (u.writeStalls (.engine 0) e.1 4)
    (.registerWrite (.engine 0) (BitVec.ofNat 32 e.1) 2 e.2) fun u => (u.mgmtWrite (.engine 0) e.1 4 e.2).2.2 (u.mgmtWrite
    (.engine 0) e.1 4 e.2).2.1)) ∧
  (∀ (s : State), s.fc.keepOwed = true → s.keepOut = false → exec .keepFhApply s = .next (s.keepApply)) ∧
  (∀ (s : State), s.fc.copying = true → (s.fc.keepOwed = false ∨ s.keepOut = true) → exec .shadowCopyDone s = .next
    (s.copyActive.setFc fun f => { f with copying := false })) ∧
  (∀ (s : State), s.fc.copying = true → s.fc.keepOwed = true → s.keepOut = false → exec .shadowCopyDone s = .next
    (s.keepApply.copyActive.setFc fun f => { f with copying := false })) ∧
  (∀ (s : State), 5 ≤ s.phase → s.phase ≤ 8 → s.boundaryTaken (s.nowNs / (s.msPeriod * 125000)) = true → exec
    .milestoneBoundary s = .next (s.takeBoundary (s.nowNs / (s.msPeriod * 125000)))) ∧
  (∀ (s : State), 5 ≤ s.phase → s.phase ≤ 8 → s.boundaryTaken (s.nowNs / (s.msPeriod * 125000)) = false → exec
    .milestoneBoundary s = .next (((s.inc IMP_COUNT.MS_SKIP).raise IMP_EVENT.MS_SKIP).when (s.armDue (s.nowNs /
    (s.msPeriod * 125000))) State.deferArm)) ∧
  (∀ (p : Port) (takeId : Option (Fin 2048)) (minInc : BitVec 16) (roleId : Fin 2048) (roleInc : BitVec 16) (s : State),
    s.spState p.val = stActive → s.on ID_HUB.ID_V = true → s.hubId = roleId.val → exec (.rejoinRx p takeId minInc roleId
    roleInc) s = .next (s.rejoin p.val takeId minInc.toNat))

/-- Management accesses on every path: one that is not turned away lands, and is answered. -/
def Obligations.AccessCommands : Prop :=
  (∀ (p : Path) (a : Word) (sz : Fin 3) (w : Word) (s : State), s.behind p = false → s.turnedAway p a.toNat
    (Machine.sizeOf sz) true = 0 → s.stalls a.toNat = false → exec (.registerWrite p a sz w) s = .next ((s.landWrite p
    a.toNat (Machine.sizeOf sz) w).2.2 ((s.landWrite p a.toNat (Machine.sizeOf sz) w).2.1.emit (.access p a.toNat
    (s.landWrite p a.toNat (Machine.sizeOf sz) w).1 0)))) ∧
  (∀ (p : Path) (a : Word) (sz : Fin 3) (s : State), s.behind p = false → s.turnedAway p a.toNat (Machine.sizeOf sz) false
    = 0 → exec (.rcRead p a sz) s = .next ((s.mgmtRead p a.toNat (Machine.sizeOf sz)).2.2.emit (.access p a.toNat
    (s.mgmtRead p a.toNat (Machine.sizeOf sz)).1 (s.mgmtRead p a.toNat (Machine.sizeOf sz)).2.1))) ∧
  (∀ (p : Path) (a w : Word) (s : State), s.behind p = false → keepBlock (plain a.toNat) = true → s.turnedAway p a.toNat 4
    true = 0 → s.stalls a.toNat = false → exec (.keepAccessComplete p a (some w)) s = .next ((s.landWrite p a.toNat 4
    w).2.2 ((s.landWrite p a.toNat 4 w).2.1.emit (.access p a.toNat (s.landWrite p a.toNat 4 w).1 0)))) ∧
  (∀ (p : Path) (a : Word) (s : State), s.behind p = false → keepBlock (plain a.toNat) = true → s.turnedAway p a.toNat 4
    false = 0 → exec (.keepAccessComplete p a none) s = .next ((s.mgmtRead p a.toNat 4).2.2.emit (.access p a.toNat
    (s.mgmtRead p a.toNat 4).1 (s.mgmtRead p a.toNat 4).2.1))) ∧
  (∀ (e : Path × Instr) (t : List (Path × Instr)) (s : State), s.fc.copying = false → s.fc.stalled = List.cons e t → exec
    .shadowWriteRelease s = .next ((s.setFc fun f =>
    { f with stalled := t.drop (t.takeWhile fun e => !State.wasStalled e.2).length }).each (List.cons e (t.takeWhile fun e
    => !State.wasStalled e.2)) fun e u => u.when (u.phase == s.phase) fun u => u.makeHeld e.2)) ∧
  (∀ (bar2 : Bool) (ofs : BitVec 26) (sz : Fin 4) (s : State), s.upSwitch = true → s.behind .pcie = false → (s.mgmtRead
    .pcie (ofs.toNat + (if bar2 then 2 ^ 31 else 0)) (2 ^ sz.val)).1 = 0 → exec (.pcieBarAccess bar2 ofs sz none) s =
    .next ((s.mgmtRead .pcie (ofs.toNat + (if bar2 then 2 ^ 31 else 0)) (2 ^ sz.val)).2.2.emit (.bar 0 (s.mgmtRead .pcie
    (ofs.toNat + (if bar2 then 2 ^ 31 else 0)) (2 ^ sz.val)).2.1))) ∧
  (∀ (bar2 : Bool) (ofs : BitVec 26) (sz : Fin 4) (w : Word) (s : State), s.upSwitch = true → s.behind .pcie = false →
    s.stalls (ofs.toNat + (if bar2 then 2 ^ 31 else 0)) = false → (s.mgmtWrite .pcie (ofs.toNat + (if bar2 then 2 ^ 31
    else 0)) (2 ^ sz.val) w).1 = 0 → exec (.pcieBarAccess bar2 ofs sz (some w)) s = .next ((s.mgmtWrite .pcie (ofs.toNat +
    (if bar2 then 2 ^ 31 else 0)) (2 ^ sz.val) w).2.2 (s.mgmtWrite .pcie (ofs.toNat + (if bar2 then 2 ^ 31 else 0)) (2 ^
    sz.val) w).2.1)) ∧
  (∀ (a w : Word) (s : State), s.behind .smbus = false → s.stalls a.toNat = false → exec (.smbusWrite true a w) s = .next
    ((s.mgmtWrite .smbus a.toNat 4 w).2.2 (s.mgmtWrite .smbus a.toNat 4 w).2.1)) ∧
  (∀ (a : Word) (s : State), s.behind .smbus = false → exec (.smbusSetAddress true a) s = .next (s.setMg fun m =>
    { m with readAddr := a.toNat })) ∧
  (∀ (s : State), s.behind .smbus = false → s.mg.pecBad = false → (s.mgmtRead .smbus s.mg.readAddr 4).1 = 0 → exec
    (.smbusRead true) s = .next ((s.mgmtRead .smbus s.mg.readAddr 4).2.2.emit (.smbus 0 (s.mgmtRead .smbus s.mg.readAddr
    4).2.1))) ∧
  (∀ (src : Fin 2048) (u : List Byte) (s : State), s.behind (.tunnel src) = false → mtIsWrite u = false → mtBad u = false
    → exec (.mtReadRequest src u) s = .next ((State.readWords (.tunnel src) (beAt u 8 2) (beAt u 4 4) (s.takeMt
    0xFD0)).2.2.mtAnswer src u (State.readWords (.tunnel src) (beAt u 8 2) (beAt u 4 4) (s.takeMt 0xFD0)).1
    (State.readWords (.tunnel src) (beAt u 8 2) (beAt u 4 4) (s.takeMt 0xFD0)).2.1.length (State.readWords (.tunnel src)
    (beAt u 8 2) (beAt u 4 4) (s.takeMt 0xFD0)).2.1)) ∧
  (∀ (src : Fin 2048) (u : List Byte) (s : State), s.behind (.tunnel src) = false → s.unitStalls (.tunnel src) (beAt u 8
    2) (beAt u 4 4) = false → mtIsWrite u = true → mtBad u = false → exec (.mtWriteRequest src u) s = .next
    ((State.writeWords (.tunnel src) (mtWords u (beAt u 8 2)) (beAt u 4 4) (s.takeMt 0xFD0)).2.2.2 ((State.writeWords
    (.tunnel src) (mtWords u (beAt u 8 2)) (beAt u 4 4) (s.takeMt 0xFD0)).2.2.1.mtAnswer src u (State.writeWords (.tunnel
    src) (mtWords u (beAt u 8 2)) (beAt u 4 4) (s.takeMt 0xFD0)).1 (State.writeWords (.tunnel src) (mtWords u (beAt u 8
    2)) (beAt u 4 4) (s.takeMt 0xFD0)).2.1 []))) ∧
  (∀ (src : Fin 2048) (u : List Byte) (r : MtReq) (s : State), (s.mg.mt.find? fun r => r.hub == src.val && r.tag == beAt u
    2 2) = some r → exec (.mtReply src u) s = .next ((s.takeMt 0xFD1).mtDone r (beAt u 1 1) (min (beAt u 10 2) (s.reqNat
    r.chan 12 2)) (if s.reqNat r.chan 0 1 = 1 then mtWords u (min (beAt u 10 2) (s.reqNat r.chan 12 2)) else []))) ∧
  (∀ (tag : BitVec 16) (r : MtReq) (s : State), (s.mg.mt.find? fun r => r.tag == tag.toNat) = some r → exec (.mtTimeout
    tag) s = .next (s.mtDone r 4 0 []))

/-- The USB device at the dock: connection, control transfers, suspend and wake, frames. -/
def Obligations.UsbDeviceCommands : Prop :=
  (∀ (s : State), s.ustate = 0 → s.mayConnect = true → exec .usbConnect s = .next (((s.put USB_STATUS.USTATE 1).emit
    (.usbPull true)).raise USB_EVENT.ATTACH)) ∧
  (∀ (s : State), exec .usbDisconnect s = .next (s.usbDetach)) ∧
  (∀ (s : State), s.ustate ≠ 0 → exec (.busReset true) s = .next (((s.tileReset.raise USB_EVENT.BUS_RESET).put
    USB_STATUS.USTATE 2).put USB_STATUS.HS 1)) ∧
  (∀ (setup : BitVec 64) (fn : Bool) (s : State), 2 ≤ s.ustate → s.ustate ≠ 5 → setupField setup.toNat 0 1 / 32 % 4 ≠ 2 →
    exec (.controlSetup setup fn false) s = .next ((s.abandonCtrl.bufWrite 0 0 (leBytes 8 setup.toNat)).setDk fun d =>
    { d with ctrl := some (setup.toNat, fn) })) ∧
  (∀ (n : Nat) (t s : State), s.stageOf 0 5 = some (n, t) → exec .setAddress s = .next ((t.put USB_STATUS.ADDR (setupField
    n 2 2 % 128)).put USB_STATUS.USTATE (if setupField n 2 2 % 128 = 0 then 2 else 3))) ∧
  (∀ (n : Nat) (t s : State), s.stageOf 0 9 = some (n, t) → exec .setConfiguration s = .next ((t.each (List.range 4) fun c
    s => s.setChan c fun x => { x with outTog := false, inTog := false }).put USB_STATUS.USTATE (if setupField n 2 1 = 0
    then 3 else 4))) ∧
  (∀ (n c : Nat) (dir : Bool) (t s : State), s.stageOf 2 3 = some (n, t) → endpointOf n = some (c, dir) → exec
    .setFeatureHalt s = .next (t.putBit (if dir then USB_STATUS.HALT_IN else USB_STATUS.HALT_OUT) c true)) ∧
  (∀ (n c : Nat) (dir : Bool) (t s : State), s.stageOf 2 1 = some (n, t) → endpointOf n = some (c, dir) → exec
    .clearFeatureHalt s = .next (t.unhalt c dir)) ∧
  (∀ (s : State), 2 ≤ s.ustate → s.ustate ≤ 4 → exec .usbSuspend s = .next (((s.setDk fun d =>
    { d with before := s.ustate, suspAt := s.tm.tick, why := 0, driving := false, hostK := false }).put USB_STATUS.USTATE
    5).raise USB_EVENT.SUSPEND)) ∧
  (∀ (s : State), exec .wakeReq s = .next (s.wakeReq)) ∧
  (∀ (k : Fin 4) (speed : Fin 3) (s : State), s.ustate = 5 → exec (.downstreamWake k 0 speed) s = .next ((s.put
    (USB_PORT.PSUSP k.val) 0).wakeReason 2)) ∧
  (∀ (s : State), s.ustate = 5 → s.on USB_WAKE.WAKE_PEND = true → s.dk.driving = false → 5000000 ≤ s.elapsed s.dk.suspAt →
    exec .remoteWakeDrive s = .next ((s.setDk fun d => { d with driving := true }).emit (.usbK true))) ∧
  (∀ (s : State), s.ustate = 5 → s.dk.driving = false → exec .hostKSeen s = .next (((s.setDk fun d =>
    { d with driving := false, hostK := true, why := 1 }).put USB_WAKE.WAKE_PEND 0).put USB_WAKE.WAKE_WHY 1)) ∧
  (∀ (s : State), s.ustate = 5 → s.dk.driving = false → exec .usbResume s = .next ((((((s.put USB_STATUS.USTATE
    s.dk.before).setDk fun d => { d with why := 0, driving := false, hostK := false }).put USB_WAKE.WAKE_PEND 0).put
    USB_WAKE.WAKE_WHY 1).inc USB_WAKE.WAKES).raise USB_EVENT.RESUME)) ∧
  (∀ (k : Fin 4) (s : State), s.on ID_PRESENT.DOCK = true → exec (.uhOvercurrent k) s = .next ((s.uhOver k.val).wakeReason
    3)) ∧
  (∀ (k : Fin 4) (conn : Bool) (speed : Fin 3) (s : State), s.on ID_PRESENT.DOCK = true → s.ustate ≠ 5 → exec
    (.downstreamConnectChange k conn speed) s = .next (s.uhConnect k.val conn speed.val)) ∧
  (∀ (frame : BitVec 11) (s : State), s.ustate = 4 → s.on SOF_CFG.SOF_EN = true → frame.toNat ≠ s.dk.frame →
    s.dk.sof.length < 16 → exec (.sofToken frame) s = .next (((s.setDk fun d =>
    { d with frame := frame.toNat, uframe := 0 }).setDk fun d =>
    { d with sof := d.sof ++ [(frame.toNat, 0, s.tm.sec, s.tm.ns)] }).put SOF_CFG.SOF_DEPTH (s.dk.sof.length + 1))) ∧
  (∀ (p : Path) (s : State), s.behind p = false → s.on ID_PRESENT.DOCK = true → exec (.sofPop p) s = .next (s.sofPop.emit
    (.access p SOF_POP 0 (s.sofPop.reg SOF_POP))))

/-- The service channels: requests, replies, the Steward. -/
def Obligations.ServiceChannelCommands : Prop :=
  (∀ (c : ChanNo) (tog : Bool) (data : List Byte) (s : State), s.ustate = 4 → s.on (GALLEY_MAP.GM_EN (outBuf c.val)) =
    true → s.getBit USB_STATUS.HALT_OUT c.val = false → (s.chan c.val).whole = false → tog = (s.chan c.val).outTog → exec
    (.bulkOutPacket c tog data) s = .next (s.outPacket c.val (data.take 512))) ∧
  (∀ (c : ChanNo) (s : State), s.asked c.val 1 = true → s.behind .usb = false → s.svcLocal c.val = true → exec (.svcRead
    c) s = .next ((s.setChan c.val fun x => { x with served := true }).svcReadHere c.val)) ∧
  (∀ (c : ChanNo) (s : State), s.asked c.val 1 = true → s.behind .usb = false → s.svcLocal c.val = false → exec (.svcRead
    c) s = .next ((s.setChan c.val fun x => { x with served := true }).svcForward c.val [])) ∧
  (∀ (c : ChanNo) (s : State), s.asked c.val 2 = true → s.behind .usb = false → s.unitStalls .usb (s.reqNat c.val 12 2)
    (s.reqNat c.val 8 4) = false → s.svcLocal c.val = true → exec (.svcWrite c) s = .next ((s.setChan c.val fun x =>
    { x with served := true }).svcWriteHere c.val)) ∧
  (∀ (c : ChanNo) (s : State), s.asked c.val 2 = true → s.behind .usb = false → s.svcLocal c.val = false → exec (.svcWrite
    c) s = .next ((s.setChan c.val fun x => { x with served := true }).svcForward c.val (s.reqWords c.val))) ∧
  (∀ (c : ChanNo) (s : State), s.asked c.val 3 = true → s.on FC_CUSTODY.VALID = true → exec (.svcCommand c) s = .next
    ((s.setChan c.val fun x => { x with served := true }).toSteward c.val)) ∧
  (∀ (c : ChanNo) (s : State), s.asked c.val 4 = true → exec (.svcEcho c) s = .next ((s.setChan c.val fun x =>
    { x with served := true }).svcReply c.val 0 0 (s.bufRead (outBuf c.val) 16 (s.reqNat c.val 6 2)))) ∧
  (∀ (w : Word) (s : State), exec (.stewardReply w) s = .next (s.stewardReply w)) ∧
  (∀ (c : ChanNo) (s : State), (s.chan c.val).cmd ≠ none → exec (.svcTimeout c) s = .next ((s.endCmd c.val).svcReply c.val
    4 0 [])) ∧
  (∀ (c : ChanNo) (len k : Nat) (s : State), (s.chan c.val).reply = some (len, k) → s.getBit USB_STATUS.HALT_IN c.val =
    false → s.ustate = 4 → exec (.bulkInAck c) s = .next ((s.emit (.usbIn c.val (s.bufRead (inBuf c.val) (512 * k) (min
    512 (len - 512 * k))))).setChan c.val fun x => if k = len / 512 then
    { x with reply := none, got := 0, whole := false, served := false, inTog := !x.inTog } else
    { x with reply := some (len, k + 1), inTog := !x.inTog }))

/-- Keep hold and what follows a lock-up: hold entry, link loss, leaving, custody limit; Milestone boundary, Keep flip, post
list, copy, record. -/
def Obligations.KeepHoldCommands : Prop :=
  (∀ (s : State), s.keepHold = false → exec .keepHoldEnter s = .next ((((((s.put KL_STATUS.HOLD 1).inc
    KL_STATUS.HOLDS).setPw fun p => { p with holdAt := s.tm.tick, custWarm := false }).vcWithdraw.when s.pw.hot fun s =>
    s.vcRaiseTo 760).logKeep 26 12 0 0).revertTrigger 3)) ∧
  (∀ (s : State), s.on EV_KL.KL_LOST_NOW = false → exec .klLost s = .next (((s.put EV_KL.KL_LOST_NOW 1).raise
    EV_KL.KL_LOST).latchStewards 21)) ∧
  (∀ (s : State), s.keepHold = true → exec .keepHoldLeave s = .next (((((((((s.put EV_KL.KL_LOST_NOW 0).put KL_STATUS.HOLD
    0).put KL_STATUS.ESCALATED 0).setPw fun p => { p with custWarm := false }).when (((((s.put EV_KL.KL_LOST_NOW 0).put
    KL_STATUS.HOLD 0).put KL_STATUS.ESCALATED 0).setPw fun p => { p with custWarm := false }).on PACE_PLAN.FLOOR) fun t =>
    t.vcKeep 750).afterHold).log 26 12 1 s.holdMs).raise EV_KL.KL_BACK).latchStewards 21)) ∧
  (∀ (s : State), s.keepHold = true → s.on KL_CFG.CUST_NEVER = false → s.pw.custWarm = false → max 1 (s.get
    KL_CFG.CUST_LIMIT_MS) ≤ s.holdMs → exec .custodyLimit s = .next ((s.setPw fun p =>
    { p with custWarm := true }).decideReset srcCustody true s.holdMs)) ∧
  (∀ (s : State), s.keepHold = true → s.pw.custWarm = true → s.on KL_STATUS.ESCALATED = false → exec .custodyEscalation s
    = .next (((s.cairn srcCustody false true s.holdMs).put KL_STATUS.ESCALATED 1).coldReset)) ∧
  (∀ (s : State), s.fc.recOwed = true → exec .retainedRecordWrite s = .next (s.setFc fun f =>
    { f with record := some ⟨s.formeTable, f.actPosts, f.actColo⟩, recGood := true, recOwed := false })) ∧
  (∀ (s : State), s.fc.postOwed = true → exec .postListWrite s = .next ((s.setFc fun f =>
    { f with postOwed := false }).each s.fc.actPosts fun e u => u.ordered (.engine 0) (u.writeStalls (.engine 0) e.1 4)
    (.registerWrite (.engine 0) (BitVec.ofNat 32 e.1) 2 e.2) fun u => (u.mgmtWrite (.engine 0) e.1 4 e.2).2.2 (u.mgmtWrite
    (.engine 0) e.1 4 e.2).2.1)) ∧
  (∀ (s : State), s.fc.keepOwed = true → s.keepOut = false → exec .keepFhApply s = .next (s.keepApply)) ∧
  (∀ (s : State), s.fc.copying = true → (s.fc.keepOwed = false ∨ s.keepOut = true) → exec .shadowCopyDone s = .next
    (s.copyActive.setFc fun f => { f with copying := false })) ∧
  (∀ (s : State), s.fc.copying = true → s.fc.keepOwed = true → s.keepOut = false → exec .shadowCopyDone s = .next
    (s.keepApply.copyActive.setFc fun f => { f with copying := false })) ∧
  (∀ (s : State), 5 ≤ s.phase → s.phase ≤ 8 → s.boundaryTaken (s.nowNs / (s.msPeriod * 125000)) = true → exec
    .milestoneBoundary s = .next (s.takeBoundary (s.nowNs / (s.msPeriod * 125000)))) ∧
  (∀ (s : State), 5 ≤ s.phase → s.phase ≤ 8 → s.boundaryTaken (s.nowNs / (s.msPeriod * 125000)) = false → exec
    .milestoneBoundary s = .next (((s.inc IMP_COUNT.MS_SKIP).raise IMP_EVENT.MS_SKIP).when (s.armDue (s.nowNs /
    (s.msPeriod * 125000))) State.deferArm))

/-- Scrubbing, row repair and Proof. -/
def Obligations.ScrubAndProofCommands : Prop :=
  (∀ (tile : Fin 16) (row : Fin 257) (s : State), s.on PF_CFG.SCRUB_EN = true → exec (.scrubWord (.caseMem tile row) 1) s
    = .next (s.rowCorrected (scrubRow (.caseMem tile row)))) ∧
  (∀ (r : ScrubRow) (s : State), s.svc.repairing.contains (scrubRow r).loc = true → exec (.rowRepairDone r) s = .next
    (s.rowRepaired (scrubRow r))) ∧
  (∀ (target : BitVec 16) (s : State), exec (.proofSpareEye target) s = .next (s.proofWrite (proofWord 1 0 target))) ∧
  (∀ (target : BitVec 16) (s : State), exec (.proofSpareRow target) s = .next (s.proofWrite (proofWord 2 0 target))) ∧
  (∀ (row : Fin 512) (target : BitVec 16) (s : State), exec (.proofLiveRow row target) s = .next (s.proofWrite (proofWord
    3 row target))) ∧
  (∀ (target : BitVec 16) (s : State), exec (.proofEngineCore target) s = .next (s.proofWrite (proofWord 4 0 target))) ∧
  (∀ (target : BitVec 16) (s : State), exec (.proofJunctionPath target) s = .next (s.proofWrite (proofWord 5 0 target))) ∧
  (∀ (test : Fin 16) (row : Fin 512) (target : BitVec 16) (s : State), exec (.proofInvalid test row target) s = .next
    (s.proofWrite (proofWord test.val row target))) ∧
  (∀ (test : Fin 6) (target : BitVec 16) (data : Bool) (k t row : Nat) (a : Bool) (s : State), (s.svc.tests.find? fun x =>
    x.1 == test.val && x.2.1 == target.toNat) = some (k, t, row, a) → exec (.proofTestDone test target true data) s =
    .next ((((s.proofLeave k t).proofResult k t 0).raise PF_EVENT.PROOF_DONE).inc PF_CNT.PASSES)) ∧
  (∀ (test : Fin 6) (target : BitVec 16) (a : Nat × Nat × Nat) (s : State), (s.proofTry.svc.asks.find? fun x => x.1 ==
    test.val && x.2.1 == target.toNat) = some a → exec (.proofDeferred test target) s = .next ((((s.proofTry.setSvc fun x
    => { x with asks := x.asks.filter (· != a) }).proofResult a.1 a.2.1 2).inc PF_CNT.DEFERS).raise PF_EVENT.DEFERRED)) ∧
  (∀ (s : State), s.on PF_CFG.AUTO_EN = true → exec .proofAutoTurn s = .next (s.autoRow.autoEye))

/-- Event messages and the test access port. -/
def Obligations.EventAndTapCommands : Prop :=
  (∀ (w : Word) (s : State), exec (.evRearm w) s = .next (s.rearm w)) ∧
  (∀ (src : Fin 2048) (source : Fin 32) (word : Word) (s : State), exec (.eventMessageRx src source none word) s = .next
    ((s.takeFifo 10 0xFE0).notice (4 * 2 ^ 28 + src.val * 2 ^ 16 + source.val) word.toNat)) ∧
  (∀ (s : State), exec .jtagExtest s = .next (s.tapLoad 0)) ∧
  (∀ (s : State), s.tap.held = false → exec .jtagIdcode s = .next ((s.tapLoad 1).emit (.tapShift (shiftBits s.idcode
    32)))) ∧
  (∀ (pins data : List Bool) (s : State), s.tap.held = false → exec (.jtagSamplePreload pins data) s = .next (((s.tapLoad
    2).emit (.tapShift (bsrFit pins))).setTap fun t => { t with bsr := bsrFit data })) ∧
  (∀ (s : State), exec .jtagClamp s = .next (s.tapLoad 4)) ∧
  (∀ (s : State), exec .jtagHighz s = .next (s.tapLoad 5)) ∧
  (∀ (code : Fin 16) (s : State), code.val ∉ [0, 1, 2, 4, 5] → exec (.jtagBypass code) s = .next (s.tapLoad code.val)) ∧
  (∀ (s : State), exec (.jtagTrst true) s = .next ((s.setTap fun t => { t with ir := 1, held := true }).emit .tapMission))
    ∧
  (∀ (s : State), exec (.jtagTrst false) s = .next (s.setTap fun t => { t with held := false }))

/-- The register forms of the arithmetic: rd gets the value of R363, the pc advances. -/
def Obligations.AluRegisterCommands : Prop :=
  (∀ (n : EngNo) (ecc : Ecc) (rd ra rb : GReg) (s : State), ecc ≠ .badFetch → ecc ≠ .fixedFetch → s.get (ENG_STATUS.STATE
    n.val) = 1 → exec (.add n ecc rd ra rb) s = .next ((s.engDone n.val).setG n.val rd (s.engG n.val ra + s.engG n.val
    rb))) ∧
  (∀ (n : EngNo) (ecc : Ecc) (rd ra rb : GReg) (s : State), ecc ≠ .badFetch → ecc ≠ .fixedFetch → s.get (ENG_STATUS.STATE
    n.val) = 1 → exec (.sub n ecc rd ra rb) s = .next ((s.engDone n.val).setG n.val rd (s.engG n.val ra - s.engG n.val
    rb))) ∧
  (∀ (n : EngNo) (ecc : Ecc) (rd ra rb : GReg) (s : State), ecc ≠ .badFetch → ecc ≠ .fixedFetch → s.get (ENG_STATUS.STATE
    n.val) = 1 → exec (.and n ecc rd ra rb) s = .next ((s.engDone n.val).setG n.val rd (s.engG n.val ra &&& s.engG n.val
    rb))) ∧
  (∀ (n : EngNo) (ecc : Ecc) (rd ra rb : GReg) (s : State), ecc ≠ .badFetch → ecc ≠ .fixedFetch → s.get (ENG_STATUS.STATE
    n.val) = 1 → exec (.or n ecc rd ra rb) s = .next ((s.engDone n.val).setG n.val rd (s.engG n.val ra ||| s.engG n.val
    rb))) ∧
  (∀ (n : EngNo) (ecc : Ecc) (rd ra rb : GReg) (s : State), ecc ≠ .badFetch → ecc ≠ .fixedFetch → s.get (ENG_STATUS.STATE
    n.val) = 1 → exec (.xor n ecc rd ra rb) s = .next ((s.engDone n.val).setG n.val rd (s.engG n.val ra ^^^ s.engG n.val
    rb))) ∧
  (∀ (n : EngNo) (ecc : Ecc) (rd ra rb : GReg) (s : State), ecc ≠ .badFetch → ecc ≠ .fixedFetch → s.get (ENG_STATUS.STATE
    n.val) = 1 → exec (.sll n ecc rd ra rb) s = .next ((s.engDone n.val).setG n.val rd ((s.engG n.val ra) <<< ((s.engG
    n.val rb).toNat % 32)))) ∧
  (∀ (n : EngNo) (ecc : Ecc) (rd ra rb : GReg) (s : State), ecc ≠ .badFetch → ecc ≠ .fixedFetch → s.get (ENG_STATUS.STATE
    n.val) = 1 → exec (.srl n ecc rd ra rb) s = .next ((s.engDone n.val).setG n.val rd ((s.engG n.val ra) >>> ((s.engG
    n.val rb).toNat % 32)))) ∧
  (∀ (n : EngNo) (ecc : Ecc) (rd ra rb : GReg) (s : State), ecc ≠ .badFetch → ecc ≠ .fixedFetch → s.get (ENG_STATUS.STATE
    n.val) = 1 → exec (.sra n ecc rd ra rb) s = .next ((s.engDone n.val).setG n.val rd ((s.engG n.val ra).sshiftRight
    ((s.engG n.val rb).toNat % 32)))) ∧
  (∀ (n : EngNo) (ecc : Ecc) (rd ra rb : GReg) (s : State), ecc ≠ .badFetch → ecc ≠ .fixedFetch → s.get (ENG_STATUS.STATE
    n.val) = 1 → exec (.slt n ecc rd ra rb) s = .next ((s.engDone n.val).setG n.val rd (if (s.engG n.val ra).slt (s.engG
    n.val rb) then 1 else 0))) ∧
  (∀ (n : EngNo) (ecc : Ecc) (rd ra rb : GReg) (s : State), ecc ≠ .badFetch → ecc ≠ .fixedFetch → s.get (ENG_STATUS.STATE
    n.val) = 1 → exec (.sltu n ecc rd ra rb) s = .next ((s.engDone n.val).setG n.val rd (if (s.engG n.val ra).ult (s.engG
    n.val rb) then 1 else 0))) ∧
  (∀ (n : EngNo) (ecc : Ecc) (rd ra rb : GReg) (s : State), ecc ≠ .badFetch → ecc ≠ .fixedFetch → s.get (ENG_STATUS.STATE
    n.val) = 1 → exec (.mul n ecc rd ra rb) s = .next ((s.engDone n.val).setG n.val rd (s.engG n.val ra * s.engG n.val
    rb))) ∧
  (∀ (n : EngNo) (ecc : Ecc) (rd ra rb : GReg) (s : State), ecc ≠ .badFetch → ecc ≠ .fixedFetch → s.get (ENG_STATUS.STATE
    n.val) = 1 → exec (.mulhu n ecc rd ra rb) s = .next ((s.engDone n.val).setG n.val rd (BitVec.ofNat 32 ((s.engG n.val
    ra).toNat * (s.engG n.val rb).toNat / 2 ^ 32)))) ∧
  (∀ (n : EngNo) (ecc : Ecc) (rd ra rb : GReg) (s : State), ecc ≠ .badFetch → ecc ≠ .fixedFetch → s.get (ENG_STATUS.STATE
    n.val) = 1 → exec (.divu n ecc rd ra rb) s = .next ((s.engDone n.val).setG n.val rd (if s.engG n.val rb = 0 then
    BitVec.allOnes 32 else s.engG n.val ra / s.engG n.val rb))) ∧
  (∀ (n : EngNo) (ecc : Ecc) (rd ra rb : GReg) (s : State), ecc ≠ .badFetch → ecc ≠ .fixedFetch → s.get (ENG_STATUS.STATE
    n.val) = 1 → exec (.remu n ecc rd ra rb) s = .next ((s.engDone n.val).setG n.val rd (if s.engG n.val rb = 0 then
    s.engG n.val ra else s.engG n.val ra % s.engG n.val rb)))

/-- The immediate forms of the arithmetic and the bit fields: rd gets the value of R363. -/
def Obligations.AluImmediateCommands : Prop :=
  (∀ (n : EngNo) (ecc : Ecc) (rd ra : GReg) (imm : BitVec 18) (s : State), ecc ≠ .badFetch → ecc ≠ .fixedFetch → s.get
    (ENG_STATUS.STATE n.val) = 1 → exec (.addi n ecc rd ra imm) s = .next ((s.engDone n.val).setG n.val rd (s.engG n.val
    ra + imm.signExtend 32))) ∧
  (∀ (n : EngNo) (ecc : Ecc) (rd ra : GReg) (imm : BitVec 18) (s : State), ecc ≠ .badFetch → ecc ≠ .fixedFetch → s.get
    (ENG_STATUS.STATE n.val) = 1 → exec (.andi n ecc rd ra imm) s = .next ((s.engDone n.val).setG n.val rd (s.engG n.val
    ra &&& imm.signExtend 32))) ∧
  (∀ (n : EngNo) (ecc : Ecc) (rd ra : GReg) (imm : BitVec 18) (s : State), ecc ≠ .badFetch → ecc ≠ .fixedFetch → s.get
    (ENG_STATUS.STATE n.val) = 1 → exec (.ori n ecc rd ra imm) s = .next ((s.engDone n.val).setG n.val rd (s.engG n.val ra
    ||| imm.signExtend 32))) ∧
  (∀ (n : EngNo) (ecc : Ecc) (rd ra : GReg) (imm : BitVec 18) (s : State), ecc ≠ .badFetch → ecc ≠ .fixedFetch → s.get
    (ENG_STATUS.STATE n.val) = 1 → exec (.xori n ecc rd ra imm) s = .next ((s.engDone n.val).setG n.val rd (s.engG n.val
    ra ^^^ imm.signExtend 32))) ∧
  (∀ (n : EngNo) (ecc : Ecc) (rd ra : GReg) (imm : BitVec 18) (s : State), ecc ≠ .badFetch → ecc ≠ .fixedFetch → s.get
    (ENG_STATUS.STATE n.val) = 1 → exec (.slti n ecc rd ra imm) s = .next ((s.engDone n.val).setG n.val rd (if (s.engG
    n.val ra).slt (imm.signExtend 32) then 1 else 0))) ∧
  (∀ (n : EngNo) (ecc : Ecc) (rd ra : GReg) (sh : BitVec 5) (s : State), ecc ≠ .badFetch → ecc ≠ .fixedFetch → s.get
    (ENG_STATUS.STATE n.val) = 1 → exec (.slli n ecc rd ra sh) s = .next ((s.engDone n.val).setG n.val rd ((s.engG n.val
    ra) <<< sh.toNat))) ∧
  (∀ (n : EngNo) (ecc : Ecc) (rd ra : GReg) (sh : BitVec 5) (s : State), ecc ≠ .badFetch → ecc ≠ .fixedFetch → s.get
    (ENG_STATUS.STATE n.val) = 1 → exec (.srli n ecc rd ra sh) s = .next ((s.engDone n.val).setG n.val rd ((s.engG n.val
    ra) >>> sh.toNat))) ∧
  (∀ (n : EngNo) (ecc : Ecc) (rd ra : GReg) (sh : BitVec 5) (s : State), ecc ≠ .badFetch → ecc ≠ .fixedFetch → s.get
    (ENG_STATUS.STATE n.val) = 1 → exec (.srai n ecc rd ra sh) s = .next ((s.engDone n.val).setG n.val rd ((s.engG n.val
    ra).sshiftRight sh.toNat))) ∧
  (∀ (n : EngNo) (ecc : Ecc) (rd : GReg) (imm : BitVec 18) (s : State), ecc ≠ .badFetch → ecc ≠ .fixedFetch → s.get
    (ENG_STATUS.STATE n.val) = 1 → exec (.lui n ecc rd imm) s = .next ((s.engDone n.val).setG n.val rd (imm.setWidth 32
    <<< 14))) ∧
  (∀ (n : EngNo) (ecc : Ecc) (rd ra : GReg) (lsb w : BitVec 5) (s : State), ecc ≠ .badFetch → ecc ≠ .fixedFetch → s.get
    (ENG_STATUS.STATE n.val) = 1 → lsb.toNat + w.toNat < 32 → exec (.bext n ecc rd ra lsb w) s = .next ((s.engDone
    n.val).setG n.val rd (BitVec.ofNat 32 (wordField (s.engG n.val ra) (lsb.toNat + w.toNat) lsb.toNat)))) ∧
  (∀ (n : EngNo) (ecc : Ecc) (rd ra : GReg) (lsb w : BitVec 5) (s : State), ecc ≠ .badFetch → ecc ≠ .fixedFetch → s.get
    (ENG_STATUS.STATE n.val) = 1 → 32 ≤ lsb.toNat + w.toNat → exec (.bext n ecc rd ra lsb w) s = .next (((s.engDone
    n.val).setG n.val rd (BitVec.ofNat 32 (s.engDone n.val).free)).usedFree)) ∧
  (∀ (n : EngNo) (ecc : Ecc) (rd ra : GReg) (lsb w : BitVec 5) (s : State), ecc ≠ .badFetch → ecc ≠ .fixedFetch → s.get
    (ENG_STATUS.STATE n.val) = 1 → lsb.toNat + w.toNat < 32 → exec (.bins n ecc rd ra lsb w) s = .next ((s.engDone
    n.val).setG n.val rd (setWordField (s.engG n.val rd) (lsb.toNat + w.toNat) lsb.toNat (s.engG n.val ra).toNat))) ∧
  (∀ (n : EngNo) (ecc : Ecc) (rd ra : GReg) (lsb w : BitVec 5) (s : State), ecc ≠ .badFetch → ecc ≠ .fixedFetch → s.get
    (ENG_STATUS.STATE n.val) = 1 → 32 ≤ lsb.toNat + w.toNat → exec (.bins n ecc rd ra lsb w) s = .next (((s.engDone
    n.val).setG n.val rd (BitVec.ofNat 32 (s.engDone n.val).free)).usedFree))

/-- Loads, stores and CAS that meet no fault, in data SRAM and Case memory. -/
def Obligations.LoadStoreCommands : Prop :=
  (∀ (n : EngNo) (rd ra : GReg) (imm : BitVec 18) (ofs : Nat) (s : State), s.get (ENG_STATUS.STATE n.val) = 1 → s.engCheck
    n.val (s.engAddr n ra imm).toNat 4 false = (none, s) → engPlace (s.engAddr n ra imm).toNat = .sram ofs → exec (.lw n
    .clean rd ra imm) s = .next ((s.engDone n.val).setG n.val rd (BitVec.ofNat 32 (leNat (memBytes s.engSram (0x8000 *
    n.val + ofs) 4))))) ∧
  (∀ (n : EngNo) (rd ra : GReg) (imm : BitVec 18) (ofs : Nat) (s : State), s.get (ENG_STATUS.STATE n.val) = 1 → s.engCheck
    n.val (s.engAddr n ra imm).toNat 2 false = (none, s) → engPlace (s.engAddr n ra imm).toNat = .sram ofs → exec (.lhu n
    .clean rd ra imm) s = .next ((s.engDone n.val).setG n.val rd (BitVec.ofNat 32 (leNat (memBytes s.engSram (0x8000 *
    n.val + ofs) 2))))) ∧
  (∀ (n : EngNo) (rd ra : GReg) (imm : BitVec 18) (ofs : Nat) (s : State), s.get (ENG_STATUS.STATE n.val) = 1 → s.engCheck
    n.val (s.engAddr n ra imm).toNat 1 false = (none, s) → engPlace (s.engAddr n ra imm).toNat = .sram ofs → exec (.lbu n
    .clean rd ra imm) s = .next ((s.engDone n.val).setG n.val rd (BitVec.ofNat 32 (leNat (memBytes s.engSram (0x8000 *
    n.val + ofs) 1))))) ∧
  (∀ (n : EngNo) (ecc : Ecc) (rd ra : GReg) (imm : BitVec 18) (ofs : Nat) (s : State), ecc ≠ .badFetch → ecc ≠ .fixedFetch
    → s.get (ENG_STATUS.STATE n.val) = 1 → s.engCheck n.val (s.engAddr n ra imm).toNat 4 true = (none, s) → engPlace
    (s.engAddr n ra imm).toNat = .sram ofs → exec (.sw n ecc rd ra imm) s = .next
    ({ s.engDone n.val with engSram := memWrite s.engSram (0x8000 * n.val + ofs) (leBytes 4 (s.engG n.val rd).toNat) })) ∧
  (∀ (n : EngNo) (ecc : Ecc) (rd ra : GReg) (imm : BitVec 18) (ofs : Nat) (s : State), ecc ≠ .badFetch → ecc ≠ .fixedFetch
    → s.get (ENG_STATUS.STATE n.val) = 1 → s.engCheck n.val (s.engAddr n ra imm).toNat 2 true = (none, s) → engPlace
    (s.engAddr n ra imm).toNat = .sram ofs → exec (.sh n ecc rd ra imm) s = .next
    ({ s.engDone n.val with engSram := memWrite s.engSram (0x8000 * n.val + ofs) (leBytes 2 (s.engG n.val rd).toNat) })) ∧
  (∀ (n : EngNo) (ecc : Ecc) (rd ra : GReg) (imm : BitVec 18) (ofs : Nat) (s : State), ecc ≠ .badFetch → ecc ≠ .fixedFetch
    → s.get (ENG_STATUS.STATE n.val) = 1 → s.engCheck n.val (s.engAddr n ra imm).toNat 1 true = (none, s) → engPlace
    (s.engAddr n ra imm).toNat = .sram ofs → exec (.sb n ecc rd ra imm) s = .next
    ({ s.engDone n.val with engSram := memWrite s.engSram (0x8000 * n.val + ofs) (leBytes 1 (s.engG n.val rd).toNat) })) ∧
  (∀ (n : EngNo) (rd ra : GReg) (imm : BitVec 18) (ofs : Nat) (s : State), s.get (ENG_STATUS.STATE n.val) = 1 → s.engCheck
    n.val (s.engAddr n ra imm).toNat 4 false = (none, s) → engPlace (s.engAddr n ra imm).toNat = .caseMem ofs → exec (.lw
    n .clean rd ra imm) s = .next (((s.caseRead ofs 4).2.engDone n.val).setG n.val rd (BitVec.ofNat 32 (s.caseRead ofs
    4).1))) ∧
  (∀ (n : EngNo) (rd ra : GReg) (imm : BitVec 18) (ofs : Nat) (s : State), s.get (ENG_STATUS.STATE n.val) = 1 → s.engCheck
    n.val (s.engAddr n ra imm).toNat 2 false = (none, s) → engPlace (s.engAddr n ra imm).toNat = .caseMem ofs → exec (.lhu
    n .clean rd ra imm) s = .next (((s.caseRead ofs 2).2.engDone n.val).setG n.val rd (BitVec.ofNat 32 (s.caseRead ofs
    2).1))) ∧
  (∀ (n : EngNo) (rd ra : GReg) (imm : BitVec 18) (ofs : Nat) (s : State), s.get (ENG_STATUS.STATE n.val) = 1 → s.engCheck
    n.val (s.engAddr n ra imm).toNat 1 false = (none, s) → engPlace (s.engAddr n ra imm).toNat = .caseMem ofs → exec (.lbu
    n .clean rd ra imm) s = .next (((s.caseRead ofs 1).2.engDone n.val).setG n.val rd (BitVec.ofNat 32 (s.caseRead ofs
    1).1))) ∧
  (∀ (n : EngNo) (ecc : Ecc) (rd ra : GReg) (imm : BitVec 18) (ofs : Nat) (s : State), ecc ≠ .badFetch → ecc ≠ .fixedFetch
    → s.get (ENG_STATUS.STATE n.val) = 1 → s.engCheck n.val (s.engAddr n ra imm).toNat 4 true = (none, s) → engPlace
    (s.engAddr n ra imm).toNat = .caseMem ofs → exec (.sw n ecc rd ra imm) s = .next ((s.engDone n.val).caseWrite ofs 4
    ((s.engG n.val rd).toNat % 2 ^ (8 * 4)))) ∧
  (∀ (n : EngNo) (ecc : Ecc) (rd ra : GReg) (imm : BitVec 18) (ofs : Nat) (s : State), ecc ≠ .badFetch → ecc ≠ .fixedFetch
    → s.get (ENG_STATUS.STATE n.val) = 1 → s.engCheck n.val (s.engAddr n ra imm).toNat 2 true = (none, s) → engPlace
    (s.engAddr n ra imm).toNat = .caseMem ofs → exec (.sh n ecc rd ra imm) s = .next ((s.engDone n.val).caseWrite ofs 2
    ((s.engG n.val rd).toNat % 2 ^ (8 * 2)))) ∧
  (∀ (n : EngNo) (ecc : Ecc) (rd ra : GReg) (imm : BitVec 18) (ofs : Nat) (s : State), ecc ≠ .badFetch → ecc ≠ .fixedFetch
    → s.get (ENG_STATUS.STATE n.val) = 1 → s.engCheck n.val (s.engAddr n ra imm).toNat 1 true = (none, s) → engPlace
    (s.engAddr n ra imm).toNat = .caseMem ofs → exec (.sb n ecc rd ra imm) s = .next ((s.engDone n.val).caseWrite ofs 1
    ((s.engG n.val rd).toNat % 2 ^ (8 * 1)))) ∧
  (∀ (n : EngNo) (rd ra rb : GReg) (ofs : Nat) (s : State), s.get (ENG_STATUS.STATE n.val) = 1 → engPlace (s.engG n.val
    ra).toNat = .caseMem ofs → (s.engG n.val ra).toNat % 4 = 0 → s.userDenied n.val (.caseMem ofs) true = false → exec
    (.cas n .clean rd ra rb) s = .next (if (s.caseRead ofs 4).1 == ((s.caseRead ofs 4).2.engG n.val rd).toNat then
    (((s.caseRead ofs 4).2.engDone n.val).setG n.val rd (BitVec.ofNat 32 (s.caseRead ofs 4).1)).caseWrite ofs 4
    ((s.caseRead ofs 4).2.engG n.val rb).toNat else ((s.caseRead ofs 4).2.engDone n.val).setG n.val rd (BitVec.ofNat 32
    (s.caseRead ofs 4).1)))

/-- Branches and jumps to a word of the bank, and branches not taken. -/
def Obligations.ControlFlowCommands : Prop :=
  (∀ (n : EngNo) (ecc : Ecc) (c : BitVec 4) (ra : GReg) (off : BitVec 18) (s : State), ecc ≠ .badFetch → ecc ≠ .fixedFetch
    → s.get (ENG_STATUS.STATE n.val) = 1 → condHolds c (s.engG n.val ra) = some true → 0 ≤ ((s.engine n.val).pc : Int) +
    off.toInt * 4 ∧ ((s.engine n.val).pc : Int) + off.toInt * 4 ≤ 0x3FFC ∧ (((s.engine n.val).pc : Int) + off.toInt * 4) %
    4 = 0 → exec (.b n ecc c ra off) s = .next (((s.engCount n.val).setG n.val 0 (BitVec.ofNat 32 ((s.engine n.val).pc +
    4))).setEngine n.val fun e => { e with pc := (((s.engine n.val).pc : Int) + off.toInt * 4).toNat })) ∧
  (∀ (n : EngNo) (ecc : Ecc) (c : BitVec 4) (ra : GReg) (off : BitVec 18) (s : State), ecc ≠ .badFetch → ecc ≠ .fixedFetch
    → s.get (ENG_STATUS.STATE n.val) = 1 → condHolds c (s.engG n.val ra) = some false → exec (.b n ecc c ra off) s = .next
    (s.engDone n.val)) ∧
  (∀ (n : EngNo) (ecc : Ecc) (c : BitVec 4) (ra : GReg) (off : BitVec 18) (s : State), ecc ≠ .badFetch → ecc ≠ .fixedFetch
    → s.get (ENG_STATUS.STATE n.val) = 1 → condHolds c (s.engG n.val ra) = some true → 0 ≤ ((s.engine n.val).pc : Int) +
    off.toInt * 4 ∧ ((s.engine n.val).pc : Int) + off.toInt * 4 ≤ 0x3FFC ∧ (((s.engine n.val).pc : Int) + off.toInt * 4) %
    4 = 0 → exec (.bal n ecc c ra off) s = .next (((s.engCount n.val).setG n.val 15 (BitVec.ofNat 32 ((s.engine n.val).pc
    + 4))).setEngine n.val fun e => { e with pc := (((s.engine n.val).pc : Int) + off.toInt * 4).toNat })) ∧
  (∀ (n : EngNo) (ecc : Ecc) (c : BitVec 4) (ra : GReg) (off : BitVec 18) (s : State), ecc ≠ .badFetch → ecc ≠ .fixedFetch
    → s.get (ENG_STATUS.STATE n.val) = 1 → condHolds c (s.engG n.val ra) = some false → exec (.bal n ecc c ra off) s =
    .next (s.engDone n.val)) ∧
  (∀ (n : EngNo) (ecc : Ecc) (rd ra : GReg) (imm : BitVec 18) (s : State), ecc ≠ .badFetch → ecc ≠ .fixedFetch → s.get
    (ENG_STATUS.STATE n.val) = 1 → (s.engG n.val ra + imm.signExtend 32 * 4).toNat ≤ 0x3FFC → (s.engG n.val ra +
    imm.signExtend 32 * 4).toNat % 4 = 0 → exec (.jalr n ecc rd ra imm) s = .next (((s.engCount n.val).setG n.val rd
    (BitVec.ofNat 32 ((s.engine n.val).pc + 4))).setEngine n.val fun e =>
    { e with pc := (s.engG n.val ra + imm.signExtend 32 * 4).toNat })) ∧
  (∀ (n : EngNo) (ecc : Ecc) (s : State), ecc ≠ .badFetch → ecc ≠ .fixedFetch → s.get (ENG_STATUS.STATE n.val) = 1 → exec
    (.yield n ecc) s = .next ((s.engCount n.val).engYield n.val)) ∧
  (∀ (n : EngNo) (ecc : Ecc) (s : State), ecc ≠ .badFetch → ecc ≠ .fixedFetch → s.get (ENG_STATUS.STATE n.val) = 1 → exec
    (.kick n ecc) s = .next ((s.engDone n.val).setEngine n.val fun e => { e with wdtAt := s.tm.tick })) ∧
  (∀ (n : EngNo) (ecc : Ecc) (s : State), ecc ≠ .badFetch → ecc ≠ .fixedFetch → s.get (ENG_STATUS.STATE n.val) = 1 → exec
    (.fence n ecc) s = .next (s.engDone n.val)) ∧
  (∀ (n : EngNo) (ecc : Ecc) (w : Word) (s : State), ecc ≠ .badFetch → ecc ≠ .fixedFetch → s.get (ENG_STATUS.STATE n.val)
    = 1 → decodeEngine n ecc w = none → exec (.illegalOp n ecc w) s = .next (s.engineFault n.val 1))

/-- Mailboxes, events, tables, hashes, checksums, time and the CSRs. -/
def Obligations.EngineUnitCommands : Prop :=
  (∀ (n : EngNo) (ecc : Ecc) (rd ra rb : GReg) (tgt mbx : BitVec 4) (s : State), ecc ≠ .badFetch → ecc ≠ .fixedFetch →
    s.get (ENG_STATUS.STATE n.val) = 1 → exec (.send n ecc rd ra rb tgt mbx) s = .next (((s.sendMail tgt.toNat mbx.toNat
    (s.engG n.val ra, s.engG n.val rb)).2.engDone n.val).setG n.val rd (BitVec.ofNat 32 (s.sendMail tgt.toNat mbx.toNat
    (s.engG n.val ra, s.engG n.val rb)).1))) ∧
  (∀ (n : EngNo) (ecc : Ecc) (rd : GReg) (mbx : BitVec 4) (t : State) (s : State), ecc ≠ .badFetch → ecc ≠ .fixedFetch →
    s.get (ENG_STATUS.STATE n.val) = 1 → recvReg rd = true → s.takeMail n.val rd.toNat mbx.toNat = some t → exec (.recv n
    ecc rd mbx) s = .next (t)) ∧
  (∀ (n : EngNo) (ecc : Ecc) (rd : GReg) (mbx : BitVec 4) (s : State), ecc ≠ .badFetch → ecc ≠ .fixedFetch → s.get
    (ENG_STATUS.STATE n.val) = 1 → recvReg rd = true → s.takeMail n.val rd.toNat mbx.toNat = none → exec (.recv n ecc rd
    mbx) s = .next (s.engWait n.val (.recv rd.toNat mbx.toNat))) ∧
  (∀ (n : EngNo) (ecc : Ecc) (rd ra : GReg) (s : State), ecc ≠ .badFetch → ecc ≠ .fixedFetch → s.get (ENG_STATUS.STATE
    n.val) = 1 → (s.engEvents n.val &&& (s.engG n.val ra).toNat ≠ 0 ∨ (s.engG n.val ra).toNat = 0) → exec (.wait n ecc rd
    ra) s = .next (s.takeEvents n.val rd (s.engEvents n.val &&& (s.engG n.val ra).toNat))) ∧
  (∀ (n : EngNo) (ecc : Ecc) (rd ra : GReg) (s : State), ecc ≠ .badFetch → ecc ≠ .fixedFetch → s.get (ENG_STATUS.STATE
    n.val) = 1 → s.engEvents n.val &&& (s.engG n.val ra).toNat = 0 → (s.engG n.val ra).toNat ≠ 0 → exec (.wait n ecc rd
    ra) s = .next (s.engWait n.val (.event rd.toNat (s.engG n.val ra).toNat))) ∧
  (∀ (n : EngNo) (rd mbx : Nat) (t s : State), (s.engine n.val).waiting = some (.recv rd mbx) → s.takeMail n.val rd mbx =
    some t → exec (.recvWake n) s = .next (t.put (ENG_STATUS.STATE n.val) 1)) ∧
  (∀ (n : EngNo) (rd mask : Nat) (s : State), (s.engine n.val).waiting = some (.event rd mask) → s.engEvents n.val &&&
    mask ≠ 0 → exec (.waitWake n) s = .next ((s.takeEvents n.val (BitVec.ofNat 4 rd) (s.engEvents n.val &&& mask)).put
    (ENG_STATUS.STATE n.val) 1)) ∧
  (∀ (n : EngNo) (ecc : Ecc) (rd ra rb : GReg) (d : BitVec 3) (s : State), ecc ≠ .badFetch → ecc ≠ .fixedFetch → s.get
    (ENG_STATUS.STATE n.val) = 1 → (s.engG n.val ra).toNat < wordField (s.engTbl n.val (2 * d.toNat + 1)) 31 16 → (s.engG
    n.val rb).toNat < wordField (s.engTbl n.val (2 * d.toNat + 1)) 15 0 → exec (.tbl n ecc rd ra rb d) s = .next
    ((s.engDone n.val).setG n.val rd (BitVec.ofNat 32 (0x100000 + wordField (s.engTbl n.val (2 * d.toNat)) 19 0 + (s.engG
    n.val ra).toNat * wordField (s.engTbl n.val (2 * d.toNat + 1)) 15 0 + (s.engG n.val rb).toNat)))) ∧
  (∀ (n : EngNo) (ecc : Ecc) (rd ra rb : GReg) (d : BitVec 3) (s : State), ecc ≠ .badFetch → ecc ≠ .fixedFetch → s.get
    (ENG_STATUS.STATE n.val) = 1 → (wordField (s.engTbl n.val (2 * d.toNat + 1)) 31 16 ≤ (s.engG n.val ra).toNat ∨
    wordField (s.engTbl n.val (2 * d.toNat + 1)) 15 0 ≤ (s.engG n.val rb).toNat) → exec (.tbl n ecc rd ra rb d) s = .next
    (s.engineFault n.val 4)) ∧
  (∀ (n : EngNo) (ecc : Ecc) (rd ra rb : GReg) (s : State), ecc ≠ .badFetch → ecc ≠ .fixedFetch → s.get (ENG_STATUS.STATE
    n.val) = 1 → exec (.hash n ecc rd ra rb 0) s = .next ((s.engDone n.val).setG n.val rd (BitVec.ofNat 32 (crc8 ((beBytes
    4 (s.engG n.val rb).toNat).drop 3 ++ beBytes 4 (s.engG n.val ra).toNat))))) ∧
  (∀ (n : EngNo) (ecc : Ecc) (rd ra rb : GReg) (s : State), ecc ≠ .badFetch → ecc ≠ .fixedFetch → s.get (ENG_STATUS.STATE
    n.val) = 1 → exec (.hash n ecc rd ra rb 1) s = .next ((s.engDone n.val).setG n.val rd (BitVec.ofNat 32 (crc32c
    (beBytes 4 (s.engG n.val rb).toNat ++ beBytes 4 (s.engG n.val ra).toNat))))) ∧
  (∀ (n : EngNo) (rd ra rb : GReg) (alg : BitVec 2) (ofs : Nat) (s : State), s.get (ENG_STATUS.STATE n.val) = 1 → alg ≠ 3
    → engPlace (s.engG n.val ra).toNat = .sram ofs → ofs + (s.engG n.val rb).toNat ≤ 0x8000 → (s.engG n.val rb).toNat ≤
    4096 → exec (.crc n .clean rd ra rb alg) s = .next ((s.engDone n.val).setG n.val rd (BitVec.ofNat 32 (crcRun alg.toNat
    (s.engG n.val rd).toNat (memBytes s.engSram (0x8000 * n.val + ofs) (s.engG n.val rb).toNat))))) ∧
  (∀ (n : EngNo) (ecc : Ecc) (rd : GReg) (s : State), ecc ≠ .badFetch → ecc ≠ .fixedFetch → s.get (ENG_STATUS.STATE n.val)
    = 1 → exec (.time n ecc rd 1) s = .next ((s.engDone n.val).setG n.val rd (BitVec.ofNat 32 ((s.engine
    n.val).latched.1)))) ∧
  (∀ (n : EngNo) (ecc : Ecc) (rd : GReg) (s : State), ecc ≠ .badFetch → ecc ≠ .fixedFetch → s.get (ENG_STATUS.STATE n.val)
    = 1 → exec (.time n ecc rd 2) s = .next ((s.engDone n.val).setG n.val rd (BitVec.ofNat 32 ((s.engine n.val).latched.1
    / 2 ^ 32 * 2 ^ 16 + (s.engine n.val).latched.2)))) ∧
  (∀ (n : EngNo) (ecc : Ecc) (rd : GReg) (s : State), ecc ≠ .badFetch → ecc ≠ .fixedFetch → s.get (ENG_STATUS.STATE n.val)
    = 1 → exec (.time n ecc rd 3) s = .next ((s.engDone n.val).setG n.val rd (BitVec.ofNat 32 (s.get IMP_MS.MS_NUM)))) ∧
  (∀ (n : EngNo) (ecc : Ecc) (rd : GReg) (s : State), ecc ≠ .badFetch → ecc ≠ .fixedFetch → s.get (ENG_STATUS.STATE n.val)
    = 1 → exec (.time n ecc rd 0) s = .next (((s.engDone n.val).setG n.val rd (BitVec.ofNat 32 s.tm.ns)).setEngine n.val
    fun e => { e with latched := (s.tm.sec, s.tm.frac / 2 ^ 16) })) ∧
  (∀ (n : EngNo) (ecc : Ecc) (rd : GReg) (csr : BitVec 8) (s : State), ecc ≠ .badFetch → ecc ≠ .fixedFetch → s.get
    (ENG_STATUS.STATE n.val) = 1 → csrKnown csr.toNat = true → exec (.csrr n ecc rd csr) s = .next ((s.engDone n.val).setG
    n.val rd (BitVec.ofNat 32 (s.csrRead n.val csr.toNat)))) ∧
  (∀ (n : EngNo) (ecc : Ecc) (ra : GReg) (csr : BitVec 8) (s : State), ecc ≠ .badFetch → ecc ≠ .fixedFetch → s.get
    (ENG_STATUS.STATE n.val) = 1 → csrKnown csr.toNat = true → exec (.csrw n ecc ra csr) s = .next ((s.engDone
    n.val).csrWrite n.val csr.toNat (s.engG n.val ra)))
end

