-- ==== Sys2Proof/Laws/Bits.lean ====
section
/-! SUPPORT. Laws of bit fields: reading a field after writing it, and after writing another. -/

namespace Sys2Proof.Machine

theorem getLsbD_wordMask (hi lo i : Nat) : (wordMask hi lo).getLsbD i = decide (i < 32 ∧ lo ≤ i ∧ i < hi + 1) := by
  simp only [wordMask, BitVec.getLsbD_shiftLeft, BitVec.getLsbD_setWidth, BitVec.getLsbD_allOnes]
  rw [Bool.eq_iff_iff]
  simp only [Bool.and_eq_true, Bool.not_eq_true', decide_eq_true_eq, decide_eq_false_iff_not]
  omega

theorem getLsbD_setWordField (w : Word) (hi lo v i : Nat) :
    (setWordField w hi lo v).getLsbD i =
      if i < 32 ∧ lo ≤ i ∧ i < hi + 1 then v.testBit (i - lo) else w.getLsbD i := by
  simp only [setWordField, BitVec.getLsbD_or, BitVec.getLsbD_and, BitVec.getLsbD_not, BitVec.getLsbD_shiftLeft,
    getLsbD_wordMask, BitVec.getLsbD_ofNat]
  by_cases h1 : i < 32
  · by_cases h2 : lo ≤ i ∧ i < hi + 1
    · have h3 : ¬ i < lo := by omega
      have h4 : i - lo < 32 := by omega
      simp [h1, h2, h3, h4]
    · have h5 : ¬ (lo ≤ i ∧ i ≤ hi) := by omega
      simp [h1]
      by_cases h6 : lo ≤ i
      · have : ¬ i < hi + 1 := by omega
        have h8 : ¬ i ≤ hi := by omega
        simp [h6, h8]
      · simp [h6]
  · have : w.getLsbD i = false := BitVec.getLsbD_of_ge w i (by omega)
    simp [h1, this]

/-- A field reads as the written value, cut to the field's width. -/
theorem wordField_setWordField {hi lo : Nat} (h : hi < 32) (w : Word) (v : Nat) :
    wordField (setWordField w hi lo v) hi lo = v % 2 ^ (hi + 1 - lo) := by
  have : ((setWordField w hi lo v) >>> lo).setWidth (hi + 1 - lo) = BitVec.ofNat (hi + 1 - lo) v := by
    apply BitVec.eq_of_getLsbD_eq
    intro i hi'
    simp only [BitVec.getLsbD_setWidth, BitVec.getLsbD_ushiftRight, getLsbD_setWordField, BitVec.getLsbD_ofNat, hi',
      decide_true, Bool.true_and]
    rw [if_pos (by omega)]
    congr 1
    omega
  rw [wordField, this, BitVec.toNat_ofNat]

/-- A field reads as before after a write of a field beside it. -/
theorem wordField_setWordField_of_disjoint {hi lo hi' lo' : Nat} (h : hi < lo' ∨ hi' < lo) (w : Word) (v : Nat) :
    wordField (setWordField w hi lo v) hi' lo' = wordField w hi' lo' := by
  have : ((setWordField w hi lo v) >>> lo').setWidth (hi' + 1 - lo') = (w >>> lo').setWidth (hi' + 1 - lo') := by
    apply BitVec.eq_of_getLsbD_eq
    intro i hi''
    simp only [BitVec.getLsbD_setWidth, BitVec.getLsbD_ushiftRight, getLsbD_setWordField]
    rw [if_neg (by omega)]
  rw [wordField, this, wordField]

theorem wordField_lt (w : Word) (hi lo : Nat) : wordField w hi lo < 2 ^ (hi + 1 - lo) := BitVec.isLt _

theorem length_leBytes (k n : Nat) : (leBytes k n).length = k := by
  induction k generalizing n with
  | zero => rfl
  | succ k ih => simp [leBytes, ih]

theorem leNat_leBytes (k n : Nat) : leNat (leBytes k n) = n % 2 ^ (8 * k) := by
  induction k generalizing n with
  | zero => simp [leBytes, leNat, Nat.mod_one]
  | succ k ih =>
    have h : leNat (leBytes (k + 1) n) = leNat (leBytes k (n / 256)) * 256 + n % 256 := by
      simp [leBytes, leNat]
    rw [h, ih]
    have e : 2 ^ (8 * (k + 1)) = 256 * 2 ^ (8 * k) := by rw [Nat.mul_add, Nat.pow_add]; omega
    rw [e, Nat.mod_mul]
    omega

end Sys2Proof.Machine
end

