-- ==== Sys2Proof/Laws/State.lean ====
section
/-! SUPPORT. What each update of the state changes: every field that it does not name reads as before. -/

namespace Sys2Proof.Machine

variable (s : State)

/-! ### setReg -/

@[simp] theorem State.setReg_shadow (a : Nat) (w : Word) : (s.setReg a w).shadow = s.shadow := rfl
@[simp] theorem State.setReg_caseMem (a : Nat) (w : Word) : (s.setReg a w).caseMem = s.caseMem := rfl
@[simp] theorem State.setReg_engSram (a : Nat) (w : Word) : (s.setReg a w).engSram = s.engSram := rfl
@[simp] theorem State.setReg_engBank (a : Nat) (w : Word) : (s.setReg a w).engBank = s.engBank := rfl
@[simp] theorem State.setReg_galley (a : Nat) (w : Word) : (s.setReg a w).galley = s.galley := rfl
@[simp] theorem State.setReg_pimage (a : Nat) (w : Word) : (s.setReg a w).pimage = s.pimage := rfl
@[simp] theorem State.setReg_flash (a : Nat) (w : Word) : (s.setReg a w).flash = s.flash := rfl
@[simp] theorem State.setReg_elog (a : Nat) (w : Word) : (s.setReg a w).elog = s.elog := rfl
@[simp] theorem State.setReg_ports (a : Nat) (w : Word) : (s.setReg a w).ports = s.ports := rfl
@[simp] theorem State.setReg_lanes (a : Nat) (w : Word) : (s.setReg a w).lanes = s.lanes := rfl
@[simp] theorem State.setReg_links (a : Nat) (w : Word) : (s.setReg a w).links = s.links := rfl
@[simp] theorem State.setReg_jn (a : Nat) (w : Word) : (s.setReg a w).jn = s.jn := rfl
@[simp] theorem State.setReg_imp (a : Nat) (w : Word) : (s.setReg a w).imp = s.imp := rfl
@[simp] theorem State.setReg_pace (a : Nat) (w : Word) : (s.setReg a w).pace = s.pace := rfl
@[simp] theorem State.setReg_eng (a : Nat) (w : Word) : (s.setReg a w).eng = s.eng := rfl
@[simp] theorem State.setReg_tm (a : Nat) (w : Word) : (s.setReg a w).tm = s.tm := rfl
@[simp] theorem State.setReg_svc (a : Nat) (w : Word) : (s.setReg a w).svc = s.svc := rfl
@[simp] theorem State.setReg_rs (a : Nat) (w : Word) : (s.setReg a w).rs = s.rs := rfl
@[simp] theorem State.setReg_fc (a : Nat) (w : Word) : (s.setReg a w).fc = s.fc := rfl
@[simp] theorem State.setReg_display (a : Nat) (w : Word) : (s.setReg a w).display = s.display := rfl
@[simp] theorem State.setReg_px (a : Nat) (w : Word) : (s.setReg a w).px = s.px := rfl
@[simp] theorem State.setReg_eth (a : Nat) (w : Word) : (s.setReg a w).eth = s.eth := rfl
@[simp] theorem State.setReg_lb (a : Nat) (w : Word) : (s.setReg a w).lb = s.lb := rfl
@[simp] theorem State.setReg_pw (a : Nat) (w : Word) : (s.setReg a w).pw = s.pw := rfl
@[simp] theorem State.setReg_dk (a : Nat) (w : Word) : (s.setReg a w).dk = s.dk := rfl
@[simp] theorem State.setReg_tap (a : Nat) (w : Word) : (s.setReg a w).tap = s.tap := rfl
@[simp] theorem State.setReg_mg (a : Nat) (w : Word) : (s.setReg a w).mg = s.mg := rfl
@[simp] theorem State.setReg_out (a : Nat) (w : Word) : (s.setReg a w).out = s.out := rfl
@[simp] theorem State.setReg_freeCtr (a : Nat) (w : Word) : (s.setReg a w).freeCtr = s.freeCtr := rfl
@[simp] theorem State.setReg_pending (a : Nat) (w : Word) : (s.setReg a w).pending = s.pending := rfl
@[simp] theorem State.setReg_engine (a : Nat) (w : Word) (x : Nat) : (s.setReg a w).engine x = s.engine x := rfl

/-! ### put -/

@[simp] theorem State.put_shadow (f : Fld) (v : Nat) : (s.put f v).shadow = s.shadow := rfl
@[simp] theorem State.put_caseMem (f : Fld) (v : Nat) : (s.put f v).caseMem = s.caseMem := rfl
@[simp] theorem State.put_engSram (f : Fld) (v : Nat) : (s.put f v).engSram = s.engSram := rfl
@[simp] theorem State.put_engBank (f : Fld) (v : Nat) : (s.put f v).engBank = s.engBank := rfl
@[simp] theorem State.put_galley (f : Fld) (v : Nat) : (s.put f v).galley = s.galley := rfl
@[simp] theorem State.put_pimage (f : Fld) (v : Nat) : (s.put f v).pimage = s.pimage := rfl
@[simp] theorem State.put_flash (f : Fld) (v : Nat) : (s.put f v).flash = s.flash := rfl
@[simp] theorem State.put_elog (f : Fld) (v : Nat) : (s.put f v).elog = s.elog := rfl
@[simp] theorem State.put_ports (f : Fld) (v : Nat) : (s.put f v).ports = s.ports := rfl
@[simp] theorem State.put_lanes (f : Fld) (v : Nat) : (s.put f v).lanes = s.lanes := rfl
@[simp] theorem State.put_links (f : Fld) (v : Nat) : (s.put f v).links = s.links := rfl
@[simp] theorem State.put_jn (f : Fld) (v : Nat) : (s.put f v).jn = s.jn := rfl
@[simp] theorem State.put_imp (f : Fld) (v : Nat) : (s.put f v).imp = s.imp := rfl
@[simp] theorem State.put_pace (f : Fld) (v : Nat) : (s.put f v).pace = s.pace := rfl
@[simp] theorem State.put_eng (f : Fld) (v : Nat) : (s.put f v).eng = s.eng := rfl
@[simp] theorem State.put_tm (f : Fld) (v : Nat) : (s.put f v).tm = s.tm := rfl
@[simp] theorem State.put_svc (f : Fld) (v : Nat) : (s.put f v).svc = s.svc := rfl
@[simp] theorem State.put_rs (f : Fld) (v : Nat) : (s.put f v).rs = s.rs := rfl
@[simp] theorem State.put_fc (f : Fld) (v : Nat) : (s.put f v).fc = s.fc := rfl
@[simp] theorem State.put_display (f : Fld) (v : Nat) : (s.put f v).display = s.display := rfl
@[simp] theorem State.put_px (f : Fld) (v : Nat) : (s.put f v).px = s.px := rfl
@[simp] theorem State.put_eth (f : Fld) (v : Nat) : (s.put f v).eth = s.eth := rfl
@[simp] theorem State.put_lb (f : Fld) (v : Nat) : (s.put f v).lb = s.lb := rfl
@[simp] theorem State.put_pw (f : Fld) (v : Nat) : (s.put f v).pw = s.pw := rfl
@[simp] theorem State.put_dk (f : Fld) (v : Nat) : (s.put f v).dk = s.dk := rfl
@[simp] theorem State.put_tap (f : Fld) (v : Nat) : (s.put f v).tap = s.tap := rfl
@[simp] theorem State.put_mg (f : Fld) (v : Nat) : (s.put f v).mg = s.mg := rfl
@[simp] theorem State.put_out (f : Fld) (v : Nat) : (s.put f v).out = s.out := rfl
@[simp] theorem State.put_freeCtr (f : Fld) (v : Nat) : (s.put f v).freeCtr = s.freeCtr := rfl
@[simp] theorem State.put_pending (f : Fld) (v : Nat) : (s.put f v).pending = s.pending := rfl
@[simp] theorem State.put_engine (f : Fld) (v : Nat) (x : Nat) : (s.put f v).engine x = s.engine x := rfl

/-! ### addSat -/

@[simp] theorem State.addSat_shadow (f : Fld) (n : Nat) : (s.addSat f n).shadow = s.shadow := rfl
@[simp] theorem State.addSat_caseMem (f : Fld) (n : Nat) : (s.addSat f n).caseMem = s.caseMem := rfl
@[simp] theorem State.addSat_engSram (f : Fld) (n : Nat) : (s.addSat f n).engSram = s.engSram := rfl
@[simp] theorem State.addSat_engBank (f : Fld) (n : Nat) : (s.addSat f n).engBank = s.engBank := rfl
@[simp] theorem State.addSat_galley (f : Fld) (n : Nat) : (s.addSat f n).galley = s.galley := rfl
@[simp] theorem State.addSat_pimage (f : Fld) (n : Nat) : (s.addSat f n).pimage = s.pimage := rfl
@[simp] theorem State.addSat_flash (f : Fld) (n : Nat) : (s.addSat f n).flash = s.flash := rfl
@[simp] theorem State.addSat_elog (f : Fld) (n : Nat) : (s.addSat f n).elog = s.elog := rfl
@[simp] theorem State.addSat_ports (f : Fld) (n : Nat) : (s.addSat f n).ports = s.ports := rfl
@[simp] theorem State.addSat_lanes (f : Fld) (n : Nat) : (s.addSat f n).lanes = s.lanes := rfl
@[simp] theorem State.addSat_links (f : Fld) (n : Nat) : (s.addSat f n).links = s.links := rfl
@[simp] theorem State.addSat_jn (f : Fld) (n : Nat) : (s.addSat f n).jn = s.jn := rfl
@[simp] theorem State.addSat_imp (f : Fld) (n : Nat) : (s.addSat f n).imp = s.imp := rfl
@[simp] theorem State.addSat_pace (f : Fld) (n : Nat) : (s.addSat f n).pace = s.pace := rfl
@[simp] theorem State.addSat_eng (f : Fld) (n : Nat) : (s.addSat f n).eng = s.eng := rfl
@[simp] theorem State.addSat_tm (f : Fld) (n : Nat) : (s.addSat f n).tm = s.tm := rfl
@[simp] theorem State.addSat_svc (f : Fld) (n : Nat) : (s.addSat f n).svc = s.svc := rfl
@[simp] theorem State.addSat_rs (f : Fld) (n : Nat) : (s.addSat f n).rs = s.rs := rfl
@[simp] theorem State.addSat_fc (f : Fld) (n : Nat) : (s.addSat f n).fc = s.fc := rfl
@[simp] theorem State.addSat_display (f : Fld) (n : Nat) : (s.addSat f n).display = s.display := rfl
@[simp] theorem State.addSat_px (f : Fld) (n : Nat) : (s.addSat f n).px = s.px := rfl
@[simp] theorem State.addSat_eth (f : Fld) (n : Nat) : (s.addSat f n).eth = s.eth := rfl
@[simp] theorem State.addSat_lb (f : Fld) (n : Nat) : (s.addSat f n).lb = s.lb := rfl
@[simp] theorem State.addSat_pw (f : Fld) (n : Nat) : (s.addSat f n).pw = s.pw := rfl
@[simp] theorem State.addSat_dk (f : Fld) (n : Nat) : (s.addSat f n).dk = s.dk := rfl
@[simp] theorem State.addSat_tap (f : Fld) (n : Nat) : (s.addSat f n).tap = s.tap := rfl
@[simp] theorem State.addSat_mg (f : Fld) (n : Nat) : (s.addSat f n).mg = s.mg := rfl
@[simp] theorem State.addSat_out (f : Fld) (n : Nat) : (s.addSat f n).out = s.out := rfl
@[simp] theorem State.addSat_freeCtr (f : Fld) (n : Nat) : (s.addSat f n).freeCtr = s.freeCtr := rfl
@[simp] theorem State.addSat_pending (f : Fld) (n : Nat) : (s.addSat f n).pending = s.pending := rfl
@[simp] theorem State.addSat_engine (f : Fld) (n : Nat) (x : Nat) : (s.addSat f n).engine x = s.engine x := rfl

/-! ### inc -/

@[simp] theorem State.inc_shadow (f : Fld) : (s.inc f).shadow = s.shadow := rfl
@[simp] theorem State.inc_caseMem (f : Fld) : (s.inc f).caseMem = s.caseMem := rfl
@[simp] theorem State.inc_engSram (f : Fld) : (s.inc f).engSram = s.engSram := rfl
@[simp] theorem State.inc_engBank (f : Fld) : (s.inc f).engBank = s.engBank := rfl
@[simp] theorem State.inc_galley (f : Fld) : (s.inc f).galley = s.galley := rfl
@[simp] theorem State.inc_pimage (f : Fld) : (s.inc f).pimage = s.pimage := rfl
@[simp] theorem State.inc_flash (f : Fld) : (s.inc f).flash = s.flash := rfl
@[simp] theorem State.inc_elog (f : Fld) : (s.inc f).elog = s.elog := rfl
@[simp] theorem State.inc_ports (f : Fld) : (s.inc f).ports = s.ports := rfl
@[simp] theorem State.inc_lanes (f : Fld) : (s.inc f).lanes = s.lanes := rfl
@[simp] theorem State.inc_links (f : Fld) : (s.inc f).links = s.links := rfl
@[simp] theorem State.inc_jn (f : Fld) : (s.inc f).jn = s.jn := rfl
@[simp] theorem State.inc_imp (f : Fld) : (s.inc f).imp = s.imp := rfl
@[simp] theorem State.inc_pace (f : Fld) : (s.inc f).pace = s.pace := rfl
@[simp] theorem State.inc_eng (f : Fld) : (s.inc f).eng = s.eng := rfl
@[simp] theorem State.inc_tm (f : Fld) : (s.inc f).tm = s.tm := rfl
@[simp] theorem State.inc_svc (f : Fld) : (s.inc f).svc = s.svc := rfl
@[simp] theorem State.inc_rs (f : Fld) : (s.inc f).rs = s.rs := rfl
@[simp] theorem State.inc_fc (f : Fld) : (s.inc f).fc = s.fc := rfl
@[simp] theorem State.inc_display (f : Fld) : (s.inc f).display = s.display := rfl
@[simp] theorem State.inc_px (f : Fld) : (s.inc f).px = s.px := rfl
@[simp] theorem State.inc_eth (f : Fld) : (s.inc f).eth = s.eth := rfl
@[simp] theorem State.inc_lb (f : Fld) : (s.inc f).lb = s.lb := rfl
@[simp] theorem State.inc_pw (f : Fld) : (s.inc f).pw = s.pw := rfl
@[simp] theorem State.inc_dk (f : Fld) : (s.inc f).dk = s.dk := rfl
@[simp] theorem State.inc_tap (f : Fld) : (s.inc f).tap = s.tap := rfl
@[simp] theorem State.inc_mg (f : Fld) : (s.inc f).mg = s.mg := rfl
@[simp] theorem State.inc_out (f : Fld) : (s.inc f).out = s.out := rfl
@[simp] theorem State.inc_freeCtr (f : Fld) : (s.inc f).freeCtr = s.freeCtr := rfl
@[simp] theorem State.inc_pending (f : Fld) : (s.inc f).pending = s.pending := rfl
@[simp] theorem State.inc_engine (f : Fld) (x : Nat) : (s.inc f).engine x = s.engine x := rfl

/-! ### setShadow -/

@[simp] theorem State.setShadow_regs (a : Nat) (w : Word) : (s.setShadow a w).regs = s.regs := rfl
@[simp] theorem State.setShadow_caseMem (a : Nat) (w : Word) : (s.setShadow a w).caseMem = s.caseMem := rfl
@[simp] theorem State.setShadow_engSram (a : Nat) (w : Word) : (s.setShadow a w).engSram = s.engSram := rfl
@[simp] theorem State.setShadow_engBank (a : Nat) (w : Word) : (s.setShadow a w).engBank = s.engBank := rfl
@[simp] theorem State.setShadow_galley (a : Nat) (w : Word) : (s.setShadow a w).galley = s.galley := rfl
@[simp] theorem State.setShadow_pimage (a : Nat) (w : Word) : (s.setShadow a w).pimage = s.pimage := rfl
@[simp] theorem State.setShadow_flash (a : Nat) (w : Word) : (s.setShadow a w).flash = s.flash := rfl
@[simp] theorem State.setShadow_elog (a : Nat) (w : Word) : (s.setShadow a w).elog = s.elog := rfl
@[simp] theorem State.setShadow_ports (a : Nat) (w : Word) : (s.setShadow a w).ports = s.ports := rfl
@[simp] theorem State.setShadow_lanes (a : Nat) (w : Word) : (s.setShadow a w).lanes = s.lanes := rfl
@[simp] theorem State.setShadow_links (a : Nat) (w : Word) : (s.setShadow a w).links = s.links := rfl
@[simp] theorem State.setShadow_jn (a : Nat) (w : Word) : (s.setShadow a w).jn = s.jn := rfl
@[simp] theorem State.setShadow_imp (a : Nat) (w : Word) : (s.setShadow a w).imp = s.imp := rfl
@[simp] theorem State.setShadow_pace (a : Nat) (w : Word) : (s.setShadow a w).pace = s.pace := rfl
@[simp] theorem State.setShadow_eng (a : Nat) (w : Word) : (s.setShadow a w).eng = s.eng := rfl
@[simp] theorem State.setShadow_tm (a : Nat) (w : Word) : (s.setShadow a w).tm = s.tm := rfl
@[simp] theorem State.setShadow_svc (a : Nat) (w : Word) : (s.setShadow a w).svc = s.svc := rfl
@[simp] theorem State.setShadow_rs (a : Nat) (w : Word) : (s.setShadow a w).rs = s.rs := rfl
@[simp] theorem State.setShadow_fc (a : Nat) (w : Word) : (s.setShadow a w).fc = s.fc := rfl
@[simp] theorem State.setShadow_display (a : Nat) (w : Word) : (s.setShadow a w).display = s.display := rfl
@[simp] theorem State.setShadow_px (a : Nat) (w : Word) : (s.setShadow a w).px = s.px := rfl
@[simp] theorem State.setShadow_eth (a : Nat) (w : Word) : (s.setShadow a w).eth = s.eth := rfl
@[simp] theorem State.setShadow_lb (a : Nat) (w : Word) : (s.setShadow a w).lb = s.lb := rfl
@[simp] theorem State.setShadow_pw (a : Nat) (w : Word) : (s.setShadow a w).pw = s.pw := rfl
@[simp] theorem State.setShadow_dk (a : Nat) (w : Word) : (s.setShadow a w).dk = s.dk := rfl
@[simp] theorem State.setShadow_tap (a : Nat) (w : Word) : (s.setShadow a w).tap = s.tap := rfl
@[simp] theorem State.setShadow_mg (a : Nat) (w : Word) : (s.setShadow a w).mg = s.mg := rfl
@[simp] theorem State.setShadow_out (a : Nat) (w : Word) : (s.setShadow a w).out = s.out := rfl
@[simp] theorem State.setShadow_freeCtr (a : Nat) (w : Word) : (s.setShadow a w).freeCtr = s.freeCtr := rfl
@[simp] theorem State.setShadow_pending (a : Nat) (w : Word) : (s.setShadow a w).pending = s.pending := rfl
@[simp] theorem State.setShadow_reg (a : Nat) (w : Word) (x : Nat) : (s.setShadow a w).reg x = s.reg x := rfl
@[simp] theorem State.setShadow_get (a : Nat) (w : Word) (x : Fld) : (s.setShadow a w).get x = s.get x := rfl
@[simp] theorem State.setShadow_on (a : Nat) (w : Word) (x : Fld) : (s.setShadow a w).on x = s.on x := rfl
@[simp] theorem State.setShadow_engine (a : Nat) (w : Word) (x : Nat) : (s.setShadow a w).engine x = s.engine x := rfl

/-! ### putShadow -/

@[simp] theorem State.putShadow_regs (f : Fld) (v : Nat) : (s.putShadow f v).regs = s.regs := rfl
@[simp] theorem State.putShadow_caseMem (f : Fld) (v : Nat) : (s.putShadow f v).caseMem = s.caseMem := rfl
@[simp] theorem State.putShadow_engSram (f : Fld) (v : Nat) : (s.putShadow f v).engSram = s.engSram := rfl
@[simp] theorem State.putShadow_engBank (f : Fld) (v : Nat) : (s.putShadow f v).engBank = s.engBank := rfl
@[simp] theorem State.putShadow_galley (f : Fld) (v : Nat) : (s.putShadow f v).galley = s.galley := rfl
@[simp] theorem State.putShadow_pimage (f : Fld) (v : Nat) : (s.putShadow f v).pimage = s.pimage := rfl
@[simp] theorem State.putShadow_flash (f : Fld) (v : Nat) : (s.putShadow f v).flash = s.flash := rfl
@[simp] theorem State.putShadow_elog (f : Fld) (v : Nat) : (s.putShadow f v).elog = s.elog := rfl
@[simp] theorem State.putShadow_ports (f : Fld) (v : Nat) : (s.putShadow f v).ports = s.ports := rfl
@[simp] theorem State.putShadow_lanes (f : Fld) (v : Nat) : (s.putShadow f v).lanes = s.lanes := rfl
@[simp] theorem State.putShadow_links (f : Fld) (v : Nat) : (s.putShadow f v).links = s.links := rfl
@[simp] theorem State.putShadow_jn (f : Fld) (v : Nat) : (s.putShadow f v).jn = s.jn := rfl
@[simp] theorem State.putShadow_imp (f : Fld) (v : Nat) : (s.putShadow f v).imp = s.imp := rfl
@[simp] theorem State.putShadow_pace (f : Fld) (v : Nat) : (s.putShadow f v).pace = s.pace := rfl
@[simp] theorem State.putShadow_eng (f : Fld) (v : Nat) : (s.putShadow f v).eng = s.eng := rfl
@[simp] theorem State.putShadow_tm (f : Fld) (v : Nat) : (s.putShadow f v).tm = s.tm := rfl
@[simp] theorem State.putShadow_svc (f : Fld) (v : Nat) : (s.putShadow f v).svc = s.svc := rfl
@[simp] theorem State.putShadow_rs (f : Fld) (v : Nat) : (s.putShadow f v).rs = s.rs := rfl
@[simp] theorem State.putShadow_fc (f : Fld) (v : Nat) : (s.putShadow f v).fc = s.fc := rfl
@[simp] theorem State.putShadow_display (f : Fld) (v : Nat) : (s.putShadow f v).display = s.display := rfl
@[simp] theorem State.putShadow_px (f : Fld) (v : Nat) : (s.putShadow f v).px = s.px := rfl
@[simp] theorem State.putShadow_eth (f : Fld) (v : Nat) : (s.putShadow f v).eth = s.eth := rfl
@[simp] theorem State.putShadow_lb (f : Fld) (v : Nat) : (s.putShadow f v).lb = s.lb := rfl
@[simp] theorem State.putShadow_pw (f : Fld) (v : Nat) : (s.putShadow f v).pw = s.pw := rfl
@[simp] theorem State.putShadow_dk (f : Fld) (v : Nat) : (s.putShadow f v).dk = s.dk := rfl
@[simp] theorem State.putShadow_tap (f : Fld) (v : Nat) : (s.putShadow f v).tap = s.tap := rfl
@[simp] theorem State.putShadow_mg (f : Fld) (v : Nat) : (s.putShadow f v).mg = s.mg := rfl
@[simp] theorem State.putShadow_out (f : Fld) (v : Nat) : (s.putShadow f v).out = s.out := rfl
@[simp] theorem State.putShadow_freeCtr (f : Fld) (v : Nat) : (s.putShadow f v).freeCtr = s.freeCtr := rfl
@[simp] theorem State.putShadow_pending (f : Fld) (v : Nat) : (s.putShadow f v).pending = s.pending := rfl
@[simp] theorem State.putShadow_reg (f : Fld) (v : Nat) (x : Nat) : (s.putShadow f v).reg x = s.reg x := rfl
@[simp] theorem State.putShadow_get (f : Fld) (v : Nat) (x : Fld) : (s.putShadow f v).get x = s.get x := rfl
@[simp] theorem State.putShadow_on (f : Fld) (v : Nat) (x : Fld) : (s.putShadow f v).on x = s.on x := rfl
@[simp] theorem State.putShadow_engine (f : Fld) (v : Nat) (x : Nat) : (s.putShadow f v).engine x = s.engine x := rfl

/-! ### setPort -/

@[simp] theorem State.setPort_regs (p : Nat) (g : SpinePort → SpinePort) : (s.setPort p g).regs = s.regs := rfl
@[simp] theorem State.setPort_shadow (p : Nat) (g : SpinePort → SpinePort) : (s.setPort p g).shadow = s.shadow := rfl
@[simp] theorem State.setPort_caseMem (p : Nat) (g : SpinePort → SpinePort) : (s.setPort p g).caseMem = s.caseMem := rfl
@[simp] theorem State.setPort_engSram (p : Nat) (g : SpinePort → SpinePort) : (s.setPort p g).engSram = s.engSram := rfl
@[simp] theorem State.setPort_engBank (p : Nat) (g : SpinePort → SpinePort) : (s.setPort p g).engBank = s.engBank := rfl
@[simp] theorem State.setPort_galley (p : Nat) (g : SpinePort → SpinePort) : (s.setPort p g).galley = s.galley := rfl
@[simp] theorem State.setPort_pimage (p : Nat) (g : SpinePort → SpinePort) : (s.setPort p g).pimage = s.pimage := rfl
@[simp] theorem State.setPort_flash (p : Nat) (g : SpinePort → SpinePort) : (s.setPort p g).flash = s.flash := rfl
@[simp] theorem State.setPort_elog (p : Nat) (g : SpinePort → SpinePort) : (s.setPort p g).elog = s.elog := rfl
@[simp] theorem State.setPort_lanes (p : Nat) (g : SpinePort → SpinePort) : (s.setPort p g).lanes = s.lanes := rfl
@[simp] theorem State.setPort_links (p : Nat) (g : SpinePort → SpinePort) : (s.setPort p g).links = s.links := rfl
@[simp] theorem State.setPort_jn (p : Nat) (g : SpinePort → SpinePort) : (s.setPort p g).jn = s.jn := rfl
@[simp] theorem State.setPort_imp (p : Nat) (g : SpinePort → SpinePort) : (s.setPort p g).imp = s.imp := rfl
@[simp] theorem State.setPort_pace (p : Nat) (g : SpinePort → SpinePort) : (s.setPort p g).pace = s.pace := rfl
@[simp] theorem State.setPort_eng (p : Nat) (g : SpinePort → SpinePort) : (s.setPort p g).eng = s.eng := rfl
@[simp] theorem State.setPort_tm (p : Nat) (g : SpinePort → SpinePort) : (s.setPort p g).tm = s.tm := rfl
@[simp] theorem State.setPort_svc (p : Nat) (g : SpinePort → SpinePort) : (s.setPort p g).svc = s.svc := rfl
@[simp] theorem State.setPort_rs (p : Nat) (g : SpinePort → SpinePort) : (s.setPort p g).rs = s.rs := rfl
@[simp] theorem State.setPort_fc (p : Nat) (g : SpinePort → SpinePort) : (s.setPort p g).fc = s.fc := rfl
@[simp] theorem State.setPort_display (p : Nat) (g : SpinePort → SpinePort) : (s.setPort p g).display = s.display := rfl
@[simp] theorem State.setPort_px (p : Nat) (g : SpinePort → SpinePort) : (s.setPort p g).px = s.px := rfl
@[simp] theorem State.setPort_eth (p : Nat) (g : SpinePort → SpinePort) : (s.setPort p g).eth = s.eth := rfl
@[simp] theorem State.setPort_lb (p : Nat) (g : SpinePort → SpinePort) : (s.setPort p g).lb = s.lb := rfl
@[simp] theorem State.setPort_pw (p : Nat) (g : SpinePort → SpinePort) : (s.setPort p g).pw = s.pw := rfl
@[simp] theorem State.setPort_dk (p : Nat) (g : SpinePort → SpinePort) : (s.setPort p g).dk = s.dk := rfl
@[simp] theorem State.setPort_tap (p : Nat) (g : SpinePort → SpinePort) : (s.setPort p g).tap = s.tap := rfl
@[simp] theorem State.setPort_mg (p : Nat) (g : SpinePort → SpinePort) : (s.setPort p g).mg = s.mg := rfl
@[simp] theorem State.setPort_out (p : Nat) (g : SpinePort → SpinePort) : (s.setPort p g).out = s.out := rfl
@[simp] theorem State.setPort_freeCtr (p : Nat) (g : SpinePort → SpinePort) : (s.setPort p g).freeCtr = s.freeCtr := rfl
@[simp] theorem State.setPort_pending (p : Nat) (g : SpinePort → SpinePort) : (s.setPort p g).pending = s.pending := rfl
@[simp] theorem State.setPort_reg (p : Nat) (g : SpinePort → SpinePort) (x : Nat) : (s.setPort p g).reg x = s.reg x := rfl
@[simp] theorem State.setPort_get (p : Nat) (g : SpinePort → SpinePort) (x : Fld) : (s.setPort p g).get x = s.get x := rfl
@[simp] theorem State.setPort_on (p : Nat) (g : SpinePort → SpinePort) (x : Fld) : (s.setPort p g).on x = s.on x := rfl
@[simp] theorem State.setPort_engine (p : Nat) (g : SpinePort → SpinePort) (x : Nat) : (s.setPort p g).engine x = s.engine x := rfl

/-! ### setLane -/

@[simp] theorem State.setLane_regs (p k : Nat) (g : Lane → Lane) : (s.setLane p k g).regs = s.regs := rfl
@[simp] theorem State.setLane_shadow (p k : Nat) (g : Lane → Lane) : (s.setLane p k g).shadow = s.shadow := rfl
@[simp] theorem State.setLane_caseMem (p k : Nat) (g : Lane → Lane) : (s.setLane p k g).caseMem = s.caseMem := rfl
@[simp] theorem State.setLane_engSram (p k : Nat) (g : Lane → Lane) : (s.setLane p k g).engSram = s.engSram := rfl
@[simp] theorem State.setLane_engBank (p k : Nat) (g : Lane → Lane) : (s.setLane p k g).engBank = s.engBank := rfl
@[simp] theorem State.setLane_galley (p k : Nat) (g : Lane → Lane) : (s.setLane p k g).galley = s.galley := rfl
@[simp] theorem State.setLane_pimage (p k : Nat) (g : Lane → Lane) : (s.setLane p k g).pimage = s.pimage := rfl
@[simp] theorem State.setLane_flash (p k : Nat) (g : Lane → Lane) : (s.setLane p k g).flash = s.flash := rfl
@[simp] theorem State.setLane_elog (p k : Nat) (g : Lane → Lane) : (s.setLane p k g).elog = s.elog := rfl
@[simp] theorem State.setLane_ports (p k : Nat) (g : Lane → Lane) : (s.setLane p k g).ports = s.ports := rfl
@[simp] theorem State.setLane_links (p k : Nat) (g : Lane → Lane) : (s.setLane p k g).links = s.links := rfl
@[simp] theorem State.setLane_jn (p k : Nat) (g : Lane → Lane) : (s.setLane p k g).jn = s.jn := rfl
@[simp] theorem State.setLane_imp (p k : Nat) (g : Lane → Lane) : (s.setLane p k g).imp = s.imp := rfl
@[simp] theorem State.setLane_pace (p k : Nat) (g : Lane → Lane) : (s.setLane p k g).pace = s.pace := rfl
@[simp] theorem State.setLane_eng (p k : Nat) (g : Lane → Lane) : (s.setLane p k g).eng = s.eng := rfl
@[simp] theorem State.setLane_tm (p k : Nat) (g : Lane → Lane) : (s.setLane p k g).tm = s.tm := rfl
@[simp] theorem State.setLane_svc (p k : Nat) (g : Lane → Lane) : (s.setLane p k g).svc = s.svc := rfl
@[simp] theorem State.setLane_rs (p k : Nat) (g : Lane → Lane) : (s.setLane p k g).rs = s.rs := rfl
@[simp] theorem State.setLane_fc (p k : Nat) (g : Lane → Lane) : (s.setLane p k g).fc = s.fc := rfl
@[simp] theorem State.setLane_display (p k : Nat) (g : Lane → Lane) : (s.setLane p k g).display = s.display := rfl
@[simp] theorem State.setLane_px (p k : Nat) (g : Lane → Lane) : (s.setLane p k g).px = s.px := rfl
@[simp] theorem State.setLane_eth (p k : Nat) (g : Lane → Lane) : (s.setLane p k g).eth = s.eth := rfl
@[simp] theorem State.setLane_lb (p k : Nat) (g : Lane → Lane) : (s.setLane p k g).lb = s.lb := rfl
@[simp] theorem State.setLane_pw (p k : Nat) (g : Lane → Lane) : (s.setLane p k g).pw = s.pw := rfl
@[simp] theorem State.setLane_dk (p k : Nat) (g : Lane → Lane) : (s.setLane p k g).dk = s.dk := rfl
@[simp] theorem State.setLane_tap (p k : Nat) (g : Lane → Lane) : (s.setLane p k g).tap = s.tap := rfl
@[simp] theorem State.setLane_mg (p k : Nat) (g : Lane → Lane) : (s.setLane p k g).mg = s.mg := rfl
@[simp] theorem State.setLane_out (p k : Nat) (g : Lane → Lane) : (s.setLane p k g).out = s.out := rfl
@[simp] theorem State.setLane_freeCtr (p k : Nat) (g : Lane → Lane) : (s.setLane p k g).freeCtr = s.freeCtr := rfl
@[simp] theorem State.setLane_pending (p k : Nat) (g : Lane → Lane) : (s.setLane p k g).pending = s.pending := rfl
@[simp] theorem State.setLane_reg (p k : Nat) (g : Lane → Lane) (x : Nat) : (s.setLane p k g).reg x = s.reg x := rfl
@[simp] theorem State.setLane_get (p k : Nat) (g : Lane → Lane) (x : Fld) : (s.setLane p k g).get x = s.get x := rfl
@[simp] theorem State.setLane_on (p k : Nat) (g : Lane → Lane) (x : Fld) : (s.setLane p k g).on x = s.on x := rfl
@[simp] theorem State.setLane_engine (p k : Nat) (g : Lane → Lane) (x : Nat) : (s.setLane p k g).engine x = s.engine x := rfl

/-! ### setLink -/

@[simp] theorem State.setLink_regs (p : Nat) (g : Link → Link) : (s.setLink p g).regs = s.regs := rfl
@[simp] theorem State.setLink_shadow (p : Nat) (g : Link → Link) : (s.setLink p g).shadow = s.shadow := rfl
@[simp] theorem State.setLink_caseMem (p : Nat) (g : Link → Link) : (s.setLink p g).caseMem = s.caseMem := rfl
@[simp] theorem State.setLink_engSram (p : Nat) (g : Link → Link) : (s.setLink p g).engSram = s.engSram := rfl
@[simp] theorem State.setLink_engBank (p : Nat) (g : Link → Link) : (s.setLink p g).engBank = s.engBank := rfl
@[simp] theorem State.setLink_galley (p : Nat) (g : Link → Link) : (s.setLink p g).galley = s.galley := rfl
@[simp] theorem State.setLink_pimage (p : Nat) (g : Link → Link) : (s.setLink p g).pimage = s.pimage := rfl
@[simp] theorem State.setLink_flash (p : Nat) (g : Link → Link) : (s.setLink p g).flash = s.flash := rfl
@[simp] theorem State.setLink_elog (p : Nat) (g : Link → Link) : (s.setLink p g).elog = s.elog := rfl
@[simp] theorem State.setLink_ports (p : Nat) (g : Link → Link) : (s.setLink p g).ports = s.ports := rfl
@[simp] theorem State.setLink_lanes (p : Nat) (g : Link → Link) : (s.setLink p g).lanes = s.lanes := rfl
@[simp] theorem State.setLink_jn (p : Nat) (g : Link → Link) : (s.setLink p g).jn = s.jn := rfl
@[simp] theorem State.setLink_imp (p : Nat) (g : Link → Link) : (s.setLink p g).imp = s.imp := rfl
@[simp] theorem State.setLink_pace (p : Nat) (g : Link → Link) : (s.setLink p g).pace = s.pace := rfl
@[simp] theorem State.setLink_eng (p : Nat) (g : Link → Link) : (s.setLink p g).eng = s.eng := rfl
@[simp] theorem State.setLink_tm (p : Nat) (g : Link → Link) : (s.setLink p g).tm = s.tm := rfl
@[simp] theorem State.setLink_svc (p : Nat) (g : Link → Link) : (s.setLink p g).svc = s.svc := rfl
@[simp] theorem State.setLink_rs (p : Nat) (g : Link → Link) : (s.setLink p g).rs = s.rs := rfl
@[simp] theorem State.setLink_fc (p : Nat) (g : Link → Link) : (s.setLink p g).fc = s.fc := rfl
@[simp] theorem State.setLink_display (p : Nat) (g : Link → Link) : (s.setLink p g).display = s.display := rfl
@[simp] theorem State.setLink_px (p : Nat) (g : Link → Link) : (s.setLink p g).px = s.px := rfl
@[simp] theorem State.setLink_eth (p : Nat) (g : Link → Link) : (s.setLink p g).eth = s.eth := rfl
@[simp] theorem State.setLink_lb (p : Nat) (g : Link → Link) : (s.setLink p g).lb = s.lb := rfl
@[simp] theorem State.setLink_pw (p : Nat) (g : Link → Link) : (s.setLink p g).pw = s.pw := rfl
@[simp] theorem State.setLink_dk (p : Nat) (g : Link → Link) : (s.setLink p g).dk = s.dk := rfl
@[simp] theorem State.setLink_tap (p : Nat) (g : Link → Link) : (s.setLink p g).tap = s.tap := rfl
@[simp] theorem State.setLink_mg (p : Nat) (g : Link → Link) : (s.setLink p g).mg = s.mg := rfl
@[simp] theorem State.setLink_out (p : Nat) (g : Link → Link) : (s.setLink p g).out = s.out := rfl
@[simp] theorem State.setLink_freeCtr (p : Nat) (g : Link → Link) : (s.setLink p g).freeCtr = s.freeCtr := rfl
@[simp] theorem State.setLink_pending (p : Nat) (g : Link → Link) : (s.setLink p g).pending = s.pending := rfl
@[simp] theorem State.setLink_reg (p : Nat) (g : Link → Link) (x : Nat) : (s.setLink p g).reg x = s.reg x := rfl
@[simp] theorem State.setLink_get (p : Nat) (g : Link → Link) (x : Fld) : (s.setLink p g).get x = s.get x := rfl
@[simp] theorem State.setLink_on (p : Nat) (g : Link → Link) (x : Fld) : (s.setLink p g).on x = s.on x := rfl
@[simp] theorem State.setLink_engine (p : Nat) (g : Link → Link) (x : Nat) : (s.setLink p g).engine x = s.engine x := rfl

/-! ### setEngine -/

@[simp] theorem State.setEngine_regs (n : Nat) (g : Engine → Engine) : (s.setEngine n g).regs = s.regs := rfl
@[simp] theorem State.setEngine_shadow (n : Nat) (g : Engine → Engine) : (s.setEngine n g).shadow = s.shadow := rfl
@[simp] theorem State.setEngine_caseMem (n : Nat) (g : Engine → Engine) : (s.setEngine n g).caseMem = s.caseMem := rfl
@[simp] theorem State.setEngine_engSram (n : Nat) (g : Engine → Engine) : (s.setEngine n g).engSram = s.engSram := rfl
@[simp] theorem State.setEngine_engBank (n : Nat) (g : Engine → Engine) : (s.setEngine n g).engBank = s.engBank := rfl
@[simp] theorem State.setEngine_galley (n : Nat) (g : Engine → Engine) : (s.setEngine n g).galley = s.galley := rfl
@[simp] theorem State.setEngine_pimage (n : Nat) (g : Engine → Engine) : (s.setEngine n g).pimage = s.pimage := rfl
@[simp] theorem State.setEngine_flash (n : Nat) (g : Engine → Engine) : (s.setEngine n g).flash = s.flash := rfl
@[simp] theorem State.setEngine_elog (n : Nat) (g : Engine → Engine) : (s.setEngine n g).elog = s.elog := rfl
@[simp] theorem State.setEngine_ports (n : Nat) (g : Engine → Engine) : (s.setEngine n g).ports = s.ports := rfl
@[simp] theorem State.setEngine_lanes (n : Nat) (g : Engine → Engine) : (s.setEngine n g).lanes = s.lanes := rfl
@[simp] theorem State.setEngine_links (n : Nat) (g : Engine → Engine) : (s.setEngine n g).links = s.links := rfl
@[simp] theorem State.setEngine_jn (n : Nat) (g : Engine → Engine) : (s.setEngine n g).jn = s.jn := rfl
@[simp] theorem State.setEngine_imp (n : Nat) (g : Engine → Engine) : (s.setEngine n g).imp = s.imp := rfl
@[simp] theorem State.setEngine_pace (n : Nat) (g : Engine → Engine) : (s.setEngine n g).pace = s.pace := rfl
@[simp] theorem State.setEngine_tm (n : Nat) (g : Engine → Engine) : (s.setEngine n g).tm = s.tm := rfl
@[simp] theorem State.setEngine_svc (n : Nat) (g : Engine → Engine) : (s.setEngine n g).svc = s.svc := rfl
@[simp] theorem State.setEngine_rs (n : Nat) (g : Engine → Engine) : (s.setEngine n g).rs = s.rs := rfl
@[simp] theorem State.setEngine_fc (n : Nat) (g : Engine → Engine) : (s.setEngine n g).fc = s.fc := rfl
@[simp] theorem State.setEngine_display (n : Nat) (g : Engine → Engine) : (s.setEngine n g).display = s.display := rfl
@[simp] theorem State.setEngine_px (n : Nat) (g : Engine → Engine) : (s.setEngine n g).px = s.px := rfl
@[simp] theorem State.setEngine_eth (n : Nat) (g : Engine → Engine) : (s.setEngine n g).eth = s.eth := rfl
@[simp] theorem State.setEngine_lb (n : Nat) (g : Engine → Engine) : (s.setEngine n g).lb = s.lb := rfl
@[simp] theorem State.setEngine_pw (n : Nat) (g : Engine → Engine) : (s.setEngine n g).pw = s.pw := rfl
@[simp] theorem State.setEngine_dk (n : Nat) (g : Engine → Engine) : (s.setEngine n g).dk = s.dk := rfl
@[simp] theorem State.setEngine_tap (n : Nat) (g : Engine → Engine) : (s.setEngine n g).tap = s.tap := rfl
@[simp] theorem State.setEngine_mg (n : Nat) (g : Engine → Engine) : (s.setEngine n g).mg = s.mg := rfl
@[simp] theorem State.setEngine_out (n : Nat) (g : Engine → Engine) : (s.setEngine n g).out = s.out := rfl
@[simp] theorem State.setEngine_freeCtr (n : Nat) (g : Engine → Engine) : (s.setEngine n g).freeCtr = s.freeCtr := rfl
@[simp] theorem State.setEngine_pending (n : Nat) (g : Engine → Engine) : (s.setEngine n g).pending = s.pending := rfl
@[simp] theorem State.setEngine_reg (n : Nat) (g : Engine → Engine) (x : Nat) : (s.setEngine n g).reg x = s.reg x := rfl
@[simp] theorem State.setEngine_get (n : Nat) (g : Engine → Engine) (x : Fld) : (s.setEngine n g).get x = s.get x := rfl
@[simp] theorem State.setEngine_on (n : Nat) (g : Engine → Engine) (x : Fld) : (s.setEngine n g).on x = s.on x := rfl

/-! ### setJn -/

@[simp] theorem State.setJn_regs (g : Junction → Junction) : (s.setJn g).regs = s.regs := rfl
@[simp] theorem State.setJn_shadow (g : Junction → Junction) : (s.setJn g).shadow = s.shadow := rfl
@[simp] theorem State.setJn_caseMem (g : Junction → Junction) : (s.setJn g).caseMem = s.caseMem := rfl
@[simp] theorem State.setJn_engSram (g : Junction → Junction) : (s.setJn g).engSram = s.engSram := rfl
@[simp] theorem State.setJn_engBank (g : Junction → Junction) : (s.setJn g).engBank = s.engBank := rfl
@[simp] theorem State.setJn_galley (g : Junction → Junction) : (s.setJn g).galley = s.galley := rfl
@[simp] theorem State.setJn_pimage (g : Junction → Junction) : (s.setJn g).pimage = s.pimage := rfl
@[simp] theorem State.setJn_flash (g : Junction → Junction) : (s.setJn g).flash = s.flash := rfl
@[simp] theorem State.setJn_elog (g : Junction → Junction) : (s.setJn g).elog = s.elog := rfl
@[simp] theorem State.setJn_ports (g : Junction → Junction) : (s.setJn g).ports = s.ports := rfl
@[simp] theorem State.setJn_lanes (g : Junction → Junction) : (s.setJn g).lanes = s.lanes := rfl
@[simp] theorem State.setJn_links (g : Junction → Junction) : (s.setJn g).links = s.links := rfl
@[simp] theorem State.setJn_imp (g : Junction → Junction) : (s.setJn g).imp = s.imp := rfl
@[simp] theorem State.setJn_pace (g : Junction → Junction) : (s.setJn g).pace = s.pace := rfl
@[simp] theorem State.setJn_eng (g : Junction → Junction) : (s.setJn g).eng = s.eng := rfl
@[simp] theorem State.setJn_tm (g : Junction → Junction) : (s.setJn g).tm = s.tm := rfl
@[simp] theorem State.setJn_svc (g : Junction → Junction) : (s.setJn g).svc = s.svc := rfl
@[simp] theorem State.setJn_rs (g : Junction → Junction) : (s.setJn g).rs = s.rs := rfl
@[simp] theorem State.setJn_fc (g : Junction → Junction) : (s.setJn g).fc = s.fc := rfl
@[simp] theorem State.setJn_display (g : Junction → Junction) : (s.setJn g).display = s.display := rfl
@[simp] theorem State.setJn_px (g : Junction → Junction) : (s.setJn g).px = s.px := rfl
@[simp] theorem State.setJn_eth (g : Junction → Junction) : (s.setJn g).eth = s.eth := rfl
@[simp] theorem State.setJn_lb (g : Junction → Junction) : (s.setJn g).lb = s.lb := rfl
@[simp] theorem State.setJn_pw (g : Junction → Junction) : (s.setJn g).pw = s.pw := rfl
@[simp] theorem State.setJn_dk (g : Junction → Junction) : (s.setJn g).dk = s.dk := rfl
@[simp] theorem State.setJn_tap (g : Junction → Junction) : (s.setJn g).tap = s.tap := rfl
@[simp] theorem State.setJn_mg (g : Junction → Junction) : (s.setJn g).mg = s.mg := rfl
@[simp] theorem State.setJn_out (g : Junction → Junction) : (s.setJn g).out = s.out := rfl
@[simp] theorem State.setJn_freeCtr (g : Junction → Junction) : (s.setJn g).freeCtr = s.freeCtr := rfl
@[simp] theorem State.setJn_pending (g : Junction → Junction) : (s.setJn g).pending = s.pending := rfl
@[simp] theorem State.setJn_reg (g : Junction → Junction) (x : Nat) : (s.setJn g).reg x = s.reg x := rfl
@[simp] theorem State.setJn_get (g : Junction → Junction) (x : Fld) : (s.setJn g).get x = s.get x := rfl
@[simp] theorem State.setJn_on (g : Junction → Junction) (x : Fld) : (s.setJn g).on x = s.on x := rfl
@[simp] theorem State.setJn_engine (g : Junction → Junction) (x : Nat) : (s.setJn g).engine x = s.engine x := rfl

/-! ### setImp -/

@[simp] theorem State.setImp_regs (g : Imposition → Imposition) : (s.setImp g).regs = s.regs := rfl
@[simp] theorem State.setImp_shadow (g : Imposition → Imposition) : (s.setImp g).shadow = s.shadow := rfl
@[simp] theorem State.setImp_caseMem (g : Imposition → Imposition) : (s.setImp g).caseMem = s.caseMem := rfl
@[simp] theorem State.setImp_engSram (g : Imposition → Imposition) : (s.setImp g).engSram = s.engSram := rfl
@[simp] theorem State.setImp_engBank (g : Imposition → Imposition) : (s.setImp g).engBank = s.engBank := rfl
@[simp] theorem State.setImp_galley (g : Imposition → Imposition) : (s.setImp g).galley = s.galley := rfl
@[simp] theorem State.setImp_pimage (g : Imposition → Imposition) : (s.setImp g).pimage = s.pimage := rfl
@[simp] theorem State.setImp_flash (g : Imposition → Imposition) : (s.setImp g).flash = s.flash := rfl
@[simp] theorem State.setImp_elog (g : Imposition → Imposition) : (s.setImp g).elog = s.elog := rfl
@[simp] theorem State.setImp_ports (g : Imposition → Imposition) : (s.setImp g).ports = s.ports := rfl
@[simp] theorem State.setImp_lanes (g : Imposition → Imposition) : (s.setImp g).lanes = s.lanes := rfl
@[simp] theorem State.setImp_links (g : Imposition → Imposition) : (s.setImp g).links = s.links := rfl
@[simp] theorem State.setImp_jn (g : Imposition → Imposition) : (s.setImp g).jn = s.jn := rfl
@[simp] theorem State.setImp_pace (g : Imposition → Imposition) : (s.setImp g).pace = s.pace := rfl
@[simp] theorem State.setImp_eng (g : Imposition → Imposition) : (s.setImp g).eng = s.eng := rfl
@[simp] theorem State.setImp_tm (g : Imposition → Imposition) : (s.setImp g).tm = s.tm := rfl
@[simp] theorem State.setImp_svc (g : Imposition → Imposition) : (s.setImp g).svc = s.svc := rfl
@[simp] theorem State.setImp_rs (g : Imposition → Imposition) : (s.setImp g).rs = s.rs := rfl
@[simp] theorem State.setImp_fc (g : Imposition → Imposition) : (s.setImp g).fc = s.fc := rfl
@[simp] theorem State.setImp_display (g : Imposition → Imposition) : (s.setImp g).display = s.display := rfl
@[simp] theorem State.setImp_px (g : Imposition → Imposition) : (s.setImp g).px = s.px := rfl
@[simp] theorem State.setImp_eth (g : Imposition → Imposition) : (s.setImp g).eth = s.eth := rfl
@[simp] theorem State.setImp_lb (g : Imposition → Imposition) : (s.setImp g).lb = s.lb := rfl
@[simp] theorem State.setImp_pw (g : Imposition → Imposition) : (s.setImp g).pw = s.pw := rfl
@[simp] theorem State.setImp_dk (g : Imposition → Imposition) : (s.setImp g).dk = s.dk := rfl
@[simp] theorem State.setImp_tap (g : Imposition → Imposition) : (s.setImp g).tap = s.tap := rfl
@[simp] theorem State.setImp_mg (g : Imposition → Imposition) : (s.setImp g).mg = s.mg := rfl
@[simp] theorem State.setImp_out (g : Imposition → Imposition) : (s.setImp g).out = s.out := rfl
@[simp] theorem State.setImp_freeCtr (g : Imposition → Imposition) : (s.setImp g).freeCtr = s.freeCtr := rfl
@[simp] theorem State.setImp_pending (g : Imposition → Imposition) : (s.setImp g).pending = s.pending := rfl
@[simp] theorem State.setImp_reg (g : Imposition → Imposition) (x : Nat) : (s.setImp g).reg x = s.reg x := rfl
@[simp] theorem State.setImp_get (g : Imposition → Imposition) (x : Fld) : (s.setImp g).get x = s.get x := rfl
@[simp] theorem State.setImp_on (g : Imposition → Imposition) (x : Fld) : (s.setImp g).on x = s.on x := rfl
@[simp] theorem State.setImp_engine (g : Imposition → Imposition) (x : Nat) : (s.setImp g).engine x = s.engine x := rfl

/-! ### setPace -/

@[simp] theorem State.setPace_regs (g : Pace → Pace) : (s.setPace g).regs = s.regs := rfl
@[simp] theorem State.setPace_shadow (g : Pace → Pace) : (s.setPace g).shadow = s.shadow := rfl
@[simp] theorem State.setPace_caseMem (g : Pace → Pace) : (s.setPace g).caseMem = s.caseMem := rfl
@[simp] theorem State.setPace_engSram (g : Pace → Pace) : (s.setPace g).engSram = s.engSram := rfl
@[simp] theorem State.setPace_engBank (g : Pace → Pace) : (s.setPace g).engBank = s.engBank := rfl
@[simp] theorem State.setPace_galley (g : Pace → Pace) : (s.setPace g).galley = s.galley := rfl
@[simp] theorem State.setPace_pimage (g : Pace → Pace) : (s.setPace g).pimage = s.pimage := rfl
@[simp] theorem State.setPace_flash (g : Pace → Pace) : (s.setPace g).flash = s.flash := rfl
@[simp] theorem State.setPace_elog (g : Pace → Pace) : (s.setPace g).elog = s.elog := rfl
@[simp] theorem State.setPace_ports (g : Pace → Pace) : (s.setPace g).ports = s.ports := rfl
@[simp] theorem State.setPace_lanes (g : Pace → Pace) : (s.setPace g).lanes = s.lanes := rfl
@[simp] theorem State.setPace_links (g : Pace → Pace) : (s.setPace g).links = s.links := rfl
@[simp] theorem State.setPace_jn (g : Pace → Pace) : (s.setPace g).jn = s.jn := rfl
@[simp] theorem State.setPace_imp (g : Pace → Pace) : (s.setPace g).imp = s.imp := rfl
@[simp] theorem State.setPace_eng (g : Pace → Pace) : (s.setPace g).eng = s.eng := rfl
@[simp] theorem State.setPace_tm (g : Pace → Pace) : (s.setPace g).tm = s.tm := rfl
@[simp] theorem State.setPace_svc (g : Pace → Pace) : (s.setPace g).svc = s.svc := rfl
@[simp] theorem State.setPace_rs (g : Pace → Pace) : (s.setPace g).rs = s.rs := rfl
@[simp] theorem State.setPace_fc (g : Pace → Pace) : (s.setPace g).fc = s.fc := rfl
@[simp] theorem State.setPace_display (g : Pace → Pace) : (s.setPace g).display = s.display := rfl
@[simp] theorem State.setPace_px (g : Pace → Pace) : (s.setPace g).px = s.px := rfl
@[simp] theorem State.setPace_eth (g : Pace → Pace) : (s.setPace g).eth = s.eth := rfl
@[simp] theorem State.setPace_lb (g : Pace → Pace) : (s.setPace g).lb = s.lb := rfl
@[simp] theorem State.setPace_pw (g : Pace → Pace) : (s.setPace g).pw = s.pw := rfl
@[simp] theorem State.setPace_dk (g : Pace → Pace) : (s.setPace g).dk = s.dk := rfl
@[simp] theorem State.setPace_tap (g : Pace → Pace) : (s.setPace g).tap = s.tap := rfl
@[simp] theorem State.setPace_mg (g : Pace → Pace) : (s.setPace g).mg = s.mg := rfl
@[simp] theorem State.setPace_out (g : Pace → Pace) : (s.setPace g).out = s.out := rfl
@[simp] theorem State.setPace_freeCtr (g : Pace → Pace) : (s.setPace g).freeCtr = s.freeCtr := rfl
@[simp] theorem State.setPace_pending (g : Pace → Pace) : (s.setPace g).pending = s.pending := rfl
@[simp] theorem State.setPace_reg (g : Pace → Pace) (x : Nat) : (s.setPace g).reg x = s.reg x := rfl
@[simp] theorem State.setPace_get (g : Pace → Pace) (x : Fld) : (s.setPace g).get x = s.get x := rfl
@[simp] theorem State.setPace_on (g : Pace → Pace) (x : Fld) : (s.setPace g).on x = s.on x := rfl
@[simp] theorem State.setPace_engine (g : Pace → Pace) (x : Nat) : (s.setPace g).engine x = s.engine x := rfl

/-! ### setTm -/

@[simp] theorem State.setTm_regs (g : TimeUnit → TimeUnit) : (s.setTm g).regs = s.regs := rfl
@[simp] theorem State.setTm_shadow (g : TimeUnit → TimeUnit) : (s.setTm g).shadow = s.shadow := rfl
@[simp] theorem State.setTm_caseMem (g : TimeUnit → TimeUnit) : (s.setTm g).caseMem = s.caseMem := rfl
@[simp] theorem State.setTm_engSram (g : TimeUnit → TimeUnit) : (s.setTm g).engSram = s.engSram := rfl
@[simp] theorem State.setTm_engBank (g : TimeUnit → TimeUnit) : (s.setTm g).engBank = s.engBank := rfl
@[simp] theorem State.setTm_galley (g : TimeUnit → TimeUnit) : (s.setTm g).galley = s.galley := rfl
@[simp] theorem State.setTm_pimage (g : TimeUnit → TimeUnit) : (s.setTm g).pimage = s.pimage := rfl
@[simp] theorem State.setTm_flash (g : TimeUnit → TimeUnit) : (s.setTm g).flash = s.flash := rfl
@[simp] theorem State.setTm_elog (g : TimeUnit → TimeUnit) : (s.setTm g).elog = s.elog := rfl
@[simp] theorem State.setTm_ports (g : TimeUnit → TimeUnit) : (s.setTm g).ports = s.ports := rfl
@[simp] theorem State.setTm_lanes (g : TimeUnit → TimeUnit) : (s.setTm g).lanes = s.lanes := rfl
@[simp] theorem State.setTm_links (g : TimeUnit → TimeUnit) : (s.setTm g).links = s.links := rfl
@[simp] theorem State.setTm_jn (g : TimeUnit → TimeUnit) : (s.setTm g).jn = s.jn := rfl
@[simp] theorem State.setTm_imp (g : TimeUnit → TimeUnit) : (s.setTm g).imp = s.imp := rfl
@[simp] theorem State.setTm_pace (g : TimeUnit → TimeUnit) : (s.setTm g).pace = s.pace := rfl
@[simp] theorem State.setTm_eng (g : TimeUnit → TimeUnit) : (s.setTm g).eng = s.eng := rfl
@[simp] theorem State.setTm_svc (g : TimeUnit → TimeUnit) : (s.setTm g).svc = s.svc := rfl
@[simp] theorem State.setTm_rs (g : TimeUnit → TimeUnit) : (s.setTm g).rs = s.rs := rfl
@[simp] theorem State.setTm_fc (g : TimeUnit → TimeUnit) : (s.setTm g).fc = s.fc := rfl
@[simp] theorem State.setTm_display (g : TimeUnit → TimeUnit) : (s.setTm g).display = s.display := rfl
@[simp] theorem State.setTm_px (g : TimeUnit → TimeUnit) : (s.setTm g).px = s.px := rfl
@[simp] theorem State.setTm_eth (g : TimeUnit → TimeUnit) : (s.setTm g).eth = s.eth := rfl
@[simp] theorem State.setTm_lb (g : TimeUnit → TimeUnit) : (s.setTm g).lb = s.lb := rfl
@[simp] theorem State.setTm_pw (g : TimeUnit → TimeUnit) : (s.setTm g).pw = s.pw := rfl
@[simp] theorem State.setTm_dk (g : TimeUnit → TimeUnit) : (s.setTm g).dk = s.dk := rfl
@[simp] theorem State.setTm_tap (g : TimeUnit → TimeUnit) : (s.setTm g).tap = s.tap := rfl
@[simp] theorem State.setTm_mg (g : TimeUnit → TimeUnit) : (s.setTm g).mg = s.mg := rfl
@[simp] theorem State.setTm_out (g : TimeUnit → TimeUnit) : (s.setTm g).out = s.out := rfl
@[simp] theorem State.setTm_freeCtr (g : TimeUnit → TimeUnit) : (s.setTm g).freeCtr = s.freeCtr := rfl
@[simp] theorem State.setTm_pending (g : TimeUnit → TimeUnit) : (s.setTm g).pending = s.pending := rfl
@[simp] theorem State.setTm_reg (g : TimeUnit → TimeUnit) (x : Nat) : (s.setTm g).reg x = s.reg x := rfl
@[simp] theorem State.setTm_get (g : TimeUnit → TimeUnit) (x : Fld) : (s.setTm g).get x = s.get x := rfl
@[simp] theorem State.setTm_on (g : TimeUnit → TimeUnit) (x : Fld) : (s.setTm g).on x = s.on x := rfl
@[simp] theorem State.setTm_engine (g : TimeUnit → TimeUnit) (x : Nat) : (s.setTm g).engine x = s.engine x := rfl

/-! ### setMs -/

@[simp] theorem State.setMs_regs (g : Measure → Measure) : (s.setMs g).regs = s.regs := rfl
@[simp] theorem State.setMs_shadow (g : Measure → Measure) : (s.setMs g).shadow = s.shadow := rfl
@[simp] theorem State.setMs_caseMem (g : Measure → Measure) : (s.setMs g).caseMem = s.caseMem := rfl
@[simp] theorem State.setMs_engSram (g : Measure → Measure) : (s.setMs g).engSram = s.engSram := rfl
@[simp] theorem State.setMs_engBank (g : Measure → Measure) : (s.setMs g).engBank = s.engBank := rfl
@[simp] theorem State.setMs_galley (g : Measure → Measure) : (s.setMs g).galley = s.galley := rfl
@[simp] theorem State.setMs_pimage (g : Measure → Measure) : (s.setMs g).pimage = s.pimage := rfl
@[simp] theorem State.setMs_flash (g : Measure → Measure) : (s.setMs g).flash = s.flash := rfl
@[simp] theorem State.setMs_elog (g : Measure → Measure) : (s.setMs g).elog = s.elog := rfl
@[simp] theorem State.setMs_ports (g : Measure → Measure) : (s.setMs g).ports = s.ports := rfl
@[simp] theorem State.setMs_lanes (g : Measure → Measure) : (s.setMs g).lanes = s.lanes := rfl
@[simp] theorem State.setMs_links (g : Measure → Measure) : (s.setMs g).links = s.links := rfl
@[simp] theorem State.setMs_jn (g : Measure → Measure) : (s.setMs g).jn = s.jn := rfl
@[simp] theorem State.setMs_imp (g : Measure → Measure) : (s.setMs g).imp = s.imp := rfl
@[simp] theorem State.setMs_pace (g : Measure → Measure) : (s.setMs g).pace = s.pace := rfl
@[simp] theorem State.setMs_eng (g : Measure → Measure) : (s.setMs g).eng = s.eng := rfl
@[simp] theorem State.setMs_svc (g : Measure → Measure) : (s.setMs g).svc = s.svc := rfl
@[simp] theorem State.setMs_rs (g : Measure → Measure) : (s.setMs g).rs = s.rs := rfl
@[simp] theorem State.setMs_fc (g : Measure → Measure) : (s.setMs g).fc = s.fc := rfl
@[simp] theorem State.setMs_display (g : Measure → Measure) : (s.setMs g).display = s.display := rfl
@[simp] theorem State.setMs_px (g : Measure → Measure) : (s.setMs g).px = s.px := rfl
@[simp] theorem State.setMs_eth (g : Measure → Measure) : (s.setMs g).eth = s.eth := rfl
@[simp] theorem State.setMs_lb (g : Measure → Measure) : (s.setMs g).lb = s.lb := rfl
@[simp] theorem State.setMs_pw (g : Measure → Measure) : (s.setMs g).pw = s.pw := rfl
@[simp] theorem State.setMs_dk (g : Measure → Measure) : (s.setMs g).dk = s.dk := rfl
@[simp] theorem State.setMs_tap (g : Measure → Measure) : (s.setMs g).tap = s.tap := rfl
@[simp] theorem State.setMs_mg (g : Measure → Measure) : (s.setMs g).mg = s.mg := rfl
@[simp] theorem State.setMs_out (g : Measure → Measure) : (s.setMs g).out = s.out := rfl
@[simp] theorem State.setMs_freeCtr (g : Measure → Measure) : (s.setMs g).freeCtr = s.freeCtr := rfl
@[simp] theorem State.setMs_pending (g : Measure → Measure) : (s.setMs g).pending = s.pending := rfl
@[simp] theorem State.setMs_reg (g : Measure → Measure) (x : Nat) : (s.setMs g).reg x = s.reg x := rfl
@[simp] theorem State.setMs_get (g : Measure → Measure) (x : Fld) : (s.setMs g).get x = s.get x := rfl
@[simp] theorem State.setMs_on (g : Measure → Measure) (x : Fld) : (s.setMs g).on x = s.on x := rfl
@[simp] theorem State.setMs_engine (g : Measure → Measure) (x : Nat) : (s.setMs g).engine x = s.engine x := rfl

/-! ### setSvc -/

@[simp] theorem State.setSvc_regs (g : Service → Service) : (s.setSvc g).regs = s.regs := rfl
@[simp] theorem State.setSvc_shadow (g : Service → Service) : (s.setSvc g).shadow = s.shadow := rfl
@[simp] theorem State.setSvc_caseMem (g : Service → Service) : (s.setSvc g).caseMem = s.caseMem := rfl
@[simp] theorem State.setSvc_engSram (g : Service → Service) : (s.setSvc g).engSram = s.engSram := rfl
@[simp] theorem State.setSvc_engBank (g : Service → Service) : (s.setSvc g).engBank = s.engBank := rfl
@[simp] theorem State.setSvc_galley (g : Service → Service) : (s.setSvc g).galley = s.galley := rfl
@[simp] theorem State.setSvc_pimage (g : Service → Service) : (s.setSvc g).pimage = s.pimage := rfl
@[simp] theorem State.setSvc_flash (g : Service → Service) : (s.setSvc g).flash = s.flash := rfl
@[simp] theorem State.setSvc_elog (g : Service → Service) : (s.setSvc g).elog = s.elog := rfl
@[simp] theorem State.setSvc_ports (g : Service → Service) : (s.setSvc g).ports = s.ports := rfl
@[simp] theorem State.setSvc_lanes (g : Service → Service) : (s.setSvc g).lanes = s.lanes := rfl
@[simp] theorem State.setSvc_links (g : Service → Service) : (s.setSvc g).links = s.links := rfl
@[simp] theorem State.setSvc_jn (g : Service → Service) : (s.setSvc g).jn = s.jn := rfl
@[simp] theorem State.setSvc_imp (g : Service → Service) : (s.setSvc g).imp = s.imp := rfl
@[simp] theorem State.setSvc_pace (g : Service → Service) : (s.setSvc g).pace = s.pace := rfl
@[simp] theorem State.setSvc_eng (g : Service → Service) : (s.setSvc g).eng = s.eng := rfl
@[simp] theorem State.setSvc_tm (g : Service → Service) : (s.setSvc g).tm = s.tm := rfl
@[simp] theorem State.setSvc_rs (g : Service → Service) : (s.setSvc g).rs = s.rs := rfl
@[simp] theorem State.setSvc_fc (g : Service → Service) : (s.setSvc g).fc = s.fc := rfl
@[simp] theorem State.setSvc_display (g : Service → Service) : (s.setSvc g).display = s.display := rfl
@[simp] theorem State.setSvc_px (g : Service → Service) : (s.setSvc g).px = s.px := rfl
@[simp] theorem State.setSvc_eth (g : Service → Service) : (s.setSvc g).eth = s.eth := rfl
@[simp] theorem State.setSvc_lb (g : Service → Service) : (s.setSvc g).lb = s.lb := rfl
@[simp] theorem State.setSvc_pw (g : Service → Service) : (s.setSvc g).pw = s.pw := rfl
@[simp] theorem State.setSvc_dk (g : Service → Service) : (s.setSvc g).dk = s.dk := rfl
@[simp] theorem State.setSvc_tap (g : Service → Service) : (s.setSvc g).tap = s.tap := rfl
@[simp] theorem State.setSvc_mg (g : Service → Service) : (s.setSvc g).mg = s.mg := rfl
@[simp] theorem State.setSvc_out (g : Service → Service) : (s.setSvc g).out = s.out := rfl
@[simp] theorem State.setSvc_freeCtr (g : Service → Service) : (s.setSvc g).freeCtr = s.freeCtr := rfl
@[simp] theorem State.setSvc_pending (g : Service → Service) : (s.setSvc g).pending = s.pending := rfl
@[simp] theorem State.setSvc_reg (g : Service → Service) (x : Nat) : (s.setSvc g).reg x = s.reg x := rfl
@[simp] theorem State.setSvc_get (g : Service → Service) (x : Fld) : (s.setSvc g).get x = s.get x := rfl
@[simp] theorem State.setSvc_on (g : Service → Service) (x : Fld) : (s.setSvc g).on x = s.on x := rfl
@[simp] theorem State.setSvc_engine (g : Service → Service) (x : Nat) : (s.setSvc g).engine x = s.engine x := rfl

/-! ### setRs -/

@[simp] theorem State.setRs_regs (g : ResetCtl → ResetCtl) : (s.setRs g).regs = s.regs := rfl
@[simp] theorem State.setRs_shadow (g : ResetCtl → ResetCtl) : (s.setRs g).shadow = s.shadow := rfl
@[simp] theorem State.setRs_caseMem (g : ResetCtl → ResetCtl) : (s.setRs g).caseMem = s.caseMem := rfl
@[simp] theorem State.setRs_engSram (g : ResetCtl → ResetCtl) : (s.setRs g).engSram = s.engSram := rfl
@[simp] theorem State.setRs_engBank (g : ResetCtl → ResetCtl) : (s.setRs g).engBank = s.engBank := rfl
@[simp] theorem State.setRs_galley (g : ResetCtl → ResetCtl) : (s.setRs g).galley = s.galley := rfl
@[simp] theorem State.setRs_pimage (g : ResetCtl → ResetCtl) : (s.setRs g).pimage = s.pimage := rfl
@[simp] theorem State.setRs_flash (g : ResetCtl → ResetCtl) : (s.setRs g).flash = s.flash := rfl
@[simp] theorem State.setRs_elog (g : ResetCtl → ResetCtl) : (s.setRs g).elog = s.elog := rfl
@[simp] theorem State.setRs_ports (g : ResetCtl → ResetCtl) : (s.setRs g).ports = s.ports := rfl
@[simp] theorem State.setRs_lanes (g : ResetCtl → ResetCtl) : (s.setRs g).lanes = s.lanes := rfl
@[simp] theorem State.setRs_links (g : ResetCtl → ResetCtl) : (s.setRs g).links = s.links := rfl
@[simp] theorem State.setRs_jn (g : ResetCtl → ResetCtl) : (s.setRs g).jn = s.jn := rfl
@[simp] theorem State.setRs_imp (g : ResetCtl → ResetCtl) : (s.setRs g).imp = s.imp := rfl
@[simp] theorem State.setRs_pace (g : ResetCtl → ResetCtl) : (s.setRs g).pace = s.pace := rfl
@[simp] theorem State.setRs_eng (g : ResetCtl → ResetCtl) : (s.setRs g).eng = s.eng := rfl
@[simp] theorem State.setRs_tm (g : ResetCtl → ResetCtl) : (s.setRs g).tm = s.tm := rfl
@[simp] theorem State.setRs_svc (g : ResetCtl → ResetCtl) : (s.setRs g).svc = s.svc := rfl
@[simp] theorem State.setRs_fc (g : ResetCtl → ResetCtl) : (s.setRs g).fc = s.fc := rfl
@[simp] theorem State.setRs_display (g : ResetCtl → ResetCtl) : (s.setRs g).display = s.display := rfl
@[simp] theorem State.setRs_px (g : ResetCtl → ResetCtl) : (s.setRs g).px = s.px := rfl
@[simp] theorem State.setRs_eth (g : ResetCtl → ResetCtl) : (s.setRs g).eth = s.eth := rfl
@[simp] theorem State.setRs_lb (g : ResetCtl → ResetCtl) : (s.setRs g).lb = s.lb := rfl
@[simp] theorem State.setRs_pw (g : ResetCtl → ResetCtl) : (s.setRs g).pw = s.pw := rfl
@[simp] theorem State.setRs_dk (g : ResetCtl → ResetCtl) : (s.setRs g).dk = s.dk := rfl
@[simp] theorem State.setRs_tap (g : ResetCtl → ResetCtl) : (s.setRs g).tap = s.tap := rfl
@[simp] theorem State.setRs_mg (g : ResetCtl → ResetCtl) : (s.setRs g).mg = s.mg := rfl
@[simp] theorem State.setRs_out (g : ResetCtl → ResetCtl) : (s.setRs g).out = s.out := rfl
@[simp] theorem State.setRs_freeCtr (g : ResetCtl → ResetCtl) : (s.setRs g).freeCtr = s.freeCtr := rfl
@[simp] theorem State.setRs_pending (g : ResetCtl → ResetCtl) : (s.setRs g).pending = s.pending := rfl
@[simp] theorem State.setRs_reg (g : ResetCtl → ResetCtl) (x : Nat) : (s.setRs g).reg x = s.reg x := rfl
@[simp] theorem State.setRs_get (g : ResetCtl → ResetCtl) (x : Fld) : (s.setRs g).get x = s.get x := rfl
@[simp] theorem State.setRs_on (g : ResetCtl → ResetCtl) (x : Fld) : (s.setRs g).on x = s.on x := rfl
@[simp] theorem State.setRs_engine (g : ResetCtl → ResetCtl) (x : Nat) : (s.setRs g).engine x = s.engine x := rfl

/-! ### setFc -/

@[simp] theorem State.setFc_regs (g : FormeCtl → FormeCtl) : (s.setFc g).regs = s.regs := rfl
@[simp] theorem State.setFc_shadow (g : FormeCtl → FormeCtl) : (s.setFc g).shadow = s.shadow := rfl
@[simp] theorem State.setFc_caseMem (g : FormeCtl → FormeCtl) : (s.setFc g).caseMem = s.caseMem := rfl
@[simp] theorem State.setFc_engSram (g : FormeCtl → FormeCtl) : (s.setFc g).engSram = s.engSram := rfl
@[simp] theorem State.setFc_engBank (g : FormeCtl → FormeCtl) : (s.setFc g).engBank = s.engBank := rfl
@[simp] theorem State.setFc_galley (g : FormeCtl → FormeCtl) : (s.setFc g).galley = s.galley := rfl
@[simp] theorem State.setFc_pimage (g : FormeCtl → FormeCtl) : (s.setFc g).pimage = s.pimage := rfl
@[simp] theorem State.setFc_flash (g : FormeCtl → FormeCtl) : (s.setFc g).flash = s.flash := rfl
@[simp] theorem State.setFc_elog (g : FormeCtl → FormeCtl) : (s.setFc g).elog = s.elog := rfl
@[simp] theorem State.setFc_ports (g : FormeCtl → FormeCtl) : (s.setFc g).ports = s.ports := rfl
@[simp] theorem State.setFc_lanes (g : FormeCtl → FormeCtl) : (s.setFc g).lanes = s.lanes := rfl
@[simp] theorem State.setFc_links (g : FormeCtl → FormeCtl) : (s.setFc g).links = s.links := rfl
@[simp] theorem State.setFc_jn (g : FormeCtl → FormeCtl) : (s.setFc g).jn = s.jn := rfl
@[simp] theorem State.setFc_imp (g : FormeCtl → FormeCtl) : (s.setFc g).imp = s.imp := rfl
@[simp] theorem State.setFc_pace (g : FormeCtl → FormeCtl) : (s.setFc g).pace = s.pace := rfl
@[simp] theorem State.setFc_eng (g : FormeCtl → FormeCtl) : (s.setFc g).eng = s.eng := rfl
@[simp] theorem State.setFc_tm (g : FormeCtl → FormeCtl) : (s.setFc g).tm = s.tm := rfl
@[simp] theorem State.setFc_svc (g : FormeCtl → FormeCtl) : (s.setFc g).svc = s.svc := rfl
@[simp] theorem State.setFc_rs (g : FormeCtl → FormeCtl) : (s.setFc g).rs = s.rs := rfl
@[simp] theorem State.setFc_display (g : FormeCtl → FormeCtl) : (s.setFc g).display = s.display := rfl
@[simp] theorem State.setFc_px (g : FormeCtl → FormeCtl) : (s.setFc g).px = s.px := rfl
@[simp] theorem State.setFc_eth (g : FormeCtl → FormeCtl) : (s.setFc g).eth = s.eth := rfl
@[simp] theorem State.setFc_lb (g : FormeCtl → FormeCtl) : (s.setFc g).lb = s.lb := rfl
@[simp] theorem State.setFc_pw (g : FormeCtl → FormeCtl) : (s.setFc g).pw = s.pw := rfl
@[simp] theorem State.setFc_dk (g : FormeCtl → FormeCtl) : (s.setFc g).dk = s.dk := rfl
@[simp] theorem State.setFc_tap (g : FormeCtl → FormeCtl) : (s.setFc g).tap = s.tap := rfl
@[simp] theorem State.setFc_mg (g : FormeCtl → FormeCtl) : (s.setFc g).mg = s.mg := rfl
@[simp] theorem State.setFc_out (g : FormeCtl → FormeCtl) : (s.setFc g).out = s.out := rfl
@[simp] theorem State.setFc_freeCtr (g : FormeCtl → FormeCtl) : (s.setFc g).freeCtr = s.freeCtr := rfl
@[simp] theorem State.setFc_pending (g : FormeCtl → FormeCtl) : (s.setFc g).pending = s.pending := rfl
@[simp] theorem State.setFc_reg (g : FormeCtl → FormeCtl) (x : Nat) : (s.setFc g).reg x = s.reg x := rfl
@[simp] theorem State.setFc_get (g : FormeCtl → FormeCtl) (x : Fld) : (s.setFc g).get x = s.get x := rfl
@[simp] theorem State.setFc_on (g : FormeCtl → FormeCtl) (x : Fld) : (s.setFc g).on x = s.on x := rfl
@[simp] theorem State.setFc_engine (g : FormeCtl → FormeCtl) (x : Nat) : (s.setFc g).engine x = s.engine x := rfl

/-! ### setPw -/

@[simp] theorem State.setPw_regs (g : Power → Power) : (s.setPw g).regs = s.regs := rfl
@[simp] theorem State.setPw_shadow (g : Power → Power) : (s.setPw g).shadow = s.shadow := rfl
@[simp] theorem State.setPw_caseMem (g : Power → Power) : (s.setPw g).caseMem = s.caseMem := rfl
@[simp] theorem State.setPw_engSram (g : Power → Power) : (s.setPw g).engSram = s.engSram := rfl
@[simp] theorem State.setPw_engBank (g : Power → Power) : (s.setPw g).engBank = s.engBank := rfl
@[simp] theorem State.setPw_galley (g : Power → Power) : (s.setPw g).galley = s.galley := rfl
@[simp] theorem State.setPw_pimage (g : Power → Power) : (s.setPw g).pimage = s.pimage := rfl
@[simp] theorem State.setPw_flash (g : Power → Power) : (s.setPw g).flash = s.flash := rfl
@[simp] theorem State.setPw_elog (g : Power → Power) : (s.setPw g).elog = s.elog := rfl
@[simp] theorem State.setPw_ports (g : Power → Power) : (s.setPw g).ports = s.ports := rfl
@[simp] theorem State.setPw_lanes (g : Power → Power) : (s.setPw g).lanes = s.lanes := rfl
@[simp] theorem State.setPw_links (g : Power → Power) : (s.setPw g).links = s.links := rfl
@[simp] theorem State.setPw_jn (g : Power → Power) : (s.setPw g).jn = s.jn := rfl
@[simp] theorem State.setPw_imp (g : Power → Power) : (s.setPw g).imp = s.imp := rfl
@[simp] theorem State.setPw_pace (g : Power → Power) : (s.setPw g).pace = s.pace := rfl
@[simp] theorem State.setPw_eng (g : Power → Power) : (s.setPw g).eng = s.eng := rfl
@[simp] theorem State.setPw_tm (g : Power → Power) : (s.setPw g).tm = s.tm := rfl
@[simp] theorem State.setPw_svc (g : Power → Power) : (s.setPw g).svc = s.svc := rfl
@[simp] theorem State.setPw_rs (g : Power → Power) : (s.setPw g).rs = s.rs := rfl
@[simp] theorem State.setPw_fc (g : Power → Power) : (s.setPw g).fc = s.fc := rfl
@[simp] theorem State.setPw_display (g : Power → Power) : (s.setPw g).display = s.display := rfl
@[simp] theorem State.setPw_px (g : Power → Power) : (s.setPw g).px = s.px := rfl
@[simp] theorem State.setPw_eth (g : Power → Power) : (s.setPw g).eth = s.eth := rfl
@[simp] theorem State.setPw_lb (g : Power → Power) : (s.setPw g).lb = s.lb := rfl
@[simp] theorem State.setPw_dk (g : Power → Power) : (s.setPw g).dk = s.dk := rfl
@[simp] theorem State.setPw_tap (g : Power → Power) : (s.setPw g).tap = s.tap := rfl
@[simp] theorem State.setPw_mg (g : Power → Power) : (s.setPw g).mg = s.mg := rfl
@[simp] theorem State.setPw_out (g : Power → Power) : (s.setPw g).out = s.out := rfl
@[simp] theorem State.setPw_freeCtr (g : Power → Power) : (s.setPw g).freeCtr = s.freeCtr := rfl
@[simp] theorem State.setPw_pending (g : Power → Power) : (s.setPw g).pending = s.pending := rfl
@[simp] theorem State.setPw_reg (g : Power → Power) (x : Nat) : (s.setPw g).reg x = s.reg x := rfl
@[simp] theorem State.setPw_get (g : Power → Power) (x : Fld) : (s.setPw g).get x = s.get x := rfl
@[simp] theorem State.setPw_on (g : Power → Power) (x : Fld) : (s.setPw g).on x = s.on x := rfl
@[simp] theorem State.setPw_engine (g : Power → Power) (x : Nat) : (s.setPw g).engine x = s.engine x := rfl

/-! ### setPath -/

@[simp] theorem State.setPath_regs (n : Nat) (g : PowerPath → PowerPath) : (s.setPath n g).regs = s.regs := rfl
@[simp] theorem State.setPath_shadow (n : Nat) (g : PowerPath → PowerPath) : (s.setPath n g).shadow = s.shadow := rfl
@[simp] theorem State.setPath_caseMem (n : Nat) (g : PowerPath → PowerPath) : (s.setPath n g).caseMem = s.caseMem := rfl
@[simp] theorem State.setPath_engSram (n : Nat) (g : PowerPath → PowerPath) : (s.setPath n g).engSram = s.engSram := rfl
@[simp] theorem State.setPath_engBank (n : Nat) (g : PowerPath → PowerPath) : (s.setPath n g).engBank = s.engBank := rfl
@[simp] theorem State.setPath_galley (n : Nat) (g : PowerPath → PowerPath) : (s.setPath n g).galley = s.galley := rfl
@[simp] theorem State.setPath_pimage (n : Nat) (g : PowerPath → PowerPath) : (s.setPath n g).pimage = s.pimage := rfl
@[simp] theorem State.setPath_flash (n : Nat) (g : PowerPath → PowerPath) : (s.setPath n g).flash = s.flash := rfl
@[simp] theorem State.setPath_elog (n : Nat) (g : PowerPath → PowerPath) : (s.setPath n g).elog = s.elog := rfl
@[simp] theorem State.setPath_ports (n : Nat) (g : PowerPath → PowerPath) : (s.setPath n g).ports = s.ports := rfl
@[simp] theorem State.setPath_lanes (n : Nat) (g : PowerPath → PowerPath) : (s.setPath n g).lanes = s.lanes := rfl
@[simp] theorem State.setPath_links (n : Nat) (g : PowerPath → PowerPath) : (s.setPath n g).links = s.links := rfl
@[simp] theorem State.setPath_jn (n : Nat) (g : PowerPath → PowerPath) : (s.setPath n g).jn = s.jn := rfl
@[simp] theorem State.setPath_imp (n : Nat) (g : PowerPath → PowerPath) : (s.setPath n g).imp = s.imp := rfl
@[simp] theorem State.setPath_pace (n : Nat) (g : PowerPath → PowerPath) : (s.setPath n g).pace = s.pace := rfl
@[simp] theorem State.setPath_eng (n : Nat) (g : PowerPath → PowerPath) : (s.setPath n g).eng = s.eng := rfl
@[simp] theorem State.setPath_tm (n : Nat) (g : PowerPath → PowerPath) : (s.setPath n g).tm = s.tm := rfl
@[simp] theorem State.setPath_svc (n : Nat) (g : PowerPath → PowerPath) : (s.setPath n g).svc = s.svc := rfl
@[simp] theorem State.setPath_rs (n : Nat) (g : PowerPath → PowerPath) : (s.setPath n g).rs = s.rs := rfl
@[simp] theorem State.setPath_fc (n : Nat) (g : PowerPath → PowerPath) : (s.setPath n g).fc = s.fc := rfl
@[simp] theorem State.setPath_display (n : Nat) (g : PowerPath → PowerPath) : (s.setPath n g).display = s.display := rfl
@[simp] theorem State.setPath_px (n : Nat) (g : PowerPath → PowerPath) : (s.setPath n g).px = s.px := rfl
@[simp] theorem State.setPath_eth (n : Nat) (g : PowerPath → PowerPath) : (s.setPath n g).eth = s.eth := rfl
@[simp] theorem State.setPath_lb (n : Nat) (g : PowerPath → PowerPath) : (s.setPath n g).lb = s.lb := rfl
@[simp] theorem State.setPath_dk (n : Nat) (g : PowerPath → PowerPath) : (s.setPath n g).dk = s.dk := rfl
@[simp] theorem State.setPath_tap (n : Nat) (g : PowerPath → PowerPath) : (s.setPath n g).tap = s.tap := rfl
@[simp] theorem State.setPath_mg (n : Nat) (g : PowerPath → PowerPath) : (s.setPath n g).mg = s.mg := rfl
@[simp] theorem State.setPath_out (n : Nat) (g : PowerPath → PowerPath) : (s.setPath n g).out = s.out := rfl
@[simp] theorem State.setPath_freeCtr (n : Nat) (g : PowerPath → PowerPath) : (s.setPath n g).freeCtr = s.freeCtr := rfl
@[simp] theorem State.setPath_pending (n : Nat) (g : PowerPath → PowerPath) : (s.setPath n g).pending = s.pending := rfl
@[simp] theorem State.setPath_reg (n : Nat) (g : PowerPath → PowerPath) (x : Nat) : (s.setPath n g).reg x = s.reg x := rfl
@[simp] theorem State.setPath_get (n : Nat) (g : PowerPath → PowerPath) (x : Fld) : (s.setPath n g).get x = s.get x := rfl
@[simp] theorem State.setPath_on (n : Nat) (g : PowerPath → PowerPath) (x : Fld) : (s.setPath n g).on x = s.on x := rfl
@[simp] theorem State.setPath_engine (n : Nat) (g : PowerPath → PowerPath) (x : Nat) : (s.setPath n g).engine x = s.engine x := rfl

/-! ### setPort6 -/

@[simp] theorem State.setPort6_regs (c : Nat) (g : CablePort → CablePort) : (s.setPort6 c g).regs = s.regs := rfl
@[simp] theorem State.setPort6_shadow (c : Nat) (g : CablePort → CablePort) : (s.setPort6 c g).shadow = s.shadow := rfl
@[simp] theorem State.setPort6_caseMem (c : Nat) (g : CablePort → CablePort) : (s.setPort6 c g).caseMem = s.caseMem := rfl
@[simp] theorem State.setPort6_engSram (c : Nat) (g : CablePort → CablePort) : (s.setPort6 c g).engSram = s.engSram := rfl
@[simp] theorem State.setPort6_engBank (c : Nat) (g : CablePort → CablePort) : (s.setPort6 c g).engBank = s.engBank := rfl
@[simp] theorem State.setPort6_galley (c : Nat) (g : CablePort → CablePort) : (s.setPort6 c g).galley = s.galley := rfl
@[simp] theorem State.setPort6_pimage (c : Nat) (g : CablePort → CablePort) : (s.setPort6 c g).pimage = s.pimage := rfl
@[simp] theorem State.setPort6_flash (c : Nat) (g : CablePort → CablePort) : (s.setPort6 c g).flash = s.flash := rfl
@[simp] theorem State.setPort6_elog (c : Nat) (g : CablePort → CablePort) : (s.setPort6 c g).elog = s.elog := rfl
@[simp] theorem State.setPort6_ports (c : Nat) (g : CablePort → CablePort) : (s.setPort6 c g).ports = s.ports := rfl
@[simp] theorem State.setPort6_lanes (c : Nat) (g : CablePort → CablePort) : (s.setPort6 c g).lanes = s.lanes := rfl
@[simp] theorem State.setPort6_links (c : Nat) (g : CablePort → CablePort) : (s.setPort6 c g).links = s.links := rfl
@[simp] theorem State.setPort6_jn (c : Nat) (g : CablePort → CablePort) : (s.setPort6 c g).jn = s.jn := rfl
@[simp] theorem State.setPort6_imp (c : Nat) (g : CablePort → CablePort) : (s.setPort6 c g).imp = s.imp := rfl
@[simp] theorem State.setPort6_pace (c : Nat) (g : CablePort → CablePort) : (s.setPort6 c g).pace = s.pace := rfl
@[simp] theorem State.setPort6_eng (c : Nat) (g : CablePort → CablePort) : (s.setPort6 c g).eng = s.eng := rfl
@[simp] theorem State.setPort6_tm (c : Nat) (g : CablePort → CablePort) : (s.setPort6 c g).tm = s.tm := rfl
@[simp] theorem State.setPort6_svc (c : Nat) (g : CablePort → CablePort) : (s.setPort6 c g).svc = s.svc := rfl
@[simp] theorem State.setPort6_rs (c : Nat) (g : CablePort → CablePort) : (s.setPort6 c g).rs = s.rs := rfl
@[simp] theorem State.setPort6_fc (c : Nat) (g : CablePort → CablePort) : (s.setPort6 c g).fc = s.fc := rfl
@[simp] theorem State.setPort6_display (c : Nat) (g : CablePort → CablePort) : (s.setPort6 c g).display = s.display := rfl
@[simp] theorem State.setPort6_px (c : Nat) (g : CablePort → CablePort) : (s.setPort6 c g).px = s.px := rfl
@[simp] theorem State.setPort6_eth (c : Nat) (g : CablePort → CablePort) : (s.setPort6 c g).eth = s.eth := rfl
@[simp] theorem State.setPort6_lb (c : Nat) (g : CablePort → CablePort) : (s.setPort6 c g).lb = s.lb := rfl
@[simp] theorem State.setPort6_dk (c : Nat) (g : CablePort → CablePort) : (s.setPort6 c g).dk = s.dk := rfl
@[simp] theorem State.setPort6_tap (c : Nat) (g : CablePort → CablePort) : (s.setPort6 c g).tap = s.tap := rfl
@[simp] theorem State.setPort6_mg (c : Nat) (g : CablePort → CablePort) : (s.setPort6 c g).mg = s.mg := rfl
@[simp] theorem State.setPort6_out (c : Nat) (g : CablePort → CablePort) : (s.setPort6 c g).out = s.out := rfl
@[simp] theorem State.setPort6_freeCtr (c : Nat) (g : CablePort → CablePort) : (s.setPort6 c g).freeCtr = s.freeCtr := rfl
@[simp] theorem State.setPort6_pending (c : Nat) (g : CablePort → CablePort) : (s.setPort6 c g).pending = s.pending := rfl
@[simp] theorem State.setPort6_reg (c : Nat) (g : CablePort → CablePort) (x : Nat) : (s.setPort6 c g).reg x = s.reg x := rfl
@[simp] theorem State.setPort6_get (c : Nat) (g : CablePort → CablePort) (x : Fld) : (s.setPort6 c g).get x = s.get x := rfl
@[simp] theorem State.setPort6_on (c : Nat) (g : CablePort → CablePort) (x : Fld) : (s.setPort6 c g).on x = s.on x := rfl
@[simp] theorem State.setPort6_engine (c : Nat) (g : CablePort → CablePort) (x : Nat) : (s.setPort6 c g).engine x = s.engine x := rfl

/-! ### setDisp -/

@[simp] theorem State.setDisp_regs (d : Nat) (g : Display → Display) : (s.setDisp d g).regs = s.regs := rfl
@[simp] theorem State.setDisp_shadow (d : Nat) (g : Display → Display) : (s.setDisp d g).shadow = s.shadow := rfl
@[simp] theorem State.setDisp_caseMem (d : Nat) (g : Display → Display) : (s.setDisp d g).caseMem = s.caseMem := rfl
@[simp] theorem State.setDisp_engSram (d : Nat) (g : Display → Display) : (s.setDisp d g).engSram = s.engSram := rfl
@[simp] theorem State.setDisp_engBank (d : Nat) (g : Display → Display) : (s.setDisp d g).engBank = s.engBank := rfl
@[simp] theorem State.setDisp_galley (d : Nat) (g : Display → Display) : (s.setDisp d g).galley = s.galley := rfl
@[simp] theorem State.setDisp_pimage (d : Nat) (g : Display → Display) : (s.setDisp d g).pimage = s.pimage := rfl
@[simp] theorem State.setDisp_flash (d : Nat) (g : Display → Display) : (s.setDisp d g).flash = s.flash := rfl
@[simp] theorem State.setDisp_elog (d : Nat) (g : Display → Display) : (s.setDisp d g).elog = s.elog := rfl
@[simp] theorem State.setDisp_ports (d : Nat) (g : Display → Display) : (s.setDisp d g).ports = s.ports := rfl
@[simp] theorem State.setDisp_lanes (d : Nat) (g : Display → Display) : (s.setDisp d g).lanes = s.lanes := rfl
@[simp] theorem State.setDisp_links (d : Nat) (g : Display → Display) : (s.setDisp d g).links = s.links := rfl
@[simp] theorem State.setDisp_jn (d : Nat) (g : Display → Display) : (s.setDisp d g).jn = s.jn := rfl
@[simp] theorem State.setDisp_imp (d : Nat) (g : Display → Display) : (s.setDisp d g).imp = s.imp := rfl
@[simp] theorem State.setDisp_pace (d : Nat) (g : Display → Display) : (s.setDisp d g).pace = s.pace := rfl
@[simp] theorem State.setDisp_eng (d : Nat) (g : Display → Display) : (s.setDisp d g).eng = s.eng := rfl
@[simp] theorem State.setDisp_tm (d : Nat) (g : Display → Display) : (s.setDisp d g).tm = s.tm := rfl
@[simp] theorem State.setDisp_svc (d : Nat) (g : Display → Display) : (s.setDisp d g).svc = s.svc := rfl
@[simp] theorem State.setDisp_rs (d : Nat) (g : Display → Display) : (s.setDisp d g).rs = s.rs := rfl
@[simp] theorem State.setDisp_fc (d : Nat) (g : Display → Display) : (s.setDisp d g).fc = s.fc := rfl
@[simp] theorem State.setDisp_px (d : Nat) (g : Display → Display) : (s.setDisp d g).px = s.px := rfl
@[simp] theorem State.setDisp_eth (d : Nat) (g : Display → Display) : (s.setDisp d g).eth = s.eth := rfl
@[simp] theorem State.setDisp_lb (d : Nat) (g : Display → Display) : (s.setDisp d g).lb = s.lb := rfl
@[simp] theorem State.setDisp_pw (d : Nat) (g : Display → Display) : (s.setDisp d g).pw = s.pw := rfl
@[simp] theorem State.setDisp_dk (d : Nat) (g : Display → Display) : (s.setDisp d g).dk = s.dk := rfl
@[simp] theorem State.setDisp_tap (d : Nat) (g : Display → Display) : (s.setDisp d g).tap = s.tap := rfl
@[simp] theorem State.setDisp_mg (d : Nat) (g : Display → Display) : (s.setDisp d g).mg = s.mg := rfl
@[simp] theorem State.setDisp_out (d : Nat) (g : Display → Display) : (s.setDisp d g).out = s.out := rfl
@[simp] theorem State.setDisp_freeCtr (d : Nat) (g : Display → Display) : (s.setDisp d g).freeCtr = s.freeCtr := rfl
@[simp] theorem State.setDisp_pending (d : Nat) (g : Display → Display) : (s.setDisp d g).pending = s.pending := rfl
@[simp] theorem State.setDisp_reg (d : Nat) (g : Display → Display) (x : Nat) : (s.setDisp d g).reg x = s.reg x := rfl
@[simp] theorem State.setDisp_get (d : Nat) (g : Display → Display) (x : Fld) : (s.setDisp d g).get x = s.get x := rfl
@[simp] theorem State.setDisp_on (d : Nat) (g : Display → Display) (x : Fld) : (s.setDisp d g).on x = s.on x := rfl
@[simp] theorem State.setDisp_engine (d : Nat) (g : Display → Display) (x : Nat) : (s.setDisp d g).engine x = s.engine x := rfl

/-! ### setEth -/

@[simp] theorem State.setEth_regs (e : Nat) (g : Eth → Eth) : (s.setEth e g).regs = s.regs := rfl
@[simp] theorem State.setEth_shadow (e : Nat) (g : Eth → Eth) : (s.setEth e g).shadow = s.shadow := rfl
@[simp] theorem State.setEth_caseMem (e : Nat) (g : Eth → Eth) : (s.setEth e g).caseMem = s.caseMem := rfl
@[simp] theorem State.setEth_engSram (e : Nat) (g : Eth → Eth) : (s.setEth e g).engSram = s.engSram := rfl
@[simp] theorem State.setEth_engBank (e : Nat) (g : Eth → Eth) : (s.setEth e g).engBank = s.engBank := rfl
@[simp] theorem State.setEth_galley (e : Nat) (g : Eth → Eth) : (s.setEth e g).galley = s.galley := rfl
@[simp] theorem State.setEth_pimage (e : Nat) (g : Eth → Eth) : (s.setEth e g).pimage = s.pimage := rfl
@[simp] theorem State.setEth_flash (e : Nat) (g : Eth → Eth) : (s.setEth e g).flash = s.flash := rfl
@[simp] theorem State.setEth_elog (e : Nat) (g : Eth → Eth) : (s.setEth e g).elog = s.elog := rfl
@[simp] theorem State.setEth_ports (e : Nat) (g : Eth → Eth) : (s.setEth e g).ports = s.ports := rfl
@[simp] theorem State.setEth_lanes (e : Nat) (g : Eth → Eth) : (s.setEth e g).lanes = s.lanes := rfl
@[simp] theorem State.setEth_links (e : Nat) (g : Eth → Eth) : (s.setEth e g).links = s.links := rfl
@[simp] theorem State.setEth_jn (e : Nat) (g : Eth → Eth) : (s.setEth e g).jn = s.jn := rfl
@[simp] theorem State.setEth_imp (e : Nat) (g : Eth → Eth) : (s.setEth e g).imp = s.imp := rfl
@[simp] theorem State.setEth_pace (e : Nat) (g : Eth → Eth) : (s.setEth e g).pace = s.pace := rfl
@[simp] theorem State.setEth_eng (e : Nat) (g : Eth → Eth) : (s.setEth e g).eng = s.eng := rfl
@[simp] theorem State.setEth_tm (e : Nat) (g : Eth → Eth) : (s.setEth e g).tm = s.tm := rfl
@[simp] theorem State.setEth_svc (e : Nat) (g : Eth → Eth) : (s.setEth e g).svc = s.svc := rfl
@[simp] theorem State.setEth_rs (e : Nat) (g : Eth → Eth) : (s.setEth e g).rs = s.rs := rfl
@[simp] theorem State.setEth_fc (e : Nat) (g : Eth → Eth) : (s.setEth e g).fc = s.fc := rfl
@[simp] theorem State.setEth_display (e : Nat) (g : Eth → Eth) : (s.setEth e g).display = s.display := rfl
@[simp] theorem State.setEth_px (e : Nat) (g : Eth → Eth) : (s.setEth e g).px = s.px := rfl
@[simp] theorem State.setEth_lb (e : Nat) (g : Eth → Eth) : (s.setEth e g).lb = s.lb := rfl
@[simp] theorem State.setEth_pw (e : Nat) (g : Eth → Eth) : (s.setEth e g).pw = s.pw := rfl
@[simp] theorem State.setEth_dk (e : Nat) (g : Eth → Eth) : (s.setEth e g).dk = s.dk := rfl
@[simp] theorem State.setEth_tap (e : Nat) (g : Eth → Eth) : (s.setEth e g).tap = s.tap := rfl
@[simp] theorem State.setEth_mg (e : Nat) (g : Eth → Eth) : (s.setEth e g).mg = s.mg := rfl
@[simp] theorem State.setEth_out (e : Nat) (g : Eth → Eth) : (s.setEth e g).out = s.out := rfl
@[simp] theorem State.setEth_freeCtr (e : Nat) (g : Eth → Eth) : (s.setEth e g).freeCtr = s.freeCtr := rfl
@[simp] theorem State.setEth_pending (e : Nat) (g : Eth → Eth) : (s.setEth e g).pending = s.pending := rfl
@[simp] theorem State.setEth_reg (e : Nat) (g : Eth → Eth) (x : Nat) : (s.setEth e g).reg x = s.reg x := rfl
@[simp] theorem State.setEth_get (e : Nat) (g : Eth → Eth) (x : Fld) : (s.setEth e g).get x = s.get x := rfl
@[simp] theorem State.setEth_on (e : Nat) (g : Eth → Eth) (x : Fld) : (s.setEth e g).on x = s.on x := rfl
@[simp] theorem State.setEth_engine (e : Nat) (g : Eth → Eth) (x : Nat) : (s.setEth e g).engine x = s.engine x := rfl

/-! ### setPx -/

@[simp] theorem State.setPx_regs (g : Pcie → Pcie) : (s.setPx g).regs = s.regs := rfl
@[simp] theorem State.setPx_shadow (g : Pcie → Pcie) : (s.setPx g).shadow = s.shadow := rfl
@[simp] theorem State.setPx_caseMem (g : Pcie → Pcie) : (s.setPx g).caseMem = s.caseMem := rfl
@[simp] theorem State.setPx_engSram (g : Pcie → Pcie) : (s.setPx g).engSram = s.engSram := rfl
@[simp] theorem State.setPx_engBank (g : Pcie → Pcie) : (s.setPx g).engBank = s.engBank := rfl
@[simp] theorem State.setPx_galley (g : Pcie → Pcie) : (s.setPx g).galley = s.galley := rfl
@[simp] theorem State.setPx_pimage (g : Pcie → Pcie) : (s.setPx g).pimage = s.pimage := rfl
@[simp] theorem State.setPx_flash (g : Pcie → Pcie) : (s.setPx g).flash = s.flash := rfl
@[simp] theorem State.setPx_elog (g : Pcie → Pcie) : (s.setPx g).elog = s.elog := rfl
@[simp] theorem State.setPx_ports (g : Pcie → Pcie) : (s.setPx g).ports = s.ports := rfl
@[simp] theorem State.setPx_lanes (g : Pcie → Pcie) : (s.setPx g).lanes = s.lanes := rfl
@[simp] theorem State.setPx_links (g : Pcie → Pcie) : (s.setPx g).links = s.links := rfl
@[simp] theorem State.setPx_jn (g : Pcie → Pcie) : (s.setPx g).jn = s.jn := rfl
@[simp] theorem State.setPx_imp (g : Pcie → Pcie) : (s.setPx g).imp = s.imp := rfl
@[simp] theorem State.setPx_pace (g : Pcie → Pcie) : (s.setPx g).pace = s.pace := rfl
@[simp] theorem State.setPx_eng (g : Pcie → Pcie) : (s.setPx g).eng = s.eng := rfl
@[simp] theorem State.setPx_tm (g : Pcie → Pcie) : (s.setPx g).tm = s.tm := rfl
@[simp] theorem State.setPx_svc (g : Pcie → Pcie) : (s.setPx g).svc = s.svc := rfl
@[simp] theorem State.setPx_rs (g : Pcie → Pcie) : (s.setPx g).rs = s.rs := rfl
@[simp] theorem State.setPx_fc (g : Pcie → Pcie) : (s.setPx g).fc = s.fc := rfl
@[simp] theorem State.setPx_display (g : Pcie → Pcie) : (s.setPx g).display = s.display := rfl
@[simp] theorem State.setPx_eth (g : Pcie → Pcie) : (s.setPx g).eth = s.eth := rfl
@[simp] theorem State.setPx_lb (g : Pcie → Pcie) : (s.setPx g).lb = s.lb := rfl
@[simp] theorem State.setPx_pw (g : Pcie → Pcie) : (s.setPx g).pw = s.pw := rfl
@[simp] theorem State.setPx_dk (g : Pcie → Pcie) : (s.setPx g).dk = s.dk := rfl
@[simp] theorem State.setPx_tap (g : Pcie → Pcie) : (s.setPx g).tap = s.tap := rfl
@[simp] theorem State.setPx_mg (g : Pcie → Pcie) : (s.setPx g).mg = s.mg := rfl
@[simp] theorem State.setPx_out (g : Pcie → Pcie) : (s.setPx g).out = s.out := rfl
@[simp] theorem State.setPx_freeCtr (g : Pcie → Pcie) : (s.setPx g).freeCtr = s.freeCtr := rfl
@[simp] theorem State.setPx_pending (g : Pcie → Pcie) : (s.setPx g).pending = s.pending := rfl
@[simp] theorem State.setPx_reg (g : Pcie → Pcie) (x : Nat) : (s.setPx g).reg x = s.reg x := rfl
@[simp] theorem State.setPx_get (g : Pcie → Pcie) (x : Fld) : (s.setPx g).get x = s.get x := rfl
@[simp] theorem State.setPx_on (g : Pcie → Pcie) (x : Fld) : (s.setPx g).on x = s.on x := rfl
@[simp] theorem State.setPx_engine (g : Pcie → Pcie) (x : Nat) : (s.setPx g).engine x = s.engine x := rfl

/-! ### setBind -/

@[simp] theorem State.setBind_regs (n : Nat) (g : Binding → Binding) : (s.setBind n g).regs = s.regs := rfl
@[simp] theorem State.setBind_shadow (n : Nat) (g : Binding → Binding) : (s.setBind n g).shadow = s.shadow := rfl
@[simp] theorem State.setBind_caseMem (n : Nat) (g : Binding → Binding) : (s.setBind n g).caseMem = s.caseMem := rfl
@[simp] theorem State.setBind_engSram (n : Nat) (g : Binding → Binding) : (s.setBind n g).engSram = s.engSram := rfl
@[simp] theorem State.setBind_engBank (n : Nat) (g : Binding → Binding) : (s.setBind n g).engBank = s.engBank := rfl
@[simp] theorem State.setBind_galley (n : Nat) (g : Binding → Binding) : (s.setBind n g).galley = s.galley := rfl
@[simp] theorem State.setBind_pimage (n : Nat) (g : Binding → Binding) : (s.setBind n g).pimage = s.pimage := rfl
@[simp] theorem State.setBind_flash (n : Nat) (g : Binding → Binding) : (s.setBind n g).flash = s.flash := rfl
@[simp] theorem State.setBind_elog (n : Nat) (g : Binding → Binding) : (s.setBind n g).elog = s.elog := rfl
@[simp] theorem State.setBind_ports (n : Nat) (g : Binding → Binding) : (s.setBind n g).ports = s.ports := rfl
@[simp] theorem State.setBind_lanes (n : Nat) (g : Binding → Binding) : (s.setBind n g).lanes = s.lanes := rfl
@[simp] theorem State.setBind_links (n : Nat) (g : Binding → Binding) : (s.setBind n g).links = s.links := rfl
@[simp] theorem State.setBind_jn (n : Nat) (g : Binding → Binding) : (s.setBind n g).jn = s.jn := rfl
@[simp] theorem State.setBind_imp (n : Nat) (g : Binding → Binding) : (s.setBind n g).imp = s.imp := rfl
@[simp] theorem State.setBind_pace (n : Nat) (g : Binding → Binding) : (s.setBind n g).pace = s.pace := rfl
@[simp] theorem State.setBind_eng (n : Nat) (g : Binding → Binding) : (s.setBind n g).eng = s.eng := rfl
@[simp] theorem State.setBind_tm (n : Nat) (g : Binding → Binding) : (s.setBind n g).tm = s.tm := rfl
@[simp] theorem State.setBind_svc (n : Nat) (g : Binding → Binding) : (s.setBind n g).svc = s.svc := rfl
@[simp] theorem State.setBind_rs (n : Nat) (g : Binding → Binding) : (s.setBind n g).rs = s.rs := rfl
@[simp] theorem State.setBind_fc (n : Nat) (g : Binding → Binding) : (s.setBind n g).fc = s.fc := rfl
@[simp] theorem State.setBind_display (n : Nat) (g : Binding → Binding) : (s.setBind n g).display = s.display := rfl
@[simp] theorem State.setBind_eth (n : Nat) (g : Binding → Binding) : (s.setBind n g).eth = s.eth := rfl
@[simp] theorem State.setBind_lb (n : Nat) (g : Binding → Binding) : (s.setBind n g).lb = s.lb := rfl
@[simp] theorem State.setBind_pw (n : Nat) (g : Binding → Binding) : (s.setBind n g).pw = s.pw := rfl
@[simp] theorem State.setBind_dk (n : Nat) (g : Binding → Binding) : (s.setBind n g).dk = s.dk := rfl
@[simp] theorem State.setBind_tap (n : Nat) (g : Binding → Binding) : (s.setBind n g).tap = s.tap := rfl
@[simp] theorem State.setBind_mg (n : Nat) (g : Binding → Binding) : (s.setBind n g).mg = s.mg := rfl
@[simp] theorem State.setBind_out (n : Nat) (g : Binding → Binding) : (s.setBind n g).out = s.out := rfl
@[simp] theorem State.setBind_freeCtr (n : Nat) (g : Binding → Binding) : (s.setBind n g).freeCtr = s.freeCtr := rfl
@[simp] theorem State.setBind_pending (n : Nat) (g : Binding → Binding) : (s.setBind n g).pending = s.pending := rfl
@[simp] theorem State.setBind_reg (n : Nat) (g : Binding → Binding) (x : Nat) : (s.setBind n g).reg x = s.reg x := rfl
@[simp] theorem State.setBind_get (n : Nat) (g : Binding → Binding) (x : Fld) : (s.setBind n g).get x = s.get x := rfl
@[simp] theorem State.setBind_on (n : Nat) (g : Binding → Binding) (x : Fld) : (s.setBind n g).on x = s.on x := rfl
@[simp] theorem State.setBind_engine (n : Nat) (g : Binding → Binding) (x : Nat) : (s.setBind n g).engine x = s.engine x := rfl

/-! ### setLb -/

@[simp] theorem State.setLb_regs (g : Bridge → Bridge) : (s.setLb g).regs = s.regs := rfl
@[simp] theorem State.setLb_shadow (g : Bridge → Bridge) : (s.setLb g).shadow = s.shadow := rfl
@[simp] theorem State.setLb_caseMem (g : Bridge → Bridge) : (s.setLb g).caseMem = s.caseMem := rfl
@[simp] theorem State.setLb_engSram (g : Bridge → Bridge) : (s.setLb g).engSram = s.engSram := rfl
@[simp] theorem State.setLb_engBank (g : Bridge → Bridge) : (s.setLb g).engBank = s.engBank := rfl
@[simp] theorem State.setLb_galley (g : Bridge → Bridge) : (s.setLb g).galley = s.galley := rfl
@[simp] theorem State.setLb_pimage (g : Bridge → Bridge) : (s.setLb g).pimage = s.pimage := rfl
@[simp] theorem State.setLb_flash (g : Bridge → Bridge) : (s.setLb g).flash = s.flash := rfl
@[simp] theorem State.setLb_elog (g : Bridge → Bridge) : (s.setLb g).elog = s.elog := rfl
@[simp] theorem State.setLb_ports (g : Bridge → Bridge) : (s.setLb g).ports = s.ports := rfl
@[simp] theorem State.setLb_lanes (g : Bridge → Bridge) : (s.setLb g).lanes = s.lanes := rfl
@[simp] theorem State.setLb_links (g : Bridge → Bridge) : (s.setLb g).links = s.links := rfl
@[simp] theorem State.setLb_jn (g : Bridge → Bridge) : (s.setLb g).jn = s.jn := rfl
@[simp] theorem State.setLb_imp (g : Bridge → Bridge) : (s.setLb g).imp = s.imp := rfl
@[simp] theorem State.setLb_pace (g : Bridge → Bridge) : (s.setLb g).pace = s.pace := rfl
@[simp] theorem State.setLb_eng (g : Bridge → Bridge) : (s.setLb g).eng = s.eng := rfl
@[simp] theorem State.setLb_tm (g : Bridge → Bridge) : (s.setLb g).tm = s.tm := rfl
@[simp] theorem State.setLb_svc (g : Bridge → Bridge) : (s.setLb g).svc = s.svc := rfl
@[simp] theorem State.setLb_rs (g : Bridge → Bridge) : (s.setLb g).rs = s.rs := rfl
@[simp] theorem State.setLb_fc (g : Bridge → Bridge) : (s.setLb g).fc = s.fc := rfl
@[simp] theorem State.setLb_display (g : Bridge → Bridge) : (s.setLb g).display = s.display := rfl
@[simp] theorem State.setLb_px (g : Bridge → Bridge) : (s.setLb g).px = s.px := rfl
@[simp] theorem State.setLb_eth (g : Bridge → Bridge) : (s.setLb g).eth = s.eth := rfl
@[simp] theorem State.setLb_pw (g : Bridge → Bridge) : (s.setLb g).pw = s.pw := rfl
@[simp] theorem State.setLb_dk (g : Bridge → Bridge) : (s.setLb g).dk = s.dk := rfl
@[simp] theorem State.setLb_tap (g : Bridge → Bridge) : (s.setLb g).tap = s.tap := rfl
@[simp] theorem State.setLb_mg (g : Bridge → Bridge) : (s.setLb g).mg = s.mg := rfl
@[simp] theorem State.setLb_out (g : Bridge → Bridge) : (s.setLb g).out = s.out := rfl
@[simp] theorem State.setLb_freeCtr (g : Bridge → Bridge) : (s.setLb g).freeCtr = s.freeCtr := rfl
@[simp] theorem State.setLb_pending (g : Bridge → Bridge) : (s.setLb g).pending = s.pending := rfl
@[simp] theorem State.setLb_reg (g : Bridge → Bridge) (x : Nat) : (s.setLb g).reg x = s.reg x := rfl
@[simp] theorem State.setLb_get (g : Bridge → Bridge) (x : Fld) : (s.setLb g).get x = s.get x := rfl
@[simp] theorem State.setLb_on (g : Bridge → Bridge) (x : Fld) : (s.setLb g).on x = s.on x := rfl
@[simp] theorem State.setLb_engine (g : Bridge → Bridge) (x : Nat) : (s.setLb g).engine x = s.engine x := rfl

/-! ### setDk -/

@[simp] theorem State.setDk_regs (g : Dock → Dock) : (s.setDk g).regs = s.regs := rfl
@[simp] theorem State.setDk_shadow (g : Dock → Dock) : (s.setDk g).shadow = s.shadow := rfl
@[simp] theorem State.setDk_caseMem (g : Dock → Dock) : (s.setDk g).caseMem = s.caseMem := rfl
@[simp] theorem State.setDk_engSram (g : Dock → Dock) : (s.setDk g).engSram = s.engSram := rfl
@[simp] theorem State.setDk_engBank (g : Dock → Dock) : (s.setDk g).engBank = s.engBank := rfl
@[simp] theorem State.setDk_galley (g : Dock → Dock) : (s.setDk g).galley = s.galley := rfl
@[simp] theorem State.setDk_pimage (g : Dock → Dock) : (s.setDk g).pimage = s.pimage := rfl
@[simp] theorem State.setDk_flash (g : Dock → Dock) : (s.setDk g).flash = s.flash := rfl
@[simp] theorem State.setDk_elog (g : Dock → Dock) : (s.setDk g).elog = s.elog := rfl
@[simp] theorem State.setDk_ports (g : Dock → Dock) : (s.setDk g).ports = s.ports := rfl
@[simp] theorem State.setDk_lanes (g : Dock → Dock) : (s.setDk g).lanes = s.lanes := rfl
@[simp] theorem State.setDk_links (g : Dock → Dock) : (s.setDk g).links = s.links := rfl
@[simp] theorem State.setDk_jn (g : Dock → Dock) : (s.setDk g).jn = s.jn := rfl
@[simp] theorem State.setDk_imp (g : Dock → Dock) : (s.setDk g).imp = s.imp := rfl
@[simp] theorem State.setDk_pace (g : Dock → Dock) : (s.setDk g).pace = s.pace := rfl
@[simp] theorem State.setDk_eng (g : Dock → Dock) : (s.setDk g).eng = s.eng := rfl
@[simp] theorem State.setDk_tm (g : Dock → Dock) : (s.setDk g).tm = s.tm := rfl
@[simp] theorem State.setDk_svc (g : Dock → Dock) : (s.setDk g).svc = s.svc := rfl
@[simp] theorem State.setDk_rs (g : Dock → Dock) : (s.setDk g).rs = s.rs := rfl
@[simp] theorem State.setDk_fc (g : Dock → Dock) : (s.setDk g).fc = s.fc := rfl
@[simp] theorem State.setDk_display (g : Dock → Dock) : (s.setDk g).display = s.display := rfl
@[simp] theorem State.setDk_px (g : Dock → Dock) : (s.setDk g).px = s.px := rfl
@[simp] theorem State.setDk_eth (g : Dock → Dock) : (s.setDk g).eth = s.eth := rfl
@[simp] theorem State.setDk_lb (g : Dock → Dock) : (s.setDk g).lb = s.lb := rfl
@[simp] theorem State.setDk_pw (g : Dock → Dock) : (s.setDk g).pw = s.pw := rfl
@[simp] theorem State.setDk_tap (g : Dock → Dock) : (s.setDk g).tap = s.tap := rfl
@[simp] theorem State.setDk_mg (g : Dock → Dock) : (s.setDk g).mg = s.mg := rfl
@[simp] theorem State.setDk_out (g : Dock → Dock) : (s.setDk g).out = s.out := rfl
@[simp] theorem State.setDk_freeCtr (g : Dock → Dock) : (s.setDk g).freeCtr = s.freeCtr := rfl
@[simp] theorem State.setDk_pending (g : Dock → Dock) : (s.setDk g).pending = s.pending := rfl
@[simp] theorem State.setDk_reg (g : Dock → Dock) (x : Nat) : (s.setDk g).reg x = s.reg x := rfl
@[simp] theorem State.setDk_get (g : Dock → Dock) (x : Fld) : (s.setDk g).get x = s.get x := rfl
@[simp] theorem State.setDk_on (g : Dock → Dock) (x : Fld) : (s.setDk g).on x = s.on x := rfl
@[simp] theorem State.setDk_engine (g : Dock → Dock) (x : Nat) : (s.setDk g).engine x = s.engine x := rfl

/-! ### setChan -/

@[simp] theorem State.setChan_regs (c : Nat) (g : Channel → Channel) : (s.setChan c g).regs = s.regs := rfl
@[simp] theorem State.setChan_shadow (c : Nat) (g : Channel → Channel) : (s.setChan c g).shadow = s.shadow := rfl
@[simp] theorem State.setChan_caseMem (c : Nat) (g : Channel → Channel) : (s.setChan c g).caseMem = s.caseMem := rfl
@[simp] theorem State.setChan_engSram (c : Nat) (g : Channel → Channel) : (s.setChan c g).engSram = s.engSram := rfl
@[simp] theorem State.setChan_engBank (c : Nat) (g : Channel → Channel) : (s.setChan c g).engBank = s.engBank := rfl
@[simp] theorem State.setChan_galley (c : Nat) (g : Channel → Channel) : (s.setChan c g).galley = s.galley := rfl
@[simp] theorem State.setChan_pimage (c : Nat) (g : Channel → Channel) : (s.setChan c g).pimage = s.pimage := rfl
@[simp] theorem State.setChan_flash (c : Nat) (g : Channel → Channel) : (s.setChan c g).flash = s.flash := rfl
@[simp] theorem State.setChan_elog (c : Nat) (g : Channel → Channel) : (s.setChan c g).elog = s.elog := rfl
@[simp] theorem State.setChan_ports (c : Nat) (g : Channel → Channel) : (s.setChan c g).ports = s.ports := rfl
@[simp] theorem State.setChan_lanes (c : Nat) (g : Channel → Channel) : (s.setChan c g).lanes = s.lanes := rfl
@[simp] theorem State.setChan_links (c : Nat) (g : Channel → Channel) : (s.setChan c g).links = s.links := rfl
@[simp] theorem State.setChan_jn (c : Nat) (g : Channel → Channel) : (s.setChan c g).jn = s.jn := rfl
@[simp] theorem State.setChan_imp (c : Nat) (g : Channel → Channel) : (s.setChan c g).imp = s.imp := rfl
@[simp] theorem State.setChan_pace (c : Nat) (g : Channel → Channel) : (s.setChan c g).pace = s.pace := rfl
@[simp] theorem State.setChan_eng (c : Nat) (g : Channel → Channel) : (s.setChan c g).eng = s.eng := rfl
@[simp] theorem State.setChan_tm (c : Nat) (g : Channel → Channel) : (s.setChan c g).tm = s.tm := rfl
@[simp] theorem State.setChan_svc (c : Nat) (g : Channel → Channel) : (s.setChan c g).svc = s.svc := rfl
@[simp] theorem State.setChan_rs (c : Nat) (g : Channel → Channel) : (s.setChan c g).rs = s.rs := rfl
@[simp] theorem State.setChan_fc (c : Nat) (g : Channel → Channel) : (s.setChan c g).fc = s.fc := rfl
@[simp] theorem State.setChan_display (c : Nat) (g : Channel → Channel) : (s.setChan c g).display = s.display := rfl
@[simp] theorem State.setChan_px (c : Nat) (g : Channel → Channel) : (s.setChan c g).px = s.px := rfl
@[simp] theorem State.setChan_eth (c : Nat) (g : Channel → Channel) : (s.setChan c g).eth = s.eth := rfl
@[simp] theorem State.setChan_lb (c : Nat) (g : Channel → Channel) : (s.setChan c g).lb = s.lb := rfl
@[simp] theorem State.setChan_pw (c : Nat) (g : Channel → Channel) : (s.setChan c g).pw = s.pw := rfl
@[simp] theorem State.setChan_tap (c : Nat) (g : Channel → Channel) : (s.setChan c g).tap = s.tap := rfl
@[simp] theorem State.setChan_mg (c : Nat) (g : Channel → Channel) : (s.setChan c g).mg = s.mg := rfl
@[simp] theorem State.setChan_out (c : Nat) (g : Channel → Channel) : (s.setChan c g).out = s.out := rfl
@[simp] theorem State.setChan_freeCtr (c : Nat) (g : Channel → Channel) : (s.setChan c g).freeCtr = s.freeCtr := rfl
@[simp] theorem State.setChan_pending (c : Nat) (g : Channel → Channel) : (s.setChan c g).pending = s.pending := rfl
@[simp] theorem State.setChan_reg (c : Nat) (g : Channel → Channel) (x : Nat) : (s.setChan c g).reg x = s.reg x := rfl
@[simp] theorem State.setChan_get (c : Nat) (g : Channel → Channel) (x : Fld) : (s.setChan c g).get x = s.get x := rfl
@[simp] theorem State.setChan_on (c : Nat) (g : Channel → Channel) (x : Fld) : (s.setChan c g).on x = s.on x := rfl
@[simp] theorem State.setChan_engine (c : Nat) (g : Channel → Channel) (x : Nat) : (s.setChan c g).engine x = s.engine x := rfl

/-! ### setWm -/

@[simp] theorem State.setWm_regs (n : Nat) (g : Waymark → Waymark) : (s.setWm n g).regs = s.regs := rfl
@[simp] theorem State.setWm_shadow (n : Nat) (g : Waymark → Waymark) : (s.setWm n g).shadow = s.shadow := rfl
@[simp] theorem State.setWm_caseMem (n : Nat) (g : Waymark → Waymark) : (s.setWm n g).caseMem = s.caseMem := rfl
@[simp] theorem State.setWm_engSram (n : Nat) (g : Waymark → Waymark) : (s.setWm n g).engSram = s.engSram := rfl
@[simp] theorem State.setWm_engBank (n : Nat) (g : Waymark → Waymark) : (s.setWm n g).engBank = s.engBank := rfl
@[simp] theorem State.setWm_galley (n : Nat) (g : Waymark → Waymark) : (s.setWm n g).galley = s.galley := rfl
@[simp] theorem State.setWm_pimage (n : Nat) (g : Waymark → Waymark) : (s.setWm n g).pimage = s.pimage := rfl
@[simp] theorem State.setWm_flash (n : Nat) (g : Waymark → Waymark) : (s.setWm n g).flash = s.flash := rfl
@[simp] theorem State.setWm_elog (n : Nat) (g : Waymark → Waymark) : (s.setWm n g).elog = s.elog := rfl
@[simp] theorem State.setWm_ports (n : Nat) (g : Waymark → Waymark) : (s.setWm n g).ports = s.ports := rfl
@[simp] theorem State.setWm_lanes (n : Nat) (g : Waymark → Waymark) : (s.setWm n g).lanes = s.lanes := rfl
@[simp] theorem State.setWm_links (n : Nat) (g : Waymark → Waymark) : (s.setWm n g).links = s.links := rfl
@[simp] theorem State.setWm_jn (n : Nat) (g : Waymark → Waymark) : (s.setWm n g).jn = s.jn := rfl
@[simp] theorem State.setWm_imp (n : Nat) (g : Waymark → Waymark) : (s.setWm n g).imp = s.imp := rfl
@[simp] theorem State.setWm_pace (n : Nat) (g : Waymark → Waymark) : (s.setWm n g).pace = s.pace := rfl
@[simp] theorem State.setWm_eng (n : Nat) (g : Waymark → Waymark) : (s.setWm n g).eng = s.eng := rfl
@[simp] theorem State.setWm_svc (n : Nat) (g : Waymark → Waymark) : (s.setWm n g).svc = s.svc := rfl
@[simp] theorem State.setWm_rs (n : Nat) (g : Waymark → Waymark) : (s.setWm n g).rs = s.rs := rfl
@[simp] theorem State.setWm_fc (n : Nat) (g : Waymark → Waymark) : (s.setWm n g).fc = s.fc := rfl
@[simp] theorem State.setWm_display (n : Nat) (g : Waymark → Waymark) : (s.setWm n g).display = s.display := rfl
@[simp] theorem State.setWm_px (n : Nat) (g : Waymark → Waymark) : (s.setWm n g).px = s.px := rfl
@[simp] theorem State.setWm_eth (n : Nat) (g : Waymark → Waymark) : (s.setWm n g).eth = s.eth := rfl
@[simp] theorem State.setWm_lb (n : Nat) (g : Waymark → Waymark) : (s.setWm n g).lb = s.lb := rfl
@[simp] theorem State.setWm_pw (n : Nat) (g : Waymark → Waymark) : (s.setWm n g).pw = s.pw := rfl
@[simp] theorem State.setWm_dk (n : Nat) (g : Waymark → Waymark) : (s.setWm n g).dk = s.dk := rfl
@[simp] theorem State.setWm_tap (n : Nat) (g : Waymark → Waymark) : (s.setWm n g).tap = s.tap := rfl
@[simp] theorem State.setWm_mg (n : Nat) (g : Waymark → Waymark) : (s.setWm n g).mg = s.mg := rfl
@[simp] theorem State.setWm_out (n : Nat) (g : Waymark → Waymark) : (s.setWm n g).out = s.out := rfl
@[simp] theorem State.setWm_freeCtr (n : Nat) (g : Waymark → Waymark) : (s.setWm n g).freeCtr = s.freeCtr := rfl
@[simp] theorem State.setWm_pending (n : Nat) (g : Waymark → Waymark) : (s.setWm n g).pending = s.pending := rfl
@[simp] theorem State.setWm_reg (n : Nat) (g : Waymark → Waymark) (x : Nat) : (s.setWm n g).reg x = s.reg x := rfl
@[simp] theorem State.setWm_get (n : Nat) (g : Waymark → Waymark) (x : Fld) : (s.setWm n g).get x = s.get x := rfl
@[simp] theorem State.setWm_on (n : Nat) (g : Waymark → Waymark) (x : Fld) : (s.setWm n g).on x = s.on x := rfl
@[simp] theorem State.setWm_engine (n : Nat) (g : Waymark → Waymark) (x : Nat) : (s.setWm n g).engine x = s.engine x := rfl

/-! ### setPtp -/

@[simp] theorem State.setPtp_regs (e : Nat) (g : PtpPort → PtpPort) : (s.setPtp e g).regs = s.regs := rfl
@[simp] theorem State.setPtp_shadow (e : Nat) (g : PtpPort → PtpPort) : (s.setPtp e g).shadow = s.shadow := rfl
@[simp] theorem State.setPtp_caseMem (e : Nat) (g : PtpPort → PtpPort) : (s.setPtp e g).caseMem = s.caseMem := rfl
@[simp] theorem State.setPtp_engSram (e : Nat) (g : PtpPort → PtpPort) : (s.setPtp e g).engSram = s.engSram := rfl
@[simp] theorem State.setPtp_engBank (e : Nat) (g : PtpPort → PtpPort) : (s.setPtp e g).engBank = s.engBank := rfl
@[simp] theorem State.setPtp_galley (e : Nat) (g : PtpPort → PtpPort) : (s.setPtp e g).galley = s.galley := rfl
@[simp] theorem State.setPtp_pimage (e : Nat) (g : PtpPort → PtpPort) : (s.setPtp e g).pimage = s.pimage := rfl
@[simp] theorem State.setPtp_flash (e : Nat) (g : PtpPort → PtpPort) : (s.setPtp e g).flash = s.flash := rfl
@[simp] theorem State.setPtp_elog (e : Nat) (g : PtpPort → PtpPort) : (s.setPtp e g).elog = s.elog := rfl
@[simp] theorem State.setPtp_ports (e : Nat) (g : PtpPort → PtpPort) : (s.setPtp e g).ports = s.ports := rfl
@[simp] theorem State.setPtp_lanes (e : Nat) (g : PtpPort → PtpPort) : (s.setPtp e g).lanes = s.lanes := rfl
@[simp] theorem State.setPtp_links (e : Nat) (g : PtpPort → PtpPort) : (s.setPtp e g).links = s.links := rfl
@[simp] theorem State.setPtp_jn (e : Nat) (g : PtpPort → PtpPort) : (s.setPtp e g).jn = s.jn := rfl
@[simp] theorem State.setPtp_imp (e : Nat) (g : PtpPort → PtpPort) : (s.setPtp e g).imp = s.imp := rfl
@[simp] theorem State.setPtp_pace (e : Nat) (g : PtpPort → PtpPort) : (s.setPtp e g).pace = s.pace := rfl
@[simp] theorem State.setPtp_eng (e : Nat) (g : PtpPort → PtpPort) : (s.setPtp e g).eng = s.eng := rfl
@[simp] theorem State.setPtp_svc (e : Nat) (g : PtpPort → PtpPort) : (s.setPtp e g).svc = s.svc := rfl
@[simp] theorem State.setPtp_rs (e : Nat) (g : PtpPort → PtpPort) : (s.setPtp e g).rs = s.rs := rfl
@[simp] theorem State.setPtp_fc (e : Nat) (g : PtpPort → PtpPort) : (s.setPtp e g).fc = s.fc := rfl
@[simp] theorem State.setPtp_display (e : Nat) (g : PtpPort → PtpPort) : (s.setPtp e g).display = s.display := rfl
@[simp] theorem State.setPtp_px (e : Nat) (g : PtpPort → PtpPort) : (s.setPtp e g).px = s.px := rfl
@[simp] theorem State.setPtp_eth (e : Nat) (g : PtpPort → PtpPort) : (s.setPtp e g).eth = s.eth := rfl
@[simp] theorem State.setPtp_lb (e : Nat) (g : PtpPort → PtpPort) : (s.setPtp e g).lb = s.lb := rfl
@[simp] theorem State.setPtp_pw (e : Nat) (g : PtpPort → PtpPort) : (s.setPtp e g).pw = s.pw := rfl
@[simp] theorem State.setPtp_dk (e : Nat) (g : PtpPort → PtpPort) : (s.setPtp e g).dk = s.dk := rfl
@[simp] theorem State.setPtp_tap (e : Nat) (g : PtpPort → PtpPort) : (s.setPtp e g).tap = s.tap := rfl
@[simp] theorem State.setPtp_mg (e : Nat) (g : PtpPort → PtpPort) : (s.setPtp e g).mg = s.mg := rfl
@[simp] theorem State.setPtp_out (e : Nat) (g : PtpPort → PtpPort) : (s.setPtp e g).out = s.out := rfl
@[simp] theorem State.setPtp_freeCtr (e : Nat) (g : PtpPort → PtpPort) : (s.setPtp e g).freeCtr = s.freeCtr := rfl
@[simp] theorem State.setPtp_pending (e : Nat) (g : PtpPort → PtpPort) : (s.setPtp e g).pending = s.pending := rfl
@[simp] theorem State.setPtp_reg (e : Nat) (g : PtpPort → PtpPort) (x : Nat) : (s.setPtp e g).reg x = s.reg x := rfl
@[simp] theorem State.setPtp_get (e : Nat) (g : PtpPort → PtpPort) (x : Fld) : (s.setPtp e g).get x = s.get x := rfl
@[simp] theorem State.setPtp_on (e : Nat) (g : PtpPort → PtpPort) (x : Fld) : (s.setPtp e g).on x = s.on x := rfl
@[simp] theorem State.setPtp_engine (e : Nat) (g : PtpPort → PtpPort) (x : Nat) : (s.setPtp e g).engine x = s.engine x := rfl

/-! ### setTap -/

@[simp] theorem State.setTap_regs (g : Tap → Tap) : (s.setTap g).regs = s.regs := rfl
@[simp] theorem State.setTap_shadow (g : Tap → Tap) : (s.setTap g).shadow = s.shadow := rfl
@[simp] theorem State.setTap_caseMem (g : Tap → Tap) : (s.setTap g).caseMem = s.caseMem := rfl
@[simp] theorem State.setTap_engSram (g : Tap → Tap) : (s.setTap g).engSram = s.engSram := rfl
@[simp] theorem State.setTap_engBank (g : Tap → Tap) : (s.setTap g).engBank = s.engBank := rfl
@[simp] theorem State.setTap_galley (g : Tap → Tap) : (s.setTap g).galley = s.galley := rfl
@[simp] theorem State.setTap_pimage (g : Tap → Tap) : (s.setTap g).pimage = s.pimage := rfl
@[simp] theorem State.setTap_flash (g : Tap → Tap) : (s.setTap g).flash = s.flash := rfl
@[simp] theorem State.setTap_elog (g : Tap → Tap) : (s.setTap g).elog = s.elog := rfl
@[simp] theorem State.setTap_ports (g : Tap → Tap) : (s.setTap g).ports = s.ports := rfl
@[simp] theorem State.setTap_lanes (g : Tap → Tap) : (s.setTap g).lanes = s.lanes := rfl
@[simp] theorem State.setTap_links (g : Tap → Tap) : (s.setTap g).links = s.links := rfl
@[simp] theorem State.setTap_jn (g : Tap → Tap) : (s.setTap g).jn = s.jn := rfl
@[simp] theorem State.setTap_imp (g : Tap → Tap) : (s.setTap g).imp = s.imp := rfl
@[simp] theorem State.setTap_pace (g : Tap → Tap) : (s.setTap g).pace = s.pace := rfl
@[simp] theorem State.setTap_eng (g : Tap → Tap) : (s.setTap g).eng = s.eng := rfl
@[simp] theorem State.setTap_tm (g : Tap → Tap) : (s.setTap g).tm = s.tm := rfl
@[simp] theorem State.setTap_svc (g : Tap → Tap) : (s.setTap g).svc = s.svc := rfl
@[simp] theorem State.setTap_rs (g : Tap → Tap) : (s.setTap g).rs = s.rs := rfl
@[simp] theorem State.setTap_fc (g : Tap → Tap) : (s.setTap g).fc = s.fc := rfl
@[simp] theorem State.setTap_display (g : Tap → Tap) : (s.setTap g).display = s.display := rfl
@[simp] theorem State.setTap_px (g : Tap → Tap) : (s.setTap g).px = s.px := rfl
@[simp] theorem State.setTap_eth (g : Tap → Tap) : (s.setTap g).eth = s.eth := rfl
@[simp] theorem State.setTap_lb (g : Tap → Tap) : (s.setTap g).lb = s.lb := rfl
@[simp] theorem State.setTap_pw (g : Tap → Tap) : (s.setTap g).pw = s.pw := rfl
@[simp] theorem State.setTap_dk (g : Tap → Tap) : (s.setTap g).dk = s.dk := rfl
@[simp] theorem State.setTap_mg (g : Tap → Tap) : (s.setTap g).mg = s.mg := rfl
@[simp] theorem State.setTap_out (g : Tap → Tap) : (s.setTap g).out = s.out := rfl
@[simp] theorem State.setTap_freeCtr (g : Tap → Tap) : (s.setTap g).freeCtr = s.freeCtr := rfl
@[simp] theorem State.setTap_pending (g : Tap → Tap) : (s.setTap g).pending = s.pending := rfl
@[simp] theorem State.setTap_reg (g : Tap → Tap) (x : Nat) : (s.setTap g).reg x = s.reg x := rfl
@[simp] theorem State.setTap_get (g : Tap → Tap) (x : Fld) : (s.setTap g).get x = s.get x := rfl
@[simp] theorem State.setTap_on (g : Tap → Tap) (x : Fld) : (s.setTap g).on x = s.on x := rfl
@[simp] theorem State.setTap_engine (g : Tap → Tap) (x : Nat) : (s.setTap g).engine x = s.engine x := rfl

/-! ### setMg -/

@[simp] theorem State.setMg_regs (g : Mgmt → Mgmt) : (s.setMg g).regs = s.regs := rfl
@[simp] theorem State.setMg_shadow (g : Mgmt → Mgmt) : (s.setMg g).shadow = s.shadow := rfl
@[simp] theorem State.setMg_caseMem (g : Mgmt → Mgmt) : (s.setMg g).caseMem = s.caseMem := rfl
@[simp] theorem State.setMg_engSram (g : Mgmt → Mgmt) : (s.setMg g).engSram = s.engSram := rfl
@[simp] theorem State.setMg_engBank (g : Mgmt → Mgmt) : (s.setMg g).engBank = s.engBank := rfl
@[simp] theorem State.setMg_galley (g : Mgmt → Mgmt) : (s.setMg g).galley = s.galley := rfl
@[simp] theorem State.setMg_pimage (g : Mgmt → Mgmt) : (s.setMg g).pimage = s.pimage := rfl
@[simp] theorem State.setMg_flash (g : Mgmt → Mgmt) : (s.setMg g).flash = s.flash := rfl
@[simp] theorem State.setMg_elog (g : Mgmt → Mgmt) : (s.setMg g).elog = s.elog := rfl
@[simp] theorem State.setMg_ports (g : Mgmt → Mgmt) : (s.setMg g).ports = s.ports := rfl
@[simp] theorem State.setMg_lanes (g : Mgmt → Mgmt) : (s.setMg g).lanes = s.lanes := rfl
@[simp] theorem State.setMg_links (g : Mgmt → Mgmt) : (s.setMg g).links = s.links := rfl
@[simp] theorem State.setMg_jn (g : Mgmt → Mgmt) : (s.setMg g).jn = s.jn := rfl
@[simp] theorem State.setMg_imp (g : Mgmt → Mgmt) : (s.setMg g).imp = s.imp := rfl
@[simp] theorem State.setMg_pace (g : Mgmt → Mgmt) : (s.setMg g).pace = s.pace := rfl
@[simp] theorem State.setMg_eng (g : Mgmt → Mgmt) : (s.setMg g).eng = s.eng := rfl
@[simp] theorem State.setMg_tm (g : Mgmt → Mgmt) : (s.setMg g).tm = s.tm := rfl
@[simp] theorem State.setMg_svc (g : Mgmt → Mgmt) : (s.setMg g).svc = s.svc := rfl
@[simp] theorem State.setMg_rs (g : Mgmt → Mgmt) : (s.setMg g).rs = s.rs := rfl
@[simp] theorem State.setMg_fc (g : Mgmt → Mgmt) : (s.setMg g).fc = s.fc := rfl
@[simp] theorem State.setMg_display (g : Mgmt → Mgmt) : (s.setMg g).display = s.display := rfl
@[simp] theorem State.setMg_px (g : Mgmt → Mgmt) : (s.setMg g).px = s.px := rfl
@[simp] theorem State.setMg_eth (g : Mgmt → Mgmt) : (s.setMg g).eth = s.eth := rfl
@[simp] theorem State.setMg_lb (g : Mgmt → Mgmt) : (s.setMg g).lb = s.lb := rfl
@[simp] theorem State.setMg_pw (g : Mgmt → Mgmt) : (s.setMg g).pw = s.pw := rfl
@[simp] theorem State.setMg_dk (g : Mgmt → Mgmt) : (s.setMg g).dk = s.dk := rfl
@[simp] theorem State.setMg_tap (g : Mgmt → Mgmt) : (s.setMg g).tap = s.tap := rfl
@[simp] theorem State.setMg_out (g : Mgmt → Mgmt) : (s.setMg g).out = s.out := rfl
@[simp] theorem State.setMg_freeCtr (g : Mgmt → Mgmt) : (s.setMg g).freeCtr = s.freeCtr := rfl
@[simp] theorem State.setMg_pending (g : Mgmt → Mgmt) : (s.setMg g).pending = s.pending := rfl
@[simp] theorem State.setMg_reg (g : Mgmt → Mgmt) (x : Nat) : (s.setMg g).reg x = s.reg x := rfl
@[simp] theorem State.setMg_get (g : Mgmt → Mgmt) (x : Fld) : (s.setMg g).get x = s.get x := rfl
@[simp] theorem State.setMg_on (g : Mgmt → Mgmt) (x : Fld) : (s.setMg g).on x = s.on x := rfl
@[simp] theorem State.setMg_engine (g : Mgmt → Mgmt) (x : Nat) : (s.setMg g).engine x = s.engine x := rfl

/-! ### setCase -/

@[simp] theorem State.setCase_regs (a k v : Nat) : (s.setCase a k v).regs = s.regs := rfl
@[simp] theorem State.setCase_shadow (a k v : Nat) : (s.setCase a k v).shadow = s.shadow := rfl
@[simp] theorem State.setCase_engSram (a k v : Nat) : (s.setCase a k v).engSram = s.engSram := rfl
@[simp] theorem State.setCase_engBank (a k v : Nat) : (s.setCase a k v).engBank = s.engBank := rfl
@[simp] theorem State.setCase_galley (a k v : Nat) : (s.setCase a k v).galley = s.galley := rfl
@[simp] theorem State.setCase_pimage (a k v : Nat) : (s.setCase a k v).pimage = s.pimage := rfl
@[simp] theorem State.setCase_flash (a k v : Nat) : (s.setCase a k v).flash = s.flash := rfl
@[simp] theorem State.setCase_elog (a k v : Nat) : (s.setCase a k v).elog = s.elog := rfl
@[simp] theorem State.setCase_ports (a k v : Nat) : (s.setCase a k v).ports = s.ports := rfl
@[simp] theorem State.setCase_lanes (a k v : Nat) : (s.setCase a k v).lanes = s.lanes := rfl
@[simp] theorem State.setCase_links (a k v : Nat) : (s.setCase a k v).links = s.links := rfl
@[simp] theorem State.setCase_jn (a k v : Nat) : (s.setCase a k v).jn = s.jn := rfl
@[simp] theorem State.setCase_imp (a k v : Nat) : (s.setCase a k v).imp = s.imp := rfl
@[simp] theorem State.setCase_pace (a k v : Nat) : (s.setCase a k v).pace = s.pace := rfl
@[simp] theorem State.setCase_eng (a k v : Nat) : (s.setCase a k v).eng = s.eng := rfl
@[simp] theorem State.setCase_tm (a k v : Nat) : (s.setCase a k v).tm = s.tm := rfl
@[simp] theorem State.setCase_svc (a k v : Nat) : (s.setCase a k v).svc = s.svc := rfl
@[simp] theorem State.setCase_rs (a k v : Nat) : (s.setCase a k v).rs = s.rs := rfl
@[simp] theorem State.setCase_fc (a k v : Nat) : (s.setCase a k v).fc = s.fc := rfl
@[simp] theorem State.setCase_display (a k v : Nat) : (s.setCase a k v).display = s.display := rfl
@[simp] theorem State.setCase_px (a k v : Nat) : (s.setCase a k v).px = s.px := rfl
@[simp] theorem State.setCase_eth (a k v : Nat) : (s.setCase a k v).eth = s.eth := rfl
@[simp] theorem State.setCase_lb (a k v : Nat) : (s.setCase a k v).lb = s.lb := rfl
@[simp] theorem State.setCase_pw (a k v : Nat) : (s.setCase a k v).pw = s.pw := rfl
@[simp] theorem State.setCase_dk (a k v : Nat) : (s.setCase a k v).dk = s.dk := rfl
@[simp] theorem State.setCase_tap (a k v : Nat) : (s.setCase a k v).tap = s.tap := rfl
@[simp] theorem State.setCase_mg (a k v : Nat) : (s.setCase a k v).mg = s.mg := rfl
@[simp] theorem State.setCase_out (a k v : Nat) : (s.setCase a k v).out = s.out := rfl
@[simp] theorem State.setCase_freeCtr (a k v : Nat) : (s.setCase a k v).freeCtr = s.freeCtr := rfl
@[simp] theorem State.setCase_pending (a k v : Nat) : (s.setCase a k v).pending = s.pending := rfl
@[simp] theorem State.setCase_reg (a k v : Nat) (x : Nat) : (s.setCase a k v).reg x = s.reg x := rfl
@[simp] theorem State.setCase_get (a k v : Nat) (x : Fld) : (s.setCase a k v).get x = s.get x := rfl
@[simp] theorem State.setCase_on (a k v : Nat) (x : Fld) : (s.setCase a k v).on x = s.on x := rfl
@[simp] theorem State.setCase_engine (a k v : Nat) (x : Nat) : (s.setCase a k v).engine x = s.engine x := rfl

/-! ### setCaseBytes -/

@[simp] theorem State.setCaseBytes_regs (a : Nat) (bs : List Byte) : (s.setCaseBytes a bs).regs = s.regs := rfl
@[simp] theorem State.setCaseBytes_shadow (a : Nat) (bs : List Byte) : (s.setCaseBytes a bs).shadow = s.shadow := rfl
@[simp] theorem State.setCaseBytes_engSram (a : Nat) (bs : List Byte) : (s.setCaseBytes a bs).engSram = s.engSram := rfl
@[simp] theorem State.setCaseBytes_engBank (a : Nat) (bs : List Byte) : (s.setCaseBytes a bs).engBank = s.engBank := rfl
@[simp] theorem State.setCaseBytes_galley (a : Nat) (bs : List Byte) : (s.setCaseBytes a bs).galley = s.galley := rfl
@[simp] theorem State.setCaseBytes_pimage (a : Nat) (bs : List Byte) : (s.setCaseBytes a bs).pimage = s.pimage := rfl
@[simp] theorem State.setCaseBytes_flash (a : Nat) (bs : List Byte) : (s.setCaseBytes a bs).flash = s.flash := rfl
@[simp] theorem State.setCaseBytes_elog (a : Nat) (bs : List Byte) : (s.setCaseBytes a bs).elog = s.elog := rfl
@[simp] theorem State.setCaseBytes_ports (a : Nat) (bs : List Byte) : (s.setCaseBytes a bs).ports = s.ports := rfl
@[simp] theorem State.setCaseBytes_lanes (a : Nat) (bs : List Byte) : (s.setCaseBytes a bs).lanes = s.lanes := rfl
@[simp] theorem State.setCaseBytes_links (a : Nat) (bs : List Byte) : (s.setCaseBytes a bs).links = s.links := rfl
@[simp] theorem State.setCaseBytes_jn (a : Nat) (bs : List Byte) : (s.setCaseBytes a bs).jn = s.jn := rfl
@[simp] theorem State.setCaseBytes_imp (a : Nat) (bs : List Byte) : (s.setCaseBytes a bs).imp = s.imp := rfl
@[simp] theorem State.setCaseBytes_pace (a : Nat) (bs : List Byte) : (s.setCaseBytes a bs).pace = s.pace := rfl
@[simp] theorem State.setCaseBytes_eng (a : Nat) (bs : List Byte) : (s.setCaseBytes a bs).eng = s.eng := rfl
@[simp] theorem State.setCaseBytes_tm (a : Nat) (bs : List Byte) : (s.setCaseBytes a bs).tm = s.tm := rfl
@[simp] theorem State.setCaseBytes_svc (a : Nat) (bs : List Byte) : (s.setCaseBytes a bs).svc = s.svc := rfl
@[simp] theorem State.setCaseBytes_rs (a : Nat) (bs : List Byte) : (s.setCaseBytes a bs).rs = s.rs := rfl
@[simp] theorem State.setCaseBytes_fc (a : Nat) (bs : List Byte) : (s.setCaseBytes a bs).fc = s.fc := rfl
@[simp] theorem State.setCaseBytes_display (a : Nat) (bs : List Byte) : (s.setCaseBytes a bs).display = s.display := rfl
@[simp] theorem State.setCaseBytes_px (a : Nat) (bs : List Byte) : (s.setCaseBytes a bs).px = s.px := rfl
@[simp] theorem State.setCaseBytes_eth (a : Nat) (bs : List Byte) : (s.setCaseBytes a bs).eth = s.eth := rfl
@[simp] theorem State.setCaseBytes_lb (a : Nat) (bs : List Byte) : (s.setCaseBytes a bs).lb = s.lb := rfl
@[simp] theorem State.setCaseBytes_pw (a : Nat) (bs : List Byte) : (s.setCaseBytes a bs).pw = s.pw := rfl
@[simp] theorem State.setCaseBytes_dk (a : Nat) (bs : List Byte) : (s.setCaseBytes a bs).dk = s.dk := rfl
@[simp] theorem State.setCaseBytes_tap (a : Nat) (bs : List Byte) : (s.setCaseBytes a bs).tap = s.tap := rfl
@[simp] theorem State.setCaseBytes_mg (a : Nat) (bs : List Byte) : (s.setCaseBytes a bs).mg = s.mg := rfl
@[simp] theorem State.setCaseBytes_out (a : Nat) (bs : List Byte) : (s.setCaseBytes a bs).out = s.out := rfl
@[simp] theorem State.setCaseBytes_freeCtr (a : Nat) (bs : List Byte) : (s.setCaseBytes a bs).freeCtr = s.freeCtr := rfl
@[simp] theorem State.setCaseBytes_pending (a : Nat) (bs : List Byte) : (s.setCaseBytes a bs).pending = s.pending := rfl
@[simp] theorem State.setCaseBytes_reg (a : Nat) (bs : List Byte) (x : Nat) : (s.setCaseBytes a bs).reg x = s.reg x := rfl
@[simp] theorem State.setCaseBytes_get (a : Nat) (bs : List Byte) (x : Fld) : (s.setCaseBytes a bs).get x = s.get x := rfl
@[simp] theorem State.setCaseBytes_on (a : Nat) (bs : List Byte) (x : Fld) : (s.setCaseBytes a bs).on x = s.on x := rfl
@[simp] theorem State.setCaseBytes_engine (a : Nat) (bs : List Byte) (x : Nat) : (s.setCaseBytes a bs).engine x = s.engine x := rfl

/-! ### emit -/

@[simp] theorem State.emit_regs (o : Out) : (s.emit o).regs = s.regs := rfl
@[simp] theorem State.emit_shadow (o : Out) : (s.emit o).shadow = s.shadow := rfl
@[simp] theorem State.emit_caseMem (o : Out) : (s.emit o).caseMem = s.caseMem := rfl
@[simp] theorem State.emit_engSram (o : Out) : (s.emit o).engSram = s.engSram := rfl
@[simp] theorem State.emit_engBank (o : Out) : (s.emit o).engBank = s.engBank := rfl
@[simp] theorem State.emit_galley (o : Out) : (s.emit o).galley = s.galley := rfl
@[simp] theorem State.emit_pimage (o : Out) : (s.emit o).pimage = s.pimage := rfl
@[simp] theorem State.emit_flash (o : Out) : (s.emit o).flash = s.flash := rfl
@[simp] theorem State.emit_elog (o : Out) : (s.emit o).elog = s.elog := rfl
@[simp] theorem State.emit_ports (o : Out) : (s.emit o).ports = s.ports := rfl
@[simp] theorem State.emit_lanes (o : Out) : (s.emit o).lanes = s.lanes := rfl
@[simp] theorem State.emit_links (o : Out) : (s.emit o).links = s.links := rfl
@[simp] theorem State.emit_jn (o : Out) : (s.emit o).jn = s.jn := rfl
@[simp] theorem State.emit_imp (o : Out) : (s.emit o).imp = s.imp := rfl
@[simp] theorem State.emit_pace (o : Out) : (s.emit o).pace = s.pace := rfl
@[simp] theorem State.emit_eng (o : Out) : (s.emit o).eng = s.eng := rfl
@[simp] theorem State.emit_tm (o : Out) : (s.emit o).tm = s.tm := rfl
@[simp] theorem State.emit_svc (o : Out) : (s.emit o).svc = s.svc := rfl
@[simp] theorem State.emit_rs (o : Out) : (s.emit o).rs = s.rs := rfl
@[simp] theorem State.emit_fc (o : Out) : (s.emit o).fc = s.fc := rfl
@[simp] theorem State.emit_display (o : Out) : (s.emit o).display = s.display := rfl
@[simp] theorem State.emit_px (o : Out) : (s.emit o).px = s.px := rfl
@[simp] theorem State.emit_eth (o : Out) : (s.emit o).eth = s.eth := rfl
@[simp] theorem State.emit_lb (o : Out) : (s.emit o).lb = s.lb := rfl
@[simp] theorem State.emit_pw (o : Out) : (s.emit o).pw = s.pw := rfl
@[simp] theorem State.emit_dk (o : Out) : (s.emit o).dk = s.dk := rfl
@[simp] theorem State.emit_tap (o : Out) : (s.emit o).tap = s.tap := rfl
@[simp] theorem State.emit_mg (o : Out) : (s.emit o).mg = s.mg := rfl
@[simp] theorem State.emit_freeCtr (o : Out) : (s.emit o).freeCtr = s.freeCtr := rfl
@[simp] theorem State.emit_pending (o : Out) : (s.emit o).pending = s.pending := rfl
@[simp] theorem State.emit_reg (o : Out) (x : Nat) : (s.emit o).reg x = s.reg x := rfl
@[simp] theorem State.emit_get (o : Out) (x : Fld) : (s.emit o).get x = s.get x := rfl
@[simp] theorem State.emit_on (o : Out) (x : Fld) : (s.emit o).on x = s.on x := rfl
@[simp] theorem State.emit_engine (o : Out) (x : Nat) : (s.emit o).engine x = s.engine x := rfl

/-! ### usedFree -/

@[simp] theorem State.usedFree_regs  : (s.usedFree).regs = s.regs := rfl
@[simp] theorem State.usedFree_shadow  : (s.usedFree).shadow = s.shadow := rfl
@[simp] theorem State.usedFree_caseMem  : (s.usedFree).caseMem = s.caseMem := rfl
@[simp] theorem State.usedFree_engSram  : (s.usedFree).engSram = s.engSram := rfl
@[simp] theorem State.usedFree_engBank  : (s.usedFree).engBank = s.engBank := rfl
@[simp] theorem State.usedFree_galley  : (s.usedFree).galley = s.galley := rfl
@[simp] theorem State.usedFree_pimage  : (s.usedFree).pimage = s.pimage := rfl
@[simp] theorem State.usedFree_flash  : (s.usedFree).flash = s.flash := rfl
@[simp] theorem State.usedFree_elog  : (s.usedFree).elog = s.elog := rfl
@[simp] theorem State.usedFree_ports  : (s.usedFree).ports = s.ports := rfl
@[simp] theorem State.usedFree_lanes  : (s.usedFree).lanes = s.lanes := rfl
@[simp] theorem State.usedFree_links  : (s.usedFree).links = s.links := rfl
@[simp] theorem State.usedFree_jn  : (s.usedFree).jn = s.jn := rfl
@[simp] theorem State.usedFree_imp  : (s.usedFree).imp = s.imp := rfl
@[simp] theorem State.usedFree_pace  : (s.usedFree).pace = s.pace := rfl
@[simp] theorem State.usedFree_eng  : (s.usedFree).eng = s.eng := rfl
@[simp] theorem State.usedFree_tm  : (s.usedFree).tm = s.tm := rfl
@[simp] theorem State.usedFree_svc  : (s.usedFree).svc = s.svc := rfl
@[simp] theorem State.usedFree_rs  : (s.usedFree).rs = s.rs := rfl
@[simp] theorem State.usedFree_fc  : (s.usedFree).fc = s.fc := rfl
@[simp] theorem State.usedFree_display  : (s.usedFree).display = s.display := rfl
@[simp] theorem State.usedFree_px  : (s.usedFree).px = s.px := rfl
@[simp] theorem State.usedFree_eth  : (s.usedFree).eth = s.eth := rfl
@[simp] theorem State.usedFree_lb  : (s.usedFree).lb = s.lb := rfl
@[simp] theorem State.usedFree_pw  : (s.usedFree).pw = s.pw := rfl
@[simp] theorem State.usedFree_dk  : (s.usedFree).dk = s.dk := rfl
@[simp] theorem State.usedFree_tap  : (s.usedFree).tap = s.tap := rfl
@[simp] theorem State.usedFree_mg  : (s.usedFree).mg = s.mg := rfl
@[simp] theorem State.usedFree_out  : (s.usedFree).out = s.out := rfl
@[simp] theorem State.usedFree_pending  : (s.usedFree).pending = s.pending := rfl
@[simp] theorem State.usedFree_reg  (x : Nat) : (s.usedFree).reg x = s.reg x := rfl
@[simp] theorem State.usedFree_get  (x : Fld) : (s.usedFree).get x = s.get x := rfl
@[simp] theorem State.usedFree_on  (x : Fld) : (s.usedFree).on x = s.on x := rfl
@[simp] theorem State.usedFree_engine  (x : Nat) : (s.usedFree).engine x = s.engine x := rfl

end Sys2Proof.Machine
end

