-- ==== Sys2Proof/Laws/Table.lean ====
section
/-! SUPPORT. Laws of tables and byte memories: reading after writing, writing elsewhere, and that every operation on a memory
keeps its canonical form. -/

namespace Sys2Proof.Machine

variable {α : Type}

theorem tget_terase_self (d : α) (k : Nat) (t : List (Nat × α)) : tget d k (terase k t) = d := by
  induction t with
  | nil => rfl
  | cons e t ih =>
    by_cases h : e.1 = k
    · simpa [terase, h] using ih
    · have : terase k (e :: t) = e :: terase k t := by simp [terase, h]
      rw [this, tget, if_neg h, ih]

theorem tget_terase_ne (d : α) {j k : Nat} (h : k ≠ j) (t : List (Nat × α)) : tget d k (terase j t) = tget d k t := by
  induction t with
  | nil => rfl
  | cons e t ih =>
    by_cases he : e.1 = j
    · have : terase j (e :: t) = terase j t := by simp [terase, he]
      rw [this, ih, tget, if_neg (by omega)]
    · have : terase j (e :: t) = e :: terase j t := by simp [terase, he]
      rw [this, tget, tget, ih]

theorem tget_tinsert_ne (d : α) {j k : Nat} (v : α) (h : k ≠ j) (t : List (Nat × α)) :
    tget d k (tinsert j v t) = tget d k t := by
  induction t with
  | nil => simp [tinsert, tget, h.symm]
  | cons e t ih =>
    by_cases he : e.1 < j
    · simp [tinsert, he, tget, ih]
    · simp [tinsert, he, tget, h.symm]

theorem tget_tinsert_self (d : α) {k : Nat} (v : α) (t : List (Nat × α)) (h : ∀ e ∈ t, e.1 ≠ k) :
    tget d k (tinsert k v t) = v := by
  induction t with
  | nil => simp [tinsert, tget]
  | cons e t ih =>
    have h1 : e.1 ≠ k := h e (by simp)
    by_cases he : e.1 < k
    · simp [tinsert, he, tget, h1, ih fun x hx => h x (by simp [hx])]
    · simp [tinsert, he, tget]

/-- Reading a table after a write: the written entry at its key, all others as before. -/
theorem tget_tput [DecidableEq α] (d : α) (j k : Nat) (v : α) (t : List (Nat × α)) :
    tget d k (tput d j v t) = if k = j then v else tget d k t := by
  by_cases hk : k = j
  · subst hk
    by_cases hv : v = d
    · simp [tput, hv, tget_terase_self]
    · simp only [tput, hv, if_false, if_true]
      exact tget_tinsert_self d v _ fun e he => by simpa [terase] using (List.mem_filter.1 he).2
  · by_cases hv : v = d
    · simp [tput, hv, hk, tget_terase_ne d hk]
    · simp [tput, hv, hk, tget_tinsert_ne d v hk, tget_terase_ne d hk]

@[simp] theorem tget_tput_self [DecidableEq α] (d : α) (k : Nat) (v : α) (t : List (Nat × α)) : tget d k (tput d k v t) = v := by
  simp [tget_tput]

theorem tget_tput_ne [DecidableEq α] (d : α) {j k : Nat} (h : k ≠ j) (v : α) (t : List (Nat × α)) :
    tget d k (tput d j v t) = tget d k t := by simp [tget_tput, h]

/-- Reading with any default at another key. -/
theorem tget_tput_ne' [DecidableEq α] (d d' : α) {j k : Nat} (h : k ≠ j) (v : α) (t : List (Nat × α)) :
    tget d' k (tput d j v t) = tget d' k t := by
  by_cases hv : v = d
  · simp [tput, hv, tget_terase_ne d' h]
  · simp [tput, hv, tget_tinsert_ne d' v h, tget_terase_ne d' h]

/-! ### Canonical form -/

theorem canonical_nil [DecidableEq α] (d : Nat → α) : canonical d [] = true := rfl

theorem canonical_cons [DecidableEq α] {d : Nat → α} {e : Nat × α} {t : List (Nat × α)} :
    canonical d (e :: t) = true ↔ ((∀ f ∈ t, e.1 < f.1) ∧ e.2 ≠ d e.1) ∧ canonical d t = true := by
  simp only [canonical, risingKeys, List.all_cons, Bool.and_eq_true, List.all_eq_true, decide_eq_true_eq, bne_iff_ne]
  tauto

/-- A part of a canonical table is canonical. -/
theorem canonical_filter [DecidableEq α] {d : Nat → α} (p : Nat × α → Bool) {t : List (Nat × α)} (h : canonical d t = true) :
    canonical d (t.filter p) = true := by
  induction t with
  | nil => rfl
  | cons e t ih =>
    obtain ⟨⟨h1, h2⟩, h3⟩ := canonical_cons.1 h
    by_cases hp : p e
    · rw [List.filter_cons_of_pos hp]
      exact canonical_cons.2 ⟨⟨fun f hf => h1 f (List.mem_filter.1 hf).1, h2⟩, ih h3⟩
    · rw [List.filter_cons_of_neg hp]
      exact ih h3

theorem mem_tinsert {k : Nat} {v : α} {t : List (Nat × α)} {f : Nat × α} (h : f ∈ tinsert k v t) : f = (k, v) ∨ f ∈ t := by
  induction t with
  | nil => simpa [tinsert] using h
  | cons e t ih =>
    by_cases he : e.1 < k
    · simp only [tinsert, he, if_true, List.mem_cons] at h
      rcases h with h | h
      · exact .inr (by simp [h])
      · rcases ih h with h | h
        · exact .inl h
        · exact .inr (by simp [h])
    · simpa [tinsert, he, List.mem_cons] using h

theorem canonical_tinsert [DecidableEq α] {d : Nat → α} {k : Nat} {v : α} (hv : v ≠ d k) {t : List (Nat × α)} (h : canonical d t = true)
    (hk : ∀ e ∈ t, e.1 ≠ k) : canonical d (tinsert k v t) = true := by
  induction t with
  | nil => simp [tinsert, canonical, risingKeys, hv]
  | cons e t ih =>
    obtain ⟨⟨h1, h2⟩, h3⟩ := canonical_cons.1 h
    have hek : e.1 ≠ k := hk e (by simp)
    by_cases he : e.1 < k
    · simp only [tinsert, he, if_true]
      refine canonical_cons.2 ⟨⟨fun f hf => ?_, h2⟩, ih h3 fun x hx => hk x (by simp [hx])⟩
      rcases mem_tinsert hf with hf | hf
      · simpa [hf] using he
      · exact h1 f hf
    · simp only [tinsert, he, if_false]
      refine canonical_cons.2 ⟨⟨fun f hf => ?_, hv⟩, h⟩
      rcases List.mem_cons.1 hf with hf | hf
      · subst hf; simp; omega
      · have := h1 f hf; simp; omega

/-- A write keeps the canonical form. -/
theorem canonical_tput [DecidableEq α] {d : α} (k : Nat) (v : α) {t : List (Nat × α)} (h : canonical (fun _ => d) t = true) :
    canonical (fun _ => d) (tput d k v t) = true := by
  by_cases hv : v = d
  · simpa [tput, hv, terase] using canonical_filter (fun e => e.1 != k) h
  · simp only [tput, hv, if_false]
    exact canonical_tinsert hv (canonical_filter _ h) fun e he => by simpa [terase] using (List.mem_filter.1 he).2

/-! ### Byte memories -/

/-- Reading a byte after a write of bytes. -/
theorem tget_memWrite (m : List Host.Cell) (a : Nat) (bs : List Byte) (k : Nat) :
    tget 0 k (memWrite m a bs) = if a ≤ k ∧ k < a + bs.length then bs.getD (k - a) 0 else tget 0 k m := by
  induction bs generalizing m a with
  | nil => simp only [memWrite, List.length_nil]; rw [if_neg (by omega)]
  | cons b t ih =>
    rw [memWrite, ih, tget_tput]
    by_cases h : k = a
    · subst h; simp
    · by_cases h' : a + 1 ≤ k ∧ k < a + 1 + t.length
      · rw [if_pos h', if_pos (by simp; omega)]
        obtain ⟨n, hn⟩ : ∃ n, k - a = n + 1 := ⟨k - a - 1, by omega⟩
        have : k - (a + 1) = n := by omega
        simp [hn, this]
      · rw [if_neg h', if_neg h, if_neg (by simp; omega)]

/-- A byte outside the written range reads as before. -/
theorem tget_memWrite_of_outside (m : List Host.Cell) {a k : Nat} (bs : List Byte) (h : k < a ∨ a + bs.length ≤ k) :
    tget 0 k (memWrite m a bs) = tget 0 k m := by
  rw [tget_memWrite, if_neg (by omega)]

theorem canonical_memWrite {m : List Host.Cell} (a : Nat) (bs : List Byte) (h : canonical (fun _ => (0 : Byte)) m = true) :
    canonical (fun _ => (0 : Byte)) (memWrite m a bs) = true := by
  induction bs generalizing m a with
  | nil => exact h
  | cons b t ih => exact ih (a + 1) (canonical_tput a b h)

theorem canonical_flashWrite {m : List Host.Cell} (a : Nat) (bs : List Byte)
    (h : canonical (fun _ => (0xFF : Byte)) m = true) : canonical (fun _ => (0xFF : Byte)) (flashWrite m a bs) = true := by
  unfold flashWrite
  generalize bs.zipIdx = l
  induction l generalizing m with
  | nil => exact h
  | cons e t ih => exact ih (canonical_tput (a + e.2) e.1 h)

theorem canonical_memCopy {m : List Host.Cell} (src dst n : Nat) (h : canonical (fun _ => (0 : Byte)) m = true) :
    canonical (fun _ => (0 : Byte)) (memCopy m src dst n) = true := by
  unfold memCopy
  generalize (m.filter fun e => decide (src ≤ e.1 ∧ e.1 < src + n)) = l
  have h' := canonical_filter (fun e => !decide (dst ≤ e.1 ∧ e.1 < dst + n)) h
  generalize (m.filter fun e => !decide (dst ≤ e.1 ∧ e.1 < dst + n)) = t at h'
  induction l generalizing t with
  | nil => exact h'
  | cons e l ih => exact ih _ (canonical_tput _ _ h')

theorem canonical_append [DecidableEq α] {d : Nat → α} {t u : List (Nat × α)} (ht : canonical d t = true) (hu : canonical d u = true)
    (h : ∀ e ∈ t, ∀ f ∈ u, e.1 < f.1) : canonical d (t ++ u) = true := by
  induction t with
  | nil => exact hu
  | cons e t ih =>
    obtain ⟨⟨h1, h2⟩, h3⟩ := canonical_cons.1 ht
    refine canonical_cons.2 ⟨⟨fun f hf => ?_, h2⟩, ih h3 fun x hx => h x (by simp [hx])⟩
    rcases List.mem_append.1 hf with hf | hf
    · exact h1 f hf
    · exact h e (by simp) f hf

theorem canonical_shift [DecidableEq α] {d : α} (a b : Nat) {t : List (Nat × α)} (ht : canonical (fun _ => d) t = true)
    (hb : ∀ e ∈ t, b ≤ e.1) : canonical (fun _ => d) (t.map fun e => (a + (e.1 - b), e.2)) = true := by
  induction t with
  | nil => rfl
  | cons e t ih =>
    obtain ⟨⟨h1, h2⟩, h3⟩ := canonical_cons.1 ht
    refine canonical_cons.2 ⟨⟨fun f hf => ?_, h2⟩, ih h3 fun x hx => hb x (by simp [hx])⟩
    obtain ⟨g, hg, rfl⟩ := List.mem_map.1 hf
    have := h1 g hg
    have := hb e (by simp)
    have := hb g (by simp [hg])
    simp; omega

theorem canonical_memMove {m src : List Host.Cell} (a b k : Nat) (hm : canonical (fun _ => (0 : Byte)) m = true)
    (hs : canonical (fun _ => (0 : Byte)) src = true) : canonical (fun _ => (0 : Byte)) (memMove m a src b k) = true := by
  unfold memMove
  refine canonical_append (canonical_append (canonical_filter _ hm)
    (canonical_shift a b (canonical_filter _ hs) fun e he => ?_) fun e he f hf => ?_) (canonical_filter _ hm) fun e he f hf => ?_
  · simpa using (List.mem_filter.1 he).2 |> fun h => (by simpa using h : b ≤ e.1 ∧ e.1 < b + k).1
  · have h1 : e.1 < a := by simpa using (List.mem_filter.1 he).2
    obtain ⟨g, _, rfl⟩ := List.mem_map.1 hf
    simp; omega
  · have h2 : a + k ≤ f.1 := by simpa using (List.mem_filter.1 hf).2
    rcases List.mem_append.1 he with he | he
    · have h1 : e.1 < a := by simpa using (List.mem_filter.1 he).2
      omega
    · obtain ⟨g, hg, rfl⟩ := List.mem_map.1 he
      have h3 : b ≤ g.1 ∧ g.1 < b + k := by simpa using (List.mem_filter.1 hg).2
      simp; omega

end Sys2Proof.Machine
end

