-- ==== Sys2Proof/Laws/Ops.lean ====
section
/-! SUPPORT. What the shared operations do: fields of registers read back, saturating counters, events with their routes,
the error log, mailboxes. -/

namespace Sys2Proof.Machine

variable (s : State)

/-! ### Registers and fields -/

theorem State.reg_setReg (a b : Nat) (w : Word) : (s.setReg a w).reg b = if b = a then w else s.reg b := by
  by_cases h : b = a
  · subst h; simp [State.reg, State.setReg]
  · simp only [State.reg, State.setReg, h, if_false]
    exact tget_tput_ne' _ _ h _ _

@[simp] theorem State.reg_setReg_self (a : Nat) (w : Word) : (s.setReg a w).reg a = w := by simp [State.reg_setReg]

theorem State.reg_setReg_ne {a b : Nat} (h : b ≠ a) (w : Word) : (s.setReg a w).reg b = s.reg b := by
  simp [State.reg_setReg, h]

/-- A field write changes only the register that holds the field. -/
theorem State.put_reg {f : Fld} {a : Nat} (h : a ≠ f.addr) (v : Nat) : (s.put f v).reg a = s.reg a :=
  State.reg_setReg_ne s h _

theorem State.put_reg_self (f : Fld) (v : Nat) : (s.put f v).reg f.addr = setWordField (s.reg f.addr) f.hi f.lo v :=
  State.reg_setReg_self s _ _

/-- A field reads as it was written, cut to its width. -/
theorem State.put_get (f : Fld) (h : f.hi < 32) (v : Nat) : (s.put f v).get f = v % 2 ^ (f.hi + 1 - f.lo) := by
  rw [State.get, State.put_reg_self, wordField_setWordField h]

/-- Every field that does not share bits with the written one reads as before. -/
theorem State.put_get_of_apart {f g : Fld} (h : g.addr ≠ f.addr ∨ f.hi < g.lo ∨ g.hi < f.lo) (v : Nat) :
    (s.put f v).get g = s.get g := by
  by_cases ha : g.addr = f.addr
  · rw [State.get, ha, State.put_reg_self, wordField_setWordField_of_disjoint (by tauto), State.get, ha]
  · rw [State.get, State.put_reg s ha, State.get]

theorem State.put_on (f : Fld) (h : f.hi < 32) (h' : f.lo ≤ f.hi) : (s.put f 1).on f = true := by
  have : 1 < 2 ^ (f.hi + 1 - f.lo) := Nat.one_lt_two_pow (by omega)
  simp [State.on, State.put_get s f h, Nat.mod_eq_of_lt this]

theorem State.put_on_of_apart {f g : Fld} (h : g.addr ≠ f.addr ∨ f.hi < g.lo ∨ g.hi < f.lo) (v : Nat) :
    (s.put f v).on g = s.on g := by simp [State.on, State.put_get_of_apart s h]

/-- A saturating counter after an addition. -/
theorem State.addSat_get (f : Fld) (h : f.hi < 32) (n : Nat) :
    (s.addSat f n).get f = min (s.get f + n) (2 ^ (f.hi + 1 - f.lo) - 1) := by
  have hp : 0 < 2 ^ (f.hi + 1 - f.lo) := Nat.two_pow_pos _
  rw [State.addSat, State.put_get s f h, sat, Nat.mod_eq_of_lt (by omega)]

theorem State.addSat_get_of_apart {f g : Fld} (h : g.addr ≠ f.addr ∨ f.hi < g.lo ∨ g.hi < f.lo) (n : Nat) :
    (s.addSat f n).get g = s.get g := State.put_get_of_apart s h _

theorem State.addSat_reg {f : Fld} {a : Nat} (h : a ≠ f.addr) (n : Nat) : (s.addSat f n).reg a = s.reg a :=
  State.put_reg s h _

theorem State.inc_get (f : Fld) (h : f.hi < 32) : (s.inc f).get f = min (s.get f + 1) (2 ^ (f.hi + 1 - f.lo) - 1) :=
  State.addSat_get s f h 1

theorem State.inc_get_of_apart {f g : Fld} (h : g.addr ≠ f.addr ∨ f.hi < g.lo ∨ g.hi < f.lo) :
    (s.inc f).get g = s.get g := State.put_get_of_apart s h _

theorem State.inc_reg {f : Fld} {a : Nat} (h : a ≠ f.addr) : (s.inc f).reg a = s.reg a := State.put_reg s h _

@[simp] theorem State.when_true (g : State → State) : s.when true g = g s := rfl
@[simp] theorem State.when_false (g : State → State) : s.when false g = s := rfl

@[simp] theorem State.each_nil {β : Type} (g : β → State → State) : s.each [] g = s := rfl
@[simp] theorem State.each_cons {β : Type} (b : β) (l : List β) (g : β → State → State) :
    s.each (b :: l) g = (g b s).each l g := rfl

/-- What every step of a loop keeps, the loop keeps. -/
theorem State.each_keeps {β γ : Type} (v : State → γ) (l : List β) (g : β → State → State)
    (h : ∀ b s, v (g b s) = v s) : v (s.each l g) = v s := by
  induction l generalizing s with
  | nil => rfl
  | cons b l ih => rw [State.each_cons, ih, h]

/-! ### Engines -/

@[simp] theorem State.setEngine_engine_self (n : Nat) (g : Engine → Engine) : (s.setEngine n g).engine n = g (s.engine n) := by
  simp [State.engine, State.setEngine]

theorem State.setEngine_engine_ne {m n : Nat} (h : m ≠ n) (g : Engine → Engine) : (s.setEngine n g).engine m = s.engine m := by
  simp only [State.engine, State.setEngine]
  exact tget_tput_ne _ h _ _

/-- Every state field but registers, engines, service state and what was sent is the same. -/
def sameBut (s t : State) : Prop :=
  t.shadow = s.shadow ∧ t.caseMem = s.caseMem ∧ t.engSram = s.engSram ∧ t.engBank = s.engBank ∧ t.galley = s.galley ∧
  t.pimage = s.pimage ∧ t.flash = s.flash ∧ t.elog = s.elog ∧ t.ports = s.ports ∧ t.lanes = s.lanes ∧ t.links = s.links ∧
  t.jn = s.jn ∧ t.imp = s.imp ∧ t.pace = s.pace ∧ t.tm = s.tm ∧ t.rs = s.rs ∧ t.fc = s.fc ∧ t.display = s.display ∧
  t.px = s.px ∧ t.eth = s.eth ∧ t.lb = s.lb ∧ t.pw = s.pw ∧ t.dk = s.dk ∧ t.tap = s.tap ∧ t.mg = s.mg ∧
  t.freeCtr = s.freeCtr ∧ t.pending = s.pending

theorem sameBut.refl : sameBut s s := by simp [sameBut]

theorem sameBut.trans {s t u : State} (h : sameBut s t) (k : sameBut t u) : sameBut s u := by
  simp only [sameBut] at *
  simp [h, k]

/-! ### Mailboxes and events (R366, R545) -/

/-- A message put into a mailbox changes only the target's mailboxes and its `NONEMPTY`. -/
theorem State.sendMail_same (n mb : Nat) (m : Word × Word) : sameBut s (s.sendMail n mb m).2 := by
  unfold State.sendMail
  split
  · exact sameBut.refl s
  · dsimp only
    split <;> simp [sameBut]

theorem State.sendMail_svc (n mb : Nat) (m : Word × Word) : (s.sendMail n mb m).2.svc = s.svc := by
  unfold State.sendMail
  split
  · rfl
  · dsimp only
    split <;> simp

theorem State.sendMail_out (n mb : Nat) (m : Word × Word) : (s.sendMail n mb m).2.out = s.out := by
  unfold State.sendMail
  split
  · rfl
  · dsimp only
    split <;> simp

theorem State.mailTarget_lt {n t : Nat} (h : s.mailTarget n = some t) : t < 12 := by
  unfold State.mailTarget at h
  split at h
  · rename_i h'
    simp only [State.engInService, Bool.and_eq_true, decide_eq_true_eq] at h'
    cases h; omega
  · split at h
    · have := List.mem_of_find?_eq_some h
      simpa using this
    · cases h

theorem State.sendMail_reg (n mb : Nat) (m : Word × Word) {a : Nat} (h : a < 0x400000 ∨ 0x500000 ≤ a) :
    (s.sendMail n mb m).2.reg a = s.reg a := by
  unfold State.sendMail
  split
  · rfl
  · rename_i t ht
    have := s.mailTarget_lt ht
    dsimp only
    split
    · rw [State.put_reg _ (by simp only [ENG_MBX_STAT]; omega), State.setEngine_reg]
    · rfl

theorem State.holder_lt : s.get FC_CUSTODY.HOLDER < 16 := wordField_lt _ _ _

theorem State.notice_same (w0 w1 : Nat) : sameBut s (s.notice w0 w1) := by
  unfold State.notice
  have h := s.sendMail_same (s.get FC_CUSTODY.HOLDER) 15 (BitVec.ofNat 32 w0, BitVec.ofNat 32 w1)
  dsimp only
  split
  · exact h
  · exact h.trans (by simp [sameBut])

theorem State.notice_reg (w0 w1 : Nat) {a : Nat} (h : a < 0x400000 ∨ 0x500000 ≤ a) : (s.notice w0 w1).reg a = s.reg a := by
  unfold State.notice
  have hh := s.holder_lt
  have hr := s.sendMail_reg (s.get FC_CUSTODY.HOLDER) 15 (BitVec.ofNat 32 w0, BitVec.ofNat 32 w1) h
  dsimp only
  split
  · exact hr
  · rw [State.put_reg _ (by simp only [ENG_EVENT]; omega),
      State.inc_reg _ (by simp only [ENG_MBX_STAT]; omega), hr]

theorem State.sendMsix_same (src : Nat) : sameBut s (s.sendMsix src) := by
  unfold State.sendMsix
  dsimp only
  split <;> try split
  all_goals simp [sameBut]

@[simp] theorem State.sendMsix_regs (src : Nat) : (s.sendMsix src).regs = s.regs := by
  unfold State.sendMsix
  dsimp only
  split <;> try split
  all_goals rfl

theorem State.driveInt_same : sameBut s s.driveInt := by
  unfold State.driveInt
  dsimp only
  split <;> simp [sameBut]

@[simp] theorem State.driveInt_regs : s.driveInt.regs = s.regs := by
  unfold State.driveInt
  dsimp only
  split <;> rfl

theorem State.gained_same (src eng : Nat) : sameBut s (s.gained src eng) := by
  unfold State.gained State.when
  dsimp only
  split
  · exact ((State.notice_same s _ _).trans (State.sendMsix_same _ _)).trans (State.driveInt_same _)
  · exact (State.sendMsix_same _ _).trans (State.driveInt_same _)

theorem State.reg_of_regs {s t : State} (h : t.regs = s.regs) (a : Nat) : t.reg a = s.reg a := by
  rw [State.reg, h, State.reg]

theorem State.gained_reg (src eng : Nat) {a : Nat} (h : a < 0x400000 ∨ 0x500000 ≤ a) :
    (s.gained src eng).reg a = s.reg a := by
  unfold State.gained State.when
  dsimp only
  split
  · rw [State.reg_of_regs (State.driveInt_regs _), State.reg_of_regs (State.sendMsix_regs _ _), State.notice_reg _ _ _ h]
  · rw [State.reg_of_regs (State.driveInt_regs _), State.reg_of_regs (State.sendMsix_regs _ _)]

/-- Raising an event sets its bit; when its source gains the bit, the source's route acts. -/
theorem State.raise_cases (f : Fld) :
    s.raise f = s.put f 1 ∨ ∃ src eng, s.raise f = ((s.put f 1).unreport src eng f.lo).gained src eng := by
  unfold State.raise
  dsimp only
  cases h : eventSource f.addr with
  | none => exact .inl rfl
  | some x =>
    obtain ⟨src, eng, en⟩ := x
    dsimp only
    generalize (s.on f || !_) = c
    cases c
    · exact .inr ⟨src, eng, rfl⟩
    · exact .inl rfl

/-- Raising an event changes no more than registers, engines (their mailboxes), the state of routes, and what was sent. -/
theorem State.raise_same (f : Fld) : sameBut s (s.raise f) := by
  have hp : ∀ src eng, sameBut s ((s.put f 1).unreport src eng f.lo) := fun src eng => by simp [sameBut, State.unreport]
  obtain h | ⟨src, eng, h⟩ := s.raise_cases f
  · rw [h]; simp [sameBut]
  · rw [h]; exact (hp src eng).trans (State.gained_same _ _ _)

/-- Raising an event changes no register but its own and, with a notice to the custodian, registers of engines. -/
theorem State.raise_reg (f : Fld) {a : Nat} (h : a ≠ f.addr) (h' : a < 0x400000 ∨ 0x500000 ≤ a) :
    (s.raise f).reg a = s.reg a := by
  obtain e | ⟨src, eng, e⟩ := s.raise_cases f
  · rw [e, State.put_reg s h]
  · rw [e, State.gained_reg _ _ _ h', State.unreport, State.setSvc_reg, State.put_reg s h]

/-- The register that holds a raised event outside the engines: the bit is set, nothing else changes. -/
theorem State.raise_reg_self (f : Fld) (h' : f.addr < 0x400000 ∨ 0x500000 ≤ f.addr) :
    (s.raise f).reg f.addr = setWordField (s.reg f.addr) f.hi f.lo 1 := by
  obtain e | ⟨src, eng, e⟩ := s.raise_cases f
  · rw [e, State.put_reg_self]
  · rw [e, State.gained_reg _ _ _ h', State.unreport, State.setSvc_reg, State.put_reg_self]

/-- A raised event reads 1. -/
theorem State.raise_on (f : Fld) (h : f.hi < 32) (h2 : f.lo ≤ f.hi) (h' : f.addr < 0x400000 ∨ 0x500000 ≤ f.addr) :
    (s.raise f).on f = true := by
  have : 1 < 2 ^ (f.hi + 1 - f.lo) := Nat.one_lt_two_pow (by omega)
  simp [State.on, State.get, State.raise_reg_self s f h', wordField_setWordField h, Nat.mod_eq_of_lt this]

/-- A raised event changes no other field, but those of engines. -/
theorem State.raise_get {f g : Fld} (h : g.addr ≠ f.addr ∨ f.hi < g.lo ∨ g.hi < f.lo)
    (h' : g.addr < 0x400000 ∨ 0x500000 ≤ g.addr) : (s.raise f).get g = s.get g := by
  by_cases ha : g.addr = f.addr
  · rw [State.get, ha, State.raise_reg_self s f (ha ▸ h'), wordField_setWordField_of_disjoint (by tauto), State.get, ha]
  · rw [State.get, State.raise_reg s f ha h', State.get]

/-! ### The error log (R548) -/

theorem State.logWords_reg (w0 w1 w2 w3 : Nat) {a : Nat} (h : a ≠ ELOG_PTR) :
    (s.logWords w0 w1 w2 w3).reg a = s.reg a := by
  unfold State.logWords State.when
  dsimp only
  rw [State.put_reg _ h]
  split
  · exact (State.inc_reg _ h).trans (State.put_reg _ h _)
  · rfl

/-- An error log entry changes no register but `ELOG_PTR`. -/
theorem State.log_reg (source kind detail word3 : Nat) {a : Nat} (h : a ≠ ELOG_PTR) :
    (s.log source kind detail word3).reg a = s.reg a := State.logWords_reg s _ _ _ _ h

theorem State.log_get (source kind detail word3 : Nat) {g : Fld} (h : g.addr ≠ ELOG_PTR) :
    (s.log source kind detail word3).get g = s.get g := by
  rw [State.get, State.log_reg s _ _ _ _ h, State.get]

/-- Every state field but registers and the log memory is as before a log entry. -/
theorem State.log_eq (source kind detail word3 : Nat) :
    s.log source kind detail word3 =
      { s with regs := (s.log source kind detail word3).regs, elog := (s.log source kind detail word3).elog } := by
  unfold State.log State.logWords State.when
  dsimp only
  split <;> rfl

/-! ### Commands over a path (R5, R19, R24, R51, R387) -/

/-- An access that neither stalls nor stands behind one of its path that did is made at once. -/
theorem State.ordered_open {p : Path} {stall : Bool} (c : Instr) (g : State → State) (h : s.behind p = false) (h' : stall = false) :
    s.ordered p stall c g = g s := by
  have h2 : (s.fc.stalled.any fun e => e.1 == p) = false := h
  simp [State.ordered, h', h2]

/-- Any other access is set aside, behind those set aside before. -/
theorem State.ordered_waits {p : Path} {stall : Bool} (c : Instr) (g : State → State) (h : stall = true ∨ s.behind p = true) :
    s.ordered p stall c g = s.setFc fun f => { f with stalled := f.stalled ++ [(p, c)] } := by
  have h2 : s.behind p = s.fc.stalled.any fun e => e.1 == p := rfl
  rw [State.ordered, if_pos (by rw [← h2]; rcases h with h | h <;> simp [h])]

/-- A command to a Keep-die register that is there and reached has its effect. -/
theorem State.keepCmd_open {p : Path} {a : Nat} (c : Instr) (g : State → State) (h : s.behind p = false) (h1 : s.keepOut = false)
    (h2 : (s.fc.copying && hasFh a) = false) (h3 : s.blockExcluded a = false) : s.keepCmd p a c g = g s := by
  rw [State.keepCmd, State.ordered_open s c _ h (by simp [h2])]
  simp [h1, h3]

/-- A command to a forme-control register that is there, on a path that holds custody, has its effect and status 0. -/
theorem State.custodyCmd_open {p : Path} {a : Nat} (c : Instr) (g : State → State) (h : s.behind p = false)
    (h1 : s.blockExcluded a = false) (h2 : s.hasCustody p = true) : s.custodyCmd p a c g = (g s).emit (.access p a 0 0) := by
  rw [State.custodyCmd, State.ordered_open s c _ h rfl]
  simp [h1, h2]

/-- Without custody it is refused with status 2. -/
theorem State.custodyCmd_refused {p : Path} {a : Nat} (c : Instr) (g : State → State) (h : s.behind p = false)
    (h1 : s.blockExcluded a = false) (h2 : s.hasCustody p = false) :
    s.custodyCmd p a c g = (s.refuseCustody p a).emit (.access p a 2 0) := by
  rw [State.custodyCmd, State.ordered_open s c _ h rfl]
  simp [h1, h2]

end Sys2Proof.Machine
end

