-- ==== Sys2Proof/Laws/Engine.lean ====
section
/-! SUPPORT. What completing an instruction and writing a register of an engine do, and that every instruction of the ISA is
one run of its engine. -/

namespace Sys2Proof.Machine

variable (s : State)

/-- Every instruction of an engine is a run of that engine: what its check bits show decides first. -/
theorem exec_engRun {i : Instr} {n : EngNo} {ecc : Ecc} (h : engineOf i = some (n, ecc)) :
    ∃ f, ∀ s, exec i s = s.engRun n ecc f := by
  unfold engineOf at h
  split at h
  case h_49 => cases h
  all_goals
    cases h
    dsimp only [exec]
    simp only [execAdd, execSub, execAnd, execOr, execXor, execSll, execSrl, execSra, execSlt, execSltu, execMul, execMulhu,
      execDivu, execRemu, execBext, execBins, execAddi, execAndi, execOri, execXori, execSlli, execSrli, execSrai, execLui, execLw,
      execLhu, execLbu, execSw, execSh, execSb, execJalr, execSlti, execCas, execSend, execRecv, execWait, execTbl, execHash,
      execCrc, execTime, execYield, execCsrr, execCsrw, execFence, execKick, execB, execBal, execIllegalOp, State.engOp3,
      State.engOpI, State.engField, State.engAlu]
    exact ⟨_, fun _ => rfl⟩

/-- A running engine whose word was fetched clean executes it. -/
theorem State.engRun_clean {n : EngNo} {ecc : Ecc} (f : State → State) (h1 : ecc ≠ .badFetch) (h2 : ecc ≠ .fixedFetch)
    (hs : s.get (ENG_STATUS.STATE n) = 1) : s.engRun n ecc f = .next (f s) := by
  unfold State.engRun
  rw [if_neg (by simpa using hs)]
  cases ecc <;> first | rfl | contradiction

/-! ### What stays when an engine moves on -/

/-- `t` differs from `s` at most in engine `n` and its count of instructions, and in the free values used; of the engine only
its registers, pc and cycles. -/
structure EngineStep (n : Nat) (s t : State) : Prop where
  rest : sameEngineRest (s.engine n) (t.engine n)
  others : ∀ m, m ≠ n → t.engine m = s.engine m
  reg : ∀ a, a ≠ ENG_PERF n → t.reg a = s.reg a
  memories : sameMemories s t
  units : sameUnits s t

theorem sameEngineRest.refl (e : Engine) : sameEngineRest e e := rfl

theorem sameEngineRest.trans {e f g : Engine} (h : sameEngineRest e f) (k : sameEngineRest f g) : sameEngineRest e g := by
  cases e
  cases f
  cases g
  simp only [sameEngineRest, Engine.mk.injEq] at *
  simp_all

theorem sameMemories.trans {s t u : State} (h : sameMemories s t) (k : sameMemories t u) : sameMemories s u := by
  simp only [sameMemories] at *
  simp [h, k]

theorem sameUnits.trans {s t u : State} (h : sameUnits s t) (k : sameUnits t u) : sameUnits s u := by
  simp only [sameUnits] at *
  simp [h, k]

theorem EngineStep.trans {n : Nat} {s t u : State} (h : EngineStep n s t) (k : EngineStep n t u) : EngineStep n s u :=
  ⟨h.rest.trans k.rest, fun m hm => (k.others m hm).trans (h.others m hm), fun a ha => (k.reg a ha).trans (h.reg a ha),
    h.memories.trans k.memories, h.units.trans k.units⟩

/-- A change of an engine's registers, pc or cycles is such a step. -/
theorem State.setEngine_step (n : Nat) (g : Engine → Engine) (h : sameEngineRest (s.engine n) (g (s.engine n))) :
    EngineStep n s (s.setEngine n g) :=
  ⟨by rwa [State.setEngine_engine_self], fun m hm => State.setEngine_engine_ne s hm g, fun _ _ => rfl, by simp [sameMemories],
    by simp [sameUnits]⟩

theorem State.usedFree_step (n : Nat) : EngineStep n s s.usedFree :=
  ⟨rfl, fun _ _ => rfl, fun _ _ => rfl, by simp [sameMemories], by simp [sameUnits]⟩

theorem State.countInstr_step (n : Nat) : EngineStep n s (s.inc (ENG_PERF.INSTR n)) :=
  ⟨rfl, fun _ _ => rfl, fun _ h => State.inc_reg s h, by simp [sameMemories], by simp [sameUnits]⟩

theorem State.engCount_step (n : Nat) : EngineStep n s (s.engCount n) :=
  (s.setEngine_step n _ (by rfl)).trans (State.countInstr_step _ n)

theorem State.pcNext_step (n : Nat) : EngineStep n s (s.pcNext n) := by
  unfold State.pcNext
  dsimp only
  split
  · exact s.setEngine_step n _ (by rfl)
  · exact (s.setEngine_step n _ (by rfl)).trans (State.usedFree_step _ n)

/-- An instruction that completes moves the pc and counts, and that is all. -/
theorem State.engDone_step (n : Nat) : EngineStep n s (s.engDone n) := (s.engCount_step n).trans (State.pcNext_step _ n)

theorem State.setG_step (n : Nat) (k : GReg) (w : Word) : EngineStep n s (s.setG n k w) := by
  unfold State.setG
  split
  · exact ⟨rfl, fun _ _ => rfl, fun _ _ => rfl, by simp [sameMemories], by simp [sameUnits]⟩
  · exact s.setEngine_step n _ (by rfl)

/-! ### Registers of an engine -/

theorem State.engG_zero (n : Nat) : s.engG n 0 = 0 := rfl

theorem State.setG_engG (n : Nat) (k j : GReg) (w : Word) :
    (s.setG n k w).engG n j = if j = k then (if k = 0 then 0 else w) else s.engG n j := by
  unfold State.setG
  by_cases hk : k = 0
  · subst hk
    rw [if_pos rfl, if_pos rfl]
    split
    · rename_i hj
      rw [hj]
      rfl
    · rfl
  · rw [if_neg hk, if_neg hk]
    unfold State.engG
    rw [State.setEngine_engine_self]
    by_cases hj : j = k
    · subst hj
      rw [if_neg hk, if_pos rfl, tget_tput_self]
    · have : j.toNat ≠ k.toNat := fun h => hj (BitVec.eq_of_toNat_eq h)
      rw [if_neg hj, tget_tput_ne _ this]

/-- Completing an instruction keeps the registers. -/
theorem State.engDone_g (n : Nat) : ((s.engDone n).engine n).g = (s.engine n).g := by
  unfold State.engDone State.pcNext State.engCount
  dsimp only
  split <;> simp [State.engine, State.setEngine]

theorem State.engDone_engG (n : Nat) (k : GReg) : (s.engDone n).engG n k = s.engG n k := by
  unfold State.engG
  rw [State.engDone_g]

end Sys2Proof.Machine
end

