-- ==== Sys2Proof/Laws/Kept.lean ====
section
/-! SUPPORT. What no command disturbs: the queue, the canonical form of every table, and that what was sent and the free
values in use only grow. For each operation `f` of the model the lemma `f_kept` says so, and for each command `exec…_kept`. -/

set_option linter.unreachableTactic false
set_option linter.unusedTactic false

namespace Sys2Proof.Machine

/-- What a state is compared with. -/
structure Mark where
  queue : List Instr
  out   : List Out
  ctr   : Nat

/-- The queue is the marked one, what the hub has sent and the free values it has used only grow, and the tables of registers
and memories are in canonical form. -/
structure Keeps (K : Mark) (s : State) : Prop where
  queue : s.pending = K.queue
  out   : K.out <:+ s.out
  ctr   : K.ctr ≤ s.freeCtr
  regs  : canonical regReset s.regs = true
  shadow : canonical regReset s.shadow = true
  caseMem : memOk 0 s.caseMem = true
  engSram : memOk 0 s.engSram = true
  engBank : memOk 0 s.engBank = true
  galley : memOk 0 s.galley = true
  pimage : memOk 0 s.pimage = true
  flash : memOk 0xFF s.flash = true

variable {K : Mark}

theorem canonical_tput_at {α : Type} [DecidableEq α] {d : Nat → α} (k : Nat) (v : α) {t : List (Nat × α)} (h : canonical d t =
    true) :
    canonical d (tput (d k) k v t) = true := by
  unfold tput
  split
  · exact canonical_filter _ h
  · rename_i hv
    exact canonical_tinsert hv (canonical_filter _ h) fun e he => by simpa [terase] using (List.mem_filter.1 he).2

/-- A state that differs from a kept one only elsewhere. -/
theorem Keeps.same {s t : State} (h : Keeps K s) (h1 : t.pending = s.pending) (h2 : t.out = s.out) (h3 : t.freeCtr = s.freeCtr)
    (h4 : t.regs = s.regs) (h5 : t.shadow = s.shadow) (h6 : t.caseMem = s.caseMem) (h7 : t.engSram = s.engSram)
    (h8 : t.engBank = s.engBank) (h9 : t.galley = s.galley) (h10 : t.pimage = s.pimage) (h11 : t.flash = s.flash) : Keeps K t :=
  ⟨h1 ▸ h.1, h2 ▸ h.2, h3 ▸ h.3, h4 ▸ h.4, h5 ▸ h.5, h6 ▸ h.6, h7 ▸ h.7, h8 ▸ h.8, h9 ▸ h.9, h10 ▸ h.10, h11 ▸ h.11⟩

theorem Keeps.ite {c : Prop} [Decidable c] {a b : State} (ha : Keeps K a) (hb : Keeps K b) : Keeps K (if c then a else b) := by
  split <;> assumption

theorem State.setReg_kept {s : State} (h : Keeps K s) (a : Nat) (w : Word) : Keeps K (s.setReg a w) :=
  ⟨h.1, h.2, h.3, canonical_tput_at a w h.4, h.5, h.6, h.7, h.8, h.9, h.10, h.11⟩
theorem State.setShadow_kept {s : State} (h : Keeps K s) (a : Nat) (w : Word) : Keeps K (s.setShadow a w) :=
  ⟨h.1, h.2, h.3, h.4, canonical_tput_at a w h.5, h.6, h.7, h.8, h.9, h.10, h.11⟩
theorem State.emit_kept {s : State} (h : Keeps K s) (o : Out) : Keeps K (s.emit o) :=
  ⟨h.1, h.2.trans (List.suffix_cons _ _), h.3, h.4, h.5, h.6, h.7, h.8, h.9, h.10, h.11⟩
theorem State.usedFree_kept {s : State} (h : Keeps K s) : Keeps K s.usedFree :=
  ⟨h.1, h.2, Nat.le_succ_of_le h.3, h.4, h.5, h.6, h.7, h.8, h.9, h.10, h.11⟩
theorem State.when_kept {s : State} (h : Keeps K s) (c : Bool) (g : State → State) (hg : ∀ s, Keeps K s → Keeps K (g s)) :
    Keeps K (s.when c g) := by unfold State.when; exact Keeps.ite (hg _ h) h
theorem State.each_kept {β : Type} {s : State} (h : Keeps K s) (l : List β) (g : β → State → State)
    (hg : ∀ b s, Keeps K s → Keeps K (g b s)) : Keeps K (s.each l g) := by
  unfold State.each
  induction l generalizing s with
  | nil => exact h
  | cons b l ih => exact ih (hg b s h)

theorem Keeps.setRegs {s : State} (h : Keeps K s) {t : List (Nat × Word)} (ht : canonical regReset t = true) :
    Keeps K ({ s with regs := t } : State) :=
  ⟨h.1, h.2, h.3, ht, h.5, h.6, h.7, h.8, h.9, h.10, h.11⟩
theorem Keeps.setShadows {s : State} (h : Keeps K s) {t : List (Nat × Word)} (ht : canonical regReset t = true) :
    Keeps K ({ s with shadow := t } : State) :=
  ⟨h.1, h.2, h.3, h.4, ht, h.6, h.7, h.8, h.9, h.10, h.11⟩
theorem Keeps.setSram {s : State} (h : Keeps K s) {t : List Host.Cell} (ht : memOk 0 t = true) :
    Keeps K ({ s with engSram := t } : State) :=
  ⟨h.1, h.2, h.3, h.4, h.5, h.6, ht, h.8, h.9, h.10, h.11⟩
theorem Keeps.setGalley {s : State} (h : Keeps K s) {t : List Host.Cell} (ht : memOk 0 t = true) :
    Keeps K ({ s with galley := t } : State) :=
  ⟨h.1, h.2, h.3, h.4, h.5, h.6, h.7, h.8, ht, h.10, h.11⟩
theorem Keeps.setImage {s : State} (h : Keeps K s) {t : List Host.Cell} (ht : memOk 0 t = true) :
    Keeps K ({ s with pimage := t } : State) :=
  ⟨h.1, h.2, h.3, h.4, h.5, h.6, h.7, h.8, h.9, ht, h.11⟩
theorem Keeps.setFlash {s : State} (h : Keeps K s) {t : List Host.Cell} (ht : memOk 0xFF t = true) :
    Keeps K ({ s with flash := t } : State) :=
  ⟨h.1, h.2, h.3, h.4, h.5, h.6, h.7, h.8, h.9, h.10, ht⟩

/-- A status, the state a write leaves and what follows the reply keep everything. -/
def KeepsWrite (K : Mark) (r : Nat × State × (State → State)) : Prop := Keeps K r.2.1 ∧ ∀ u, Keeps K u → Keeps K (r.2.2 u)
theorem KeepsWrite.of {n : Nat} {s : State} {g : State → State} (h : Keeps K s) (hg : ∀ u, Keeps K u → Keeps K (g u)) :
    KeepsWrite K (n, s, g) := ⟨h, hg⟩

end Sys2Proof.Machine
end

