-- ==== Sys2Proof/Laws/KeptOps.lean ====
section
/-! SUPPORT. What no command disturbs, in the shared operations on registers, records, events and resets: one lemma for each operation and each command. -/

set_option linter.unreachableTactic false
set_option linter.unusedTactic false

namespace Sys2Proof.Machine

variable {K : Mark}

theorem State.put_kept {s : State} (hs : Keeps K s) (f : Fld) (v : Nat) : Keeps K (State.put s f v) := by
  unfold State.put
  try dsimp only
  with_reducible repeat' (first | assumption | intro _ | apply Keeps.ite | apply State.setReg_kept | split)

theorem State.putShadow_kept {s : State} (hs : Keeps K s) (f : Fld) (v : Nat) : Keeps K (State.putShadow s f v) := by
  unfold State.putShadow
  try dsimp only
  with_reducible repeat' (first | assumption | intro _ | apply Keeps.ite | apply State.setShadow_kept | split)

theorem State.addSat_kept {s : State} (hs : Keeps K s) (f : Fld) (n : Nat) : Keeps K (State.addSat s f n) := by
  unfold State.addSat
  try dsimp only
  with_reducible repeat' (first | assumption | intro _ | apply Keeps.ite | apply State.put_kept | split)

theorem State.inc_kept {s : State} (hs : Keeps K s) (f : Fld) : Keeps K (State.inc s f) := by
  unfold State.inc
  try dsimp only
  with_reducible repeat' (first | assumption | intro _ | apply Keeps.ite | apply State.addSat_kept | split)

theorem State.setPort_kept {s : State} (hs : Keeps K s) (p : Nat) (g : SpinePort → SpinePort) :
    Keeps K (State.setPort s p g) := by
  unfold State.setPort
  exact hs.same rfl rfl rfl rfl rfl rfl rfl rfl rfl rfl rfl

theorem State.setLane_kept {s : State} (hs : Keeps K s) (p : Nat) (k : Nat) (g : Lane → Lane) :
    Keeps K (State.setLane s p k g) := by
  unfold State.setLane
  exact hs.same rfl rfl rfl rfl rfl rfl rfl rfl rfl rfl rfl

theorem State.setLink_kept {s : State} (hs : Keeps K s) (p : Nat) (g : Link → Link) : Keeps K (State.setLink s p g) := by
  unfold State.setLink
  exact hs.same rfl rfl rfl rfl rfl rfl rfl rfl rfl rfl rfl

theorem State.setEngine_kept {s : State} (hs : Keeps K s) (n : Nat) (g : Engine → Engine) :
    Keeps K (State.setEngine s n g) := by
  unfold State.setEngine
  exact hs.same rfl rfl rfl rfl rfl rfl rfl rfl rfl rfl rfl

theorem State.setJn_kept {s : State} (hs : Keeps K s) (g : Junction → Junction) : Keeps K (State.setJn s g) := by
  unfold State.setJn
  exact hs.same rfl rfl rfl rfl rfl rfl rfl rfl rfl rfl rfl

theorem State.setImp_kept {s : State} (hs : Keeps K s) (g : Imposition → Imposition) : Keeps K (State.setImp s g) := by
  unfold State.setImp
  exact hs.same rfl rfl rfl rfl rfl rfl rfl rfl rfl rfl rfl

theorem State.setPace_kept {s : State} (hs : Keeps K s) (g : Pace → Pace) : Keeps K (State.setPace s g) := by
  unfold State.setPace
  exact hs.same rfl rfl rfl rfl rfl rfl rfl rfl rfl rfl rfl

theorem State.setTm_kept {s : State} (hs : Keeps K s) (g : TimeUnit → TimeUnit) : Keeps K (State.setTm s g) := by
  unfold State.setTm
  exact hs.same rfl rfl rfl rfl rfl rfl rfl rfl rfl rfl rfl

theorem State.setSvc_kept {s : State} (hs : Keeps K s) (g : Service → Service) : Keeps K (State.setSvc s g) := by
  unfold State.setSvc
  exact hs.same rfl rfl rfl rfl rfl rfl rfl rfl rfl rfl rfl

theorem State.setCase_kept {s : State} (hs : Keeps K s) (a k v : Nat) : Keeps K (s.setCase a k v) :=
  ⟨hs.1, hs.2, hs.3, hs.4, hs.5, canonical_memWrite _ _ hs.6, hs.7, hs.8, hs.9, hs.10, hs.11⟩

theorem State.setCaseBytes_kept {s : State} (hs : Keeps K s) (a : Nat) (bs : List Byte) : Keeps K (s.setCaseBytes a bs) :=
  ⟨hs.1, hs.2, hs.3, hs.4, hs.5, canonical_memWrite _ _ hs.6, hs.7, hs.8, hs.9, hs.10, hs.11⟩

theorem State.present_kept {s : State} (hs : Keeps K s) (i : Nat) (c : Cell) : Keeps K (State.present s i c) := by
  unfold State.present
  try dsimp only
  with_reducible repeat' (first | assumption | intro _ | apply Keeps.ite | apply State.setJn_kept | split)

theorem State.presentAll_kept {s : State} (hs : Keeps K s) (i : Nat) (cs : List Cell) : Keeps K (State.presentAll s i cs) := by
  unfold State.presentAll
  try dsimp only
  with_reducible repeat'
    (first
      | assumption | intro _ | apply Keeps.ite | apply State.each_kept | apply State.present_kept | split)

theorem State.logWords_kept {s : State} (hs : Keeps K s) (w0 w1 w2 w3 : Nat) : Keeps K (s.logWords w0 w1 w2 w3) := by
  have h := State.when_kept hs ((s.get ELOG_PTR.ELOG_HEAD + 1) % 256 == s.get ELOG_PTR.ELOG_TAIL)
    (fun s => (s.put ELOG_PTR.ELOG_TAIL ((s.get ELOG_PTR.ELOG_TAIL + 1) % 256)).inc ELOG_PTR.OVERWRITTEN)
    fun s hs => State.inc_kept (State.put_kept hs _ _) _
  unfold State.logWords
  dsimp only
  refine State.put_kept ?_ _ _
  exact h.same rfl rfl rfl rfl rfl rfl rfl rfl rfl rfl rfl

theorem State.log_kept {s : State} (hs : Keeps K s) (source : Nat) (kind : Nat) (detail : Nat) (word3 : Nat) :
    Keeps K (State.log s source kind detail word3) := by
  unfold State.log
  try dsimp only
  with_reducible repeat' (first | assumption | intro _ | apply Keeps.ite | apply State.logWords_kept | split)

theorem State.sendMail_kept {s : State} (hs : Keeps K s) (n : Nat) (mb : Nat) (m : Word × Word) :
    Keeps K (State.sendMail s n mb m).2 := by
  unfold State.sendMail
  try dsimp only
  with_reducible repeat'
    (first
      | assumption | intro _ | apply Keeps.ite | apply State.setEngine_kept | apply State.put_kept | split)

theorem State.notice_kept {s : State} (hs : Keeps K s) (w0 : Nat) (w1 : Nat) : Keeps K (State.notice s w0 w1) := by
  unfold State.notice
  try dsimp only
  with_reducible repeat'
    (first
      | assumption | intro _ | apply Keeps.ite | apply State.sendMail_kept | apply State.inc_kept | apply State.put_kept
      | split)

theorem State.sendMsix_kept {s : State} (hs : Keeps K s) (src : Nat) : Keeps K (State.sendMsix s src) := by
  unfold State.sendMsix
  try dsimp only
  with_reducible repeat'
    (first
      | assumption | intro _ | apply Keeps.ite | apply State.setSvc_kept | apply State.emit_kept | split)

theorem State.driveInt_kept {s : State} (hs : Keeps K s) : Keeps K (State.driveInt s) := by
  unfold State.driveInt
  try dsimp only
  with_reducible repeat'
    (first
      | assumption | intro _ | apply Keeps.ite | apply State.setSvc_kept | apply State.emit_kept | split)

theorem State.reroute_kept {s : State} (hs : Keeps K s) : Keeps K (State.reroute s) := by
  unfold State.reroute
  try dsimp only
  with_reducible repeat'
    (first
      | assumption | intro _ | apply Keeps.ite | apply State.each_kept | apply State.sendMsix_kept | apply State.driveInt_kept
      | split)

theorem State.gained_kept {s : State} (hs : Keeps K s) (src : Nat) (eng : Nat) : Keeps K (State.gained s src eng) := by
  unfold State.gained
  try dsimp only
  with_reducible repeat'
    (first
      | assumption | intro _ | apply Keeps.ite | apply State.when_kept | apply State.notice_kept | apply State.sendMsix_kept
      | apply State.driveInt_kept | split)

theorem State.unreport_kept {s : State} (hs : Keeps K s) (src : Nat) (eng : Nat) (b : Nat) :
    Keeps K (State.unreport s src eng b) := by
  unfold State.unreport
  try dsimp only
  with_reducible repeat' (first | assumption | intro _ | apply Keeps.ite | apply State.setSvc_kept | split)

theorem State.raise_kept {s : State} (hs : Keeps K s) (f : Fld) : Keeps K (State.raise s f) := by
  unfold State.raise
  try dsimp only
  with_reducible repeat'
    (first
      | assumption | intro _ | apply Keeps.ite | apply State.put_kept | apply State.unreport_kept | apply State.gained_kept
      | split)

theorem State.hwMail_kept {s : State} (hs : Keeps K s) (n : Nat) (mb : Nat) (w0 : Nat) (w1 : Nat) :
    Keeps K (State.hwMail s n mb w0 w1) := by
  unfold State.hwMail
  try dsimp only
  with_reducible repeat'
    (first
      | assumption | intro _ | apply Keeps.ite | apply State.sendMail_kept | apply State.inc_kept | apply State.raise_kept
      | split)

theorem State.latch_kept {s : State} (hs : Keeps K s) (n : Nat) (b : Nat) : Keeps K (State.latch s n b) := by
  unfold State.latch
  try dsimp only
  with_reducible repeat' (first | assumption | intro _ | apply Keeps.ite | apply State.setEngine_kept | split)

theorem State.latchStewards_kept {s : State} (hs : Keeps K s) (b : Nat) : Keeps K (State.latchStewards s b) := by
  unfold State.latchStewards
  try dsimp only
  with_reducible repeat'
    (first
      | assumption | intro _ | apply Keeps.ite | apply State.each_kept | apply State.latch_kept | split)

theorem State.abortTests_kept {s : State} (hs : Keeps K s) (hit : Nat → Nat → Bool) : Keeps K (State.abortTests s hit) := by
  unfold State.abortTests
  try dsimp only
  with_reducible repeat'
    (first
      | assumption | intro _ | apply Keeps.ite | apply State.setSvc_kept | apply State.each_kept | apply State.put_kept
      | apply State.raise_kept | split)

theorem State.setRs_kept {s : State} (hs : Keeps K s) (g : ResetCtl → ResetCtl) : Keeps K (State.setRs s g) := by
  unfold State.setRs
  exact hs.same rfl rfl rfl rfl rfl rfl rfl rfl rfl rfl rfl

theorem State.setFc_kept {s : State} (hs : Keeps K s) (g : FormeCtl → FormeCtl) : Keeps K (State.setFc s g) := by
  unfold State.setFc
  exact hs.same rfl rfl rfl rfl rfl rfl rfl rfl rfl rfl rfl

theorem State.cairnBit_kept {s : State} (hs : Keeps K s) (src : Nat) : Keeps K (State.cairnBit s src) := by
  unfold State.cairnBit
  try dsimp only
  with_reducible repeat' (first | assumption | intro _ | apply Keeps.ite | apply State.put_kept | apply State.inc_kept | split)

theorem State.cairnTime_kept {s : State} (hs : Keeps K s) (warm : Bool) : Keeps K (State.cairnTime s warm) := by
  unfold State.cairnTime
  try dsimp only
  with_reducible repeat' (first | assumption | intro _ | apply Keeps.ite | apply State.put_kept | split)

theorem State.cairn_kept {s : State} (hs : Keeps K s) (src : Nat) (warm : Bool) (esc : Bool) (info : Nat) :
    Keeps K (State.cairn s src warm esc info) := by
  unfold State.cairn
  try dsimp only
  with_reducible repeat'
    (first
      | assumption | intro _ | apply Keeps.ite | apply State.cairnBit_kept | apply State.put_kept | apply State.cairnTime_kept
      | split)

theorem State.freshShadow_kept {s : State} (hs : Keeps K s) : Keeps K s.freshShadow := by
  unfold State.freshShadow
  exact State.when_kept (State.putShadow_kept (hs.setShadows (canonical_nil _)) _ _) _ _ fun s hs =>
    State.putShadow_kept (State.putShadow_kept hs _ _) _ _

theorem State.recordAttempt_kept {s : State} (hs : Keeps K s) (bank : Nat) (tries : Nat) (code : Nat) :
    Keeps K (State.recordAttempt s bank tries code) := by
  unfold State.recordAttempt
  try dsimp only
  with_reducible repeat' (first | assumption | intro _ | apply Keeps.ite | apply State.put_kept | split)

theorem State.countInterrupted_kept {s : State} (hs : Keeps K s) : Keeps K (State.countInterrupted s) := by
  unfold State.countInterrupted
  try dsimp only
  with_reducible repeat' (first | assumption | intro _ | apply Keeps.ite | apply State.recordAttempt_kept | split)

theorem State.spineClear_kept {s : State} (hs : Keeps K s) (phase : Nat) : Keeps K (s.spineClear phase) := by
  have h := State.countInterrupted_kept hs
  unfold State.spineClear
  extract_lets s1 r1 p1 t1 t2 t3 t4 t5 t6
  have h1 : Keeps K t1 :=
    ⟨h.1, h.2, h.3, canonical_filter _ h.4, canonical_nil _, canonical_nil _, canonical_nil _, canonical_nil _, canonical_nil
        _, canonical_nil _, h.11⟩
  clear_value t1
  have h2 : Keeps K t2 := State.when_kept h1 _ _ fun s hs => State.emit_kept hs _
  clear_value t2
  have h3 : Keeps K t3 := State.each_kept h2 _ _ fun b s hs => State.emit_kept hs _
  clear_value t3
  have h4 : Keeps K t4 := State.each_kept h3 _ _ fun b s hs => State.emit_kept hs _
  clear_value t4
  have h5 : Keeps K t5 := State.each_kept h4 _ _ fun b s hs => State.emit_kept hs _
  clear_value t5
  have h6 : Keeps K t6 := State.when_kept h5 _ _ fun s hs => State.emit_kept hs _
  clear_value t6
  exact State.put_kept (State.put_kept (State.put_kept h6 _ _) _ _) _ _

theorem State.coldReset_kept {s : State} (hs : Keeps K s) : Keeps K (State.coldReset s) := by
  unfold State.coldReset
  try dsimp only
  with_reducible repeat'
    (first
      | assumption | intro _ | apply Keeps.ite | apply State.spineClear_kept | apply State.put_kept | apply State.setRs_kept
      | split)

theorem State.decideReset_kept {s : State} (hs : Keeps K s) (src : Nat) (warm : Bool) (info : Nat) :
    Keeps K (State.decideReset s src warm info) := by
  unfold State.decideReset
  try dsimp only
  with_reducible repeat'
    (first
      | assumption | intro _ | apply Keeps.ite | apply State.cairnBit_kept | apply State.cairn_kept | apply State.setRs_kept
      | apply State.coldReset_kept | split)

theorem State.setToken_kept {s : State} (hs : Keeps K s) (w : Nat) : Keeps K (State.setToken s w) := by
  unfold State.setToken
  try dsimp only
  with_reducible repeat'
    (first
      | assumption | intro _ | apply Keeps.ite | apply State.setCase_kept | apply State.setReg_kept
      | apply State.latchStewards_kept | split)

theorem State.stageStart_kept {s : State} (hs : Keeps K s) (src : Nat) : Keeps K (State.stageStart s src) := by
  unfold State.stageStart
  try dsimp only
  with_reducible repeat'
    (first
      | assumption | intro _ | apply Keeps.ite | apply State.freshShadow_kept | apply State.setFc_kept | apply State.put_kept
      | split)

theorem State.startRevert_kept {s : State} (hs : Keeps K s) : Keeps K (State.startRevert s) := by
  unfold State.startRevert
  try dsimp only
  with_reducible repeat'
    (first
      | assumption | intro _ | apply Keeps.ite | apply State.stageStart_kept | apply State.put_kept | split)

theorem State.revertTrigger_kept {s : State} (hs : Keeps K s) (b : Nat) : Keeps K (State.revertTrigger s b) := by
  unfold State.revertTrigger
  try dsimp only
  with_reducible repeat' (first | assumption | intro _ | apply Keeps.ite | apply State.startRevert_kept | split)

theorem State.engReset_kept {s : State} (hs : Keeps K s) (n : Nat) : Keeps K (State.engReset s n) := by
  unfold State.engReset
  try dsimp only
  with_reducible repeat'
    (first
      | assumption | intro _ | apply Keeps.ite | apply State.setEngine_kept | apply State.put_kept | split)

theorem State.engStart_kept {s : State} (hs : Keeps K s) (n : Nat) (entry : Nat) : Keeps K (State.engStart s n entry) := by
  unfold State.engStart
  try dsimp only
  with_reducible repeat'
    (first
      | assumption | intro _ | apply Keeps.ite | apply State.setEngine_kept | apply State.put_kept | split)

theorem State.roleVacant_kept {s : State} (hs : Keeps K s) (n : Nat) (role : Nat) : Keeps K (State.roleVacant s n role) := by
  unfold State.roleVacant
  try dsimp only
  with_reducible repeat' (first | assumption | intro _ | apply Keeps.ite | apply State.raise_kept | split)

theorem State.retireEngine_kept {s : State} (hs : Keeps K s) (n : Nat) : Keeps K (State.retireEngine s n) := by
  unfold State.retireEngine
  try dsimp only
  with_reducible repeat'
    (first
      | assumption | intro _ | apply Keeps.ite | apply State.abortTests_kept | apply State.engReset_kept | apply State.put_kept
      | apply State.raise_kept | apply State.log_kept | apply State.setEngine_kept | apply State.setToken_kept
      | apply State.roleVacant_kept | apply State.revertTrigger_kept | split)

theorem State.engineFault_kept {s : State} (hs : Keeps K s) (n : Nat) (cause : Nat) :
    Keeps K (State.engineFault s n cause) := by
  unfold State.engineFault
  try dsimp only
  with_reducible repeat'
    (first
      | assumption | intro _ | apply Keeps.ite | apply State.put_kept | apply State.inc_kept | apply State.raise_kept
      | apply State.log_kept | apply State.setEngine_kept | apply State.revertTrigger_kept | apply State.decideReset_kept
      | apply State.retireEngine_kept | split)

theorem State.recordRepair_kept {s : State} (hs : Keeps K s) (loc : Nat) : Keeps K (State.recordRepair s loc) := by
  unfold State.recordRepair
  try dsimp only
  with_reducible repeat'
    (first
      | assumption | intro _ | apply Keeps.ite | apply State.put_kept | apply State.raise_kept | split)

theorem State.rowRepaired_kept {s : State} (hs : Keeps K s) (r : RowId) : Keeps K (State.rowRepaired s r) := by
  unfold State.rowRepaired
  try dsimp only
  with_reducible repeat'
    (first
      | assumption | intro _ | apply Keeps.ite | apply State.setSvc_kept | apply State.raise_kept | apply State.log_kept
      | apply State.recordRepair_kept | split)

theorem State.rowPermanent_kept {s : State} (hs : Keeps K s) (r : RowId) : Keeps K (State.rowPermanent s r) := by
  unfold State.rowPermanent
  try dsimp only
  with_reducible repeat'
    (first
      | assumption | intro _ | apply Keeps.ite | apply State.abortTests_kept | apply State.setSvc_kept | apply State.setJn_kept
      | apply State.log_kept | apply State.retireEngine_kept | apply State.raise_kept | apply State.rowRepaired_kept | split)

theorem State.rowCorrected_kept {s : State} (hs : Keeps K s) (r0 : RowId) : Keeps K (State.rowCorrected s r0) := by
  unfold State.rowCorrected
  try dsimp only
  with_reducible repeat'
    (first
      | assumption | intro _ | apply Keeps.ite | apply State.setSvc_kept | apply State.log_kept | apply State.rowPermanent_kept
      | split)

theorem State.rowUncorrectable_kept {s : State} (hs : Keeps K s) (r0 : RowId) : Keeps K (State.rowUncorrectable s r0) := by
  unfold State.rowUncorrectable
  try dsimp only
  with_reducible repeat'
    (first
      | assumption | intro _ | apply Keeps.ite | apply State.log_kept | apply State.rowPermanent_kept | split)

end Sys2Proof.Machine
end

