-- ==== Sys2Proof/Laws/KeptSpine.lean ====
section
/-! SUPPORT. What no command disturbs, in the lanes and links of the Spine ports: one lemma for each operation and each command. -/

set_option linter.unreachableTactic false
set_option linter.unusedTactic false

namespace Sys2Proof.Machine

variable {K : Mark}

theorem State.noteSpares_kept {s : State} (hs : Keeps K s) (p : Nat) : Keeps K (State.noteSpares s p) := by
  unfold State.noteSpares
  try dsimp only
  with_reducible repeat' (first | assumption | intro _ | apply Keeps.ite | apply State.put_kept | split)

theorem State.seek_kept {s : State} (hs : Keeps K s) (p : Nat) (k : Nat) : Keeps K (State.seek s p k) := by
  unfold State.seek
  try dsimp only
  with_reducible repeat'
    (first
      | assumption | intro _ | apply Keeps.ite | apply State.setLane_kept | apply State.put_kept | split)

theorem State.setRxRole_kept {s : State} (hs : Keeps K s) (p : Nat) (k : Nat) (role : Nat) (logical : Nat) :
    Keeps K (State.setRxRole s p k role logical) := by
  unfold State.setRxRole
  try dsimp only
  with_reducible repeat'
    (first
      | assumption | intro _ | apply Keeps.ite | apply State.when_kept | apply State.seek_kept | apply State.put_kept | split)

theorem State.retireRx_kept {s : State} (hs : Keeps K s) (p : Nat) (k : Nat) : Keeps K (State.retireRx s p k) := by
  unfold State.retireRx
  try dsimp only
  with_reducible repeat'
    (first
      | assumption | intro _ | apply Keeps.ite | apply State.setRxRole_kept | apply State.inc_kept | apply State.setLane_kept
      | split)

theorem State.setTxRole_kept {s : State} (hs : Keeps K s) (p : Nat) (k : Nat) (role : Nat) (logical : Nat) :
    Keeps K (State.setTxRole s p k role logical) := by
  unfold State.setTxRole
  try dsimp only
  with_reducible repeat'
    (first
      | assumption | intro _ | apply Keeps.ite | apply State.setLane_kept | apply State.put_kept | split)

theorem State.setTaps_kept {s : State} (hs : Keeps K s) (p : Nat) (k : Nat) (pre : Nat) (post : Nat) :
    Keeps K (State.setTaps s p k pre post) := by
  unfold State.setTaps
  try dsimp only
  with_reducible repeat'
    (first
      | assumption | intro _ | apply Keeps.ite | apply State.put_kept | apply State.usedFree_kept | split)

theorem State.adapt_kept {s : State} (hs : Keeps K s) (p : Nat) (k : Nat) : Keeps K (State.adapt s p k) := by
  unfold State.adapt
  try dsimp only
  with_reducible repeat'
    (first
      | assumption | intro _ | apply Keeps.ite | apply State.usedFree_kept | apply State.setReg_kept | split)

theorem State.freshMarkers_kept {s : State} (hs : Keeps K s) (p : Nat) : Keeps K (State.freshMarkers s p) := by
  unfold State.freshMarkers
  try dsimp only
  with_reducible repeat'
    (first
      | assumption | intro _ | apply Keeps.ite | apply State.each_kept | apply State.setLane_kept | split)

theorem State.chooseLanes_kept {s : State} (hs : Keeps K s) (p : Nat) (pperm : List Nat) :
    Keeps K (State.chooseLanes s p pperm) := by
  unfold State.chooseLanes
  try dsimp only
  with_reducible repeat'
    (first
      | assumption | intro _ | apply Keeps.ite | apply State.each_kept | apply State.setRxRole_kept | apply State.setTxRole_kept
      | apply State.noteSpares_kept | split)

theorem State.sendLm_kept {s : State} (hs : Keeps K s) (p : Nat) (sub : Nat) (body : List Byte) :
    Keeps K (State.sendLm s p sub body) := by
  unfold State.sendLm
  try dsimp only
  with_reducible repeat' (first | assumption | intro _ | apply Keeps.ite | apply State.setLink_kept | split)

theorem State.sendHello_kept {s : State} (hs : Keeps K s) (p : Nat) : Keeps K (State.sendHello s p) := by
  unfold State.sendHello
  try dsimp only
  with_reducible repeat' (first | assumption | intro _ | apply Keeps.ite | apply State.sendLm_kept | split)

theorem State.sendBeacon_kept {s : State} (hs : Keeps K s) (p : Nat) : Keeps K (State.sendBeacon s p) := by
  unfold State.sendBeacon
  try dsimp only
  with_reducible repeat' (first | assumption | intro _ | apply Keeps.ite | apply State.sendLm_kept | split)

theorem State.sendInc_kept {s : State} (hs : Keeps K s) (p : Nat) (r : IncRec) : Keeps K (State.sendInc s p r) := by
  unfold State.sendInc
  try dsimp only
  with_reducible repeat' (first | assumption | intro _ | apply Keeps.ite | apply State.sendLm_kept | split)

theorem State.sendRejoin_kept {s : State} (hs : Keeps K s) (p : Nat) (take : Option Nat) (roleId : Nat) (roleInc : Nat) :
    Keeps K (State.sendRejoin s p take roleId roleInc) := by
  unfold State.sendRejoin
  try dsimp only
  with_reducible repeat' (first | assumption | intro _ | apply Keeps.ite | apply State.sendLm_kept | split)

theorem State.sendNarrow_kept {s : State} (hs : Keeps K s) (p : Nat) (lane : Nat) : Keeps K (State.sendNarrow s p lane) := by
  unfold State.sendNarrow
  try dsimp only
  with_reducible repeat' (first | assumption | intro _ | apply Keeps.ite | apply State.sendLm_kept | split)

theorem State.helloAll_kept {s : State} (hs : Keeps K s) : Keeps K (State.helloAll s) := by
  unfold State.helloAll
  try dsimp only
  with_reducible repeat'
    (first
      | assumption | intro _ | apply Keeps.ite | apply State.each_kept | apply State.sendHello_kept | split)

theorem State.dropSeq_kept {s : State} (hs : Keeps K s) (p : Nat) : Keeps K (State.dropSeq s p) := by
  unfold State.dropSeq
  try dsimp only
  with_reducible repeat'
    (first
      | assumption | intro _ | apply Keeps.ite | apply State.when_kept | apply State.addSat_kept | apply State.raise_kept
      | apply State.setLink_kept | apply State.put_kept | split)

theorem State.clearCredits_kept {s : State} (hs : Keeps K s) (p : Nat) : Keeps K (State.clearCredits s p) := by
  unfold State.clearCredits
  try dsimp only
  with_reducible repeat'
    (first
      | assumption | intro _ | apply Keeps.ite | apply State.setJn_kept | apply State.setLink_kept | split)

theorem State.setLState_kept {s : State} (hs : Keeps K s) (p : Nat) (v : Nat) : Keeps K (State.setLState s p v) := by
  unfold State.setLState
  try dsimp only
  with_reducible repeat'
    (first
      | assumption | intro _ | apply Keeps.ite | apply State.when_kept | apply State.abortTests_kept | apply State.raise_kept
      | apply State.setLink_kept | apply State.put_kept | split)

theorem State.retirePort_kept {s : State} (hs : Keeps K s) (p : Nat) : Keeps K (State.retirePort s p) := by
  unfold State.retirePort
  try dsimp only
  with_reducible repeat'
    (first
      | assumption | intro _ | apply Keeps.ite | apply State.setLState_kept | apply State.put_kept | apply State.raise_kept
      | apply State.log_kept | apply State.dropSeq_kept | split)

theorem State.toDown_kept {s : State} (hs : Keeps K s) (p : Nat) : Keeps K (State.toDown s p) := by
  unfold State.toDown
  try dsimp only
  with_reducible repeat'
    (first
      | assumption | intro _ | apply Keeps.ite | apply State.setLState_kept | apply State.setLink_kept
      | apply State.retirePort_kept | split)

theorem State.leaveActive_kept {s : State} (hs : Keeps K s) (p : Nat) : Keeps K (State.leaveActive s p) := by
  unfold State.leaveActive
  try dsimp only
  with_reducible repeat'
    (first
      | assumption | intro _ | apply Keeps.ite | apply State.setPort_kept | apply State.setLink_kept | apply State.put_kept
      | apply State.toDown_kept | split)

theorem State.replayAll_kept {s : State} (hs : Keeps K s) (p : Nat) : Keeps K (State.replayAll s p) := by
  unfold State.replayAll
  try dsimp only
  with_reducible repeat' (first | assumption | intro _ | apply Keeps.ite | apply State.setLink_kept | split)

theorem State.releaseTo_kept {s : State} (hs : Keeps K s) (p : Nat) (a : Nat) : Keeps K (State.releaseTo s p a) := by
  unfold State.releaseTo
  try dsimp only
  with_reducible repeat'
    (first
      | assumption | intro _ | apply Keeps.ite | apply State.setLink_kept | apply State.put_kept | split)

theorem State.freshHistory_kept {s : State} (hs : Keeps K s) (p : Nat) (k : Nat) : Keeps K (State.freshHistory s p k) := by
  unfold State.freshHistory
  try dsimp only
  with_reducible repeat'
    (first
      | assumption | intro _ | apply Keeps.ite | apply State.setLane_kept | apply State.put_kept | split)

theorem State.enterActive_kept {s : State} (hs : Keeps K s) (p : Nat) : Keeps K (State.enterActive s p) := by
  unfold State.enterActive
  try dsimp only
  with_reducible repeat'
    (first
      | assumption | intro _ | apply Keeps.ite | apply State.raise_kept | apply State.releaseTo_kept
      | apply State.replayAll_kept | apply State.dropSeq_kept | apply State.clearCredits_kept | apply State.put_kept
      | apply State.setLink_kept | apply State.setPort_kept | apply State.each_kept | apply State.freshHistory_kept
      | apply State.setJn_kept | apply State.setLState_kept | apply State.sendHello_kept | split)

theorem State.onEnter_kept {s : State} (hs : Keeps K s) (p : Nat) (st : Nat) : Keeps K (State.onEnter s p st) := by
  unfold State.onEnter
  try dsimp only
  with_reducible repeat'
    (first
      | assumption | intro _ | apply Keeps.ite | apply State.put_kept | apply State.each_kept | apply State.setLane_kept
      | apply State.setTaps_kept | apply State.setPort_kept | apply State.freshHistory_kept | apply State.when_kept
      | apply State.raise_kept | apply State.setLink_kept | apply State.enterActive_kept | split)

theorem State.enterState_kept {s : State} (hs : Keeps K s) (p : Nat) (st : Nat) : Keeps K (State.enterState s p st) := by
  unfold State.enterState
  try dsimp only
  with_reducible repeat'
    (first
      | assumption | intro _ | apply Keeps.ite | apply State.leaveActive_kept | apply State.each_kept | apply State.seek_kept
      | apply State.setLane_kept | apply State.put_kept | apply State.onEnter_kept | split)

theorem State.enterAlign_kept {s : State} (hs : Keeps K s) (p : Nat) (pperm : List Nat) :
    Keeps K (State.enterAlign s p pperm) := by
  unfold State.enterAlign
  try dsimp only
  with_reducible repeat'
    (first
      | assumption | intro _ | apply Keeps.ite | apply State.chooseLanes_kept | apply State.enterState_kept | split)

theorem State.rateDown_kept {s : State} (hs : Keeps K s) (p : Nat) : Keeps K (State.rateDown s p) := by
  unfold State.rateDown
  try dsimp only
  with_reducible repeat'
    (first
      | assumption | intro _ | apply Keeps.ite | apply State.raise_kept | apply State.enterState_kept | apply State.setLink_kept
      | apply State.retirePort_kept | apply State.put_kept | split)

theorem State.retrain_kept {s : State} (hs : Keeps K s) (p : Nat) : Keeps K (State.retrain s p) := by
  unfold State.retrain
  try dsimp only
  with_reducible repeat' (first | assumption | intro _ | apply Keeps.ite | apply State.enterState_kept | split)

theorem State.lowerRate_kept {s : State} (hs : Keeps K s) (p : Nat) (rate : Nat) (st : Nat) :
    Keeps K (State.lowerRate s p rate st) := by
  unfold State.lowerRate
  try dsimp only
  with_reducible repeat'
    (first
      | assumption | intro _ | apply Keeps.ite | apply State.put_kept | apply State.raise_kept | apply State.enterState_kept
      | split)

theorem State.startReplay_kept {s : State} (hs : Keeps K s) (p : Nat) (i : Nat) (at_ : Option Nat) :
    Keeps K (State.startReplay s p i at_) := by
  unfold State.startReplay
  try dsimp only
  with_reducible repeat'
    (first
      | assumption | intro _ | apply Keeps.ite | apply State.raise_kept | apply State.retrain_kept | apply State.setLink_kept
      | split)

theorem State.requestReplay_kept {s : State} (hs : Keeps K s) (p : Nat) : Keeps K (State.requestReplay s p) := by
  unfold State.requestReplay
  try dsimp only
  with_reducible repeat' (first | assumption | intro _ | apply Keeps.ite | apply State.setLink_kept | split)

theorem State.takeAck_kept {s : State} (hs : Keeps K s) (p : Nat) (ackv : Bool) (ack : Nat) (retry : Bool) :
    Keeps K (State.takeAck s p ackv ack retry) := by
  unfold State.takeAck
  try dsimp only
  with_reducible repeat'
    (first
      | assumption | intro _ | apply Keeps.ite | apply State.releaseTo_kept | apply State.inc_kept | apply State.when_kept
      | apply State.setPort_kept | apply State.startReplay_kept | split)

theorem State.replayEccLoss_kept {s : State} (hs : Keeps K s) (p : Nat) : Keeps K (State.replayEccLoss s p) := by
  unfold State.replayEccLoss
  try dsimp only
  with_reducible repeat'
    (first
      | assumption | intro _ | apply Keeps.ite | apply State.dropSeq_kept | apply State.retrain_kept | split)

theorem State.giveCredit_kept {s : State} (hs : Keeps K s) (p : Nat) (c : Nat) : Keeps K (State.giveCredit s p c) := by
  unfold State.giveCredit
  try dsimp only
  with_reducible repeat' (first | assumption | intro _ | apply Keeps.ite | apply State.setLink_kept | split)

theorem State.degrade_kept {s : State} (hs : Keeps K s) (p : Nat) (k : Nat) : Keeps K (State.degrade s p k) := by
  unfold State.degrade
  try dsimp only
  with_reducible repeat'
    (first
      | assumption | intro _ | apply Keeps.ite | apply State.sendNarrow_kept | apply State.setPort_kept
      | apply State.retrain_kept | apply State.retirePort_kept | split)

theorem State.requestRetire_kept {s : State} (hs : Keeps K s) (p : Nat) (k : Nat) (forced : Bool) :
    Keeps K (State.requestRetire s p k forced) := by
  unfold State.requestRetire
  try dsimp only
  with_reducible repeat'
    (first
      | assumption | intro _ | apply Keeps.ite | apply State.setPort_kept | apply State.raise_kept | apply State.degrade_kept
      | split)

theorem State.handleHeld_kept {s : State} (hs : Keeps K s) (p : Nat) : Keeps K (State.handleHeld s p) := by
  unfold State.handleHeld
  try dsimp only
  with_reducible repeat'
    (first
      | assumption | intro _ | apply Keeps.ite | apply State.setPort_kept | apply State.each_kept
      | apply State.requestRetire_kept | split)

theorem State.refuseSwap_kept {s : State} (hs : Keeps K s) (p : Nat) : Keeps K (State.refuseSwap s p) := by
  unfold State.refuseSwap
  try dsimp only
  with_reducible repeat'
    (first
      | assumption | intro _ | apply Keeps.ite | apply State.setPort_kept | apply State.raise_kept | apply State.degrade_kept
      | apply State.handleHeld_kept | split)

theorem State.judgePermanent_kept {s : State} (hs : Keeps K s) (p : Nat) (k : Nat) : Keeps K (State.judgePermanent s p k) := by
  unfold State.judgePermanent
  try dsimp only
  with_reducible repeat'
    (first
      | assumption | intro _ | apply Keeps.ite | apply State.setLane_kept | apply State.put_kept | apply State.raise_kept
      | apply State.log_kept | apply State.requestRetire_kept | apply State.retireRx_kept | apply State.noteSpares_kept | split)

theorem State.swapRequest_kept {s : State} (hs : Keeps K s) (p : Nat) (k : Nat) : Keeps K (State.swapRequest s p k) := by
  unfold State.swapRequest
  try dsimp only
  with_reducible repeat' (first | assumption | intro _ | apply Keeps.ite | apply State.setPort_kept | split)

theorem State.swapBlock_kept {s : State} (hs : Keeps K s) (p : Nat) (k : Nat) : Keeps K (State.swapBlock s p k) := by
  unfold State.swapBlock
  try dsimp only
  with_reducible repeat'
    (first
      | assumption | intro _ | apply Keeps.ite | apply State.setRxRole_kept | apply State.retireRx_kept
      | apply State.freshMarkers_kept | apply State.setPort_kept | apply State.abortTests_kept | split)

theorem State.swapComplete_kept {s : State} (hs : Keeps K s) (p : Nat) (pauseNs : Nat) :
    Keeps K (State.swapComplete s p pauseNs) := by
  unfold State.swapComplete
  try dsimp only
  with_reducible repeat'
    (first
      | assumption | intro _ | apply Keeps.ite | apply State.setPort_kept | apply State.inc_kept | apply State.put_kept
      | apply State.noteSpares_kept | apply State.raise_kept | apply State.handleHeld_kept | split)

theorem State.tryReadmit_kept {s : State} (hs : Keeps K s) (p : Nat) (k : Nat) (waived : Bool) :
    Keeps K (State.tryReadmit s p k waived) := by
  unfold State.tryReadmit
  try dsimp only
  with_reducible repeat' (first | assumption | intro _ | apply Keeps.ite | apply State.setPort_kept | split)

theorem State.readmitted_kept {s : State} (hs : Keeps K s) (p : Nat) (k : Nat) : Keeps K (State.readmitted s p k) := by
  unfold State.readmitted
  try dsimp only
  with_reducible repeat'
    (first
      | assumption | intro _ | apply Keeps.ite | apply State.setRxRole_kept | apply State.put_kept | apply State.setPort_kept
      | apply State.setLane_kept | apply State.noteSpares_kept | apply State.raise_kept | split)

theorem State.readmitRequest_kept {s : State} (hs : Keeps K s) (p : Nat) (k : Nat) : Keeps K (State.readmitRequest s p k) := by
  unfold State.readmitRequest
  try dsimp only
  with_reducible repeat' (first | assumption | intro _ | apply Keeps.ite | apply State.setPort_kept | split)

theorem execFckLoss_kept (p : Port) {s : State} (hs : Keeps K s) : ∀ t, execFckLoss p s = .next t → Keeps K t := by
  unfold execFckLoss
  try dsimp only
  with_reducible repeat'
    (first
      | (intro t ht; injection ht with ht; subst ht) | assumption | intro _ | apply Keeps.ite | apply State.raise_kept
      | apply State.inc_kept | apply State.put_kept | apply State.enterState_kept | split)

theorem execFckLocked_kept (p : Port) (rate : Fin 3) {s : State} (hs : Keeps K s) :
    ∀ t, execFckLocked p rate s = .next t → Keeps K t := by
  unfold execFckLocked
  try dsimp only
  with_reducible repeat'
    (first
      | (intro t ht; injection ht with ht; subst ht) | assumption | intro _ | apply Keeps.ite | apply State.put_kept
      | apply State.enterState_kept | apply State.lowerRate_kept | split)

theorem execLanesLocked_kept (p : Port) (good : BitVec 5) (partFast : Bool) {s : State} (hs : Keeps K s) :
    ∀ t, execLanesLocked p good partFast s = .next t → Keeps K t := by
  unfold execLanesLocked
  try dsimp only
  with_reducible repeat'
    (first
      | (intro t ht; injection ht with ht; subst ht) | assumption | intro _ | apply Keeps.ite | apply State.each_kept
      | apply State.put_kept | apply State.setPort_kept | apply State.enterState_kept | split)

theorem execEqualizeDone_kept (p : Port) (pperm : BitVec 5) {s : State} (hs : Keeps K s) :
    ∀ t, execEqualizeDone p pperm s = .next t → Keeps K t := by
  unfold execEqualizeDone
  try dsimp only
  with_reducible repeat'
    (first
      | (intro t ht; injection ht with ht; subst ht) | assumption | intro _ | apply Keeps.ite | apply State.enterAlign_kept
      | split)

theorem execAlignDone_kept (p : Port) {s : State} (hs : Keeps K s) : ∀ t, execAlignDone p s = .next t → Keeps K t := by
  unfold execAlignDone
  try dsimp only
  with_reducible repeat'
    (first
      | (intro t ht; injection ht with ht; subst ht) | assumption | intro _ | apply Keeps.ite | apply State.enterState_kept
      | split)

theorem execTrainingTimeout_kept (p : Port) (rxClean : BitVec 5) (txClean : BitVec 5) (pperm : BitVec 5) {s : State} (hs :
    Keeps K s) : ∀ t, execTrainingTimeout p rxClean txClean pperm s = .next t → Keeps K t := by
  unfold execTrainingTimeout
  try dsimp only
  with_reducible repeat'
    (first
      | (intro t ht; injection ht with ht; subst ht) | assumption | intro _ | apply Keeps.ite | apply State.rateDown_kept
      | apply State.enterAlign_kept | apply State.each_kept | apply State.setLane_kept | apply State.enterState_kept | split)

theorem execHoldoffExpiry_kept (p : Port) {s : State} (hs : Keeps K s) : ∀ t, execHoldoffExpiry p s = .next t → Keeps K t := by
  unfold execHoldoffExpiry
  try dsimp only
  with_reducible repeat'
    (first
      | (intro t ht; injection ht with ht; subst ht) | assumption | intro _ | apply Keeps.ite | apply State.put_kept
      | apply State.enterState_kept | split)

theorem State.applyTaps_kept {s : State} (hs : Keeps K s) (p : Nat) (k : Nat) (preReq : Nat) (postReq : Nat) (preset : Nat) :
    Keeps K (State.applyTaps s p k preReq postReq preset) := by
  unfold State.applyTaps
  try dsimp only
  with_reducible repeat'
    (first
      | assumption | intro _ | apply Keeps.ite | apply State.setTaps_kept | apply State.setLane_kept | split)

theorem State.askTaps_kept {s : State} (hs : Keeps K s) (p : Nat) (k : Nat) (ask : Option (Fin 4 × Fin 3 × Fin 8)) :
    Keeps K (State.askTaps s p k ask) := by
  unfold State.askTaps
  try dsimp only
  with_reducible repeat' (first | assumption | intro _ | apply Keeps.ite | apply State.setLane_kept | split)

theorem State.learn_kept {s : State} (hs : Keeps K s) (p : Nat) (w : Nat) (k : Nat) : Keeps K (State.learn s p w k) := by
  unfold State.learn
  try dsimp only
  with_reducible repeat' (first | assumption | intro _ | apply Keeps.ite | apply State.setPort_kept | split)

theorem State.spareErrs_kept {s : State} (hs : Keeps K s) (p : Nat) (k : Nat) (n : Nat) :
    Keeps K (State.spareErrs s p k n) := by
  unfold State.spareErrs
  try dsimp only
  with_reducible repeat'
    (first
      | assumption | intro _ | apply Keeps.ite | apply State.when_kept | apply State.addSat_kept | apply State.setLane_kept
      | split)

theorem State.adaptOn_kept {s : State} (hs : Keeps K s) (p : Nat) (k : Nat) : Keeps K (State.adaptOn s p k) := by
  unfold State.adaptOn
  try dsimp only
  with_reducible repeat'
    (first
      | assumption | intro _ | apply Keeps.ite | apply State.when_kept | apply State.adapt_kept | split)

theorem State.takeBlock_kept {s : State} (hs : Keeps K s) (p : Nat) (j : Nat) (n : Nat) (inv : Bool) (margin : Nat) (ask :
    Option (Fin 4 × Fin 3 × Fin 8)) : Keeps K (State.takeBlock s p j n inv margin ask) := by
  unfold State.takeBlock
  try dsimp only
  with_reducible repeat'
    (first
      | assumption | intro _ | apply Keeps.ite | apply State.put_kept | apply State.adaptOn_kept | apply State.setPort_kept
      | apply State.setLane_kept | apply State.applyTaps_kept | apply State.askTaps_kept | apply State.when_kept
      | apply State.swapRequest_kept | apply State.swapBlock_kept | split)

theorem execTrainingBlockRx_kept (p : Port) (w : LaneNo) (b : BitVec 160) (margin : Fin 64) (ask : Option (Fin 4 × Fin 3 × Fin
    8)) {s : State} (hs : Keeps K s) : ∀ t, execTrainingBlockRx p w b margin ask s = .next t → Keeps K t := by
  unfold execTrainingBlockRx
  try dsimp only
  repeat' split
  all_goals (intro t ht; injection ht with ht; subst ht)
  all_goals
    with_reducible repeat'
      (first
        | assumption | intro _ | apply Keeps.ite | apply State.spareErrs_kept | apply State.setLane_kept
        | apply State.takeBlock_kept | apply State.learn_kept | split)

theorem execTapRequestTimeout_kept (p : Port) (k : LaneNo) {s : State} (hs : Keeps K s) :
    ∀ t, execTapRequestTimeout p k s = .next t → Keeps K t := by
  unfold execTapRequestTimeout
  try dsimp only
  with_reducible repeat'
    (first
      | (intro t ht; injection ht with ht; subst ht) | assumption | intro _ | apply Keeps.ite | apply State.setLane_kept
      | split)

theorem State.narrowRx_kept {s : State} (hs : Keeps K s) (p : Nat) (f : Nat) (others : List Nat) :
    Keeps K (State.narrowRx s p f others) := by
  unfold State.narrowRx
  try dsimp only
  with_reducible repeat'
    (first
      | assumption | intro _ | apply Keeps.ite | apply State.each_kept | apply State.setRxRole_kept | apply State.retireRx_kept
      | apply State.put_kept | apply State.setPort_kept | apply State.noteSpares_kept | apply State.raise_kept | split)

theorem State.adoptWidth_kept {s : State} (hs : Keeps K s) (p : Nat) (count : Nat) : Keeps K (State.adoptWidth s p count) := by
  unfold State.adoptWidth
  try dsimp only
  with_reducible repeat' (first | assumption | intro _ | apply Keeps.ite | apply State.narrowRx_kept | split)

theorem State.skewOf_kept {s : State} (hs : Keeps K s) (p : Nat) (count : Nat) (arrival : Nat) :
    Keeps K (State.skewOf s p count arrival).2 := by
  unfold State.skewOf
  try dsimp only
  with_reducible repeat' (first | assumption | intro _ | apply Keeps.ite | apply State.setPort_kept | split)

theorem State.noteInterval_kept {s : State} (hs : Keeps K s) (p : Nat) (k : Nat) (kind : Nat) (errs : Nat) (margin : Nat) (skew
    : Option Nat) (mk : Option Nat) : Keeps K (State.noteInterval s p k kind errs margin skew mk) := by
  unfold State.noteInterval
  try dsimp only
  with_reducible repeat'
    (first
      | assumption | intro _ | apply Keeps.ite | apply State.put_kept | apply State.when_kept | apply State.adapt_kept
      | apply State.addSat_kept | apply State.inc_kept | apply State.setLane_kept | split)

theorem State.judgeInterval_kept {s : State} (hs : Keeps K s) (p : Nat) (k : Nat) (kind : Nat) :
    Keeps K (State.judgeInterval s p k kind) := by
  unfold State.judgeInterval
  try dsimp only
  with_reducible repeat'
    (first
      | assumption | intro _ | apply Keeps.ite | apply State.when_kept | apply State.setLane_kept | apply State.put_kept
      | apply State.judgePermanent_kept | split)

theorem State.markerFields_kept {s : State} (hs : Keeps K s) (p : Nat) (k : Nat) (role : Nat) (n : Nat) :
    Keeps K (State.markerFields s p k role n) := by
  unfold State.markerFields
  try dsimp only
  with_reducible repeat'
    (first
      | assumption | intro _ | apply Keeps.ite | apply State.refuseSwap_kept | apply State.readmitted_kept
      | apply State.adoptWidth_kept | apply State.tryReadmit_kept | apply State.when_kept | apply State.swapRequest_kept
      | apply State.readmitRequest_kept | split)

theorem State.takeInterval_kept {s : State} (hs : Keeps K s) (p : Nat) (k : Nat) (mk : Option Nat) (rxBip : BitVec 8) (margin :
    Nat) (arrival : Nat) (pauseNs : Nat) : Keeps K (State.takeInterval s p k mk rxBip margin arrival pauseNs) := by
  unfold State.takeInterval
  try dsimp only
  with_reducible repeat'
    (first
      | assumption | intro _ | apply Keeps.ite | apply State.skewOf_kept | apply State.noteInterval_kept
      | apply State.setLane_kept | apply State.setRxRole_kept | apply State.noteSpares_kept | apply State.judgeInterval_kept
      | apply State.swapComplete_kept | apply State.markerFields_kept | split)

theorem execAmReceive_kept (p : Port) (w : LaneNo) (m : BitVec 160) (rxBip : BitVec 8) (margin : Fin 64) (arrival : BitVec 16)
    (pauseNs : BitVec 16) {s : State} (hs : Keeps K s) : ∀ t, execAmReceive p w m rxBip margin arrival pauseNs s = .next t →
    Keeps K t := by
  unfold execAmReceive
  try dsimp only
  with_reducible repeat'
    (first
      | (intro t ht; injection ht with ht; subst ht) | assumption | intro _ | apply Keeps.ite | apply State.learn_kept
      | apply State.takeInterval_kept | split)

theorem execSwapRequestRx_kept (p : Port) (k : LaneNo) {s : State} (hs : Keeps K s) :
    ∀ t, execSwapRequestRx p k s = .next t → Keeps K t := by
  unfold execSwapRequestRx
  try dsimp only
  with_reducible repeat'
    (first
      | (intro t ht; injection ht with ht; subst ht) | assumption | intro _ | apply Keeps.ite | apply State.swapRequest_kept
      | split)

theorem execSwapBlockRx_kept (p : Port) (k : LaneNo) {s : State} (hs : Keeps K s) :
    ∀ t, execSwapBlockRx p k s = .next t → Keeps K t := by
  unfold execSwapBlockRx
  try dsimp only
  with_reducible repeat'
    (first
      | (intro t ht; injection ht with ht; subst ht) | assumption | intro _ | apply Keeps.ite | apply State.swapBlock_kept
      | split)

theorem State.endPause_kept {s : State} (hs : Keeps K s) (p : Nat) : Keeps K (State.endPause s p) := by
  unfold State.endPause
  try dsimp only
  with_reducible repeat'
    (first
      | assumption | intro _ | apply Keeps.ite | apply State.setTxRole_kept | apply State.setPort_kept
      | apply State.noteSpares_kept | apply State.inc_kept | apply State.replayAll_kept | split)

theorem execSwapPauseEnd_kept (p : Port) {s : State} (hs : Keeps K s) : ∀ t, execSwapPauseEnd p s = .next t → Keeps K t := by
  unfold execSwapPauseEnd
  try dsimp only
  with_reducible repeat'
    (first
      | (intro t ht; injection ht with ht; subst ht) | assumption | intro _ | apply Keeps.ite | apply State.endPause_kept
      | split)

theorem execReadmitRequestRx_kept (p : Port) (k : LaneNo) {s : State} (hs : Keeps K s) :
    ∀ t, execReadmitRequestRx p k s = .next t → Keeps K t := by
  unfold execReadmitRequestRx
  try dsimp only
  with_reducible repeat'
    (first
      | (intro t ht; injection ht with ht; subst ht) | assumption | intro _ | apply Keeps.ite | apply State.readmitRequest_kept
      | split)

theorem State.testEnter_kept {s : State} (hs : Keeps K s) (p : Nat) : Keeps K (State.testEnter s p) := by
  unfold State.testEnter
  try dsimp only
  with_reducible repeat'
    (first
      | assumption | intro _ | apply Keeps.ite | apply State.put_kept | apply State.enterState_kept | split)

theorem State.testExit_kept {s : State} (hs : Keeps K s) (p : Nat) : Keeps K (State.testExit s p) := by
  unfold State.testExit
  try dsimp only
  with_reducible repeat'
    (first
      | assumption | intro _ | apply Keeps.ite | apply State.put_kept | apply State.enterState_kept | split)

theorem State.force_kept {s : State} (hs : Keeps K s) (p : Nat) (k : Nat) : Keeps K (State.force s p k) := by
  unfold State.force
  try dsimp only
  with_reducible repeat' (first | assumption | intro _ | apply Keeps.ite | apply State.requestRetire_kept | split)

theorem State.clearLane_kept {s : State} (hs : Keeps K s) (p : Nat) (k : Nat) : Keeps K (State.clearLane s p k) := by
  unfold State.clearLane
  try dsimp only
  with_reducible repeat'
    (first
      | assumption | intro _ | apply Keeps.ite | apply State.setPort_kept | apply State.tryReadmit_kept | split)

theorem State.injGo_kept {s : State} (hs : Keeps K s) (p : Nat) (k : Nat) : Keeps K (State.injGo s p k) := by
  unfold State.injGo
  try dsimp only
  with_reducible repeat' (first | assumption | intro _ | apply Keeps.ite | apply State.setLane_kept | split)

theorem execTestEnter_kept (p : Port) {s : State} (hs : Keeps K s) : ∀ t, execTestEnter p s = .next t → Keeps K t := by
  unfold execTestEnter
  try dsimp only
  with_reducible repeat'
    (first
      | (intro t ht; injection ht with ht; subst ht) | assumption | intro _ | apply Keeps.ite | apply State.testEnter_kept
      | split)

theorem execTestExit_kept (p : Port) {s : State} (hs : Keeps K s) : ∀ t, execTestExit p s = .next t → Keeps K t := by
  unfold execTestExit
  try dsimp only
  with_reducible repeat'
    (first
      | (intro t ht; injection ht with ht; subst ht) | assumption | intro _ | apply Keeps.ite | apply State.testExit_kept
      | split)

theorem execRetrain_kept (p : Port) {s : State} (hs : Keeps K s) : ∀ t, execRetrain p s = .next t → Keeps K t := by
  unfold execRetrain
  try dsimp only
  with_reducible repeat'
    (first
      | (intro t ht; injection ht with ht; subst ht) | assumption | intro _ | apply Keeps.ite | apply State.retrain_kept
      | split)

theorem execForce_kept (p : Port) (k : LaneNo) {s : State} (hs : Keeps K s) : ∀ t, execForce p k s = .next t → Keeps K t := by
  unfold execForce
  try dsimp only
  with_reducible repeat'
    (first
      | (intro t ht; injection ht with ht; subst ht) | assumption | intro _ | apply Keeps.ite | apply State.force_kept | split)

theorem execClear_kept (p : Port) (k : LaneNo) {s : State} (hs : Keeps K s) : ∀ t, execClear p k s = .next t → Keeps K t := by
  unfold execClear
  try dsimp only
  with_reducible repeat'
    (first
      | (intro t ht; injection ht with ht; subst ht) | assumption | intro _ | apply Keeps.ite | apply State.clearLane_kept
      | split)

theorem execInjGo_kept (p : Port) (k : LaneNo) {s : State} (hs : Keeps K s) : ∀ t, execInjGo p k s = .next t → Keeps K t := by
  unfold execInjGo
  try dsimp only
  with_reducible repeat'
    (first
      | (intro t ht; injection ht with ht; subst ht) | assumption | intro _ | apply Keeps.ite | apply State.injGo_kept | split)

theorem State.check_kept {s : State} (hs : Keeps K s) (p : Nat) (k : Nat) (b : List Bool) : Keeps K (State.check s p k b) := by
  unfold State.check
  try dsimp only
  with_reducible repeat'
    (first
      | assumption | intro _ | apply Keeps.ite | apply State.setLane_kept | apply State.put_kept | apply State.addSat_kept
      | apply State.spareErrs_kept | split)

theorem State.prbsWritten_kept {s : State} (hs : Keeps K s) {t : State} (ht : Keeps K t) (p : Nat) (k : Nat) :
    Keeps K (State.prbsWritten s t p k) := by
  unfold State.prbsWritten
  try dsimp only
  with_reducible repeat'
    (first
      | assumption | intro _ | apply Keeps.ite | apply State.seek_kept | apply State.when_kept | apply State.setLane_kept
      | split)

theorem execPrbsCheckerLock_kept (p : Port) (w : LaneNo) (early : BitVec 80) (late : BitVec 80) {s : State} (hs : Keeps K s) :
    ∀ t, execPrbsCheckerLock p w early late s = .next t → Keeps K t := by
  unfold execPrbsCheckerLock
  try dsimp only
  with_reducible repeat'
    (first
      | (intro t ht; injection ht with ht; subst ht) | assumption | intro _ | apply Keeps.ite | apply State.check_kept | split)

theorem State.updateAck_kept {s : State} (hs : Keeps K s) (p : Nat) : Keeps K (State.updateAck s p) := by
  unfold State.updateAck
  try dsimp only
  with_reducible repeat'
    (first
      | assumption | intro _ | apply Keeps.ite | apply State.put_kept | apply State.setLink_kept | split)

theorem State.deliverCell_kept {s : State} (hs : Keeps K s) (p : Nat) (c : Cell) : Keeps K (State.deliverCell s p c) := by
  unfold State.deliverCell
  try dsimp only
  with_reducible repeat'
    (first
      | assumption | intro _ | apply Keeps.ite | apply State.present_kept | apply State.when_kept | apply State.inc_kept
      | apply State.giveCredit_kept | split)

theorem State.acceptFrame_kept {s : State} (hs : Keeps K s) (p : Nat) (t : Trailer) (f : List Byte) :
    Keeps K (State.acceptFrame s p t f) := by
  unfold State.acceptFrame
  try dsimp only
  with_reducible repeat'
    (first
      | assumption | intro _ | apply Keeps.ite | apply State.put_kept | apply State.setLink_kept | apply State.updateAck_kept
      | apply State.deliverCell_kept | apply State.when_kept | apply State.inc_kept | split)

theorem State.goodFrame_kept {s : State} (hs : Keeps K s) (p : Nat) (t : Trailer) (f : List Byte) (ecc : Bool) :
    Keeps K (State.goodFrame s p t f ecc) := by
  unfold State.goodFrame
  try dsimp only
  with_reducible repeat'
    (first
      | assumption | intro _ | apply Keeps.ite | apply State.takeAck_kept | apply State.replayEccLoss_kept
      | apply State.acceptFrame_kept | apply State.inc_kept | apply State.requestReplay_kept | split)

theorem State.badFrame_kept {s : State} (hs : Keeps K s) (p : Nat) : Keeps K (State.badFrame s p) := by
  unfold State.badFrame
  try dsimp only
  with_reducible repeat' (first | assumption | intro _ | apply Keeps.ite | apply State.requestReplay_kept | split)

theorem State.partnerActive_kept {s : State} (hs : Keeps K s) (p : Nat) : Keeps K (State.partnerActive s p) := by
  unfold State.partnerActive
  try dsimp only
  with_reducible repeat'
    (first
      | assumption | intro _ | apply Keeps.ite | apply State.enterState_kept | apply State.setLink_kept | split)

theorem State.frameRx_kept {s : State} (hs : Keeps K s) (p : Nat) (f : List Byte) (ecc : Bool) :
    Keeps K (State.frameRx s p f ecc) := by
  unfold State.frameRx
  try dsimp only
  with_reducible repeat'
    (first
      | assumption | intro _ | apply Keeps.ite | apply State.inc_kept | apply State.badFrame_kept | apply State.when_kept
      | apply State.partnerActive_kept | apply State.goodFrame_kept | split)

theorem execDataFrameRx_kept (p : Port) (f : List Byte) (ecc : Bool) {s : State} (hs : Keeps K s) :
    ∀ t, execDataFrameRx p f ecc s = .next t → Keeps K t := by
  unfold execDataFrameRx
  try dsimp only
  with_reducible repeat'
    (first
      | (intro t ht; injection ht with ht; subst ht) | assumption | intro _ | apply Keeps.ite | apply State.frameRx_kept
      | split)

theorem execAckOnlyFrameRx_kept (p : Port) (seq : BitVec 12) (ack : BitVec 12) (ackv : Bool) (retry : Bool) (ecc : Bool) {s :
    State} (hs : Keeps K s) : ∀ t, execAckOnlyFrameRx p seq ack ackv retry ecc s = .next t → Keeps K t := by
  unfold execAckOnlyFrameRx
  try dsimp only
  with_reducible repeat'
    (first
      | (intro t ht; injection ht with ht; subst ht) | assumption | intro _ | apply Keeps.ite | apply State.when_kept
      | apply State.partnerActive_kept | apply State.inc_kept | apply State.badFrame_kept | apply State.goodFrame_kept | split)

theorem execAckUpdateDue_kept (p : Port) {s : State} (hs : Keeps K s) : ∀ t, execAckUpdateDue p s = .next t → Keeps K t := by
  unfold execAckUpdateDue
  try dsimp only
  with_reducible repeat'
    (first
      | (intro t ht; injection ht with ht; subst ht) | assumption | intro _ | apply Keeps.ite | apply State.updateAck_kept
      | split)

theorem execRetryReqExpiry_kept (p : Port) {s : State} (hs : Keeps K s) :
    ∀ t, execRetryReqExpiry p s = .next t → Keeps K t := by
  unfold execRetryReqExpiry
  try dsimp only
  with_reducible repeat'
    (first
      | (intro t ht; injection ht with ht; subst ht) | assumption | intro _ | apply Keeps.ite | apply State.setLink_kept
      | split)

theorem execAckTimeout_kept (p : Port) (ecc : Bool) {s : State} (hs : Keeps K s) :
    ∀ t, execAckTimeout p ecc s = .next t → Keeps K t := by
  unfold execAckTimeout
  try dsimp only
  with_reducible repeat'
    (first
      | (intro t ht; injection ht with ht; subst ht) | assumption | intro _ | apply Keeps.ite | apply State.inc_kept
      | apply State.startReplay_kept | apply State.replayEccLoss_kept | split)

theorem execLinkSilence_kept (p : Port) {s : State} (hs : Keeps K s) : ∀ t, execLinkSilence p s = .next t → Keeps K t := by
  unfold execLinkSilence
  try dsimp only
  with_reducible repeat'
    (first
      | (intro t ht; injection ht with ht; subst ht) | assumption | intro _ | apply Keeps.ite | apply State.retrain_kept
      | split)

theorem execSeqStateExpiry_kept (p : Port) {s : State} (hs : Keeps K s) :
    ∀ t, execSeqStateExpiry p s = .next t → Keeps K t := by
  unfold execSeqStateExpiry
  try dsimp only
  with_reducible repeat'
    (first
      | (intro t ht; injection ht with ht; subst ht) | assumption | intro _ | apply Keeps.ite | apply State.dropSeq_kept
      | split)

theorem execCreditFrameDue_kept (p : Port) {s : State} (hs : Keeps K s) :
    ∀ t, execCreditFrameDue p s = .next t → Keeps K t := by
  unfold execCreditFrameDue
  try dsimp only
  with_reducible repeat'
    (first
      | (intro t ht; injection ht with ht; subst ht) | assumption | intro _ | apply Keeps.ite | apply State.setLink_kept
      | split)

theorem State.takeReturned_kept {s : State} (hs : Keeps K s) (p : Nat) (c : Nat) (v : Nat) :
    Keeps K (State.takeReturned s p c v) := by
  unfold State.takeReturned
  try dsimp only
  with_reducible repeat' (first | assumption | intro _ | apply Keeps.ite | apply State.setLink_kept | split)

theorem execCreditFrameRx_kept (p : Port) (ret : BitVec 128) {s : State} (hs : Keeps K s) :
    ∀ t, execCreditFrameRx p ret s = .next t → Keeps K t := by
  unfold execCreditFrameRx
  try dsimp only
  with_reducible repeat'
    (first
      | (intro t ht; injection ht with ht; subst ht) | assumption | intro _ | apply Keeps.ite | apply State.each_kept
      | apply State.takeReturned_kept | split)

theorem State.noSpares_kept {s : State} (hs : Keeps K s) (p : Nat) : Keeps K (State.noSpares s p) := by
  unfold State.noSpares
  try dsimp only
  with_reducible repeat'
    (first
      | assumption | intro _ | apply Keeps.ite | apply State.each_kept | apply State.setRxRole_kept | apply State.setTxRole_kept
      | apply State.noteSpares_kept | split)

theorem State.agreeCaps_kept {s : State} (hs : Keeps K s) (p : Nat) (r : CapRec) : Keeps K (State.agreeCaps s p r) := by
  unfold State.agreeCaps
  try dsimp only
  with_reducible repeat'
    (first
      | assumption | intro _ | apply Keeps.ite | apply State.put_kept | apply State.raise_kept | apply State.setLink_kept
      | apply State.when_kept | apply State.noSpares_kept | apply State.lowerRate_kept | apply State.enterState_kept | split)

theorem execCapabilityRecordRx_kept (p : Port) (slot : List Byte) {s : State} (hs : Keeps K s) :
    ∀ t, execCapabilityRecordRx p slot s = .next t → Keeps K t := by
  unfold execCapabilityRecordRx
  try dsimp only
  with_reducible repeat'
    (first
      | (intro t ht; injection ht with ht; subst ht) | assumption | intro _ | apply Keeps.ite | apply State.agreeCaps_kept
      | apply State.setLink_kept | apply State.inc_kept | split)

theorem execLinkDelayRequestRx_kept (p : Port) (id : BitVec 16) (ta : Stamp) (arrived : Stamp) {s : State} (hs : Keeps K s) :
    ∀ t, execLinkDelayRequestRx p id ta arrived s = .next t → Keeps K t := by
  unfold execLinkDelayRequestRx
  try dsimp only
  with_reducible repeat'
    (first
      | (intro t ht; injection ht with ht; subst ht) | assumption | intro _ | apply Keeps.ite | apply State.setLink_kept
      | split)

theorem State.acceptDelay_kept {s : State} (hs : Keeps K s) (p : Nat) (ds : List Int) : Keeps K (State.acceptDelay s p ds) := by
  unfold State.acceptDelay
  try dsimp only
  with_reducible repeat'
    (first
      | assumption | intro _ | apply Keeps.ite | apply State.setLink_kept | apply State.put_kept | split)

theorem execLinkDelayResponseRx_kept (p : Port) (id : BitVec 16) (ta : Stamp) (tb : Stamp) (tc : Stamp) (arrived : Stamp) {s :
    State} (hs : Keeps K s) : ∀ t, execLinkDelayResponseRx p id ta tb tc arrived s = .next t → Keeps K t := by
  unfold execLinkDelayResponseRx
  try dsimp only
  with_reducible repeat'
    (first
      | (intro t ht; injection ht with ht; subst ht) | assumption | intro _ | apply Keeps.ite | apply State.acceptDelay_kept
      | apply State.inc_kept | apply State.setLink_kept | split)

theorem State.setIncEntry_kept {s : State} (hs : Keeps K s) (x : Nat) (inc : Nat) (serial : Nat) :
    Keeps K (State.setIncEntry s x inc serial) := by
  unfold State.setIncEntry
  try dsimp only
  with_reducible repeat' (first | assumption | intro _ | apply Keeps.ite | apply State.setCase_kept | split)

theorem State.clearIncEntry_kept {s : State} (hs : Keeps K s) (x : Nat) : Keeps K (State.clearIncEntry s x) := by
  unfold State.clearIncEntry
  try dsimp only
  with_reducible repeat' (first | assumption | intro _ | apply Keeps.ite | apply State.setCase_kept | split)

theorem State.applyInc_kept {s : State} (hs : Keeps K s) (r : IncRec) : Keeps K (State.applyInc s r) := by
  unfold State.applyInc
  try dsimp only
  with_reducible repeat'
    (first
      | assumption | intro _ | apply Keeps.ite | apply State.setIncEntry_kept | apply State.clearIncEntry_kept
      | apply State.setSvc_kept | split)

theorem State.fence_kept {s : State} (hs : Keeps K s) (p : Nat) (by_ : Option (Option Nat)) :
    Keeps K (State.fence s p by_) := by
  unfold State.fence
  try dsimp only
  with_reducible repeat'
    (first
      | assumption | intro _ | apply Keeps.ite | apply State.when_kept | apply State.raise_kept | apply State.setLState_kept
      | apply State.setLink_kept | split)

theorem State.answerOlder_kept {s : State} (hs : Keeps K s) (p : Nat) (id : Nat) (inc : Nat) (serial : Nat) :
    Keeps K (State.answerOlder s p id inc serial) := by
  unfold State.answerOlder
  try dsimp only
  with_reducible repeat' (first | assumption | intro _ | apply Keeps.ite | apply State.sendInc_kept | split)

theorem State.fenceIfStale_kept {s : State} (hs : Keeps K s) (p : Nat) (id : Nat) (inc : Nat) (serial : Nat) :
    Keeps K (State.fenceIfStale s p id inc serial) := by
  unfold State.fenceIfStale
  try dsimp only
  with_reducible repeat' (first | assumption | intro _ | apply Keeps.ite | apply State.fence_kept | split)

theorem State.openLink_kept {s : State} (hs : Keeps K s) (p : Nat) : Keeps K (State.openLink s p) := by
  unfold State.openLink
  try dsimp only
  with_reducible repeat'
    (first
      | assumption | intro _ | apply Keeps.ite | apply State.when_kept | apply State.put_kept | apply State.setLState_kept
      | apply State.setLink_kept | split)

theorem State.judgeHello_kept {s : State} (hs : Keeps K s) (p : Nat) (fresh : Bool) : Keeps K (State.judgeHello s p fresh) := by
  unfold State.judgeHello
  try dsimp only
  with_reducible repeat'
    (first
      | assumption | intro _ | apply Keeps.ite | apply State.fence_kept | apply State.answerOlder_kept
      | apply State.setIncEntry_kept | apply State.openLink_kept | split)

theorem State.takeHello_kept {s : State} (hs : Keeps K s) (p : Nat) (h : Ident) (period : Nat) :
    Keeps K (State.takeHello s p h period) := by
  unfold State.takeHello
  try dsimp only
  with_reducible repeat'
    (first
      | assumption | intro _ | apply Keeps.ite | apply State.put_kept | apply State.inc_kept | apply State.setLink_kept
      | apply State.when_kept | apply State.raise_kept | split)

theorem execHelloRx_kept (p : Port) (h : Ident) (_port : Byte) (_deadN : Byte) (period : BitVec 16) {s : State} (hs : Keeps K s) :
    ∀ t, execHelloRx p h _port _deadN period s = .next t → Keeps K t := by
  unfold execHelloRx
  try dsimp only
  with_reducible repeat'
    (first
      | (intro t ht; injection ht with ht; subst ht) | assumption | intro _ | apply Keeps.ite | apply State.takeHello_kept
      | apply State.judgeHello_kept | split)

theorem execBeaconRx_kept (p : Port) (h : Ident) (_msSec : BitVec 48) (_msNs : BitVec 32) {s : State} (hs : Keeps K s) :
    ∀ t, execBeaconRx p h _msSec _msNs s = .next t → Keeps K t := by
  unfold execBeaconRx
  try dsimp only
  split
  all_goals (intro t ht; injection ht with ht; subst ht)
  all_goals
    with_reducible repeat'
      (first
        | assumption | intro _ | apply Keeps.ite | apply State.openLink_kept | apply State.answerOlder_kept
        | apply State.fenceIfStale_kept | apply State.setLink_kept | apply State.put_kept | split)

theorem State.adoptDirected_kept {s : State} (hs : Keeps K s) (p : Nat) (roleId : Nat) (roleInc : Nat) (roleSerial : Nat) :
    Keeps K (State.adoptDirected s p roleId roleInc roleSerial) := by
  unfold State.adoptDirected
  try dsimp only
  with_reducible repeat'
    (first
      | assumption | intro _ | apply Keeps.ite | apply State.put_kept | apply State.helloAll_kept | split)

theorem State.fenceOvertaken_kept {s : State} (hs : Keeps K s) (role : Nat) : Keeps K (State.fenceOvertaken s role) := by
  unfold State.fenceOvertaken
  try dsimp only
  with_reducible repeat'
    (first
      | assumption | intro _ | apply Keeps.ite | apply State.each_kept | apply State.fenceIfStale_kept | split)

theorem State.takeInc_kept {s : State} (hs : Keeps K s) (p : Nat) (r : IncRec) : Keeps K (State.takeInc s p r) := by
  unfold State.takeInc
  try dsimp only
  with_reducible repeat'
    (first
      | assumption | intro _ | apply Keeps.ite | apply State.applyInc_kept | apply State.when_kept | apply State.each_kept
      | apply State.sendInc_kept | apply State.fenceOvertaken_kept | split)

theorem execIncarnationRx_kept (p : Port) (roleId : Fin 2048) (roleInc : BitVec 16) (roleSerial : BitVec 64) (vacated : Option
    (Fin 2048)) (hops : Byte) {s : State} (hs : Keeps K s) : ∀ t, execIncarnationRx p roleId roleInc roleSerial vacated hops s
    = .next t → Keeps K t := by
  unfold execIncarnationRx
  try dsimp only
  with_reducible repeat'
    (first
      | (intro t ht; injection ht with ht; subst ht) | assumption | intro _ | apply Keeps.ite | apply State.adoptDirected_kept
      | apply State.takeInc_kept | split)

theorem execDirectedIncarnationRx_kept (p : Port) (roleId : Fin 2048) (roleInc : BitVec 16) (roleSerial : BitVec 64) {s :
    State} (hs : Keeps K s) : ∀ t, execDirectedIncarnationRx p roleId roleInc roleSerial s = .next t → Keeps K t := by
  unfold execDirectedIncarnationRx
  try dsimp only
  with_reducible repeat'
    (first
      | (intro t ht; injection ht with ht; subst ht) | assumption | intro _ | apply Keeps.ite | apply State.adoptDirected_kept
      | split)

theorem State.rejoinDue_kept {s : State} (hs : Keeps K s) (p : Nat) : Keeps K (State.rejoinDue s p) := by
  unfold State.rejoinDue
  try dsimp only
  with_reducible repeat' (first | assumption | intro _ | apply Keeps.ite | apply State.sendRejoin_kept | split)

theorem State.oweNarrow_kept {s : State} (hs : Keeps K s) (p : Nat) (lane : Nat) (t : Nat) :
    Keeps K (State.oweNarrow s p lane t) := by
  unfold State.oweNarrow
  try dsimp only
  with_reducible repeat' (first | assumption | intro _ | apply Keeps.ite | apply State.setPort_kept | split)

theorem execNarrowRx_kept (p : Port) (lane : LaneNo) {s : State} (hs : Keeps K s) :
    ∀ t, execNarrowRx p lane s = .next t → Keeps K t := by
  unfold execNarrowRx
  try dsimp only
  with_reducible repeat'
    (first
      | (intro t ht; injection ht with ht; subst ht) | assumption | intro _ | apply Keeps.ite | apply State.setPort_kept
      | apply State.oweNarrow_kept | split)

theorem State.changeWidth_kept {s : State} (hs : Keeps K s) (p : Nat) (keep : List Nat) (spare : Option Nat) :
    Keeps K (State.changeWidth s p keep spare) := by
  unfold State.changeWidth
  try dsimp only
  with_reducible repeat'
    (first
      | assumption | intro _ | apply Keeps.ite | apply State.each_kept | apply State.setTxRole_kept | apply State.put_kept
      | apply State.noteSpares_kept | apply State.setPort_kept | apply State.raise_kept | apply State.oweNarrow_kept
      | apply State.replayAll_kept | split)

theorem execWidthChange_kept (p : Port) {s : State} (hs : Keeps K s) : ∀ t, execWidthChange p s = .next t → Keeps K t := by
  unfold execWidthChange
  try dsimp only
  with_reducible repeat'
    (first
      | (intro t ht; injection ht with ht; subst ht) | assumption | intro _ | apply Keeps.ite | apply State.changeWidth_kept
      | split)

theorem State.readmitPort_kept {s : State} (hs : Keeps K s) (p : Nat) : Keeps K (State.readmitPort s p) := by
  unfold State.readmitPort
  try dsimp only
  with_reducible repeat'
    (first
      | assumption | intro _ | apply Keeps.ite | apply State.put_kept | apply State.setLState_kept | apply State.setLink_kept
      | apply State.sendHello_kept | split)

theorem execReadmit_kept (p : Port) {s : State} (hs : Keeps K s) : ∀ t, execReadmit p s = .next t → Keeps K t := by
  unfold execReadmit
  try dsimp only
  with_reducible repeat'
    (first
      | (intro t ht; injection ht with ht; subst ht) | assumption | intro _ | apply Keeps.ite | apply State.readmitPort_kept
      | split)

end Sys2Proof.Machine
end

