-- ==== Sys2Proof/Laws/KeptJunction.lean ====
section
/-! SUPPORT. What no command disturbs, in the junction and the slots of its outputs: one lemma for each operation and each command. -/

set_option linter.unreachableTactic false
set_option linter.unusedTactic false

namespace Sys2Proof.Machine

variable {K : Mark}

theorem State.recSet_kept {s : State} (hs : Keeps K s) (r : Nat) (w : Nat) (hi : Nat) (lo : Nat) (v : Nat) :
    Keeps K (State.recSet s r w hi lo v) := by
  unfold State.recSet
  try dsimp only
  with_reducible repeat' (first | assumption | intro _ | apply Keeps.ite | apply State.setCase_kept | split)

theorem State.dropRec_kept {s : State} (hs : Keeps K s) (r : Nat) : Keeps K (State.dropRec s r) := by
  unfold State.dropRec
  try dsimp only
  with_reducible repeat'
    (first
      | assumption | intro _ | apply Keeps.ite | apply State.recSet_kept | apply State.setImp_kept | split)

theorem State.shapeAt_kept {s : State} (hs : Keeps K s) (r : Nat) (ru : Nat) (k : Nat) : Keeps K (State.shapeAt s r ru k) := by
  unfold State.shapeAt
  try dsimp only
  with_reducible repeat' (first | assumption | intro _ | apply Keeps.ite | apply State.recSet_kept | split)

theorem State.refreshCap_kept {s : State} (hs : Keeps K s) (o : Nat) : Keeps K (State.refreshCap s o) := by
  unfold State.refreshCap
  try dsimp only
  with_reducible repeat' (first | assumption | intro _ | apply Keeps.ite | apply State.put_kept | split)

theorem State.refreshCaps_kept {s : State} (hs : Keeps K s) : Keeps K (State.refreshCaps s) := by
  unfold State.refreshCaps
  try dsimp only
  with_reducible repeat'
    (first
      | assumption | intro _ | apply Keeps.ite | apply State.each_kept | apply State.refreshCap_kept | split)

theorem State.countSend_kept {s : State} (hs : Keeps K s) (c : Cell) : Keeps K (State.countSend s c) := by
  unfold State.countSend
  try dsimp only
  with_reducible repeat' (first | assumption | intro _ | apply Keeps.ite | apply State.setImp_kept | split)

theorem State.advance_kept {s : State} (hs : Keeps K s) (o : Nat) : Keeps K (State.advance s o) := by
  unfold State.advance
  try dsimp only
  with_reducible repeat'
    (first
      | assumption | intro _ | apply Keeps.ite | apply State.put_kept | apply State.when_kept | apply State.setImp_kept | split)

theorem State.slip_kept {s : State} (hs : Keeps K s) (o : Nat) : Keeps K (State.slip s o) := by
  unfold State.slip
  try dsimp only
  with_reducible repeat' (first | assumption | intro _ | apply Keeps.ite | apply State.inc_kept | split)

theorem State.countBe_kept {s : State} (hs : Keeps K s) (o : Nat) (c : Nat) : Keeps K (State.countBe s o c) := by
  unfold State.countBe
  try dsimp only
  with_reducible repeat' (first | assumption | intro _ | apply Keeps.ite | apply State.setImp_kept | split)

theorem State.setVoq_kept {s : State} (hs : Keeps K s) (i : Nat) (o : Nat) (c : Nat) (q : List QCell) :
    Keeps K (State.setVoq s i o c q) := by
  unfold State.setVoq
  try dsimp only
  with_reducible repeat' (first | assumption | intro _ | apply Keeps.ite | apply State.setJn_kept | split)

theorem State.setStage_kept {s : State} (hs : Keeps K s) (o : Nat) (c : Nat) (q : List QCell) :
    Keeps K (State.setStage s o c q) := by
  unfold State.setStage
  try dsimp only
  with_reducible repeat' (first | assumption | intro _ | apply Keeps.ite | apply State.setJn_kept | split)

theorem State.setCopyStage_kept {s : State} (hs : Keeps K s) (o : Nat) (q : List QCell) :
    Keeps K (State.setCopyStage s o q) := by
  unfold State.setCopyStage
  try dsimp only
  with_reducible repeat' (first | assumption | intro _ | apply Keeps.ite | apply State.setJn_kept | split)

theorem State.takeSlot_kept {s : State} (hs : Keeps K s) (i : Nat) : Keeps K (State.takeSlot s i) := by
  unfold State.takeSlot
  try dsimp only
  with_reducible repeat' (first | assumption | intro _ | apply Keeps.ite | apply State.put_kept | split)

theorem State.leaveBuffer_kept {s : State} (hs : Keeps K s) (i : Nat) (q : QCell) : Keeps K (State.leaveBuffer s i q) := by
  unfold State.leaveBuffer
  try dsimp only
  with_reducible repeat'
    (first
      | assumption | intro _ | apply Keeps.ite | apply State.put_kept | apply State.when_kept | apply State.giveCredit_kept
      | split)

theorem State.dropMalformed_kept {s : State} (hs : Keeps K s) (i : Nat) : Keeps K (State.dropMalformed s i) := by
  unfold State.dropMalformed
  try dsimp only
  with_reducible repeat'
    (first
      | assumption | intro _ | apply Keeps.ite | apply State.inc_kept | apply State.raise_kept | split)

theorem State.dropLoop_kept {s : State} (hs : Keeps K s) (i : Nat) : Keeps K (State.dropLoop s i) := by
  unfold State.dropLoop
  try dsimp only
  with_reducible repeat'
    (first
      | assumption | intro _ | apply Keeps.ite | apply State.inc_kept | apply State.raise_kept | split)

theorem State.dropMisroute_kept {s : State} (hs : Keeps K s) (i : Nat) : Keeps K (State.dropMisroute s i) := by
  unfold State.dropMisroute
  try dsimp only
  with_reducible repeat'
    (first
      | assumption | intro _ | apply Keeps.ite | apply State.inc_kept | apply State.raise_kept | split)

theorem State.dropUnroute_kept {s : State} (hs : Keeps K s) (i : Nat) : Keeps K (State.dropUnroute s i) := by
  unfold State.dropUnroute
  try dsimp only
  with_reducible repeat'
    (first
      | assumption | intro _ | apply Keeps.ite | apply State.inc_kept | apply State.raise_kept | split)

theorem State.dropNoPath_kept {s : State} (hs : Keeps K s) (i : Nat) : Keeps K (State.dropNoPath s i) := by
  unfold State.dropNoPath
  try dsimp only
  with_reducible repeat'
    (first
      | assumption | intro _ | apply Keeps.ite | apply State.inc_kept | apply State.raise_kept | split)

theorem State.dropTail_kept {s : State} (hs : Keeps K s) (i : Nat) : Keeps K (State.dropTail s i) := by
  unfold State.dropTail
  try dsimp only
  with_reducible repeat' (first | assumption | intro _ | apply Keeps.ite | apply State.inc_kept | split)

theorem State.dropMir_kept {s : State} (hs : Keeps K s) (i : Nat) : Keeps K (State.dropMir s i) := by
  unfold State.dropMir
  try dsimp only
  with_reducible repeat' (first | assumption | intro _ | apply Keeps.ite | apply State.inc_kept | split)

theorem State.enqueue_kept {s : State} (hs : Keeps K s) (i : Nat) (o : Nat) (q : QCell) : Keeps K (State.enqueue s i o q) := by
  unfold State.enqueue
  try dsimp only
  with_reducible repeat'
    (first
      | assumption | intro _ | apply Keeps.ite | apply State.when_kept | apply State.inc_kept | apply State.setVoq_kept
      | apply State.takeSlot_kept | split)

theorem State.enterCopy_kept {s : State} (hs : Keeps K s) (n : Nat) (x : Cell) : Keeps K (State.enterCopy s n x) := by
  unfold State.enterCopy
  try dsimp only
  with_reducible repeat'
    (first
      | assumption | intro _ | apply Keeps.ite | apply State.dropMisroute_kept | apply State.dropUnroute_kept
      | apply State.dropNoPath_kept | apply State.drain_kept | apply State.setJn_kept | apply State.inc_kept
      | apply State.dropMir_kept | apply State.enqueue_kept | split)

theorem State.mirror_kept {s : State} (hs : Keeps K s) (c : Cell) (ingress : Bool) (port : Nat) :
    Keeps K (State.mirror s c ingress port) := by
  unfold State.mirror
  try dsimp only
  with_reducible repeat'
    (first
      | assumption | intro _ | apply Keeps.ite | apply State.each_kept | apply State.setJn_kept | apply State.enterCopy_kept
      | split)

theorem State.accept_kept {s : State} (hs : Keeps K s) (i : Nat) (o : Nat) (c : Cell) (pooled : Bool) :
    Keeps K (State.accept s i o c pooled) := by
  unfold State.accept
  try dsimp only
  with_reducible repeat'
    (first
      | assumption | intro _ | apply Keeps.ite | apply State.enqueue_kept | apply State.mirror_kept | split)

theorem State.dropped_kept {s : State} (hs : Keeps K s) (i : Nat) (c : Cell) (drop : State → State) (hdrop : ∀ s, Keeps K s →
    Keeps K (drop s)) : Keeps K (State.dropped s i c drop) := by
  unfold State.dropped
  try dsimp only
  with_reducible repeat'
    (first
      | assumption | intro _ | apply Keeps.ite | apply State.when_kept | apply State.giveCredit_kept | apply hdrop | split)

theorem State.admitCell_kept {s : State} (hs : Keeps K s) (i o : Nat) (c : Cell) :
    ∀ t, s.admitCell i o c = some t → Keeps K t := by
  intro t ht
  unfold State.admitCell at ht
  try dsimp only at ht
  repeat' split at ht
  all_goals first
    | (injection ht with ht; subst ht; with_reducible repeat'
      (first
        | assumption | intro _ | apply Keeps.ite | apply State.accept_kept | apply State.dropped_kept | apply State.dropMir_kept
        | apply State.dropTail_kept | split))
    | cases ht

theorem State.tryCell_kept {s : State} (hs : Keeps K s) (i : Nat) (c : Cell) : ∀ t, s.tryCell i c = some t → Keeps K t := by
  intro t ht
  unfold State.tryCell at ht
  try dsimp only at ht
  repeat' split at ht
  all_goals first
    | (injection ht with ht; subst ht; with_reducible repeat'
      (first
        | assumption | intro _ | apply Keeps.ite | apply State.dropped_kept | apply State.dropMalformed_kept
        | apply State.dropLoop_kept | apply State.dropMisroute_kept | apply State.dropUnroute_kept | apply State.dropNoPath_kept
        | apply State.setJn_kept | split))
    | cases ht
    | exact State.admitCell_kept hs _ _ _ _ ht

theorem State.tryShaped_kept {s : State} (hs : Keeps K s) (i : Nat) (c : Cell) : ∀ t, s.tryShaped i c = some t → Keeps K t := by
  intro t ht
  unfold State.tryShaped at ht
  split at ht
  · exact State.tryCell_kept hs _ _ _ ht
  · split at ht
    · cases ht
    · obtain ⟨u, hu, rfl⟩ := Option.map_eq_some_iff.1 ht
      exact State.countSend_kept (State.tryCell_kept hs _ _ _ hu) _

theorem State.arrive_kept {s : State} (hs : Keeps K s) (i : Nat) (c : Cell) : Keeps K (s.arrive i c) := by
  unfold State.arrive
  dsimp only
  split
  · exact State.setJn_kept hs _
  · split
    · rename_i h
      exact State.tryShaped_kept hs _ _ _ h
    · exact State.setJn_kept hs _

theorem execCellArrival_kept (i : JPort) (c : Option Cell) {s : State} (hs : Keeps K s) :
    ∀ t, execCellArrival i c s = .next t → Keeps K t := by
  unfold execCellArrival
  try dsimp only
  repeat' split
  all_goals (intro t ht; injection ht with ht; subst ht)
  all_goals
    with_reducible repeat'
      (first
        | assumption | intro _ | apply Keeps.ite | apply State.arrive_kept | apply State.setJn_kept | split)

theorem execHeldCellAccept_kept (i : JPort) {s : State} (hs : Keeps K s) :
    ∀ t, execHeldCellAccept i s = .next t → Keeps K t := by
  unfold execHeldCellAccept
  split
  · intro t ht
    injection ht with ht
    exact ht ▸ hs
  · split <;> intro t ht <;> injection ht with ht <;> subst ht
    · exact State.setJn_kept (State.tryShaped_kept hs _ _ _ ‹_›) _
    · exact hs

theorem State.movePointers_kept {s : State} (hs : Keeps K s) (g : GrantRec) : Keeps K (State.movePointers s g) := by
  unfold State.movePointers
  try dsimp only
  with_reducible repeat' (first | assumption | intro _ | apply Keeps.ite | apply State.setJn_kept | split)

theorem State.eccError_kept {s : State} (hs : Keeps K s) (e : EccErr) : Keeps K (State.eccError s e) := by
  unfold State.eccError
  try dsimp only
  with_reducible repeat'
    (first
      | assumption | intro _ | apply Keeps.ite | apply State.inc_kept | apply State.raise_kept
      | apply State.rowUncorrectable_kept | apply State.rowCorrected_kept | split)

theorem State.intoStage_kept {s : State} (hs : Keeps K s) (o : Nat) (c : Nat) (q : QCell) :
    Keeps K (State.intoStage s o c q) := by
  unfold State.intoStage
  try dsimp only
  with_reducible repeat'
    (first
      | assumption | intro _ | apply Keeps.ite | apply State.dropNoPath_kept | apply State.setCopyStage_kept
      | apply State.setStage_kept | apply State.mirror_kept | split)

theorem State.purgeStage_kept {s : State} (hs : Keeps K s) (o : Nat) : Keeps K (State.purgeStage s o) := by
  unfold State.purgeStage
  try dsimp only
  with_reducible repeat'
    (first
      | assumption | intro _ | apply Keeps.ite | apply State.each_kept | apply State.dropNoPath_kept | apply State.setStage_kept
      | apply State.setCopyStage_kept | split)

theorem State.transfer_kept {s : State} (hs : Keeps K s) (g : GrantRec) (ecc : List EccErr) :
    Keeps K (State.transfer s g ecc) := by
  unfold State.transfer
  try dsimp only
  with_reducible repeat'
    (first
      | assumption | intro _ | apply Keeps.ite | apply State.setVoq_kept | apply State.leaveBuffer_kept
      | apply State.eccError_kept | apply State.intoStage_kept | split)

theorem State.passJ15_kept {s : State} (hs : Keeps K s) : Keeps K s.passJ15 := by
  unfold State.passJ15
  split
  · exact hs
  · dsimp only
    split
    · refine Keeps.ite (State.dropNoPath_kept (State.setJn_kept hs _) _) ?_
      cases h : State.admitCell _ _ _ _ with
      | none => exact hs
      | some t => exact State.admitCell_kept (State.setJn_kept hs _) _ _ _ t h
    · exact State.dropNoPath_kept (State.setJn_kept hs _) _

theorem execMatchCycle_kept (ecc : List (JPort × Bool × Fin 8 × Fin 129)) {s : State} (hs : Keeps K s) :
    ∀ t, execMatchCycle ecc s = .next t → Keeps K t := by
  unfold execMatchCycle
  try dsimp only
  with_reducible repeat'
    (first
      | (intro t ht; injection ht with ht; subst ht) | assumption | intro _ | apply Keeps.ite | apply State.passJ15_kept
      | apply State.each_kept | apply State.movePointers_kept | apply State.transfer_kept | split)

theorem State.drainOutput_kept {s : State} (hs : Keeps K s) (p : Nat) : Keeps K (State.drainOutput s p) := by
  unfold State.drainOutput
  try dsimp only
  with_reducible repeat'
    (first
      | assumption | intro _ | apply Keeps.ite | apply State.each_kept | apply State.setStage_kept
      | apply State.setCopyStage_kept | apply State.setJn_kept | apply State.setVoq_kept | apply State.leaveBuffer_kept | split)

theorem State.failMember_kept {s : State} (hs : Keeps K s) (p : Nat) : Keeps K (State.failMember s p) := by
  unfold State.failMember
  try dsimp only
  with_reducible repeat'
    (first
      | assumption | intro _ | apply Keeps.ite | apply State.setLink_kept | apply State.put_kept | apply State.setJn_kept
      | apply State.abortTests_kept | apply State.raise_kept | apply State.drainOutput_kept | split)

theorem execMemberFail_kept (p : Port) {s : State} (hs : Keeps K s) : ∀ t, execMemberFail p s = .next t → Keeps K t := by
  unfold execMemberFail
  try dsimp only
  with_reducible repeat'
    (first
      | (intro t ht; injection ht with ht; subst ht) | assumption | intro _ | apply Keeps.ite | apply State.failMember_kept
      | apply State.setLink_kept | split)

theorem execDrainEnd_kept (p : Port) {s : State} (hs : Keeps K s) : ∀ t, execDrainEnd p s = .next t → Keeps K t := by
  unfold execDrainEnd
  try dsimp only
  with_reducible repeat'
    (first
      | (intro t ht; injection ht with ht; subst ht) | assumption | intro _ | apply Keeps.ite | apply State.put_kept
      | apply State.passJ15_kept | split)

theorem State.returnMember_kept {s : State} (hs : Keeps K s) (p : Nat) : Keeps K (State.returnMember s p) := by
  unfold State.returnMember
  try dsimp only
  with_reducible repeat'
    (first
      | assumption | intro _ | apply Keeps.ite | apply State.put_kept | apply State.when_kept | apply State.setJn_kept
      | apply State.raise_kept | split)

theorem execMpHoldExpiry_kept (p : Port) {s : State} (hs : Keeps K s) : ∀ t, execMpHoldExpiry p s = .next t → Keeps K t := by
  unfold execMpHoldExpiry
  try dsimp only
  with_reducible repeat'
    (first
      | (intro t ht; injection ht with ht; subst ht) | assumption | intro _ | apply Keeps.ite | apply State.setJn_kept | split)

theorem State.sendLanes_kept {s : State} (hs : Keeps K s) (p : Nat) (frame : Option (List Byte)) (ls : List (Nat × LaneSend)) :
    Keeps K (State.sendLanes s p frame ls) := by
  unfold State.sendLanes
  try dsimp only
  with_reducible repeat'
    (first
      | assumption | intro _ | apply Keeps.ite | apply State.each_kept | apply State.setLane_kept | apply State.when_kept
      | apply State.addSat_kept | apply State.emit_kept | split)

theorem State.fillOn_kept {s : State} (hs : Keeps K s) (p : Nat) (n : Nat) (ks : List Nat) :
    Keeps K (State.fillOn s p n ks) := by
  unfold State.fillOn
  try dsimp only
  with_reducible repeat'
    (first
      | assumption | intro _ | apply Keeps.ite | apply State.each_kept | apply State.setLane_kept | split)

theorem State.frameOut_kept {s : State} (hs : Keeps K s) (p : Nat) (seq : Nat) (ftype : Nat) (slot : List Byte) :
    Keeps K (State.frameOut s p seq ftype slot).2 := by
  unfold State.frameOut
  try dsimp only
  with_reducible repeat'
    (first
      | assumption | intro _ | apply Keeps.ite | apply State.put_kept | apply State.inc_kept | apply State.setLink_kept | split)

theorem State.sendUnseq_kept {s : State} (hs : Keeps K s) (p : Nat) (ftype : Nat) (slot : List Byte) :
    Keeps K (State.sendUnseq s p ftype slot).2 := by
  unfold State.sendUnseq
  try dsimp only
  with_reducible repeat' (first | assumption | intro _ | apply Keeps.ite | apply State.frameOut_kept | split)

theorem State.sendSeq_kept {s : State} (hs : Keeps K s) (p : Nat) (ftype : Nat) (slot : List Byte) :
    Keeps K (State.sendSeq s p ftype slot).2 := by
  unfold State.sendSeq
  try dsimp only
  with_reducible repeat'
    (first
      | assumption | intro _ | apply Keeps.ite | apply State.frameOut_kept | apply State.setLink_kept | apply State.put_kept
      | split)

theorem State.sendFill_kept {s : State} (hs : Keeps K s) (p : Nat) (pause : Bool) : Keeps K (State.sendFill s p pause).2 := by
  unfold State.sendFill
  try dsimp only
  with_reducible repeat' (first | assumption | intro _ | apply Keeps.ite | apply State.sendUnseq_kept | split)

theorem State.countStall_kept {s : State} (hs : Keeps K s) (p : Nat) : Keeps K (State.countStall s p) := by
  unfold State.countStall
  try dsimp only
  with_reducible repeat' (first | assumption | intro _ | apply Keeps.ite | apply State.when_kept | apply State.inc_kept | split)

theorem State.takePick_kept {s : State} (hs : Keeps K s) (o : Nat) (k : Pick) : Keeps K (State.takePick s o k).2 := by
  unfold State.takePick
  try dsimp only
  with_reducible repeat'
    (first
      | assumption | intro _ | apply Keeps.ite | apply State.setStage_kept | apply State.when_kept | apply State.countBe_kept
      | apply State.setCopyStage_kept | split)

theorem State.proofSlot_kept {s : State} (hs : Keeps K s) (o : Nat) : Keeps K (State.proofSlot s o) := by
  unfold State.proofSlot
  try dsimp only
  with_reducible repeat' (first | assumption | intro _ | apply Keeps.ite | apply State.setSvc_kept | split)

theorem State.localTaken_kept {s : State} (hs : Keeps K s) (o : Nat) (c : Option Cell) : Keeps K (State.localTaken s o c) := by
  unfold State.localTaken
  try dsimp only
  with_reducible repeat'
    (first
      | assumption | intro _ | apply Keeps.ite | apply State.inc_kept | apply State.raise_kept | apply State.advance_kept
      | apply State.setJn_kept | split)

theorem State.giveLocal_kept {s : State} (hs : Keeps K s) (o : Nat) (k : Pick) : Keeps K (s.giveLocal o k) :=
  State.localTaken_kept (State.takePick_kept hs _ _) _ _

theorem execLocalWalkerSlot_kept (o : Fin 9) {s : State} (hs : Keeps K s) :
    ∀ t, execLocalWalkerSlot o s = .next t → Keeps K t := by
  intro t ht
  unfold execLocalWalkerSlot at ht
  injection ht with ht
  subst ht
  split
  · exact Keeps.ite (State.advance_kept (State.proofSlot_kept hs _) _) (State.slip_kept hs _)
  · exact Keeps.ite (State.giveLocal_kept hs _ _) (State.slip_kept hs _)
  · exact Keeps.ite (State.giveLocal_kept hs _ _) (State.advance_kept hs _)
  · exact Keeps.ite (State.giveLocal_kept hs _ _) (State.advance_kept hs _)
  · exact State.advance_kept hs _

theorem State.ageItems_kept {s : State} (hs : Keeps K s) (p : Nat) : Keeps K (State.ageItems s p) := by
  unfold State.ageItems
  try dsimp only
  with_reducible repeat' (first | assumption | intro _ | apply Keeps.ite | apply State.setLink_kept | split)

theorem State.sendReplay_kept {s : State} (hs : Keeps K s) (p : Nat) (i : Nat) (t : TxFrame) :
    Keeps K (State.sendReplay s p i t).2 := by
  unfold State.sendReplay
  try dsimp only
  with_reducible repeat'
    (first
      | assumption | intro _ | apply Keeps.ite | apply State.frameOut_kept | apply State.setLink_kept | apply State.inc_kept
      | split)

theorem State.sendItem_kept {s : State} (hs : Keeps K s) (p : Nat) (item : Nat) : Keeps K (State.sendItem s p item).2 := by
  unfold State.sendItem
  try dsimp only
  with_reducible repeat'
    (first
      | assumption | intro _ | apply Keeps.ite | apply State.setLink_kept | apply State.sendUnseq_kept
      | apply State.sendReplay_kept | apply State.sendFill_kept | apply State.sendSeq_kept | split)

theorem State.sendWalker_kept {s : State} (hs : Keeps K s) (p : Nat) : Keeps K (s.sendWalker p).2 := by
  have h := State.takePick_kept hs p (s.pick p)
  unfold State.sendWalker
  generalize s.pick p = k at h
  cases k <;> dsimp only
  case proof => exact State.sendFill_kept (State.advance_kept (State.proofSlot_kept hs _) _) _ _
  case nothing => exact State.sendFill_kept (State.advance_kept hs _) _ _
  all_goals
    split <;> rename_i heq <;> rw [heq] at h
    · exact State.sendSeq_kept (State.setLink_kept (State.advance_kept h _) _ _) _ _ _
    · exact State.sendFill_kept (State.advance_kept h _) _ _

theorem State.activeFrame_kept {s : State} (hs : Keeps K s) (p : Nat) : Keeps K (State.activeFrame s p).2 := by
  unfold State.activeFrame
  try dsimp only
  with_reducible repeat'
    (first
      | assumption | intro _ | apply Keeps.ite | apply State.countStall_kept | apply State.setPort_kept
      | apply State.advance_kept | apply State.sendFill_kept | apply State.slip_kept | apply State.sendItem_kept
      | apply State.sendWalker_kept | apply State.ageItems_kept | split)

theorem State.capsFrame_kept {s : State} (hs : Keeps K s) (p : Nat) : Keeps K (State.capsFrame s p).2 := by
  unfold State.capsFrame
  try dsimp only
  with_reducible repeat'
    (first
      | assumption | intro _ | apply Keeps.ite | apply State.sendUnseq_kept | apply State.sendFill_kept | split)

theorem State.markerSlot_kept {s : State} (hs : Keeps K s) (p : Nat) : Keeps K (State.markerSlot s p) := by
  unfold State.markerSlot
  try dsimp only
  with_reducible repeat'
    (first
      | assumption | intro _ | apply Keeps.ite | apply State.setPort_kept | apply State.setTxRole_kept
      | apply State.noteSpares_kept | apply State.sendLanes_kept | apply State.fillOn_kept | apply State.when_kept
      | apply State.slip_kept | split)

theorem State.frameSlot_kept {s : State} (hs : Keeps K s) (p : Nat) : Keeps K (State.frameSlot s p) := by
  unfold State.frameSlot
  try dsimp only
  with_reducible repeat'
    (first
      | assumption | intro _ | apply Keeps.ite | apply State.activeFrame_kept | apply State.capsFrame_kept
      | apply State.sendFill_kept | apply State.sendLanes_kept | apply State.fillOn_kept | apply State.setPort_kept | split)

theorem State.trainSlot_kept {s : State} (hs : Keeps K s) (p : Nat) : Keeps K (State.trainSlot s p) := by
  unfold State.trainSlot
  try dsimp only
  with_reducible repeat'
    (first
      | assumption | intro _ | apply Keeps.ite | apply State.sendLanes_kept | apply State.fillOn_kept | split)

theorem State.txSlot_kept {s : State} (hs : Keeps K s) (p : Nat) (bad : Bool) : Keeps K (State.txSlot s p bad) := by
  unfold State.txSlot
  try dsimp only
  with_reducible repeat'
    (first
      | assumption | intro _ | apply Keeps.ite | apply State.trainSlot_kept | apply State.sendLanes_kept
      | apply State.endPause_kept | apply State.replayEccLoss_kept | apply State.markerSlot_kept | apply State.frameSlot_kept
      | apply State.setPort_kept | split)

theorem execTxSlot_kept (x : SlotStart) {s : State} (hs : Keeps K s) : ∀ t, execTxSlot x s = .next t → Keeps K t := by
  unfold execTxSlot
  try dsimp only
  with_reducible repeat'
    (first
      | (intro t ht; injection ht with ht; subst ht) | assumption | intro _ | apply Keeps.ite | apply State.txSlot_kept | split)

end Sys2Proof.Machine
end

