-- ==== Sys2Proof/Laws/KeptImposition.lean ====
section
/-! SUPPORT. What no command disturbs, in admission and the tunnel records: one lemma for each operation and each command. -/

set_option linter.unreachableTactic false
set_option linter.unusedTactic false

namespace Sys2Proof.Machine

variable {K : Mark}

theorem State.copyBank_kept {s : State} (hs : Keeps K s) (o : Nat) : Keeps K (s.copyBank o) :=
  ⟨hs.1, hs.2, hs.3, hs.4, hs.5, canonical_memCopy _ _ _ hs.6, hs.7, hs.8, hs.9, hs.10, hs.11⟩

theorem State.writeSheet_kept {s : State} (hs : Keeps K s) (o : Nat) (b : Nat) (i : Nat) (w : Nat) :
    Keeps K (State.writeSheet s o b i w) := by
  unfold State.writeSheet
  try dsimp only
  with_reducible repeat'
    (first
      | assumption | intro _ | apply Keeps.ite | apply State.inc_kept | apply State.raise_kept | apply State.setImp_kept
      | apply State.setCase_kept | apply State.put_kept | split)

theorem execSheetBankWrite_kept (o : Fin 13) (b : Fin 2) (i : Fin 4096) (w : BitVec 16) {s : State} (hs : Keeps K s) :
    ∀ t, execSheetBankWrite o b i w s = .next t → Keeps K t := by
  unfold execSheetBankWrite
  try dsimp only
  with_reducible repeat'
    (first
      | (intro t ht; injection ht with ht; subst ht) | assumption | intro _ | apply Keeps.ite | apply State.writeSheet_kept
      | split)

theorem State.sealBank_kept {s : State} (hs : Keeps K s) (o : Nat) : Keeps K (State.sealBank s o) := by
  unfold State.sealBank
  try dsimp only
  with_reducible repeat' (first | assumption | intro _ | apply Keeps.ite | apply State.put_kept | split)

theorem execSeal_kept (o : Fin 13) {s : State} (hs : Keeps K s) : ∀ t, execSeal o s = .next t → Keeps K t := by
  unfold execSeal
  try dsimp only
  with_reducible repeat'
    (first
      | (intro t ht; injection ht with ht; subst ht) | assumption | intro _ | apply Keeps.ite | apply State.sealBank_kept
      | split)

theorem State.flip_kept {s : State} (hs : Keeps K s) (o : Nat) (complete : Bool) : Keeps K (State.flip s o complete) := by
  unfold State.flip
  try dsimp only
  with_reducible repeat'
    (first
      | assumption | intro _ | apply Keeps.ite | apply State.put_kept | apply State.inc_kept | apply State.raise_kept
      | apply State.revertTrigger_kept | split)

theorem execSheetFlip_kept (o : Fin 13) {s : State} (hs : Keeps K s) : ∀ t, execSheetFlip o s = .next t → Keeps K t := by
  unfold execSheetFlip
  try dsimp only
  repeat' split
  all_goals (intro t ht; injection ht with ht; subst ht)
  all_goals
    with_reducible repeat'
      (first
        | assumption | intro _ | apply Keeps.ite | apply State.flip_kept | apply State.setImp_kept | split)

theorem execBankCopyDone_kept (o : Fin 13) {s : State} (hs : Keeps K s) : ∀ t, execBankCopyDone o s = .next t → Keeps K t := by
  unfold execBankCopyDone
  dsimp only
  split <;> intro t ht <;> injection ht with ht <;> subst ht
  · exact hs
  · exact State.each_kept (State.setImp_kept (State.put_kept (State.copyBank_kept hs _) _ _) _) _ _
      fun e s hs => State.writeSheet_kept hs _ _ _ _

theorem State.sendAdm_kept {s : State} (hs : Keeps K s) (to_ : Nat) (code : Nat) (m : AdmMsg) :
    Keeps K (State.sendAdm s to_ code m) := by
  unfold State.sendAdm
  try dsimp only
  with_reducible repeat' (first | assumption | intro _ | apply Keeps.ite | apply State.present_kept | split)

theorem State.sendOn_kept {s : State} (hs : Keeps K s) (code : Nat) (m : AdmMsg) : Keeps K (State.sendOn s code m) := by
  unfold State.sendOn
  try dsimp only
  with_reducible repeat' (first | assumption | intro _ | apply Keeps.ite | apply State.sendAdm_kept | split)

theorem State.sendBack_kept {s : State} (hs : Keeps K s) (r : Nat) (code : Nat) (m : AdmMsg) :
    Keeps K (State.sendBack s r code m) := by
  unfold State.sendBack
  try dsimp only
  with_reducible repeat' (first | assumption | intro _ | apply Keeps.ite | apply State.sendAdm_kept | split)

theorem State.setChange_kept {s : State} (hs : Keeps K s) (c : AllotChange) : Keeps K (State.setChange s c) := by
  unfold State.setChange
  try dsimp only
  with_reducible repeat' (first | assumption | intro _ | apply Keeps.ite | apply State.setImp_kept | split)

theorem State.shrinkRec_kept {s : State} (hs : Keeps K s) (r : Nat) (ru : Nat) : Keeps K (State.shrinkRec s r ru) := by
  unfold State.shrinkRec
  try dsimp only
  with_reducible repeat'
    (first
      | assumption | intro _ | apply Keeps.ite | apply State.recSet_kept | apply State.setChange_kept | apply State.shapeAt_kept
      | split)

theorem State.releaseRec_kept {s : State} (hs : Keeps K s) (r : Nat) : Keeps K (State.releaseRec s r) := by
  unfold State.releaseRec
  try dsimp only
  with_reducible repeat'
    (first
      | assumption | intro _ | apply Keeps.ite | apply State.recSet_kept | apply State.setChange_kept | apply State.shapeAt_kept
      | split)

theorem State.askGive_kept {s : State} (hs : Keeps K s) (r : Nat) (ru : Nat) : Keeps K (State.askGive s r ru) := by
  unfold State.askGive
  try dsimp only
  with_reducible repeat'
    (first
      | assumption | intro _ | apply Keeps.ite | apply State.recSet_kept | apply State.setImp_kept | apply State.sendBack_kept
      | split)

theorem State.reclaim_kept (o : Nat) (ex : Option Nat) (q : Request) (n : Nat) {s : State} (hs : Keeps K s) :
    Keeps K (State.reclaim o ex q n s) := by
  induction n generalizing s with
  | zero => exact hs
  | succ n ih =>
    unfold State.reclaim
    dsimp only
    split
    · exact hs
    · split
      · exact hs
      · exact ih (State.shrinkRec_kept hs _ _)

theorem State.reclaimGive_kept (o : Nat) (ex : Option Nat) (q : Request) (n : Nat) {s : State} (hs : Keeps K s) (f : Bool) :
    Keeps K (State.reclaimGive o ex q n s f).1 := by
  induction n generalizing s f with
  | zero => exact hs
  | succ n ih =>
    unfold State.reclaimGive
    dsimp only
    split
    · exact hs
    · split
      · exact hs
      · exact ih (State.askGive_kept hs _ _) _

theorem State.newRec_kept {s : State} (hs : Keeps K s) (r : Nat) (o : Nat) (q : Request) : Keeps K (State.newRec s r o q) := by
  unfold State.newRec
  try dsimp only
  with_reducible repeat'
    (first
      | assumption | intro _ | apply Keeps.ite | apply State.setCaseBytes_kept | apply State.setCase_kept
      | apply State.setImp_kept | split)

theorem State.admitFreed_kept {s : State} (hs : Keeps K s) (q : Request) (o : Nat) (ex : Option Nat) {s2 : State} (h2 : Keeps K
    s2) (gave : Bool) :
    Keeps K (s.admitFreed q o ex s2 gave).2 := by
  unfold State.admitFreed
  extract_lets room freed r leaves s3 s4 s5
  have h3 : Keeps K s3 := Keeps.ite (State.recSet_kept (State.recSet_kept h2 _ _ _ _ _) _ _ _ _ _) (State.newRec_kept h2 _ _ _)
  split
  · exact State.refreshCap_kept (State.setImp_kept (State.recSet_kept h3 _ _ _ _ _) _) _
  split
  · dsimp only
    exact State.setImp_kept (State.raise_kept hs _) _
  · exact hs

theorem State.admitAt_kept {s : State} (hs : Keeps K s) (q : Request) (out ex reason : Option Nat) :
    Keeps K (s.admitAt q out ex reason).2 := by
  unfold State.admitAt
  split
  · exact hs
  · exact hs
  · exact State.admitFreed_kept hs _ _ _ (State.reclaimGive_kept _ _ _ _ (State.reclaim_kept _ _ _ _ hs) _) _

theorem State.admitPath_kept {s : State} (hs : Keeps K s) (q : Request) : Keeps K (s.admitPath q).2 :=
  State.admitAt_kept hs _ _ _ _

theorem State.answerRing_kept {s : State} (hs : Keeps K s) (ring : Option Nat) (code : Nat) (reason : Nat) :
    Keeps K (State.answerRing s ring code reason) := by
  unfold State.answerRing
  try dsimp only
  with_reducible repeat'
    (first
      | assumption | intro _ | apply Keeps.ite | apply State.setCase_kept | apply State.when_kept | apply State.raise_kept
      | split)

theorem State.writeFloors_kept {s : State} (hs : Keeps K s) (d : Nat) : Keeps K (State.writeFloors s d) := by
  unfold State.writeFloors
  try dsimp only
  with_reducible repeat' (first | assumption | intro _ | apply Keeps.ite | apply State.recSet_kept | split)

theorem State.setDisp_kept {s : State} (hs : Keeps K s) (d : Nat) (g : Display → Display) : Keeps K (State.setDisp s d g) := by
  unfold State.setDisp
  exact hs.same rfl rfl rfl rfl rfl rfl rfl rfl rfl rfl rfl

theorem State.attention_kept {s : State} (hs : Keeps K s) (d : Nat) (irq : Bool) : Keeps K (State.attention s d irq) := by
  unfold State.attention
  try dsimp only
  with_reducible repeat'
    (first
      | assumption | intro _ | apply Keeps.ite | apply State.when_kept | apply State.emit_kept | split)

theorem State.hpdIrq_kept {s : State} (hs : Keeps K s) (d : Nat) : Keeps K (State.hpdIrq s d) := by
  unfold State.hpdIrq
  try dsimp only
  with_reducible repeat'
    (first
      | assumption | intro _ | apply Keeps.ite | apply State.emit_kept | apply State.attention_kept | split)

theorem State.setStretch_kept {s : State} (hs : Keeps K s) (d : Nat) : Keeps K (State.setStretch s d) := by
  unfold State.setStretch
  try dsimp only
  with_reducible repeat'
    (first
      | assumption | intro _ | apply Keeps.ite | apply State.put_kept | apply State.setDisp_kept | apply State.hpdIrq_kept
      | split)

theorem State.commitRec_kept {s : State} (hs : Keeps K s) (w : AdmWait) (after : Bool) :
    Keeps K (State.commitRec s w after) := by
  unfold State.commitRec
  try dsimp only
  with_reducible repeat'
    (first
      | assumption | intro _ | apply Keeps.ite | apply State.recSet_kept | apply State.setImp_kept | apply State.setChange_kept
      | apply State.each_kept | apply State.writeFloors_kept | apply State.setStretch_kept | apply State.shapeAt_kept
      | apply State.refreshCap_kept | split)

theorem State.abandon_kept {s : State} (hs : Keeps K s) (w : AdmWait) : Keeps K (State.abandon s w) := by
  unfold State.abandon
  try dsimp only
  with_reducible repeat'
    (first
      | assumption | intro _ | apply Keeps.ite | apply State.recSet_kept | apply State.setImp_kept | apply State.dropRec_kept
      | apply State.refreshCap_kept | split)

theorem State.admittedHere_kept {s : State} (hs : Keeps K s) (q : Request) (m : AdmMsg) (a : Admitted) :
    Keeps K (State.admittedHere s q m a) := by
  unfold State.admittedHere
  try dsimp only
  with_reducible repeat'
    (first
      | assumption | intro _ | apply Keeps.ite | apply State.answerRing_kept | apply State.commitRec_kept
      | apply State.sendOn_kept | split)

theorem State.startAdmission_kept {s : State} (hs : Keeps K s) (q : Request) (m : AdmMsg) : Keeps K (s.startAdmission q m) :=
  State.admittedHere_kept (State.admitPath_kept hs _) _ _ _

theorem State.admittedFor_kept {s : State} (hs : Keeps K s) (src : Nat) (m : AdmMsg) (a : Admitted) :
    Keeps K (State.admittedFor s src m a) := by
  unfold State.admittedFor
  try dsimp only
  with_reducible repeat'
    (first
      | assumption | intro _ | apply Keeps.ite | apply State.sendAdm_kept | apply State.commitRec_kept | apply State.sendOn_kept
      | split)

theorem State.onAdmit_kept {s : State} (hs : Keeps K s) (src : Nat) (m : AdmMsg) : Keeps K (s.onAdmit src m) :=
  State.admittedFor_kept (State.admitPath_kept hs _) _ _ _

theorem State.onGrant_kept {s : State} (hs : Keeps K s) (m : AdmMsg) : Keeps K (State.onGrant s m) := by
  unfold State.onGrant
  try dsimp only
  with_reducible repeat'
    (first
      | assumption | intro _ | apply Keeps.ite | apply State.commitRec_kept | apply State.sendBack_kept
      | apply State.answerRing_kept | split)

theorem State.onRefuse_kept {s : State} (hs : Keeps K s) (m : AdmMsg) : Keeps K (State.onRefuse s m) := by
  unfold State.onRefuse
  try dsimp only
  with_reducible repeat'
    (first
      | assumption | intro _ | apply Keeps.ite | apply State.sendBack_kept | apply State.abandon_kept
      | apply State.answerRing_kept | split)

theorem State.onRelease_kept {s : State} (hs : Keeps K s) (m : AdmMsg) : Keeps K (State.onRelease s m) := by
  unfold State.onRelease
  try dsimp only
  with_reducible repeat'
    (first
      | assumption | intro _ | apply Keeps.ite | apply State.sendOn_kept | apply State.releaseRec_kept | split)

theorem State.revokeRing_kept {s : State} (hs : Keeps K s) (r : Nat) (reason : Nat) :
    Keeps K (State.revokeRing s r reason) := by
  unfold State.revokeRing
  try dsimp only
  with_reducible repeat' (first | assumption | intro _ | apply Keeps.ite | apply State.answerRing_kept | split)

theorem State.onRevoke_kept {s : State} (hs : Keeps K s) (m : AdmMsg) : Keeps K (State.onRevoke s m) := by
  unfold State.onRevoke
  try dsimp only
  with_reducible repeat'
    (first
      | assumption | intro _ | apply Keeps.ite | apply State.sendOn_kept | apply State.revokeRing_kept
      | apply State.releaseRec_kept | apply State.sendBack_kept | split)

theorem State.takeGive_kept {s : State} (hs : Keeps K s) (r : Nat) (ru : Nat) (orig : Nat) :
    Keeps K (State.takeGive s r ru orig) := by
  unfold State.takeGive
  try dsimp only
  with_reducible repeat'
    (first
      | assumption | intro _ | apply Keeps.ite | apply State.recSet_kept | apply State.setImp_kept | apply State.each_kept
      | apply State.setStretch_kept | split)

theorem State.onGive_kept {s : State} (hs : Keeps K s) (m : AdmMsg) : Keeps K (State.onGive s m) := by
  unfold State.onGive
  try dsimp only
  with_reducible repeat'
    (first
      | assumption | intro _ | apply Keeps.ite | apply State.takeGive_kept | apply State.sendBack_kept | split)

theorem State.applyGiven_kept {s : State} (hs : Keeps K s) (r : Nat) (amount : Nat) (fns : Nat) :
    Keeps K (State.applyGiven s r amount fns) := by
  unfold State.applyGiven
  try dsimp only
  with_reducible repeat'
    (first
      | assumption | intro _ | apply Keeps.ite | apply State.recSet_kept | apply State.setImp_kept | apply State.setChange_kept
      | apply State.each_kept | apply State.shapeAt_kept | split)

theorem State.onGiven_kept {s : State} (hs : Keeps K s) (m : AdmMsg) : Keeps K (State.onGiven s m) := by
  unfold State.onGiven
  try dsimp only
  with_reducible repeat'
    (first
      | assumption | intro _ | apply Keeps.ite | apply State.applyGiven_kept | apply State.sendOn_kept | split)

theorem State.handleAdm_kept {s : State} (hs : Keeps K s) (a : AdmIn) : Keeps K (State.handleAdm s a) := by
  unfold State.handleAdm
  try dsimp only
  with_reducible repeat'
    (first
      | assumption | intro _ | apply Keeps.ite | apply State.onAdmit_kept | apply State.onGrant_kept | apply State.onRefuse_kept
      | apply State.onRelease_kept | apply State.onRevoke_kept | apply State.onGive_kept | apply State.onGiven_kept | split)

theorem State.takeFifo_kept {s : State} (hs : Keeps K s) (o : Nat) (tunnel : Nat) : Keeps K (State.takeFifo s o tunnel) := by
  unfold State.takeFifo
  try dsimp only
  with_reducible repeat' (first | assumption | intro _ | apply Keeps.ite | apply State.setJn_kept | split)

theorem State.admRx_kept {s : State} (hs : Keeps K s) (code : Nat) (src : Fin 2048) (m : AdmMsg) :
    Keeps K (State.admRx s code src m) := by
  unfold State.admRx
  try dsimp only
  with_reducible repeat'
    (first
      | assumption | intro _ | apply Keeps.ite | apply State.takeFifo_kept | apply State.setImp_kept
      | apply State.handleAdm_kept | split)

theorem execAdmitRx_kept (src : Fin 2048) (m : AdmMsg) {s : State} (hs : Keeps K s) :
    ∀ t, execAdmitRx src m s = .next t → Keeps K t := by
  unfold execAdmitRx
  try dsimp only
  with_reducible repeat'
    (first
      | (intro t ht; injection ht with ht; subst ht) | assumption | intro _ | apply Keeps.ite | apply State.admRx_kept | split)

theorem execGrantRx_kept (src : Fin 2048) (m : AdmMsg) {s : State} (hs : Keeps K s) :
    ∀ t, execGrantRx src m s = .next t → Keeps K t := by
  unfold execGrantRx
  try dsimp only
  with_reducible repeat'
    (first
      | (intro t ht; injection ht with ht; subst ht) | assumption | intro _ | apply Keeps.ite | apply State.admRx_kept | split)

theorem execRefuseRx_kept (src : Fin 2048) (m : AdmMsg) {s : State} (hs : Keeps K s) :
    ∀ t, execRefuseRx src m s = .next t → Keeps K t := by
  unfold execRefuseRx
  try dsimp only
  with_reducible repeat'
    (first
      | (intro t ht; injection ht with ht; subst ht) | assumption | intro _ | apply Keeps.ite | apply State.admRx_kept | split)

theorem execReleaseRx_kept (src : Fin 2048) (m : AdmMsg) {s : State} (hs : Keeps K s) :
    ∀ t, execReleaseRx src m s = .next t → Keeps K t := by
  unfold execReleaseRx
  try dsimp only
  with_reducible repeat'
    (first
      | (intro t ht; injection ht with ht; subst ht) | assumption | intro _ | apply Keeps.ite | apply State.admRx_kept | split)

theorem execRevokeRx_kept (src : Fin 2048) (m : AdmMsg) {s : State} (hs : Keeps K s) :
    ∀ t, execRevokeRx src m s = .next t → Keeps K t := by
  unfold execRevokeRx
  try dsimp only
  with_reducible repeat'
    (first
      | (intro t ht; injection ht with ht; subst ht) | assumption | intro _ | apply Keeps.ite | apply State.admRx_kept | split)

theorem execGiveRx_kept (src : Fin 2048) (m : AdmMsg) {s : State} (hs : Keeps K s) :
    ∀ t, execGiveRx src m s = .next t → Keeps K t := by
  unfold execGiveRx
  try dsimp only
  with_reducible repeat'
    (first
      | (intro t ht; injection ht with ht; subst ht) | assumption | intro _ | apply Keeps.ite | apply State.admRx_kept | split)

theorem execGivenRx_kept (src : Fin 2048) (m : AdmMsg) {s : State} (hs : Keeps K s) :
    ∀ t, execGivenRx src m s = .next t → Keeps K t := by
  unfold execGivenRx
  try dsimp only
  with_reducible repeat'
    (first
      | (intro t ht; injection ht with ht; subst ht) | assumption | intro _ | apply Keeps.ite | apply State.admRx_kept | split)

theorem execAdmissionTimeout_kept (r : Fin 4096) {s : State} (hs : Keeps K s) :
    ∀ t, execAdmissionTimeout r s = .next t → Keeps K t := by
  unfold execAdmissionTimeout
  try dsimp only
  repeat' split
  all_goals (intro t ht; injection ht with ht; subst ht)
  all_goals
    with_reducible repeat'
      (first
        | assumption | intro _ | apply Keeps.ite | apply State.answerRing_kept | apply State.abandon_kept | split)

theorem execAdmissionWindowEnd_kept {s : State} (hs : Keeps K s) : ∀ t, execAdmissionWindowEnd s = .next t → Keeps K t := by
  unfold execAdmissionWindowEnd
  try dsimp only
  with_reducible repeat'
    (first
      | (intro t ht; injection ht with ht; subst ht) | assumption | intro _ | apply Keeps.ite | apply State.setImp_kept
      | apply State.each_kept | apply State.latch_kept | split)

theorem State.ringNext_kept {s : State} (hs : Keeps K s) : Keeps K (State.ringNext s) := by
  unfold State.ringNext
  try dsimp only
  with_reducible repeat' (first | assumption | intro _ | apply Keeps.ite | apply State.put_kept | split)

theorem execRingAdmit_kept {s : State} (hs : Keeps K s) : ∀ t, execRingAdmit s = .next t → Keeps K t := by
  unfold execRingAdmit
  try dsimp only
  repeat' split
  all_goals (intro t ht; injection ht with ht; subst ht)
  all_goals
    with_reducible repeat'
      (first
        | assumption | intro _ | apply Keeps.ite | apply State.startAdmission_kept | apply State.ringNext_kept | split)

theorem execRingRelease_kept {s : State} (hs : Keeps K s) : ∀ t, execRingRelease s = .next t → Keeps K t := by
  unfold execRingRelease
  try dsimp only
  repeat' split
  all_goals (intro t ht; injection ht with ht; subst ht)
  all_goals
    with_reducible repeat'
      (first
        | assumption | intro _ | apply Keeps.ite | apply State.answerRing_kept | apply State.releaseRec_kept
        | apply State.sendOn_kept | apply State.ringNext_kept | split)

theorem execRingGive_kept {s : State} (hs : Keeps K s) : ∀ t, execRingGive s = .next t → Keeps K t := by
  unfold execRingGive
  try dsimp only
  repeat' split
  all_goals (intro t ht; injection ht with ht; subst ht)
  all_goals
    with_reducible repeat'
      (first
        | assumption | intro _ | apply Keeps.ite | apply State.answerRing_kept | apply State.onGive_kept
        | apply State.ringNext_kept | split)

theorem State.demandSnapshot_kept {s : State} (hs : Keeps K s) (k : Nat) : Keeps K (State.demandSnapshot s k) := by
  unfold State.demandSnapshot
  try dsimp only
  with_reducible repeat'
    (first
      | assumption | intro _ | apply Keeps.ite | apply State.each_kept | apply State.recSet_kept | apply State.setImp_kept
      | split)

theorem State.applyChanges_kept {s : State} (hs : Keeps K s) (k : Nat) : Keeps K (State.applyChanges s k) := by
  unfold State.applyChanges
  try dsimp only
  with_reducible repeat'
    (first
      | assumption | intro _ | apply Keeps.ite | apply State.each_kept | apply State.dropRec_kept | apply State.recSet_kept
      | apply State.setImp_kept | apply State.when_kept | apply State.raise_kept | split)

theorem State.towards_kept {s : State} (hs : Keeps K s) (r : Nat) (target : Nat) : Keeps K (State.towards s r target) := by
  unfold State.towards
  try dsimp only
  with_reducible repeat'
    (first
      | assumption | intro _ | apply Keeps.ite | apply State.recSet_kept | apply State.startAdmission_kept
      | apply State.shrinkRec_kept | split)

theorem State.updateAllot_kept {s : State} (hs : Keeps K s) (r : Nat) : Keeps K (State.updateAllot s r) := by
  unfold State.updateAllot
  try dsimp only
  with_reducible repeat' (first | assumption | intro _ | apply Keeps.ite | apply State.towards_kept | split)

theorem State.takeOpenEst_kept {s : State} (hs : Keeps K s) (r : Nat) : Keeps K (State.takeOpenEst s r) := by
  unfold State.takeOpenEst
  try dsimp only
  with_reducible repeat'
    (first
      | assumption | intro _ | apply Keeps.ite | apply State.shrinkRec_kept | apply State.startAdmission_kept | split)

theorem State.updateAllots_kept {s : State} (hs : Keeps K s) : Keeps K (State.updateAllots s) := by
  unfold State.updateAllots
  try dsimp only
  with_reducible repeat'
    (first
      | assumption | intro _ | apply Keeps.ite | apply State.each_kept | apply State.takeOpenEst_kept
      | apply State.updateAllot_kept | split)

theorem State.moveTunnels_kept {s : State} (hs : Keeps K s) : Keeps K (State.moveTunnels s) := by
  unfold State.moveTunnels
  try dsimp only
  with_reducible repeat'
    (first
      | assumption | intro _ | apply Keeps.ite | apply State.each_kept | apply State.recSet_kept | split)

theorem State.revokeRec_kept {s : State} (hs : Keeps K s) (r : Nat) : Keeps K (State.revokeRec s r) := by
  unfold State.revokeRec
  try dsimp only
  with_reducible repeat'
    (first
      | assumption | intro _ | apply Keeps.ite | apply State.sendOn_kept | apply State.revokeRing_kept
      | apply State.sendBack_kept | apply State.releaseRec_kept | apply State.recSet_kept | split)

theorem State.shedOn_kept (o n : Nat) {s : State} (hs : Keeps K s) : Keeps K (State.shedOn o n s) := by
  induction n generalizing s with
  | zero => exact hs
  | succ n ih =>
    unfold State.shedOn
    dsimp only
    split
    · exact hs
    · split
      · exact ih (State.shrinkRec_kept hs _ _)
      · exact ih (State.shrinkRec_kept hs _ _)
      · exact ih (State.revokeRec_kept hs _)
      · exact hs

theorem State.shed_kept {s : State} (hs : Keeps K s) : Keeps K s.shed := by
  unfold State.shed
  with_reducible repeat'
    (first
      | assumption | intro _ | apply Keeps.ite | apply State.each_kept | apply State.raise_kept | apply State.shedOn_kept
      | split)

theorem State.wantRaise_kept {s : State} (hs : Keeps K s) : Keeps K (State.wantRaise s) := by
  unfold State.wantRaise
  try dsimp only
  with_reducible repeat' (first | assumption | intro _ | apply Keeps.ite | apply State.setImp_kept | split)

theorem State.firstUse_kept {s : State} (hs : Keeps K s) : Keeps K (State.firstUse s) := by
  unfold State.firstUse
  try dsimp only
  with_reducible repeat'
    (first
      | assumption | intro _ | apply Keeps.ite | apply State.put_kept | apply State.raise_kept | split)

theorem State.impBoundary_kept {s : State} (hs : Keeps K s) (k : Nat) : Keeps K (State.impBoundary s k) := by
  unfold State.impBoundary
  try dsimp only
  with_reducible repeat'
    (first
      | assumption | intro _ | apply Keeps.ite | apply State.setImp_kept | apply State.demandSnapshot_kept
      | apply State.applyChanges_kept | apply State.firstUse_kept | apply State.each_kept | apply State.handleAdm_kept
      | apply State.updateAllots_kept | apply State.moveTunnels_kept | apply State.shed_kept | apply State.wantRaise_kept
      | apply State.refreshCaps_kept | split)

end Sys2Proof.Machine
end

