-- ==== Sys2Proof/Laws/KeptDisplay.lean ====
section
/-! SUPPORT. What no command disturbs, in the display paths: one lemma for each operation and each command. -/

set_option linter.unreachableTactic false
set_option linter.unusedTactic false

namespace Sys2Proof.Machine

variable {K : Mark}

theorem State.driveHpd_kept {s : State} (hs : Keeps K s) (d : Nat) : Keeps K (State.driveHpd s d) := by
  unfold State.driveHpd
  try dsimp only
  with_reducible repeat'
    (first
      | assumption | intro _ | apply Keeps.ite | apply State.setDisp_kept | apply State.emit_kept | apply State.attention_kept
      | split)

theorem State.platenOff_kept {s : State} (hs : Keeps K s) (d : Nat) : Keeps K (State.platenOff s d) := by
  unfold State.platenOff
  try dsimp only
  with_reducible repeat'
    (first
      | assumption | intro _ | apply Keeps.ite | apply State.put_kept | apply State.setDisp_kept | split)

theorem State.platenTry_kept {s : State} (hs : Keeps K s) (d : Nat) : Keeps K (State.platenTry s d) := by
  unfold State.platenTry
  try dsimp only
  with_reducible repeat'
    (first
      | assumption | intro _ | apply Keeps.ite | apply State.put_kept | apply State.setDisp_kept | split)

theorem State.displayLockup_kept {s : State} (hs : Keeps K s) (d : Nat) : Keeps K (State.displayLockup s d) := by
  unfold State.displayLockup
  try dsimp only
  with_reducible repeat'
    (first
      | assumption | intro _ | apply Keeps.ite | apply State.when_kept | apply State.raise_kept | apply State.platenOff_kept
      | apply State.writeFloors_kept | apply State.driveHpd_kept | apply State.platenTry_kept | split)

theorem State.sendMark_kept {s : State} (hs : Keeps K s) (d : Nat) (static : Bool) (change : Bool) :
    Keeps K (State.sendMark s d static change) := by
  unfold State.sendMark
  try dsimp only
  with_reducible repeat' (first | assumption | intro _ | apply Keeps.ite | apply State.present_kept | split)

theorem State.formLine_kept {s : State} (hs : Keeps K s) (d : Nat) (line : Nat) (px : List (BitVec 30)) :
    Keeps K (State.formLine s d line px) := by
  unfold State.formLine
  try dsimp only
  with_reducible repeat' (first | assumption | intro _ | apply Keeps.ite | apply State.presentAll_kept | split)

theorem State.sendLine_kept {s : State} (hs : Keeps K s) (d : Nat) (line : Nat) (px : List (BitVec 30)) :
    Keeps K (State.sendLine s d line px) := by
  unfold State.sendLine
  try dsimp only
  with_reducible repeat'
    (first
      | assumption | intro _ | apply Keeps.ite | apply State.inc_kept | apply State.formLine_kept | split)

theorem State.sendDmsg_kept {s : State} (hs : Keeps K s) (d : Nat) (msg : Nat) : Keeps K (State.sendDmsg s d msg) := by
  unfold State.sendDmsg
  try dsimp only
  with_reducible repeat' (first | assumption | intro _ | apply Keeps.ite | apply State.present_kept | split)

theorem State.answerGive_kept {s : State} (hs : Keeps K s) (d : Nat) : Keeps K (State.answerGive s d) := by
  unfold State.answerGive
  try dsimp only
  with_reducible repeat'
    (first
      | assumption | intro _ | apply Keeps.ite | apply State.applyGiven_kept | apply State.recSet_kept | apply State.sendOn_kept
      | split)

theorem State.endLending_kept {s : State} (hs : Keeps K s) (d : Nat) : Keeps K (State.endLending s d) := by
  unfold State.endLending
  try dsimp only
  with_reducible repeat'
    (first
      | assumption | intro _ | apply Keeps.ite | apply State.setDisp_kept | apply State.recSet_kept | apply State.shapeAt_kept
      | split)

theorem State.forwardFrame_kept {s : State} (hs : Keeps K s) (d : Nat) (static : Bool) (change : Bool) :
    Keeps K (State.forwardFrame s d static change) := by
  unfold State.forwardFrame
  try dsimp only
  with_reducible repeat' (first | assumption | intro _ | apply Keeps.ite | apply State.setDisp_kept | split)

theorem State.markFrame_kept {s : State} (hs : Keeps K s) (d : Nat) (change : Bool) : Keeps K (State.markFrame s d change) := by
  unfold State.markFrame
  try dsimp only
  with_reducible repeat'
    (first
      | assumption | intro _ | apply Keeps.ite | apply State.setDisp_kept | apply State.sendMark_kept | split)

theorem State.skipFrame_kept {s : State} (hs : Keeps K s) (d : Nat) : Keeps K (State.skipFrame s d) := by
  unfold State.skipFrame
  try dsimp only
  with_reducible repeat'
    (first
      | assumption | intro _ | apply Keeps.ite | apply State.inc_kept | apply State.setDisp_kept | split)

theorem State.goodSource_kept {s : State} (hs : Keeps K s) (d : Nat) (crc : BitVec 32) :
    Keeps K (State.goodSource s d crc) := by
  unfold State.goodSource
  try dsimp only
  with_reducible repeat'
    (first
      | assumption | intro _ | apply Keeps.ite | apply State.setDisp_kept | apply State.markFrame_kept
      | apply State.endLending_kept | apply State.inc_kept | apply State.setStretch_kept | apply State.answerGive_kept
      | apply State.forwardFrame_kept | apply State.skipFrame_kept | split)

theorem State.measure_kept {s : State} (hs : Keeps K s) (d : Nat) (w : Nat) (vnom : Nat) (lrate : Nat) :
    Keeps K (State.measure s d w vnom lrate) := by
  unfold State.measure
  try dsimp only
  with_reducible repeat' (first | assumption | intro _ | apply Keeps.ite | apply State.put_kept | split)

theorem State.wrongSource_kept {s : State} (hs : Keeps K s) (d : Nat) (crc : BitVec 32) :
    Keeps K (State.wrongSource s d crc) := by
  unfold State.wrongSource
  try dsimp only
  with_reducible repeat'
    (first
      | assumption | intro _ | apply Keeps.ite | apply State.raise_kept | apply State.setDisp_kept | split)

theorem execCaptureFrameStart_kept (d : Fin 2) (w : BitVec 12) (h : BitVec 12) (vnom : BitVec 12) (bpc : Fin 3) (lrate : BitVec
    20) (crc : BitVec 32) (sdps : BitVec 8) {s : State} (hs : Keeps K s) : ∀ t, execCaptureFrameStart d w h vnom bpc lrate crc
    sdps s = .next t → Keeps K t := by
  unfold execCaptureFrameStart
  try dsimp only
  repeat' split
  all_goals (intro t ht; injection ht with ht; subst ht)
  all_goals
    with_reducible repeat'
      (first
        | assumption | intro _ | apply Keeps.ite | apply State.goodSource_kept | apply State.wrongSource_kept
        | apply State.writeFloors_kept | apply State.measure_kept | apply State.setDisp_kept | apply State.raise_kept
        | apply State.put_kept | apply State.addSat_kept | split)

theorem execCaptureLine_kept (d : Fin 2) (line : BitVec 12) (px : List (BitVec 30)) {s : State} (hs : Keeps K s) :
    ∀ t, execCaptureLine d line px s = .next t → Keeps K t := by
  unfold execCaptureLine
  try dsimp only
  with_reducible repeat'
    (first
      | (intro t ht; injection ht with ht; subst ht) | assumption | intro _ | apply Keeps.ite | apply State.setDisp_kept
      | apply State.sendLine_kept | split)

theorem execSourcePsrChange_kept (d : Fin 2) (on : Bool) {s : State} (hs : Keeps K s) :
    ∀ t, execSourcePsrChange d on s = .next t → Keeps K t := by
  unfold execSourcePsrChange
  try dsimp only
  with_reducible repeat'
    (first
      | (intro t ht; injection ht with ht; subst ht) | assumption | intro _ | apply Keeps.ite | apply State.setDisp_kept
      | apply State.markFrame_kept | apply State.forwardFrame_kept | apply State.each_kept | apply State.formLine_kept | split)

theorem execCaptureLinkChange_kept (d : Fin 2) (up : Bool) (lanes : Fin 3) (rate : Fin 8) {s : State} (hs : Keeps K s) :
    ∀ t, execCaptureLinkChange d up lanes rate s = .next t → Keeps K t := by
  unfold execCaptureLinkChange
  try dsimp only
  with_reducible repeat'
    (first
      | (intro t ht; injection ht with ht; subst ht) | assumption | intro _ | apply Keeps.ite | apply State.put_kept
      | apply State.raise_kept | split)

theorem execCaptureAuxRequest_kept (d : Fin 2) (native : Bool) (write : Bool) (addr : BitVec 20) (lenM1 : Fin 16) (data : List
    Byte) {s : State} (hs : Keeps K s) : ∀ t, execCaptureAuxRequest d native write addr lenM1 data s = .next t → Keeps K t := by
  unfold execCaptureAuxRequest
  try dsimp only
  with_reducible repeat'
    (first
      | (intro t ht; injection ht with ht; subst ht) | assumption | intro _ | apply Keeps.ite | apply State.setDisp_kept
      | apply State.emit_kept | apply State.usedFree_kept | split)

theorem execPsrEnteredRx_kept (d : Fin 2) (tunnel : BitVec 12) {s : State} (hs : Keeps K s) :
    ∀ t, execPsrEnteredRx d tunnel s = .next t → Keeps K t := by
  unfold execPsrEnteredRx
  try dsimp only
  with_reducible repeat'
    (first
      | (intro t ht; injection ht with ht; subst ht) | assumption | intro _ | apply Keeps.ite | apply State.takeFifo_kept
      | apply State.setDisp_kept | apply State.recSet_kept | apply State.shapeAt_kept | split)

theorem execPsrExitedRx_kept (d : Fin 2) (_tunnel : BitVec 12) {s : State} (hs : Keeps K s) :
    ∀ t, execPsrExitedRx d _tunnel s = .next t → Keeps K t := by
  unfold execPsrExitedRx
  try dsimp only
  with_reducible repeat'
    (first
      | (intro t ht; injection ht with ht; subst ht) | assumption | intro _ | apply Keeps.ite | apply State.takeFifo_kept
      | split)

theorem execHpdLostRx_kept (d : Fin 2) (_tunnel : BitVec 12) {s : State} (hs : Keeps K s) :
    ∀ t, execHpdLostRx d _tunnel s = .next t → Keeps K t := by
  unfold execHpdLostRx
  try dsimp only
  with_reducible repeat'
    (first
      | (intro t ht; injection ht with ht; subst ht) | assumption | intro _ | apply Keeps.ite | apply State.takeFifo_kept
      | apply State.raise_kept | split)

theorem execHpdFoundRx_kept (d : Fin 2) (_tunnel : BitVec 12) {s : State} (hs : Keeps K s) :
    ∀ t, execHpdFoundRx d _tunnel s = .next t → Keeps K t := by
  unfold execHpdFoundRx
  try dsimp only
  with_reducible repeat'
    (first
      | (intro t ht; injection ht with ht; subst ht) | assumption | intro _ | apply Keeps.ite | apply State.takeFifo_kept
      | split)

theorem State.setPlace_kept {s : State} (hs : Keeps K s) (d : Nat) (l : Nat) (p : Option PlLine) :
    Keeps K (State.setPlace s d l p) := by
  unfold State.setPlace
  try dsimp only
  with_reducible repeat' (first | assumption | intro _ | apply Keeps.ite | apply State.setDisp_kept | split)

theorem State.scanned_kept {s : State} (hs : Keeps K s) (d : Nat) (data : List Byte) (static : Bool) :
    Keeps K (State.scanned s d data static) := by
  unfold State.scanned
  try dsimp only
  with_reducible repeat'
    (first
      | assumption | intro _ | apply Keeps.ite | apply State.emit_kept | apply State.setDisp_kept | apply State.when_kept
      | apply State.inc_kept | apply State.raise_kept | split)

theorem State.endScan_kept {s : State} (hs : Keeps K s) (d : Nat) : Keeps K (State.endScan s d) := by
  unfold State.endScan
  try dsimp only
  with_reducible repeat' (first | assumption | intro _ | apply Keeps.ite | apply State.scanned_kept | split)

theorem State.dropLine_kept {s : State} (hs : Keeps K s) (d : Nat) : Keeps K (State.dropLine s d) := by
  unfold State.dropLine
  try dsimp only
  with_reducible repeat' (first | assumption | intro _ | apply Keeps.ite | apply State.setDisp_kept | split)

theorem State.takePlace_kept {s : State} (hs : Keeps K s) (d : Nat) (frame : Nat) (line : Nat) (static : Bool) (c : Cell) :
    Keeps K (State.takePlace s d frame line static c) := by
  unfold State.takePlace
  try dsimp only
  with_reducible repeat'
    (first
      | assumption | intro _ | apply Keeps.ite | apply State.when_kept | apply State.endScan_kept | apply State.inc_kept
      | apply State.dropLine_kept | apply State.setPlace_kept | apply State.setDisp_kept | split)

theorem State.blankSlot_kept {s : State} (hs : Keeps K s) (d : Nat) (b : Nat) : Keeps K (State.blankSlot s d b) := by
  unfold State.blankSlot
  try dsimp only
  with_reducible repeat' (first | assumption | intro _ | apply Keeps.ite | apply State.put_kept | apply State.emit_kept | split)

theorem State.enterBlank_kept {s : State} (hs : Keeps K s) (d : Nat) : Keeps K (State.enterBlank s d) := by
  unfold State.enterBlank
  try dsimp only
  with_reducible repeat'
    (first
      | assumption | intro _ | apply Keeps.ite | apply State.put_kept | apply State.blankSlot_kept | apply State.emit_kept
      | apply State.when_kept | split)

theorem State.psrExit_kept {s : State} (hs : Keeps K s) (d : Nat) : Keeps K (State.psrExit s d) := by
  unfold State.psrExit
  try dsimp only
  with_reducible repeat'
    (first
      | assumption | intro _ | apply Keeps.ite | apply State.put_kept | apply State.enterBlank_kept | apply State.setDisp_kept
      | apply State.emit_kept | apply State.raise_kept | apply State.sendDmsg_kept | split)

theorem State.lineStart_kept {s : State} (hs : Keeps K s) (d : Nat) (c : Cell) : Keeps K (State.lineStart s d c) := by
  unfold State.lineStart
  try dsimp only
  with_reducible repeat'
    (first
      | assumption | intro _ | apply Keeps.ite | apply State.psrExit_kept | apply State.put_kept | apply State.setDisp_kept
      | apply State.takePlace_kept | apply State.dropLine_kept | apply State.inc_kept | split)

theorem State.scanOn_kept {s : State} (hs : Keeps K s) (d : Nat) (p : Nat) : Keeps K (State.scanOn s d p) := by
  unfold State.scanOn
  try dsimp only
  with_reducible repeat' (first | assumption | intro _ | apply Keeps.ite | apply State.endScan_kept | split)

theorem State.lineMore_kept {s : State} (hs : Keeps K s) (d : Nat) (c : Cell) : Keeps K (State.lineMore s d c) := by
  unfold State.lineMore
  try dsimp only
  with_reducible repeat'
    (first
      | assumption | intro _ | apply Keeps.ite | apply State.dropLine_kept | apply State.when_kept | apply State.setPlace_kept
      | apply State.scanOn_kept | apply State.setDisp_kept | apply State.inc_kept | split)

theorem execPlatenCellRx_kept (d : Fin 2) (c : Option Cell) {s : State} (hs : Keeps K s) :
    ∀ t, execPlatenCellRx d c s = .next t → Keeps K t := by
  unfold execPlatenCellRx
  dsimp only
  split
  · intro t ht
    injection ht with ht
    exact ht ▸ hs
  · rename_i c s' heq
    have h : Keeps K s' := by
      split at heq
      · injection heq with heq
        injection heq with _ heq
        exact heq ▸ hs
      · injection heq with heq
        injection heq with _ heq
        exact heq ▸ State.setJn_kept hs _
      · cases heq
    repeat' split
    all_goals (intro t ht; injection ht with ht; subst ht)
    all_goals
      with_reducible repeat'
        (first
          | assumption | intro _ | apply Keeps.ite | apply State.lineStart_kept | apply State.lineMore_kept
          | apply State.inc_kept | split)

theorem State.scanLine_kept {s : State} (hs : Keeps K s) (d : Nat) (k : Nat) (ranOut : Bool) :
    Keeps K (State.scanLine s d k ranOut) := by
  unfold State.scanLine
  try dsimp only
  with_reducible repeat'
    (first
      | assumption | intro _ | apply Keeps.ite | apply State.emit_kept | apply State.setPlace_kept | apply State.setDisp_kept
      | apply State.scanned_kept | split)

theorem State.startFrame_kept {s : State} (hs : Keeps K s) (d : Nat) (how : Nat) : Keeps K (State.startFrame s d how) := by
  unfold State.startFrame
  try dsimp only
  with_reducible repeat'
    (first
      | assumption | intro _ | apply Keeps.ite | apply State.when_kept | apply State.inc_kept | apply State.put_kept
      | apply State.setDisp_kept | split)

theorem State.startBlank_kept {s : State} (hs : Keeps K s) (d : Nat) : Keeps K (State.startBlank s d) := by
  unfold State.startBlank
  try dsimp only
  with_reducible repeat'
    (first
      | assumption | intro _ | apply Keeps.ite | apply State.enterBlank_kept | apply State.emit_kept | apply State.put_kept
      | apply State.raise_kept | apply State.sendDmsg_kept | split)

theorem execPlatenLineSlot_kept (d : Fin 2) (ranOut : Bool) {s : State} (hs : Keeps K s) :
    ∀ t, execPlatenLineSlot d ranOut s = .next t → Keeps K t := by
  unfold execPlatenLineSlot
  try dsimp only
  with_reducible repeat'
    (first
      | (intro t ht; injection ht with ht; subst ht) | assumption | intro _ | apply Keeps.ite | apply State.endScan_kept
      | apply State.setDisp_kept | apply State.startFrame_kept | apply State.put_kept | apply State.scanLine_kept
      | apply State.blankSlot_kept | apply State.startBlank_kept | split)

theorem execPlatenFreerun_kept (d : Fin 2) {s : State} (hs : Keeps K s) : ∀ t, execPlatenFreerun d s = .next t → Keeps K t := by
  unfold execPlatenFreerun
  try dsimp only
  with_reducible repeat'
    (first
      | (intro t ht; injection ht with ht; subst ht) | assumption | intro _ | apply Keeps.ite | apply State.endScan_kept
      | apply State.put_kept | apply State.setDisp_kept | split)

theorem execKaLost_kept (d : Fin 2) {s : State} (hs : Keeps K s) : ∀ t, execKaLost d s = .next t → Keeps K t := by
  unfold execKaLost
  try dsimp only
  with_reducible repeat'
    (first
      | (intro t ht; injection ht with ht; subst ht) | assumption | intro _ | apply Keeps.ite | apply State.raise_kept | split)

theorem execPlatenTrainDone_kept (d : Fin 2) (ok : Bool) (lanes : Fin 3) (rate : Fin 8) {s : State} (hs : Keeps K s) :
    ∀ t, execPlatenTrainDone d ok lanes rate s = .next t → Keeps K t := by
  unfold execPlatenTrainDone
  try dsimp only
  with_reducible repeat'
    (first
      | (intro t ht; injection ht with ht; subst ht) | assumption | intro _ | apply Keeps.ite | apply State.platenOff_kept
      | apply State.raise_kept | apply State.put_kept | apply State.enterBlank_kept | apply State.setDisp_kept | split)

theorem execPanelHpdIrq_kept (d : Fin 2) {s : State} (hs : Keeps K s) : ∀ t, execPanelHpdIrq d s = .next t → Keeps K t := by
  unfold execPanelHpdIrq
  try dsimp only
  with_reducible repeat'
    (first
      | (intro t ht; injection ht with ht; subst ht) | assumption | intro _ | apply Keeps.ite | apply State.when_kept
      | apply State.raise_kept | split)

theorem execPanelUnplug_kept (d : Fin 2) {s : State} (hs : Keeps K s) : ∀ t, execPanelUnplug d s = .next t → Keeps K t := by
  unfold execPanelUnplug
  try dsimp only
  with_reducible repeat'
    (first
      | (intro t ht; injection ht with ht; subst ht) | assumption | intro _ | apply Keeps.ite | apply State.when_kept
      | apply State.platenOff_kept | apply State.put_kept | apply State.raise_kept | apply State.sendDmsg_kept | split)

theorem execPanelPlug_kept (d : Fin 2) {s : State} (hs : Keeps K s) : ∀ t, execPanelPlug d s = .next t → Keeps K t := by
  unfold execPanelPlug
  try dsimp only
  with_reducible repeat'
    (first
      | (intro t ht; injection ht with ht; subst ht) | assumption | intro _ | apply Keeps.ite | apply State.when_kept
      | apply State.put_kept | apply State.raise_kept | apply State.sendDmsg_kept | apply State.platenTry_kept | split)

theorem State.auxGo_kept {s : State} (hs : Keeps K s) (d : Nat) : Keeps K (State.auxGo s d) := by
  unfold State.auxGo
  try dsimp only
  with_reducible repeat' (first | assumption | intro _ | apply Keeps.ite | apply State.put_kept | apply State.emit_kept | split)

theorem execAuxGo_kept (d : Fin 2) {s : State} (hs : Keeps K s) : ∀ t, execAuxGo d s = .next t → Keeps K t := by
  unfold execAuxGo
  try dsimp only
  with_reducible repeat'
    (first
      | (intro t ht; injection ht with ht; subst ht) | assumption | intro _ | apply Keeps.ite | apply State.auxGo_kept | split)

theorem execAuxDone_kept (d : Fin 2) (result : Fin 4) (data : Option (List Byte)) {s : State} (hs : Keeps K s) :
    ∀ t, execAuxDone d result data s = .next t → Keeps K t := by
  unfold execAuxDone
  try dsimp only
  with_reducible repeat'
    (first
      | (intro t ht; injection ht with ht; subst ht) | assumption | intro _ | apply Keeps.ite | apply State.put_kept
      | apply State.each_kept | split)

end Sys2Proof.Machine
end

