-- ==== Sys2Proof/Laws/KeptDock.lean ====
section
/-! SUPPORT. What no command disturbs, in storage, register writes, the bridge, Ethernet and time: one lemma for each operation and each command. -/

set_option linter.unreachableTactic false
set_option linter.unusedTactic false

namespace Sys2Proof.Machine

variable {K : Mark}

theorem State.setBind_kept {s : State} (hs : Keeps K s) (n : Nat) (g : Binding → Binding) : Keeps K (State.setBind s n g) := by
  unfold State.setBind
  exact hs.same rfl rfl rfl rfl rfl rfl rfl rfl rfl rfl rfl

theorem State.setPx_kept {s : State} (hs : Keeps K s) (g : Pcie → Pcie) : Keeps K (State.setPx s g) := by
  unfold State.setPx
  exact hs.same rfl rfl rfl rfl rfl rfl rfl rfl rfl rfl rfl

theorem State.setCfgBits_kept {s : State} (hs : Keeps K s) (fn : Nat) (k : Nat) (w : Nat) :
    Keeps K (State.setCfgBits s fn k w) := by
  unfold State.setCfgBits
  try dsimp only
  with_reducible repeat' (first | assumption | intro _ | apply Keeps.ite | apply State.setPx_kept | split)

theorem State.msixReset_kept {s : State} (hs : Keeps K s) : Keeps K (State.msixReset s) := by
  unfold State.msixReset
  try dsimp only
  with_reducible repeat' (first | assumption | intro _ | apply Keeps.ite | apply State.setSvc_kept | split)

theorem State.msixFlush_kept {s : State} (hs : Keeps K s) : Keeps K (State.msixFlush s) := by
  unfold State.msixFlush
  try dsimp only
  with_reducible repeat'
    (first
      | assumption | intro _ | apply Keeps.ite | apply State.each_kept | apply State.emit_kept | apply State.setSvc_kept
      | apply State.sendMsix_kept | split)

theorem State.bar4Write_kept {s : State} (hs : Keeps K s) (ofs : Nat) (be : Nat) (w : Nat) :
    Keeps K (State.bar4Write s ofs be w) := by
  unfold State.bar4Write
  try dsimp only
  with_reducible repeat' (first | assumption | intro _ | apply Keeps.ite | apply State.setSvc_kept | split)

theorem State.bar4_kept {s : State} (hs : Keeps K s) (t : List Byte) : Keeps K (State.bar4 s t) := by
  unfold State.bar4
  try dsimp only
  with_reducible repeat'
    (first
      | assumption | intro _ | apply Keeps.ite | apply State.each_kept | apply State.bar4Write_kept | apply State.msixFlush_kept
      | apply State.emit_kept | split)

theorem State.aerReport_kept {s : State} (hs : Keeps K s) (n : Nat) (bit : Nat) : Keeps K (State.aerReport s n bit) := by
  unfold State.aerReport
  try dsimp only
  with_reducible repeat'
    (first
      | assumption | intro _ | apply Keeps.ite | apply State.setBind_kept | apply State.emit_kept | split)

theorem State.hotPlug_kept {s : State} (hs : Keeps K s) (n : Nat) : Keeps K (State.hotPlug s n) := by
  unfold State.hotPlug
  try dsimp only
  with_reducible repeat' (first | assumption | intro _ | apply Keeps.ite | apply State.emit_kept | split)

theorem State.cfgClear_kept {s : State} (hs : Keeps K s) (fn : Nat) (k : Nat) (w : Nat) :
    Keeps K (State.cfgClear s fn k w) := by
  unfold State.cfgClear
  try dsimp only
  with_reducible repeat' (first | assumption | intro _ | apply Keeps.ite | apply State.setBind_kept | split)

theorem State.fnReset_kept {s : State} (hs : Keeps K s) : Keeps K (State.fnReset s) := by
  unfold State.fnReset
  try dsimp only
  with_reducible repeat'
    (first
      | assumption | intro _ | apply Keeps.ite | apply State.msixReset_kept | apply State.setPx_kept | apply State.each_kept
      | apply State.setBind_kept | split)

theorem State.noteOut_kept {s : State} (hs : Keeps K s) (kind : Nat) (n : Nat) : Keeps K (State.noteOut s kind n) := by
  unfold State.noteOut
  try dsimp only
  with_reducible repeat' (first | assumption | intro _ | apply Keeps.ite | apply State.setPx_kept | split)

theorem State.sendPduTo_kept {s : State} (hs : Keeps K s) (hub : Nat) (tun : Nat) (ptype : Nat) (epoch : Nat) (pseq : Nat) (arg
    : Nat) (body : List Byte) : Keeps K (State.sendPduTo s hub tun ptype epoch pseq arg body) := by
  unfold State.sendPduTo
  try dsimp only
  with_reducible repeat'
    (first
      | assumption | intro _ | apply Keeps.ite | apply State.noteOut_kept | apply State.presentAll_kept | split)

theorem State.sendPdu_kept {s : State} (hs : Keeps K s) (n : Nat) (ptype : Nat) (arg : Nat) (body : List Byte) :
    Keeps K (State.sendPdu s n ptype arg body) := by
  unfold State.sendPdu
  try dsimp only
  with_reducible repeat'
    (first
      | assumption | intro _ | apply Keeps.ite | apply State.sendPduTo_kept | apply State.setBind_kept | split)

theorem State.completeUr_kept {s : State} (hs : Keeps K s) (n : Nat) (t : List Byte) : Keeps K (State.completeUr s n t) := by
  unfold State.completeUr
  try dsimp only
  with_reducible repeat'
    (first
      | assumption | intro _ | apply Keeps.ite | apply State.when_kept | apply State.usedFree_kept | apply State.emit_kept
      | split)

theorem State.answerUr_kept {s : State} (hs : Keeps K s) (n : Nat) (t : List Byte) : Keeps K (State.answerUr s n t) := by
  unfold State.answerUr
  try dsimp only
  with_reducible repeat'
    (first
      | assumption | intro _ | apply Keeps.ite | apply State.completeUr_kept | apply State.inc_kept | split)

theorem State.sendTlp_kept {s : State} (hs : Keeps K s) (n : Nat) (t : Tlp) (rest : List Tlp) :
    Keeps K (State.sendTlp s n t rest) := by
  unfold State.sendTlp
  try dsimp only
  with_reducible repeat'
    (first
      | assumption | intro _ | apply Keeps.ite | apply State.sendPduTo_kept | apply State.setBind_kept | split)

theorem State.sendTlps_kept (k n : Nat) {s : State} (hs : Keeps K s) : Keeps K (State.sendTlps k n s) := by
  induction k generalizing s with
  | zero => exact hs
  | succ k ih =>
    unfold State.sendTlps
    split
    · exact ih (State.sendTlp_kept hs _ _ _)
    · exact hs

theorem State.queueTlp_kept {s : State} (hs : Keeps K s) (n : Nat) (t : Tlp) : Keeps K (s.queueTlp n t) :=
  State.sendTlps_kept _ _ (State.setBind_kept hs _ _)

theorem State.track_kept {s : State} (hs : Keeps K s) (n : Nat) (t : List Byte) : Keeps K (State.track s n t) := by
  unfold State.track
  try dsimp only
  with_reducible repeat'
    (first
      | assumption | intro _ | apply Keeps.ite | apply State.setBind_kept | apply State.put_kept | split)

theorem State.queueNp_kept {s : State} (hs : Keeps K s) (n : Nat) (t : List Byte) : Keeps K (State.queueNp s n t) := by
  unfold State.queueNp
  try dsimp only
  with_reducible repeat'
    (first
      | assumption | intro _ | apply Keeps.ite | apply State.track_kept | apply State.queueTlp_kept | apply State.setBind_kept
      | split)

theorem State.untrack_kept {s : State} (hs : Keeps K s) (n : Nat) (key : Nat) : Keeps K (State.untrack s n key) := by
  unfold State.untrack
  try dsimp only
  with_reducible repeat'
    (first
      | assumption | intro _ | apply Keeps.ite | apply State.setBind_kept | apply State.put_kept | apply State.queueNp_kept
      | split)

theorem State.vpUp_kept {s : State} (hs : Keeps K s) (n : Nat) : Keeps K (State.vpUp s n) := by
  unfold State.vpUp
  try dsimp only
  with_reducible repeat'
    (first
      | assumption | intro _ | apply Keeps.ite | apply State.put_kept | apply State.setBind_kept | apply State.hotPlug_kept
      | apply State.raise_kept | split)

theorem State.vpDown_kept {s : State} (hs : Keeps K s) (n : Nat) (next : Nat) : Keeps K (State.vpDown s n next) := by
  unfold State.vpDown
  try dsimp only
  with_reducible repeat'
    (first
      | assumption | intro _ | apply Keeps.ite | apply State.put_kept | apply State.setBind_kept | apply State.hotPlug_kept
      | apply State.each_kept | apply State.answerUr_kept | apply State.raise_kept | split)

theorem State.bindRequest_kept {s : State} (hs : Keeps K s) (n : Nat) : Keeps K (State.bindRequest s n) := by
  unfold State.bindRequest
  try dsimp only
  with_reducible repeat'
    (first
      | assumption | intro _ | apply Keeps.ite | apply State.put_kept | apply State.setBind_kept | apply State.sendPdu_kept
      | split)

theorem State.tryBind_kept {s : State} (hs : Keeps K s) (n : Nat) : Keeps K (State.tryBind s n) := by
  unfold State.tryBind
  try dsimp only
  with_reducible repeat' (first | assumption | intro _ | apply Keeps.ite | apply State.bindRequest_kept | split)

theorem State.vpUnbind_kept {s : State} (hs : Keeps K s) (n : Nat) : Keeps K (State.vpUnbind s n) := by
  unfold State.vpUnbind
  try dsimp only
  with_reducible repeat'
    (first
      | assumption | intro _ | apply Keeps.ite | apply State.sendPdu_kept | apply State.vpDown_kept | apply State.setBind_kept
      | apply State.when_kept | apply State.raise_kept | split)

theorem State.dbFresh_kept {s : State} (hs : Keeps K s) (peer : Nat × Nat) : Keeps K (State.dbFresh s peer) := by
  unfold State.dbFresh
  try dsimp only
  with_reducible repeat'
    (first
      | assumption | intro _ | apply Keeps.ite | apply State.setBind_kept | apply State.each_kept | apply State.answerUr_kept
      | split)

theorem State.dbDrop_kept {s : State} (hs : Keeps K s) : Keeps K (State.dbDrop s) := by
  unfold State.dbDrop
  try dsimp only
  with_reducible repeat'
    (first
      | assumption | intro _ | apply Keeps.ite | apply State.put_kept | apply State.dbFresh_kept | apply State.raise_kept
      | split)

theorem State.bindRefused_kept {s : State} (hs : Keeps K s) (n : Nat) : Keeps K (State.bindRefused s n) := by
  unfold State.bindRefused
  try dsimp only
  with_reducible repeat'
    (first
      | assumption | intro _ | apply Keeps.ite | apply State.setBind_kept | apply State.raise_kept | split)

theorem State.pxLockup_kept {s : State} (hs : Keeps K s) : Keeps K (State.pxLockup s) := by
  unfold State.pxLockup
  try dsimp only
  with_reducible repeat'
    (first
      | assumption | intro _ | apply Keeps.ite | apply State.when_kept | apply State.raise_kept | apply State.dbDrop_kept
      | apply State.each_kept | apply State.vpUnbind_kept | apply State.tryBind_kept | apply State.put_kept
      | apply State.emit_kept | apply State.fnReset_kept | apply State.setPx_kept | split)

theorem State.pxMilestone_kept {s : State} (hs : Keeps K s) : Keeps K (State.pxMilestone s) := by
  unfold State.pxMilestone
  try dsimp only
  with_reducible repeat'
    (first
      | assumption | intro _ | apply Keeps.ite | apply State.each_kept | apply State.when_kept | apply State.sendPdu_kept
      | apply State.setBind_kept | apply State.put_kept | apply State.tryBind_kept | split)

theorem State.pduBad_kept {s : State} (hs : Keeps K s) (n : Nat) (tlp : Bool) : Keeps K (State.pduBad s n tlp) := by
  unfold State.pduBad
  try dsimp only
  with_reducible repeat'
    (first
      | assumption | intro _ | apply Keeps.ite | apply State.inc_kept | apply State.raise_kept | apply State.when_kept
      | apply State.aerReport_kept | split)

theorem State.pduHeard_kept {s : State} (hs : Keeps K s) (p : Pdu) (n : Nat) : Keeps K (State.pduHeard s p n) := by
  unfold State.pduHeard
  try dsimp only
  with_reducible repeat'
    (first
      | assumption | intro _ | apply Keeps.ite | apply State.takeFifo_kept | apply State.setBind_kept | split)

theorem State.pduRx_kept {s : State} (hs : Keeps K s) (want : Nat) (p : Pdu) (g : Nat → State → State) (hg : ∀ b s, Keeps K s →
    Keeps K (g b s)) : Keeps K (State.pduRx s want p g) := by
  unfold State.pduRx
  try dsimp only
  with_reducible repeat'
    (first
      | assumption | intro _ | apply Keeps.ite | apply State.takeFifo_kept | apply State.pduHeard_kept | apply State.pduBad_kept
      | apply hg | split)

theorem State.releaseCells_kept {s : State} (hs : Keeps K s) (n : Nat) (t : Tlp) : Keeps K (State.releaseCells s n t) := by
  unfold State.releaseCells
  try dsimp only
  with_reducible repeat' (first | assumption | intro _ | apply Keeps.ite | apply State.setBind_kept | split)

theorem State.toLink_kept {s : State} (hs : Keeps K s) (n : Nat) (short : Fin 8) : Keeps K (State.toLink s n short) := by
  unfold State.toLink
  try dsimp only
  with_reducible repeat'
    (first
      | assumption | intro _ | apply Keeps.ite | apply State.setBind_kept | apply State.each_kept | apply State.emit_kept
      | apply State.releaseCells_kept | split)

theorem State.tlpDeliver_kept {s : State} (hs : Keeps K s) (n : Nat) (t : Tlp) (short : Fin 8) :
    Keeps K (State.tlpDeliver s n t short) := by
  unfold State.tlpDeliver
  try dsimp only
  with_reducible repeat'
    (first
      | assumption | intro _ | apply Keeps.ite | apply State.setBind_kept | apply State.toLink_kept
      | apply State.releaseCells_kept | apply State.queueTlp_kept | apply State.when_kept | apply State.aerReport_kept
      | apply State.untrack_kept | apply State.inc_kept | split)

theorem State.tlpIn_kept {s : State} (hs : Keeps K s) (n : Nat) (p : Pdu) (short : Fin 8) :
    Keeps K (State.tlpIn s n p short) := by
  unfold State.tlpIn
  try dsimp only
  with_reducible repeat'
    (first
      | assumption | intro _ | apply Keeps.ite | apply State.when_kept | apply State.inc_kept | apply State.raise_kept
      | apply State.aerReport_kept | apply State.setBind_kept | apply State.tlpDeliver_kept | split)

theorem execTlpPduRx_kept (p : Pdu) (reqShort : Fin 4) (cplShort : Bool) {s : State} (hs : Keeps K s) :
    ∀ t, execTlpPduRx p reqShort cplShort s = .next t → Keeps K t := by
  unfold execTlpPduRx
  try dsimp only
  with_reducible repeat'
    (first
      | (intro t ht; injection ht with ht; subst ht) | assumption | intro _ | apply Keeps.ite | apply State.pduRx_kept
      | apply State.tlpIn_kept | split)

theorem State.tlpFar_kept {s : State} (hs : Keeps K s) (n : Nat) (t : List Byte) : Keeps K (State.tlpFar s n t) := by
  unfold State.tlpFar
  try dsimp only
  with_reducible repeat'
    (first
      | assumption | intro _ | apply Keeps.ite | apply State.answerUr_kept | apply State.queueNp_kept
      | apply State.queueTlp_kept | split)

theorem State.cfgStore_kept {s : State} (hs : Keeps K s) (fn : Nat) (k : Nat) (v : Nat) :
    Keeps K (State.cfgStore s fn k v) := by
  unfold State.cfgStore
  try dsimp only
  with_reducible repeat' (first | assumption | intro _ | apply Keeps.ite | apply State.setCfgBits_kept | split)

theorem State.linkDisable_kept {s : State} (hs : Keeps K s) (n : Nat) (set : Bool) : Keeps K (State.linkDisable s n set) := by
  unfold State.linkDisable
  try dsimp only
  with_reducible repeat'
    (first
      | assumption | intro _ | apply Keeps.ite | apply State.setBind_kept | apply State.hotPlug_kept | apply State.when_kept
      | apply State.sendPdu_kept | split)

theorem State.busReset_kept {s : State} (hs : Keeps K s) (n : Nat) : Keeps K (State.busReset s n) := by
  unfold State.busReset
  try dsimp only
  with_reducible repeat'
    (first
      | assumption | intro _ | apply Keeps.ite | apply State.setCfgBits_kept | apply State.when_kept | apply State.sendPdu_kept
      | split)

theorem State.cfgEffect_kept {s : State} (hs : Keeps K s) (fn : Nat) (k : Nat) (be : Nat) (w : Nat) :
    Keeps K (State.cfgEffect s fn k be w) := by
  unfold State.cfgEffect
  try dsimp only
  with_reducible repeat'
    (first
      | assumption | intro _ | apply Keeps.ite | apply State.cfgStore_kept | apply State.busReset_kept
      | apply State.linkDisable_kept | apply State.cfgClear_kept | apply State.setSvc_kept | apply State.reroute_kept
      | apply State.msixFlush_kept | split)

theorem State.configTlp_kept {s : State} (hs : Keeps K s) (fn : Nat) (t : List Byte) : Keeps K (State.configTlp s fn t) := by
  unfold State.configTlp
  try dsimp only
  with_reducible repeat'
    (first
      | assumption | intro _ | apply Keeps.ite | apply State.when_kept | apply State.setPx_kept | apply State.cfgEffect_kept
      | apply State.emit_kept | split)

theorem State.noRoute_kept {s : State} (hs : Keeps K s) (t : List Byte) : Keeps K (State.noRoute s t) := by
  unfold State.noRoute
  try dsimp only
  with_reducible repeat'
    (first
      | assumption | intro _ | apply Keeps.ite | apply State.emit_kept | apply State.aerReport_kept | split)

theorem State.hostTlp_kept {s : State} (hs : Keeps K s) (t : List Byte) : Keeps K (State.hostTlp s t) := by
  unfold State.hostTlp
  try dsimp only
  with_reducible repeat'
    (first
      | assumption | intro _ | apply Keeps.ite | apply State.configTlp_kept | apply State.bar4_kept | apply State.each_kept
      | apply State.tlpFar_kept | apply State.noRoute_kept | split)

theorem State.tlpOut_kept {s : State} (hs : Keeps K s) (raw : List Byte) : Keeps K (State.tlpOut s raw) := by
  unfold State.tlpOut
  try dsimp only
  with_reducible repeat'
    (first
      | assumption | intro _ | apply Keeps.ite | apply State.when_kept | apply State.aerReport_kept | apply State.tlpFar_kept
      | apply State.hostTlp_kept | split)

theorem State.partnerGo_kept (k : Nat) (behind : List (List Byte)) {s : State} (hs : Keeps K s) :
    Keeps K (State.partnerGo k behind s) := by
  induction k generalizing behind s with
  | zero => exact hs
  | succ k ih =>
    unfold State.partnerGo
    split
    · exact State.setPx_kept hs _
    · split
      · exact ih _ (State.setPx_kept hs _)
      · exact ih _ (State.tlpOut_kept (State.setPx_kept hs _) _)

theorem State.partnerDrain_kept {s : State} (hs : Keeps K s) : Keeps K (State.partnerDrain s) := by
  unfold State.partnerDrain
  try dsimp only
  with_reducible repeat' (first | assumption | intro _ | apply Keeps.ite | apply State.partnerGo_kept | split)

theorem execPcieTlpRx_kept (hdr : List Byte) (payload : List Byte) {s : State} (hs : Keeps K s) :
    ∀ t, execPcieTlpRx hdr payload s = .next t → Keeps K t := by
  unfold execPcieTlpRx
  try dsimp only
  with_reducible repeat'
    (first
      | (intro t ht; injection ht with ht; subst ht) | assumption | intro _ | apply Keeps.ite | apply State.setPx_kept
      | apply State.partnerDrain_kept | split)

theorem State.dbBind_kept {s : State} (hs : Keeps K s) (hub : Nat) (tun : Nat) (epoch : Nat) (p : Pdu) :
    Keeps K (State.dbBind s hub tun epoch p) := by
  unfold State.dbBind
  try dsimp only
  with_reducible repeat'
    (first
      | assumption | intro _ | apply Keeps.ite | apply State.put_kept | apply State.dbFresh_kept | apply State.setBind_kept
      | apply State.sendPdu_kept | split)

theorem execBindReqRx_kept (p : Pdu) {s : State} (hs : Keeps K s) : ∀ t, execBindReqRx p s = .next t → Keeps K t := by
  unfold execBindReqRx
  try dsimp only
  with_reducible repeat'
    (first
      | (intro t ht; injection ht with ht; subst ht) | assumption | intro _ | apply Keeps.ite | apply State.takeFifo_kept
      | apply State.sendPduTo_kept | apply State.pduBad_kept | apply State.raise_kept | apply State.dbBind_kept | split)

theorem State.remLink_kept {s : State} (hs : Keeps K s) (n : Nat) (b : Nat) : Keeps K (State.remLink s n b) := by
  unfold State.remLink
  try dsimp only
  with_reducible repeat' (first | assumption | intro _ | apply Keeps.ite | apply State.put_kept | split)

theorem State.bindDone_kept {s : State} (hs : Keeps K s) (n : Nat) (p : Pdu) : Keeps K (State.bindDone s n p) := by
  unfold State.bindDone
  try dsimp only
  with_reducible repeat'
    (first
      | assumption | intro _ | apply Keeps.ite | apply State.setBind_kept | apply State.remLink_kept | apply State.vpUp_kept
      | apply State.put_kept | split)

theorem execBindAckRx_kept (p : Pdu) {s : State} (hs : Keeps K s) : ∀ t, execBindAckRx p s = .next t → Keeps K t := by
  unfold execBindAckRx
  try dsimp only
  with_reducible repeat'
    (first
      | (intro t ht; injection ht with ht; subst ht) | assumption | intro _ | apply Keeps.ite | apply State.pduRx_kept
      | apply State.bindDone_kept | split)

theorem execBindRefuseRx_kept (p : Pdu) {s : State} (hs : Keeps K s) : ∀ t, execBindRefuseRx p s = .next t → Keeps K t := by
  unfold execBindRefuseRx
  try dsimp only
  with_reducible repeat'
    (first
      | (intro t ht; injection ht with ht; subst ht) | assumption | intro _ | apply Keeps.ite | apply State.pduRx_kept
      | apply State.bindRefused_kept | split)

theorem State.creditIn_kept {s : State} (hs : Keeps K s) (n : Nat) (p : Pdu) : Keeps K (s.creditIn n p) :=
  State.sendTlps_kept _ _ (State.setBind_kept hs _ _)

theorem execPduCreditRx_kept (p : Pdu) {s : State} (hs : Keeps K s) : ∀ t, execPduCreditRx p s = .next t → Keeps K t := by
  unfold execPduCreditRx
  try dsimp only
  with_reducible repeat'
    (first
      | (intro t ht; injection ht with ht; subst ht) | assumption | intro _ | apply Keeps.ite | apply State.pduRx_kept
      | apply State.creditIn_kept | apply State.partnerDrain_kept | split)

theorem State.linkIn_kept {s : State} (hs : Keeps K s) (n : Nat) (was : Nat) (p : Pdu) : Keeps K (State.linkIn s n was p) := by
  unfold State.linkIn
  try dsimp only
  with_reducible repeat'
    (first
      | assumption | intro _ | apply Keeps.ite | apply State.remLink_kept | apply State.vpUp_kept | apply State.vpDown_kept
      | apply State.when_kept | apply State.sendPdu_kept | split)

theorem execLinkPduRx_kept (p : Pdu) {s : State} (hs : Keeps K s) : ∀ t, execLinkPduRx p s = .next t → Keeps K t := by
  unfold execLinkPduRx
  try dsimp only
  with_reducible repeat'
    (first
      | (intro t ht; injection ht with ht; subst ht) | assumption | intro _ | apply Keeps.ite | apply State.pduRx_kept
      | apply State.linkIn_kept | split)

theorem execKeepalivePduRx_kept (p : Pdu) {s : State} (hs : Keeps K s) : ∀ t, execKeepalivePduRx p s = .next t → Keeps K t := by
  unfold execKeepalivePduRx
  try dsimp only
  with_reducible repeat'
    (first
      | (intro t ht; injection ht with ht; subst ht) | assumption | intro _ | apply Keeps.ite | apply State.pduRx_kept | split)

theorem State.driveReset_kept {s : State} (hs : Keeps K s) (k : Nat) : Keeps K (State.driveReset s k) := by
  unfold State.driveReset
  try dsimp only
  with_reducible repeat'
    (first
      | assumption | intro _ | apply Keeps.ite | apply State.emit_kept | apply State.setPx_kept | split)

theorem execResetPduRx_kept (p : Pdu) {s : State} (hs : Keeps K s) : ∀ t, execResetPduRx p s = .next t → Keeps K t := by
  unfold execResetPduRx
  try dsimp only
  with_reducible repeat'
    (first
      | (intro t ht; injection ht with ht; subst ht) | assumption | intro _ | apply Keeps.ite | apply State.pduRx_kept
      | apply State.driveReset_kept | split)

theorem execUnbindRx_kept (p : Pdu) {s : State} (hs : Keeps K s) : ∀ t, execUnbindRx p s = .next t → Keeps K t := by
  unfold execUnbindRx
  try dsimp only
  with_reducible repeat'
    (first
      | (intro t ht; injection ht with ht; subst ht) | assumption | intro _ | apply Keeps.ite | apply State.pduRx_kept
      | apply State.dbDrop_kept | split)

theorem execBindTimeout_kept (n : Fin 9) {s : State} (hs : Keeps K s) : ∀ t, execBindTimeout n s = .next t → Keeps K t := by
  unfold execBindTimeout
  try dsimp only
  with_reducible repeat'
    (first
      | (intro t ht; injection ht with ht; subst ht) | assumption | intro _ | apply Keeps.ite | apply State.bindRefused_kept
      | apply State.dbDrop_kept | apply State.raise_kept | apply State.vpDown_kept | apply State.bindRequest_kept | split)

theorem State.sendReleased_kept {s : State} (hs : Keeps K s) (n : Nat) : Keeps K (State.sendReleased s n) := by
  unfold State.sendReleased
  try dsimp only
  with_reducible repeat' (first | assumption | intro _ | apply Keeps.ite | apply State.sendPdu_kept | split)

theorem execPduCreditDue_kept (n : Fin 9) (short : Fin 8) {s : State} (hs : Keeps K s) :
    ∀ t, execPduCreditDue n short s = .next t → Keeps K t := by
  unfold execPduCreditDue
  try dsimp only
  with_reducible repeat'
    (first
      | (intro t ht; injection ht with ht; subst ht) | assumption | intro _ | apply Keeps.ite | apply State.toLink_kept
      | apply State.sendReleased_kept | apply State.partnerDrain_kept | split)

theorem State.pcieLink_kept {s : State} (hs : Keeps K s) (up : Bool) (width : Nat) (speed : Nat) (ltssm : Nat) :
    Keeps K (State.pcieLink s up width speed ltssm) := by
  unfold State.pcieLink
  try dsimp only
  with_reducible repeat'
    (first
      | assumption | intro _ | apply Keeps.ite | apply State.put_kept | apply State.when_kept | apply State.raise_kept | split)

theorem State.perstPort_kept {s : State} (hs : Keeps K s) (n : Nat) : Keeps K (State.perstPort s n) := by
  unfold State.perstPort
  try dsimp only
  with_reducible repeat'
    (first
      | assumption | intro _ | apply Keeps.ite | apply State.when_kept | apply State.sendPdu_kept | apply State.each_kept
      | apply State.releaseCells_kept | apply State.setBind_kept | apply State.put_kept | split)

theorem State.perstClear_kept {s : State} (hs : Keeps K s) : Keeps K (State.perstClear s) := by
  unfold State.perstClear
  try dsimp only
  with_reducible repeat'
    (first
      | assumption | intro _ | apply Keeps.ite | apply State.each_kept | apply State.perstPort_kept | apply State.fnReset_kept
      | apply State.setPx_kept | split)

theorem execPerstInFall_kept {s : State} (hs : Keeps K s) : ∀ t, execPerstInFall s = .next t → Keeps K t := by
  unfold execPerstInFall
  try dsimp only
  with_reducible repeat'
    (first
      | (intro t ht; injection ht with ht; subst ht) | assumption | intro _ | apply Keeps.ite | apply State.setPx_kept
      | apply State.perstClear_kept | apply State.usedFree_kept | apply State.pcieLink_kept | split)

theorem execPerstInRise_kept {s : State} (hs : Keeps K s) : ∀ t, execPerstInRise s = .next t → Keeps K t := by
  unfold execPerstInRise
  try dsimp only
  with_reducible repeat'
    (first
      | (intro t ht; injection ht with ht; subst ht) | assumption | intro _ | apply Keeps.ite | apply State.setPx_kept | split)

theorem execPerstRelease_kept {s : State} (hs : Keeps K s) : ∀ t, execPerstRelease s = .next t → Keeps K t := by
  unfold execPerstRelease
  try dsimp only
  with_reducible repeat'
    (first
      | (intro t ht; injection ht with ht; subst ht) | assumption | intro _ | apply Keeps.ite | apply State.put_kept
      | apply State.emit_kept | split)

theorem State.reportDrive_kept {s : State} (hs : Keeps K s) (up : Bool) : Keeps K (State.reportDrive s up) := by
  unfold State.reportDrive
  try dsimp only
  with_reducible repeat'
    (first
      | assumption | intro _ | apply Keeps.ite | apply State.when_kept | apply State.sendPdu_kept | split)

theorem execDriveLinkChange_kept (up : Bool) (width : Fin 3) (speed : Fin 4) (ltssm : Fin 64) {s : State} (hs : Keeps K s) :
    ∀ t, execDriveLinkChange up width speed ltssm s = .next t → Keeps K t := by
  unfold execDriveLinkChange
  try dsimp only
  with_reducible repeat'
    (first
      | (intro t ht; injection ht with ht; subst ht) | assumption | intro _ | apply Keeps.ite | apply State.pcieLink_kept
      | apply State.reportDrive_kept | split)

theorem execHostLinkChange_kept (up : Bool) (width : Fin 3) (speed : Fin 4) (ltssm : Fin 64) {s : State} (hs : Keeps K s) :
    ∀ t, execHostLinkChange up width speed ltssm s = .next t → Keeps K t := by
  unfold execHostLinkChange
  try dsimp only
  with_reducible repeat'
    (first
      | (intro t ht; injection ht with ht; subst ht) | assumption | intro _ | apply Keeps.ite | apply State.pcieLink_kept
      | split)

theorem execSecondaryBusReset_kept (vp : Fin 8) {s : State} (hs : Keeps K s) :
    ∀ t, execSecondaryBusReset vp s = .next t → Keeps K t := by
  unfold execSecondaryBusReset
  try dsimp only
  with_reducible repeat'
    (first
      | (intro t ht; injection ht with ht; subst ht) | assumption | intro _ | apply Keeps.ite | apply State.when_kept
      | apply State.busReset_kept | split)

theorem execLinkDisable_kept (vp : Fin 8) (set : Bool) {s : State} (hs : Keeps K s) :
    ∀ t, execLinkDisable vp set s = .next t → Keeps K t := by
  unfold execLinkDisable
  try dsimp only
  with_reducible repeat'
    (first
      | (intro t ht; injection ht with ht; subst ht) | assumption | intro _ | apply Keeps.ite | apply State.when_kept
      | apply State.linkDisable_kept | split)

theorem State.writeField_kept {s : State} (hs : Keeps K s) (a : Nat) (w : Word) (f : FieldD) :
    Keeps K (State.writeField s a w f) := by
  unfold State.writeField
  try dsimp only
  with_reducible repeat'
    (first
      | assumption | intro _ | apply Keeps.ite | apply State.put_kept | apply State.putShadow_kept | split)

theorem State.writeFields_kept {s : State} (hs : Keeps K s) (a : Nat) (w : Word) : Keeps K (State.writeFields s a w) := by
  unfold State.writeFields
  try dsimp only
  with_reducible repeat'
    (first
      | assumption | intro _ | apply Keeps.ite | apply State.each_kept | apply State.writeField_kept | split)

theorem State.writeShadow_kept {s : State} (hs : Keeps K s) (a : Nat) (w : Word) : Keeps K (State.writeShadow s a w) := by
  unfold State.writeShadow
  try dsimp only
  with_reducible repeat'
    (first
      | assumption | intro _ | apply Keeps.ite | apply State.each_kept | apply State.writeField_kept | split)

theorem State.ordered_kept {s : State} (hs : Keeps K s) (p : Path) (stall : Bool) (c : Instr) (g : State → State) (hg : ∀ s,
    Keeps K s → Keeps K (g s)) : Keeps K (State.ordered s p stall c g) := by
  unfold State.ordered
  try dsimp only
  with_reducible repeat' (first | assumption | intro _ | apply Keeps.ite | apply State.setFc_kept | apply hg | split)

theorem State.setLb_kept {s : State} (hs : Keeps K s) (g : Bridge → Bridge) : Keeps K (State.setLb s g) := by
  unfold State.setLb
  exact hs.same rfl rfl rfl rfl rfl rfl rfl rfl rfl rfl rfl

theorem State.sendBridge_kept {s : State} (hs : Keeps K s) (hub : Nat) (tunnel : Nat) (tc : Nat) (flow : Nat) (payload : List
    Byte) : Keeps K (State.sendBridge s hub tunnel tc flow payload) := by
  unfold State.sendBridge
  try dsimp only
  with_reducible repeat' (first | assumption | intro _ | apply Keeps.ite | apply State.present_kept | split)

theorem State.sendWin_kept {s : State} (hs : Keeps K s) (n : Nat) (tunnel : Nat) (btype : Nat) (tag : Nat) (off : Nat) (blen :
    Nat) (seq : Nat) (data : List Byte) : Keeps K (State.sendWin s n tunnel btype tag off blen seq data) := by
  unfold State.sendWin
  try dsimp only
  with_reducible repeat' (first | assumption | intro _ | apply Keeps.ite | apply State.sendBridge_kept | split)

theorem State.sendResync_kept {s : State} (hs : Keeps K s) (n : Nat) : Keeps K (State.sendResync s n) := by
  unfold State.sendResync
  try dsimp only
  with_reducible repeat'
    (first
      | assumption | intro _ | apply Keeps.ite | apply State.setLb_kept | apply State.sendBridge_kept | split)

theorem State.sendCredit_kept {s : State} (hs : Keeps K s) (n : Nat) : Keeps K (State.sendCredit s n) := by
  unfold State.sendCredit
  try dsimp only
  with_reducible repeat' (first | assumption | intro _ | apply Keeps.ite | apply State.sendBridge_kept | split)

theorem State.sendFarErr_kept {s : State} (hs : Keeps K s) (hub : Nat) (twin : Nat) (iwin : Nat) (off : Nat) (seq : Nat) (code
    : Nat) : Keeps K (State.sendFarErr s hub twin iwin off seq code) := by
  unfold State.sendFarErr
  try dsimp only
  with_reducible repeat' (first | assumption | intro _ | apply Keeps.ite | apply State.sendBridge_kept | split)

theorem State.sendSigErr_kept {s : State} (hs : Keeps K s) (hub : Nat) (sig : Nat) (off : Nat) (code : Nat) :
    Keeps K (State.sendSigErr s hub sig off code) := by
  unfold State.sendSigErr
  try dsimp only
  with_reducible repeat' (first | assumption | intro _ | apply Keeps.ite | apply State.sendBridge_kept | split)

theorem State.sendCpl_kept {s : State} (hs : Keeps K s) (r : Inbound) (stat : Nat) (data : List Byte) :
    Keeps K (State.sendCpl s r stat data) := by
  unfold State.sendCpl
  try dsimp only
  with_reducible repeat' (first | assumption | intro _ | apply Keeps.ite | apply State.sendBridge_kept | split)

theorem State.lbIdle_kept {s : State} (hs : Keeps K s) : Keeps K (State.lbIdle s) := by
  unfold State.lbIdle
  try dsimp only
  with_reducible repeat' (first | assumption | intro _ | apply Keeps.ite | apply State.put_kept | apply State.emit_kept | split)

theorem State.endDev_kept {s : State} (hs : Keeps K s) (code : Nat) (data : List Byte) :
    Keeps K (State.endDev s code data) := by
  unfold State.endDev
  try dsimp only
  with_reducible repeat'
    (first
      | assumption | intro _ | apply Keeps.ite | apply State.emit_kept | apply State.setLb_kept | apply State.put_kept
      | apply State.lbIdle_kept | split)

theorem execLbBusRequest_kept {s : State} (hs : Keeps K s) : ∀ t, execLbBusRequest s = .next t → Keeps K t := by
  unfold execLbBusRequest
  try dsimp only
  with_reducible repeat'
    (first
      | (intro t ht; injection ht with ht; subst ht) | assumption | intro _ | apply Keeps.ite | apply State.setLb_kept
      | apply State.lbIdle_kept | split)

theorem execLbGrantWithdraw_kept {s : State} (hs : Keeps K s) : ∀ t, execLbGrantWithdraw s = .next t → Keeps K t := by
  unfold execLbGrantWithdraw
  try dsimp only
  with_reducible repeat'
    (first
      | (intro t ht; injection ht with ht; subst ht) | assumption | intro _ | apply Keeps.ite | apply State.put_kept
      | apply State.setLb_kept | apply State.emit_kept | split)

theorem State.imgPut_kept {s : State} (hs : Keeps K s) (a : Nat) (bs : List Byte) : Keeps K (s.imgPut a bs) :=
  hs.setImage (canonical_memWrite a bs hs.10)

theorem State.imgWrite_kept {s : State} (hs : Keeps K s) (a : Nat) (bs : List Byte) : Keeps K (s.imgWrite a bs) := by
  have h := State.imgPut_kept hs a bs
  unfold State.imgWrite
  dsimp only
  refine State.each_kept h _ _ fun i s hs => ?_
  with_reducible repeat' (first | assumption | intro _ | apply Keeps.ite | apply State.setLb_kept | split)

theorem State.sigTouch_kept {s : State} (hs : Keeps K s) (i : Nat) : Keeps K (State.sigTouch s i) := by
  unfold State.sigTouch
  try dsimp only
  with_reducible repeat' (first | assumption | intro _ | apply Keeps.ite | apply State.setCase_kept | split)

theorem State.sendSignal_kept {s : State} (hs : Keeps K s) (i : Nat) (v : List Byte) : Keeps K (State.sendSignal s i v) := by
  unfold State.sendSignal
  try dsimp only
  with_reducible repeat'
    (first
      | assumption | intro _ | apply Keeps.ite | apply State.sendBridge_kept | apply State.sigTouch_kept | split)

theorem execSignalSend_kept (i : Fin 1024) {s : State} (hs : Keeps K s) : ∀ t, execSignalSend i s = .next t → Keeps K t := by
  unfold execSignalSend
  try dsimp only
  with_reducible repeat'
    (first
      | (intro t ht; injection ht with ht; subst ht) | assumption | intro _ | apply Keeps.ite | apply State.setLb_kept
      | apply State.sendSignal_kept | split)

theorem State.signalIn_kept {s : State} (hs : Keeps K s) (src : Nat) (i : Nat) (v : List Byte) :
    Keeps K (State.signalIn s src i v) := by
  unfold State.signalIn
  try dsimp only
  with_reducible repeat'
    (first
      | assumption | intro _ | apply Keeps.ite | apply State.imgPut_kept | apply State.sigTouch_kept | apply State.put_kept
      | apply State.setLb_kept | apply State.when_kept | split)

theorem execSignalRx_kept (src : Fin 2048) (i : Fin 1024) (v : List Byte) {s : State} (hs : Keeps K s) :
    ∀ t, execSignalRx src i v s = .next t → Keeps K t := by
  unfold execSignalRx
  try dsimp only
  with_reducible repeat'
    (first
      | (intro t ht; injection ht with ht; subst ht) | assumption | intro _ | apply Keeps.ite | apply State.takeFifo_kept
      | apply State.signalIn_kept | split)

theorem execSignalStale_kept (i : Fin 1024) {s : State} (hs : Keeps K s) : ∀ t, execSignalStale i s = .next t → Keeps K t := by
  unfold execSignalStale
  try dsimp only
  with_reducible repeat'
    (first
      | (intro t ht; injection ht with ht; subst ht) | assumption | intro _ | apply Keeps.ite | apply State.put_kept
      | apply State.raise_kept | split)

theorem State.lbCounts_kept {s : State} (hs : Keeps K s) (n : Nat) : Keeps K (State.lbCounts s n) := by
  unfold State.lbCounts
  try dsimp only
  with_reducible repeat' (first | assumption | intro _ | apply Keeps.ite | apply State.put_kept | split)

theorem State.sendPosted_kept {s : State} (hs : Keeps K s) (n : Nat) (c : DevCyc) : Keeps K (State.sendPosted s n c) := by
  unfold State.sendPosted
  try dsimp only
  with_reducible repeat'
    (first
      | assumption | intro _ | apply Keeps.ite | apply State.sendWin_kept | apply State.setLb_kept | apply State.endDev_kept
      | split)

theorem State.sendRequest_kept {s : State} (hs : Keeps K s) (n : Nat) (c : DevCyc) (wait : Bool) :
    Keeps K (State.sendRequest s n c wait) := by
  unfold State.sendRequest
  try dsimp only
  with_reducible repeat'
    (first
      | assumption | intro _ | apply Keeps.ite | apply State.sendWin_kept | apply State.setLb_kept | apply State.lbCounts_kept
      | split)

theorem State.retryHeld_kept {s : State} (hs : Keeps K s) : Keeps K (State.retryHeld s) := by
  unfold State.retryHeld
  try dsimp only
  with_reducible repeat'
    (first
      | assumption | intro _ | apply Keeps.ite | apply State.inc_kept | apply State.endDev_kept | apply State.sendPosted_kept
      | apply State.sendRequest_kept | split)

theorem State.npCycle_kept {s : State} (hs : Keeps K s) (n : Nat) (c : DevCyc) : Keeps K (State.npCycle s n c) := by
  unfold State.npCycle
  try dsimp only
  with_reducible repeat'
    (first
      | assumption | intro _ | apply Keeps.ite | apply State.setLb_kept | apply State.lbCounts_kept | apply State.endDev_kept
      | apply State.sendRequest_kept | split)

theorem State.winCycle_kept {s : State} (hs : Keeps K s) (n : Nat) (c : DevCyc) : Keeps K (State.winCycle s n c) := by
  unfold State.winCycle
  try dsimp only
  with_reducible repeat'
    (first
      | assumption | intro _ | apply Keeps.ite | apply State.inc_kept | apply State.raise_kept | apply State.endDev_kept
      | apply State.sendPosted_kept | apply State.setLb_kept | apply State.npCycle_kept | split)

theorem State.imgEnabled_kept {s : State} (hs : Keeps K s) (a : Nat) (en : Nat) (bs : List Byte) :
    Keeps K (State.imgEnabled s a en bs) := by
  unfold State.imgEnabled
  try dsimp only
  with_reducible repeat'
    (first
      | assumption | intro _ | apply Keeps.ite | apply State.imgWrite_kept | apply State.each_kept | split)

theorem execLbDeviceCycle_kept (write : Bool) (addr : Word) (en : BitVec 64) (data : List Byte) {s : State} (hs : Keeps K s) :
    ∀ t, execLbDeviceCycle write addr en data s = .next t → Keeps K t := by
  unfold execLbDeviceCycle
  try dsimp only
  with_reducible repeat'
    (first
      | (intro t ht; injection ht with ht; subst ht) | assumption | intro _ | apply Keeps.ite | apply State.setLb_kept
      | apply State.emit_kept | apply State.imgEnabled_kept | apply State.endDev_kept | apply State.winCycle_kept
      | apply State.inc_kept | apply State.raise_kept | split)

theorem execPostedHoldTimeout_kept {s : State} (hs : Keeps K s) : ∀ t, execPostedHoldTimeout s = .next t → Keeps K t := by
  unfold execPostedHoldTimeout
  try dsimp only
  with_reducible repeat'
    (first
      | (intro t ht; injection ht with ht; subst ht) | assumption | intro _ | apply Keeps.ite | apply State.retryHeld_kept
      | apply State.inc_kept | apply State.endDev_kept | split)

theorem State.complete_kept {s : State} (hs : Keeps K s) (r : BridgeReq) (stat : Nat) (data : List Byte) :
    Keeps K (State.complete s r stat data) := by
  unfold State.complete
  try dsimp only
  with_reducible repeat'
    (first
      | assumption | intro _ | apply Keeps.ite | apply State.setLb_kept | apply State.lbCounts_kept | apply State.endDev_kept
      | apply State.retryHeld_kept | split)

theorem execCompletionRx_kept (_src : Fin 2048) (m : BridgeMsg) {s : State} (hs : Keeps K s) :
    ∀ t, execCompletionRx _src m s = .next t → Keeps K t := by
  unfold execCompletionRx
  try dsimp only
  with_reducible repeat'
    (first
      | (intro t ht; injection ht with ht; subst ht) | assumption | intro _ | apply Keeps.ite | apply State.takeFifo_kept
      | apply State.complete_kept | apply State.inc_kept | split)

theorem execFarTmo_kept (n : Fin 32) (tag : Byte) {s : State} (hs : Keeps K s) :
    ∀ t, execFarTmo n tag s = .next t → Keeps K t := by
  unfold execFarTmo
  try dsimp only
  with_reducible repeat'
    (first
      | (intro t ht; injection ht with ht; subst ht) | assumption | intro _ | apply Keeps.ite | apply State.complete_kept
      | apply State.raise_kept | split)

theorem execDlyDiscard_kept (n : Fin 32) (tag : Byte) {s : State} (hs : Keeps K s) :
    ∀ t, execDlyDiscard n tag s = .next t → Keeps K t := by
  unfold execDlyDiscard
  try dsimp only
  with_reducible repeat'
    (first
      | (intro t ht; injection ht with ht; subst ht) | assumption | intro _ | apply Keeps.ite | apply State.setLb_kept
      | apply State.lbCounts_kept | apply State.inc_kept | split)

theorem execPostedWriteRx_kept (src : Fin 2048) (m : BridgeMsg) {s : State} (hs : Keeps K s) :
    ∀ t, execPostedWriteRx src m s = .next t → Keeps K t := by
  unfold execPostedWriteRx
  try dsimp only
  with_reducible repeat'
    (first
      | (intro t ht; injection ht with ht; subst ht) | assumption | intro _ | apply Keeps.ite | apply State.takeFifo_kept
      | apply State.sendFarErr_kept | apply State.setLb_kept | apply State.lbCounts_kept | split)

theorem State.npArrive_kept {s : State} (hs : Keeps K s) (src : Nat) (m : BridgeMsg) (write : Bool) :
    Keeps K (State.npArrive s src m write) := by
  unfold State.npArrive
  try dsimp only
  with_reducible repeat'
    (first
      | assumption | intro _ | apply Keeps.ite | apply State.takeFifo_kept | apply State.sendCpl_kept | apply State.setLb_kept
      | apply State.lbCounts_kept | split)

theorem execAcknowledgedWriteRx_kept (src : Fin 2048) (m : BridgeMsg) {s : State} (hs : Keeps K s) :
    ∀ t, execAcknowledgedWriteRx src m s = .next t → Keeps K t := by
  unfold execAcknowledgedWriteRx
  try dsimp only
  with_reducible repeat'
    (first
      | (intro t ht; injection ht with ht; subst ht) | assumption | intro _ | apply Keeps.ite | apply State.npArrive_kept
      | split)

theorem execReadRx_kept (src : Fin 2048) (m : BridgeMsg) {s : State} (hs : Keeps K s) :
    ∀ t, execReadRx src m s = .next t → Keeps K t := by
  unfold execReadRx
  try dsimp only
  with_reducible repeat'
    (first
      | (intro t ht; injection ht with ht; subst ht) | assumption | intro _ | apply Keeps.ite | apply State.npArrive_kept
      | split)

theorem execLbHubCycle_kept {s : State} (hs : Keeps K s) : ∀ t, execLbHubCycle s = .next t → Keeps K t := by
  intro t ht
  unfold execLbHubCycle at ht
  injection ht with ht
  subst ht
  split
  · exact hs
  · split
    · exact hs
    · rename_i c b _
      have h : Keeps K ({ s with lb := { b with cur := some c } } : State) := hs.same rfl rfl rfl rfl rfl rfl rfl rfl rfl rfl
          rfl
      exact State.lbCounts_kept (State.put_kept (State.emit_kept h _) _ _) _

theorem State.releasePosted_kept {s : State} (hs : Keeps K s) (r : Inbound) : Keeps K (State.releasePosted s r) := by
  unfold State.releasePosted
  try dsimp only
  with_reducible repeat'
    (first
      | assumption | intro _ | apply Keeps.ite | apply State.setLb_kept | apply State.sendCredit_kept | split)

theorem State.cycleResult_kept {s : State} (hs : Keeps K s) (c : HubCyc) (code : Nat) (data : List Byte) :
    Keeps K (State.cycleResult s c code data) := by
  unfold State.cycleResult
  try dsimp only
  with_reducible repeat'
    (first
      | assumption | intro _ | apply Keeps.ite | apply State.when_kept | apply State.sendFarErr_kept
      | apply State.releasePosted_kept | apply State.sendCpl_kept | apply State.sendSigErr_kept | apply State.sendSignal_kept
      | split)

theorem State.cycleBack_kept {s : State} (hs : Keeps K s) (c : HubCyc) : Keeps K (State.cycleBack s c) := by
  unfold State.cycleBack
  try dsimp only
  with_reducible repeat' (first | assumption | intro _ | apply Keeps.ite | apply State.setLb_kept | split)

theorem State.hubCycleEnds_kept {s : State} (hs : Keeps K s) : Keeps K (State.hubCycleEnds s) := by
  unfold State.hubCycleEnds
  try dsimp only
  with_reducible repeat'
    (first
      | assumption | intro _ | apply Keeps.ite | apply State.setLb_kept | apply State.put_kept | apply State.lbCounts_kept
      | apply State.lbIdle_kept | split)

theorem execLbHubCycleDone_kept (result : Fin 3) (data : List Byte) {s : State} (hs : Keeps K s) :
    ∀ t, execLbHubCycleDone result data s = .next t → Keeps K t := by
  unfold execLbHubCycleDone
  try dsimp only
  with_reducible repeat'
    (first
      | (intro t ht; injection ht with ht; subst ht) | assumption | intro _ | apply Keeps.ite | apply State.cycleBack_kept
      | apply State.hubCycleEnds_kept | apply State.inc_kept | apply State.raise_kept | apply State.cycleResult_kept | split)

theorem execLbWaitTimeout_kept {s : State} (hs : Keeps K s) : ∀ t, execLbWaitTimeout s = .next t → Keeps K t := by
  unfold execLbWaitTimeout
  try dsimp only
  with_reducible repeat'
    (first
      | (intro t ht; injection ht with ht; subst ht) | assumption | intro _ | apply Keeps.ite | apply State.inc_kept
      | apply State.raise_kept | apply State.cycleResult_kept | apply State.hubCycleEnds_kept | split)

theorem State.creditWin_kept {s : State} (hs : Keeps K s) (n : Nat) (seq : Nat) : Keeps K (State.creditWin s n seq) := by
  unfold State.creditWin
  try dsimp only
  with_reducible repeat'
    (first
      | assumption | intro _ | apply Keeps.ite | apply State.setLb_kept | apply State.retryHeld_kept | split)

theorem execBridgeCreditRx_kept (src : Fin 2048) (m : BridgeMsg) {s : State} (hs : Keeps K s) :
    ∀ t, execBridgeCreditRx src m s = .next t → Keeps K t := by
  unfold execBridgeCreditRx
  try dsimp only
  with_reducible repeat'
    (first
      | (intro t ht; injection ht with ht; subst ht) | assumption | intro _ | apply Keeps.ite | apply State.takeFifo_kept
      | apply State.creditWin_kept | split)

theorem State.felLog_kept {s : State} (hs : Keeps K s) (code : Nat) (init : Nat) (winSig : Nat) (hub : Nat) (addr : Nat) (lost
    : Nat) (sec : Nat) (ns : Nat) : Keeps K (State.felLog s code init winSig hub addr lost sec ns) := by
  unfold State.felLog
  try dsimp only
  with_reducible repeat' (first | assumption | intro _ | apply Keeps.ite | apply State.inc_kept | apply State.put_kept | split)

theorem execFarErrRx_kept (src : Fin 2048) (m : BridgeMsg) {s : State} (hs : Keeps K s) :
    ∀ t, execFarErrRx src m s = .next t → Keeps K t := by
  unfold execFarErrRx
  try dsimp only
  with_reducible repeat'
    (first
      | (intro t ht; injection ht with ht; subst ht) | assumption | intro _ | apply Keeps.ite | apply State.takeFifo_kept
      | apply State.felLog_kept | apply State.raise_kept | apply State.when_kept | apply State.put_kept
      | apply State.retryHeld_kept | split)

theorem State.restartWin_kept {s : State} (hs : Keeps K s) (n : Nat) (src : Nat) : Keeps K (State.restartWin s n src) := by
  unfold State.restartWin
  try dsimp only
  with_reducible repeat'
    (first
      | assumption | intro _ | apply Keeps.ite | apply State.felLog_kept | apply State.setLb_kept | apply State.raise_kept
      | apply State.sendResync_kept | apply State.each_kept | apply State.complete_kept | split)

theorem execBridgeRestartRx_kept (src : Fin 2048) (m : BridgeMsg) {s : State} (hs : Keeps K s) :
    ∀ t, execBridgeRestartRx src m s = .next t → Keeps K t := by
  unfold execBridgeRestartRx
  try dsimp only
  with_reducible repeat'
    (first
      | (intro t ht; injection ht with ht; subst ht) | assumption | intro _ | apply Keeps.ite | apply State.takeFifo_kept
      | apply State.restartWin_kept | split)

theorem State.takeResync_kept {s : State} (hs : Keeps K s) (n : Nat) (q : Nat) : Keeps K (State.takeResync s n q) := by
  unfold State.takeResync
  try dsimp only
  with_reducible repeat'
    (first
      | assumption | intro _ | apply Keeps.ite | apply State.setLb_kept | apply State.sendCredit_kept | split)

theorem execResyncRx_kept (src : Fin 2048) (m : BridgeMsg) {s : State} (hs : Keeps K s) :
    ∀ t, execResyncRx src m s = .next t → Keeps K t := by
  unfold execResyncRx
  try dsimp only
  with_reducible repeat'
    (first
      | (intro t ht; injection ht with ht; subst ht) | assumption | intro _ | apply Keeps.ite | apply State.takeFifo_kept
      | apply State.takeResync_kept | split)

theorem execFenceClear_kept (n : Fin 32) {s : State} (hs : Keeps K s) : ∀ t, execFenceClear n s = .next t → Keeps K t := by
  unfold execFenceClear
  try dsimp only
  with_reducible repeat'
    (first
      | (intro t ht; injection ht with ht; subst ht) | assumption | intro _ | apply Keeps.ite | apply State.put_kept | split)

theorem execFelEntryFree_kept (e : Fin 16) {s : State} (hs : Keeps K s) : ∀ t, execFelEntryFree e s = .next t → Keeps K t := by
  unfold execFelEntryFree
  try dsimp only
  with_reducible repeat'
    (first
      | (intro t ht; injection ht with ht; subst ht) | assumption | intro _ | apply Keeps.ite | apply State.put_kept | split)

theorem State.startWindow_kept {s : State} (hs : Keeps K s) (n : Nat) : Keeps K (State.startWindow s n) := by
  unfold State.startWindow
  try dsimp only
  with_reducible repeat'
    (first
      | assumption | intro _ | apply Keeps.ite | apply State.setLb_kept | apply State.lbCounts_kept | apply State.when_kept
      | apply State.sendBridge_kept | apply State.sendResync_kept | split)

theorem State.startBridge_kept {s : State} (hs : Keeps K s) : Keeps K (State.startBridge s) := by
  unfold State.startBridge
  try dsimp only
  with_reducible repeat'
    (first
      | assumption | intro _ | apply Keeps.ite | apply State.setLb_kept | apply State.each_kept | apply State.startWindow_kept
      | split)

theorem State.sbDrive_kept {s : State} (hs : Keeps K s) : Keeps K (State.sbDrive s) := by
  unfold State.sbDrive
  try dsimp only
  with_reducible repeat' (first | assumption | intro _ | apply Keeps.ite | apply State.put_kept | apply State.emit_kept | split)

theorem State.sendSideband_kept {s : State} (hs : Keeps K s) : Keeps K (State.sendSideband s) := by
  unfold State.sendSideband
  try dsimp only
  with_reducible repeat'
    (first
      | assumption | intro _ | apply Keeps.ite | apply State.setLb_kept | apply State.sendBridge_kept | split)

theorem State.sbCount_kept {s : State} (hs : Keeps K s) (levels : BitVec 16) : Keeps K (State.sbCount s levels) := by
  unfold State.sbCount
  try dsimp only
  with_reducible repeat'
    (first
      | assumption | intro _ | apply Keeps.ite | apply State.each_kept | apply State.setLb_kept | split)

theorem State.sbTake_kept {s : State} (hs : Keeps K s) : Keeps K (State.sbTake s) := by
  unfold State.sbTake
  try dsimp only
  with_reducible repeat'
    (first
      | assumption | intro _ | apply Keeps.ite | apply State.put_kept | apply State.setLb_kept | apply State.sendSideband_kept
      | split)

theorem execSidebandSample_kept (levels : BitVec 16) {s : State} (hs : Keeps K s) :
    ∀ t, execSidebandSample levels s = .next t → Keeps K t := by
  unfold execSidebandSample
  try dsimp only
  with_reducible repeat'
    (first
      | (intro t ht; injection ht with ht; subst ht) | assumption | intro _ | apply Keeps.ite | apply State.sbCount_kept
      | apply State.sbTake_kept | split)

theorem execSidebandStateRx_kept (src : Fin 2048) (state : BitVec 16) {s : State} (hs : Keeps K s) :
    ∀ t, execSidebandStateRx src state s = .next t → Keeps K t := by
  unfold execSidebandStateRx
  try dsimp only
  with_reducible repeat'
    (first
      | (intro t ht; injection ht with ht; subst ht) | assumption | intro _ | apply Keeps.ite | apply State.takeFifo_kept
      | apply State.setLb_kept | apply State.sbDrive_kept | split)

theorem execSbLoss_kept {s : State} (hs : Keeps K s) : ∀ t, execSbLoss s = .next t → Keeps K t := by
  unfold execSbLoss
  try dsimp only
  with_reducible repeat'
    (first
      | (intro t ht; injection ht with ht; subst ht) | assumption | intro _ | apply Keeps.ite | apply State.setLb_kept
      | apply State.sbDrive_kept | apply State.raise_kept | split)

theorem State.lbLockup_kept {s : State} (hs : Keeps K s) : Keeps K (State.lbLockup s) := by
  unfold State.lbLockup
  try dsimp only
  with_reducible repeat'
    (first
      | assumption | intro _ | apply Keeps.ite | apply State.when_kept | apply State.raise_kept | apply State.each_kept
      | apply State.startWindow_kept | apply State.sbDrive_kept | split)

theorem State.lbMilestone_kept {s : State} (hs : Keeps K s) : Keeps K (State.lbMilestone s) := by
  unfold State.lbMilestone
  try dsimp only
  with_reducible repeat'
    (first
      | assumption | intro _ | apply Keeps.ite | apply State.each_kept | apply State.when_kept | apply State.sendCredit_kept
      | apply State.setLb_kept | apply State.sendSideband_kept | split)

theorem State.lbQuiesce_kept {s : State} (hs : Keeps K s) : Keeps K (State.lbQuiesce s) := by
  unfold State.lbQuiesce
  try dsimp only
  with_reducible repeat'
    (first
      | assumption | intro _ | apply Keeps.ite | apply State.when_kept | apply State.emit_kept | apply State.setLb_kept
      | apply State.put_kept | split)

theorem State.setEth_kept {s : State} (hs : Keeps K s) (e : Nat) (g : Eth → Eth) : Keeps K (State.setEth s e g) := by
  unfold State.setEth
  exact hs.same rfl rfl rfl rfl rfl rfl rfl rfl rfl rfl rfl

theorem State.ethLockup_kept {s : State} (hs : Keeps K s) (e : Nat) : Keeps K (State.ethLockup s e) := by
  unfold State.ethLockup
  try dsimp only
  with_reducible repeat'
    (first
      | assumption | intro _ | apply Keeps.ite | apply State.when_kept | apply State.raise_kept | split)

theorem State.mapEcn_kept {s : State} (hs : Keeps K s) (e : Nat) (f : List Byte) : Keeps K (State.mapEcn s e f).2 := by
  unfold State.mapEcn
  try dsimp only
  with_reducible repeat' (first | assumption | intro _ | apply Keeps.ite | apply State.inc_kept | split)

theorem State.sendFrame_kept {s : State} (hs : Keeps K s) (e : Nat) (h : CellHdr) (f : List Byte) :
    Keeps K (State.sendFrame s e h f) := by
  unfold State.sendFrame
  try dsimp only
  with_reducible repeat'
    (first
      | assumption | intro _ | apply Keeps.ite | apply State.inc_kept | apply State.raise_kept | apply State.presentAll_kept
      | split)

theorem State.ethFilter_kept {s : State} (hs : Keeps K s) (e : Nat) : Keeps K (State.ethFilter s e) := by
  unfold State.ethFilter
  try dsimp only
  with_reducible repeat' (first | assumption | intro _ | apply Keeps.ite | apply State.inc_kept | split)

theorem State.macControl_kept {s : State} (hs : Keeps K s) (e : Nat) (f : List Byte) : Keeps K (State.macControl s e f) := by
  unfold State.macControl
  try dsimp only
  with_reducible repeat'
    (first
      | assumption | intro _ | apply Keeps.ite | apply State.ethFilter_kept | apply State.setEth_kept | apply State.put_kept
      | split)

theorem State.ethDest_kept {s : State} (hs : Keeps K s) (e : Nat) (f : List Byte) : Keeps K (State.ethDest s e f) := by
  unfold State.ethDest
  try dsimp only
  with_reducible repeat'
    (first
      | assumption | intro _ | apply Keeps.ite | apply State.sendFrame_kept | apply State.ethFilter_kept | split)

theorem execEthFrameRx_kept (e : Fin 2) (f : List Byte) {s : State} (hs : Keeps K s) :
    ∀ t, execEthFrameRx e f s = .next t → Keeps K t := by
  unfold execEthFrameRx
  try dsimp only
  with_reducible repeat'
    (first
      | (intro t ht; injection ht with ht; subst ht) | assumption | intro _ | apply Keeps.ite | apply State.put_kept
      | apply State.inc_kept | apply State.macControl_kept | apply State.ethFilter_kept | apply State.ethDest_kept | split)

theorem State.setCtx_kept {s : State} (hs : Keeps K s) (e : Nat) (l : List EthCtx) : Keeps K (State.setCtx s e l) := by
  unfold State.setCtx
  try dsimp only
  with_reducible repeat'
    (first
      | assumption | intro _ | apply Keeps.ite | apply State.setEth_kept | apply State.put_kept | split)

theorem State.reasm_kept {s : State} (hs : Keeps K s) (e : Nat) : Keeps K (State.reasm s e) := by
  unfold State.reasm
  try dsimp only
  with_reducible repeat' (first | assumption | intro _ | apply Keeps.ite | apply State.inc_kept | split)

theorem State.frameComplete_kept {s : State} (hs : Keeps K s) (e : Nat) (x : EthCtx) : Keeps K (State.frameComplete s e x) := by
  unfold State.frameComplete
  try dsimp only
  with_reducible repeat'
    (first
      | assumption | intro _ | apply Keeps.ite | apply State.inc_kept | apply State.raise_kept | apply State.mapEcn_kept
      | apply State.setEth_kept | split)

theorem State.ctxCell_kept {s : State} (hs : Keeps K s) (e : Nat) (x : EthCtx) (c : Cell) :
    Keeps K (State.ctxCell s e x c) := by
  unfold State.ctxCell
  try dsimp only
  with_reducible repeat'
    (first
      | assumption | intro _ | apply Keeps.ite | apply State.setCtx_kept | apply State.frameComplete_kept | split)

theorem State.egressCell_kept {s : State} (hs : Keeps K s) (e : Nat) (c : Cell) : Keeps K (State.egressCell s e c) := by
  unfold State.egressCell
  try dsimp only
  with_reducible repeat'
    (first
      | assumption | intro _ | apply Keeps.ite | apply State.reasm_kept | apply State.ctxCell_kept | apply State.inc_kept
      | apply State.raise_kept | apply State.when_kept | split)

theorem State.egress_kept {s : State} (hs : Keeps K s) (e : Nat) (c : Cell) : Keeps K (State.egress s e c) := by
  unfold State.egress
  try dsimp only
  with_reducible repeat'
    (first
      | assumption | intro _ | apply Keeps.ite | apply State.setEth_kept | apply State.inc_kept | apply State.when_kept
      | apply State.reasm_kept | apply State.setCtx_kept | apply State.egressCell_kept | split)

theorem execEthEgressCell_kept (e : Fin 2) (c : Option Cell) {s : State} (hs : Keeps K s) :
    ∀ t, execEthEgressCell e c s = .next t → Keeps K t := by
  unfold execEthEgressCell
  try dsimp only
  with_reducible repeat'
    (first
      | (intro t ht; injection ht with ht; subst ht) | assumption | intro _ | apply Keeps.ite | apply State.egress_kept
      | apply State.setJn_kept | split)

theorem execReasmTimeout_kept (e : Fin 2) {s : State} (hs : Keeps K s) : ∀ t, execReasmTimeout e s = .next t → Keeps K t := by
  unfold execReasmTimeout
  try dsimp only
  with_reducible repeat'
    (first
      | (intro t ht; injection ht with ht; subst ht) | assumption | intro _ | apply Keeps.ite | apply State.setCtx_kept
      | apply State.addSat_kept | split)

theorem State.queueFirst_kept {s : State} (hs : Keeps K s) (e : Nat) (x : EthFrame) : Keeps K (State.queueFirst s e x) := by
  unfold State.queueFirst
  try dsimp only
  with_reducible repeat' (first | assumption | intro _ | apply Keeps.ite | apply State.setEth_kept | split)

theorem execPtpTxRequest_kept (e : Fin 2) (want : Bool) (tag : Byte) (f : List Byte) {s : State} (hs : Keeps K s) :
    ∀ t, execPtpTxRequest e want tag f s = .next t → Keeps K t := by
  unfold execPtpTxRequest
  try dsimp only
  with_reducible repeat'
    (first
      | (intro t ht; injection ht with ht; subst ht) | assumption | intro _ | apply Keeps.ite | apply State.setJn_kept
      | apply State.queueFirst_kept | split)

theorem State.ethOut_kept {s : State} (hs : Keeps K s) (e : Nat) (f : EthFrame) (rest : List EthFrame) :
    Keeps K (State.ethOut s e f rest) := by
  unfold State.ethOut
  try dsimp only
  with_reducible repeat'
    (first
      | assumption | intro _ | apply Keeps.ite | apply State.setEth_kept | apply State.put_kept | apply State.inc_kept
      | apply State.emit_kept | apply State.mirror_kept | apply State.present_kept | split)

theorem execEthFrameTx_kept (e : Fin 2) {s : State} (hs : Keeps K s) : ∀ t, execEthFrameTx e s = .next t → Keeps K t := by
  unfold execEthFrameTx
  try dsimp only
  with_reducible repeat'
    (first
      | (intro t ht; injection ht with ht; subst ht) | assumption | intro _ | apply Keeps.ite | apply State.ethOut_kept | split)

theorem execEthLinkChange_kept (e : Fin 2) (up : Bool) (speed : Fin 3) {s : State} (hs : Keeps K s) :
    ∀ t, execEthLinkChange e up speed s = .next t → Keeps K t := by
  unfold execEthLinkChange
  try dsimp only
  with_reducible repeat'
    (first
      | (intro t ht; injection ht with ht; subst ht) | assumption | intro _ | apply Keeps.ite | apply State.when_kept
      | apply State.put_kept | apply State.raise_kept | split)

theorem State.tickTime_kept {s : State} (hs : Keeps K s) : Keeps K (State.tickTime s) := by
  unfold State.tickTime
  try dsimp only
  with_reducible repeat' (first | assumption | intro _ | apply Keeps.ite | apply State.setTm_kept | split)

theorem State.latchTime_kept {s : State} (hs : Keeps K s) (p : Path) : Keeps K (State.latchTime s p) := by
  unfold State.latchTime
  try dsimp only
  with_reducible repeat' (first | assumption | intro _ | apply Keeps.ite | apply State.setTm_kept | split)

theorem execTimeReadLatch_kept (p : Path) {s : State} (hs : Keeps K s) : ∀ t, execTimeReadLatch p s = .next t → Keeps K t := by
  unfold execTimeReadLatch
  try dsimp only
  with_reducible repeat'
    (first
      | (intro t ht; injection ht with ht; subst ht) | assumption | intro _ | apply Keeps.ite | apply State.ordered_kept
      | apply State.latchTime_kept | apply State.emit_kept | split)

theorem State.setWm_kept {s : State} (hs : Keeps K s) (n : Nat) (g : Waymark → Waymark) : Keeps K (State.setWm s n g) := by
  unfold State.setWm
  try dsimp only
  with_reducible repeat' (first | assumption | intro _ | apply Keeps.ite | apply State.setTm_kept | split)

theorem State.wmMiss_kept {s : State} (hs : Keeps K s) (n : Nat) (k : Nat) : Keeps K (State.wmMiss s n k) := by
  unfold State.wmMiss
  try dsimp only
  with_reducible repeat'
    (first
      | assumption | intro _ | apply Keeps.ite | apply State.addSat_kept | apply State.raise_kept | split)

theorem State.wmPin_kept {s : State} (hs : Keeps K s) (n : Nat) (active : Bool) : Keeps K (State.wmPin s n active) := by
  unfold State.wmPin
  try dsimp only
  with_reducible repeat' (first | assumption | intro _ | apply Keeps.ite | apply State.emit_kept | split)

theorem State.wmSet_kept {s : State} (hs : Keeps K s) (n : Nat) (a : Nat) (w : Word) : Keeps K (State.wmSet s n a w) := by
  unfold State.wmSet
  try dsimp only
  with_reducible repeat'
    (first
      | assumption | intro _ | apply Keeps.ite | apply State.writeFields_kept | apply State.wmPin_kept | split)

theorem State.wmPlan_kept {s : State} (hs : Keeps K s) (n : Nat) : Keeps K (State.wmPlan s n) := by
  unfold State.wmPlan
  try dsimp only
  with_reducible repeat'
    (first
      | assumption | intro _ | apply Keeps.ite | apply State.setWm_kept | apply State.wmMiss_kept | split)

theorem State.wmReplan_kept {s : State} (hs : Keeps K s) : Keeps K (State.wmReplan s) := by
  unfold State.wmReplan
  try dsimp only
  with_reducible repeat'
    (first
      | assumption | intro _ | apply Keeps.ite | apply State.each_kept | apply State.when_kept | apply State.wmPlan_kept
      | split)

theorem State.wmWrite_kept {s : State} (hs : Keeps K s) (n : Nat) (a : Nat) (w : Word) : Keeps K (State.wmWrite s n a w) := by
  unfold State.wmWrite
  try dsimp only
  with_reducible repeat'
    (first
      | assumption | intro _ | apply Keeps.ite | apply State.wmSet_kept | apply State.wmPlan_kept | apply State.setWm_kept
      | split)

theorem execWaymarkWrite_kept (n : Fin 8) (r : Fin 5) (w : Word) {s : State} (hs : Keeps K s) :
    ∀ t, execWaymarkWrite n r w s = .next t → Keeps K t := by
  unfold execWaymarkWrite
  try dsimp only
  with_reducible repeat'
    (first
      | (intro t ht; injection ht with ht; subst ht) | assumption | intro _ | apply Keeps.ite | apply State.wmWrite_kept
      | split)

theorem State.setMs_kept {s : State} (hs : Keeps K s) (g : Measure → Measure) : Keeps K (State.setMs s g) := by
  unfold State.setMs
  try dsimp only
  with_reducible repeat' (first | assumption | intro _ | apply Keeps.ite | apply State.setTm_kept | split)

theorem State.scanFrom_kept {s : State} (hs : Keeps K s) (t : Nat) : Keeps K (State.scanFrom s t) := by
  unfold State.scanFrom
  try dsimp only
  with_reducible repeat'
    (first
      | assumption | intro _ | apply Keeps.ite | apply State.setMs_kept | apply State.put_kept | split)

theorem State.scanTrigger_kept {s : State} (hs : Keeps K s) (t : Nat) : Keeps K (State.scanTrigger s t) := by
  unfold State.scanTrigger
  try dsimp only
  with_reducible repeat'
    (first
      | assumption | intro _ | apply Keeps.ite | apply State.scanFrom_kept | apply State.setMs_kept | apply State.put_kept
      | apply State.inc_kept | apply State.raise_kept | split)

theorem State.flushSamples_kept {s : State} (hs : Keeps K s) : Keeps K (State.flushSamples s) := by
  unfold State.flushSamples
  try dsimp only
  with_reducible repeat'
    (first
      | assumption | intro _ | apply Keeps.ite | apply State.present_kept | apply State.setMs_kept | apply State.inc_kept
      | split)

theorem State.threshold_kept {s : State} (hs : Keeps K s) (ch : Nat) (v : Nat) (t : Nat) :
    Keeps K (State.threshold s ch v t) := by
  unfold State.threshold
  try dsimp only
  with_reducible repeat'
    (first
      | assumption | intro _ | apply Keeps.ite | apply State.hwMail_kept | apply State.put_kept | apply State.raise_kept
      | split)

theorem State.sample_kept {s : State} (hs : Keeps K s) (ch : Nat) (code : Nat) (t : Nat) (rest : List Nat) :
    Keeps K (State.sample s ch code t rest) := by
  unfold State.sample
  try dsimp only
  with_reducible repeat'
    (first
      | assumption | intro _ | apply Keeps.ite | apply State.when_kept | apply State.flushSamples_kept | apply State.put_kept
      | apply State.setMs_kept | apply State.threshold_kept | split)

theorem State.scanEnd_kept {s : State} (hs : Keeps K s) (t : Nat) : Keeps K (State.scanEnd s t) := by
  unfold State.scanEnd
  try dsimp only
  with_reducible repeat'
    (first
      | assumption | intro _ | apply Keeps.ite | apply State.setMs_kept | apply State.put_kept | apply State.scanFrom_kept
      | split)

theorem execMeasureConversion_kept (code : BitVec 16) {s : State} (hs : Keeps K s) :
    ∀ t, execMeasureConversion code s = .next t → Keeps K t := by
  unfold execMeasureConversion
  try dsimp only
  with_reducible repeat'
    (first
      | (intro t ht; injection ht with ht; subst ht) | assumption | intro _ | apply Keeps.ite | apply State.sample_kept
      | apply State.scanEnd_kept | split)

theorem execMeasureCellFlush_kept {s : State} (hs : Keeps K s) : ∀ t, execMeasureCellFlush s = .next t → Keeps K t := by
  unfold execMeasureCellFlush
  try dsimp only
  with_reducible repeat'
    (first
      | (intro t ht; injection ht with ht; subst ht) | assumption | intro _ | apply Keeps.ite | apply State.flushSamples_kept
      | split)

theorem State.wmPulse_kept {s : State} (hs : Keeps K s) (n : Nat) (t : Nat) : Keeps K (State.wmPulse s n t) := by
  unfold State.wmPulse
  try dsimp only
  with_reducible repeat'
    (first
      | assumption | intro _ | apply Keeps.ite | apply State.setWm_kept | apply State.inc_kept | apply State.wmPin_kept
      | apply State.when_kept | apply State.scanTrigger_kept | split)

theorem execWaymarkInstant_kept (n : Fin 8) {s : State} (hs : Keeps K s) :
    ∀ t, execWaymarkInstant n s = .next t → Keeps K t := by
  unfold execWaymarkInstant
  try dsimp only
  with_reducible repeat'
    (first
      | (intro t ht; injection ht with ht; subst ht) | assumption | intro _ | apply Keeps.ite | apply State.wmMiss_kept
      | apply State.setWm_kept | apply State.wmPulse_kept | split)

theorem State.wmEnd_kept {s : State} (hs : Keeps K s) (n : Nat) : Keeps K (State.wmEnd s n) := by
  unfold State.wmEnd
  try dsimp only
  with_reducible repeat'
    (first
      | assumption | intro _ | apply Keeps.ite | apply State.wmPin_kept | apply State.setWm_kept | apply State.each_kept
      | apply State.wmSet_kept | apply State.wmPlan_kept | split)

theorem execWaymarkPulseEnd_kept (n : Fin 8) {s : State} (hs : Keeps K s) :
    ∀ t, execWaymarkPulseEnd n s = .next t → Keeps K t := by
  unfold execWaymarkPulseEnd
  try dsimp only
  with_reducible repeat'
    (first
      | (intro t ht; injection ht with ht; subst ht) | assumption | intro _ | apply Keeps.ite | apply State.wmEnd_kept | split)

theorem State.setCap_kept {s : State} (hs : Keeps K s) (n : Nat) (l : List (Bool × Nat × Nat × Nat)) :
    Keeps K (State.setCap s n l) := by
  unfold State.setCap
  try dsimp only
  with_reducible repeat'
    (first
      | assumption | intro _ | apply Keeps.ite | apply State.setTm_kept | apply State.put_kept | split)

theorem execCaptureEdge_kept (n : Fin 8) (falling : Bool) (short : Bool) {s : State} (hs : Keeps K s) :
    ∀ t, execCaptureEdge n falling short s = .next t → Keeps K t := by
  unfold execCaptureEdge
  try dsimp only
  with_reducible repeat'
    (first
      | (intro t ht; injection ht with ht; subst ht) | assumption | intro _ | apply Keeps.ite | apply State.inc_kept
      | apply State.setCap_kept | split)

theorem State.capPop_kept {s : State} (hs : Keeps K s) (n : Nat) : Keeps K (State.capPop s n) := by
  unfold State.capPop
  try dsimp only
  with_reducible repeat'
    (first
      | assumption | intro _ | apply Keeps.ite | apply State.setReg_kept | apply State.put_kept | apply State.setCap_kept
      | split)

theorem execCapPop_kept (p : Path) (n : Fin 8) {s : State} (hs : Keeps K s) : ∀ t, execCapPop p n s = .next t → Keeps K t := by
  unfold execCapPop
  try dsimp only
  with_reducible repeat'
    (first
      | (intro t ht; injection ht with ht; subst ht) | assumption | intro _ | apply Keeps.ite | apply State.ordered_kept
      | apply State.capPop_kept | apply State.emit_kept | split)

theorem State.follow_kept {s : State} (hs : Keeps K s) : Keeps K (State.follow s) := by
  unfold State.follow
  try dsimp only
  with_reducible repeat' (first | assumption | intro _ | apply Keeps.ite | apply State.setTm_kept | split)

theorem State.setTstate_kept {s : State} (hs : Keeps K s) (st : Nat) : Keeps K (State.setTstate s st) := by
  unfold State.setTstate
  try dsimp only
  with_reducible repeat'
    (first
      | assumption | intro _ | apply Keeps.ite | apply State.put_kept | apply State.setTm_kept | apply State.follow_kept
      | apply State.raise_kept | split)

theorem State.slewRate_kept {s : State} (hs : Keeps K s) (off : Int) : Keeps K (State.slewRate s off) := by
  unfold State.slewRate
  try dsimp only
  with_reducible repeat' (first | assumption | intro _ | apply Keeps.ite | apply State.put_kept | split)

theorem State.correctRate_kept {s : State} (hs : Keeps K s) : Keeps K (State.correctRate s) := by
  unfold State.correctRate
  try dsimp only
  with_reducible repeat'
    (first
      | assumption | intro _ | apply Keeps.ite | apply State.usedFree_kept | apply State.put_kept | apply State.setTm_kept
      | split)

theorem State.stepTime_kept {s : State} (hs : Keeps K s) (off : Int) : Keeps K (State.stepTime s off) := by
  unfold State.stepTime
  try dsimp only
  with_reducible repeat'
    (first
      | assumption | intro _ | apply Keeps.ite | apply State.setTm_kept | apply State.raise_kept | apply State.wmReplan_kept
      | split)

theorem State.putOffset_kept {s : State} (hs : Keeps K s) (off : Int) : Keeps K (State.putOffset s off) := by
  unfold State.putOffset
  try dsimp only
  with_reducible repeat' (first | assumption | intro _ | apply Keeps.ite | apply State.put_kept | split)

theorem State.refuseJump_kept {s : State} (hs : Keeps K s) : Keeps K (State.refuseJump s) := by
  unfold State.refuseJump
  try dsimp only
  with_reducible repeat'
    (first
      | assumption | intro _ | apply Keeps.ite | apply State.inc_kept | apply State.raise_kept | apply State.setTstate_kept
      | split)

theorem State.followOffset_kept {s : State} (hs : Keeps K s) (off : Int) : Keeps K (State.followOffset s off) := by
  unfold State.followOffset
  try dsimp only
  with_reducible repeat'
    (first
      | assumption | intro _ | apply Keeps.ite | apply State.refuseJump_kept | apply State.setTm_kept | apply State.put_kept
      | apply State.stepTime_kept | apply State.correctRate_kept | apply State.when_kept | apply State.setTstate_kept | split)

theorem State.offset_kept {s : State} (hs : Keeps K s) (off : Int) : Keeps K (State.offset s off) := by
  unfold State.offset
  try dsimp only
  with_reducible repeat'
    (first
      | assumption | intro _ | apply Keeps.ite | apply State.putOffset_kept | apply State.setTm_kept
      | apply State.followOffset_kept | apply State.when_kept | apply State.refuseJump_kept | apply State.setTstate_kept
      | apply State.slewRate_kept | split)

theorem State.chooseParent_kept {s : State} (hs : Keeps K s) : Keeps K (State.chooseParent s) := by
  unfold State.chooseParent
  try dsimp only
  with_reducible repeat'
    (first
      | assumption | intro _ | apply Keeps.ite | apply State.put_kept | apply State.setTstate_kept | apply State.follow_kept
      | apply State.raise_kept | apply State.setTm_kept | split)

theorem State.sendTime_kept {s : State} (hs : Keeps K s) (p : Nat) (d : GmSet) (flags : Nat) (seq : Nat) :
    Keeps K (State.sendTime s p d flags seq) := by
  unfold State.sendTime
  try dsimp only
  with_reducible repeat' (first | assumption | intro _ | apply Keeps.ite | apply State.present_kept | split)

theorem State.syncMiss_kept {s : State} (hs : Keeps K s) : Keeps K (State.syncMiss s) := by
  unfold State.syncMiss
  try dsimp only
  with_reducible repeat'
    (first
      | assumption | intro _ | apply Keeps.ite | apply State.inc_kept | apply State.setTm_kept | apply State.when_kept
      | apply State.setTstate_kept | split)

theorem execTimeCellSend_kept {s : State} (hs : Keeps K s) : ∀ t, execTimeCellSend s = .next t → Keeps K t := by
  unfold execTimeCellSend
  try dsimp only
  with_reducible repeat'
    (first
      | (intro t ht; injection ht with ht; subst ht) | assumption | intro _ | apply Keeps.ite | apply State.syncMiss_kept
      | apply State.setTm_kept | apply State.each_kept | apply State.sendTime_kept | split)

theorem State.timeCell_kept {s : State} (hs : Keeps K s) (p : Nat) (c : Cell) : Keeps K (State.timeCell s p c) := by
  unfold State.timeCell
  try dsimp only
  with_reducible repeat'
    (first
      | assumption | intro _ | apply Keeps.ite | apply State.setTm_kept | apply State.chooseParent_kept | apply State.when_kept
      | apply State.offset_kept | split)

theorem execTimeCellRx_kept (p : Port) (c : Option Cell) {s : State} (hs : Keeps K s) :
    ∀ t, execTimeCellRx p c s = .next t → Keeps K t := by
  unfold execTimeCellRx
  try dsimp only
  with_reducible repeat'
    (first
      | (intro t ht; injection ht with ht; subst ht) | assumption | intro _ | apply Keeps.ite | apply State.timeCell_kept
      | apply State.setJn_kept | split)

theorem execCandidateLapse_kept (c : Fin 6) {s : State} (hs : Keeps K s) :
    ∀ t, execCandidateLapse c s = .next t → Keeps K t := by
  unfold execCandidateLapse
  try dsimp only
  with_reducible repeat'
    (first
      | (intro t ht; injection ht with ht; subst ht) | assumption | intro _ | apply Keeps.ite | apply State.setTm_kept
      | apply State.chooseParent_kept | split)

theorem State.setPtp_kept {s : State} (hs : Keeps K s) (e : Nat) (g : PtpPort → PtpPort) : Keeps K (State.setPtp s e g) := by
  unfold State.setPtp
  try dsimp only
  with_reducible repeat' (first | assumption | intro _ | apply Keeps.ite | apply State.setTm_kept | split)

theorem State.ptpOffset_kept {s : State} (hs : Keeps K s) (e : Nat) : Keeps K (State.ptpOffset s e) := by
  unfold State.ptpOffset
  try dsimp only
  with_reducible repeat' (first | assumption | intro _ | apply Keeps.ite | apply State.offset_kept | split)

theorem State.ptpSeen_kept {s : State} (hs : Keeps K s) (e : Nat) : Keeps K (State.ptpSeen s e) := by
  unfold State.ptpSeen
  try dsimp only
  with_reducible repeat' (first | assumption | intro _ | apply Keeps.ite | apply State.setTm_kept | split)

theorem State.ptpReport_kept {s : State} (hs : Keeps K s) (e : Nat) (tag : Nat) (ts : Stamp) :
    Keeps K (State.ptpReport s e tag ts) := by
  unfold State.ptpReport
  try dsimp only
  with_reducible repeat' (first | assumption | intro _ | apply Keeps.ite | apply State.setPtp_kept | split)

theorem State.ptpTake_kept {s : State} (hs : Keeps K s) (e : Nat) (m : PtpMsg) (rx : Stamp) :
    Keeps K (State.ptpTake s e m rx) := by
  unfold State.ptpTake
  try dsimp only
  with_reducible repeat'
    (first
      | assumption | intro _ | apply Keeps.ite | apply State.setPtp_kept | apply State.ptpSeen_kept | apply State.ptpOffset_kept
      | apply State.setTm_kept | apply State.chooseParent_kept | apply State.when_kept | apply State.ptpReport_kept | split)

theorem execPtpMessageRx_kept (e : Fin 2) (m : PtpIn) (rx : Stamp) {s : State} (hs : Keeps K s) :
    ∀ t, execPtpMessageRx e m rx s = .next t → Keeps K t := by
  unfold execPtpMessageRx
  try dsimp only
  with_reducible repeat'
    (first
      | (intro t ht; injection ht with ht; subst ht) | assumption | intro _ | apply Keeps.ite | apply State.setJn_kept
      | apply State.ptpReport_kept | apply State.ptpTake_kept | split)

theorem State.ptpGo_kept {s : State} (hs : Keeps K s) (e : Fin 2) (k : PtpSend) (tag : Byte) (frame : List Byte) (q : Nat)
    (time : Option Stamp) : Keeps K (State.ptpGo s e k tag frame q time) := by
  unfold State.ptpGo
  try dsimp only
  with_reducible repeat'
    (first
      | assumption | intro _ | apply Keeps.ite | apply State.presentAll_kept | apply State.when_kept | apply State.setPtp_kept
      | apply State.emit_kept | split)

theorem execPtpMessageSend_kept (e : Fin 2) (k : PtpSend) (seq : BitVec 16) (tag : Byte) (frame : List Byte) {s : State} (hs :
    Keeps K s) : ∀ t, execPtpMessageSend e k seq tag frame s = .next t → Keeps K t := by
  unfold execPtpMessageSend
  try dsimp only
  with_reducible repeat'
    (first
      | (intro t ht; injection ht with ht; subst ht) | assumption | intro _ | apply Keeps.ite | apply State.setPtp_kept
      | apply State.ptpGo_kept | split)

theorem execRefclkLoss_kept {s : State} (hs : Keeps K s) : ∀ t, execRefclkLoss s = .next t → Keeps K t := by
  unfold execRefclkLoss
  try dsimp only
  with_reducible repeat'
    (first
      | (intro t ht; injection ht with ht; subst ht) | assumption | intro _ | apply Keeps.ite | apply State.setTm_kept
      | apply State.raise_kept | apply State.setTstate_kept | split)

theorem execRefclkReturn_kept {s : State} (hs : Keeps K s) : ∀ t, execRefclkReturn s = .next t → Keeps K t := by
  unfold execRefclkReturn
  try dsimp only
  with_reducible repeat'
    (first
      | (intro t ht; injection ht with ht; subst ht) | assumption | intro _ | apply Keeps.ite | apply State.setTm_kept
      | apply State.setTstate_kept | split)

theorem State.setCmd_kept {s : State} (hs : Keeps K s) : Keeps K (State.setCmd s) := by
  unfold State.setCmd
  try dsimp only
  with_reducible repeat' (first | assumption | intro _ | apply Keeps.ite | apply State.setTm_kept | split)

theorem execSet_kept {s : State} (hs : Keeps K s) : ∀ t, execSet s = .next t → Keeps K t := by
  unfold execSet
  try dsimp only
  with_reducible repeat'
    (first
      | (intro t ht; injection ht with ht; subst ht) | assumption | intro _ | apply Keeps.ite | apply State.setCmd_kept | split)

theorem State.setApply_kept {s : State} (hs : Keeps K s) : Keeps K (State.setApply s) := by
  unfold State.setApply
  try dsimp only
  with_reducible repeat'
    (first
      | assumption | intro _ | apply Keeps.ite | apply State.setTm_kept | apply State.raise_kept | apply State.wmReplan_kept
      | split)

theorem execTimeSetApply_kept {s : State} (hs : Keeps K s) : ∀ t, execTimeSetApply s = .next t → Keeps K t := by
  unfold execTimeSetApply
  try dsimp only
  with_reducible repeat'
    (first
      | (intro t ht; injection ht with ht; subst ht) | assumption | intro _ | apply Keeps.ite | apply State.setApply_kept
      | split)

theorem State.acceptCmd_kept {s : State} (hs : Keeps K s) : Keeps K (State.acceptCmd s) := by
  unfold State.acceptCmd
  try dsimp only
  with_reducible repeat'
    (first
      | assumption | intro _ | apply Keeps.ite | apply State.setTstate_kept | apply State.slewRate_kept | split)

theorem execAccept_kept {s : State} (hs : Keeps K s) : ∀ t, execAccept s = .next t → Keeps K t := by
  unfold execAccept
  try dsimp only
  with_reducible repeat'
    (first
      | (intro t ht; injection ht with ht; subst ht) | assumption | intro _ | apply Keeps.ite | apply State.acceptCmd_kept
      | split)

theorem execRtcSecondWrite_kept {s : State} (hs : Keeps K s) : ∀ t, execRtcSecondWrite s = .next t → Keeps K t := by
  intro t ht
  unfold execRtcSecondWrite at ht
  injection ht with ht
  subst ht
  have h : Keeps K ({ s with rs := { s.rs with rtc := s.tm.sec * 32768, rtcAt := s.tm.tick, rtcValid := true } } : State) :=
    hs.same rfl rfl rfl rfl rfl rfl rfl rfl rfl rfl rfl
  exact Keeps.ite (State.put_kept h _ _) hs

end Sys2Proof.Machine
end

