-- ==== Sys2Proof/Laws/KeptForme.lean ====
section
/-! SUPPORT. What no command disturbs, in engine operations, images and the Forme: one lemma for each operation and each command. -/

set_option linter.unreachableTactic false
set_option linter.unusedTactic false

namespace Sys2Proof.Machine

variable {K : Mark}

theorem State.refuseCustody_kept {s : State} (hs : Keeps K s) (p : Path) (a : Nat) : Keeps K (State.refuseCustody s p a) := by
  unfold State.refuseCustody
  try dsimp only
  with_reducible repeat'
    (first
      | assumption | intro _ | apply Keeps.ite | apply State.inc_kept | apply State.put_kept | apply State.log_kept
      | apply State.raise_kept | split)

theorem State.custodyCmd_kept {s : State} (hs : Keeps K s) (p : Path) (a : Nat) (c : Instr) (g : State → State) (hg : ∀ s,
    Keeps K s → Keeps K (g s)) : Keeps K (State.custodyCmd s p a c g) := by
  unfold State.custodyCmd
  try dsimp only
  with_reducible repeat'
    (first
      | assumption | intro _ | apply Keeps.ite | apply State.ordered_kept | apply State.emit_kept
      | apply State.refuseCustody_kept | apply hg | split)

theorem State.copySlot_kept {s : State} (hs : Keeps K s) (n slot bank : Nat) : Keeps K (s.copySlot n slot bank) :=
  ⟨hs.1, hs.2, hs.3, hs.4, hs.5, hs.6, hs.7, canonical_memMove _ _ _ hs.8 hs.6, hs.9, hs.10, hs.11⟩

theorem State.engLoad_kept {s : State} (hs : Keeps K s) (n : Nat) (slot : Nat) : Keeps K (State.engLoad s n slot) := by
  unfold State.engLoad
  try dsimp only
  with_reducible repeat'
    (first
      | assumption | intro _ | apply Keeps.ite | apply State.raise_kept | apply State.setEngine_kept | apply State.put_kept
      | split)

theorem State.bankWrite_kept {s : State} (hs : Keeps K s) (n word : Nat) (w : Word) : Keeps K (s.bankWrite n word w) := by
  unfold State.bankWrite
  exact Keeps.ite (State.raise_kept hs _)
    ⟨hs.1, hs.2, hs.3, hs.4, hs.5, hs.6, hs.7, canonical_memWrite _ _ hs.8, hs.9, hs.10, hs.11⟩

theorem State.takeRole_kept {s : State} (hs : Keeps K s) (n : Nat) : Keeps K (State.takeRole s n) := by
  unfold State.takeRole
  try dsimp only
  with_reducible repeat' (first | assumption | intro _ | apply Keeps.ite | apply State.put_kept | split)

theorem State.engLeave_kept {s : State} (hs : Keeps K s) (n : Nat) : Keeps K (State.engLeave s n) := by
  unfold State.engLeave
  try dsimp only
  with_reducible repeat'
    (first
      | assumption | intro _ | apply Keeps.ite | apply State.abortTests_kept | apply State.takeRole_kept
      | apply State.engStart_kept | apply State.setEngine_kept | apply State.put_kept | apply State.raise_kept | split)

theorem State.engLockup_kept {s : State} (hs : Keeps K s) (n : Nat) : Keeps K (State.engLockup s n) := by
  unfold State.engLockup
  try dsimp only
  with_reducible repeat'
    (first
      | assumption | intro _ | apply Keeps.ite | apply State.raise_kept | apply State.engLeave_kept | apply State.put_kept
      | split)

theorem State.pcNext_kept {s : State} (hs : Keeps K s) (n : Nat) : Keeps K (State.pcNext s n) := by
  unfold State.pcNext
  try dsimp only
  with_reducible repeat'
    (first
      | assumption | intro _ | apply Keeps.ite | apply State.setEngine_kept | apply State.usedFree_kept | split)

theorem State.engYield_kept {s : State} (hs : Keeps K s) (n : Nat) : Keeps K (State.engYield s n) := by
  unfold State.engYield
  try dsimp only
  with_reducible repeat'
    (first
      | assumption | intro _ | apply Keeps.ite | apply State.engReset_kept | apply State.takeRole_kept
      | apply State.engStart_kept | apply State.when_kept | apply State.raise_kept | apply State.setEngine_kept
      | apply State.put_kept | apply State.pcNext_kept | split)

theorem State.engRestart_kept {s : State} (hs : Keeps K s) (n : Nat) : Keeps K (State.engRestart s n) := by
  unfold State.engRestart
  try dsimp only
  with_reducible repeat'
    (first
      | assumption | intro _ | apply Keeps.ite | apply State.engStart_kept | apply State.raise_kept | split)

theorem State.engBoundary_kept {s : State} (hs : Keeps K s) (n : Nat) : Keeps K (State.engBoundary s n) := by
  unfold State.engBoundary
  try dsimp only
  with_reducible repeat'
    (first
      | assumption | intro _ | apply Keeps.ite | apply State.latch_kept | apply State.setEngine_kept | split)

theorem State.roleMove_kept {s : State} (hs : Keeps K s) (n : Nat) : Keeps K (State.roleMove s n) := by
  unfold State.roleMove
  try dsimp only
  with_reducible repeat'
    (first
      | assumption | intro _ | apply Keeps.ite | apply State.raise_kept | apply State.engReset_kept | apply State.copySlot_kept
      | apply State.putShadow_kept | apply State.setEngine_kept | split)

theorem execEngineTimerExpiry_kept (n : EngNo) {s : State} (hs : Keeps K s) :
    ∀ t, execEngineTimerExpiry n s = .next t → Keeps K t := by
  unfold execEngineTimerExpiry
  try dsimp only
  with_reducible repeat'
    (first
      | (intro t ht; injection ht with ht; subst ht) | assumption | intro _ | apply Keeps.ite | apply State.setEngine_kept
      | apply State.latch_kept | split)

theorem execWatchdogExpiry_kept (n : EngNo) {s : State} (hs : Keeps K s) :
    ∀ t, execWatchdogExpiry n s = .next t → Keeps K t := by
  unfold execWatchdogExpiry
  try dsimp only
  with_reducible repeat'
    (first
      | (intro t ht; injection ht with ht; subst ht) | assumption | intro _ | apply Keeps.ite | apply State.engineFault_kept
      | split)

theorem execEngineFaultRestart_kept (n : EngNo) {s : State} (hs : Keeps K s) :
    ∀ t, execEngineFaultRestart n s = .next t → Keeps K t := by
  unfold execEngineFaultRestart
  try dsimp only
  with_reducible repeat'
    (first
      | (intro t ht; injection ht with ht; subst ht) | assumption | intro _ | apply Keeps.ite | apply State.engStart_kept
      | split)

theorem execNoyield_kept (n : EngNo) {s : State} (hs : Keeps K s) : ∀ t, execNoyield n s = .next t → Keeps K t := by
  unfold execNoyield
  try dsimp only
  with_reducible repeat'
    (first
      | (intro t ht; injection ht with ht; subst ht) | assumption | intro _ | apply Keeps.ite | apply State.raise_kept | split)

theorem execLoad_kept (path : Path) (n : EngNo) (slot : Fin 8) {s : State} (hs : Keeps K s) :
    ∀ t, execLoad path n slot s = .next t → Keeps K t := by
  unfold execLoad
  try dsimp only
  with_reducible repeat'
    (first
      | (intro t ht; injection ht with ht; subst ht) | assumption | intro _ | apply Keeps.ite | apply State.custodyCmd_kept
      | apply State.engLoad_kept | split)

theorem execLoadDone_kept (n : EngNo) {s : State} (hs : Keeps K s) : ∀ t, execLoadDone n s = .next t → Keeps K t := by
  unfold execLoadDone
  try dsimp only
  with_reducible repeat'
    (first
      | (intro t ht; injection ht with ht; subst ht) | assumption | intro _ | apply Keeps.ite | apply State.copySlot_kept
      | apply State.setEngine_kept | apply State.put_kept | split)

theorem execRestart_kept (path : Path) (n : EngNo) {s : State} (hs : Keeps K s) :
    ∀ t, execRestart path n s = .next t → Keeps K t := by
  unfold execRestart
  try dsimp only
  with_reducible repeat'
    (first
      | (intro t ht; injection ht with ht; subst ht) | assumption | intro _ | apply Keeps.ite | apply State.custodyCmd_kept
      | apply State.engRestart_kept | split)

theorem execRetire_kept (path : Path) (n : EngNo) {s : State} (hs : Keeps K s) :
    ∀ t, execRetire path n s = .next t → Keeps K t := by
  unfold execRetire
  try dsimp only
  with_reducible repeat'
    (first
      | (intro t ht; injection ht with ht; subst ht) | assumption | intro _ | apply Keeps.ite | apply State.custodyCmd_kept
      | apply State.retireEngine_kept | split)

theorem execBankWindowWrite_kept (n : EngNo) (word : Fin 4096) (w : Word) {s : State} (hs : Keeps K s) :
    ∀ t, execBankWindowWrite n word w s = .next t → Keeps K t := by
  unfold execBankWindowWrite
  try dsimp only
  with_reducible repeat'
    (first
      | (intro t ht; injection ht with ht; subst ht) | assumption | intro _ | apply Keeps.ite | apply State.when_kept
      | apply State.bankWrite_kept | split)

theorem State.postMail_kept {s : State} (hs : Keeps K s) (n : Nat) (w1 : Word) : Keeps K (State.postMail s n w1) := by
  unfold State.postMail
  try dsimp only
  with_reducible repeat'
    (first
      | assumption | intro _ | apply Keeps.ite | apply State.sendMail_kept | apply State.put_kept | apply State.inc_kept
      | apply State.raise_kept | split)

theorem execMailboxPost_kept (n : EngNo) (w1 : Word) {s : State} (hs : Keeps K s) :
    ∀ t, execMailboxPost n w1 s = .next t → Keeps K t := by
  unfold execMailboxPost
  try dsimp only
  with_reducible repeat'
    (first
      | (intro t ht; injection ht with ht; subst ht) | assumption | intro _ | apply Keeps.ite | apply State.when_kept
      | apply State.postMail_kept | split)

theorem State.showDir_kept {s : State} (hs : Keeps K s) : Keeps K (State.showDir s) := by
  unfold State.showDir
  try dsimp only
  with_reducible repeat' (first | assumption | intro _ | apply Keeps.ite | apply State.put_kept | split)

theorem State.openFlash_kept {s : State} (hs : Keeps K s) (slow : Bool) : Keeps K (State.openFlash s slow) := by
  unfold State.openFlash
  try dsimp only
  with_reducible repeat'
    (first
      | assumption | intro _ | apply Keeps.ite | apply State.emit_kept | apply State.each_kept | apply State.setFc_kept | split)

theorem State.readImage_kept {s : State} (hs : Keeps K s) (bank : Nat) (slow : Bool) :
    Keeps K (State.readImage s bank slow) := by
  unfold State.readImage
  try dsimp only
  with_reducible repeat' (first | assumption | intro _ | apply Keeps.ite | apply State.emit_kept | split)

theorem State.markBank_kept {s : State} (hs : Keeps K s) (bank st : Nat) : Keeps K (s.markBank bank st) := by
  have h := fun (p : Nat) bs => hs.setFlash (canonical_flashWrite p bs hs.11)
  unfold State.markBank
  extract_lets d body flash
  exact State.showDir_kept (h _ _)

theorem State.countExcluded_kept {s : State} (hs : Keeps K s) : Keeps K (State.countExcluded s) := by
  unfold State.countExcluded
  try dsimp only
  with_reducible repeat' (first | assumption | intro _ | apply Keeps.ite | apply State.inc_kept | split)

theorem State.streamRun_kept {s : State} (hs : Keeps K s) (a : Nat) (vals : List Nat) :
    ∀ t, s.streamRun a vals = some t → Keeps K t := by
  intro t ht
  unfold State.streamRun at ht
  try dsimp only at ht
  repeat' split at ht
  all_goals first
    | (injection ht with ht; subst ht; with_reducible repeat'
      (first
        | assumption | intro _ | apply Keeps.ite | apply State.countExcluded_kept | apply State.each_kept
        | apply State.writeShadow_kept | split))
    | cases ht

theorem State.streamMask_kept {s : State} (hs : Keeps K s) (a m v : Nat) : ∀ t, s.streamMask a m v = some t → Keeps K t :=
  fun t ht => State.streamRun_kept hs _ _ t ht

theorem State.streamPost_kept {s : State} (hs : Keeps K s) (a v : Nat) : ∀ t, s.streamPost a v = some t → Keeps K t := by
  intro t ht
  unfold State.streamPost at ht
  try dsimp only at ht
  repeat' split at ht
  all_goals first
    | (injection ht with ht; subst ht; with_reducible repeat'
      (first
        | assumption | intro _ | apply Keeps.ite | apply State.countExcluded_kept | apply State.setFc_kept | split))
    | cases ht

theorem State.streamFill_kept {s : State} (hs : Keeps K s) (a n v : Nat) : ∀ t, s.streamFill a n v = some t → Keeps K t := by
  intro t ht
  unfold State.streamFill at ht
  repeat' split at ht
  · injection ht with ht
    subst ht
    exact State.countExcluded_kept hs
  · cases ht
  · exact State.streamRun_kept hs _ _ t ht

theorem State.stream_kept (k : Nat) (l : List Nat) {s : State} (hs : Keeps K s) :
    ∀ t, State.stream k l s = some t → Keeps K t := by
  induction k generalizing l s with
  | zero => intro t ht; cases l <;> cases ht
  | succ k ih =>
    intro t ht
    cases l with
    | nil => cases ht
    | cons h l =>
      unfold State.stream at ht
      dsimp only at ht
      split at ht
      · injection ht with ht
        exact ht ▸ hs
      · split at ht
        · split at ht
          · cases ht
          · split at ht
            · cases ht
            · exact ih _ (State.streamRun_kept hs _ _ _ ‹_›) _ ht
        · split at ht
          · cases ht
          · exact ih _ (State.streamMask_kept hs _ _ _ _ ‹_›) _ ht
        · split at ht
          · cases ht
          · exact ih _ (State.streamPost_kept hs _ _ _ ‹_›) _ ht
        · split at ht
          · cases ht
          · exact ih _ (State.streamFill_kept hs _ _ _ _ ‹_›) _ ht
        · cases ht

theorem State.applySec_kept {s : State} (hs : Keeps K s) (x : Sec) (bs : List Byte) :
    ∀ t, s.applySec x bs = some t → Keeps K t := by
  intro t ht
  unfold State.applySec at ht
  try dsimp only at ht
  repeat' split at ht
  all_goals first
    | (injection ht with ht; subst ht; with_reducible repeat'
      (first
        | assumption | intro _ | apply Keeps.ite | apply State.setCaseBytes_kept | split))
    | cases ht
    | exact State.stream_kept _ _ hs t ht

theorem State.passOver_kept {s : State} (hs : Keeps K s) (x : Sec) (staged : Bool) :
    ∀ t, s.passOver x staged = some t → Keeps K t := by
  intro t ht
  unfold State.passOver at ht
  try dsimp only at ht
  repeat' split at ht
  all_goals first
    | (injection ht with ht; subst ht; with_reducible repeat'
      (first
        | assumption | intro _ | apply Keeps.ite | apply State.inc_kept | split))
    | cases ht

theorem State.runSecs_kept (base : Nat) (staged : Bool) (err : Option Nat) (i : Nat) (l : List Sec) {s : State} (hs : Keeps K
    s) :
    Keeps K (State.runSecs base staged err i l s).2.2 := by
  induction l generalizing i s with
  | nil => exact hs
  | cons x l ih =>
    unfold State.runSecs
    dsimp only
    split
    · exact ih _ (State.passOver_kept hs _ _ _ ‹_›)
    · split
      · exact hs
      · split
        · exact hs
        · split
          · exact hs
          · exact ih _ (State.applySec_kept hs _ _ _ ‹_›)

theorem State.checkImage_kept {s : State} (hs : Keeps K s) (bank : Nat) (staged : Bool) (err : Option (Nat × Nat)) :
    Keeps K (s.checkImage bank staged err).2.2 := by
  unfold State.checkImage
  extract_lets d base failed hc c len count imgLen sig secs s1 digest
  have h : Keeps K s1 := State.put_kept hs _ _
  clear_value s1 c sig secs digest imgLen len count hc failed d
  split
  · exact hs
  split
  · exact hs
  split
  · exact hs
  split
  · exact hs
  split
  · exact hs
  split
  · exact h
  split
  · exact h
  split
  · exact h
  · have h' := State.runSecs_kept (K := K) base staged (err.bind fun e => if e.1 = 9 then some e.2 else none) 0 secs h
    split
    rename_i heq
    rw [heq] at h'
    exact Keeps.ite (State.setFc_kept h' _) h'

theorem State.romForme_kept {s : State} (hs : Keeps K s) : Keeps K s.romForme := by
  unfold State.romForme
  dsimp only
  refine State.putShadow_kept (State.putShadow_kept (State.each_kept (State.putShadow_kept (State.putShadow_kept
    (State.putShadow_kept (State.putShadow_kept (State.setFc_kept (State.putShadow_kept ?_ _ _) _) _ _) _ _) _ _) _ _) _ _
    fun n s hs => State.putShadow_kept hs _ _) _ _) _ _
  exact ⟨hs.1, hs.2, hs.3, hs.4, canonical_filter _ hs.4, hs.6, hs.7, hs.8, hs.9, hs.10, hs.11⟩

theorem State.refuseCmd_kept {s : State} (hs : Keeps K s) : Keeps K (State.refuseCmd s) := by
  unfold State.refuseCmd
  try dsimp only
  with_reducible repeat' (first | assumption | intro _ | apply Keeps.ite | apply State.raise_kept | split)

theorem State.loadResult_kept {s : State} (hs : Keeps K s) (op : Nat) (src : Nat) (attempt : Nat) (code : Nat) (sec : Nat) :
    Keeps K (State.loadResult s op src attempt code sec) := by
  unfold State.loadResult
  try dsimp only
  with_reducible repeat' (first | assumption | intro _ | apply Keeps.ite | apply State.put_kept | split)

theorem State.applySource_kept {s : State} (hs : Keeps K s) (src : Nat) (staged : Bool) (err : Option (Nat × Nat)) :
    Keeps K (State.applySource s src staged err).2.2 := by
  unfold State.applySource
  try dsimp only
  with_reducible repeat'
    (first
      | assumption | intro _ | apply Keeps.ite | apply State.romForme_kept | apply State.showDir_kept
      | apply State.checkImage_kept | split)

theorem State.armFor_kept {s : State} (hs : Keeps K s) (number : Option Nat) : Keeps K (State.armFor s number) := by
  unfold State.armFor
  try dsimp only
  with_reducible repeat'
    (first
      | assumption | intro _ | apply Keeps.ite | apply State.setFc_kept | apply State.put_kept | split)

theorem State.refuseArm_kept {s : State} (hs : Keeps K s) (err : Nat) : Keeps K (State.refuseArm s err) := by
  unfold State.refuseArm
  try dsimp only
  with_reducible repeat'
    (first
      | assumption | intro _ | apply Keeps.ite | apply State.put_kept | apply State.inc_kept | apply State.raise_kept | split)

theorem State.armCmd_kept {s : State} (hs : Keeps K s) (atEn : Bool) : Keeps K (State.armCmd s atEn) := by
  unfold State.armCmd
  try dsimp only
  with_reducible repeat'
    (first
      | assumption | intro _ | apply Keeps.ite | apply State.refuseArm_kept | apply State.armFor_kept | split)

theorem State.deferArm_kept {s : State} (hs : Keeps K s) : Keeps K (State.deferArm s) := by
  unfold State.deferArm
  try dsimp only
  with_reducible repeat'
    (first
      | assumption | intro _ | apply Keeps.ite | apply State.inc_kept | apply State.setFc_kept | split)

theorem State.flipReg_kept {s : State} (hs : Keeps K s) (a : Nat) : Keeps K (State.flipReg s a) := by
  unfold State.flipReg
  try dsimp only
  with_reducible repeat' (first | assumption | intro _ | apply Keeps.ite | apply State.each_kept | apply State.put_kept | split)

theorem State.flipFh_kept {s : State} (hs : Keeps K s) (keep : Bool) : Keeps K (State.flipFh s keep) := by
  unfold State.flipFh
  try dsimp only
  with_reducible repeat'
    (first
      | assumption | intro _ | apply Keeps.ite | apply State.each_kept | apply State.flipReg_kept | split)

theorem State.showColo_kept {s : State} (hs : Keeps K s) : Keeps K (State.showColo s) := by
  unfold State.showColo
  try dsimp only
  with_reducible repeat' (first | assumption | intro _ | apply Keeps.ite | apply State.put_kept | apply State.each_kept | split)

theorem State.activate_kept {s : State} (hs : Keeps K s) : Keeps K (State.activate s) := by
  unfold State.activate
  try dsimp only
  with_reducible repeat'
    (first
      | assumption | intro _ | apply Keeps.ite | apply State.put_kept | apply State.setFc_kept | apply State.setReg_kept
      | apply State.raise_kept | apply State.showColo_kept | split)

theorem State.lockForme_kept {s : State} (hs : Keeps K s) : Keeps K (State.lockForme s) := by
  unfold State.lockForme
  try dsimp only
  with_reducible repeat'
    (first
      | assumption | intro _ | apply Keeps.ite | apply State.flipFh_kept | apply State.activate_kept | apply State.setFc_kept
      | apply State.setRs_kept | apply State.put_kept | apply State.inc_kept | apply State.raise_kept | split)

/-- The table of the active Forme's registers is in canonical form. -/
theorem State.formeTable_canonical {s : State} (h : canonical regReset s.regs = true) : canonical regReset s.formeTable = true
    := by
  unfold State.formeTable
  extract_lets keep t
  have : ∀ (l t : List (Nat × Word)), canonical regReset t = true →
      canonical regReset (l.foldl (fun t e => tput (regReset e.1) e.1 e.2 t) t) = true := by
    intro l
    induction l with
    | nil => exact fun _ h => h
    | cons e l ih => exact fun t h => ih _ (canonical_tput_at _ _ h)
  exact this _ _ (canonical_filter _ h)

theorem State.copyActive_kept {s : State} (hs : Keeps K s) : Keeps K s.copyActive :=
  State.setFc_kept (hs.setShadows (State.formeTable_canonical hs.4)) _

theorem execRetainedRecordWrite_kept {s : State} (hs : Keeps K s) : ∀ t, execRetainedRecordWrite s = .next t → Keeps K t := by
  unfold execRetainedRecordWrite
  try dsimp only
  with_reducible repeat'
    (first
      | (intro t ht; injection ht with ht; subst ht) | assumption | intro _ | apply Keeps.ite | apply State.setFc_kept | split)

theorem State.formeLoad_kept {s : State} (hs : Keeps K s) : Keeps K (State.formeLoad s) := by
  unfold State.formeLoad
  try dsimp only
  with_reducible repeat'
    (first
      | assumption | intro _ | apply Keeps.ite | apply State.showDir_kept | apply State.openFlash_kept
      | apply State.freshShadow_kept | apply State.setFc_kept | apply State.put_kept | split)

theorem State.coldPrograms_kept {s : State} (hs : Keeps K s) (slots : List Nat) : Keeps K (State.coldPrograms s slots) := by
  unfold State.coldPrograms
  try dsimp only
  with_reducible repeat'
    (first
      | assumption | intro _ | apply Keeps.ite | apply State.each_kept | apply State.copySlot_kept | split)

theorem State.loadGood_kept {s : State} (hs : Keeps K s) (src : Nat) (attempt : Nat) :
    Keeps K (State.loadGood s src attempt) := by
  unfold State.loadGood
  try dsimp only
  with_reducible repeat'
    (first
      | assumption | intro _ | apply Keeps.ite | apply State.coldPrograms_kept | apply State.loadResult_kept
      | apply State.setFc_kept | apply State.put_kept | apply State.armFor_kept | split)

theorem State.loadBad_kept {s : State} (hs : Keeps K s) (src : Nat) (attempt : Nat) (code : Nat) (sec : Nat) :
    Keeps K (State.loadBad s src attempt code sec) := by
  unfold State.loadBad
  try dsimp only
  with_reducible repeat'
    (first
      | assumption | intro _ | apply Keeps.ite | apply State.loadResult_kept | apply State.recordAttempt_kept
      | apply State.setFc_kept | apply State.formeLoad_kept | apply State.decideReset_kept | split)

theorem execFormeLoadDone_kept (err : Option (Fin 3 × Fin 255)) {s : State} (hs : Keeps K s) :
    ∀ t, execFormeLoadDone err s = .next t → Keeps K t := by
  unfold execFormeLoadDone
  try dsimp only
  with_reducible repeat'
    (first
      | (intro t ht; injection ht with ht; subst ht) | assumption | intro _ | apply Keeps.ite | apply State.loadBad_kept
      | apply State.readImage_kept | apply State.applySource_kept | apply State.loadGood_kept | split)

theorem State.stagePrograms_kept {s : State} (hs : Keeps K s) (slots : List Nat) : Keeps K (State.stagePrograms s slots) := by
  unfold State.stagePrograms
  try dsimp only
  with_reducible repeat'
    (first
      | assumption | intro _ | apply Keeps.ite | apply State.each_kept | apply State.copySlot_kept | apply State.putShadow_kept
      | split)

theorem State.stageEnd_kept {s : State} (hs : Keeps K s) (src : Nat) (err : Option (Nat × Nat)) :
    Keeps K (State.stageEnd s src err).2 := by
  unfold State.stageEnd
  try dsimp only
  with_reducible repeat'
    (first
      | assumption | intro _ | apply Keeps.ite | apply State.openFlash_kept | apply State.readImage_kept
      | apply State.applySource_kept | apply State.loadResult_kept | apply State.put_kept | apply State.setFc_kept
      | apply State.stagePrograms_kept | apply State.raise_kept | split)

theorem State.stageCmd_kept {s : State} (hs : Keeps K s) (src : Nat) : Keeps K (State.stageCmd s src) := by
  unfold State.stageCmd
  try dsimp only
  with_reducible repeat'
    (first
      | assumption | intro _ | apply Keeps.ite | apply State.showDir_kept | apply State.refuseCmd_kept
      | apply State.stageStart_kept | split)

theorem execStageDone_kept (err : Option (Fin 3 × Fin 255)) {s : State} (hs : Keeps K s) :
    ∀ t, execStageDone err s = .next t → Keeps K t := by
  unfold execStageDone
  try dsimp only
  with_reducible repeat'
    (first
      | (intro t ht; injection ht with ht; subst ht) | assumption | intro _ | apply Keeps.ite | apply State.stageEnd_kept
      | split)

theorem State.verifyCmd_kept {s : State} (hs : Keeps K s) (src : Nat) : Keeps K (State.verifyCmd s src) := by
  unfold State.verifyCmd
  try dsimp only
  with_reducible repeat'
    (first
      | assumption | intro _ | apply Keeps.ite | apply State.refuseCmd_kept | apply State.setFc_kept | apply State.put_kept
      | split)

theorem execVerifyDone_kept (err : Option (Fin 3 × Fin 255)) {s : State} (hs : Keeps K s) :
    ∀ t, execVerifyDone err s = .next t → Keeps K t := by
  unfold execVerifyDone
  try dsimp only
  with_reducible repeat'
    (first
      | (intro t ht; injection ht with ht; subst ht) | assumption | intro _ | apply Keeps.ite | apply State.openFlash_kept
      | apply State.readImage_kept | apply State.applySource_kept | apply State.loadResult_kept | apply State.put_kept
      | apply State.setFc_kept | split)

theorem State.commitNow_kept {s : State} (hs : Keeps K s) : Keeps K (State.commitNow s) := by
  unfold State.commitNow
  try dsimp only
  with_reducible repeat'
    (first
      | assumption | intro _ | apply Keeps.ite | apply State.markBank_kept | apply State.setFc_kept | apply State.put_kept
      | apply State.raise_kept | split)

theorem State.revertReady_kept {s : State} (hs : Keeps K s) (act : Nat) : Keeps K (State.revertReady s act) := by
  unfold State.revertReady
  try dsimp only
  with_reducible repeat'
    (first
      | assumption | intro _ | apply Keeps.ite | apply State.markBank_kept | apply State.armFor_kept | split)

theorem execRevertStageDone_kept (err : Option (Fin 3 × Fin 255)) {s : State} (hs : Keeps K s) :
    ∀ t, execRevertStageDone err s = .next t → Keeps K t := by
  unfold execRevertStageDone
  try dsimp only
  with_reducible repeat'
    (first
      | (intro t ht; injection ht with ht; subst ht) | assumption | intro _ | apply Keeps.ite | apply State.stageEnd_kept
      | apply State.revertReady_kept | apply State.put_kept | apply State.raise_kept | split)

theorem execProbationEnd_kept {s : State} (hs : Keeps K s) : ∀ t, execProbationEnd s = .next t → Keeps K t := by
  unfold execProbationEnd
  try dsimp only
  with_reducible repeat'
    (first
      | (intro t ht; injection ht with ht; subst ht) | assumption | intro _ | apply Keeps.ite | apply State.commitNow_kept
      | apply State.startRevert_kept | split)

theorem State.sendFlash_kept {s : State} (hs : Keeps K s) (w : Word) : Keeps K (State.sendFlash s w) := by
  unfold State.sendFlash
  try dsimp only
  with_reducible repeat'
    (first
      | assumption | intro _ | apply Keeps.ite | apply State.openFlash_kept | apply State.emit_kept | split)

theorem State.flashCmd_kept {s : State} (hs : Keeps K s) (w : Word) : Keeps K (State.flashCmd s w) := by
  unfold State.flashCmd
  try dsimp only
  with_reducible repeat'
    (first
      | assumption | intro _ | apply Keeps.ite | apply State.put_kept | apply State.sendFlash_kept | apply State.setFc_kept
      | split)

theorem State.bufPut_kept {s : State} (hs : Keeps K s) (bs : List Byte) : Keeps K (State.bufPut s bs) := by
  unfold State.bufPut
  try dsimp only
  with_reducible repeat' (first | assumption | intro _ | apply Keeps.ite | apply State.each_kept | apply State.put_kept | split)

theorem State.flashEffect_kept {s : State} (hs : Keeps K s) (a : Nat) (bs : List Byte) (e : FlashEffect) :
    Keeps K (s.flashEffect a bs e) := by
  cases e with
  | none => exact hs
  | program => exact ⟨hs.1, hs.2, hs.3, hs.4, hs.5, hs.6, hs.7, hs.8, hs.9, hs.10, canonical_flashWrite _ _ hs.11⟩
  | erase k => exact ⟨hs.1, hs.2, hs.3, hs.4, hs.5, hs.6, hs.7, hs.8, hs.9, hs.10, canonical_filter _ hs.11⟩

theorem execFlashCommandDone_kept (data : List Byte) (eff : FlashEffect) {s : State} (hs : Keeps K s) :
    ∀ t, execFlashCommandDone data eff s = .next t → Keeps K t := by
  unfold execFlashCommandDone
  try dsimp only
  with_reducible repeat'
    (first
      | (intro t ht; injection ht with ht; subst ht) | assumption | intro _ | apply Keeps.ite | apply State.flashEffect_kept
      | apply State.bufPut_kept | apply State.setFc_kept | apply State.put_kept | apply State.raise_kept | split)

theorem State.keyProg_kept {s : State} (hs : Keeps K s) (slot : Nat) : Keeps K (State.keyProg s slot) := by
  unfold State.keyProg
  try dsimp only
  with_reducible repeat'
    (first
      | assumption | intro _ | apply Keeps.ite | apply State.refuseCmd_kept | apply State.setFc_kept | apply State.put_kept
      | split)

theorem State.keyRevoke_kept {s : State} (hs : Keeps K s) (slot : Nat) : Keeps K (State.keyRevoke s slot) := by
  unfold State.keyRevoke
  try dsimp only
  with_reducible repeat'
    (first
      | assumption | intro _ | apply Keeps.ite | apply State.refuseCmd_kept | apply State.setFc_kept | apply State.put_kept
      | split)

theorem State.otpNext_kept {s : State} (hs : Keeps K s) : Keeps K (State.otpNext s) := by
  unfold State.otpNext
  try dsimp only
  with_reducible repeat'
    (first
      | assumption | intro _ | apply Keeps.ite | apply State.setFc_kept | apply State.put_kept | split)

theorem execOtpWriteDone_kept {s : State} (hs : Keeps K s) : ∀ t, execOtpWriteDone s = .next t → Keeps K t := by
  unfold execOtpWriteDone
  try dsimp only
  with_reducible repeat'
    (first
      | (intro t ht; injection ht with ht; subst ht) | assumption | intro _ | apply Keeps.ite | apply State.put_kept
      | apply State.otpNext_kept | apply State.setFc_kept | split)

theorem execArm_kept (path : Path) (atEn : Bool) {s : State} (hs : Keeps K s) :
    ∀ t, execArm path atEn s = .next t → Keeps K t := by
  unfold execArm
  try dsimp only
  with_reducible repeat'
    (first
      | (intro t ht; injection ht with ht; subst ht) | assumption | intro _ | apply Keeps.ite | apply State.custodyCmd_kept
      | apply State.armCmd_kept | split)

theorem State.disarm_kept {s : State} (hs : Keeps K s) : Keeps K (State.disarm s) := by
  unfold State.disarm
  try dsimp only
  with_reducible repeat'
    (first
      | assumption | intro _ | apply Keeps.ite | apply State.setFc_kept | apply State.put_kept | split)

theorem execDisarm_kept (path : Path) {s : State} (hs : Keeps K s) : ∀ t, execDisarm path s = .next t → Keeps K t := by
  unfold execDisarm
  try dsimp only
  with_reducible repeat'
    (first
      | (intro t ht; injection ht with ht; subst ht) | assumption | intro _ | apply Keeps.ite | apply State.custodyCmd_kept
      | apply State.disarm_kept | split)

theorem execStage_kept (path : Path) (src : Fin 4) {s : State} (hs : Keeps K s) :
    ∀ t, execStage path src s = .next t → Keeps K t := by
  unfold execStage
  try dsimp only
  with_reducible repeat'
    (first
      | (intro t ht; injection ht with ht; subst ht) | assumption | intro _ | apply Keeps.ite | apply State.custodyCmd_kept
      | apply State.stageCmd_kept | split)

theorem execVerify_kept (path : Path) (src : Fin 4) {s : State} (hs : Keeps K s) :
    ∀ t, execVerify path src s = .next t → Keeps K t := by
  unfold execVerify
  try dsimp only
  with_reducible repeat'
    (first
      | (intro t ht; injection ht with ht; subst ht) | assumption | intro _ | apply Keeps.ite | apply State.custodyCmd_kept
      | apply State.verifyCmd_kept | split)

theorem State.shadowReset_kept {s : State} (hs : Keeps K s) : Keeps K (State.shadowReset s) := by
  unfold State.shadowReset
  try dsimp only
  with_reducible repeat'
    (first
      | assumption | intro _ | apply Keeps.ite | apply State.copyActive_kept | apply State.put_kept | split)

theorem execShadowReset_kept (path : Path) {s : State} (hs : Keeps K s) :
    ∀ t, execShadowReset path s = .next t → Keeps K t := by
  unfold execShadowReset
  try dsimp only
  with_reducible repeat'
    (first
      | (intro t ht; injection ht with ht; subst ht) | assumption | intro _ | apply Keeps.ite | apply State.custodyCmd_kept
      | apply State.shadowReset_kept | split)

theorem State.commitCmd_kept {s : State} (hs : Keeps K s) : Keeps K (State.commitCmd s) := by
  unfold State.commitCmd
  try dsimp only
  with_reducible repeat'
    (first
      | assumption | intro _ | apply Keeps.ite | apply State.commitNow_kept | apply State.refuseCmd_kept | split)

theorem execCommit_kept (path : Path) {s : State} (hs : Keeps K s) : ∀ t, execCommit path s = .next t → Keeps K t := by
  unfold execCommit
  try dsimp only
  with_reducible repeat'
    (first
      | (intro t ht; injection ht with ht; subst ht) | assumption | intro _ | apply Keeps.ite | apply State.custodyCmd_kept
      | apply State.commitCmd_kept | split)

theorem State.revertCmd_kept {s : State} (hs : Keeps K s) : Keeps K (State.revertCmd s) := by
  unfold State.revertCmd
  try dsimp only
  with_reducible repeat'
    (first
      | assumption | intro _ | apply Keeps.ite | apply State.startRevert_kept | apply State.refuseCmd_kept | split)

theorem execRevert_kept (path : Path) {s : State} (hs : Keeps K s) : ∀ t, execRevert path s = .next t → Keeps K t := by
  unfold execRevert
  try dsimp only
  with_reducible repeat'
    (first
      | (intro t ht; injection ht with ht; subst ht) | assumption | intro _ | apply Keeps.ite | apply State.custodyCmd_kept
      | apply State.revertCmd_kept | split)

theorem State.markCmd_kept {s : State} (hs : Keeps K s) (bank : Nat) (st : Nat) : Keeps K (State.markCmd s bank st) := by
  unfold State.markCmd
  try dsimp only
  with_reducible repeat'
    (first
      | assumption | intro _ | apply Keeps.ite | apply State.refuseCmd_kept | apply State.markBank_kept | split)

theorem execMark_kept (path : Path) (bank : Fin 4) (st : Fin 4) {s : State} (hs : Keeps K s) :
    ∀ t, execMark path bank st s = .next t → Keeps K t := by
  unfold execMark
  try dsimp only
  with_reducible repeat'
    (first
      | (intro t ht; injection ht with ht; subst ht) | assumption | intro _ | apply Keeps.ite | apply State.custodyCmd_kept
      | apply State.markCmd_kept | split)

theorem execClrAttempts_kept (path : Path) {s : State} (hs : Keeps K s) :
    ∀ t, execClrAttempts path s = .next t → Keeps K t := by
  unfold execClrAttempts
  try dsimp only
  with_reducible repeat'
    (first
      | (intro t ht; injection ht with ht; subst ht) | assumption | intro _ | apply Keeps.ite | apply State.custodyCmd_kept
      | apply State.setReg_kept | split)

theorem execFlashCommand_kept (path : Path) (w : Word) {s : State} (hs : Keeps K s) :
    ∀ t, execFlashCommand path w s = .next t → Keeps K t := by
  unfold execFlashCommand
  try dsimp only
  with_reducible repeat'
    (first
      | (intro t ht; injection ht with ht; subst ht) | assumption | intro _ | apply Keeps.ite | apply State.custodyCmd_kept
      | apply State.flashCmd_kept | split)

theorem execProg_kept (path : Path) (slot : Fin 4) {s : State} (hs : Keeps K s) :
    ∀ t, execProg path slot s = .next t → Keeps K t := by
  unfold execProg
  try dsimp only
  with_reducible repeat'
    (first
      | (intro t ht; injection ht with ht; subst ht) | assumption | intro _ | apply Keeps.ite | apply State.custodyCmd_kept
      | apply State.keyProg_kept | split)

theorem execRevoke_kept (path : Path) (slot : Fin 4) {s : State} (hs : Keeps K s) :
    ∀ t, execRevoke path slot s = .next t → Keeps K t := by
  unfold execRevoke
  try dsimp only
  with_reducible repeat'
    (first
      | (intro t ht; injection ht with ht; subst ht) | assumption | intro _ | apply Keeps.ite | apply State.custodyCmd_kept
      | apply State.keyRevoke_kept | split)

end Sys2Proof.Machine
end

