-- ==== Sys2Proof/Laws/KeptPower.lean ====
section
/-! SUPPORT. What no command disturbs, in power and the cable: one lemma for each operation and each command. -/

set_option linter.unreachableTactic false
set_option linter.unusedTactic false

namespace Sys2Proof.Machine

variable {K : Mark}

theorem State.setPw_kept {s : State} (hs : Keeps K s) (g : Power → Power) : Keeps K (State.setPw s g) := by
  unfold State.setPw
  exact hs.same rfl rfl rfl rfl rfl rfl rfl rfl rfl rfl rfl

theorem State.setPath_kept {s : State} (hs : Keeps K s) (n : Nat) (g : PowerPath → PowerPath) :
    Keeps K (State.setPath s n g) := by
  unfold State.setPath
  try dsimp only
  with_reducible repeat' (first | assumption | intro _ | apply Keeps.ite | apply State.setPw_kept | split)

theorem State.raiseKeep_kept {s : State} (hs : Keeps K s) (f : Fld) : Keeps K (State.raiseKeep s f) := by
  unfold State.raiseKeep
  try dsimp only
  with_reducible repeat'
    (first
      | assumption | intro _ | apply Keeps.ite | apply State.raise_kept | apply State.setPw_kept | split)

theorem State.logKeep_kept {s : State} (hs : Keeps K s) (source : Nat) (kind : Nat) (detail : Nat) (word3 : Nat) :
    Keeps K (State.logKeep s source kind detail word3) := by
  unfold State.logKeep
  try dsimp only
  with_reducible repeat'
    (first
      | assumption | intro _ | apply Keeps.ite | apply State.log_kept | apply State.setSvc_kept | apply State.inc_kept | split)

theorem State.drain_kept {s : State} (hs : Keeps K s) (n : Nat) (on : Bool) : Keeps K (State.drain s n on) := by
  unfold State.drain
  try dsimp only
  with_reducible repeat'
    (first
      | assumption | intro _ | apply Keeps.ite | apply State.setPath_kept | apply State.emit_kept | apply State.discharge_kept
      | split)

theorem State.ppClose_kept {s : State} (hs : Keeps K s) (n : Nat) (safe : Bool) : Keeps K (State.ppClose s n safe) := by
  unfold State.ppClose
  try dsimp only
  with_reducible repeat'
    (first
      | assumption | intro _ | apply Keeps.ite | apply State.put_kept | apply State.setPath_kept | apply State.inc_kept
      | apply State.when_kept | apply State.drain_kept | split)

theorem State.selectFeed_kept {s : State} (hs : Keeps K s) : Keeps K (State.selectFeed s) := by
  unfold State.selectFeed
  try dsimp only
  with_reducible repeat'
    (first
      | assumption | intro _ | apply Keeps.ite | apply State.put_kept | apply State.inc_kept | apply State.raiseKeep_kept
      | apply State.setPw_kept | apply State.ppClose_kept | split)

theorem State.afterFeed_kept {s : State} (hs : Keeps K s) (n : Nat) : Keeps K (State.afterFeed s n) := by
  unfold State.afterFeed
  try dsimp only
  with_reducible repeat' (first | assumption | intro _ | apply Keeps.ite | apply State.selectFeed_kept | split)

theorem State.ppOff_kept {s : State} (hs : Keeps K s) (n : Nat) : Keeps K (State.ppOff s n) := by
  unfold State.ppOff
  try dsimp only
  with_reducible repeat'
    (first
      | assumption | intro _ | apply Keeps.ite | apply State.put_kept | apply State.setPath_kept | apply State.afterFeed_kept
      | split)

theorem State.ppWithdraw_kept {s : State} (hs : Keeps K s) (n : Nat) : Keeps K (State.ppWithdraw s n) := by
  unfold State.ppWithdraw
  try dsimp only
  with_reducible repeat' (first | assumption | intro _ | apply Keeps.ite | apply State.ppOff_kept | split)

theorem State.ppEval_kept {s : State} (hs : Keeps K s) (n : Nat) : Keeps K (State.ppEval s n) := by
  unfold State.ppEval
  try dsimp only
  with_reducible repeat'
    (first
      | assumption | intro _ | apply Keeps.ite | apply State.ppOff_kept | apply State.put_kept | split)

theorem State.setContract_kept {s : State} (hs : Keeps K s) (c : Nat) (mv : Nat) (ma : Nat) :
    Keeps K (State.setContract s c mv ma) := by
  unfold State.setContract
  try dsimp only
  with_reducible repeat' (first | assumption | intro _ | apply Keeps.ite | apply State.put_kept | split)

theorem State.setPort6_kept {s : State} (hs : Keeps K s) (c : Nat) (g : CablePort → CablePort) :
    Keeps K (State.setPort6 s c g) := by
  unfold State.setPort6
  try dsimp only
  with_reducible repeat' (first | assumption | intro _ | apply Keeps.ite | apply State.setPw_kept | split)

theorem State.cpEvent_kept {s : State} (hs : Keeps K s) (c : Nat) (f : Fld) : Keeps K (State.cpEvent s c f) := by
  unfold State.cpEvent
  try dsimp only
  with_reducible repeat'
    (first
      | assumption | intro _ | apply Keeps.ite | apply State.put_kept | apply State.raiseKeep_kept | split)

theorem State.cableDrop_kept {s : State} (hs : Keeps K s) (c : Nat) (st : Nat) : Keeps K (State.cableDrop s c st) := by
  unfold State.cableDrop
  try dsimp only
  with_reducible repeat'
    (first
      | assumption | intro _ | apply Keeps.ite | apply State.put_kept | apply State.setContract_kept | apply State.setPort6_kept
      | apply State.when_kept | apply State.setPath_kept | split)

theorem State.pathLost_kept {s : State} (hs : Keeps K s) (n : Nat) : Keeps K (State.pathLost s n) := by
  unfold State.pathLost
  try dsimp only
  with_reducible repeat'
    (first
      | assumption | intro _ | apply Keeps.ite | apply State.cpEvent_kept | apply State.cableDrop_kept | split)

theorem State.ppTrip_kept {s : State} (hs : Keeps K s) (n : Nat) (cause : Nat) : Keeps K (State.ppTrip s n cause) := by
  unfold State.ppTrip
  try dsimp only
  with_reducible repeat'
    (first
      | assumption | intro _ | apply Keeps.ite | apply State.put_kept | apply State.inc_kept | apply State.raiseKeep_kept
      | apply State.setPath_kept | apply State.afterFeed_kept | apply State.pathLost_kept | split)

theorem State.ppDamage_kept {s : State} (hs : Keeps K s) (n : Nat) (cause : Nat) : Keeps K (State.ppDamage s n cause) := by
  unfold State.ppDamage
  try dsimp only
  with_reducible repeat'
    (first
      | assumption | intro _ | apply Keeps.ite | apply State.put_kept | apply State.raiseKeep_kept | apply State.afterFeed_kept
      | apply State.pathLost_kept | split)

theorem State.ppRelease_kept {s : State} (hs : Keeps K s) (n : Nat) : Keeps K (State.ppRelease s n) := by
  unfold State.ppRelease
  try dsimp only
  with_reducible repeat'
    (first
      | assumption | intro _ | apply Keeps.ite | apply State.put_kept | apply State.ppOff_kept | apply State.ppEval_kept
      | split)

theorem State.ppToggle_kept {s : State} (hs : Keeps K s) (n : Nat) : Keeps K (State.ppToggle s n) := by
  unfold State.ppToggle
  try dsimp only
  with_reducible repeat'
    (first
      | assumption | intro _ | apply Keeps.ite | apply State.put_kept | apply State.ppRelease_kept | split)

theorem State.windowLost_kept {s : State} (hs : Keeps K s) (n : Nat) : Keeps K (State.windowLost s n) := by
  unfold State.windowLost
  try dsimp only
  with_reducible repeat'
    (first
      | assumption | intro _ | apply Keeps.ite | apply State.put_kept | apply State.inc_kept | apply State.setPath_kept
      | apply State.afterFeed_kept | split)

theorem execPpcWindowChange_kept (n : Path10) (inside : Bool) {s : State} (hs : Keeps K s) :
    ∀ t, execPpcWindowChange n inside s = .next t → Keeps K t := by
  unfold execPpcWindowChange
  try dsimp only
  with_reducible repeat'
    (first
      | (intro t ht; injection ht with ht; subst ht) | assumption | intro _ | apply Keeps.ite | apply State.setPath_kept
      | apply State.windowLost_kept | split)

theorem execPpcQualified_kept (n : Path10) (safe : Bool) {s : State} (hs : Keeps K s) :
    ∀ t, execPpcQualified n safe s = .next t → Keeps K t := by
  unfold execPpcQualified
  try dsimp only
  with_reducible repeat'
    (first
      | (intro t ht; injection ht with ht; subst ht) | assumption | intro _ | apply Keeps.ite | apply State.put_kept
      | apply State.afterFeed_kept | apply State.ppClose_kept | split)

theorem State.rampOver_kept {s : State} (hs : Keeps K s) (n : Nat) : Keeps K (State.rampOver s n) := by
  unfold State.rampOver
  try dsimp only
  with_reducible repeat'
    (first
      | assumption | intro _ | apply Keeps.ite | apply State.put_kept | apply State.afterFeed_kept | split)

theorem execPpcRampDone_kept (n : Path10) {s : State} (hs : Keeps K s) : ∀ t, execPpcRampDone n s = .next t → Keeps K t := by
  unfold execPpcRampDone
  try dsimp only
  with_reducible repeat'
    (first
      | (intro t ht; injection ht with ht; subst ht) | assumption | intro _ | apply Keeps.ite | apply State.setPath_kept
      | apply State.rampOver_kept | split)

theorem State.thaw_kept {s : State} (hs : Keeps K s) (n : Nat) : Keeps K (State.thaw s n) := by
  unfold State.thaw
  try dsimp only
  with_reducible repeat'
    (first
      | assumption | intro _ | apply Keeps.ite | apply State.when_kept | apply State.rampOver_kept | apply State.setPath_kept
      | apply State.windowLost_kept | split)

theorem execPpcRampFault_kept (n : Path10) {s : State} (hs : Keeps K s) : ∀ t, execPpcRampFault n s = .next t → Keeps K t := by
  unfold execPpcRampFault
  try dsimp only
  with_reducible repeat'
    (first
      | (intro t ht; injection ht with ht; subst ht) | assumption | intro _ | apply Keeps.ite | apply State.ppTrip_kept | split)

theorem execPpcFastTrip_kept (n : Path10) {s : State} (hs : Keeps K s) : ∀ t, execPpcFastTrip n s = .next t → Keeps K t := by
  unfold execPpcFastTrip
  try dsimp only
  with_reducible repeat'
    (first
      | (intro t ht; injection ht with ht; subst ht) | assumption | intro _ | apply Keeps.ite | apply State.ppTrip_kept | split)

theorem execPpcTimedTrip_kept (n : Path10) {s : State} (hs : Keeps K s) : ∀ t, execPpcTimedTrip n s = .next t → Keeps K t := by
  unfold execPpcTimedTrip
  try dsimp only
  with_reducible repeat'
    (first
      | (intro t ht; injection ht with ht; subst ht) | assumption | intro _ | apply Keeps.ite | apply State.ppTrip_kept | split)

theorem execPpcGateFault_kept (n : Path10) {s : State} (hs : Keeps K s) : ∀ t, execPpcGateFault n s = .next t → Keeps K t := by
  unfold execPpcGateFault
  try dsimp only
  with_reducible repeat'
    (first
      | (intro t ht; injection ht with ht; subst ht) | assumption | intro _ | apply Keeps.ite | apply State.ppDamage_kept
      | split)

theorem execPpcShort_kept (n : Path10) {s : State} (hs : Keeps K s) : ∀ t, execPpcShort n s = .next t → Keeps K t := by
  unfold execPpcShort
  try dsimp only
  with_reducible repeat'
    (first
      | (intro t ht; injection ht with ht; subst ht) | assumption | intro _ | apply Keeps.ite | apply State.ppDamage_kept
      | split)

theorem execPpcCoolEnd_kept (n : Path10) {s : State} (hs : Keeps K s) : ∀ t, execPpcCoolEnd n s = .next t → Keeps K t := by
  unfold execPpcCoolEnd
  try dsimp only
  with_reducible repeat'
    (first
      | (intro t ht; injection ht with ht; subst ht) | assumption | intro _ | apply Keeps.ite | apply State.setPath_kept
      | apply State.ppRelease_kept | split)

theorem State.keepCmd_kept {s : State} (hs : Keeps K s) (p : Path) (a : Nat) (c : Instr) (g : State → State) (hg : ∀ s, Keeps K
    s → Keeps K (g s)) : Keeps K (State.keepCmd s p a c g) := by
  unfold State.keepCmd
  try dsimp only
  with_reducible repeat'
    (first
      | assumption | intro _ | apply Keeps.ite | apply State.ordered_kept | apply State.emit_kept | apply hg | split)

theorem State.ppRearm_kept {s : State} (hs : Keeps K s) (n : Nat) (dmgClr : Bool) : Keeps K (State.ppRearm s n dmgClr) := by
  unfold State.ppRearm
  try dsimp only
  with_reducible repeat'
    (first
      | assumption | intro _ | apply Keeps.ite | apply State.ppOff_kept | apply State.ppEval_kept | apply State.ppToggle_kept
      | split)

theorem execRearm_kept (path : Path) (n : Path10) (dmgClr : Bool) {s : State} (hs : Keeps K s) :
    ∀ t, execRearm path n dmgClr s = .next t → Keeps K t := by
  unfold execRearm
  try dsimp only
  with_reducible repeat'
    (first
      | (intro t ht; injection ht with ht; subst ht) | assumption | intro _ | apply Keeps.ite | apply State.keepCmd_kept
      | apply State.rearm_kept | apply State.ppRearm_kept | apply State.emit_kept | split)

theorem execPpcEnEdge_kept (n : Path10) (rise : Bool) (long : Bool) {s : State} (hs : Keeps K s) :
    ∀ t, execPpcEnEdge n rise long s = .next t → Keeps K t := by
  unfold execPpcEnEdge
  try dsimp only
  with_reducible repeat'
    (first
      | (intro t ht; injection ht with ht; subst ht) | assumption | intro _ | apply Keeps.ite | apply State.when_kept
      | apply State.put_kept | apply State.setPath_kept | apply State.ppToggle_kept | apply State.ppEval_kept | split)

theorem State.keepRefuse_kept {s : State} (hs : Keeps K s) (p : Path) (a : Nat) (source : Nat) :
    Keeps K (State.keepRefuse s p a source) := by
  unfold State.keepRefuse
  try dsimp only
  with_reducible repeat' (first | assumption | intro _ | apply Keeps.ite | apply State.logKeep_kept | split)

theorem State.onReq_kept {s : State} (hs : Keeps K s) (p : Path) (n : Nat) (on : Bool) : Keeps K (State.onReq s p n on).2 := by
  unfold State.onReq
  try dsimp only
  with_reducible repeat'
    (first
      | assumption | intro _ | apply Keeps.ite | apply State.keepRefuse_kept | apply State.raiseKeep_kept | apply State.put_kept
      | apply State.ppEval_kept | split)

theorem execOnReq_kept (path : Path) (n : Path10) (on : Bool) {s : State} (hs : Keeps K s) :
    ∀ t, execOnReq path n on s = .next t → Keeps K t := by
  unfold execOnReq
  try dsimp only
  with_reducible repeat'
    (first
      | (intro t ht; injection ht with ht; subst ht) | assumption | intro _ | apply Keeps.ite | apply State.keepCmd_kept
      | apply State.onReq_kept | apply State.emit_kept | split)

theorem execFeedSwitch_kept (near : Bool) {s : State} (hs : Keeps K s) : ∀ t, execFeedSwitch near s = .next t → Keeps K t := by
  unfold execFeedSwitch
  try dsimp only
  with_reducible repeat'
    (first
      | (intro t ht; injection ht with ht; subst ht) | assumption | intro _ | apply Keeps.ite | apply State.setPw_kept
      | apply State.put_kept | split)

theorem State.vcStep_kept {s : State} (hs : Keeps K s) : Keeps K (State.vcStep s) := by
  unfold State.vcStep
  try dsimp only
  with_reducible repeat' (first | assumption | intro _ | apply Keeps.ite | apply State.setPw_kept | split)

theorem State.vcGo_kept {s : State} (hs : Keeps K s) (mv : Nat) : Keeps K (State.vcGo s mv) := by
  unfold State.vcGo
  try dsimp only
  with_reducible repeat'
    (first
      | assumption | intro _ | apply Keeps.ite | apply State.setPw_kept | apply State.vcStep_kept | split)

theorem State.vcRaiseTo_kept {s : State} (hs : Keeps K s) (mv : Nat) : Keeps K (State.vcRaiseTo s mv) := by
  unfold State.vcRaiseTo
  try dsimp only
  with_reducible repeat' (first | assumption | intro _ | apply Keeps.ite | apply State.vcGo_kept | split)

theorem State.vcWithdraw_kept {s : State} (hs : Keeps K s) : Keeps K (State.vcWithdraw s) := by
  unfold State.vcWithdraw
  try dsimp only
  with_reducible repeat' (first | assumption | intro _ | apply Keeps.ite | apply State.setPw_kept | split)

theorem State.vcKeep_kept {s : State} (hs : Keeps K s) (floor : Nat) : Keeps K (State.vcKeep s floor) := by
  unfold State.vcKeep
  try dsimp only
  with_reducible repeat'
    (first
      | assumption | intro _ | apply Keeps.ite | apply State.when_kept | apply State.vcWithdraw_kept
      | apply State.vcRaiseTo_kept | split)

theorem State.vcAnswer_kept {s : State} (hs : Keeps K s) (n : EngNo) (status : Nat) : Keeps K (State.vcAnswer s n status) := by
  unfold State.vcAnswer
  try dsimp only
  with_reducible repeat' (first | assumption | intro _ | apply Keeps.ite | apply State.emit_kept | split)

theorem State.vcRefuse_kept {s : State} (hs : Keeps K s) (n : EngNo) : Keeps K (State.vcRefuse s n) := by
  unfold State.vcRefuse
  try dsimp only
  with_reducible repeat'
    (first
      | assumption | intro _ | apply Keeps.ite | apply State.keepRefuse_kept | apply State.vcAnswer_kept | split)

theorem execVcoreRaiseRequest_kept (n : EngNo) (mv : Fin 1024) {s : State} (hs : Keeps K s) :
    ∀ t, execVcoreRaiseRequest n mv s = .next t → Keeps K t := by
  unfold execVcoreRaiseRequest
  try dsimp only
  with_reducible repeat'
    (first
      | (intro t ht; injection ht with ht; subst ht) | assumption | intro _ | apply Keeps.ite | apply State.vcAnswer_kept
      | apply State.vcRefuse_kept | apply State.vcRaiseTo_kept | apply State.setImp_kept | split)

theorem execVcoreLowerRequest_kept (n : EngNo) {s : State} (hs : Keeps K s) :
    ∀ t, execVcoreLowerRequest n s = .next t → Keeps K t := by
  unfold execVcoreLowerRequest
  try dsimp only
  with_reducible repeat'
    (first
      | (intro t ht; injection ht with ht; subst ht) | assumption | intro _ | apply Keeps.ite | apply State.vcAnswer_kept
      | apply State.vcRefuse_kept | apply State.setPw_kept | apply State.vcGo_kept | split)

theorem execThermalFloorRaise_kept (tj : Fin 256) {s : State} (hs : Keeps K s) :
    ∀ t, execThermalFloorRaise tj s = .next t → Keeps K t := by
  unfold execThermalFloorRaise
  try dsimp only
  with_reducible repeat'
    (first
      | (intro t ht; injection ht with ht; subst ht) | assumption | intro _ | apply Keeps.ite | apply State.setPw_kept
      | apply State.vcKeep_kept | split)

theorem State.vcDone_kept {s : State} (hs : Keeps K s) (mv : Nat) : Keeps K (State.vcDone s mv) := by
  unfold State.vcDone
  try dsimp only
  with_reducible repeat'
    (first
      | assumption | intro _ | apply Keeps.ite | apply State.put_kept | apply State.raiseKeep_kept | apply State.setPace_kept
      | apply State.setPw_kept | split)

theorem State.vcFail_kept {s : State} (hs : Keeps K s) : Keeps K (State.vcFail s) := by
  unfold State.vcFail
  try dsimp only
  with_reducible repeat'
    (first
      | assumption | intro _ | apply Keeps.ite | apply State.setPw_kept | apply State.raiseKeep_kept | split)

theorem execPmbusTransactionDone_kept (ok : Bool) (mv : Fin 1024) {s : State} (hs : Keeps K s) :
    ∀ t, execPmbusTransactionDone ok mv s = .next t → Keeps K t := by
  unfold execPmbusTransactionDone
  try dsimp only
  with_reducible repeat'
    (first
      | (intro t ht; injection ht with ht; subst ht) | assumption | intro _ | apply Keeps.ite | apply State.vcFail_kept
      | apply State.put_kept | apply State.setPw_kept | apply State.vcStep_kept | apply State.vcDone_kept | split)

theorem execPmbAlert_kept (status : Option (BitVec 16)) {s : State} (hs : Keeps K s) :
    ∀ t, execPmbAlert status s = .next t → Keeps K t := by
  unfold execPmbAlert
  try dsimp only
  with_reducible repeat'
    (first
      | (intro t ht; injection ht with ht; subst ht) | assumption | intro _ | apply Keeps.ite | apply State.put_kept
      | apply State.raiseKeep_kept | split)

theorem State.paceNote_kept {s : State} (hs : Keeps K s) (ps : Nat) (sensor : Nat) : Keeps K (State.paceNote s ps sensor) := by
  unfold State.paceNote
  try dsimp only
  with_reducible repeat'
    (first
      | assumption | intro _ | apply Keeps.ite | apply State.put_kept | apply State.setPace_kept | split)

theorem State.paceEmergency_kept {s : State} (hs : Keeps K s) : Keeps K (State.paceEmergency s) := by
  unfold State.paceEmergency
  try dsimp only
  with_reducible repeat'
    (first
      | assumption | intro _ | apply Keeps.ite | apply State.raise_kept | apply State.inc_kept | apply State.vcRaiseTo_kept
      | split)

theorem execPaceGate_kept (low : BitVec 64) (high : BitVec 64) {s : State} (hs : Keeps K s) :
    ∀ t, execPaceGate low high s = .next t → Keeps K t := by
  unfold execPaceGate
  try dsimp only
  with_reducible repeat'
    (first
      | (intro t ht; injection ht with ht; subst ht) | assumption | intro _ | apply Keeps.ite | apply State.paceNote_kept
      | apply State.paceEmergency_kept | split)

theorem State.railsStart_kept {s : State} (hs : Keeps K s) : Keeps K (State.railsStart s) := by
  unfold State.railsStart
  try dsimp only
  with_reducible repeat'
    (first
      | assumption | intro _ | apply Keeps.ite | apply State.put_kept | apply State.setPw_kept | split)

theorem State.railsOff_kept {s : State} (hs : Keeps K s) : Keeps K (State.railsOff s) := by
  unfold State.railsOff
  try dsimp only
  with_reducible repeat'
    (first
      | assumption | intro _ | apply Keeps.ite | apply State.put_kept | apply State.setPw_kept | split)

theorem State.railFail_kept {s : State} (hs : Keeps K s) (k : Nat) : Keeps K (State.railFail s k) := by
  unfold State.railFail
  try dsimp only
  with_reducible repeat'
    (first
      | assumption | intro _ | apply Keeps.ite | apply State.railsOff_kept | apply State.put_kept | apply State.inc_kept
      | apply State.raiseKeep_kept | split)

theorem execRailGood_kept (k : Fin 6) (linear : Bool) {s : State} (hs : Keeps K s) :
    ∀ t, execRailGood k linear s = .next t → Keeps K t := by
  unfold execRailGood
  try dsimp only
  with_reducible repeat'
    (first
      | (intro t ht; injection ht with ht; subst ht) | assumption | intro _ | apply Keeps.ite | apply State.railFail_kept
      | apply State.put_kept | apply State.setPw_kept | split)

theorem execRailTimeout_kept (k : Fin 6) {s : State} (hs : Keeps K s) : ∀ t, execRailTimeout k s = .next t → Keeps K t := by
  unfold execRailTimeout
  try dsimp only
  with_reducible repeat'
    (first
      | (intro t ht; injection ht with ht; subst ht) | assumption | intro _ | apply Keeps.ite | apply State.railFail_kept
      | split)

theorem execRailRetry_kept {s : State} (hs : Keeps K s) : ∀ t, execRailRetry s = .next t → Keeps K t := by
  unfold execRailRetry
  try dsimp only
  with_reducible repeat'
    (first
      | (intro t ht; injection ht with ht; subst ht) | assumption | intro _ | apply Keeps.ite | apply State.railsStart_kept
      | split)

theorem State.charger_kept {s : State} (hs : Keeps K s) : Keeps K (State.charger s) := by
  unfold State.charger
  try dsimp only
  with_reducible repeat'
    (first
      | assumption | intro _ | apply Keeps.ite | apply State.setPw_kept | apply State.emit_kept | split)

theorem State.supply_kept {s : State} (hs : Keeps K s) : Keeps K (State.supply s) := by
  unfold State.supply
  try dsimp only
  with_reducible repeat'
    (first
      | assumption | intro _ | apply Keeps.ite | apply State.put_kept | apply State.charger_kept | split)

theorem execHvinRise_kept {s : State} (hs : Keeps K s) : ∀ t, execHvinRise s = .next t → Keeps K t := by
  unfold execHvinRise
  try dsimp only
  with_reducible repeat'
    (first
      | (intro t ht; injection ht with ht; subst ht) | assumption | intro _ | apply Keeps.ite | apply State.setPw_kept
      | apply State.supply_kept | split)

theorem execHvinFall_kept {s : State} (hs : Keeps K s) : ∀ t, execHvinFall s = .next t → Keeps K t := by
  unfold execHvinFall
  try dsimp only
  with_reducible repeat'
    (first
      | (intro t ht; injection ht with ht; subst ht) | assumption | intro _ | apply Keeps.ite | apply State.setPw_kept
      | apply State.supply_kept | split)

theorem execHvinOvervoltage_kept (above : Bool) {s : State} (hs : Keeps K s) :
    ∀ t, execHvinOvervoltage above s = .next t → Keeps K t := by
  unfold execHvinOvervoltage
  try dsimp only
  with_reducible repeat'
    (first
      | (intro t ht; injection ht with ht; subst ht) | assumption | intro _ | apply Keeps.ite | apply State.setPw_kept
      | apply State.supply_kept | split)

theorem State.keepSleep_kept {s : State} (hs : Keeps K s) : Keeps K (State.keepSleep s) := by
  unfold State.keepSleep
  try dsimp only
  with_reducible repeat'
    (first
      | assumption | intro _ | apply Keeps.ite | apply State.lbQuiesce_kept | apply State.railsOff_kept | apply State.each_kept
      | apply State.ppOff_kept | apply State.spineClear_kept | split)

theorem execKeepSleepEntry_kept {s : State} (hs : Keeps K s) : ∀ t, execKeepSleepEntry s = .next t → Keeps K t := by
  unfold execKeepSleepEntry
  try dsimp only
  with_reducible repeat'
    (first
      | (intro t ht; injection ht with ht; subst ht) | assumption | intro _ | apply Keeps.ite | apply State.keepSleep_kept
      | split)

theorem State.sleepWrite_kept {s : State} (hs : Keeps K s) (p : Path) (w : Word) : Keeps K (State.sleepWrite s p w) := by
  unfold State.sleepWrite
  try dsimp only
  with_reducible repeat'
    (first
      | assumption | intro _ | apply Keeps.ite | apply State.writeShadow_kept | apply State.keepSleep_kept
      | apply State.raiseKeep_kept | split)

theorem execKeepSleepWrite_kept (path : Path) (w : Word) {s : State} (hs : Keeps K s) :
    ∀ t, execKeepSleepWrite path w s = .next t → Keeps K t := by
  unfold execKeepSleepWrite
  try dsimp only
  with_reducible repeat'
    (first
      | (intro t ht; injection ht with ht; subst ht) | assumption | intro _ | apply Keeps.ite | apply State.keepCmd_kept
      | apply State.emit_kept | apply State.sleepWrite_kept | split)

theorem State.wake_kept {s : State} (hs : Keeps K s) (src : Nat) : Keeps K (State.wake s src) := by
  unfold State.wake
  try dsimp only
  with_reducible repeat'
    (first
      | assumption | intro _ | apply Keeps.ite | apply State.put_kept | apply State.decideReset_kept
      | apply State.raiseKeep_kept | split)

theorem execWakeEvent_kept (src : Fin 5) {s : State} (hs : Keeps K s) : ∀ t, execWakeEvent src s = .next t → Keeps K t := by
  unfold execWakeEvent
  try dsimp only
  with_reducible repeat'
    (first
      | (intro t ht; injection ht with ht; subst ht) | assumption | intro _ | apply Keeps.ite | apply State.wake_kept
      | apply State.put_kept | split)

theorem execWakeHvinSample_kept (good : Bool) {s : State} (hs : Keeps K s) :
    ∀ t, execWakeHvinSample good s = .next t → Keeps K t := by
  unfold execWakeHvinSample
  try dsimp only
  with_reducible repeat'
    (first
      | (intro t ht; injection ht with ht; subst ht) | assumption | intro _ | apply Keeps.ite | apply State.setPw_kept
      | apply State.supply_kept | apply State.wake_kept | split)

theorem State.orderPath_kept {s : State} (hs : Keeps K s) (c : Nat) (role : Nat) (ma : Nat) (win : Nat × Nat) :
    Keeps K (State.orderPath s c role ma win) := by
  unfold State.orderPath
  try dsimp only
  with_reducible repeat'
    (first
      | assumption | intro _ | apply Keeps.ite | apply State.setPath_kept | apply State.ppEval_kept | split)

theorem State.discharge_kept {s : State} (hs : Keeps K s) (c : Nat) (on : Bool) : Keeps K (State.discharge s c on) := by
  unfold State.discharge
  try dsimp only
  with_reducible repeat' (first | assumption | intro _ | apply Keeps.ite | apply State.drain_kept | split)

theorem State.sendCaps_kept {s : State} (hs : Keeps K s) (c : Nat) (bus : Nat) : Keeps K (State.sendCaps s c bus) := by
  unfold State.sendCaps
  try dsimp only
  with_reducible repeat' (first | assumption | intro _ | apply Keeps.ite | apply State.emit_kept | split)

theorem State.enterDefault_kept {s : State} (hs : Keeps K s) (c : Nat) (role : Nat) (rp : Nat) :
    Keeps K (State.enterDefault s c role rp) := by
  unfold State.enterDefault
  try dsimp only
  with_reducible repeat'
    (first
      | assumption | intro _ | apply Keeps.ite | apply State.put_kept | apply State.setPort6_kept | apply State.setContract_kept
      | apply State.orderPath_kept | apply State.emit_kept | apply State.sendCaps_kept | split)

theorem State.attach_kept {s : State} (hs : Keeps K s) (c : Nat) (role : Nat) (rp : Nat) :
    Keeps K (State.attach s c role rp) := by
  unfold State.attach
  try dsimp only
  with_reducible repeat'
    (first
      | assumption | intro _ | apply Keeps.ite | apply State.enterDefault_kept | apply State.cpEvent_kept | apply State.put_kept
      | apply State.emit_kept | split)

theorem State.scwLevel_kept {s : State} (hs : Keeps K s) (c : Nat) (v : Nat) : Keeps K (State.scwLevel s c v) := by
  unfold State.scwLevel
  try dsimp only
  with_reducible repeat' (first | assumption | intro _ | apply Keeps.ite | apply State.put_kept | split)

theorem execCableAttachLevel_kept (c : CPort) {s : State} (hs : Keeps K s) :
    ∀ t, execCableAttachLevel c s = .next t → Keeps K t := by
  unfold execCableAttachLevel
  try dsimp only
  with_reducible repeat'
    (first
      | (intro t ht; injection ht with ht; subst ht) | assumption | intro _ | apply Keeps.ite | apply State.put_kept
      | apply State.setPort6_kept | apply State.scwLevel_kept | split)

theorem execAttachDebounceDone_kept (c : CPort) (held : Bool) (dual : Bool) (rp : Fin 3) {s : State} (hs : Keeps K s) :
    ∀ t, execAttachDebounceDone c held dual rp s = .next t → Keeps K t := by
  unfold execAttachDebounceDone
  try dsimp only
  with_reducible repeat'
    (first
      | (intro t ht; injection ht with ht; subst ht) | assumption | intro _ | apply Keeps.ite | apply State.put_kept
      | apply State.scwLevel_kept | apply State.setPort6_kept | apply State.attach_kept | split)

theorem execTrySrcTimeout_kept (c : CPort) (attached : Bool) (rp : Fin 3) {s : State} (hs : Keeps K s) :
    ∀ t, execTrySrcTimeout c attached rp s = .next t → Keeps K t := by
  unfold execTrySrcTimeout
  try dsimp only
  with_reducible repeat'
    (first
      | (intro t ht; injection ht with ht; subst ht) | assumption | intro _ | apply Keeps.ite | apply State.attach_kept | split)

theorem execDrpToggle_kept (c : CPort) {s : State} (hs : Keeps K s) : ∀ t, execDrpToggle c s = .next t → Keeps K t := by
  unfold execDrpToggle
  try dsimp only
  with_reducible repeat'
    (first
      | (intro t ht; injection ht with ht; subst ht) | assumption | intro _ | apply Keeps.ite | apply State.setPort6_kept
      | split)

theorem State.fsFail_kept {s : State} (hs : Keeps K s) (c : Nat) : Keeps K (State.fsFail s c) := by
  unfold State.fsFail
  try dsimp only
  with_reducible repeat'
    (first
      | assumption | intro _ | apply Keeps.ite | apply State.inc_kept | apply State.cpEvent_kept | split)

theorem execCableDetach_kept (c : CPort) {s : State} (hs : Keeps K s) : ∀ t, execCableDetach c s = .next t → Keeps K t := by
  unfold execCableDetach
  try dsimp only
  with_reducible repeat'
    (first
      | (intro t ht; injection ht with ht; subst ht) | assumption | intro _ | apply Keeps.ite | apply State.put_kept
      | apply State.scwLevel_kept | apply State.fsFail_kept | apply State.cableDrop_kept | apply State.ppWithdraw_kept
      | apply State.setPort6_kept | apply State.discharge_kept | apply State.cpEvent_kept | split)

theorem execSafeLowReached_kept (n : Path10) {s : State} (hs : Keeps K s) :
    ∀ t, execSafeLowReached n s = .next t → Keeps K t := by
  unfold execSafeLowReached
  try dsimp only
  with_reducible repeat'
    (first
      | (intro t ht; injection ht with ht; subst ht) | assumption | intro _ | apply Keeps.ite | apply State.ppClose_kept
      | apply State.discharge_kept | apply State.setPort6_kept | split)

theorem execSafeLowTimeout_kept (c : CPort) {s : State} (hs : Keeps K s) :
    ∀ t, execSafeLowTimeout c s = .next t → Keeps K t := by
  unfold execSafeLowTimeout
  try dsimp only
  with_reducible repeat'
    (first
      | (intro t ht; injection ht with ht; subst ht) | assumption | intro _ | apply Keeps.ite | apply State.discharge_kept
      | apply State.cableDrop_kept | apply State.ppWithdraw_kept | apply State.cpEvent_kept | split)

theorem execErrorStateExpiry_kept (c : CPort) {s : State} (hs : Keeps K s) :
    ∀ t, execErrorStateExpiry c s = .next t → Keeps K t := by
  unfold execErrorStateExpiry
  try dsimp only
  with_reducible repeat'
    (first
      | (intro t ht; injection ht with ht; subst ht) | assumption | intro _ | apply Keeps.ite | apply State.put_kept
      | apply State.scwLevel_kept | split)

theorem State.cablePolicy_kept {s : State} (hs : Keeps K s) (c : Nat) : Keeps K (State.cablePolicy s c) := by
  unfold State.cablePolicy
  try dsimp only
  with_reducible repeat'
    (first
      | assumption | intro _ | apply Keeps.ite | apply State.cableDrop_kept | apply State.ppEval_kept | split)

theorem execSourceCapabilitiesRx_kept (c : CPort) (objs : List Word) {s : State} (hs : Keeps K s) :
    ∀ t, execSourceCapabilitiesRx c objs s = .next t → Keeps K t := by
  unfold execSourceCapabilitiesRx
  try dsimp only
  with_reducible repeat'
    (first
      | (intro t ht; injection ht with ht; subst ht) | assumption | intro _ | apply Keeps.ite | apply State.put_kept
      | apply State.setPort6_kept | apply State.emit_kept | split)

theorem State.alive_kept {s : State} (hs : Keeps K s) (c : Nat) : Keeps K (State.alive s c) := by
  unfold State.alive
  try dsimp only
  with_reducible repeat' (first | assumption | intro _ | apply Keeps.ite | apply State.setPort6_kept | split)

theorem execRequestRx_kept (c : CPort) (rdo : Word) (bus : Fin 1200) (ext : Bool) {s : State} (hs : Keeps K s) :
    ∀ t, execRequestRx c rdo bus ext s = .next t → Keeps K t := by
  unfold execRequestRx
  try dsimp only
  with_reducible repeat'
    (first
      | (intro t ht; injection ht with ht; subst ht) | assumption | intro _ | apply Keeps.ite | apply State.emit_kept
      | apply State.put_kept | apply State.when_kept | apply State.alive_kept | apply State.accept_kept
      | apply State.cpEvent_kept | apply State.setPort6_kept | split)

theorem execPdAcceptRx_kept (c : CPort) {s : State} (hs : Keeps K s) : ∀ t, execPdAcceptRx c s = .next t → Keeps K t := by
  unfold execPdAcceptRx
  try dsimp only
  with_reducible repeat'
    (first
      | (intro t ht; injection ht with ht; subst ht) | assumption | intro _ | apply Keeps.ite | apply State.put_kept
      | apply State.orderPath_kept | apply State.emit_kept | apply State.setPort6_kept | apply State.sendCaps_kept | split)

theorem State.backToBefore_kept {s : State} (hs : Keeps K s) (c : Nat) : Keeps K (State.backToBefore s c) := by
  unfold State.backToBefore
  try dsimp only
  with_reducible repeat' (first | assumption | intro _ | apply Keeps.ite | apply State.put_kept | split)

theorem execPdRejectRx_kept (c : CPort) {s : State} (hs : Keeps K s) : ∀ t, execPdRejectRx c s = .next t → Keeps K t := by
  unfold execPdRejectRx
  try dsimp only
  with_reducible repeat'
    (first
      | (intro t ht; injection ht with ht; subst ht) | assumption | intro _ | apply Keeps.ite | apply State.backToBefore_kept
      | split)

theorem execPdWaitRx_kept (c : CPort) {s : State} (hs : Keeps K s) : ∀ t, execPdWaitRx c s = .next t → Keeps K t := by
  unfold execPdWaitRx
  try dsimp only
  with_reducible repeat'
    (first
      | (intro t ht; injection ht with ht; subst ht) | assumption | intro _ | apply Keeps.ite | apply State.backToBefore_kept
      | split)

theorem State.contractNow_kept {s : State} (hs : Keeps K s) (c : Nat) : Keeps K (State.contractNow s c) := by
  unfold State.contractNow
  try dsimp only
  with_reducible repeat'
    (first
      | assumption | intro _ | apply Keeps.ite | apply State.setContract_kept | apply State.put_kept
      | apply State.orderPath_kept | apply State.setPort6_kept | apply State.inc_kept | apply State.cpEvent_kept
      | apply State.emit_kept | split)

theorem State.swapDone_kept {s : State} (hs : Keeps K s) (c : Nat) : Keeps K (State.swapDone s c) := by
  unfold State.swapDone
  try dsimp only
  with_reducible repeat'
    (first
      | assumption | intro _ | apply Keeps.ite | apply State.put_kept | apply State.setPort6_kept
      | apply State.enterDefault_kept | split)

theorem execPsRdyRx_kept (c : CPort) {s : State} (hs : Keeps K s) : ∀ t, execPsRdyRx c s = .next t → Keeps K t := by
  unfold execPsRdyRx
  try dsimp only
  with_reducible repeat'
    (first
      | (intro t ht; injection ht with ht; subst ht) | assumption | intro _ | apply Keeps.ite | apply State.emit_kept
      | apply State.contractNow_kept | apply State.swapDone_kept | split)

theorem State.answerSwap_kept {s : State} (hs : Keeps K s) (c : Nat) (ok : Bool) (g : State → State) (hg : ∀ s, Keeps K s →
    Keeps K (g s)) : Keeps K (State.answerSwap s c ok g) := by
  unfold State.answerSwap
  try dsimp only
  with_reducible repeat'
    (first
      | assumption | intro _ | apply Keeps.ite | apply State.emit_kept | apply State.accept_kept | apply hg | split)

theorem execPrSwapRx_kept (c : CPort) {s : State} (hs : Keeps K s) : ∀ t, execPrSwapRx c s = .next t → Keeps K t := by
  unfold execPrSwapRx
  try dsimp only
  with_reducible repeat'
    (first
      | (intro t ht; injection ht with ht; subst ht) | assumption | intro _ | apply Keeps.ite | apply State.answerSwap_kept
      | apply State.put_kept | apply State.setPort6_kept | split)

theorem execFrSwapRx_kept (c : CPort) {s : State} (hs : Keeps K s) : ∀ t, execFrSwapRx c s = .next t → Keeps K t := by
  unfold execFrSwapRx
  try dsimp only
  with_reducible repeat'
    (first
      | (intro t ht; injection ht with ht; subst ht) | assumption | intro _ | apply Keeps.ite | apply State.emit_kept
      | apply State.accept_kept | split)

theorem execVconnSwapRx_kept (m : Fin 2) {s : State} (hs : Keeps K s) : ∀ t, execVconnSwapRx m s = .next t → Keeps K t := by
  unfold execVconnSwapRx
  try dsimp only
  with_reducible repeat'
    (first
      | (intro t ht; injection ht with ht; subst ht) | assumption | intro _ | apply Keeps.ite | apply State.answerSwap_kept
      | apply State.put_kept | apply State.when_kept | apply State.setPort6_kept | split)

theorem execDrSwapRx_kept (m : Fin 2) {s : State} (hs : Keeps K s) : ∀ t, execDrSwapRx m s = .next t → Keeps K t := by
  unfold execDrSwapRx
  try dsimp only
  with_reducible repeat'
    (first
      | (intro t ht; injection ht with ht; subst ht) | assumption | intro _ | apply Keeps.ite | apply State.answerSwap_kept
      | apply State.put_kept | split)

theorem execDrSwapResult_kept (m : Fin 2) (accepted : Bool) {s : State} (hs : Keeps K s) :
    ∀ t, execDrSwapResult m accepted s = .next t → Keeps K t := by
  unfold execDrSwapResult
  try dsimp only
  with_reducible repeat'
    (first
      | (intro t ht; injection ht with ht; subst ht) | assumption | intro _ | apply Keeps.ite | apply State.put_kept
      | apply State.setPort6_kept | apply State.cpEvent_kept | split)

theorem State.hardReset_kept {s : State} (hs : Keeps K s) (c : Nat) : Keeps K (State.hardReset s c) := by
  unfold State.hardReset
  try dsimp only
  with_reducible repeat'
    (first
      | assumption | intro _ | apply Keeps.ite | apply State.put_kept | apply State.setContract_kept | apply State.setPort6_kept
      | apply State.setPath_kept | apply State.ppWithdraw_kept | apply State.discharge_kept | apply State.inc_kept
      | apply State.cpEvent_kept | split)

theorem execHardResetRx_kept (c : CPort) {s : State} (hs : Keeps K s) : ∀ t, execHardResetRx c s = .next t → Keeps K t := by
  unfold execHardResetRx
  try dsimp only
  with_reducible repeat'
    (first
      | (intro t ht; injection ht with ht; subst ht) | assumption | intro _ | apply Keeps.ite | apply State.hardReset_kept
      | split)

theorem execHardResetRecover_kept (c : CPort) (rp : Fin 3) {s : State} (hs : Keeps K s) :
    ∀ t, execHardResetRecover c rp s = .next t → Keeps K t := by
  unfold execHardResetRecover
  try dsimp only
  with_reducible repeat'
    (first
      | (intro t ht; injection ht with ht; subst ht) | assumption | intro _ | apply Keeps.ite | apply State.enterDefault_kept
      | split)

theorem execEprKeepaliveRx_kept (m : Fin 2) {s : State} (hs : Keeps K s) :
    ∀ t, execEprKeepaliveRx m s = .next t → Keeps K t := by
  unfold execEprKeepaliveRx
  try dsimp only
  with_reducible repeat'
    (first
      | (intro t ht; injection ht with ht; subst ht) | assumption | intro _ | apply Keeps.ite | apply State.alive_kept | split)

theorem execSinkKeepaliveSend_kept (c : CPort) {s : State} (hs : Keeps K s) :
    ∀ t, execSinkKeepaliveSend c s = .next t → Keeps K t := by
  unfold execSinkKeepaliveSend
  try dsimp only
  with_reducible repeat'
    (first
      | (intro t ht; injection ht with ht; subst ht) | assumption | intro _ | apply Keeps.ite | apply State.emit_kept | split)

theorem execKaTimeout_kept (m : Fin 2) {s : State} (hs : Keeps K s) : ∀ t, execKaTimeout m s = .next t → Keeps K t := by
  unfold execKaTimeout
  try dsimp only
  with_reducible repeat'
    (first
      | (intro t ht; injection ht with ht; subst ht) | assumption | intro _ | apply Keeps.ite | apply State.emit_kept
      | apply State.hardReset_kept | apply State.inc_kept | apply State.cpEvent_kept | split)

theorem execSpineContractLapse_kept (p : Port) {s : State} (hs : Keeps K s) :
    ∀ t, execSpineContractLapse p s = .next t → Keeps K t := by
  unfold execSpineContractLapse
  try dsimp only
  with_reducible repeat'
    (first
      | (intro t ht; injection ht with ht; subst ht) | assumption | intro _ | apply Keeps.ite | apply State.put_kept
      | apply State.setPath_kept | apply State.emit_kept | apply State.inc_kept | apply State.cpEvent_kept | split)

theorem execVconnFault_kept (m : Fin 2) {s : State} (hs : Keeps K s) : ∀ t, execVconnFault m s = .next t → Keeps K t := by
  unfold execVconnFault
  try dsimp only
  with_reducible repeat'
    (first
      | (intro t ht; injection ht with ht; subst ht) | assumption | intro _ | apply Keeps.ite | apply State.put_kept
      | apply State.setPort6_kept | apply State.cpEvent_kept | split)

theorem execCableIdentityRx_kept (m : Fin 2) (answer : Option (Bool × Bool)) {s : State} (hs : Keeps K s) :
    ∀ t, execCableIdentityRx m answer s = .next t → Keeps K t := by
  unfold execCableIdentityRx
  try dsimp only
  with_reducible repeat'
    (first
      | (intro t ht; injection ht with ht; subst ht) | assumption | intro _ | apply Keeps.ite | apply State.put_kept
      | apply State.sendCaps_kept | split)

theorem State.fastRole_kept {s : State} (hs : Keeps K s) (c : Nat) (role : Nat) : Keeps K (State.fastRole s c role) := by
  unfold State.fastRole
  try dsimp only
  with_reducible repeat'
    (first
      | assumption | intro _ | apply Keeps.ite | apply State.setPath_kept | apply State.put_kept | split)

theorem execFastSwapDetect_kept (c : CPort) {s : State} (hs : Keeps K s) :
    ∀ t, execFastSwapDetect c s = .next t → Keeps K t := by
  unfold execFastSwapDetect
  try dsimp only
  with_reducible repeat'
    (first
      | (intro t ht; injection ht with ht; subst ht) | assumption | intro _ | apply Keeps.ite | apply State.emit_kept
      | apply State.fastRole_kept | apply State.put_kept | apply State.setPort6_kept | split)

theorem execFastSwapSignalRx_kept (c : CPort) (busOk : Bool) {s : State} (hs : Keeps K s) :
    ∀ t, execFastSwapSignalRx c busOk s = .next t → Keeps K t := by
  unfold execFastSwapSignalRx
  try dsimp only
  with_reducible repeat'
    (first
      | (intro t ht; injection ht with ht; subst ht) | assumption | intro _ | apply Keeps.ite | apply State.fastRole_kept
      | apply State.put_kept | apply State.setPort6_kept | apply State.emit_kept | apply State.fsFail_kept | split)

theorem execFastSwapPulseEnd_kept (c : CPort) {s : State} (hs : Keeps K s) :
    ∀ t, execFastSwapPulseEnd c s = .next t → Keeps K t := by
  unfold execFastSwapPulseEnd
  try dsimp only
  with_reducible repeat'
    (first
      | (intro t ht; injection ht with ht; subst ht) | assumption | intro _ | apply Keeps.ite | apply State.emit_kept | split)

theorem State.altAnswer_kept {s : State} (hs : Keeps K s) (m : Nat) (msg : PdSend) (objs : List Nat) :
    Keeps K (State.altAnswer s m msg objs) := by
  unfold State.altAnswer
  try dsimp only
  with_reducible repeat' (first | assumption | intro _ | apply Keeps.ite | apply State.emit_kept | split)

theorem execDiscoverIdentity_kept (m : Fin 2) {s : State} (hs : Keeps K s) :
    ∀ t, execDiscoverIdentity m s = .next t → Keeps K t := by
  unfold execDiscoverIdentity
  try dsimp only
  with_reducible repeat'
    (first
      | (intro t ht; injection ht with ht; subst ht) | assumption | intro _ | apply Keeps.ite | apply State.altAnswer_kept
      | split)

theorem execDiscoverSvids_kept (m : Fin 2) {s : State} (hs : Keeps K s) : ∀ t, execDiscoverSvids m s = .next t → Keeps K t := by
  unfold execDiscoverSvids
  try dsimp only
  with_reducible repeat'
    (first
      | (intro t ht; injection ht with ht; subst ht) | assumption | intro _ | apply Keeps.ite | apply State.altAnswer_kept
      | split)

theorem execDiscoverModes_kept (m : Fin 2) {s : State} (hs : Keeps K s) : ∀ t, execDiscoverModes m s = .next t → Keeps K t := by
  unfold execDiscoverModes
  try dsimp only
  with_reducible repeat'
    (first
      | (intro t ht; injection ht with ht; subst ht) | assumption | intro _ | apply Keeps.ite | apply State.altAnswer_kept
      | split)

theorem execEnterMode_kept (m : Fin 2) {s : State} (hs : Keeps K s) : ∀ t, execEnterMode m s = .next t → Keeps K t := by
  unfold execEnterMode
  try dsimp only
  with_reducible repeat'
    (first
      | (intro t ht; injection ht with ht; subst ht) | assumption | intro _ | apply Keeps.ite | apply State.altAnswer_kept
      | split)

theorem execDisplayportConfigure_kept (m : Fin 2) (pin : Fin 8) {s : State} (hs : Keeps K s) :
    ∀ t, execDisplayportConfigure m pin s = .next t → Keeps K t := by
  unfold execDisplayportConfigure
  try dsimp only
  with_reducible repeat'
    (first
      | (intro t ht; injection ht with ht; subst ht) | assumption | intro _ | apply Keeps.ite | apply State.put_kept
      | apply State.emit_kept | split)

theorem execExitMode_kept (m : Fin 2) {s : State} (hs : Keeps K s) : ∀ t, execExitMode m s = .next t → Keeps K t := by
  unfold execExitMode
  try dsimp only
  with_reducible repeat'
    (first
      | (intro t ht; injection ht with ht; subst ht) | assumption | intro _ | apply Keeps.ite | apply State.put_kept
      | apply State.emit_kept | split)

theorem execDisplayportStatusUpdate_kept (m : Fin 2) {s : State} (hs : Keeps K s) :
    ∀ t, execDisplayportStatusUpdate m s = .next t → Keeps K t := by
  unfold execDisplayportStatusUpdate
  try dsimp only
  with_reducible repeat'
    (first
      | (intro t ht; injection ht with ht; subst ht) | assumption | intro _ | apply Keeps.ite | apply State.altAnswer_kept
      | split)

theorem execNotSupportedReply_kept (m : Fin 2) {s : State} (hs : Keeps K s) :
    ∀ t, execNotSupportedReply m s = .next t → Keeps K t := by
  unfold execNotSupportedReply
  try dsimp only
  with_reducible repeat'
    (first
      | (intro t ht; injection ht with ht; subst ht) | assumption | intro _ | apply Keeps.ite | apply State.emit_kept | split)

end Sys2Proof.Machine
end

