-- ==== Sys2Proof/Laws/KeptUsb.lean ====
section
/-! SUPPORT. What no command disturbs, in the USB hub, the service channels and the TAP: one lemma for each operation and each command. -/

set_option linter.unreachableTactic false
set_option linter.unusedTactic false

namespace Sys2Proof.Machine

variable {K : Mark}

theorem State.setDk_kept {s : State} (hs : Keeps K s) (g : Dock → Dock) : Keeps K (State.setDk s g) := by
  unfold State.setDk
  exact hs.same rfl rfl rfl rfl rfl rfl rfl rfl rfl rfl rfl

theorem State.setChan_kept {s : State} (hs : Keeps K s) (c : Nat) (g : Channel → Channel) : Keeps K (State.setChan s c g) := by
  unfold State.setChan
  try dsimp only
  with_reducible repeat' (first | assumption | intro _ | apply Keeps.ite | apply State.setDk_kept | split)

theorem State.bufWrite_kept {s : State} (hs : Keeps K s) (n a : Nat) (bs : List Byte) : Keeps K (s.bufWrite n a bs) :=
  ⟨hs.1, hs.2, hs.3, hs.4, hs.5, hs.6, hs.7, hs.8, canonical_memWrite _ _ hs.9, hs.10, hs.11⟩

theorem State.putBit_kept {s : State} (hs : Keeps K s) (f : Fld) (c : Nat) (v : Bool) : Keeps K (State.putBit s f c v) := by
  unfold State.putBit
  try dsimp only
  with_reducible repeat' (first | assumption | intro _ | apply Keeps.ite | apply State.put_kept | split)

theorem State.endCmd_kept {s : State} (hs : Keeps K s) (c : Nat) : Keeps K (State.endCmd s c) := by
  unfold State.endCmd
  try dsimp only
  with_reducible repeat'
    (first
      | assumption | intro _ | apply Keeps.ite | apply State.setChan_kept | apply State.putBit_kept | split)

theorem State.armReply_kept {s : State} (hs : Keeps K s) (c : Nat) (len : Nat) : Keeps K (State.armReply s c len) := by
  unfold State.armReply
  try dsimp only
  with_reducible repeat' (first | assumption | intro _ | apply Keeps.ite | apply State.setChan_kept | split)

theorem State.svcReply_kept {s : State} (hs : Keeps K s) (c : Nat) (status : Nat) (words : Nat) (body : List Byte) :
    Keeps K (State.svcReply s c status words body) := by
  unfold State.svcReply
  try dsimp only
  with_reducible repeat'
    (first
      | assumption | intro _ | apply Keeps.ite | apply State.bufWrite_kept | apply State.armReply_kept | split)

theorem State.protoErr_kept {s : State} (hs : Keeps K s) (c : Nat) : Keeps K (State.protoErr s c) := by
  unfold State.protoErr
  try dsimp only
  with_reducible repeat'
    (first
      | assumption | intro _ | apply Keeps.ite | apply State.setChan_kept | apply State.putBit_kept | apply State.inc_kept
      | apply State.raise_kept | split)

theorem State.bumpEpoch_kept {s : State} (hs : Keeps K s) (c : Nat) : Keeps K (State.bumpEpoch s c) := by
  unfold State.bumpEpoch
  try dsimp only
  with_reducible repeat'
    (first
      | assumption | intro _ | apply Keeps.ite | apply State.hwMail_kept | apply State.endCmd_kept | apply State.put_kept
      | split)

theorem State.outPacket_kept {s : State} (hs : Keeps K s) (c : Nat) (data : List Byte) :
    Keeps K (State.outPacket s c data) := by
  unfold State.outPacket
  try dsimp only
  with_reducible repeat'
    (first
      | assumption | intro _ | apply Keeps.ite | apply State.emit_kept | apply State.setChan_kept | apply State.bufWrite_kept
      | apply State.protoErr_kept | split)

theorem execBulkOutPacket_kept (c : ChanNo) (tog : Bool) (data : List Byte) {s : State} (hs : Keeps K s) :
    ∀ t, execBulkOutPacket c tog data s = .next t → Keeps K t := by
  unfold execBulkOutPacket
  try dsimp only
  with_reducible repeat'
    (first
      | (intro t ht; injection ht with ht; subst ht) | assumption | intro _ | apply Keeps.ite | apply State.emit_kept
      | apply State.outPacket_kept | split)

theorem execSvcEcho_kept (c : ChanNo) {s : State} (hs : Keeps K s) : ∀ t, execSvcEcho c s = .next t → Keeps K t := by
  unfold execSvcEcho
  try dsimp only
  with_reducible repeat'
    (first
      | (intro t ht; injection ht with ht; subst ht) | assumption | intro _ | apply Keeps.ite | apply State.setChan_kept
      | apply State.svcReply_kept | split)

theorem State.toSteward_kept {s : State} (hs : Keeps K s) (c : Nat) : Keeps K (State.toSteward s c) := by
  unfold State.toSteward
  try dsimp only
  with_reducible repeat'
    (first
      | assumption | intro _ | apply Keeps.ite | apply State.sendMail_kept | apply State.inc_kept | apply State.raise_kept
      | apply State.svcReply_kept | apply State.setChan_kept | apply State.putBit_kept | split)

theorem execSvcCommand_kept (c : ChanNo) {s : State} (hs : Keeps K s) : ∀ t, execSvcCommand c s = .next t → Keeps K t := by
  unfold execSvcCommand
  try dsimp only
  with_reducible repeat'
    (first
      | (intro t ht; injection ht with ht; subst ht) | assumption | intro _ | apply Keeps.ite | apply State.setChan_kept
      | apply State.svcReply_kept | apply State.toSteward_kept | split)

theorem State.stewardReply_kept {s : State} (hs : Keeps K s) (w : Word) : Keeps K (State.stewardReply s w) := by
  unfold State.stewardReply
  try dsimp only
  with_reducible repeat'
    (first
      | assumption | intro _ | apply Keeps.ite | apply State.inc_kept | apply State.raise_kept | apply State.protoErr_kept
      | apply State.endCmd_kept | apply State.armReply_kept | split)

theorem execStewardReply_kept (w : Word) {s : State} (hs : Keeps K s) : ∀ t, execStewardReply w s = .next t → Keeps K t := by
  unfold execStewardReply
  try dsimp only
  with_reducible repeat'
    (first
      | (intro t ht; injection ht with ht; subst ht) | assumption | intro _ | apply Keeps.ite | apply State.stewardReply_kept
      | split)

theorem execSvcTimeout_kept (c : ChanNo) {s : State} (hs : Keeps K s) : ∀ t, execSvcTimeout c s = .next t → Keeps K t := by
  unfold execSvcTimeout
  try dsimp only
  with_reducible repeat'
    (first
      | (intro t ht; injection ht with ht; subst ht) | assumption | intro _ | apply Keeps.ite | apply State.endCmd_kept
      | apply State.svcReply_kept | split)

theorem execBulkInAck_kept (c : ChanNo) {s : State} (hs : Keeps K s) : ∀ t, execBulkInAck c s = .next t → Keeps K t := by
  unfold execBulkInAck
  try dsimp only
  with_reducible repeat'
    (first
      | (intro t ht; injection ht with ht; subst ht) | assumption | intro _ | apply Keeps.ite | apply State.emit_kept
      | apply State.setChan_kept | split)

theorem State.uhPower_kept {s : State} (hs : Keeps K s) (k : Nat) (on : Bool) : Keeps K (State.uhPower s k on) := by
  unfold State.uhPower
  try dsimp only
  with_reducible repeat' (first | assumption | intro _ | apply Keeps.ite | apply State.put_kept | apply State.emit_kept | split)

theorem State.uhOff_kept {s : State} (hs : Keeps K s) : Keeps K (State.uhOff s) := by
  unfold State.uhOff
  try dsimp only
  with_reducible repeat'
    (first
      | assumption | intro _ | apply Keeps.ite | apply State.each_kept | apply State.when_kept | apply State.uhPower_kept
      | split)

theorem State.uhOver_kept {s : State} (hs : Keeps K s) (k : Nat) : Keeps K (State.uhOver s k) := by
  unfold State.uhOver
  try dsimp only
  with_reducible repeat'
    (first
      | assumption | intro _ | apply Keeps.ite | apply State.uhPower_kept | apply State.put_kept | apply State.inc_kept
      | apply State.raise_kept | split)

theorem State.uhConnect_kept {s : State} (hs : Keeps K s) (k : Nat) (conn : Bool) (speed : Nat) :
    Keeps K (State.uhConnect s k conn speed) := by
  unfold State.uhConnect
  try dsimp only
  with_reducible repeat' (first | assumption | intro _ | apply Keeps.ite | apply State.when_kept | apply State.put_kept | split)

theorem State.abandonCtrl_kept {s : State} (hs : Keeps K s) : Keeps K (State.abandonCtrl s) := by
  unfold State.abandonCtrl
  try dsimp only
  with_reducible repeat'
    (first
      | assumption | intro _ | apply Keeps.ite | apply State.setDk_kept | apply State.inc_kept | apply State.raise_kept | split)

theorem State.tileReset_kept {s : State} (hs : Keeps K s) : Keeps K (State.tileReset s) := by
  unfold State.tileReset
  try dsimp only
  with_reducible repeat'
    (first
      | assumption | intro _ | apply Keeps.ite | apply State.abandonCtrl_kept | apply State.put_kept | apply State.each_kept
      | apply State.bumpEpoch_kept | apply State.when_kept | apply State.emit_kept | apply State.setDk_kept
      | apply State.uhOff_kept | split)

theorem State.usbDrop_kept {s : State} (hs : Keeps K s) : Keeps K (State.usbDrop s) := by
  unfold State.usbDrop
  try dsimp only
  with_reducible repeat'
    (first
      | assumption | intro _ | apply Keeps.ite | apply State.tileReset_kept | apply State.put_kept | apply State.emit_kept
      | split)

theorem State.usbDetach_kept {s : State} (hs : Keeps K s) : Keeps K (State.usbDetach s) := by
  unfold State.usbDetach
  try dsimp only
  with_reducible repeat'
    (first
      | assumption | intro _ | apply Keeps.ite | apply State.usbDrop_kept | apply State.raise_kept | split)

theorem State.dockReset_kept {s : State} (hs : Keeps K s) : Keeps K s.dockReset := by
  have h := State.uhOff_kept hs
  have h' : Keeps K ({ s.uhOff with galley := [] } : State) :=
    ⟨h.1, h.2, h.3, h.4, h.5, h.6, h.7, h.8, canonical_nil _, h.10, h.11⟩
  unfold State.dockReset
  dsimp only
  with_reducible repeat'
    (first
      | assumption | intro _ | apply Keeps.ite | apply State.put_kept | apply State.when_kept | apply State.emit_kept
      | apply State.setDk_kept | split)

theorem State.dockLockup_kept {s : State} (hs : Keeps K s) : Keeps K (State.dockLockup s) := by
  unfold State.dockLockup
  try dsimp only
  with_reducible repeat'
    (first
      | assumption | intro _ | apply Keeps.ite | apply State.setDk_kept | apply State.when_kept | apply State.raise_kept
      | apply State.usbDetach_kept | apply State.each_kept | apply State.uhPower_kept | split)

theorem execUsbConnect_kept {s : State} (hs : Keeps K s) : ∀ t, execUsbConnect s = .next t → Keeps K t := by
  unfold execUsbConnect
  try dsimp only
  with_reducible repeat'
    (first
      | (intro t ht; injection ht with ht; subst ht) | assumption | intro _ | apply Keeps.ite | apply State.put_kept
      | apply State.emit_kept | apply State.raise_kept | split)

theorem execUsbDisconnect_kept {s : State} (hs : Keeps K s) : ∀ t, execUsbDisconnect s = .next t → Keeps K t := by
  unfold execUsbDisconnect
  try dsimp only
  with_reducible repeat'
    (first
      | (intro t ht; injection ht with ht; subst ht) | assumption | intro _ | apply Keeps.ite | apply State.usbDetach_kept
      | split)

theorem execBusReset_kept (high : Bool) {s : State} (hs : Keeps K s) : ∀ t, execBusReset high s = .next t → Keeps K t := by
  unfold execBusReset
  try dsimp only
  with_reducible repeat'
    (first
      | (intro t ht; injection ht with ht; subst ht) | assumption | intro _ | apply Keeps.ite | apply State.tileReset_kept
      | apply State.raise_kept | apply State.put_kept | apply State.emit_kept | split)

theorem State.hubPort_kept {s : State} (hs : Keeps K s) (set : Bool) (feature : Nat) (k : Nat) :
    Keeps K (State.hubPort s set feature k) := by
  unfold State.hubPort
  try dsimp only
  with_reducible repeat'
    (first
      | assumption | intro _ | apply Keeps.ite | apply State.uhPower_kept | apply State.put_kept | split)

theorem State.ctrlRequest_kept {s : State} (hs : Keeps K s) (setup : Nat) (fn : Bool) :
    Keeps K (State.ctrlRequest s setup fn) := by
  unfold State.ctrlRequest
  try dsimp only
  with_reducible repeat'
    (first
      | assumption | intro _ | apply Keeps.ite | apply State.emit_kept | apply State.put_kept | apply State.hubPort_kept
      | split)

theorem execControlSetup_kept (setup : BitVec 64) (fn : Bool) (done : Bool) {s : State} (hs : Keeps K s) :
    ∀ t, execControlSetup setup fn done s = .next t → Keeps K t := by
  unfold execControlSetup
  try dsimp only
  with_reducible repeat'
    (first
      | (intro t ht; injection ht with ht; subst ht) | assumption | intro _ | apply Keeps.ite | apply State.abandonCtrl_kept
      | apply State.bufWrite_kept | apply State.emit_kept | apply State.ctrlRequest_kept | apply State.setDk_kept | split)

theorem State.stageOf_kept {s : State} (hs : Keeps K s) (rt rq : Nat) : ∀ a t, s.stageOf rt rq = some (a, t) → Keeps K t := by
  intro a t ht
  unfold State.stageOf at ht
  repeat' split at ht
  · cases ht
  · injection ht with ht
    injection ht with _ ht
    exact ht ▸ State.setDk_kept hs _
  · cases ht

theorem execSetAddress_kept {s : State} (hs : Keeps K s) : ∀ t, execSetAddress s = .next t → Keeps K t := by
  intro t ht
  unfold execSetAddress at ht
  injection ht with ht
  subst ht
  split
  · exact hs
  · exact State.put_kept (State.put_kept (State.stageOf_kept hs _ _ _ _ ‹_›) _ _) _ _

theorem execSetConfiguration_kept {s : State} (hs : Keeps K s) : ∀ t, execSetConfiguration s = .next t → Keeps K t := by
  intro t ht
  unfold execSetConfiguration at ht
  injection ht with ht
  subst ht
  split
  · exact hs
  · exact State.put_kept (State.each_kept (State.stageOf_kept hs _ _ _ _ ‹_›) _ _ fun _ s hs => State.setChan_kept hs _ _) _ _

theorem execSetFeatureHalt_kept {s : State} (hs : Keeps K s) : ∀ t, execSetFeatureHalt s = .next t → Keeps K t := by
  intro t ht
  unfold execSetFeatureHalt at ht
  injection ht with ht
  subst ht
  split
  · exact hs
  · have h := State.stageOf_kept hs _ _ _ _ ‹_›
    split
    · exact h
    · exact State.putBit_kept h _ _ _

theorem State.unhalt_kept {s : State} (hs : Keeps K s) (c : Nat) (dir : Bool) : Keeps K (State.unhalt s c dir) := by
  unfold State.unhalt
  try dsimp only
  with_reducible repeat'
    (first
      | assumption | intro _ | apply Keeps.ite | apply State.putBit_kept | apply State.setChan_kept | apply State.bumpEpoch_kept
      | split)

theorem execClearFeatureHalt_kept {s : State} (hs : Keeps K s) : ∀ t, execClearFeatureHalt s = .next t → Keeps K t := by
  intro t ht
  unfold execClearFeatureHalt at ht
  injection ht with ht
  subst ht
  split
  · exact hs
  · have h := State.stageOf_kept hs _ _ _ _ ‹_›
    split
    · exact h
    · exact State.unhalt_kept h _ _

theorem execUsbSuspend_kept {s : State} (hs : Keeps K s) : ∀ t, execUsbSuspend s = .next t → Keeps K t := by
  unfold execUsbSuspend
  try dsimp only
  with_reducible repeat'
    (first
      | (intro t ht; injection ht with ht; subst ht) | assumption | intro _ | apply Keeps.ite | apply State.setDk_kept
      | apply State.put_kept | apply State.raise_kept | split)

theorem State.wakeReason_kept {s : State} (hs : Keeps K s) (why : Nat) : Keeps K (State.wakeReason s why) := by
  unfold State.wakeReason
  try dsimp only
  with_reducible repeat'
    (first
      | assumption | intro _ | apply Keeps.ite | apply State.put_kept | apply State.setDk_kept | split)

theorem State.wakeReq_kept {s : State} (hs : Keeps K s) : Keeps K (State.wakeReq s) := by
  unfold State.wakeReq
  try dsimp only
  with_reducible repeat' (first | assumption | intro _ | apply Keeps.ite | apply State.wakeReason_kept | split)

theorem execWakeReq_kept {s : State} (hs : Keeps K s) : ∀ t, execWakeReq s = .next t → Keeps K t := by
  unfold execWakeReq
  try dsimp only
  with_reducible repeat'
    (first
      | (intro t ht; injection ht with ht; subst ht) | assumption | intro _ | apply Keeps.ite | apply State.wakeReq_kept
      | split)

theorem execDownstreamWake_kept (k : Fin 4) (what : Fin 4) (speed : Fin 3) {s : State} (hs : Keeps K s) :
    ∀ t, execDownstreamWake k what speed s = .next t → Keeps K t := by
  unfold execDownstreamWake
  try dsimp only
  with_reducible repeat'
    (first
      | (intro t ht; injection ht with ht; subst ht) | assumption | intro _ | apply Keeps.ite | apply State.put_kept
      | apply State.wakeReason_kept | apply State.uhOver_kept | apply State.uhConnect_kept | split)

theorem execRemoteWakeDrive_kept {s : State} (hs : Keeps K s) : ∀ t, execRemoteWakeDrive s = .next t → Keeps K t := by
  unfold execRemoteWakeDrive
  try dsimp only
  with_reducible repeat'
    (first
      | (intro t ht; injection ht with ht; subst ht) | assumption | intro _ | apply Keeps.ite | apply State.setDk_kept
      | apply State.emit_kept | split)

theorem execHostKSeen_kept {s : State} (hs : Keeps K s) : ∀ t, execHostKSeen s = .next t → Keeps K t := by
  unfold execHostKSeen
  try dsimp only
  with_reducible repeat'
    (first
      | (intro t ht; injection ht with ht; subst ht) | assumption | intro _ | apply Keeps.ite | apply State.when_kept
      | apply State.emit_kept | apply State.setDk_kept | apply State.put_kept | split)

theorem execUsbResume_kept {s : State} (hs : Keeps K s) : ∀ t, execUsbResume s = .next t → Keeps K t := by
  unfold execUsbResume
  try dsimp only
  with_reducible repeat'
    (first
      | (intro t ht; injection ht with ht; subst ht) | assumption | intro _ | apply Keeps.ite | apply State.when_kept
      | apply State.emit_kept | apply State.put_kept | apply State.setDk_kept | apply State.inc_kept | apply State.raise_kept
      | split)

theorem execUhOvercurrent_kept (k : Fin 4) {s : State} (hs : Keeps K s) : ∀ t, execUhOvercurrent k s = .next t → Keeps K t := by
  unfold execUhOvercurrent
  try dsimp only
  with_reducible repeat'
    (first
      | (intro t ht; injection ht with ht; subst ht) | assumption | intro _ | apply Keeps.ite | apply State.when_kept
      | apply State.uhOver_kept | apply State.wakeReason_kept | split)

theorem execDownstreamConnectChange_kept (k : Fin 4) (conn : Bool) (speed : Fin 3) {s : State} (hs : Keeps K s) :
    ∀ t, execDownstreamConnectChange k conn speed s = .next t → Keeps K t := by
  unfold execDownstreamConnectChange
  try dsimp only
  with_reducible repeat'
    (first
      | (intro t ht; injection ht with ht; subst ht) | assumption | intro _ | apply Keeps.ite | apply State.uhConnect_kept
      | split)

theorem execSofToken_kept (frame : BitVec 11) {s : State} (hs : Keeps K s) :
    ∀ t, execSofToken frame s = .next t → Keeps K t := by
  unfold execSofToken
  try dsimp only
  with_reducible repeat'
    (first
      | (intro t ht; injection ht with ht; subst ht) | assumption | intro _ | apply Keeps.ite | apply State.setDk_kept
      | apply State.inc_kept | apply State.raise_kept | apply State.put_kept | split)

theorem State.sofPop_kept {s : State} (hs : Keeps K s) : Keeps K (State.sofPop s) := by
  unfold State.sofPop
  try dsimp only
  with_reducible repeat'
    (first
      | assumption | intro _ | apply Keeps.ite | apply State.setReg_kept | apply State.setDk_kept | apply State.put_kept
      | split)

theorem execSofPop_kept (p : Path) {s : State} (hs : Keeps K s) : ∀ t, execSofPop p s = .next t → Keeps K t := by
  unfold execSofPop
  try dsimp only
  with_reducible repeat'
    (first
      | (intro t ht; injection ht with ht; subst ht) | assumption | intro _ | apply Keeps.ite | apply State.ordered_kept
      | apply State.sofPop_kept | apply State.emit_kept | split)

theorem execKeepHoldEnter_kept {s : State} (hs : Keeps K s) : ∀ t, execKeepHoldEnter s = .next t → Keeps K t := by
  unfold execKeepHoldEnter
  try dsimp only
  with_reducible repeat'
    (first
      | (intro t ht; injection ht with ht; subst ht) | assumption | intro _ | apply Keeps.ite | apply State.put_kept
      | apply State.inc_kept | apply State.setPw_kept | apply State.vcWithdraw_kept | apply State.when_kept
      | apply State.vcRaiseTo_kept | apply State.logKeep_kept | apply State.revertTrigger_kept | split)

theorem execKlLost_kept {s : State} (hs : Keeps K s) : ∀ t, execKlLost s = .next t → Keeps K t := by
  unfold execKlLost
  try dsimp only
  with_reducible repeat'
    (first
      | (intro t ht; injection ht with ht; subst ht) | assumption | intro _ | apply Keeps.ite | apply State.put_kept
      | apply State.raise_kept | apply State.latchStewards_kept | split)

theorem State.afterHold_kept {s : State} (hs : Keeps K s) : Keeps K (State.afterHold s) := by
  unfold State.afterHold
  try dsimp only
  with_reducible repeat'
    (first
      | assumption | intro _ | apply Keeps.ite | apply State.setSvc_kept | apply State.each_kept | apply State.logWords_kept
      | apply State.setPw_kept | apply State.raise_kept | apply State.thaw_kept | apply State.when_kept
      | apply State.setPath_kept | apply State.ppToggle_kept | apply State.ppRelease_kept | apply State.ppEval_kept
      | apply State.ppClose_kept | apply State.selectFeed_kept | split)

theorem execKeepHoldLeave_kept {s : State} (hs : Keeps K s) : ∀ t, execKeepHoldLeave s = .next t → Keeps K t := by
  unfold execKeepHoldLeave
  try dsimp only
  with_reducible repeat'
    (first
      | (intro t ht; injection ht with ht; subst ht) | assumption | intro _ | apply Keeps.ite | apply State.put_kept
      | apply State.setPw_kept | apply State.when_kept | apply State.vcKeep_kept | apply State.afterHold_kept
      | apply State.log_kept | apply State.raise_kept | apply State.latchStewards_kept | split)

theorem execCustodyLimit_kept {s : State} (hs : Keeps K s) : ∀ t, execCustodyLimit s = .next t → Keeps K t := by
  unfold execCustodyLimit
  try dsimp only
  with_reducible repeat'
    (first
      | (intro t ht; injection ht with ht; subst ht) | assumption | intro _ | apply Keeps.ite | apply State.setPw_kept
      | apply State.decideReset_kept | split)

theorem execCustodyEscalation_kept {s : State} (hs : Keeps K s) : ∀ t, execCustodyEscalation s = .next t → Keeps K t := by
  unfold execCustodyEscalation
  try dsimp only
  with_reducible repeat'
    (first
      | (intro t ht; injection ht with ht; subst ht) | assumption | intro _ | apply Keeps.ite | apply State.cairn_kept
      | apply State.put_kept | apply State.coldReset_kept | split)

theorem execScrubWord_kept (r : ScrubRow) (what : Fin 3) {s : State} (hs : Keeps K s) :
    ∀ t, execScrubWord r what s = .next t → Keeps K t := by
  unfold execScrubWord
  try dsimp only
  with_reducible repeat'
    (first
      | (intro t ht; injection ht with ht; subst ht) | assumption | intro _ | apply Keeps.ite | apply State.rowCorrected_kept
      | apply State.rowUncorrectable_kept | split)

theorem execRowRepairDone_kept (r : ScrubRow) {s : State} (hs : Keeps K s) :
    ∀ t, execRowRepairDone r s = .next t → Keeps K t := by
  unfold execRowRepairDone
  try dsimp only
  with_reducible repeat'
    (first
      | (intro t ht; injection ht with ht; subst ht) | assumption | intro _ | apply Keeps.ite | apply State.rowRepaired_kept
      | split)

theorem State.proofResult_kept {s : State} (hs : Keeps K s) (test : Nat) (t : Nat) (code : Nat) :
    Keeps K (State.proofResult s test t code) := by
  unfold State.proofResult
  try dsimp only
  with_reducible repeat' (first | assumption | intro _ | apply Keeps.ite | apply State.put_kept | split)

theorem State.proofStart_kept {s : State} (hs : Keeps K s) (test : Nat) (row : Nat) (t : Nat) :
    Keeps K (State.proofStart s test row t) := by
  unfold State.proofStart
  try dsimp only
  with_reducible repeat'
    (first
      | assumption | intro _ | apply Keeps.ite | apply State.setSvc_kept | apply State.setImp_kept | apply State.put_kept
      | apply State.refreshCap_kept | split)

theorem State.proofTry_kept {s : State} (hs : Keeps K s) : Keeps K (State.proofTry s) := by
  unfold State.proofTry
  try dsimp only
  with_reducible repeat'
    (first
      | assumption | intro _ | apply Keeps.ite | apply State.each_kept | apply State.setSvc_kept | apply State.proofStart_kept
      | split)

theorem State.proofAsk_kept {s : State} (hs : Keeps K s) (test : Nat) (row : Nat) (target : Nat) :
    Keeps K (State.proofAsk s test row target) := by
  unfold State.proofAsk
  try dsimp only
  with_reducible repeat'
    (first
      | assumption | intro _ | apply Keeps.ite | apply State.proofResult_kept | apply State.proofStart_kept
      | apply State.setSvc_kept | split)

theorem State.proofWrite_kept {s : State} (hs : Keeps K s) (w : Word) : Keeps K (State.proofWrite s w) := by
  unfold State.proofWrite
  try dsimp only
  with_reducible repeat'
    (first
      | assumption | intro _ | apply Keeps.ite | apply State.writeFields_kept | apply State.proofAsk_kept | split)

theorem execProofSpareEye_kept (target : BitVec 16) {s : State} (hs : Keeps K s) :
    ∀ t, execProofSpareEye target s = .next t → Keeps K t := by
  unfold execProofSpareEye
  try dsimp only
  with_reducible repeat'
    (first
      | (intro t ht; injection ht with ht; subst ht) | assumption | intro _ | apply Keeps.ite | apply State.proofWrite_kept
      | split)

theorem execProofSpareRow_kept (target : BitVec 16) {s : State} (hs : Keeps K s) :
    ∀ t, execProofSpareRow target s = .next t → Keeps K t := by
  unfold execProofSpareRow
  try dsimp only
  with_reducible repeat'
    (first
      | (intro t ht; injection ht with ht; subst ht) | assumption | intro _ | apply Keeps.ite | apply State.proofWrite_kept
      | split)

theorem execProofLiveRow_kept (row : Fin 512) (target : BitVec 16) {s : State} (hs : Keeps K s) :
    ∀ t, execProofLiveRow row target s = .next t → Keeps K t := by
  unfold execProofLiveRow
  try dsimp only
  with_reducible repeat'
    (first
      | (intro t ht; injection ht with ht; subst ht) | assumption | intro _ | apply Keeps.ite | apply State.proofWrite_kept
      | split)

theorem execProofEngineCore_kept (target : BitVec 16) {s : State} (hs : Keeps K s) :
    ∀ t, execProofEngineCore target s = .next t → Keeps K t := by
  unfold execProofEngineCore
  try dsimp only
  with_reducible repeat'
    (first
      | (intro t ht; injection ht with ht; subst ht) | assumption | intro _ | apply Keeps.ite | apply State.proofWrite_kept
      | split)

theorem execProofJunctionPath_kept (target : BitVec 16) {s : State} (hs : Keeps K s) :
    ∀ t, execProofJunctionPath target s = .next t → Keeps K t := by
  unfold execProofJunctionPath
  try dsimp only
  with_reducible repeat'
    (first
      | (intro t ht; injection ht with ht; subst ht) | assumption | intro _ | apply Keeps.ite | apply State.proofWrite_kept
      | split)

theorem execProofInvalid_kept (test : Fin 16) (row : Fin 512) (target : BitVec 16) {s : State} (hs : Keeps K s) :
    ∀ t, execProofInvalid test row target s = .next t → Keeps K t := by
  unfold execProofInvalid
  try dsimp only
  with_reducible repeat'
    (first
      | (intro t ht; injection ht with ht; subst ht) | assumption | intro _ | apply Keeps.ite | apply State.proofWrite_kept
      | split)

theorem State.proofLeave_kept {s : State} (hs : Keeps K s) (test : Nat) (t : Nat) : Keeps K (State.proofLeave s test t) := by
  unfold State.proofLeave
  try dsimp only
  with_reducible repeat'
    (first
      | assumption | intro _ | apply Keeps.ite | apply State.setSvc_kept | apply State.put_kept | apply State.when_kept
      | apply State.engReset_kept | split)

theorem State.proofLoc_kept {s : State} (hs : Keeps K s) (test : Nat) (t : Nat) (row : Nat) (data : Bool) :
    Keeps K (State.proofLoc s test t row data).2 := by
  unfold State.proofLoc
  try dsimp only
  with_reducible repeat' (first | assumption | intro _ | apply Keeps.ite | apply State.usedFree_kept | split)

theorem State.proofFail_kept {s : State} (hs : Keeps K s) (test : Nat) (t : Nat) (row : Nat) (data : Bool) :
    Keeps K (State.proofFail s test t row data) := by
  unfold State.proofFail
  try dsimp only
  with_reducible repeat'
    (first
      | assumption | intro _ | apply Keeps.ite | apply State.proofLoc_kept | apply State.put_kept | apply State.raise_kept
      | apply State.log_kept | apply State.judgePermanent_kept | apply State.setSvc_kept | apply State.rowPermanent_kept
      | apply State.retireEngine_kept | split)

theorem execProofTestDone_kept (test : Fin 6) (target : BitVec 16) (pass : Bool) (data : Bool) {s : State} (hs : Keeps K s) :
    ∀ t, execProofTestDone test target pass data s = .next t → Keeps K t := by
  unfold execProofTestDone
  try dsimp only
  with_reducible repeat'
    (first
      | (intro t ht; injection ht with ht; subst ht) | assumption | intro _ | apply Keeps.ite | apply State.proofLeave_kept
      | apply State.proofResult_kept | apply State.raise_kept | apply State.inc_kept | apply State.proofFail_kept | split)

theorem execProofDeferred_kept (test : Fin 6) (target : BitVec 16) {s : State} (hs : Keeps K s) :
    ∀ t, execProofDeferred test target s = .next t → Keeps K t := by
  unfold execProofDeferred
  try dsimp only
  with_reducible repeat'
    (first
      | (intro t ht; injection ht with ht; subst ht) | assumption | intro _ | apply Keeps.ite | apply State.proofTry_kept
      | apply State.setSvc_kept | apply State.proofResult_kept | apply State.inc_kept | apply State.raise_kept | split)

theorem State.autoRow_kept {s : State} (hs : Keeps K s) : Keeps K (State.autoRow s) := by
  unfold State.autoRow
  try dsimp only
  with_reducible repeat'
    (first
      | assumption | intro _ | apply Keeps.ite | apply State.setSvc_kept | apply State.proofAsk_kept | split)

theorem State.autoEye_kept {s : State} (hs : Keeps K s) : Keeps K (State.autoEye s) := by
  unfold State.autoEye
  try dsimp only
  with_reducible repeat'
    (first
      | assumption | intro _ | apply Keeps.ite | apply State.setSvc_kept | apply State.proofAsk_kept | split)

theorem execProofAutoTurn_kept {s : State} (hs : Keeps K s) : ∀ t, execProofAutoTurn s = .next t → Keeps K t := by
  unfold execProofAutoTurn
  try dsimp only
  with_reducible repeat'
    (first
      | (intro t ht; injection ht with ht; subst ht) | assumption | intro _ | apply Keeps.ite | apply State.autoRow_kept
      | apply State.autoEye_kept | split)

theorem State.proofMilestone_kept {s : State} (hs : Keeps K s) : Keeps K (State.proofMilestone s) := by
  unfold State.proofMilestone
  try dsimp only
  with_reducible repeat'
    (first
      | assumption | intro _ | apply Keeps.ite | apply State.each_kept | apply State.setImp_kept | apply State.refreshCap_kept
      | apply State.proofTry_kept | split)

theorem State.rearm_kept {s : State} (hs : Keeps K s) (w : Word) : Keeps K (State.rearm s w) := by
  unfold State.rearm
  try dsimp only
  with_reducible repeat'
    (first
      | assumption | intro _ | apply Keeps.ite | apply State.setSvc_kept | apply State.each_kept | apply State.sendMsix_kept
      | split)

theorem execEvRearm_kept (w : Word) {s : State} (hs : Keeps K s) : ∀ t, execEvRearm w s = .next t → Keeps K t := by
  unfold execEvRearm
  try dsimp only
  with_reducible repeat'
    (first
      | (intro t ht; injection ht with ht; subst ht) | assumption | intro _ | apply Keeps.ite | apply State.rearm_kept | split)

theorem execEventMessageRx_kept (src : Fin 2048) (source : Fin 32) (eng : Option EngNo) (word : Word) {s : State} (hs : Keeps K
    s) : ∀ t, execEventMessageRx src source eng word s = .next t → Keeps K t := by
  unfold execEventMessageRx
  try dsimp only
  with_reducible repeat'
    (first
      | (intro t ht; injection ht with ht; subst ht) | assumption | intro _ | apply Keeps.ite | apply State.takeFifo_kept
      | apply State.notice_kept | split)

theorem State.eventMessages_kept {s : State} (hs : Keeps K s) : Keeps K (State.eventMessages s) := by
  unfold State.eventMessages
  try dsimp only
  with_reducible repeat'
    (first
      | assumption | intro _ | apply Keeps.ite | apply State.each_kept | apply State.setSvc_kept | apply State.present_kept
      | split)

theorem State.setTap_kept {s : State} (hs : Keeps K s) (g : Tap → Tap) : Keeps K (State.setTap s g) := by
  unfold State.setTap
  exact hs.same rfl rfl rfl rfl rfl rfl rfl rfl rfl rfl rfl

theorem State.tapPins_kept {s : State} (hs : Keeps K s) (ir : Nat) : Keeps K (State.tapPins s ir) := by
  unfold State.tapPins
  try dsimp only
  with_reducible repeat' (first | assumption | intro _ | apply Keeps.ite | apply State.emit_kept | split)

theorem State.tapLoad_kept {s : State} (hs : Keeps K s) (ir : Nat) : Keeps K (State.tapLoad s ir) := by
  unfold State.tapLoad
  try dsimp only
  with_reducible repeat'
    (first
      | assumption | intro _ | apply Keeps.ite | apply State.setTap_kept | apply State.tapPins_kept | split)

theorem execJtagExtest_kept {s : State} (hs : Keeps K s) : ∀ t, execJtagExtest s = .next t → Keeps K t := by
  unfold execJtagExtest
  try dsimp only
  with_reducible repeat'
    (first
      | (intro t ht; injection ht with ht; subst ht) | assumption | intro _ | apply Keeps.ite | apply State.tapLoad_kept
      | split)

theorem execJtagIdcode_kept {s : State} (hs : Keeps K s) : ∀ t, execJtagIdcode s = .next t → Keeps K t := by
  unfold execJtagIdcode
  try dsimp only
  with_reducible repeat'
    (first
      | (intro t ht; injection ht with ht; subst ht) | assumption | intro _ | apply Keeps.ite | apply State.tapLoad_kept
      | apply State.emit_kept | split)

theorem execJtagSamplePreload_kept (pins : List Bool) (data : List Bool) {s : State} (hs : Keeps K s) :
    ∀ t, execJtagSamplePreload pins data s = .next t → Keeps K t := by
  unfold execJtagSamplePreload
  try dsimp only
  with_reducible repeat'
    (first
      | (intro t ht; injection ht with ht; subst ht) | assumption | intro _ | apply Keeps.ite | apply State.tapLoad_kept
      | apply State.emit_kept | apply State.setTap_kept | split)

theorem execJtagClamp_kept {s : State} (hs : Keeps K s) : ∀ t, execJtagClamp s = .next t → Keeps K t := by
  unfold execJtagClamp
  try dsimp only
  with_reducible repeat'
    (first
      | (intro t ht; injection ht with ht; subst ht) | assumption | intro _ | apply Keeps.ite | apply State.tapLoad_kept
      | split)

theorem execJtagHighz_kept {s : State} (hs : Keeps K s) : ∀ t, execJtagHighz s = .next t → Keeps K t := by
  unfold execJtagHighz
  try dsimp only
  with_reducible repeat'
    (first
      | (intro t ht; injection ht with ht; subst ht) | assumption | intro _ | apply Keeps.ite | apply State.tapLoad_kept
      | split)

theorem execJtagBypass_kept (code : Fin 16) {s : State} (hs : Keeps K s) :
    ∀ t, execJtagBypass code s = .next t → Keeps K t := by
  unfold execJtagBypass
  try dsimp only
  with_reducible repeat'
    (first
      | (intro t ht; injection ht with ht; subst ht) | assumption | intro _ | apply Keeps.ite | apply State.tapLoad_kept
      | split)

theorem execJtagTrst_kept (low : Bool) {s : State} (hs : Keeps K s) : ∀ t, execJtagTrst low s = .next t → Keeps K t := by
  unfold execJtagTrst
  try dsimp only
  with_reducible repeat'
    (first
      | (intro t ht; injection ht with ht; subst ht) | assumption | intro _ | apply Keeps.ite | apply State.setTap_kept
      | apply State.emit_kept | split)

end Sys2Proof.Machine
end

