-- ==== Sys2Proof/Laws/KeptAccess.lean ====
section
/-! SUPPORT. What no command disturbs, in the access paths and reset commands: one lemma for each operation and each command. -/

set_option linter.unreachableTactic false
set_option linter.unusedTactic false

namespace Sys2Proof.Machine

variable {K : Mark}

theorem State.spEnable_kept {s : State} (hs : Keeps K s) (p : Nat) : Keeps K (State.spEnable s p) := by
  unfold State.spEnable
  try dsimp only
  with_reducible repeat'
    (first
      | assumption | intro _ | apply Keeps.ite | apply State.put_kept | apply State.enterState_kept | split)

theorem State.setHold_kept {s : State} (hs : Keeps K s) (b : Nat) (v : Bool) : Keeps K (State.setHold s b v) := by
  unfold State.setHold
  try dsimp only
  with_reducible repeat' (first | assumption | intro _ | apply Keeps.ite | apply State.put_kept | split)

theorem State.spineHold_kept {s : State} (hs : Keeps K s) (p : Nat) : Keeps K (State.spineHold s p) := by
  unfold State.spineHold
  try dsimp only
  with_reducible repeat'
    (first
      | assumption | intro _ | apply Keeps.ite | apply State.spEnable_kept | apply State.dropSeq_kept
      | apply State.setLState_kept | apply State.failMember_kept | split)

theorem State.spineFree_kept {s : State} (hs : Keeps K s) (p : Nat) : Keeps K (State.spineFree s p) := by
  unfold State.spineFree
  try dsimp only
  with_reducible repeat'
    (first
      | assumption | intro _ | apply Keeps.ite | apply State.each_kept | apply State.setLane_kept | apply State.setReg_kept
      | apply State.setPort_kept | apply State.spEnable_kept | split)

theorem State.holdBlock_kept {s : State} (hs : Keeps K s) (b : Nat) : Keeps K (s.holdBlock b) := by
  have hp : Keeps K (if 4 ≤ b ∧ b ≤ 8 then s.purgeStage b else s) := Keeps.ite (State.purgeStage_kept hs b) hs
  unfold State.holdBlock
  dsimp only
  revert hp
  generalize (if 4 ≤ b ∧ b ≤ 8 then s.purgeStage b else s) = s'
  intro hp
  have he : Keeps K ({ s' with eth := tput {} (b - 7) {} s'.eth } : State) := hp.same rfl rfl rfl rfl rfl rfl rfl rfl rfl rfl
      rfl
  with_reducible repeat'
    (first
      | assumption | intro _ | apply Keeps.ite | apply State.spineHold_kept | apply State.setDisp_kept
      | apply State.displayLockup_kept | apply State.pxLockup_kept | apply State.setLb_kept | apply State.lbQuiesce_kept
      | apply State.setTm_kept | apply State.dockReset_kept | apply State.roleVacant_kept | apply State.engReset_kept | split)

theorem State.freeBlock_kept {s : State} (hs : Keeps K s) (b : Nat) : Keeps K (State.freeBlock s b) := by
  unfold State.freeBlock
  try dsimp only
  with_reducible repeat'
    (first
      | assumption | intro _ | apply Keeps.ite | apply State.spineFree_kept | apply State.displayLockup_kept
      | apply State.pxLockup_kept | apply State.ethLockup_kept | apply State.startBridge_kept | apply State.sbDrive_kept
      | apply State.dockLockup_kept | apply State.engLeave_kept | split)

theorem State.writeHold_kept {s : State} (hs : Keeps K s) (b : Nat) (v : Bool) : Keeps K (State.writeHold s b v) := by
  unfold State.writeHold
  try dsimp only
  with_reducible repeat'
    (first
      | assumption | intro _ | apply Keeps.ite | apply State.setHold_kept | apply State.holdBlock_kept
      | apply State.freeBlock_kept | split)

theorem execBlockHold_kept (path : Path) (b : Fin 32) {s : State} (hs : Keeps K s) :
    ∀ t, execBlockHold path b s = .next t → Keeps K t := by
  unfold execBlockHold
  try dsimp only
  with_reducible repeat'
    (first
      | (intro t ht; injection ht with ht; subst ht) | assumption | intro _ | apply Keeps.ite | apply State.keepCmd_kept
      | apply State.custodyCmd_kept | apply State.writeHold_kept | split)

theorem execBlockRelease_kept (path : Path) (b : Fin 32) {s : State} (hs : Keeps K s) :
    ∀ t, execBlockRelease path b s = .next t → Keeps K t := by
  unfold execBlockRelease
  try dsimp only
  with_reducible repeat'
    (first
      | (intro t ht; injection ht with ht; subst ht) | assumption | intro _ | apply Keeps.ite | apply State.keepCmd_kept
      | apply State.custodyCmd_kept | apply State.writeHold_kept | split)

theorem State.softReset_kept {_s : State} (h_s : Keeps K _s) (p : Path) (w : Word) : ∀ u, Keeps K u → Keeps K ((State.softReset
    _s p w).2 u) := by
  unfold State.softReset
  try dsimp only
  with_reducible repeat'
    (first
      | assumption | intro _ | apply Keeps.ite | apply State.raiseKeep_kept | apply State.decideReset_kept | split)

theorem State.softCmd_kept {s : State} (hs : Keeps K s) (p : Path) (c : Instr) (w : Word) :
    Keeps K (State.softCmd s p c w) := by
  unfold State.softCmd
  try dsimp only
  with_reducible repeat'
    (first
      | assumption | intro _ | apply Keeps.ite | apply State.keepCmd_kept | apply State.softReset_kept | apply State.emit_kept
      | split)

theorem execSoftWarm_kept (path : Path) (key : Byte) {s : State} (hs : Keeps K s) :
    ∀ t, execSoftWarm path key s = .next t → Keeps K t := by
  unfold execSoftWarm
  try dsimp only
  with_reducible repeat'
    (first
      | (intro t ht; injection ht with ht; subst ht) | assumption | intro _ | apply Keeps.ite | apply State.softCmd_kept
      | split)

theorem execSoftCold_kept (path : Path) (key : Byte) {s : State} (hs : Keeps K s) :
    ∀ t, execSoftCold path key s = .next t → Keeps K t := by
  unfold execSoftCold
  try dsimp only
  with_reducible repeat'
    (first
      | (intro t ht; injection ht with ht; subst ht) | assumption | intro _ | apply Keeps.ite | apply State.softCmd_kept
      | split)

theorem State.readNonce_kept {s : State} (hs : Keeps K s) (p : Path) : Keeps K (State.readNonce s p).2 := by
  unfold State.readNonce
  try dsimp only
  with_reducible repeat'
    (first
      | assumption | intro _ | apply Keeps.ite | apply State.usedFree_kept | apply State.put_kept | apply State.setRs_kept
      | split)

theorem execRstNonce_kept (path : Path) {s : State} (hs : Keeps K s) : ∀ t, execRstNonce path s = .next t → Keeps K t := by
  unfold execRstNonce
  try dsimp only
  with_reducible repeat'
    (first
      | (intro t ht; injection ht with ht; subst ht) | assumption | intro _ | apply Keeps.ite | apply State.keepCmd_kept
      | apply State.readNonce_kept | apply State.emit_kept | split)

theorem State.remoteReset_kept {s : State} (hs : Keeps K s) (p : Path) (w : Word) : ∀ u, Keeps K u → Keeps K
    ((State.remoteReset s p w).2 u) := by
  unfold State.remoteReset
  try dsimp only
  with_reducible repeat'
    (first
      | assumption | intro _ | apply Keeps.ite | apply State.setRs_kept | apply State.decideReset_kept
      | apply State.raiseKeep_kept | split)

theorem execRstRemote_kept (path : Path) (w : Word) {s : State} (hs : Keeps K s) :
    ∀ t, execRstRemote path w s = .next t → Keeps K t := by
  unfold execRstRemote
  try dsimp only
  with_reducible repeat'
    (first
      | (intro t ht; injection ht with ht; subst ht) | assumption | intro _ | apply Keeps.ite | apply State.keepCmd_kept
      | apply State.remoteReset_kept | apply State.emit_kept | split)

theorem State.caseRead_kept {s : State} (hs : Keeps K s) (ofs : Nat) (k : Nat) : Keeps K (State.caseRead s ofs k).2 := by
  unfold State.caseRead
  try dsimp only
  with_reducible repeat' (first | assumption | intro _ | apply Keeps.ite | apply State.usedFree_kept | split)

theorem State.sheetByte_kept {s : State} (hs : Keeps K s) (ofs : Nat) (b : Byte) : Keeps K (State.sheetByte s ofs b) := by
  unfold State.sheetByte
  try dsimp only
  with_reducible repeat' (first | assumption | intro _ | apply Keeps.ite | apply State.writeSheet_kept | split)

theorem State.caseWrite_kept {s : State} (hs : Keeps K s) (ofs : Nat) (k : Nat) (v : Nat) :
    Keeps K (State.caseWrite s ofs k v) := by
  unfold State.caseWrite
  try dsimp only
  with_reducible repeat'
    (first
      | assumption | intro _ | apply Keeps.ite | apply State.setToken_kept | apply State.sheetByte_kept | apply State.each_kept
      | apply State.writeSheet_kept | apply State.setFc_kept | apply State.setCase_kept | split)

theorem State.clearRc_kept {s : State} (hs : Keeps K s) (a : Nat) : Keeps K (State.clearRc s a) := by
  unfold State.clearRc
  try dsimp only
  with_reducible repeat' (first | assumption | intro _ | apply Keeps.ite | apply State.each_kept | apply State.put_kept | split)

theorem State.refresh_kept {s : State} (hs : Keeps K s) (a : Nat) : Keeps K (State.refresh s a) := by
  unfold State.refresh
  try dsimp only
  with_reducible repeat'
    (first
      | assumption | intro _ | apply Keeps.ite | apply State.put_kept | apply State.usedFree_kept | apply State.setReg_kept
      | split)

theorem State.readReg_kept {s : State} (hs : Keeps K s) (p : Path) (a : Nat) : Keeps K (State.readReg s p a).2 := by
  unfold State.readReg
  try dsimp only
  with_reducible repeat'
    (first
      | assumption | intro _ | apply Keeps.ite | apply State.latchTime_kept | apply State.readNonce_kept
      | apply State.sofPop_kept | apply State.capPop_kept | apply State.refresh_kept | apply State.clearRc_kept | split)

theorem State.writePlain_kept {s : State} (hs : Keeps K s) (a : Nat) (w : Word) : Keeps K (State.writePlain s a w) := by
  unfold State.writePlain
  try dsimp only
  with_reducible repeat'
    (first
      | assumption | intro _ | apply Keeps.ite | apply State.writeFields_kept | apply State.when_kept
      | apply State.driveInt_kept | apply State.gained_kept | split)

theorem State.writeSpine_kept {s : State} (hs : Keeps K s) (p : Nat) (o : Nat) (w : Word) :
    Keeps K (State.writeSpine s p o w) := by
  unfold State.writeSpine
  try dsimp only
  with_reducible repeat'
    (first
      | assumption | intro _ | apply Keeps.ite | apply State.testEnter_kept | apply State.testExit_kept
      | apply State.retrain_kept | apply State.readmitPort_kept | apply State.when_kept | apply State.clearLane_kept
      | apply State.force_kept | apply State.prbsWritten_kept | apply State.writePlain_kept | apply State.injGo_kept | split)

theorem State.writeFcCmd_kept {s : State} (hs : Keeps K s) (w : Word) : Keeps K (State.writeFcCmd s w) := by
  unfold State.writeFcCmd
  try dsimp only
  with_reducible repeat'
    (first
      | assumption | intro _ | apply Keeps.ite | apply State.armCmd_kept | apply State.disarm_kept | apply State.stageCmd_kept
      | apply State.verifyCmd_kept | apply State.shadowReset_kept | apply State.commitCmd_kept | apply State.revertCmd_kept
      | apply State.markCmd_kept | apply State.setReg_kept | split)

theorem State.writeEngine_kept {s : State} (hs : Keeps K s) (n : Nat) (a : Nat) (w : Word) :
    Keeps K (State.writeEngine s n a w) := by
  unfold State.writeEngine
  try dsimp only
  with_reducible repeat'
    (first
      | assumption | intro _ | apply Keeps.ite | apply State.when_kept | apply State.engLoad_kept | apply State.engRestart_kept
      | apply State.retireEngine_kept | apply State.postMail_kept | apply State.writePlain_kept | split)

theorem State.writeTime_kept {s : State} (hs : Keeps K s) (a : Nat) (w : Word) : Keeps K (State.writeTime s a w) := by
  unfold State.writeTime
  try dsimp only
  with_reducible repeat'
    (first
      | assumption | intro _ | apply Keeps.ite | apply State.when_kept | apply State.setCmd_kept | apply State.acceptCmd_kept
      | apply State.wmWrite_kept | apply State.writePlain_kept | split)

theorem State.writeHook_kept {s : State} (hs : Keeps K s) (a : Nat) (w : Word) : Keeps K (State.writeHook s a w) := by
  unfold State.writeHook
  try dsimp only
  with_reducible repeat'
    (first
      | assumption | intro _ | apply Keeps.ite | apply State.writeSpine_kept | apply State.writeEngine_kept
      | apply State.writeTime_kept | apply State.writeFcCmd_kept | apply State.keyProg_kept | apply State.keyRevoke_kept
      | apply State.flashCmd_kept | apply State.each_kept | apply State.writeHold_kept | apply State.writePlain_kept
      | apply State.when_kept | apply State.auxGo_kept | apply State.sbDrive_kept | apply State.wakeReq_kept
      | apply State.stewardReply_kept | apply State.proofWrite_kept | apply State.rearm_kept | split)

theorem State.writePp_kept {s : State} (hs : Keeps K s) (p : Path) (n : Nat) (w : Word) :
    KeepsWrite K (s.writePp p n w) := by
  unfold State.writePp
  extract_lets s1 r
  have h1 : Keeps K s1 := State.when_kept hs _ _ fun s hs => State.ppRearm_kept hs _ _
  have hr : Keeps K r.2 := State.onReq_kept h1 _ _ _
  clear_value r s1
  split
  · exact KeepsWrite.of (Keeps.ite hr h1) fun u hu => hu
  · exact KeepsWrite.of hr fun u hu => hu

theorem State.writeReg_kept {s : State} (hs : Keeps K s) (p : Path) (a : Nat) (w : Word) :
    KeepsWrite K (s.writeReg p a w) := by
  unfold State.writeReg
  split
  · exact KeepsWrite.of (hs) fun u hu => State.softReset_kept hs p w u hu
  split
  · exact KeepsWrite.of (hs) fun u hu => State.remoteReset_kept hs p w u hu
  split
  · exact KeepsWrite.of (hs) fun u hu => State.sleepWrite_kept hu p w
  split
  · exact State.writePp_kept hs _ _ _
  · exact KeepsWrite.of (State.writeHook_kept hs _ _) fun u hu => hu

theorem State.mgmtRead_kept {s : State} (hs : Keeps K s) (p : Path) (a : Nat) (sz : Nat) :
    Keeps K (State.mgmtRead s p a sz).2.2 := by
  unfold State.mgmtRead
  try dsimp only
  with_reducible repeat'
    (first
      | assumption | intro _ | apply Keeps.ite | apply State.readReg_kept | apply State.caseRead_kept | split)

theorem State.landWrite_kept {s : State} (hs : Keeps K s) (p : Path) (a sz : Nat) (w : Word) :
    KeepsWrite K (s.landWrite p a sz w) := by
  unfold State.landWrite
  extract_lets b
  clear_value b
  split
  · exact KeepsWrite.of (hs) fun u hu => hu
  split
  · exact KeepsWrite.of (Keeps.ite (State.writeShadow_kept hs _ _) hs) fun u hu => hu
  split
  · exact State.writeReg_kept hs _ _ _
  · exact KeepsWrite.of (State.imgWrite_kept hs _ _) fun u hu => hu
  · exact KeepsWrite.of (hs.setGalley (canonical_memWrite _ _ hs.9)) fun u hu => hu
  · exact KeepsWrite.of (State.bankWrite_kept hs _ _ _) fun u hu => hu
  · exact KeepsWrite.of (hs.setSram (canonical_memWrite _ _ hs.7)) fun u hu => hu
  · exact KeepsWrite.of (hs) fun u hu => hu
  · exact KeepsWrite.of (State.caseWrite_kept hs _ _ _) fun u hu => hu
  · exact KeepsWrite.of (hs) fun u hu => hu

theorem State.mgmtWrite_kept {s : State} (hs : Keeps K s) (p : Path) (a sz : Nat) (w : Word) :
    KeepsWrite K (s.mgmtWrite p a sz w) := by
  unfold State.mgmtWrite
  extract_lets st
  clear_value st
  split
  · exact KeepsWrite.of (State.refuseCustody_kept hs _ _) fun u hu => hu
  split
  · exact KeepsWrite.of (hs) fun u hu => hu
  · exact State.landWrite_kept hs _ _ _ _

theorem State.readWords_kept (p : Path) (k a : Nat) {s : State} (hs : Keeps K s) : Keeps K (State.readWords p k a s).2.2 := by
  induction k generalizing a s with
  | zero => exact hs
  | succ k ih =>
    have h := State.mgmtRead_kept hs p a 4
    unfold State.readWords
    dsimp only
    split
    · exact h
    · exact ih _ h

theorem State.writeWords_kept (p : Path) (ws : List Word) (a : Nat) {s : State} (hs : Keeps K s) :
    Keeps K (State.writeWords p ws a s).2.2.1 ∧ ∀ u, Keeps K u → Keeps K ((State.writeWords p ws a s).2.2.2 u) := by
  induction ws generalizing a s with
  | nil => exact ⟨hs, fun u hu => hu⟩
  | cons w ws ih =>
    obtain ⟨h, hg⟩ := State.mgmtWrite_kept hs p a 4 w
    unfold State.writeWords
    dsimp only
    split
    · exact ⟨h, hg⟩
    · obtain ⟨h', hg'⟩ := ih ((a + 4) % 2 ^ 32) h
      exact ⟨h', fun u hu => hg' _ (hg _ hu)⟩

theorem State.writeCmd_kept {s : State} (hs : Keeps K s) (p : Path) (a sz : Nat) (w : Word) (c : Instr) :
    Keeps K (s.writeCmd p a sz w c) := by
  unfold State.writeCmd
  refine State.ordered_kept hs _ _ _ _ fun s hs => ?_
  obtain ⟨h, hg⟩ := State.mgmtWrite_kept hs p a sz w
  exact hg _ (State.emit_kept h _)

theorem State.readCmd_kept {s : State} (hs : Keeps K s) (p : Path) (a : Nat) (sz : Nat) (c : Instr) :
    Keeps K (State.readCmd s p a sz c) := by
  unfold State.readCmd
  try dsimp only
  with_reducible repeat'
    (first
      | assumption | intro _ | apply Keeps.ite | apply State.ordered_kept | apply State.mgmtRead_kept | apply State.emit_kept
      | split)

theorem execRegisterWrite_kept (p : Path) (a : Word) (sz : Fin 3) (w : Word) {s : State} (hs : Keeps K s) :
    ∀ t, execRegisterWrite p a sz w s = .next t → Keeps K t := by
  unfold execRegisterWrite
  try dsimp only
  with_reducible repeat'
    (first
      | (intro t ht; injection ht with ht; subst ht) | assumption | intro _ | apply Keeps.ite | apply State.writeCmd_kept
      | split)

theorem execRcRead_kept (p : Path) (a : Word) (sz : Fin 3) {s : State} (hs : Keeps K s) :
    ∀ t, execRcRead p a sz s = .next t → Keeps K t := by
  unfold execRcRead
  try dsimp only
  with_reducible repeat'
    (first
      | (intro t ht; injection ht with ht; subst ht) | assumption | intro _ | apply Keeps.ite | apply State.readCmd_kept
      | split)

theorem execKeepAccessComplete_kept (p : Path) (a : Word) (w : Option Word) {s : State} (hs : Keeps K s) :
    ∀ t, execKeepAccessComplete p a w s = .next t → Keeps K t := by
  unfold execKeepAccessComplete
  try dsimp only
  with_reducible repeat'
    (first
      | (intro t ht; injection ht with ht; subst ht) | assumption | intro _ | apply Keeps.ite | apply State.writeCmd_kept
      | apply State.readCmd_kept | split)

theorem execPcieBarAccess_kept (bar2 : Bool) (ofs : BitVec 26) (sz : Fin 4) (w : Option Word) {s : State} (hs : Keeps K s) :
    ∀ t, execPcieBarAccess bar2 ofs sz w s = .next t → Keeps K t := by
  intro t ht
  unfold execPcieBarAccess at ht
  injection ht with ht
  subst ht
  refine Keeps.ite hs (State.ordered_kept hs _ _ _ _ fun s hs => ?_)
  split
  · exact State.emit_kept (Keeps.ite (State.mgmtRead_kept hs _ _ _) (State.aerReport_kept (State.mgmtRead_kept hs _ _ _) _ _)) _
  · rename_i w
    obtain ⟨h, hg⟩ := State.mgmtWrite_kept hs .pcie (ofs.toNat + (if bar2 then 2 ^ 31 else 0)) (2 ^ sz.val) w
    exact Keeps.ite (hg _ h) (Keeps.ite (State.emit_kept (State.aerReport_kept h _ _) _)
      (hg _ (State.emit_kept (State.gained_kept (State.log_kept h _ _ _ _) _ _) _)))

theorem State.setMg_kept {s : State} (hs : Keeps K s) (g : Mgmt → Mgmt) : Keeps K (State.setMg s g) := by
  unfold State.setMg
  exact hs.same rfl rfl rfl rfl rfl rfl rfl rfl rfl rfl rfl

theorem State.badPec_kept {s : State} (hs : Keeps K s) : Keeps K (State.badPec s) := by
  unfold State.badPec
  try dsimp only
  with_reducible repeat' (first | assumption | intro _ | apply Keeps.ite | apply State.setMg_kept | split)

theorem execSmbusWrite_kept (pecOk : Bool) (a : Word) (w : Word) {s : State} (hs : Keeps K s) :
    ∀ t, execSmbusWrite pecOk a w s = .next t → Keeps K t := by
  intro t ht
  unfold execSmbusWrite at ht
  injection ht with ht
  subst ht
  refine State.ordered_kept hs _ _ _ _ fun s hs => ?_
  obtain ⟨h, hg⟩ := State.mgmtWrite_kept hs .smbus a.toNat 4 w
  exact Keeps.ite (State.badPec_kept hs) (hg _ h)

theorem execSmbusSetAddress_kept (pecOk : Bool) (a : Word) {s : State} (hs : Keeps K s) :
    ∀ t, execSmbusSetAddress pecOk a s = .next t → Keeps K t := by
  unfold execSmbusSetAddress
  try dsimp only
  with_reducible repeat'
    (first
      | (intro t ht; injection ht with ht; subst ht) | assumption | intro _ | apply Keeps.ite | apply State.ordered_kept
      | apply State.badPec_kept | apply State.setMg_kept | split)

theorem execSmbusRead_kept (pecOk : Bool) {s : State} (hs : Keeps K s) : ∀ t, execSmbusRead pecOk s = .next t → Keeps K t := by
  unfold execSmbusRead
  try dsimp only
  with_reducible repeat'
    (first
      | (intro t ht; injection ht with ht; subst ht) | assumption | intro _ | apply Keeps.ite | apply State.ordered_kept
      | apply State.badPec_kept | apply State.usedFree_kept | apply State.setMg_kept | apply State.emit_kept
      | apply State.mgmtRead_kept | split)

theorem State.sendMt_kept {s : State} (hs : Keeps K s) (hub : Nat) (tunnel : Nat) (tag : Nat) (bs : List Byte) :
    Keeps K (State.sendMt s hub tunnel tag bs) := by
  unfold State.sendMt
  try dsimp only
  with_reducible repeat' (first | assumption | intro _ | apply Keeps.ite | apply State.presentAll_kept | split)

theorem State.takeMt_kept {s : State} (hs : Keeps K s) (tunnel : Nat) : Keeps K (State.takeMt s tunnel) := by
  unfold State.takeMt
  try dsimp only
  with_reducible repeat' (first | assumption | intro _ | apply Keeps.ite | apply State.setJn_kept | split)

theorem State.mtAnswer_kept {s : State} (hs : Keeps K s) (src : Nat) (u : List Byte) (status : Nat) (done : Nat) (data : List
    Word) : Keeps K (State.mtAnswer s src u status done data) := by
  unfold State.mtAnswer
  try dsimp only
  with_reducible repeat'
    (first
      | assumption | intro _ | apply Keeps.ite | apply State.usedFree_kept | apply State.sendMt_kept | split)

theorem execMtReadRequest_kept (src : Fin 2048) (u : List Byte) {s : State} (hs : Keeps K s) :
    ∀ t, execMtReadRequest src u s = .next t → Keeps K t := by
  unfold execMtReadRequest
  try dsimp only
  with_reducible repeat'
    (first
      | (intro t ht; injection ht with ht; subst ht) | assumption | intro _ | apply Keeps.ite | apply State.ordered_kept
      | apply State.takeMt_kept | apply State.mtAnswer_kept | apply State.readWords_kept | split)

theorem execMtWriteRequest_kept (src : Fin 2048) (u : List Byte) {s : State} (hs : Keeps K s) :
    ∀ t, execMtWriteRequest src u s = .next t → Keeps K t := by
  intro t ht
  unfold execMtWriteRequest at ht
  injection ht with ht
  subst ht
  refine Keeps.ite hs (State.ordered_kept hs _ _ _ _ fun s hs => ?_)
  have h := State.takeMt_kept hs 0xFD0
  obtain ⟨hw, hg⟩ := State.writeWords_kept (.tunnel src) (mtWords u (beAt u 8 2)) (beAt u 4 4) h
  exact Keeps.ite (State.mtAnswer_kept h _ _ _ _ _) (hg _ (State.mtAnswer_kept hw _ _ _ _ _))

theorem State.mtDone_kept {s : State} (hs : Keeps K s) (r : MtReq) (status : Nat) (done : Nat) (ws : List Word) :
    Keeps K (State.mtDone s r status done ws) := by
  unfold State.mtDone
  try dsimp only
  with_reducible repeat'
    (first
      | assumption | intro _ | apply Keeps.ite | apply State.setMg_kept | apply State.svcReply_kept | split)

theorem execMtReply_kept (src : Fin 2048) (u : List Byte) {s : State} (hs : Keeps K s) :
    ∀ t, execMtReply src u s = .next t → Keeps K t := by
  unfold execMtReply
  try dsimp only
  with_reducible repeat'
    (first
      | (intro t ht; injection ht with ht; subst ht) | assumption | intro _ | apply Keeps.ite | apply State.takeMt_kept
      | apply State.mtDone_kept | split)

theorem execMtTimeout_kept (tag : BitVec 16) {s : State} (hs : Keeps K s) : ∀ t, execMtTimeout tag s = .next t → Keeps K t := by
  unfold execMtTimeout
  try dsimp only
  with_reducible repeat'
    (first
      | (intro t ht; injection ht with ht; subst ht) | assumption | intro _ | apply Keeps.ite | apply State.mtDone_kept | split)

theorem State.svcForward_kept {s : State} (hs : Keeps K s) (c : Nat) (data : List Word) :
    Keeps K (State.svcForward s c data) := by
  unfold State.svcForward
  try dsimp only
  with_reducible repeat'
    (first
      | assumption | intro _ | apply Keeps.ite | apply State.usedFree_kept | apply State.setMg_kept | apply State.sendMt_kept
      | split)

theorem State.svcReadHere_kept {s : State} (hs : Keeps K s) (c : Nat) : Keeps K (s.svcReadHere c) :=
  State.svcReply_kept (State.readWords_kept _ _ _ hs) _ _ _ _

theorem execSvcRead_kept (c : ChanNo) {s : State} (hs : Keeps K s) : ∀ t, execSvcRead c s = .next t → Keeps K t := by
  unfold execSvcRead
  try dsimp only
  with_reducible repeat'
    (first
      | (intro t ht; injection ht with ht; subst ht) | assumption | intro _ | apply Keeps.ite | apply State.ordered_kept
      | apply State.setChan_kept | apply State.svcReadHere_kept | apply State.svcForward_kept | split)

theorem State.svcWriteHere_kept {s : State} (hs : Keeps K s) (c : Nat) : Keeps K (s.svcWriteHere c) := by
  obtain ⟨h, hg⟩ := State.writeWords_kept .usb (s.reqWords c) (s.reqNat c 8 4) hs
  exact hg _ (State.svcReply_kept h _ _ _ _)

theorem execSvcWrite_kept (c : ChanNo) {s : State} (hs : Keeps K s) : ∀ t, execSvcWrite c s = .next t → Keeps K t := by
  unfold execSvcWrite
  try dsimp only
  with_reducible repeat'
    (first
      | (intro t ht; injection ht with ht; subst ht) | assumption | intro _ | apply Keeps.ite | apply State.ordered_kept
      | apply State.setChan_kept | apply State.svcWriteHere_kept | apply State.svcForward_kept | split)

theorem execPostListWrite_kept {s : State} (hs : Keeps K s) : ∀ t, execPostListWrite s = .next t → Keeps K t := by
  intro t ht
  unfold execPostListWrite at ht
  injection ht with ht
  subst ht
  refine Keeps.ite (State.each_kept (State.setFc_kept hs _) _ _ fun e s hs => State.ordered_kept hs _ _ _ _ fun s hs => ?_) hs
  obtain ⟨h, hg⟩ := State.mgmtWrite_kept hs (.engine 0) e.1 4 e.2
  exact hg _ h

end Sys2Proof.Machine
end

