-- ==== Sys2Proof/Laws/KeptReset.lean ====
section
/-! SUPPORT. What no command disturbs, in resets and the Milestone boundary: one lemma for each operation and each command. -/

set_option linter.unreachableTactic false
set_option linter.unusedTactic false

namespace Sys2Proof.Machine

variable {K : Mark}

theorem State.setPhase_kept {s : State} (hs : Keeps K s) (k : Nat) : Keeps K (State.setPhase s k) := by
  unfold State.setPhase
  try dsimp only
  with_reducible repeat' (first | assumption | intro _ | apply Keeps.ite | apply State.put_kept | split)

theorem execPorKeep_kept {s : State} (hs : Keeps K s) : ∀ t, execPorKeep s = .next t → Keeps K t := by
  intro t ht
  unfold execPorKeep at ht
  extract_lets otp r1 t1 at ht
  injection ht with ht
  subst ht
  have h1 : Keeps K t1 :=
    ⟨hs.1, hs.2, hs.3, canonical_filter _ hs.4, canonical_nil _, canonical_nil _, canonical_nil _, canonical_nil _,
      canonical_nil _, canonical_nil _, hs.11⟩
  clear_value t1
  exact State.put_kept (State.put_kept (State.put_kept (State.put_kept h1 _ _) _ _) _ _) _ _

theorem execKeepOscStable_kept {s : State} (hs : Keeps K s) : ∀ t, execKeepOscStable s = .next t → Keeps K t := by
  unfold execKeepOscStable
  try dsimp only
  with_reducible repeat'
    (first
      | (intro t ht; injection ht with ht; subst ht) | assumption | intro _ | apply Keeps.ite | apply State.setPhase_kept
      | apply State.setRs_kept | split)

theorem State.chipTrim_kept {s : State} (hs : Keeps K s) (vid : Nat) (maker : Nat) (factor : BitVec 16) :
    Keeps K (State.chipTrim s vid maker factor) := by
  unfold State.chipTrim
  try dsimp only
  with_reducible repeat'
    (first
      | assumption | intro _ | apply Keeps.ite | apply State.put_kept | apply State.putShadow_kept | apply State.setRs_kept
      | split)

theorem State.boardTrim_kept {s : State} (hs : Keeps K s) (conv : Nat) (rsns : Nat → Nat) :
    Keeps K (State.boardTrim s conv rsns) := by
  unfold State.boardTrim
  try dsimp only
  with_reducible repeat'
    (first
      | assumption | intro _ | apply Keeps.ite | apply State.each_kept | apply State.put_kept | apply State.setPw_kept | split)

theorem State.trimNext_kept {s : State} (hs : Keeps K s) : Keeps K (State.trimNext s) := by
  unfold State.trimNext
  try dsimp only
  with_reducible repeat'
    (first
      | assumption | intro _ | apply Keeps.ite | apply State.setRs_kept | apply State.setPhase_kept | split)

theorem State.trimFail_kept {s : State} (hs : Keeps K s) : Keeps K (State.trimFail s) := by
  unfold State.trimFail
  try dsimp only
  with_reducible repeat'
    (first
      | assumption | intro _ | apply Keeps.ite | apply State.put_kept | apply State.setRs_kept | apply State.cairnBit_kept
      | apply State.chipTrim_kept | apply State.trimNext_kept | apply State.boardTrim_kept | split)

theorem execTrimLoad_kept (good : Bool) (chip : ChipTrim) (conv : BitVec 6) (rsnsLow : BitVec 40) (rsnsHigh : BitVec 40) {s :
    State} (hs : Keeps K s) : ∀ t, execTrimLoad good chip conv rsnsLow rsnsHigh s = .next t → Keeps K t := by
  unfold execTrimLoad
  try dsimp only
  with_reducible repeat'
    (first
      | (intro t ht; injection ht with ht; subst ht) | assumption | intro _ | apply Keeps.ite | apply State.trimFail_kept
      | apply State.put_kept | apply State.chipTrim_kept | apply State.trimNext_kept | apply State.boardTrim_kept | split)

theorem State.takeStrap_kept {s : State} (hs : Keeps K s) (code : Nat) : Keeps K (State.takeStrap s code) := by
  unfold State.takeStrap
  try dsimp only
  with_reducible repeat'
    (first
      | assumption | intro _ | apply Keeps.ite | apply State.put_kept | apply State.each_kept | apply State.when_kept
      | apply State.setPhase_kept | apply State.railsStart_kept | split)

theorem execStrapMeasure_kept (r0 : BitVec 16) (r1 : BitVec 16) (r2 : BitVec 16) (r3 : BitVec 16) {s : State} (hs : Keeps K s) :
    ∀ t, execStrapMeasure r0 r1 r2 r3 s = .next t → Keeps K t := by
  unfold execStrapMeasure
  try dsimp only
  with_reducible repeat'
    (first
      | (intro t ht; injection ht with ht; subst ht) | assumption | intro _ | apply Keeps.ite | apply State.put_kept
      | apply State.takeStrap_kept | split)

theorem State.startTime_kept {s : State} (hs : Keeps K s) : Keeps K (State.startTime s) := by
  unfold State.startTime
  try dsimp only
  with_reducible repeat'
    (first
      | assumption | intro _ | apply Keeps.ite | apply State.setTm_kept | apply State.put_kept | apply State.raise_kept | split)

theorem State.reRepair_kept {s : State} (hs : Keeps K s) : Keeps K (State.reRepair s) := by
  unfold State.reRepair
  try dsimp only
  with_reducible repeat'
    (first
      | assumption | intro _ | apply Keeps.ite | apply State.each_kept | apply State.setSvc_kept | split)

theorem execCoreRelease_kept {s : State} (hs : Keeps K s) : ∀ t, execCoreRelease s = .next t → Keeps K t := by
  unfold execCoreRelease
  try dsimp only
  with_reducible repeat'
    (first
      | (intro t ht; injection ht with ht; subst ht) | assumption | intro _ | apply Keeps.ite | apply State.put_kept
      | apply State.startTime_kept | apply State.reRepair_kept | apply State.formeLoad_kept | split)

theorem State.endEscalation_kept {s : State} (hs : Keeps K s) : Keeps K (State.endEscalation s) := by
  unfold State.endEscalation
  try dsimp only
  with_reducible repeat'
    (first
      | assumption | intro _ | apply Keeps.ite | apply State.when_kept | apply State.setPw_kept | apply State.put_kept | split)

theorem execBor_kept (idx : Fin 7) {s : State} (hs : Keeps K s) : ∀ t, execBor idx s = .next t → Keeps K t := by
  unfold execBor
  try dsimp only
  with_reducible repeat'
    (first
      | (intro t ht; injection ht with ht; subst ht) | assumption | intro _ | apply Keeps.ite | apply State.endEscalation_kept
      | apply State.railsOff_kept | apply State.decideReset_kept | split)

theorem execXrst_kept {s : State} (hs : Keeps K s) : ∀ t, execXrst s = .next t → Keeps K t := by
  unfold execXrst
  try dsimp only
  with_reducible repeat'
    (first
      | (intro t ht; injection ht with ht; subst ht) | assumption | intro _ | apply Keeps.ite | apply State.setRs_kept
      | apply State.when_kept | apply State.put_kept | apply State.endEscalation_kept | apply State.decideReset_kept | split)

theorem execXrstRelease_kept {s : State} (hs : Keeps K s) : ∀ t, execXrstRelease s = .next t → Keeps K t := by
  unfold execXrstRelease
  try dsimp only
  with_reducible repeat'
    (first
      | (intro t ht; injection ht with ht; subst ht) | assumption | intro _ | apply Keeps.ite | apply State.setRs_kept | split)

theorem execTherm_kept (x : TempReading) {s : State} (hs : Keeps K s) : ∀ t, execTherm x s = .next t → Keeps K t := by
  unfold execTherm
  try dsimp only
  with_reducible repeat'
    (first
      | (intro t ht; injection ht with ht; subst ht) | assumption | intro _ | apply Keeps.ite | apply State.endEscalation_kept
      | apply State.railsOff_kept | apply State.decideReset_kept | apply State.setPhase_kept | apply State.setPw_kept | split)

theorem execThermRestart_kept {s : State} (hs : Keeps K s) : ∀ t, execThermRestart s = .next t → Keeps K t := by
  unfold execThermRestart
  try dsimp only
  with_reducible repeat'
    (first
      | (intro t ht; injection ht with ht; subst ht) | assumption | intro _ | apply Keeps.ite | apply State.setPhase_kept
      | apply State.setRs_kept | split)

theorem State.warmRegs_kept {s : State} (hs : Keeps K s) : Keeps K (State.warmRegs s) := by
  unfold State.warmRegs
  try dsimp only
  with_reducible repeat'
    (first
      | assumption | intro _ | apply Keeps.ite | apply State.each_kept | apply State.setReg_kept | apply State.put_kept | split)

theorem State.warmUnits_kept {s : State} (hs : Keeps K s) : Keeps K s.warmUnits :=
  ⟨hs.1, hs.2, hs.3, hs.4, canonical_nil _, hs.6, hs.7, hs.8, canonical_nil _, canonical_nil _, hs.11⟩

theorem State.warmApply_kept {s : State} (hs : Keeps K s) : Keeps K (State.warmApply s) := by
  unfold State.warmApply
  try dsimp only
  with_reducible repeat'
    (first
      | assumption | intro _ | apply Keeps.ite | apply State.lbQuiesce_kept | apply State.dockReset_kept
      | apply State.warmRegs_kept | apply State.warmUnits_kept | apply State.setToken_kept | apply State.setPhase_kept
      | apply State.when_kept | apply State.vcKeep_kept | split)

theorem execWarmReset_kept {s : State} (hs : Keeps K s) : ∀ t, execWarmReset s = .next t → Keeps K t := by
  unfold execWarmReset
  try dsimp only
  with_reducible repeat'
    (first
      | (intro t ht; injection ht with ht; subst ht) | assumption | intro _ | apply Keeps.ite | apply State.warmApply_kept
      | split)

theorem State.warmPort_kept {s : State} (hs : Keeps K s) (p : Nat) : Keeps K (State.warmPort s p) := by
  unfold State.warmPort
  try dsimp only
  with_reducible repeat' (first | assumption | intro _ | apply Keeps.ite | apply State.enterState_kept | split)

theorem State.warmEngine_kept {s : State} (hs : Keeps K s) (n : Nat) : Keeps K (State.warmEngine s n) := by
  unfold State.warmEngine
  try dsimp only
  with_reducible repeat'
    (first
      | assumption | intro _ | apply Keeps.ite | apply State.takeRole_kept | apply State.engStart_kept | split)

theorem State.warmFinish_kept {s : State} (hs : Keeps K s) : Keeps K (State.warmFinish s) := by
  unfold State.warmFinish
  try dsimp only
  with_reducible repeat'
    (first
      | assumption | intro _ | apply Keeps.ite | apply State.each_kept | apply State.copyBank_kept | apply State.warmEngine_kept
      | apply State.warmPort_kept | apply State.startBridge_kept | apply State.sbDrive_kept | apply State.wmReplan_kept
      | apply State.displayLockup_kept | apply State.pxLockup_kept | apply State.dockLockup_kept | apply State.ethLockup_kept
      | apply State.setPhase_kept | apply State.setRs_kept | apply State.driveInt_kept | apply State.revertTrigger_kept | split)

theorem execWarmResetRelease_kept {s : State} (hs : Keeps K s) : ∀ t, execWarmResetRelease s = .next t → Keeps K t := by
  unfold execWarmResetRelease
  try dsimp only
  with_reducible repeat'
    (first
      | (intro t ht; injection ht with ht; subst ht) | assumption | intro _ | apply Keeps.ite | apply State.setRs_kept
      | apply State.warmFinish_kept | split)

theorem State.restoreReg_kept {s : State} (hs : Keeps K s) (a : Nat) (w : Word) : Keeps K (State.restoreReg s a w) := by
  unfold State.restoreReg
  try dsimp only
  with_reducible repeat' (first | assumption | intro _ | apply Keeps.ite | apply State.each_kept | apply State.put_kept | split)

theorem State.restoreRecord_kept {s : State} (hs : Keeps K s) (r : Retained) : Keeps K (s.restoreRecord r) := by
  unfold State.restoreRecord
  dsimp only
  refine State.setRs_kept (State.copyActive_kept (State.each_kept (State.setFc_kept (State.each_kept hs _ _ fun e s hs =>
    State.restoreReg_kept hs _ _) _) _ _ fun e s hs => ?_)) _
  obtain ⟨h, hg⟩ := State.mgmtWrite_kept hs (.engine 0) e.1 4 e.2
  exact hg _ h

theorem execRetainedRecordRestore_kept (crcOk : Bool) {s : State} (hs : Keeps K s) :
    ∀ t, execRetainedRecordRestore crcOk s = .next t → Keeps K t := by
  unfold execRetainedRecordRestore
  try dsimp only
  with_reducible repeat'
    (first
      | (intro t ht; injection ht with ht; subst ht) | assumption | intro _ | apply Keeps.ite | apply State.cairn_kept
      | apply State.coldReset_kept | apply State.restoreRecord_kept | apply State.warmFinish_kept | split)

theorem State.paceBoundary_kept {s : State} (hs : Keeps K s) : Keeps K (State.paceBoundary s) := by
  unfold State.paceBoundary
  try dsimp only
  with_reducible repeat'
    (first
      | assumption | intro _ | apply Keeps.ite | apply State.setPace_kept | apply State.put_kept | split)

theorem State.missBeacon_kept {s : State} (hs : Keeps K s) (p : Nat) : Keeps K (State.missBeacon s p) := by
  unfold State.missBeacon
  try dsimp only
  with_reducible repeat'
    (first
      | assumption | intro _ | apply Keeps.ite | apply State.setLink_kept | apply State.inc_kept | apply State.setLState_kept
      | apply State.raise_kept | split)

theorem State.linkWatch_kept {s : State} (hs : Keeps K s) (p : Nat) (k : Nat) : Keeps K (State.linkWatch s p k) := by
  unfold State.linkWatch
  try dsimp only
  with_reducible repeat'
    (first
      | assumption | intro _ | apply Keeps.ite | apply State.setLink_kept | apply State.setLState_kept | apply State.raise_kept
      | apply State.rejoinDue_kept | apply State.returnMember_kept | apply State.missBeacon_kept | split)

theorem State.linkBoundary_kept {s : State} (hs : Keeps K s) (p : Nat) (k : Nat) : Keeps K (State.linkBoundary s p k) := by
  unfold State.linkBoundary
  try dsimp only
  with_reducible repeat'
    (first
      | assumption | intro _ | apply Keeps.ite | apply State.when_kept | apply State.sendBeacon_kept
      | apply State.linkWatch_kept | apply State.setLink_kept | split)

theorem State.firstIdentity_kept {s : State} (hs : Keeps K s) : Keeps K (State.firstIdentity s) := by
  unfold State.firstIdentity
  try dsimp only
  with_reducible repeat' (first | assumption | intro _ | apply Keeps.ite | apply State.put_kept | split)

theorem State.takeHubRole_kept {s : State} (hs : Keeps K s) (inc : Nat) : Keeps K (State.takeHubRole s inc) := by
  unfold State.takeHubRole
  try dsimp only
  with_reducible repeat'
    (first
      | assumption | intro _ | apply Keeps.ite | apply State.put_kept | apply State.firstIdentity_kept
      | apply State.applyInc_kept | apply State.each_kept | apply State.sendInc_kept | apply State.fenceOvertaken_kept
      | apply State.helloAll_kept | apply State.raise_kept | apply State.when_kept | apply State.freeBlock_kept | split)

theorem State.takeover_kept {s : State} (hs : Keeps K s) : Keeps K (State.takeover s) := by
  unfold State.takeover
  try dsimp only
  with_reducible repeat'
    (first
      | assumption | intro _ | apply Keeps.ite | apply State.takeHubRole_kept | apply State.raise_kept | split)

theorem State.newLossless_kept {s : State} (hs : Keeps K s) (old : Nat) : Keeps K (State.newLossless s old) := by
  unfold State.newLossless
  try dsimp only
  with_reducible repeat'
    (first
      | assumption | intro _ | apply Keeps.ite | apply State.each_kept | apply State.setJn_kept | apply State.put_kept
      | apply State.raise_kept | split)

theorem State.lockup_kept {s : State} (hs : Keeps K s) : Keeps K (State.lockup s) := by
  unfold State.lockup
  try dsimp only
  with_reducible repeat'
    (first
      | assumption | intro _ | apply Keeps.ite | apply State.each_kept | apply State.roleMove_kept | apply State.lockForme_kept
      | apply State.firstIdentity_kept | apply State.takeover_kept | apply State.abortTests_kept | apply State.newLossless_kept
      | apply State.displayLockup_kept | apply State.pxLockup_kept | apply State.lbLockup_kept | apply State.dockLockup_kept
      | apply State.ethLockup_kept | apply State.chooseParent_kept | apply State.spEnable_kept | apply State.engLockup_kept
      | apply State.latch_kept | apply State.reroute_kept | apply State.when_kept | apply State.setPhase_kept | split)

theorem State.lockupDue_kept {s : State} (hs : Keeps K s) (k : Nat) : Keeps K (State.lockupDue s k) := by
  unfold State.lockupDue
  try dsimp only
  with_reducible repeat'
    (first
      | assumption | intro _ | apply Keeps.ite | apply State.deferArm_kept | apply State.lockup_kept | split)

theorem State.custodyWatch_kept {s : State} (hs : Keeps K s) : Keeps K (State.custodyWatch s) := by
  unfold State.custodyWatch
  try dsimp only
  with_reducible repeat'
    (first
      | assumption | intro _ | apply Keeps.ite | apply State.setFc_kept | apply State.revertTrigger_kept | split)

theorem State.boundaryCounts_kept {s : State} (hs : Keeps K s) : Keeps K (State.boundaryCounts s) := by
  unfold State.boundaryCounts
  try dsimp only
  with_reducible repeat'
    (first
      | assumption | intro _ | apply Keeps.ite | apply State.when_kept | apply State.put_kept | apply State.custodyWatch_kept
      | apply State.setPw_kept | apply State.setRs_kept | split)

theorem State.takeBoundary_kept {s : State} (hs : Keeps K s) (k : Nat) : Keeps K (State.takeBoundary s k) := by
  unfold State.takeBoundary
  try dsimp only
  with_reducible repeat'
    (first
      | assumption | intro _ | apply Keeps.ite | apply State.setImp_kept | apply State.put_kept
      | apply State.boundaryCounts_kept | apply State.paceBoundary_kept | apply State.lockupDue_kept | apply State.each_kept
      | apply State.engBoundary_kept | apply State.linkBoundary_kept | apply State.impBoundary_kept
      | apply State.pxMilestone_kept | apply State.partnerDrain_kept | apply State.lbMilestone_kept
      | apply State.proofMilestone_kept | apply State.eventMessages_kept | split)

theorem execMilestoneBoundary_kept {s : State} (hs : Keeps K s) : ∀ t, execMilestoneBoundary s = .next t → Keeps K t := by
  unfold execMilestoneBoundary
  try dsimp only
  with_reducible repeat'
    (first
      | (intro t ht; injection ht with ht; subst ht) | assumption | intro _ | apply Keeps.ite | apply State.takeBoundary_kept
      | apply State.inc_kept | apply State.raise_kept | apply State.when_kept | apply State.deferArm_kept | split)

/-- Registers that take their shadow values stay in canonical form, whatever the shadow. -/
theorem State.flipReg_regs {s : State} (h : canonical regReset s.regs = true) (a : Nat) : canonical regReset (s.flipReg a).regs
    = true := by
  unfold State.flipReg
  split
  · exact h
  · unfold State.each
    generalize List.filter _ _ = l
    induction l generalizing s with
    | nil => exact h
    | cons f l ih => exact ih (canonical_tput_at _ _ h)

/-- Taking shadow values changes registers only. -/
theorem State.flipReg_eq (s : State) (a : Nat) : s.flipReg a = { s with regs := (s.flipReg a).regs } := by
  unfold State.flipReg
  split
  · rfl
  · unfold State.each
    generalize List.filter _ _ = l
    induction l generalizing s with
    | nil => rfl
    | cons f l ih => exact (ih _).trans rfl

theorem State.keepFlip_kept {s : State} (hs : Keeps K s) (a : Nat) : Keeps K (s.keepFlip a) := by
  unfold State.keepFlip
  extract_lets n t u
  have hu : Keeps K u := by
    have h := State.flipReg_regs (s := { s with shadow := s.fc.keepFh }) hs.4 a
    have e := State.flipReg_eq { s with shadow := s.fc.keepFh } a
    show Keeps K ({ t with shadow := s.shadow } : State)
    rw [show t = State.flipReg { s with shadow := s.fc.keepFh } a from rfl, e]
    exact ⟨hs.1, hs.2, hs.3, h, hs.5, hs.6, hs.7, hs.8, hs.9, hs.10, hs.11⟩
  exact Keeps.ite (State.raise_kept (State.logKeep_kept (State.put_kept hu _ _) _ _ _ _) _) hu

theorem State.keepApply_kept {s : State} (hs : Keeps K s) : Keeps K (State.keepApply s) := by
  unfold State.keepApply
  try dsimp only
  with_reducible repeat'
    (first
      | assumption | intro _ | apply Keeps.ite | apply State.setFc_kept | apply State.each_kept | apply State.keepFlip_kept
      | apply State.ppEval_kept | apply State.selectFeed_kept | apply State.cablePolicy_kept | apply State.charger_kept | split)

theorem execKeepFhApply_kept {s : State} (hs : Keeps K s) : ∀ t, execKeepFhApply s = .next t → Keeps K t := by
  unfold execKeepFhApply
  try dsimp only
  with_reducible repeat'
    (first
      | (intro t ht; injection ht with ht; subst ht) | assumption | intro _ | apply Keeps.ite | apply State.keepApply_kept
      | split)

theorem execShadowCopyDone_kept {s : State} (hs : Keeps K s) : ∀ t, execShadowCopyDone s = .next t → Keeps K t := by
  unfold execShadowCopyDone
  try dsimp only
  with_reducible repeat'
    (first
      | (intro t ht; injection ht with ht; subst ht) | assumption | intro _ | apply Keeps.ite | apply State.keepApply_kept
      | apply State.copyActive_kept | apply State.setFc_kept | split)

theorem State.runHeld_kept {s : State} (hs : Keeps K s) (c : Instr) : ∀ t, s.runHeld c = .next t → Keeps K t := by
  unfold State.runHeld
  split
  · exact execRegisterWrite_kept _ _ _ _ hs
  · exact execRcRead_kept _ _ _ hs
  · exact execKeepAccessComplete_kept _ _ _ hs
  · exact execPcieBarAccess_kept _ _ _ _ hs
  · exact execSmbusWrite_kept _ _ _ hs
  · exact execSmbusSetAddress_kept _ _ hs
  · exact execSmbusRead_kept _ hs
  · exact execMtReadRequest_kept _ _ hs
  · exact execMtWriteRequest_kept _ _ hs
  · exact execSvcRead_kept _ hs
  · exact execSvcWrite_kept _ hs
  · exact execTimeReadLatch_kept _ hs
  · exact execCapPop_kept _ _ hs
  · exact execSofPop_kept _ hs
  · exact execLoad_kept _ _ _ hs
  · exact execRestart_kept _ _ hs
  · exact execRetire_kept _ _ hs
  · exact execArm_kept _ _ hs
  · exact execDisarm_kept _ hs
  · exact execStage_kept _ _ hs
  · exact execVerify_kept _ _ hs
  · exact execShadowReset_kept _ hs
  · exact execCommit_kept _ hs
  · exact execRevert_kept _ hs
  · exact execMark_kept _ _ _ hs
  · exact execClrAttempts_kept _ hs
  · exact execFlashCommand_kept _ _ hs
  · exact execProg_kept _ _ hs
  · exact execRevoke_kept _ _ hs
  · exact execSoftWarm_kept _ _ hs
  · exact execSoftCold_kept _ _ hs
  · exact execRstNonce_kept _ hs
  · exact execRstRemote_kept _ _ hs
  · exact execBlockHold_kept _ _ hs
  · exact execBlockRelease_kept _ _ hs
  · exact execKeepSleepWrite_kept _ _ hs
  · exact execRearm_kept _ _ _ hs
  · exact execOnReq_kept _ _ _ hs
  · intro t ht
    injection ht with ht
    exact ht ▸ hs

theorem Result.state_kept {r : Result} {s : State} (hs : Keeps K s) (hr :
    ∀ t, r = .next t → Keeps K t) : Keeps K (Result.state r s) := by
  unfold Result.state
  split
  · exact hr _ rfl
  · exact hs

theorem State.makeHeld_kept {s : State} (hs : Keeps K s) (c : Instr) : Keeps K (s.makeHeld c) := by
  unfold State.makeHeld
  extract_lets rest s1 t
  have h1 : Keeps K s1 := State.setFc_kept hs _
  have ht : Keeps K t := Result.state_kept h1 (State.runHeld_kept h1 c)
  exact Keeps.ite (State.setFc_kept ht _) ht

theorem execShadowWriteRelease_kept {s : State} (hs : Keeps K s) : ∀ t, execShadowWriteRelease s = .next t → Keeps K t := by
  intro t ht
  unfold execShadowWriteRelease at ht
  injection ht with ht
  subst ht
  split
  · exact hs
  · split
    · exact hs
    · exact State.each_kept (State.setFc_kept hs _) _ _ fun e s hs => State.when_kept hs _ _ fun s hs => State.makeHeld_kept hs
        _

theorem State.holdAdapters_kept {s : State} (hs : Keeps K s) : Keeps K (State.holdAdapters s) := by
  unfold State.holdAdapters
  try dsimp only
  with_reducible repeat'
    (first
      | assumption | intro _ | apply Keeps.ite | apply State.each_kept | apply State.holdBlock_kept | split)

theorem State.rejoin_kept {s : State} (hs : Keeps K s) (p : Nat) (takeId : Option (Fin 2048)) (minInc : Nat) :
    Keeps K (State.rejoin s p takeId minInc) := by
  unfold State.rejoin
  try dsimp only
  with_reducible repeat'
    (first
      | assumption | intro _ | apply Keeps.ite | apply State.put_kept | apply State.raise_kept | apply State.helloAll_kept
      | apply State.holdAdapters_kept | apply State.each_kept | apply State.judgeHello_kept | split)

theorem execRejoinRx_kept (p : Port) (takeId : Option (Fin 2048)) (minInc : BitVec 16) (roleId : Fin 2048) (_roleInc : BitVec
    16) {s : State} (hs : Keeps K s) : ∀ t, execRejoinRx p takeId minInc roleId _roleInc s = .next t → Keeps K t := by
  unfold execRejoinRx
  try dsimp only
  with_reducible repeat'
    (first
      | (intro t ht; injection ht with ht; subst ht) | assumption | intro _ | apply Keeps.ite | apply State.rejoin_kept | split)

end Sys2Proof.Machine
end

