-- ==== Sys2Proof/Laws/KeptEngine.lean ====
section
/-! SUPPORT. What no command disturbs, in the engines and their instructions: one lemma for each operation and each command. -/

set_option linter.unreachableTactic false
set_option linter.unusedTactic false

namespace Sys2Proof.Machine

variable {K : Mark}

theorem State.setG_kept {s : State} (hs : Keeps K s) (n : Nat) (k : GReg) (w : Word) : Keeps K (State.setG s n k w) := by
  unfold State.setG
  try dsimp only
  with_reducible repeat' (first | assumption | intro _ | apply Keeps.ite | apply State.setEngine_kept | split)

theorem State.engCount_kept {s : State} (hs : Keeps K s) (n : Nat) : Keeps K (State.engCount s n) := by
  unfold State.engCount
  try dsimp only
  with_reducible repeat'
    (first
      | assumption | intro _ | apply Keeps.ite | apply State.setEngine_kept | apply State.inc_kept | split)

theorem State.engDone_kept {s : State} (hs : Keeps K s) (n : Nat) : Keeps K (State.engDone s n) := by
  unfold State.engDone
  try dsimp only
  with_reducible repeat'
    (first
      | assumption | intro _ | apply Keeps.ite | apply State.engCount_kept | apply State.pcNext_kept | split)

theorem State.engRun_kept {s : State} (hs : Keeps K s) (n : EngNo) (ecc : Ecc) (f : State → State) (hf : ∀ s, Keeps K s → Keeps
    K (f s)) :
    ∀ t, s.engRun n ecc f = .next t → Keeps K t := by
  intro t ht
  unfold State.engRun at ht
  injection ht with ht
  subst ht
  have h := State.rowCorrected_kept hs (s.fetchRow n.val)
  split
  · exact hs
  · split
    · exact State.rowUncorrectable_kept (State.engineFault_kept hs _ _) _
    · exact Keeps.ite (hf _ h) h
    · exact hf _ hs

theorem State.engAlu_kept {s : State} (hs : Keeps K s) (n : EngNo) (ecc : Ecc) (rd : GReg) (v : State → Word) :
    ∀ t, s.engAlu n ecc rd v = .next t → Keeps K t :=
  State.engRun_kept hs _ _ _ fun _ hs => State.setG_kept (State.engDone_kept hs _) _ _ _

theorem State.engOp3_kept {s : State} (hs : Keeps K s) (n : EngNo) (ecc : Ecc) (rd ra rb : GReg) (f : Word → Word → Word) :
    ∀ t, s.engOp3 n ecc rd ra rb f = .next t → Keeps K t := State.engAlu_kept hs _ _ _ _

theorem State.engOpI_kept {s : State} (hs : Keeps K s) (n : EngNo) (ecc : Ecc) (rd ra : GReg) (imm : BitVec 18) (f : Word →
    Word → Word) :
    ∀ t, s.engOpI n ecc rd ra imm f = .next t → Keeps K t := State.engAlu_kept hs _ _ _ _

theorem execAdd_kept (n : EngNo) (ecc : Ecc) (rd : GReg) (ra : GReg) (rb : GReg) {s : State} (hs : Keeps K s) :
    ∀ t, execAdd n ecc rd ra rb s = .next t → Keeps K t :=
  State.engOp3_kept hs _ _ _ _ _ _

theorem execSub_kept (n : EngNo) (ecc : Ecc) (rd : GReg) (ra : GReg) (rb : GReg) {s : State} (hs : Keeps K s) :
    ∀ t, execSub n ecc rd ra rb s = .next t → Keeps K t :=
  State.engOp3_kept hs _ _ _ _ _ _

theorem execAnd_kept (n : EngNo) (ecc : Ecc) (rd : GReg) (ra : GReg) (rb : GReg) {s : State} (hs : Keeps K s) :
    ∀ t, execAnd n ecc rd ra rb s = .next t → Keeps K t :=
  State.engOp3_kept hs _ _ _ _ _ _

theorem execOr_kept (n : EngNo) (ecc : Ecc) (rd : GReg) (ra : GReg) (rb : GReg) {s : State} (hs : Keeps K s) :
    ∀ t, execOr n ecc rd ra rb s = .next t → Keeps K t :=
  State.engOp3_kept hs _ _ _ _ _ _

theorem execXor_kept (n : EngNo) (ecc : Ecc) (rd : GReg) (ra : GReg) (rb : GReg) {s : State} (hs : Keeps K s) :
    ∀ t, execXor n ecc rd ra rb s = .next t → Keeps K t :=
  State.engOp3_kept hs _ _ _ _ _ _

theorem execSll_kept (n : EngNo) (ecc : Ecc) (rd : GReg) (ra : GReg) (rb : GReg) {s : State} (hs : Keeps K s) :
    ∀ t, execSll n ecc rd ra rb s = .next t → Keeps K t :=
  State.engOp3_kept hs _ _ _ _ _ _

theorem execSrl_kept (n : EngNo) (ecc : Ecc) (rd : GReg) (ra : GReg) (rb : GReg) {s : State} (hs : Keeps K s) :
    ∀ t, execSrl n ecc rd ra rb s = .next t → Keeps K t :=
  State.engOp3_kept hs _ _ _ _ _ _

theorem execSra_kept (n : EngNo) (ecc : Ecc) (rd : GReg) (ra : GReg) (rb : GReg) {s : State} (hs : Keeps K s) :
    ∀ t, execSra n ecc rd ra rb s = .next t → Keeps K t :=
  State.engOp3_kept hs _ _ _ _ _ _

theorem execSlt_kept (n : EngNo) (ecc : Ecc) (rd : GReg) (ra : GReg) (rb : GReg) {s : State} (hs : Keeps K s) :
    ∀ t, execSlt n ecc rd ra rb s = .next t → Keeps K t :=
  State.engOp3_kept hs _ _ _ _ _ _

theorem execSltu_kept (n : EngNo) (ecc : Ecc) (rd : GReg) (ra : GReg) (rb : GReg) {s : State} (hs : Keeps K s) :
    ∀ t, execSltu n ecc rd ra rb s = .next t → Keeps K t :=
  State.engOp3_kept hs _ _ _ _ _ _

theorem execMul_kept (n : EngNo) (ecc : Ecc) (rd : GReg) (ra : GReg) (rb : GReg) {s : State} (hs : Keeps K s) :
    ∀ t, execMul n ecc rd ra rb s = .next t → Keeps K t :=
  State.engOp3_kept hs _ _ _ _ _ _

theorem execMulhu_kept (n : EngNo) (ecc : Ecc) (rd : GReg) (ra : GReg) (rb : GReg) {s : State} (hs : Keeps K s) :
    ∀ t, execMulhu n ecc rd ra rb s = .next t → Keeps K t :=
  State.engOp3_kept hs _ _ _ _ _ _

theorem execDivu_kept (n : EngNo) (ecc : Ecc) (rd : GReg) (ra : GReg) (rb : GReg) {s : State} (hs : Keeps K s) :
    ∀ t, execDivu n ecc rd ra rb s = .next t → Keeps K t :=
  State.engOp3_kept hs _ _ _ _ _ _

theorem execRemu_kept (n : EngNo) (ecc : Ecc) (rd : GReg) (ra : GReg) (rb : GReg) {s : State} (hs : Keeps K s) :
    ∀ t, execRemu n ecc rd ra rb s = .next t → Keeps K t :=
  State.engOp3_kept hs _ _ _ _ _ _

theorem State.engField_kept {s : State} (hs : Keeps K s) (n : EngNo) (ecc : Ecc) (rd : GReg) (lsb w : BitVec 5) (v : State →
    Word) :
    ∀ t, s.engField n ecc rd lsb w v = .next t → Keeps K t :=
  State.engRun_kept hs _ _ _ fun _ hs => Keeps.ite (State.setG_kept (State.engDone_kept hs _) _ _ _)
    (State.usedFree_kept (State.setG_kept (State.engDone_kept hs _) _ _ _))

theorem execBext_kept (n : EngNo) (ecc : Ecc) (rd : GReg) (ra : GReg) (lsb : BitVec 5) (w : BitVec 5) {s : State} (hs : Keeps K
    s) : ∀ t, execBext n ecc rd ra lsb w s = .next t → Keeps K t :=
  State.engField_kept hs _ _ _ _ _ _

theorem execBins_kept (n : EngNo) (ecc : Ecc) (rd : GReg) (ra : GReg) (lsb : BitVec 5) (w : BitVec 5) {s : State} (hs : Keeps K
    s) : ∀ t, execBins n ecc rd ra lsb w s = .next t → Keeps K t :=
  State.engField_kept hs _ _ _ _ _ _

theorem execAddi_kept (n : EngNo) (ecc : Ecc) (rd : GReg) (ra : GReg) (imm : BitVec 18) {s : State} (hs : Keeps K s) :
    ∀ t, execAddi n ecc rd ra imm s = .next t → Keeps K t :=
  State.engOpI_kept hs _ _ _ _ _ _

theorem execAndi_kept (n : EngNo) (ecc : Ecc) (rd : GReg) (ra : GReg) (imm : BitVec 18) {s : State} (hs : Keeps K s) :
    ∀ t, execAndi n ecc rd ra imm s = .next t → Keeps K t :=
  State.engOpI_kept hs _ _ _ _ _ _

theorem execOri_kept (n : EngNo) (ecc : Ecc) (rd : GReg) (ra : GReg) (imm : BitVec 18) {s : State} (hs : Keeps K s) :
    ∀ t, execOri n ecc rd ra imm s = .next t → Keeps K t :=
  State.engOpI_kept hs _ _ _ _ _ _

theorem execXori_kept (n : EngNo) (ecc : Ecc) (rd : GReg) (ra : GReg) (imm : BitVec 18) {s : State} (hs : Keeps K s) :
    ∀ t, execXori n ecc rd ra imm s = .next t → Keeps K t :=
  State.engOpI_kept hs _ _ _ _ _ _

theorem execSlli_kept (n : EngNo) (ecc : Ecc) (rd : GReg) (ra : GReg) (sh : BitVec 5) {s : State} (hs : Keeps K s) :
    ∀ t, execSlli n ecc rd ra sh s = .next t → Keeps K t :=
  State.engAlu_kept hs _ _ _ _

theorem execSrli_kept (n : EngNo) (ecc : Ecc) (rd : GReg) (ra : GReg) (sh : BitVec 5) {s : State} (hs : Keeps K s) :
    ∀ t, execSrli n ecc rd ra sh s = .next t → Keeps K t :=
  State.engAlu_kept hs _ _ _ _

theorem execSrai_kept (n : EngNo) (ecc : Ecc) (rd : GReg) (ra : GReg) (sh : BitVec 5) {s : State} (hs : Keeps K s) :
    ∀ t, execSrai n ecc rd ra sh s = .next t → Keeps K t :=
  State.engAlu_kept hs _ _ _ _

theorem execLui_kept (n : EngNo) (ecc : Ecc) (rd : GReg) (imm : BitVec 18) {s : State} (hs : Keeps K s) :
    ∀ t, execLui n ecc rd imm s = .next t → Keeps K t :=
  State.engAlu_kept hs _ _ _ _

theorem execSlti_kept (n : EngNo) (ecc : Ecc) (rd : GReg) (ra : GReg) (imm : BitVec 18) {s : State} (hs : Keeps K s) :
    ∀ t, execSlti n ecc rd ra imm s = .next t → Keeps K t :=
  State.engOpI_kept hs _ _ _ _ _ _

theorem State.engCheck_kept {s : State} (hs : Keeps K s) (n a k : Nat) (write : Bool) : Keeps K (s.engCheck n a k write).2 := by
  unfold State.engCheck
  extract_lets pl acc mis
  clear_value acc mis
  split
  · exact State.usedFree_kept hs
  split
  · exact hs
  split <;> exact hs

theorem State.setMstat_kept {s : State} (hs : Keeps K s) (n : Nat) (st : Nat) : Keeps K (State.setMstat s n st) := by
  unfold State.setMstat
  try dsimp only
  with_reducible repeat' (first | assumption | intro _ | apply Keeps.ite | apply State.setEngine_kept | split)

theorem State.engLoaded_kept {s : State} (hs : Keeps K s) (n : Nat) (ecc : Ecc) (row : RowId) (cause : Nat) (f : State → State)
    (hf : ∀ s, Keeps K s → Keeps K (f s)) : Keeps K (State.engLoaded s n ecc row cause f) := by
  unfold State.engLoaded
  try dsimp only
  with_reducible repeat'
    (first
      | assumption | intro _ | apply Keeps.ite | apply State.engineFault_kept | apply State.rowUncorrectable_kept
      | apply State.rowCorrected_kept | apply hf | split)

theorem State.engLoadFrom_kept (n : EngNo) (ecc : Ecc) (rd : GReg) (k : Nat) {s : State} (hs : Keeps K s) (a : Word) :
    Keeps K (State.engLoadFrom n ecc rd k s a) := by
  have h := State.engCheck_kept hs n.val a.toNat k false
  unfold State.engLoadFrom
  split <;> rename_i heq <;> rw [heq] at h
  · exact State.engineFault_kept h _ _
  · split
    · exact State.engLoaded_kept h _ _ _ _ _ fun s hs => State.setG_kept (State.engDone_kept hs _) _ _ _
    · exact State.engLoaded_kept h _ _ _ _ _ fun s hs =>
        State.setG_kept (State.engDone_kept (State.caseRead_kept hs _ _) _) _ _ _
    · split
      · exact State.setMstat_kept (State.setG_kept (State.engDone_kept h n.val) _ _ _) _ _
      split
      · exact h
      · have hd := State.engDone_kept h n.val
        dsimp only
        have hr := State.mgmtRead_kept hd (.engine n) ‹Nat› 4
        exact Keeps.ite (State.setG_kept hr _ _ _) (State.setMstat_kept (State.setG_kept hr _ _ _) _ _)
    · exact h

theorem State.engStoreTo_kept (n : EngNo) (k : Nat) (w : Word) {s : State} (hs : Keeps K s) (a : Word) :
    Keeps K (State.engStoreTo n k w s a) := by
  have h := State.engCheck_kept hs n.val a.toNat k true
  unfold State.engStoreTo
  split <;> rename_i heq <;> rw [heq] at h
  · exact State.engineFault_kept h _ _
  · rename_i u
    have hd := State.engDone_kept h n.val
    split
    · exact ⟨hd.1, hd.2, hd.3, hd.4, hd.5, hd.6, canonical_memWrite _ _ h.7, hd.8, hd.9, hd.10, hd.11⟩
    · exact State.caseWrite_kept hd _ _ _
    · split
      · exact State.setMstat_kept hd _ _
      · split
        · exact h
        · obtain ⟨hw, hg⟩ := State.mgmtWrite_kept hd (.engine n) ‹Nat› 4 w
          exact Keeps.ite (hg _ hw) (State.setMstat_kept (hg _ hw) _ _)
    · exact h

theorem execLw_kept (n : EngNo) (ecc : Ecc) (rd : GReg) (ra : GReg) (imm : BitVec 18) {s : State} (hs : Keeps K s) :
    ∀ t, execLw n ecc rd ra imm s = .next t → Keeps K t := by
  refine State.engRun_kept hs n ecc _ fun s hs => ?_
  exact State.engLoadFrom_kept n ecc rd 4 hs _

theorem execLhu_kept (n : EngNo) (ecc : Ecc) (rd : GReg) (ra : GReg) (imm : BitVec 18) {s : State} (hs : Keeps K s) :
    ∀ t, execLhu n ecc rd ra imm s = .next t → Keeps K t := by
  refine State.engRun_kept hs n ecc _ fun s hs => ?_
  exact State.engLoadFrom_kept n ecc rd 2 hs _

theorem execLbu_kept (n : EngNo) (ecc : Ecc) (rd : GReg) (ra : GReg) (imm : BitVec 18) {s : State} (hs : Keeps K s) :
    ∀ t, execLbu n ecc rd ra imm s = .next t → Keeps K t := by
  refine State.engRun_kept hs n ecc _ fun s hs => ?_
  exact State.engLoadFrom_kept n ecc rd 1 hs _

theorem execSw_kept (n : EngNo) (ecc : Ecc) (rd : GReg) (ra : GReg) (imm : BitVec 18) {s : State} (hs : Keeps K s) :
    ∀ t, execSw n ecc rd ra imm s = .next t → Keeps K t := by
  refine State.engRun_kept hs n ecc _ fun s hs => ?_
  exact State.engStoreTo_kept n 4 _ hs _

theorem execSh_kept (n : EngNo) (ecc : Ecc) (rd : GReg) (ra : GReg) (imm : BitVec 18) {s : State} (hs : Keeps K s) :
    ∀ t, execSh n ecc rd ra imm s = .next t → Keeps K t := by
  refine State.engRun_kept hs n ecc _ fun s hs => ?_
  exact State.engStoreTo_kept n 2 _ hs _

theorem execSb_kept (n : EngNo) (ecc : Ecc) (rd : GReg) (ra : GReg) (imm : BitVec 18) {s : State} (hs : Keeps K s) :
    ∀ t, execSb n ecc rd ra imm s = .next t → Keeps K t := by
  refine State.engRun_kept hs n ecc _ fun s hs => ?_
  exact State.engStoreTo_kept n 1 _ hs _

theorem execCas_kept (n : EngNo) (ecc : Ecc) (rd : GReg) (ra : GReg) (rb : GReg) {s : State} (hs : Keeps K s) :
    ∀ t, execCas n ecc rd ra rb s = .next t → Keeps K t := by
  refine State.engRun_kept hs n ecc _ fun s hs => ?_
  dsimp only
  split
  · split
    · exact State.engineFault_kept hs _ _
    · refine State.engLoaded_kept hs _ _ _ _ _ fun s hs => ?_
      have h := State.setG_kept (State.engDone_kept (State.caseRead_kept hs ‹Nat› 4) n.val) n.val rd
        (BitVec.ofNat 32 (s.caseRead ‹Nat› 4).1)
      exact Keeps.ite (State.caseWrite_kept h _ _ _) h
  · exact State.engineFault_kept hs _ _

theorem execFence_kept (n : EngNo) (ecc : Ecc) {s : State} (hs : Keeps K s) : ∀ t, execFence n ecc s = .next t → Keeps K t := by
  refine State.engRun_kept hs n ecc _ fun s hs => ?_
  exact State.engDone_kept hs _

theorem State.engJump_kept {s : State} (hs : Keeps K s) (n : Nat) (link : GReg) (t : Int) :
    Keeps K (State.engJump s n link t) := by
  unfold State.engJump
  try dsimp only
  with_reducible repeat'
    (first
      | assumption | intro _ | apply Keeps.ite | apply State.engCount_kept | apply State.setG_kept | apply State.setEngine_kept
      | apply State.engineFault_kept | split)

theorem State.engBranch_kept {s : State} (hs : Keeps K s) (n : Nat) (link : GReg) (c : BitVec 4) (ra : GReg) (off : BitVec 18) :
    Keeps K (State.engBranch s n link c ra off) := by
  unfold State.engBranch
  try dsimp only
  with_reducible repeat'
    (first
      | assumption | intro _ | apply Keeps.ite | apply State.engineFault_kept | apply State.engDone_kept
      | apply State.engJump_kept | split)

theorem execJalr_kept (n : EngNo) (ecc : Ecc) (rd : GReg) (ra : GReg) (imm : BitVec 18) {s : State} (hs : Keeps K s) :
    ∀ t, execJalr n ecc rd ra imm s = .next t → Keeps K t := by
  refine State.engRun_kept hs n ecc _ fun s hs => ?_
  exact State.engJump_kept hs _ _ _

theorem execB_kept (n : EngNo) (ecc : Ecc) (c : BitVec 4) (ra : GReg) (off : BitVec 18) {s : State} (hs : Keeps K s) :
    ∀ t, execB n ecc c ra off s = .next t → Keeps K t := by
  refine State.engRun_kept hs n ecc _ fun s hs => ?_
  exact State.engBranch_kept hs _ _ _ _ _

theorem execBal_kept (n : EngNo) (ecc : Ecc) (c : BitVec 4) (ra : GReg) (off : BitVec 18) {s : State} (hs : Keeps K s) :
    ∀ t, execBal n ecc c ra off s = .next t → Keeps K t := by
  refine State.engRun_kept hs n ecc _ fun s hs => ?_
  exact State.engBranch_kept hs _ _ _ _ _

theorem execSend_kept (n : EngNo) (ecc : Ecc) (rd : GReg) (ra : GReg) (rb : GReg) (tgt : BitVec 4) (mbx : BitVec 4) {s : State}
    (hs : Keeps K s) : ∀ t, execSend n ecc rd ra rb tgt mbx s = .next t → Keeps K t := by
  refine State.engRun_kept hs n ecc _ fun s hs => ?_
  have h := State.sendMail_kept hs tgt.toNat mbx.toNat (s.engG n.val ra, s.engG n.val rb)
  dsimp only
  exact State.setG_kept (State.engDone_kept h _) _ _ _

theorem State.takeMail_kept {s : State} (hs : Keeps K s) (n rd mbx : Nat) : ∀ t, s.takeMail n rd mbx = some t → Keeps K t := by
  intro t ht
  unfold State.takeMail at ht
  split at ht
  · cases ht
  · injection ht with ht
    subst ht
    with_reducible repeat'
      (first
        | assumption | intro _ | apply Keeps.ite | apply State.setG_kept | apply State.engDone_kept | apply State.put_kept
        | apply State.setEngine_kept | split)

theorem State.engWait_kept {s : State} (hs : Keeps K s) (n : Nat) (w : EngWait) : Keeps K (State.engWait s n w) := by
  unfold State.engWait
  try dsimp only
  with_reducible repeat'
    (first
      | assumption | intro _ | apply Keeps.ite | apply State.setEngine_kept | apply State.put_kept | split)

theorem execRecv_kept (n : EngNo) (ecc : Ecc) (rd : GReg) (mbx : BitVec 4) {s : State} (hs : Keeps K s) :
    ∀ t, execRecv n ecc rd mbx s = .next t → Keeps K t := by
  refine State.engRun_kept hs n ecc _ fun s hs => ?_
  split
  · exact State.engineFault_kept hs _ _
  · split
    · exact State.takeMail_kept hs _ _ _ _ ‹_›
    · exact State.engWait_kept hs _ _

theorem State.takeEvents_kept {s : State} (hs : Keeps K s) (n : Nat) (rd : GReg) (r : Nat) :
    Keeps K (State.takeEvents s n rd r) := by
  unfold State.takeEvents
  try dsimp only
  with_reducible repeat'
    (first
      | assumption | intro _ | apply Keeps.ite | apply State.setEngine_kept | apply State.latch_kept | apply State.engDone_kept
      | apply State.setG_kept | split)

theorem execWait_kept (n : EngNo) (ecc : Ecc) (rd : GReg) (ra : GReg) {s : State} (hs : Keeps K s) :
    ∀ t, execWait n ecc rd ra s = .next t → Keeps K t := by
  refine State.engRun_kept hs n ecc _ fun s hs => ?_
  exact Keeps.ite (State.takeEvents_kept hs _ _ _) (State.engWait_kept hs _ _)

theorem execRecvWake_kept (n : EngNo) {s : State} (hs : Keeps K s) : ∀ t, execRecvWake n s = .next t → Keeps K t := by
  intro t ht
  unfold execRecvWake at ht
  injection ht with ht
  subst ht
  split
  · split
    · exact State.put_kept (State.takeMail_kept hs _ _ _ _ ‹_›) _ _
    · exact hs
  · exact hs

theorem execWaitWake_kept (n : EngNo) {s : State} (hs : Keeps K s) : ∀ t, execWaitWake n s = .next t → Keeps K t := by
  intro t ht
  unfold execWaitWake at ht
  injection ht with ht
  subst ht
  split
  · exact Keeps.ite (State.put_kept (State.takeEvents_kept hs _ _ _) _ _) hs
  · exact hs

theorem execYield_kept (n : EngNo) (ecc : Ecc) {s : State} (hs : Keeps K s) : ∀ t, execYield n ecc s = .next t → Keeps K t := by
  refine State.engRun_kept hs n ecc _ fun s hs => ?_
  exact State.engYield_kept (State.engCount_kept hs _) _

theorem execKick_kept (n : EngNo) (ecc : Ecc) {s : State} (hs : Keeps K s) : ∀ t, execKick n ecc s = .next t → Keeps K t := by
  refine State.engRun_kept hs n ecc _ fun s hs => ?_
  exact State.setEngine_kept (State.engDone_kept hs _) _ _

theorem execTbl_kept (n : EngNo) (ecc : Ecc) (rd : GReg) (ra : GReg) (rb : GReg) (d : BitVec 3) {s : State} (hs : Keeps K s) :
    ∀ t, execTbl n ecc rd ra rb d s = .next t → Keeps K t := by
  refine State.engRun_kept hs n ecc _ fun s hs => ?_
  exact Keeps.ite (State.engineFault_kept hs _ _) (State.setG_kept (State.engDone_kept hs _) _ _ _)

theorem execHash_kept (n : EngNo) (ecc : Ecc) (rd : GReg) (ra : GReg) (rb : GReg) (sel : BitVec 1) {s : State} (hs : Keeps K s) :
    ∀ t, execHash n ecc rd ra rb sel s = .next t → Keeps K t :=
  State.engAlu_kept hs _ _ _ _

theorem State.engCrc_kept {s : State} (hs : Keeps K s) (n : Nat) (rd : GReg) (known : Bool) (v : Nat) :
    Keeps K (State.engCrc s n rd known v) := by
  unfold State.engCrc
  try dsimp only
  with_reducible repeat'
    (first
      | assumption | intro _ | apply Keeps.ite | apply State.engDone_kept | apply State.setG_kept | apply State.usedFree_kept
      | split)

theorem execCrc_kept (n : EngNo) (ecc : Ecc) (rd : GReg) (ra : GReg) (rb : GReg) (alg : BitVec 2) {s : State} (hs : Keeps K s) :
    ∀ t, execCrc n ecc rd ra rb alg s = .next t → Keeps K t := by
  refine State.engRun_kept hs n ecc _ fun s hs => ?_
  dsimp only
  split
  · exact State.engineFault_kept hs _ _
  split
  · exact Keeps.ite (State.engineFault_kept hs _ _) (State.engLoaded_kept hs _ _ _ _ _ fun s hs => State.engCrc_kept hs _ _ _ _)
  · exact Keeps.ite (State.engineFault_kept hs _ _) (State.engLoaded_kept hs _ _ _ _ _ fun s hs => State.engCrc_kept hs _ _ _ _)
  · exact State.engineFault_kept hs _ _

theorem execTime_kept (n : EngNo) (ecc : Ecc) (rd : GReg) (sel : BitVec 2) {s : State} (hs : Keeps K s) :
    ∀ t, execTime n ecc rd sel s = .next t → Keeps K t := by
  refine State.engRun_kept hs n ecc _ fun s hs => ?_
  have h := State.engDone_kept hs n.val
  dsimp only
  split
  · exact State.setEngine_kept (State.setG_kept h _ _ _) _ _
  all_goals exact State.setG_kept h _ _ _

theorem State.csrWrite_kept {s : State} (hs : Keeps K s) (n : Nat) (k : Nat) (w : Word) : Keeps K (State.csrWrite s n k w) := by
  unfold State.csrWrite
  try dsimp only
  with_reducible repeat'
    (first
      | assumption | intro _ | apply Keeps.ite | apply State.setMstat_kept | apply State.setEngine_kept | split)

theorem execCsrr_kept (n : EngNo) (ecc : Ecc) (rd : GReg) (csr : BitVec 8) {s : State} (hs : Keeps K s) :
    ∀ t, execCsrr n ecc rd csr s = .next t → Keeps K t := by
  refine State.engRun_kept hs n ecc _ fun s hs => ?_
  exact Keeps.ite (State.setG_kept (State.engDone_kept hs _) _ _ _) (State.engineFault_kept hs _ _)

theorem execCsrw_kept (n : EngNo) (ecc : Ecc) (ra : GReg) (csr : BitVec 8) {s : State} (hs : Keeps K s) :
    ∀ t, execCsrw n ecc ra csr s = .next t → Keeps K t := by
  refine State.engRun_kept hs n ecc _ fun s hs => ?_
  exact Keeps.ite (State.csrWrite_kept (State.engDone_kept hs _) _ _ _) (State.engineFault_kept hs _ _)

theorem execIllegalOp_kept (n : EngNo) (ecc : Ecc) (w : Word) {s : State} (hs : Keeps K s) :
    ∀ t, execIllegalOp n ecc w s = .next t → Keeps K t := by
  refine State.engRun_kept hs n ecc _ fun s hs => ?_
  exact Keeps.ite (State.engineFault_kept hs _ _) hs

end Sys2Proof.Machine
end

