-- ==== Sys2Proof/Laws/Words.lean ====
section
/-! SUPPORT. The fields of an instruction word: what they are in a word put together of fields, and that a word is put together
of its own fields. -/

namespace Sys2Proof

theorem rWord_toNat (op : BitVec 6) (rd ra rb : GReg) (fn : BitVec 14) :
    (rWord op rd ra rb fn).toNat = op.toNat * 2 ^ 26 + rd.toNat * 2 ^ 22 + ra.toNat * 2 ^ 18 + rb.toNat * 2 ^ 14 + fn.toNat := by
  have h1 := rd.isLt
  have h2 := ra.isLt
  have h3 := rb.isLt
  have h4 := fn.isLt
  simp only [rWord, BitVec.toNat_append]
  rw [← Nat.shiftLeft_add_eq_or_of_lt h4, ← Nat.shiftLeft_add_eq_or_of_lt h3, ← Nat.shiftLeft_add_eq_or_of_lt h2,
    ← Nat.shiftLeft_add_eq_or_of_lt h1]
  simp only [Nat.shiftLeft_eq]
  omega

theorem iWord_toNat (op : BitVec 6) (rd ra : GReg) (imm : BitVec 18) :
    (iWord op rd ra imm).toNat = op.toNat * 2 ^ 26 + rd.toNat * 2 ^ 22 + ra.toNat * 2 ^ 18 + imm.toNat := by
  have h1 := rd.isLt
  have h2 := ra.isLt
  have h3 := imm.isLt
  simp only [iWord, BitVec.toNat_append]
  rw [← Nat.shiftLeft_add_eq_or_of_lt h3, ← Nat.shiftLeft_add_eq_or_of_lt h2, ← Nat.shiftLeft_add_eq_or_of_lt h1]
  simp only [Nat.shiftLeft_eq]
  omega

theorem field_toNat {m : Nat} (w : BitVec m) (lo k : Nat) : (w.extractLsb' lo k).toNat = w.toNat / 2 ^ lo % 2 ^ k := by
  rw [BitVec.extractLsb'_toNat, Nat.shiftRight_eq_div_pow]

variable (op : BitVec 6) (rd ra rb : GReg) (fn : BitVec 14) (imm : BitVec 18)

@[simp] theorem rWord_op : (rWord op rd ra rb fn).extractLsb' 26 6 = op := by
  apply BitVec.eq_of_toNat_eq; rw [field_toNat, rWord_toNat]; omega
@[simp] theorem rWord_rd : (rWord op rd ra rb fn).extractLsb' 22 4 = rd := by
  apply BitVec.eq_of_toNat_eq; rw [field_toNat, rWord_toNat]; omega
@[simp] theorem rWord_ra : (rWord op rd ra rb fn).extractLsb' 18 4 = ra := by
  apply BitVec.eq_of_toNat_eq; rw [field_toNat, rWord_toNat]; omega
@[simp] theorem rWord_rb : (rWord op rd ra rb fn).extractLsb' 14 4 = rb := by
  apply BitVec.eq_of_toNat_eq; rw [field_toNat, rWord_toNat]; omega
@[simp] theorem rWord_fn : (rWord op rd ra rb fn).extractLsb' 0 14 = fn := by
  apply BitVec.eq_of_toNat_eq; rw [field_toNat, rWord_toNat]; omega
@[simp] theorem iWord_op : (iWord op rd ra imm).extractLsb' 26 6 = op := by
  apply BitVec.eq_of_toNat_eq; rw [field_toNat, iWord_toNat]; omega
@[simp] theorem iWord_rd : (iWord op rd ra imm).extractLsb' 22 4 = rd := by
  apply BitVec.eq_of_toNat_eq; rw [field_toNat, iWord_toNat]; omega
@[simp] theorem iWord_ra : (iWord op rd ra imm).extractLsb' 18 4 = ra := by
  apply BitVec.eq_of_toNat_eq; rw [field_toNat, iWord_toNat]; omega
@[simp] theorem iWord_imm : (iWord op rd ra imm).extractLsb' 0 18 = imm := by
  apply BitVec.eq_of_toNat_eq; rw [field_toNat, iWord_toNat]; omega

/-- A word is put together of the fields of the register format. -/
theorem rWord_fields (w : Word) :
    rWord (w.extractLsb' 26 6) (w.extractLsb' 22 4) (w.extractLsb' 18 4) (w.extractLsb' 14 4) (w.extractLsb' 0 14) = w := by
  have := w.isLt
  apply BitVec.eq_of_toNat_eq
  rw [rWord_toNat]
  simp only [field_toNat]
  omega

/-- A word is put together of the fields of the immediate format. -/
theorem iWord_fields (w : Word) :
    iWord (w.extractLsb' 26 6) (w.extractLsb' 22 4) (w.extractLsb' 18 4) (w.extractLsb' 0 18) = w := by
  have := w.isLt
  apply BitVec.eq_of_toNat_eq
  rw [iWord_toNat]
  simp only [field_toNat]
  omega

end Sys2Proof
end

