-- ==== Sys2Proof/Tests/Slice0.lean ====
section
/-! SUPPORT. Tests: terms of a shape that the spec does not give, which the check refuses; words of Compositor instructions
written out from the encoding tables; single steps with results from the spec; and, for every obligation with hypotheses, a
state and operands that meet them. -/

set_option maxRecDepth 20000
set_option linter.unusedVariables false

namespace Sys2Proof.Tests

open Sys2Proof Sys2Proof.Machine

/-! ### Ill-formed terms are refused -/

/-- A stamp in its ranges, one out of them, and cells of a wrong length. -/
def stampOk : Stamp := ⟨5, 999999999, 65535⟩
def stampBad : Stamp := ⟨5, 1000000000, 0⟩
def cellOf (n : Nat) : Option Cell := some ⟨0, List.replicate n 0⟩

theorem test_stamp_ranges : Stamp.ok stampOk = true ∧ Stamp.ok stampBad = false ∧ Stamp.ok ⟨2 ^ 48, 0, 0⟩ = false ∧
    Stamp.ok ⟨0, 0, 65536⟩ = false := by decide

theorem test_cell_length : Instr.wellFormed (.cellArrival 0 (cellOf 64)) = true ∧ Instr.wellFormed (.cellArrival 0 (cellOf 63)) = false ∧
    Instr.wellFormed (.platenCellRx 0 (cellOf 65)) = false ∧ Instr.wellFormed (.ethEgressCell 0 (cellOf 0)) = false ∧
    Instr.wellFormed (.timeCellRx 0 (cellOf 32)) = false := by decide

theorem test_frame_and_slot_length : Instr.wellFormed (.dataFrameRx 0 (List.replicate 79 0) false) = false ∧
    Instr.wellFormed (.capabilityRecordRx 0 (List.replicate 71 0)) = false := by decide

theorem test_delay_stamps : Instr.wellFormed (.linkDelayRequestRx 0 1 stampOk stampBad) = false ∧
    Instr.wellFormed (.linkDelayResponseRx 0 1 stampOk stampOk stampBad stampOk) = false ∧
    Instr.wellFormed (.ptpMessageRx 0 ⟨0, .followUp 1 stampBad⟩ stampOk) = false ∧
    Instr.wellFormed (.ptpMessageRx 0 ⟨0, .sync 1⟩ stampBad) = false := by decide

theorem test_tunnel_message_length : Instr.wellFormed (.mtReadRequest 1 (List.replicate 15 0)) = false ∧
    Instr.wellFormed (.mtWriteRequest 1 []) = false ∧ Instr.wellFormed (.mtReply 1 (List.replicate 8 0)) = false := by decide

theorem test_bridge_message_ranges :
    Instr.wellFormed (.readRx 0 ⟨3, 3, 0, 0, 4, 0, 0, false, 0, 0, 0, List.replicate 33 0, 0⟩) = false ∧
    Instr.wellFormed (.farErrRx 0 ⟨3, 3, 0, 0, 0, 0, 0, false, 0, 0, 1000000000, [], 0⟩) = false ∧
    Instr.wellFormed (.lbDeviceCycle true 0 0xF [1, 2, 3]) = false ∧ Instr.wellFormed (.lbDeviceCycle false 0 0xF [1]) = false ∧
    Instr.wellFormed (.lbDeviceCycle false 0 6 []) = false ∧ Instr.wellFormed (.lbDeviceCycle false 0 0 []) = false ∧
    Instr.wellFormed (.lbDeviceCycle true 0 0xB [1, 2, 3, 4]) = true := by decide

theorem test_pdu_length : pduOk ⟨0, 0, 0, 0, 0, 0, [1, 2]⟩ = true ∧ ∀ p : Pdu, p.body.length = 65536 → pduOk p = false := by
  refine ⟨by decide, fun p h => ?_⟩
  simp [pduOk, h]

theorem test_instruction_fields : Instr.wellFormed (.recv 0 .clean 3 1) = false ∧ Instr.wellFormed (.recv 0 .clean 0 1) = false ∧
    Instr.wellFormed (.crc 0 .clean 1 2 3 3) = false ∧ Instr.wellFormed (.csrr 0 .clean 1 8) = false ∧
    Instr.wellFormed (.csrw 0 .clean 1 32) = false ∧ Instr.wellFormed (.b 0 .clean 7 1 0) = false ∧
    Instr.wellFormed (.bal 0 .clean 15 1 0) = false ∧ Instr.wellFormed (.illegalOp 0 .clean 0x00000000) = false ∧
    Instr.wellFormed (.illegalOp 0 .clean 0x00000001) = true := by decide

theorem test_dock_lengths : Instr.wellFormed (.sourceCapabilitiesRx 0 []) = false ∧
    Instr.wellFormed (.sourceCapabilitiesRx 0 (List.replicate 12 0)) = false ∧
    Instr.wellFormed (.jtagSamplePreload [true] []) = false := by decide

/-! ### Words of Compositor instructions, bit by bit from the encoding tables (R361, R363) -/

/-- ADD g1, g2, g3: op 0x00 | rd 0001 | ra 0010 | rb 0011 | fn 0. -/
theorem test_word_add : decodeEngine 0 .clean 0b000000_0001_0010_0011_00000000000000 = some (.add 0 .clean 1 2 3) := by decide
/-- REMU g15, g14, g13: op 0x0D. -/
theorem test_word_remu : decodeEngine 0 .clean 0b001101_1111_1110_1101_00000000000000 = some (.remu 0 .clean 15 14 13) := by decide
/-- BINS g1, g1, lsb 3, w 3: op 0x0F, the fields in imm[9:5] and imm[4:0]. -/
theorem test_word_bins : decodeEngine 0 .clean 0b001111_0001_0001_00000000_00011_00011 = some (.bins 0 .clean 1 1 3 3) := by decide
/-- SRAI g4, g5, 31: op 0x16, the amount in imm[4:0]. -/
theorem test_word_srai : decodeEngine 0 .clean 0b010110_0100_0101_0000000000000_11111 = some (.srai 0 .clean 4 5 31) := by decide
/-- LUI g7, 0x20001: op 0x17, ra 0. -/
theorem test_word_lui : decodeEngine 0 .clean 0b010111_0111_0000_100000000000000001 = some (.lui 0 .clean 7 0x20001) := by decide
/-- LW g8, -4(g9): op 0x18. -/
theorem test_word_lw : decodeEngine 0 .clean 0b011000_1000_1001_111111111111111100 = some (.lw 0 .clean 8 9 (-4)) := by decide
/-- SB g8, 1(g9): op 0x1D. -/
theorem test_word_sb : decodeEngine 0 .clean 0b011101_1000_1001_000000000000000001 = some (.sb 0 .clean 8 9 1) := by decide

/-! ### Single steps -/

/-- Engine 0 running with g1 = 0xFFFFFFFF and g2 = 2. -/
def aluWit : State := ((State.reset.put (ENG_STATUS.STATE 0) 1).setG 0 1 0xFFFFFFFF).setG 0 2 2

/-- What engine 0 holds in a register after a command. -/
def afterG (c : Instr) (s : State) (k : GReg) : Option Word :=
  match exec c s with
  | .next t => some (t.engG 0 k)
  | .fault _ => none
  | .refused _ => none

/-- The sum wraps modulo 2^32, and the high half of the unsigned product of 2^32 - 1 and 2 is 1 (R363). -/
theorem test_add_wraps : afterG (.add 0 .clean 3 1 2) aluWit 3 = some 1 := by decide
theorem test_mulhu_high : afterG (.mulhu 0 .clean 3 1 2) aluWit 3 = some 1 := by decide
/-- SRA keeps the sign and SRL does not (R363). -/
theorem test_sra_sign : afterG (.sra 0 .clean 3 1 2) aluWit 3 = some 0xFFFFFFFF ∧
    afterG (.srl 0 .clean 3 1 2) aluWit 3 = some 0x3FFFFFFF := by decide
/-- SLT is signed and SLTU is not (R363). -/
theorem test_slt_signs : afterG (.slt 0 .clean 3 1 2) aluWit 3 = some 1 ∧ afterG (.sltu 0 .clean 3 1 2) aluWit 3 = some 0 := by decide
/-- A write to g0 is lost (R360). -/
theorem test_g0_reads_zero : afterG (.add 0 .clean 0 1 2) aluWit 0 = some 0 := by decide

/-- A read of the part number comes back with status 0 (R13). -/
theorem test_read_part : (match exec (.rcRead .usb (BitVec.ofNat 32 ID_DEVICE.PART.addr) 2) State.reset with
    | .next t => t.out.head?.isSome
    | .fault _ => false
    | .refused _ => false) = true := by decide

/-! ### States for the witnesses -/

/-- The admission ring with one message of a code, and record 0 in use when `r`. -/
def ringWit (code : Nat) (r : Bool) : State :=
  { State.reset.put IMP_RING.TAIL 1 with
    caseMem := memWrite (if r then memWrite [] (recPlace 0 + 7) [0x80] else []) 0xE0000 [BitVec.ofNat 8 code] }

/-- Display adapter `d` with an accepted capture of 1,920 pixels a line. -/
def capWit (d : Nat) : State :=
  ((State.reset.put (DA_CFG.CAP_EN d) 1).put (DA_CAP_TUN.TUNNEL d) 5).setDisp d fun x => { x with capMode := 1 }

/-- A Downstream Binding adapter, and an Upstream Switch with virtual port 0 in a binding state. -/
def pxDown : State := (State.reset.put PX_CFG.EN 1).put PX_CFG.MODE 1
def pxUp (st : Nat) : State :=
  (((State.reset.put PX_CFG.EN 1).put PX_CFG.MODE 0).put PX_CFG.VP_COUNT 1).put (PX_VP_STATUS.BSTATE 0) st

/-- A PDU of a type on tunnel 0, its body `k` zero bytes. -/
def pduWit (ty k arg : Nat) : Pdu := ⟨0, BitVec.ofNat 8 ty, 0, 0, BitVec.ofNat 16 k, BitVec.ofNat 8 arg, List.replicate k 0⟩

/-- Ethernet adapter 1 on, its link up. -/
def ethWit : State := (State.reset.put (EN_CFG.EN 1) 1).put (EN_STATUS.LINK_UP 1) 1

/-- The bridge on; window 3 enabled both ways. -/
def lbWit : State := ((State.reset.put LB_CFG.EN 1).put (LB_WIN_OUT.OUT_EN 3) 1).put (LB_WIN_IN.IN_EN 3) 1
def lbMsg : BridgeMsg := ⟨3, 3, 0, 0, 0, 0, 0, false, 0, 0, 0, [], 0⟩
def lbCyc : DevCyc := ⟨true, 0, 4, [1, 2, 3, 4]⟩

/-- Engine 0 holds custody. -/
def custWit : State := State.reset.put FC_CUSTODY.VALID 1

/-- An operation of the Forme controller under way. -/
def fcWit (o : FormeOp) : State := State.reset.setFc fun f => { f with op := some o }

/-- The device is configured, its channel buffers mapped. -/
def usbWit (st : Nat) : State := (State.reset.put USB_STATUS.USTATE st).put (GALLEY_MAP.GM_EN (outBuf 2)) 1

/-- Channel 2 holds a whole request of an `SOP`. -/
def chanWit (sop : Nat) : State := (({ usbWit 4 with galley := memWrite [] ((usbWit 4).bufBase (outBuf 2) * 64) [BitVec.ofNat 8 sop] }).setChan 2 fun x => { x with whole := true })

/-- A control transfer waits for its status stage. -/
def ctrlWit (n : Nat) : State := (usbWit 4).setDk fun d => { d with ctrl := some (n, false) }

/-- A grandmaster data set. -/
def gmWit : GmSet := ⟨0, 0, 0, 0, 0, 0⟩

/-- Engine 5 runs. -/
def engWit : State := State.reset.put (ENG_STATUS.STATE 5) 1

/-- The same with g2 at the start of Case memory. -/
def caseEng : State := engWit.setG 5 2 0x100000

/-- Engine 5 with a message in mailbox 15, waiting for it. -/
def mailEng : State := engWit.setEngine 5 fun e => { e with mail := [(15, [(1, 2)])], waiting := some (.recv 2 15) }

theorem hasFh_ppCmd : ∀ n : Path10, hasFh (PP_CMD n.val) = false := by decide

/-! ### Each clause of the statements on commands has a state and operands that meet its hypotheses -/

theorem wit_PowerPathCommands :
    (∃ (n : Path10) (s : State), (s.ppState n.val = 2 ∨ s.ppState n.val = 4) ∧ s.frozen n.val = false) ∧
    (∃ (n : Path10) (safe : Bool) (s : State), s.ppState n.val = 1 ∧ (s.path n.val).inWin = true ∧ s.keepHold = false) ∧
    (∃ (n : Path10) (s : State), s.ppState n.val = 3 ∧ s.frozen n.val = false) ∧
    (∃ (n : Path10) (s : State), s.ppState n.val = 3) ∧
    (∃ (n : Path10) (s : State), (s.ppState n.val = 3 ∨ s.ppState n.val = 4)) ∧
    (∃ (n : Path10) (s : State), s.ppState n.val = 4) ∧
    (∃ (n : Path10) (s : State), s.ppState n.val = 4) ∧
    (∃ (n : Path10) (s : State), s.hasPath n.val = true ∧ (s.ppState n.val ≤ 2 ∨ s.ppState n.val = 5)) ∧
    (∃ (path : Path) (n : Path10) (dmgClr : Bool) (s : State), s.keepOut = false ∧ s.behind path = false ∧ s.blockExcluded
      (PP_CMD n.val) = false) ∧
    (∃ (n : Path10) (rise long : Bool) (s : State), s.hasPath n.val = true ∧ s.on (PP_CFG.EN_USE n.val) = true ∧
      s.keepHold = false) ∧
    (∃ (path : Path) (n : Path10) (on : Bool) (s : State), s.keepOut = false ∧ s.behind path = false ∧ s.blockExcluded
      (PP_CMD n.val) = false ∧ s.warmRefuses = false ∧ 8 ≤ n.val ∧ (on = false ∨ s.ppState n.val < 5)) ∧
    (∃ (near : Bool) (s : State), s.pw.feedGap = true ∧ s.get PP_FEED.ACTIVE < 2 ∧ s.ppState (s.get PP_FEED.ACTIVE) = 2) :=
  ⟨⟨0, State.reset.put (PP_STATUS.STATE 0) 4, by decide⟩,
    ⟨9, true, (State.reset.put (PP_STATUS.STATE 9) 1).setPath 9 fun p => { p with inWin := true }, by decide⟩,
    ⟨2, State.reset.put (PP_STATUS.STATE 2) 3, by decide⟩,
    ⟨2, State.reset.put (PP_STATUS.STATE 2) 3, by decide⟩,
    ⟨9, State.reset.put (PP_STATUS.STATE 9) 4, by decide⟩,
    ⟨9, State.reset.put (PP_STATUS.STATE 9) 4, by decide⟩,
    ⟨9, State.reset.put (PP_STATUS.STATE 9) 4, by decide⟩,
    ⟨9, (State.reset.put (PP_STATUS.STATE 9) 5).put ID_DEVICE.CLASS 3, by decide⟩,
    ⟨.smbus, 9, true, State.reset.put ID_DEVICE.CLASS 3, by decide⟩,
    ⟨8, true, true, (State.reset.put (PP_CFG.EN_USE 8) 1).put ID_DEVICE.CLASS 3, by decide⟩,
    ⟨.usb, 8, true, State.reset.put ID_DEVICE.CLASS 3, by decide⟩,
    ⟨true, (((State.reset.put PP_FEED.ACTIVE 1).put (PP_STATUS.STATE 1) 2).setPw fun p => { p with feedGap := true }), by decide⟩⟩

theorem wit_SupplyAndRailCommands :
    (∃ (s : State), s.pw.hvLow = true ∧ s.pw.railsUp = true) ∧
    (∃ (path : Path) (w : Word) (s : State), s.keepOut = false ∧ s.behind path = false ∧ s.fc.copying = false) ∧
    (∃ (src : Fin 5) (s : State), s.canWake src.val = true ∧ s.wakeEnabled src.val = true) ∧
    (∃ (s : State), s.on KP_STATUS.WAKE_PEND = true) ∧
    (∃ (k : Fin 6) (s : State), s.get RST_STATUS.PHASE = 3 ∧ s.pw.railStep = some k.val ∧ k.val < 5) ∧
    (∃ (k : Fin 6) (s : State), s.get RST_STATUS.PHASE = 3 ∧ s.pw.railStep = some k.val) ∧
    (∃ (s : State), s.get RST_STATUS.PHASE = 3 ∧ s.pw.railStep = none ∧ s.get KP_STATUS.RAIL_TRIES < 3) ∧
    (∃ (s : State), s.keepHold = false) ∧
    (∃ (s : State), s.on EV_KL.KL_LOST_NOW = false) ∧
    (∃ (s : State), s.keepHold = true) ∧
    (∃ (s : State), s.keepHold = true ∧ s.on KL_CFG.CUST_NEVER = false ∧ s.pw.custWarm = false ∧ max 1 (s.get
      KL_CFG.CUST_LIMIT_MS) ≤ s.holdMs) ∧
    (∃ (s : State), s.keepHold = true ∧ s.pw.custWarm = true ∧ s.on KL_STATUS.ESCALATED = false) :=
  ⟨⟨State.reset.setPw fun p => { p with hvLow := true, railsUp := true }, by decide⟩,
    ⟨.pcie, 1, State.reset, by decide⟩,
    ⟨4, (State.reset.put RST_STATUS.PHASE 10).put KP_WAKE.ALARM_EN 1, by decide⟩,
    ⟨State.reset.put KP_STATUS.WAKE_PEND 1, by decide⟩,
    ⟨4, (State.reset.put RST_STATUS.PHASE 3).setPw fun p => { p with railStep := some 4 }, by decide⟩,
    ⟨5, (State.reset.put RST_STATUS.PHASE 3).setPw fun p => { p with railStep := some 5 }, by decide⟩,
    ⟨State.reset.put RST_STATUS.PHASE 3, by decide⟩,
    ⟨State.reset, by decide⟩,
    ⟨State.reset, by decide⟩,
    ⟨State.reset.put KL_STATUS.HOLD 1, by decide⟩,
    ⟨((State.reset.put KL_STATUS.HOLD 1).put KL_CFG.CUST_NEVER 0).setTm fun t => { t with tick := 625000000 }, by decide⟩,
    ⟨(State.reset.put KL_STATUS.HOLD 1).setPw fun p => { p with custWarm := true }, by decide⟩⟩

theorem wit_VcoreCommands :
    (∃ (n : EngNo) (mv : Fin 1024) (s : State), s.keepHold = false ∧ s.warmRefuses = false) ∧
    (∃ (n : EngNo) (mv : Fin 1024) (s : State), s.keepHold = false ∧ s.warmRefuses = true) ∧
    (∃ (n : EngNo) (s : State), s.keepHold = false ∧ s.warmRefuses = false ∧ s.roomToLower = true ∧ s.pw.vcLowered = false
      ∧ s.pw.vcOp = none ∧ s.vcFloor ≤ s.get PACE_VCORE.VCORE_MV - 5) ∧
    (∃ (n : EngNo) (s : State), s.keepHold = false ∧ s.warmRefuses = false ∧ s.roomToLower = true ∧ s.pw.vcLowered = false
      ∧ s.get PACE_VCORE.VCORE_MV - 5 < s.vcFloor) ∧
    (∃ (tj : Fin 256) (s : State), s.get ID_DEVICE.GRADE = 1 ∧ 105 < tj.val) ∧
    (∃ (mv : Fin 1024) (s : State), s.pw.vcOp = some .read) :=
  ⟨⟨2, 850, State.reset, by decide⟩,
    ⟨2, 850, State.reset.setRs fun r => { r with warm := true }, by decide⟩,
    ⟨2, State.reset.put PACE_VCORE.VCORE_MV 850, by decide⟩,
    ⟨2, State.reset.put PACE_VCORE.VCORE_MV 600, by decide⟩,
    ⟨106, State.reset.put ID_DEVICE.GRADE 1, by decide⟩,
    ⟨750, State.reset.setPw fun p => { p with vcOp := some .read }, by decide⟩⟩

theorem wit_StartUpCommands :
    (∃ (s : State), s.get RST_STATUS.PHASE = 0) ∧
    (∃ (chip : ChipTrim) (conv : BitVec 6) (rsnsLow rsnsHigh : BitVec 40) (s : State), s.get RST_STATUS.PHASE = 1 ∧
      s.rs.coldWait = false ∧ s.rs.trimmed = 0) ∧
    (∃ (chip : ChipTrim) (conv : BitVec 6) (rsnsLow rsnsHigh : BitVec 40) (s : State), s.get RST_STATUS.PHASE = 1 ∧
      s.rs.coldWait = false ∧ s.rs.trimmed ≠ 0) ∧
    (∃ (chip : ChipTrim) (conv : BitVec 6) (rsnsLow rsnsHigh : BitVec 40) (s : State), s.get RST_STATUS.PHASE = 1 ∧
      s.rs.coldWait = false) ∧
    (∃ (r0 r1 r2 r3 : BitVec 16) (s : State), s.get RST_STATUS.PHASE = 2 ∧ strapCode r1.toNat = strapCode r0.toNat ∧
      strapCode r2.toNat = strapCode r0.toNat ∧ strapCode r3.toNat = strapCode r0.toNat) ∧
    (∃ (s : State), s.get RST_STATUS.PHASE = 4) ∧
    (∃ (err : Option (Fin 3 × Fin 255)) (src a : Nat) (s : State), s.fc.op = some (.load src a)) ∧
    (∃ (err : Option (Fin 3 × Fin 255)) (src : Nat) (s : State), s.fc.op = some (.stage src) ∧ s.on FC_STATUS.REVERTING =
      false) ∧
    (∃ (err : Option (Fin 3 × Fin 255)) (src : Nat) (s : State), s.fc.op = some (.verify src)) ∧
    (∃ (err : Option (Fin 3 × Fin 255)) (src : Nat) (s : State), s.fc.op = some (.stage src) ∧ s.on FC_STATUS.REVERTING =
      true ∧ (s.stageEnd src (readFault err)).1 = true) ∧
    (∃ (err : Option (Fin 3 × Fin 255)) (src : Nat) (s : State), s.fc.op = some (.stage src) ∧ s.on FC_STATUS.REVERTING =
      true ∧ (s.stageEnd src (readFault err)).1 = false) ∧
    (∃ (s : State), s.onProbation = true ∧ s.get FC_STATUS.PROB_LEFT = 0) ∧
    (∃ (data : List Byte) (eff : FlashEffect) (w a : Word) (s : State), s.fc.flCmd = some (w, a) ∧ wordField w 30 30 = 1)
      ∧
    (∃ (data : List Byte) (eff : FlashEffect) (w a : Word) (s : State), s.fc.flCmd = some (w, a) ∧ wordField w 30 30 ≠ 1)
      ∧
    (∃ (k : Nat) (r : List OtpOp) (s : State), s.fc.otp = List.cons (.revoke k) r) ∧
    (∃ (k : Nat) (b : List Byte) (r : List OtpOp) (s : State), s.fc.otp = List.cons (.prog k b) r) ∧
    (∃ (n : Nat) (r : List OtpOp) (s : State), s.fc.otp = List.cons (.step n) r ∧ (s.put FC_ROLLBACK.OTP_COUNT (s.get
      FC_ROLLBACK.OTP_COUNT + 1)).get FC_ROLLBACK.OTP_COUNT < n) ∧
    (∃ (n : Nat) (r : List OtpOp) (s : State), s.fc.otp = List.cons (.step n) r ∧ n ≤ (s.put FC_ROLLBACK.OTP_COUNT (s.get
      FC_ROLLBACK.OTP_COUNT + 1)).get FC_ROLLBACK.OTP_COUNT) :=
  ⟨⟨State.reset, by decide⟩,
    ⟨⟨0x8000, 0x400, 1, 5⟩, 0, 0, 0, State.reset.put RST_STATUS.PHASE 1, by decide⟩,
    ⟨⟨0x8000, 0x400, 1, 5⟩, 3, 7, 7, (State.reset.put RST_STATUS.PHASE 1).setRs fun r => { r with trimmed := 1 }, by decide⟩,
    ⟨⟨0, 0, 0, 0⟩, 0, 0, 0, State.reset.put RST_STATUS.PHASE 1, by decide⟩,
    ⟨0, 0, 0, 0, State.reset.put RST_STATUS.PHASE 2, by decide⟩,
    ⟨State.reset.put RST_STATUS.PHASE 4, by decide⟩,
    ⟨none, 1, 1, fcWit (.load 1 1), by decide⟩,
    ⟨none, 2, fcWit (.stage 2), by decide⟩,
    ⟨none, 1, fcWit (.verify 1), by decide⟩,
    ⟨none, 2, (fcWit (.stage 2)).put FC_STATUS.REVERTING 1, by decide⟩,
    ⟨none, 0, (fcWit (.stage 0)).put FC_STATUS.REVERTING 1, by decide⟩,
    ⟨State.reset.put FC_STATUS.PROB 1, by decide⟩,
    ⟨[], FlashEffect.none, 0x40000000, 5, State.reset.setFc fun f => { f with flCmd := some (0x40000000, 5) }, by decide⟩,
    ⟨[7], FlashEffect.none, 0x00400000, 5, State.reset.setFc fun f => { f with flCmd := some (0x00400000, 5) }, by decide⟩,
    ⟨3, [], State.reset.setFc fun f => { f with otp := [.revoke 3] }, by decide⟩,
    ⟨3, [7], [], State.reset.setFc fun f => { f with otp := [.prog 3 [7]] }, by decide⟩,
    ⟨2, [], State.reset.setFc fun f => { f with otp := [.step 2] }, by decide⟩,
    ⟨1, [], State.reset.setFc fun f => { f with otp := [.step 1] }, by decide⟩⟩

theorem wit_ResetSources :
    (∃ (idx : Fin 7) (s : State), s.pw.railsUp = true) ∧
    (∃ (s : State), s.get RST_STATUS.PHASE ≠ 0) ∧
    (∃ (x : TempReading) (s : State), s.get RST_STATUS.PHASE ≠ 0 ∧ s.get RST_STATUS.PHASE ≠ 11 ∧ s.shutdownPoint <
      x.tj.val) ∧
    (∃ (s : State), s.get RST_STATUS.PHASE = 11 ∧ s.pw.thermStay = false) ∧
    (∃ (s : State), s.rs.warm = true ∧ s.get RST_STATUS.PHASE ≠ 9) ∧
    (∃ (s : State), s.get RST_STATUS.PHASE = 9 ∧ s.rs.xrstLow = false ∧ s.rs.restored = true) ∧
    (∃ (s : State), s.get RST_STATUS.PHASE = 9 ∧ s.rs.restored = false) ∧
    (∃ (r : Retained) (s : State), s.get RST_STATUS.PHASE = 9 ∧ s.rs.restored = false ∧ s.fc.record = some r ∧
      s.fc.recGood = true ∧ (s.restoreRecord r).rs.released = false) ∧
    (∃ (path : Path) (b : Fin 32) (s : State), s.keepOut = false ∧ s.behind path = false ∧ s.hasCustody path = true) ∧
    (∃ (path : Path) (b : Fin 32) (s : State), s.keepOut = false ∧ s.behind path = false ∧ s.hasCustody path = true) ∧
    (∃ (path : Path) (key : Byte) (s : State), s.keepOut = false ∧ s.behind path = false) ∧
    (∃ (path : Path) (key : Byte) (s : State), s.keepOut = false ∧ s.behind path = false) ∧
    (∃ (path : Path) (s : State), s.keepOut = false ∧ s.behind path = false) ∧
    (∃ (path : Path) (w : Word) (s : State), s.keepOut = false ∧ s.behind path = false) ∧
    (∃ (s : State), s.get RST_STATUS.PHASE = 0) ∧
    (∃ (chip : ChipTrim) (conv : BitVec 6) (rsnsLow rsnsHigh : BitVec 40) (s : State), s.get RST_STATUS.PHASE = 1 ∧
      s.rs.coldWait = false ∧ s.rs.trimmed = 0) ∧
    (∃ (chip : ChipTrim) (conv : BitVec 6) (rsnsLow rsnsHigh : BitVec 40) (s : State), s.get RST_STATUS.PHASE = 1 ∧
      s.rs.coldWait = false ∧ s.rs.trimmed ≠ 0) ∧
    (∃ (chip : ChipTrim) (conv : BitVec 6) (rsnsLow rsnsHigh : BitVec 40) (s : State), s.get RST_STATUS.PHASE = 1 ∧
      s.rs.coldWait = false) ∧
    (∃ (r0 r1 r2 r3 : BitVec 16) (s : State), s.get RST_STATUS.PHASE = 2 ∧ strapCode r1.toNat = strapCode r0.toNat ∧
      strapCode r2.toNat = strapCode r0.toNat ∧ strapCode r3.toNat = strapCode r0.toNat) ∧
    (∃ (s : State), s.get RST_STATUS.PHASE = 4) :=
  ⟨⟨6, State.reset.setPw fun p => { p with railsUp := true }, by decide⟩,
    ⟨State.reset.put RST_STATUS.PHASE 8, by decide⟩,
    ⟨⟨15, 126⟩, State.reset.put RST_STATUS.PHASE 8, by decide⟩,
    ⟨State.reset.put RST_STATUS.PHASE 11, by decide⟩,
    ⟨(State.reset.put RST_STATUS.PHASE 8).setRs fun r => { r with warm := true }, by decide⟩,
    ⟨(State.reset.put RST_STATUS.PHASE 9).setRs fun r => { r with restored := true }, by decide⟩,
    ⟨State.reset.put RST_STATUS.PHASE 9, by decide⟩,
    ⟨⟨[], [], {}⟩, (State.reset.put RST_STATUS.PHASE 9).setFc fun f => { f with record := some ⟨[], [], {}⟩, recGood := true }, by decide⟩,
    ⟨.engine 0, 0, State.reset.put FC_CUSTODY.VALID 1, by decide⟩,
    ⟨.engine 0, 0, State.reset.put FC_CUSTODY.VALID 1, by decide⟩,
    ⟨.pcie, 0xC5, State.reset, by decide⟩,
    ⟨.pcie, 0xC5, State.reset, by decide⟩,
    ⟨.pcie, State.reset, by decide⟩,
    ⟨.tunnel 5, 0, State.reset, by decide⟩,
    ⟨State.reset, by decide⟩,
    ⟨⟨0x8000, 0x400, 1, 5⟩, 0, 0, 0, State.reset.put RST_STATUS.PHASE 1, by decide⟩,
    ⟨⟨0x8000, 0x400, 1, 5⟩, 3, 7, 7, (State.reset.put RST_STATUS.PHASE 1).setRs fun r => { r with trimmed := 1 }, by decide⟩,
    ⟨⟨0, 0, 0, 0⟩, 0, 0, 0, State.reset.put RST_STATUS.PHASE 1, by decide⟩,
    ⟨0, 0, 0, 0, State.reset.put RST_STATUS.PHASE 2, by decide⟩,
    ⟨State.reset.put RST_STATUS.PHASE 4, by decide⟩⟩

theorem wit_CableAttachAndPower :
    (∃ (c : CPort) (s : State), s.cState c.val = 0 ∧ s.freePull c.val ≠ 0 ∧ (s.port6 c.val).leaving = false) ∧
    (∃ (c : CPort) (rp : Fin 3) (s : State), s.cState c.val = 1 ∧ (s.port6 c.val).trying = false) ∧
    (∃ (c : CPort) (rp : Fin 3) (s : State), (s.port6 c.val).trying = true) ∧
    (∃ (c : CPort) (s : State), s.cState c.val = 0 ∧ s.roleAllowed c.val 1 = true ∧ s.roleAllowed c.val 2 = true) ∧
    (∃ (c : CPort) (s : State), s.cState c.val = 1 ∧ (s.port6 c.val).leaving = false) ∧
    (∃ (n : Path10) (s : State), ((s.ppClose n.val true).path n.val).dsch = true) ∧
    (∃ (c : CPort) (s : State), (s.path (2 + c.val)).dsch = true) ∧
    (∃ (c : CPort) (s : State), s.cState c.val = 9 ∧ s.ppState (2 + c.val) = 0) ∧
    (∃ (c : CPort) (objs : List Word) (s : State), s.get (cRole c.val) = 1 ∧ s.keepHold = false ∧ (s.cState c.val = 2 ∨
      s.cState c.val = 5) ∧ ¬ c.val < 4) ∧
    (∃ (c : CPort) (rdo : Word) (bus : Fin 1200) (ext : Bool) (s : State), s.get (cRole c.val) = 2 ∧ s.cState c.val = 2 ∧
      s.keepHold = true) ∧
    (∃ (c : CPort) (s : State), s.cState c.val = 3) ∧
    (∃ (c : CPort) (s : State), s.cState c.val = 4 ∧ s.get (cRole c.val) = 1) ∧
    (∃ (p : Port) (s : State), s.cState p.val = 5 ∧ s.get (cRole p.val) = 2 ∧ (s.port6 p.val).explicit = true ∧ s.silentMs
      p.val 6000 = true) ∧
    (∃ (m : Fin 2) (s : State), s.get (cRole (4 + m.val)) = 2) ∧
    (∃ (c : CPort) (s : State), s.cState c.val = 5 ∧ s.get (cRole c.val) = 1 ∧ c.val < 4) ∧
    (∃ (m : Fin 2) (s : State), s.cState (4 + m.val) = 5 ∧ s.get (cRole (4 + m.val)) = 2 ∧ 3 ≤ s.get (DK_STATE.KIND m.val)
      ∧ s.silentMs (4 + m.val) (s.kaLimitMs m.val) = true) :=
  ⟨⟨4, State.reset, by decide⟩,
    ⟨5, 2, State.reset.put (cSt 5) 1, by decide⟩,
    ⟨4, 0, State.reset.setPort6 4 fun x => { x with trying := true }, by decide⟩,
    ⟨0, State.reset.put (SW_POLICY.SP_MODE 0) 3, by decide⟩,
    ⟨0, State.reset.put (cSt 0) 1, by decide⟩,
    ⟨2, State.reset.setPath 2 fun p => { p with dsch := true }, by decide⟩,
    ⟨0, State.reset.setPath 2 fun p => { p with dsch := true }, by decide⟩,
    ⟨3, State.reset.put (cSt 3) 9, by decide⟩,
    ⟨5, [0x0001912C], (State.reset.put (cRole 5) 1).put (cSt 5) 2, by decide⟩,
    ⟨0, 0, 0, false, ((State.reset.put (cRole 0) 2).put (cSt 0) 2).put KL_STATUS.HOLD 1, by decide⟩,
    ⟨0, State.reset.put (cSt 0) 3, by decide⟩,
    ⟨0, (State.reset.put (cSt 0) 4).put (cRole 0) 1, by decide⟩,
    ⟨3, (((State.reset.put (cSt 3) 5).put (cRole 3) 2).setPort6 3 fun x => { x with explicit := true }).setTm fun t => { t with tick := 7500000000 }, by decide⟩,
    ⟨1, State.reset.put (cRole 5) 2, by decide⟩,
    ⟨3, (State.reset.put (cSt 3) 5).put (cRole 3) 1, by decide⟩,
    ⟨1, (((State.reset.put (cSt 5) 5).put (cRole 5) 2).put (DK_STATE.KIND 1) 3).setTm fun t => { t with tick := 16250000000 }, by decide⟩⟩

theorem wit_CableSwapsAndModes :
    (∃ (c : CPort) (s : State), s.cState c.val = 7 ∧ (s.port6 c.val).swap = 2 ∧ (s.port6 c.val).toSource = false) ∧
    (∃ (m : Fin 2) (s : State), s.cState (4 + m.val) = 2 ∧ s.keepHold = false ∧ s.on (DK_POLICY.VCONN_EN m.val) = true) ∧
    (∃ (m : Fin 2) (s : State), (s.port6 (4 + m.val)).drSent = true) ∧
    (∃ (c : CPort) (s : State), 2 ≤ s.cState c.val ∧ s.cState c.val ≠ 9) ∧
    (∃ (c : CPort) (rp : Fin 3) (s : State), s.cState c.val = 8 ∧ (s.path (2 + c.val)).dsch = false) ∧
    (∃ (m : Fin 2) (s : State), s.on (DK_STATE.VCONN_ON m.val) = true) ∧
    (∃ (m : Fin 2) (s : State), s.cState (4 + m.val) < 2) ∧
    (∃ (c : CPort) (s : State), s.frsEn c.val = true ∧ s.get (cRole c.val) = 2 ∧ (s.cState c.val = 5 ∨ s.cState c.val = 6)
      ∧ s.feedOn = false ∧ s.ppState (2 + c.val) = 4) ∧
    (∃ (c : CPort) (busOk : Bool) (s : State), s.get (cRole c.val) = 1 ∧ s.fsArmed c.val busOk = false) ∧
    (∃ (c : CPort) (s : State), (s.port6 c.val).swap = 2 ∧ (s.port6 c.val).toSource = false) ∧
    (∃ (m : Fin 2) (s : State), s.altOffered m.val = true) ∧
    (∃ (m : Fin 2) (s : State), s.altOffered m.val = true) ∧
    (∃ (m : Fin 2) (s : State), s.altOffered m.val = true) ∧
    (∃ (m : Fin 2) (s : State), s.altOffered m.val = true) ∧
    (∃ (m : Fin 2) (pin : Fin 8) (s : State), s.altOffered m.val = true ∧ (pin.val = 2 ∨ pin.val = 4)) ∧
    (∃ (m : Fin 2) (s : State), s.on (DK_STATE.ALT_ON m.val) = true) ∧
    (∃ (m : Fin 2) (s : State), s.altOffered m.val = true) :=
  ⟨⟨0, (State.reset.put (cSt 0) 7).setPort6 0 fun x => { x with swap := 2 }, by decide⟩,
    ⟨0, ((State.reset.put (cSt 4) 2).put (DK_POLICY.VCONN_EN 0) 1), by decide⟩,
    ⟨1, State.reset.setPort6 5 fun x => { x with drSent := true }, by decide⟩,
    ⟨0, State.reset.put (cSt 0) 5, by decide⟩,
    ⟨0, 1, State.reset.put (cSt 0) 8, by decide⟩,
    ⟨1, State.reset.put (DK_STATE.VCONN_ON 1) 1, by decide⟩,
    ⟨1, State.reset, by decide⟩,
    ⟨0, (((State.reset.put (SW_POLICY.FRS_EN 0) 1).put (cRole 0) 2).put (cSt 0) 5).put (PP_STATUS.STATE 2) 4, by decide⟩,
    ⟨0, false, State.reset.put (cRole 0) 1, by decide⟩,
    ⟨0, State.reset.setPort6 0 fun x => { x with swap := 2 }, by decide⟩,
    ⟨0, (State.reset.put (DK_POLICY.ALT_EN 0) 1).put (DA_CFG.CAP_SRC 0) 1, by decide⟩,
    ⟨0, (State.reset.put (DK_POLICY.ALT_EN 0) 1).put (DA_CFG.CAP_SRC 0) 1, by decide⟩,
    ⟨0, (State.reset.put (DK_POLICY.ALT_EN 0) 1).put (DA_CFG.CAP_SRC 0) 1, by decide⟩,
    ⟨0, (State.reset.put (DK_POLICY.ALT_EN 0) 1).put (DA_CFG.CAP_SRC 0) 1, by decide⟩,
    ⟨0, 4, (State.reset.put (DK_POLICY.ALT_EN 0) 1).put (DA_CFG.CAP_SRC 0) 1, by decide⟩,
    ⟨1, State.reset.put (DK_STATE.ALT_ON 1) 1, by decide⟩,
    ⟨0, (State.reset.put (DK_POLICY.ALT_EN 0) 1).put (DA_CFG.CAP_SRC 0) 1, by decide⟩⟩

theorem wit_SpineTrainingCommands :
    (∃ (p : Port) (s : State), s.spState p.val ≠ stDisabled ∧ s.spState p.val ≠ stHoldoff ∧ s.spState p.val ≠ stTest) ∧
    (∃ (p : Port) (rate : Fin 3) (s : State), s.spState p.val = stDetect ∧ rate.val = s.get (SP_STATE.RATE p.val)) ∧
    (∃ (p : Port) (good : BitVec 5) (fast : Bool) (s : State), s.spState p.val = stLock ∧ 4 ≤ popCount good.toNat 5) ∧
    (∃ (p : Port) (pperm : BitVec 5) (s : State), s.spState p.val = stEqualize ∧ ((List.range 5).all fun k => (s.lane
      p.val k).rxReady && (s.lane p.val k).partReady) = true) ∧
    (∃ (p : Port) (s : State), s.spState p.val = stAlign ∧ s.alignedTwice p.val = true ∧ (s.rxLanes p.val
      roleActive).length = 4) ∧
    (∃ (p : Port) (rxClean txClean pperm : BitVec 5) (s : State), (s.spState p.val = stLock ∨ s.spState p.val = stAlign ∨
      s.spState p.val = stCaps)) ∧
    (∃ (p : Port) (s : State), s.spState p.val = stHoldoff) ∧
    (∃ (p : Port) (w : LaneNo) (b : BitVec 160) (margin : Fin 64) (ask : Option (Fin 4 × Fin 3 × Fin 8)) (n : Nat) (inv :
      Bool) (s : State), readBlock b = some (n, inv) ∧ bits n 123 121 ≤ 4) ∧
    (∃ (p : Port) (w : LaneNo) (b : BitVec 160) (margin : Fin 64) (ask : Option (Fin 4 × Fin 3 × Fin 8)) (s : State),
      readBlock b = none) ∧
    (∃ (p : Port) (k : LaneNo) (s : State), (s.lane p.val k.val).reqOut = true ∧ (s.lane p.val k.val).reqReps < 16) ∧
    (∃ (p : Port) (bad : Bool) (s : State), s.spState p.val = stTest) ∧
    (∃ (p : Port) (bad : Bool) (s : State), (s.spState p.val = stDetect ∨ s.spState p.val = stLock ∨ s.spState p.val =
      stEqualize ∨ s.spState p.val = stCheck)) ∧
    (∃ (p : Port) (s : State), s.spState p.val = stActive ∧ (s.port p.val).pauseLane = none ∧ (s.port p.val).slotIx %
      16384 ≠ 0) ∧
    (∃ (p : Port) (s : State), s.spState p.val = stActive ∧ (s.port p.val).pauseLane = none ∧ s.replayDue p.val = true) :=
  ⟨⟨3, State.reset.put (SP_STATE.STATE 3) stLock, by decide⟩,
    ⟨3, 2, (State.reset.put (SP_STATE.STATE 3) stDetect).put (SP_STATE.RATE 3) 2, by decide⟩,
    ⟨3, 30, true, State.reset.put (SP_STATE.STATE 3) stLock, by decide⟩,
    ⟨0, 0, (((((State.reset.put (SP_STATE.STATE 0) stEqualize).setLane 0 0 fun l => { l with rxReady := true, partReady := true }).setLane 0 1 fun l => { l with rxReady := true, partReady := true }).setLane 0 2 fun l => { l with rxReady := true, partReady := true }).setLane 0 3 fun l => { l with rxReady := true, partReady := true }).setLane 0 4 fun l => { l with rxReady := true, partReady := true }, by decide⟩,
    ⟨3, ((((((((State.reset.put (SP_STATE.STATE 3) stAlign).put (LN_RX_STAT.ROLE 3 0) roleActive).put (LN_RX_STAT.ROLE 3 1) roleActive).put (LN_RX_STAT.ROLE 3 2) roleActive).put (LN_RX_STAT.ROLE 3 3) roleActive).setLane 3 0 fun l => { l with goodRun := 2 }).setLane 3 1 fun l => { l with goodRun := 2 }).setLane 3 2 fun l => { l with goodRun := 2 }).setLane 3 3 fun l => { l with goodRun := 2 }, by decide⟩,
    ⟨3, 0, 0, 0, State.reset.put (SP_STATE.STATE 3) stAlign, by decide⟩,
    ⟨3, State.reset.put (SP_STATE.STATE 3) stHoldoff, by decide⟩,
    ⟨3, 4, 0xb4c31e6d0000000000000000000000000000bb3b#160, 0, none, 0xb4c31e6d0000000000000000000000000000bb3b, false, State.reset, by decide⟩,
    ⟨3, 4, 0#160, 0, none, State.reset, by decide⟩,
    ⟨3, 4, State.reset.setLane 3 4 fun l => { l with reqOut := true, reqReps := 15 }, by decide⟩,
    ⟨3, false, State.reset.put (SP_STATE.STATE 3) stTest, by decide⟩,
    ⟨3, true, State.reset.put (SP_STATE.STATE 3) stLock, by decide⟩,
    ⟨3, (State.reset.put (SP_STATE.STATE 3) stActive).setPort 3 fun x => { x with slotIx := 5 }, by decide⟩,
    ⟨3, ((State.reset.put (SP_STATE.STATE 3) stActive).setPort 3 fun x => { x with slotIx := 5 }).setLink 3 fun l => { l with replay := [⟨1, 0, []⟩], resend := some 0 }, by decide⟩⟩

theorem wit_SpineLaneDetourCommands :
    (∃ (p : Port) (w : LaneNo) (m : BitVec 160) (rxBip : BitVec 8) (margin : Fin 64) (arrival pauseNs : BitVec 16) (n :
      Nat) (s : State), (s.spState p.val = stAlign ∨ s.spState p.val = stCaps ∨ s.spState p.val = stActive) ∧ readMarker m
      = some n ∧ bits n 111 109 ≤ 4) ∧
    (∃ (p : Port) (w : LaneNo) (m : BitVec 160) (rxBip : BitVec 8) (margin : Fin 64) (arrival pauseNs : BitVec 16) (s :
      State), (s.spState p.val = stAlign ∨ s.spState p.val = stCaps ∨ s.spState p.val = stActive) ∧ readMarker m = none) ∧
    (∃ (p : Port) (k : LaneNo) (s : State), s.spState p.val = stActive) ∧
    (∃ (p : Port) (k : LaneNo) (s : State), s.spState p.val = stActive) ∧
    (∃ (p : Port) (k : LaneNo) (s : State), s.spState p.val = stActive) ∧
    (∃ (p : Port) (lane : LaneNo) (s : State), s.spState p.val = stActive ∧ (s.port p.val).narrowTo = none) ∧
    (∃ (p : Port) (lane : LaneNo) (s : State), s.spState p.val = stActive ∧ (s.port p.val).narrowTo.isSome = true) ∧
    (∃ (p : Port) (keep : List Nat) (spare : Option Nat) (s : State), (s.port p.val).narrowTo = some (keep, spare)) :=
  ⟨⟨3, 4, 0x4d1fa6e29c354000000000c8b2e0591d63ca0000#160, 0, 0, 0, 0, 0x4d1fa6e29c354000000000c8b2e0591d63ca0000, State.reset.put (SP_STATE.STATE 3) stActive, by decide⟩,
    ⟨3, 4, 0, 0, 0, 0, 0, State.reset.put (SP_STATE.STATE 3) stActive, by decide⟩,
    ⟨3, 4, State.reset.put (SP_STATE.STATE 3) stActive, by decide⟩,
    ⟨3, 4, State.reset.put (SP_STATE.STATE 3) stActive, by decide⟩,
    ⟨3, 4, State.reset.put (SP_STATE.STATE 3) stActive, by decide⟩,
    ⟨3, 0, State.reset.put (SP_STATE.STATE 3) stActive, by decide⟩,
    ⟨3, 0, (State.reset.put (SP_STATE.STATE 3) stActive).setPort 3 fun x => { x with narrowTo := some ([0, 1], none) }, by decide⟩,
    ⟨3, [0, 1], none, State.reset.setPort 3 fun x => { x with narrowTo := some ([0, 1], none) }, by decide⟩⟩

theorem wit_SpineLinkFrameCommands :
    (∃ (p : Port) (seq ack : BitVec 12) (ackv retry ecc : Bool) (s : State), s.spState p.val = stActive ∧
      ({ seq := seq.toNat, ack := ack.toNat, ftype := 3, ackv := ackv, retry := retry, idle := true } : Trailer).malformed
      = false ∧ seqDistance seq.toNat (s.get (LK_SEQ_RX.EXPECTED p.val)) ≠ 2048) ∧
    (∃ (p : Port) (s : State), (s.link p.val).accepted ≠ 0) ∧
    (∃ (p : Port) (s : State), (s.link p.val).nakOwed = false) ∧
    (∃ (p : Port) (s : State), s.spState p.val = stActive ∧ (s.link p.val).replay ≠ [] ∧ (s.port p.val).pauseLane = none)
      ∧
    (∃ (p : Port) (s : State), s.spState p.val ≠ stActive) ∧
    (∃ (p : Port) (s : State), s.spState p.val = stActive) ∧
    (∃ (p : Port) (ret : BitVec 128) (s : State), s.spState p.val = stActive) ∧
    (∃ (p : Port) (slot : List Byte) (s : State), s.spState p.val = stCaps) ∧
    (∃ (p : Port) (id : BitVec 16) (ta arrived : Stamp) (s : State), s.spState p.val = stActive) ∧
    (∃ (p : Port) (id : BitVec 16) (ta tb tc arrived : Stamp) (s : State), s.spState p.val = stActive ∧ id.toNat = (s.link
      p.val).delayId ∧ (s.link p.val).delays = []) :=
  ⟨⟨3, 1, 0, true, false, false, State.reset.put (SP_STATE.STATE 3) stActive, by decide⟩,
    ⟨3, State.reset.setLink 3 fun l => { l with accepted := 1 }, by decide⟩,
    ⟨3, State.reset, by decide⟩,
    ⟨3, (State.reset.put (SP_STATE.STATE 3) stActive).setLink 3 fun l => { l with replay := [⟨1, 0, []⟩] }, by decide⟩,
    ⟨3, State.reset, by decide⟩,
    ⟨3, State.reset.put (SP_STATE.STATE 3) stActive, by decide⟩,
    ⟨3, 1, State.reset.put (SP_STATE.STATE 3) stActive, by decide⟩,
    ⟨3, [], State.reset.put (SP_STATE.STATE 3) stCaps, by decide⟩,
    ⟨3, 9, ⟨0, 0, 0⟩, ⟨0, 0, 0⟩, State.reset.put (SP_STATE.STATE 3) stActive, by decide⟩,
    ⟨3, 0, ⟨0, 0, 0⟩, ⟨0, 0, 0⟩, ⟨0, 0, 0⟩, ⟨0, 0, 0⟩, State.reset.put (SP_STATE.STATE 3) stActive, by decide⟩⟩

theorem wit_SpineIdentityCommands :
    (∃ (p : Port) (h : Ident) (port deadN : Byte) (period : BitVec 16) (s : State), s.spState p.val = stActive) ∧
    (∃ (p : Port) (h : Ident) (msSec : BitVec 48) (msNs : BitVec 32) (s : State), s.spState p.val = stActive ∧ h.idv =
      false) ∧
    (∃ (p : Port) (h : Ident) (msSec : BitVec 48) (msNs : BitVec 32) (s : State), s.spState p.val = stActive ∧ h.idv =
      true ∧ ((((s.put (LK_BEACON.MISS p.val) 0).setLink p.val fun l => { l with beacon := true }).fenceIfStale p.val h.id
      h.inc.toNat h.serial.toNat).answerOlder p.val h.id h.inc.toNat h.serial.toNat).lState p.val ≠ lkDead) ∧
    (∃ (p : Port) (roleId : Fin 2048) (roleInc : BitVec 16) (roleSerial : BitVec 64) (vacated : Option (Fin 2048)) (hops :
      Byte) (s : State), s.spState p.val = stActive ∧ s.lState p.val = lkOpen ∧ hops ≠ 0 ∧ s.incEntry roleId.val = none) ∧
    (∃ (p : Port) (roleId : Fin 2048) (roleInc : BitVec 16) (roleSerial : BitVec 64) (s : State), s.spState p.val =
      stActive) ∧
    (∃ (p : Port) (takeId : Option (Fin 2048)) (minInc : BitVec 16) (roleId : Fin 2048) (roleInc : BitVec 16) (s : State),
      s.spState p.val = stActive ∧ s.on ID_HUB.ID_V = true ∧ s.hubId = roleId.val) :=
  ⟨⟨3, ⟨false, true, 5, 1, 77⟩, 0, 3, 8, State.reset.put (SP_STATE.STATE 3) stActive, by decide⟩,
    ⟨3, ⟨false, false, 5, 1, 77⟩, 0, 0, State.reset.put (SP_STATE.STATE 3) stActive, by decide⟩,
    ⟨3, ⟨false, true, 5, 1, 77⟩, 0, 0, (State.reset.put (SP_STATE.STATE 3) stActive).put (LK_STATE.LSTATE 3) lkOpen, by decide⟩,
    ⟨3, 5, 1, 77, none, 2, (State.reset.put (SP_STATE.STATE 3) stActive).put (LK_STATE.LSTATE 3) lkOpen, by decide⟩,
    ⟨3, 5, 1, 77, State.reset.put (SP_STATE.STATE 3) stActive, by decide⟩,
    ⟨1, some 7, 5, 0, 0, (State.reset.put (SP_STATE.STATE 1) stActive).put ID_HUB.ID_V 1, by decide⟩⟩

theorem wit_JunctionCommands :
    (∃ (i : JPort) (c : Cell) (rest : List Cell) (s s' : State), tget [] i.val s.jn.held = List.cons c rest ∧ s.tryShaped
      i.val c = some s') ∧
    (∃ (p : Port) (s : State), (s.link p.val).failDue = true ∧ s.mpFailed p.val = false) ∧
    (∃ (p : Port) (s : State), (s.jn.drainQ.filter fun e => e.1 == p.val && e.2.1) = []) ∧
    (∃ (o : Fin 9) (c : Cell) (s s' : State), s.pick (o.val + 4) = .copy ∧ s.takePick (o.val + 4) .copy = (some c, s') ∧
      (tget [] (o.val + 4) s.jn.fifo).length ≤ 32 ∧ o.val ≠ 5) ∧
    (∃ (o : Fin 9) (c : Nat) (s : State), s.pick (o.val + 4) = .cls c false ∧ (tget [] (o.val + 4) s.jn.fifo).length < 64)
      ∧
    (∃ (o : Fin 9) (s : State), s.pick (o.val + 4) = .nothing) :=
  ⟨⟨13, ⟨0, []⟩, [], (State.reset.setJn fun j => { j with held := [(13, [⟨0, []⟩])] }), ((State.reset.setJn fun j => { j with held := [(13, [⟨0, []⟩])] }).tryShaped 13 ⟨0, []⟩).getD State.reset, by decide⟩,
    ⟨3, State.reset.setLink 3 fun l => { l with failDue := true }, by decide⟩,
    ⟨3, State.reset.put JN_STATUS.DRAINING 8, by decide⟩,
    ⟨6, ⟨0, []⟩, (State.reset.setCopyStage 10 [⟨⟨0, []⟩, true, false, 0⟩]), (State.reset.setCopyStage 10 [⟨⟨0, []⟩, true, false, 0⟩]).setCopyStage 10 [], by decide⟩,
    ⟨0, 7, ((State.reset.writeSheet 4 1 0 0x8007).put (IMP_PORT_CTL.BANK 4) 1).setStage 4 7 [⟨⟨0, []⟩, true, false, 0⟩], by decide⟩,
    ⟨6, State.reset, by decide⟩⟩

theorem wit_ImpositionCommands :
    (∃ (o : Fin 13) (e : Nat × Bool) (s : State), (s.imp.flipDue.find? fun e => e.1 == o.val) = some e) ∧
    (∃ (o : Fin 13) (s : State), s.on (IMP_PORT_CTL.COPY_BUSY o.val) = true) ∧
    (∃ (r : Fin 4096) (w : AdmWait) (s : State), s.imp.waiting.find? (·.slot == r.val) = some w) ∧
    (∃ (i : Nat) (m : AdmMsg) (s : State), s.ringTake admAdmit = some (i, m)) ∧
    (∃ (i r : Nat) (m : AdmMsg) (s : State), s.ringTake admRelease = some (i, m) ∧ s.findRec m.key.toNat = some r) ∧
    (∃ (i r : Nat) (m : AdmMsg) (s : State), s.ringTake admGive = some (i, m) ∧ s.findRec m.key.toNat = some r) :=
  ⟨⟨12, (12, true), State.reset.setImp fun i => { i with flipDue := [(12, true)] }, by decide⟩,
    ⟨12, State.reset.put (IMP_PORT_CTL.COPY_BUSY 12) 1, by decide⟩,
    ⟨7, { slot := 7 }, State.reset.setImp fun i => { i with waiting := [{ slot := 7 }] }, by decide⟩,
    ⟨0, ((ringWit 1 false).ringMsg 0).2, ringWit 1 false, by decide⟩,
    ⟨0, 0, ((ringWit 4 true).ringMsg 0).2, ringWit 4 true, by decide⟩,
    ⟨0, 0, ((ringWit 6 true).ringMsg 0).2, ringWit 6 true, by decide⟩⟩

theorem wit_CaptureCommands :
    (∃ (d : Fin 2) (w h vnom : BitVec 12) (bpc : Fin 3) (lrate : BitVec 20) (crc : BitVec 32) (sdps : BitVec 8) (s :
      State), s.capOn d.val = true ∧ s.modeDiffers d.val w.toNat h.toNat bpc.val = false) ∧
    (∃ (d : Fin 2) (line : BitVec 12) (px : List (BitVec 30)) (s : State), s.capOn d.val = true ∧ px.length = s.get
      (DA_CAP_EXP_H.EXP_W d.val) ∧ (s.disp d.val).capMode = 1) ∧
    (∃ (d : Fin 2) (on : Bool) (s : State), (on = false ∨ s.on (DA_CFG.STATIC_MODE d.val) = false)) ∧
    (∃ (d : Fin 2) (addr : BitVec 20) (lenM1 : Fin 16) (data : List Byte) (s : State), s.capOn d.val = true) ∧
    (∃ (d : Fin 2) (tunnel : BitVec 12) (s : State), tunnel.toNat = s.get (DA_CAP_TUN.TUNNEL d.val) ∧ (s.disp
      d.val).lending = 0 ∧ s.capRec d.val = none) :=
  ⟨⟨1, 0x780, BitVec.ofNat 12 ((capWit 1).get (DA_CAP_EXP_V.EXP_H 1)), 0, 1, 60, 0, 3, capWit 1, by decide⟩,
    ⟨1, 0, List.replicate 1920 0, capWit 1, by decide⟩,
    ⟨1, false, State.reset, by decide⟩,
    ⟨1, 0x100, 0, [6], capWit 1, by decide⟩,
    ⟨1, 0, State.reset, by decide⟩⟩

theorem wit_PlatenCommands :
    (∃ (d : Fin 2) (c : Cell) (s : State), c.tc ≠ 7 ∧ c.tunnel = s.get (DA_PL_TUN.PL_TUNNEL d.val) ∧ plTrain < s.plState
      d.val ∧ c.pos = 1) ∧
    (∃ (d : Fin 2) (ranOut : Bool) (s : State), (s.plState d.val = plFreerun ∨ s.plState d.val = plRaster) ∧ (s.endScan
      d.val).on (DA_PL_STATUS.IN_BLANK d.val) = false ∧ (s.endScan d.val).get (DA_PL_V.PL_V_ACTIVE d.val) ≤ (s.endScan
      d.val).get (DA_PL_STATUS.PL_LINE d.val) + 1) ∧
    (∃ (d : Fin 2) (ranOut : Bool) (s : State), (s.plState d.val = plFreerun ∨ s.plState d.val = plRaster) ∧ (s.endScan
      d.val).on (DA_PL_STATUS.IN_BLANK d.val) = false ∧ (s.endScan d.val).get (DA_PL_STATUS.PL_LINE d.val) + 1 <
      (s.endScan d.val).get (DA_PL_V.PL_V_ACTIVE d.val)) ∧
    (∃ (d : Fin 2) (ranOut : Bool) (s : State), (s.plState d.val = plFreerun ∨ s.plState d.val = plRaster) ∧ (s.endScan
      d.val).on (DA_PL_STATUS.IN_BLANK d.val) = true ∧ ((s.endScan d.val).setDisp d.val fun x =>
      { x with slots := x.slots + 1 }).frameStarts d.val ((s.endScan d.val).get (DA_PL_STATUS.PL_LINE d.val) + 1) = none)
      ∧
    (∃ (d : Fin 2) (s : State), s.plState d.val = plRaster) ∧
    (∃ (d : Fin 2) (s : State), s.plState d.val = plPsr) ∧
    (∃ (d : Fin 2) (lanes : Fin 3) (rate : Fin 8) (s : State), s.plState d.val = plTrain ∧ s.mayTrain d.val lanes.val
      rate.val = true ∧ s.get (DA_PL_CLK.PCLK_KHZ d.val) * 3000 * bpcOf (s.get (DA_CFG.OUT_BPC d.val)) ≤ 2 ^ lanes.val *
      dpRate rate.val * 800000) ∧
    (∃ (d : Fin 2) (s : State), s.hasJ (4 + d.val) = true) ∧
    (∃ (d : Fin 2) (s : State), s.hasJ (4 + d.val) = true) ∧
    (∃ (d : Fin 2) (s : State), s.hasJ (4 + d.val) = true) ∧
    (∃ (d : Fin 2) (result : Fin 4) (s : State), s.on (DA_AUX_CTL.BUSY d.val) = true) :=
  ⟨⟨1, ⟨0x20000000, []⟩, State.reset.put (DA_PL_STATUS.PL_STATE 1) plRaster, by decide⟩,
    ⟨1, false, (State.reset.put (DA_PL_STATUS.PL_STATE 1) plRaster).put (DA_PL_STATUS.PL_LINE 1) 4095, by decide⟩,
    ⟨1, false, (State.reset.put (DA_PL_STATUS.PL_STATE 1) plRaster).put (DA_PL_V.PL_V_ACTIVE 1) 1080, by decide⟩,
    ⟨1, false, ((State.reset.put (DA_PL_STATUS.PL_STATE 1) plRaster).put (DA_PL_STATUS.IN_BLANK 1) 1).put (DA_PL_VB.VBLANK_MAX 1) 50, by decide⟩,
    ⟨1, State.reset.put (DA_PL_STATUS.PL_STATE 1) plRaster, by decide⟩,
    ⟨1, State.reset.put (DA_PL_STATUS.PL_STATE 1) plPsr, by decide⟩,
    ⟨1, 2, 3, State.reset.put (DA_PL_STATUS.PL_STATE 1) plTrain, by decide⟩,
    ⟨1, State.reset.put ID_PRESENT.JPORT 0x30, by decide⟩,
    ⟨1, State.reset.put ID_PRESENT.JPORT 0x30, by decide⟩,
    ⟨1, State.reset.put ID_PRESENT.JPORT 0x30, by decide⟩,
    ⟨1, 2, State.reset.put (DA_AUX_CTL.BUSY 1) 1, by decide⟩⟩

theorem wit_StorageCommands :
    (∃ (hdr payload : List Byte) (s : State), s.linkLive = true) ∧
    (∃ (p : Pdu) (reqShort : Fin 4) (cplShort : Bool) (n : Nat) (s : State), s.endOf p.tun.toNat = some n ∧ s.bState n ≠
      bsUnbound ∧ s.pduGood 1 p n = true) ∧
    (∃ (p : Pdu) (s : State), p.plen = 8 ∧ p.body.length = 8 ∧ s.downBinding = true ∧ p.tun.toNat = s.get PX_CFG.TUN_BASE
      ∧ s.poolsBad = false ∧ s.on PX_DB.BOUND = false) ∧
    (∃ (p : Pdu) (n : Nat) (s : State), s.endOf p.tun.toNat = some n ∧ s.bState n = bsRequested ∧ n < 8 ∧ (s.bind n).wait
      = none ∧ s.pduGood 3 p n = true) ∧
    (∃ (p : Pdu) (n : Nat) (s : State), s.endOf p.tun.toNat = some n ∧ s.bState n = bsRequested ∧ n < 8 ∧ (s.bind n).wait
      = none ∧ s.pduGood 4 p n = true) ∧
    (∃ (p : Pdu) (n : Nat) (s : State), s.endOf p.tun.toNat = some n ∧ s.bState n ≠ bsUnbound ∧ s.pduGood 5 p n = true) ∧
    (∃ (p : Pdu) (n : Nat) (s : State), s.endOf p.tun.toNat = some n ∧ n < 8 ∧ bsBound ≤ s.bState n ∧ s.pduGood 6 p n =
      true) ∧
    (∃ (p : Pdu) (n : Nat) (s : State), s.endOf p.tun.toNat = some n ∧ s.bState n ≠ bsUnbound ∧ s.pduGood 7 p n = true) ∧
    (∃ (p : Pdu) (s : State), s.endOf p.tun.toNat = some 8 ∧ s.bState 8 ≠ bsUnbound ∧ s.pduGood 8 p 8 = true ∧ 1 ≤
      p.arg.toNat ∧ p.arg.toNat ≤ 3) ∧
    (∃ (p : Pdu) (s : State), s.endOf p.tun.toNat = some 8 ∧ s.bState 8 ≠ bsUnbound ∧ s.pduGood 9 p 8 = true) ∧
    (∃ (n : Fin 9) (s : State), s.bindTmo ≤ (s.bind n.val).quiet ∧ n.val ≠ 8 ∧ s.bState n.val = bsUp) ∧
    (∃ (n : Fin 9) (s : State), s.bState n.val = bsRequested ∧ s.bindTmo ≤ (s.bind n.val).asked ∧ (s.bind n.val).wait =
      none) ∧
    (∃ (n : Fin 9) (s : State), n.val = 8 ∧ s.bState n.val ≠ bsRequested ∧ s.bindTmo ≤ (s.bind n.val).quiet) ∧
    (∃ (n : Fin 9) (short : Fin 8) (s : State), bsBound ≤ s.bState n.val) ∧
    (∃ (s : State), s.upSwitch = true) ∧
    (∃ (t : Nat) (s : State), s.px.refStart = some t ∧ 100000000 ≤ s.elapsed t ∧ s.on PX_LINK.PERST = true) ∧
    (∃ (up : Bool) (width : Fin 3) (speed : Fin 4) (ltssm : Fin 64) (s : State), s.downBinding = true ∧ s.linkWithin up
      width.val speed.val = true) ∧
    (∃ (up : Bool) (width : Fin 3) (speed : Fin 4) (ltssm : Fin 64) (s : State), s.upSwitch = true ∧ s.px.perstIn = false
      ∧ s.linkWithin up width.val speed.val = true) ∧
    (∃ (vp : Fin 8) (s : State), s.upSwitch = true) ∧
    (∃ (vp : Fin 8) (set : Bool) (s : State), s.upSwitch = true ∧ s.bState vp.val = bsUp) ∧
    (∃ (vp : Fin 8) (set : Bool) (s : State), s.upSwitch = true ∧ s.bState vp.val ≠ bsUp) :=
  ⟨⟨[], [], pxDown, by decide⟩,
    ⟨pduWit 1 12 0, 0, false, 0, pxUp 3, by decide⟩,
    ⟨pduWit 2 8 0, pxDown, by decide⟩,
    ⟨pduWit 3 4 1, 0, pxUp 1, by decide⟩,
    ⟨pduWit 4 0 1, 0, pxUp 1, by decide⟩,
    ⟨pduWit 5 6 0, 0, pxUp 3, by decide⟩,
    ⟨pduWit 6 1 1, 0, pxUp 2, by decide⟩,
    ⟨pduWit 7 0 1, 0, pxUp 2, by decide⟩,
    ⟨pduWit 8 0 1, pxDown.put PX_DB.BOUND 1, by decide⟩,
    ⟨pduWit 9 0 0, pxDown.put PX_DB.BOUND 1, by decide⟩,
    ⟨0, (pxUp 3).setBind 0 fun b => { b with quiet := 1000 }, by decide⟩,
    ⟨0, (pxUp 1).setBind 0 fun b => { b with asked := 1000 }, by decide⟩,
    ⟨8, (pxDown.put PX_DB.BOUND 1).setBind 8 fun b => { b with quiet := 1000 }, by decide⟩,
    ⟨0, 0, pxUp 3, by decide⟩,
    ⟨pxUp 0, by decide⟩,
    ⟨0, (({ pxDown with tm := { pxDown.tm with tick := 1000000000 } }).setPx fun x => { x with refStart := some 0 }).put PX_LINK.PERST 1, by decide⟩,
    ⟨true, 0, 0, 17, pxDown, by decide⟩,
    ⟨true, 0, 0, 17, pxUp 0, by decide⟩,
    ⟨0, pxUp 3, by decide⟩,
    ⟨0, true, pxUp 3, by decide⟩,
    ⟨0, true, pxUp 1, by decide⟩⟩

theorem wit_EthernetCommands :
    (∃ (e : Fin 2) (f : List Byte) (s : State), s.ethOn e.val = true ∧ s.on (EN_STATUS.LINK_UP e.val) = true ∧ fcsGood f =
      true ∧ s.frameFits e.val f = true ∧ beAt f 12 2 ≠ 0x8808 ∧ s.rejects e.val f = false) ∧
    (∃ (e : Fin 2) (c : Cell) (s : State), s.ethOn e.val = true) ∧
    (∃ (e : Fin 2) (want : Bool) (tag : Byte) (f : List Byte) (s : State), s.ethOn e.val = true) ∧
    (∃ (e : Fin 2) (f : EthFrame) (rest : List EthFrame) (s : State), s.ethOn e.val = true ∧ s.on (EN_STATUS.LINK_UP
      e.val) = true ∧ (s.ethA e.val).pauseUntil ≤ s.tm.tick ∧ (s.ethA e.val).txq = List.cons f rest) ∧
    (∃ (e : Fin 2) (up : Bool) (speed : Fin 3) (s : State), s.hasJ (7 + e.val) = true) :=
  ⟨⟨1, withFcs (List.replicate 60 0), ethWit, by decide⟩,
    ⟨1, ⟨0, []⟩, ethWit, by decide⟩,
    ⟨1, true, 3, [], ethWit, by decide⟩,
    ⟨1, ⟨[], false, none⟩, [], ethWit.setEth 1 fun x => { x with txq := [⟨[], false, none⟩] }, by decide⟩,
    ⟨1, true, 1, State.reset.put ID_PRESENT.JPORT 0x180, by decide⟩⟩

theorem wit_LocalBusCommands :
    (∃ (s : State), s.lbOn = true) ∧
    (∃ (write : Bool) (addr : Word) (en : BitVec 64) (data : List Byte) (n : Nat) (s : State), s.lbOn = true ∧ s.get
      LB_STATUS.OWNER = 2 ∧ s.lb.heldDev = none ∧ s.inImage ⟨write, addr.toNat, runBytes en, if write then padTo (runBytes
      en) data else []⟩ = false ∧ s.winOf addr.toNat = some n) ∧
    (∃ (s : State), s.get LB_STATUS.OWNER = 2 ∧ s.lb.heldDev = none) ∧
    (∃ (r : Inbound) (b : Bridge) (s : State), s.lbOn = true ∧ s.get LB_STATUS.OWNER = 0 ∧ s.lb.breq = false ∧
      s.lb.nextCycle = some (.posted r, b)) ∧
    (∃ (c : HubCyc) (data : List Byte) (s : State), s.lb.cur = some c) ∧
    (∃ (c : HubCyc) (s : State), s.lb.cur = some c) ∧
    (∃ (c : DevCyc) (t : Nat) (s : State), s.retryHeld.lb.heldDev = some (c, t) ∧ s.retryHeld.winOf c.addr = none ∧
      c.write = true ∧ max 1 (s.retryHeld.get LB_CFG.FAR_TMO) * 1000 ≤ s.retryHeld.elapsed t) :=
  ⟨⟨lbWit, by decide⟩,
    ⟨false, 0, 15, [], 3, (lbWit.put LB_STATUS.OWNER 2).put JN_CFG.LOSSLESS 255, by decide⟩,
    ⟨lbWit.put LB_STATUS.OWNER 2, by decide⟩,
    ⟨⟨3, 0, lbMsg⟩, { lastWin := true }, lbWit.setLb fun b => { b with inPosted := [⟨3, 0, lbMsg⟩] }, by decide⟩,
    ⟨.poll 3, [7], lbWit.setLb fun b => { b with cur := some (.poll 3) }, by decide⟩,
    ⟨.poll 3, lbWit.setLb fun b => { b with cur := some (.poll 3) }, by decide⟩,
    ⟨⟨true, 0xFFFFFFFF, 1, [1]⟩, 0, { (lbWit.setLb fun b => { b with heldDev := some (⟨true, 0xFFFFFFFF, 1, [1]⟩, 0) }) with tm := { lbWit.tm with tick := 10000000000 } }, by decide⟩⟩

theorem wit_BridgeCommands :
    (∃ (src : Fin 2048) (m : BridgeMsg) (first : Nat) (s : State), s.refusedIn src.val m = false ∧ (s.lb.synced.find? fun
      e => e.1 == m.twin.val) = some (m.twin.val, first) ∧ (m.seq.toNat + 65536 - first) % 65536 < 32768 ∧
      (s.lb.inPosted.filter fun r => r.win == m.twin.val).length < fours (s.get (LB_WIN_IN.IN_P_CR m.twin.val))) ∧
    (∃ (src : Fin 2048) (m : BridgeMsg) (r : BridgeReq) (s : State), s.lb.openReq m.iwin.val m.tag.toNat = some r) ∧
    (∃ (src : Fin 2048) (m : BridgeMsg) (s : State), s.fromTarget m.iwin.val src.val = true) ∧
    (∃ (src : Fin 2048) (m : BridgeMsg) (s : State), m.init = true) ∧
    (∃ (src : Fin 2048) (m : BridgeMsg) (s : State), s.fromTarget m.iwin.val src.val = true) ∧
    (∃ (src : Fin 2048) (m : BridgeMsg) (s : State), s.lbOn = true ∧ s.inWin m.twin.val = true ∧ s.get (LB_WIN_CTL.IN_HUB
      m.twin.val) = src.val) ∧
    (∃ (n : Fin 32) (tag : Byte) (r : BridgeReq) (s : State), s.lb.openReq n.val tag.toNat = some r ∧ max 1 (s.get
      LB_CFG.FAR_TMO) * 1000 ≤ s.elapsed r.sent) ∧
    (∃ (n : Fin 32) (tag : Byte) (r : BridgeReq) (st t : Nat) (d : List Byte) (s : State), (s.lb.reqs.find? fun r => r.win
      == n.val && r.tag == tag.toNat && !r.wait) = some r ∧ r.reply = some (st, d, t) ∧ s.get LB_CFG2.DLY_DISCARD * 1000 ≤
      s.elapsed t) :=
  ⟨⟨0, lbMsg, 0, lbWit.setLb fun b => { b with synced := [(3, 0)] }, by decide⟩,
    ⟨0, lbMsg, { win := 3, tag := 0, cyc := lbCyc, wait := false, sent := 0 }, lbWit.setLb fun b => { b with reqs := [{ win := 3, tag := 0, cyc := lbCyc, wait := false, sent := 0 }] }, by decide⟩,
    ⟨0, lbMsg, lbWit.put JN_CFG.LOSSLESS 255, by decide⟩,
    ⟨0, { lbMsg with init := true }, State.reset, by decide⟩,
    ⟨0, lbMsg, lbWit.put JN_CFG.LOSSLESS 255, by decide⟩,
    ⟨0, lbMsg, lbWit, by decide⟩,
    ⟨3, 0, { win := 3, tag := 0, cyc := lbCyc, wait := false, sent := 0 }, { (lbWit.setLb fun b => { b with reqs := [{ win := 3, tag := 0, cyc := lbCyc, wait := false, sent := 0 }] }) with tm := { lbWit.tm with tick := 10000000000 } }, by decide⟩,
    ⟨3, 0, { win := 3, tag := 0, cyc := lbCyc, wait := false, sent := 0, reply := some (0, [], 0) }, 0, 0, [], { (lbWit.setLb fun b => { b with reqs := [{ win := 3, tag := 0, cyc := lbCyc, wait := false, sent := 0, reply := some (0, [], 0) }] }) with tm := { lbWit.tm with tick := 10000000000 } }, by decide⟩⟩

theorem wit_SidebandAndSignalCommands :
    (∃ (levels : BitVec 16) (s : State), s.lbOn = true ∧ s.on SB_CFG.SB_EN = true) ∧
    (∃ (src : Fin 2048) (state : BitVec 16) (s : State), s.lbOn = true ∧ s.get SB_SRC.SB_SRC_HUB = src.val) ∧
    (∃ (s : State), s.lbOn = true ∧ s.lb.sbSafe = false ∧ max 1 (s.get SB_SRC.SB_LOSS) ≤ s.lb.sbQuiet) ∧
    (∃ (i : Fin 1024) (s : State), s.lbOn = true ∧ s.sigGet i.val 0 31 31 = 1 ∧ s.sigGet i.val 0 30 30 = 0 ∧ s.sigGet
      i.val 0 29 29 = 0) ∧
    (∃ (src : Fin 2048) (i : Fin 1024) (v : List Byte) (s : State), s.lbOn = true ∧ s.sigGet i.val 0 31 31 = 1 ∧ s.sigGet
      i.val 0 30 30 = 1) ∧
    (∃ (i : Fin 1024) (s : State), s.sigGet i.val 0 31 31 = 1 ∧ s.sigGet i.val 0 30 30 = 1 ∧ max 1 (s.sigGet i.val 3 15 8)
      * s.sigPeriod i.val * 1000 ≤ s.elapsed (tget 0 i.val s.lb.updated)) :=
  ⟨⟨5, lbWit.put SB_CFG.SB_EN 1, by decide⟩,
    ⟨BitVec.ofNat 11 (lbWit.get SB_SRC.SB_SRC_HUB) |>.toFin, 5, lbWit, by decide⟩,
    ⟨lbWit.setLb fun b => { b with sbQuiet := 1000 }, by decide⟩,
    ⟨0, { lbWit with caseMem := memWrite [] 0xE8003 [0x80] }, by decide⟩,
    ⟨0, 0, [1], { lbWit with caseMem := memWrite [] 0xE8003 [0xC0] }, by decide⟩,
    ⟨0, { lbWit with caseMem := memWrite [] 0xE8003 [0xC0] }, by decide⟩⟩

theorem wit_TimeServoCommands :
    (∃ (p : Path) (s : State), s.behind p = false) ∧
    (∃ (d : GmSet) (flags : Nat) (s : State), s.sendSet = some (d, flags)) ∧
    (∃ (c : Fin 6) (x : TimeCand) (s : State), s.cand c.val = some x ∧ s.lapseNs c.val < s.elapsed x.tick) ∧
    (∃ (e : Fin 2) (dom : Byte) (m : PtpMsg) (rx : Stamp) (s : State), s.eRole e.val ≠ 0 ∧ dom.toNat = s.ptpDomain ∧
      (match m with | .report _ _ => false | _ => true) = true) ∧
    (∃ (e : Fin 2) (dom : Byte) (tag : Byte) (ts : Stamp) (rx : Stamp) (s : State), s.eRole e.val ≠ 0) ∧
    (∃ (e : Fin 2) (seq : BitVec 16) (tag : Byte) (frame : List Byte) (s : State), s.eRole e.val ≠ 0 ∧ s.ptpMay e.val
      .sync = true) ∧
    (∃ (s : State), s.tm.refLost = true ∧ s.tstate = tsHoldover ∧ s.parent ≠ 7) ∧
    (∃ (t : Nat) (s : State), s.tm.setAt = some t ∧ t ≤ s.tm.sec) ∧
    (∃ (s : State), (s.tstate = tsLocked ∨ s.tstate = tsSlew ∨ s.tstate = tsGm)) :=
  ⟨⟨.smbus, State.reset, by decide⟩,
    ⟨((State.reset.put TM_STATE.TSTATE tsGm).put TM_STATE.PARENT 6).ownSet, 2, (State.reset.put TM_STATE.TSTATE tsGm).put TM_STATE.PARENT 6, by decide⟩,
    ⟨2, ⟨gmWit, 0, 0⟩, { State.reset with tm := { State.reset.tm with cands := [(2, ⟨gmWit, 0, 0⟩)], tick := 100000000000 } }, by decide⟩,
    ⟨1, 0, .sync 0, ⟨0, 0, 0⟩, State.reset.put TM_PTP.E1_ROLE 1, by decide⟩,
    ⟨1, 0, 3, ⟨0, 0, 0⟩, ⟨0, 0, 0⟩, State.reset.put TM_PTP.E1_ROLE 1, by decide⟩,
    ⟨1, 0, 0, [], State.reset.put TM_PTP.E1_ROLE 2, by decide⟩,
    ⟨((State.reset.put TM_STATE.PARENT 6).put TM_STATE.TSTATE tsHoldover).setTm fun t => { t with refLost := true }, by decide⟩,
    ⟨0, State.reset.setTm fun t => { t with setAt := some 0 }, by decide⟩,
    ⟨State.reset.put TM_STATE.TSTATE tsGm, by decide⟩⟩

theorem wit_WaymarkAndMeasureCommands :
    (∃ (n : Fin 8) (t : Nat) (s : State), (s.wm n.val).next = some t ∧ t ≤ s.nowNs ∧ s.get RST_STATUS.PHASE ≠ 9) ∧
    (∃ (n : Fin 8) (t : Nat) (s : State), (s.wm n.val).stop = some t ∧ t ≤ s.nowNs ∧ s.get RST_STATUS.PHASE ≠ 9) ∧
    (∃ (n : Fin 8) (falling : Bool) (s : State), s.on (CAP_CTL.EN n.val) = true ∧ (s.get (CAP_CTL.EDGE n.val)).testBit
      falling.toNat = true ∧ (tget [] n.val s.tm.cap).length < 8) ∧
    (∃ (p : Path) (n : Fin 8) (s : State), s.behind p = false) ∧
    (∃ (code : BitVec 16) (ch : Nat) (rest : List Nat) (s : State), s.tm.ms.todo = List.cons ch rest ∧ rest ≠ []) ∧
    (∃ (code : BitVec 16) (ch : Nat) (s : State), s.tm.ms.todo = [ch]) ∧
    (∃ (x : Nat × Nat × Nat) (rest : List (Nat × Nat × Nat)) (s : State), s.tm.ms.samples = List.cons x rest ∧ x.1 + 8192
      ≤ s.nowNs) :=
  ⟨⟨5, 0, State.reset.setWm 5 fun w => { w with next := some 0 }, by decide⟩,
    ⟨5, 0, State.reset.setWm 5 fun w => { w with stop := some 0 }, by decide⟩,
    ⟨7, true, (State.reset.put (CAP_CTL.EN 7) 1).put (CAP_CTL.EDGE 7) 3, by decide⟩,
    ⟨.smbus, 7, State.reset, by decide⟩,
    ⟨9, 2, [3], State.reset.setMs fun m => { m with todo := [2, 3] }, by decide⟩,
    ⟨9, 2, State.reset.setMs fun m => { m with todo := [2] }, by decide⟩,
    ⟨(0, 2, 9), [], ({ State.reset with tm := { State.reset.tm with sec := 1 } }).setMs fun m => { m with samples := [(0, 2, 9)] }, by decide⟩⟩

theorem wit_EngineServiceCommands :
    (∃ (n : EngNo) (t : Nat) (s : State), (s.engine n.val).timer = some t ∧ t ≤ s.nowNs) ∧
    (∃ (n : EngNo) (s : State), s.engLive n.val = true ∧ s.wdtDue n.val = true) ∧
    (∃ (n : EngNo) (s : State), (s.engine n.val).faulted = true ∧ s.engUsable n.val = true) ∧
    (∃ (n : EngNo) (s : State), 4 < (s.engine n.val).swMs) ∧
    (∃ (path : Path) (n : EngNo) (slot : Fin 8) (s : State), s.behind path = false ∧ s.blockExcluded (ENG_CMD n.val) =
      false ∧ s.hasCustody path = true) ∧
    (∃ (n : EngNo) (slot bank : Nat) (s : State), (s.engine n.val).loading = some (slot, bank)) ∧
    (∃ (path : Path) (n : EngNo) (s : State), s.behind path = false ∧ s.blockExcluded (ENG_CMD n.val) = false ∧
      s.hasCustody path = true) ∧
    (∃ (path : Path) (n : EngNo) (s : State), s.behind path = false ∧ s.blockExcluded (ENG_CMD n.val) = false ∧
      s.hasCustody path = true) ∧
    (∃ (n : EngNo) (word : Fin 4096) (w : Word) (s : State), s.engHere n.val = true ∧ s.on (ENG_STATUS.SW_PEND n.val) =
      false) ∧
    (∃ (n : EngNo) (w1 : Word) (s : State), s.engHere n.val = true ∧ (s.sendMail n.val (s.get (ENG_MBX_CTL.POST_MBX
      n.val)) (s.reg (ENG_MBX_W0 n.val), w1)).1 = 0) ∧
    (∃ (path : Path) (atEn : Bool) (s : State), s.behind path = false ∧ s.hasCustody path = true) ∧
    (∃ (path : Path) (s : State), s.behind path = false ∧ s.hasCustody path = true) ∧
    (∃ (path : Path) (src : Fin 4) (s : State), s.behind path = false ∧ s.hasCustody path = true) ∧
    (∃ (path : Path) (src : Fin 4) (s : State), s.behind path = false ∧ s.hasCustody path = true) ∧
    (∃ (path : Path) (s : State), s.behind path = false ∧ s.hasCustody path = true) ∧
    (∃ (path : Path) (s : State), s.behind path = false ∧ s.hasCustody path = true) ∧
    (∃ (path : Path) (s : State), s.behind path = false ∧ s.hasCustody path = true) ∧
    (∃ (path : Path) (bank st : Fin 4) (s : State), s.behind path = false ∧ s.hasCustody path = true) ∧
    (∃ (path : Path) (s : State), s.behind path = false ∧ s.hasCustody path = true) ∧
    (∃ (path : Path) (w : Word) (s : State), s.behind path = false ∧ s.hasCustody path = true) ∧
    (∃ (path : Path) (slot : Fin 4) (s : State), s.behind path = false ∧ s.hasCustody path = true) ∧
    (∃ (path : Path) (slot : Fin 4) (s : State), s.behind path = false ∧ s.hasCustody path = true) :=
  ⟨⟨11, 0, State.reset.setEngine 11 fun e => { e with timer := some 0 }, by decide⟩,
    ⟨11, (State.reset.put (ENG_STATUS.STATE 11) 2).setTm fun t => { t with tick := 625000 }, by decide⟩,
    ⟨11, State.reset.setEngine 11 fun e => { e with faulted := true }, by decide⟩,
    ⟨11, State.reset.setEngine 11 fun e => { e with swMs := 5 }, by decide⟩,
    ⟨.engine 0, 3, 5, custWit, by decide⟩,
    ⟨3, 5, 1, State.reset.setEngine 3 fun e => { e with loading := some (5, 1) }, by decide⟩,
    ⟨.engine 0, 3, custWit, by decide⟩,
    ⟨.engine 0, 3, custWit, by decide⟩,
    ⟨3, 7, 9, State.reset, by decide⟩,
    ⟨3, 9, State.reset.put (ENG_STATUS.ROLE_NOW 3) 1, by decide⟩,
    ⟨.engine 0, true, custWit, by decide⟩,
    ⟨.engine 0, custWit, by decide⟩,
    ⟨.engine 0, 2, custWit, by decide⟩,
    ⟨.engine 0, 2, custWit, by decide⟩,
    ⟨.engine 0, custWit, by decide⟩,
    ⟨.engine 0, custWit, by decide⟩,
    ⟨.engine 0, custWit, by decide⟩,
    ⟨.engine 0, 1, 3, custWit, by decide⟩,
    ⟨.engine 0, custWit, by decide⟩,
    ⟨.engine 0, 0, custWit, by decide⟩,
    ⟨.engine 0, 3, custWit, by decide⟩,
    ⟨.engine 0, 3, custWit, by decide⟩⟩

theorem wit_FormeCommands :
    (∃ (path : Path) (atEn : Bool) (s : State), s.behind path = false ∧ s.hasCustody path = true) ∧
    (∃ (path : Path) (s : State), s.behind path = false ∧ s.hasCustody path = true) ∧
    (∃ (path : Path) (src : Fin 4) (s : State), s.behind path = false ∧ s.hasCustody path = true) ∧
    (∃ (path : Path) (src : Fin 4) (s : State), s.behind path = false ∧ s.hasCustody path = true) ∧
    (∃ (path : Path) (s : State), s.behind path = false ∧ s.hasCustody path = true) ∧
    (∃ (path : Path) (s : State), s.behind path = false ∧ s.hasCustody path = true) ∧
    (∃ (path : Path) (s : State), s.behind path = false ∧ s.hasCustody path = true) ∧
    (∃ (path : Path) (bank st : Fin 4) (s : State), s.behind path = false ∧ s.hasCustody path = true) ∧
    (∃ (path : Path) (s : State), s.behind path = false ∧ s.hasCustody path = true) ∧
    (∃ (path : Path) (w : Word) (s : State), s.behind path = false ∧ s.hasCustody path = true) ∧
    (∃ (path : Path) (slot : Fin 4) (s : State), s.behind path = false ∧ s.hasCustody path = true) ∧
    (∃ (path : Path) (slot : Fin 4) (s : State), s.behind path = false ∧ s.hasCustody path = true) ∧
    (∃ (err : Option (Fin 3 × Fin 255)) (src a : Nat) (s : State), s.fc.op = some (.load src a)) ∧
    (∃ (err : Option (Fin 3 × Fin 255)) (src : Nat) (s : State), s.fc.op = some (.stage src) ∧ s.on FC_STATUS.REVERTING =
      false) ∧
    (∃ (err : Option (Fin 3 × Fin 255)) (src : Nat) (s : State), s.fc.op = some (.verify src)) ∧
    (∃ (err : Option (Fin 3 × Fin 255)) (src : Nat) (s : State), s.fc.op = some (.stage src) ∧ s.on FC_STATUS.REVERTING =
      true ∧ (s.stageEnd src (readFault err)).1 = true) ∧
    (∃ (err : Option (Fin 3 × Fin 255)) (src : Nat) (s : State), s.fc.op = some (.stage src) ∧ s.on FC_STATUS.REVERTING =
      true ∧ (s.stageEnd src (readFault err)).1 = false) ∧
    (∃ (s : State), s.onProbation = true ∧ s.get FC_STATUS.PROB_LEFT = 0) ∧
    (∃ (data : List Byte) (eff : FlashEffect) (w a : Word) (s : State), s.fc.flCmd = some (w, a) ∧ wordField w 30 30 = 1)
      ∧
    (∃ (data : List Byte) (eff : FlashEffect) (w a : Word) (s : State), s.fc.flCmd = some (w, a) ∧ wordField w 30 30 ≠ 1)
      ∧
    (∃ (k : Nat) (r : List OtpOp) (s : State), s.fc.otp = List.cons (.revoke k) r) ∧
    (∃ (k : Nat) (b : List Byte) (r : List OtpOp) (s : State), s.fc.otp = List.cons (.prog k b) r) ∧
    (∃ (n : Nat) (r : List OtpOp) (s : State), s.fc.otp = List.cons (.step n) r ∧ (s.put FC_ROLLBACK.OTP_COUNT (s.get
      FC_ROLLBACK.OTP_COUNT + 1)).get FC_ROLLBACK.OTP_COUNT < n) ∧
    (∃ (n : Nat) (r : List OtpOp) (s : State), s.fc.otp = List.cons (.step n) r ∧ n ≤ (s.put FC_ROLLBACK.OTP_COUNT (s.get
      FC_ROLLBACK.OTP_COUNT + 1)).get FC_ROLLBACK.OTP_COUNT) ∧
    (∃ (s : State), s.fc.recOwed = true) ∧
    (∃ (s : State), s.fc.postOwed = true) ∧
    (∃ (s : State), s.fc.keepOwed = true ∧ s.keepOut = false) ∧
    (∃ (s : State), s.fc.copying = true ∧ (s.fc.keepOwed = false ∨ s.keepOut = true)) ∧
    (∃ (s : State), s.fc.copying = true ∧ s.fc.keepOwed = true ∧ s.keepOut = false) ∧
    (∃ (s : State), 5 ≤ s.phase ∧ s.phase ≤ 8 ∧ s.boundaryTaken (s.nowNs / (s.msPeriod * 125000)) = true) ∧
    (∃ (s : State), 5 ≤ s.phase ∧ s.phase ≤ 8 ∧ s.boundaryTaken (s.nowNs / (s.msPeriod * 125000)) = false) ∧
    (∃ (p : Port) (takeId : Option (Fin 2048)) (minInc : BitVec 16) (roleId : Fin 2048) (roleInc : BitVec 16) (s : State),
      s.spState p.val = stActive ∧ s.on ID_HUB.ID_V = true ∧ s.hubId = roleId.val) :=
  ⟨⟨.engine 0, true, custWit, by decide⟩,
    ⟨.engine 0, custWit, by decide⟩,
    ⟨.engine 0, 2, custWit, by decide⟩,
    ⟨.engine 0, 2, custWit, by decide⟩,
    ⟨.engine 0, custWit, by decide⟩,
    ⟨.engine 0, custWit, by decide⟩,
    ⟨.engine 0, custWit, by decide⟩,
    ⟨.engine 0, 1, 3, custWit, by decide⟩,
    ⟨.engine 0, custWit, by decide⟩,
    ⟨.engine 0, 0, custWit, by decide⟩,
    ⟨.engine 0, 3, custWit, by decide⟩,
    ⟨.engine 0, 3, custWit, by decide⟩,
    ⟨none, 1, 1, fcWit (.load 1 1), by decide⟩,
    ⟨none, 2, fcWit (.stage 2), by decide⟩,
    ⟨none, 1, fcWit (.verify 1), by decide⟩,
    ⟨none, 2, (fcWit (.stage 2)).put FC_STATUS.REVERTING 1, by decide⟩,
    ⟨none, 0, (fcWit (.stage 0)).put FC_STATUS.REVERTING 1, by decide⟩,
    ⟨State.reset.put FC_STATUS.PROB 1, by decide⟩,
    ⟨[], FlashEffect.none, 0x40000000, 5, State.reset.setFc fun f => { f with flCmd := some (0x40000000, 5) }, by decide⟩,
    ⟨[7], FlashEffect.none, 0x00400000, 5, State.reset.setFc fun f => { f with flCmd := some (0x00400000, 5) }, by decide⟩,
    ⟨3, [], State.reset.setFc fun f => { f with otp := [.revoke 3] }, by decide⟩,
    ⟨3, [7], [], State.reset.setFc fun f => { f with otp := [.prog 3 [7]] }, by decide⟩,
    ⟨2, [], State.reset.setFc fun f => { f with otp := [.step 2] }, by decide⟩,
    ⟨1, [], State.reset.setFc fun f => { f with otp := [.step 1] }, by decide⟩,
    ⟨State.reset.setFc fun f => { f with recOwed := true }, by decide⟩,
    ⟨State.reset.setFc fun f => { f with postOwed := true }, by decide⟩,
    ⟨State.reset.setFc fun f => { f with keepOwed := true }, by decide⟩,
    ⟨State.reset.setFc fun f => { f with copying := true }, by decide⟩,
    ⟨State.reset.setFc fun f => { f with copying := true, keepOwed := true }, by decide⟩,
    ⟨State.reset.put RST_STATUS.PHASE 8, by decide⟩,
    ⟨{ State.reset.put RST_STATUS.PHASE 8 with imp := { State.reset.imp with taken := true } }, by decide⟩,
    ⟨1, some 7, 5, 0, 0, (State.reset.put (SP_STATE.STATE 1) stActive).put ID_HUB.ID_V 1, by decide⟩⟩

theorem wit_AccessCommands :
    (∃ (p : Path) (a : Word) (sz : Fin 3) (w : Word) (s : State), s.behind p = false ∧ s.turnedAway p a.toNat
      (Machine.sizeOf sz) true = 0 ∧ s.stalls a.toNat = false) ∧
    (∃ (p : Path) (a : Word) (sz : Fin 3) (s : State), s.behind p = false ∧ s.turnedAway p a.toNat (Machine.sizeOf sz)
      false = 0) ∧
    (∃ (p : Path) (a w : Word) (s : State), s.behind p = false ∧ keepBlock (plain a.toNat) = true ∧ s.turnedAway p a.toNat
      4 true = 0 ∧ s.stalls a.toNat = false) ∧
    (∃ (p : Path) (a : Word) (s : State), s.behind p = false ∧ keepBlock (plain a.toNat) = true ∧ s.turnedAway p a.toNat 4
      false = 0) ∧
    (∃ (e : Path × Instr) (t : List (Path × Instr)) (s : State), s.fc.copying = false ∧ s.fc.stalled = List.cons e t) ∧
    (∃ (bar2 : Bool) (ofs : BitVec 26) (sz : Fin 4) (s : State), s.upSwitch = true ∧ s.behind .pcie = false ∧ (s.mgmtRead
      .pcie (ofs.toNat + (if bar2 then 2 ^ 31 else 0)) (2 ^ sz.val)).1 = 0) ∧
    (∃ (bar2 : Bool) (ofs : BitVec 26) (sz : Fin 4) (w : Word) (s : State), s.upSwitch = true ∧ s.behind .pcie = false ∧
      s.stalls (ofs.toNat + (if bar2 then 2 ^ 31 else 0)) = false ∧ (s.mgmtWrite .pcie (ofs.toNat + (if bar2 then 2 ^ 31
      else 0)) (2 ^ sz.val) w).1 = 0) ∧
    (∃ (a w : Word) (s : State), s.behind .smbus = false ∧ s.stalls a.toNat = false) ∧
    (∃ (a : Word) (s : State), s.behind .smbus = false) ∧
    (∃ (s : State), s.behind .smbus = false ∧ s.mg.pecBad = false ∧ (s.mgmtRead .smbus s.mg.readAddr 4).1 = 0) ∧
    (∃ (src : Fin 2048) (u : List Byte) (s : State), s.behind (.tunnel src) = false ∧ mtIsWrite u = false ∧ mtBad u =
      false) ∧
    (∃ (src : Fin 2048) (u : List Byte) (s : State), s.behind (.tunnel src) = false ∧ s.unitStalls (.tunnel src) (beAt u 8
      2) (beAt u 4 4) = false ∧ mtIsWrite u = true ∧ mtBad u = false) ∧
    (∃ (src : Fin 2048) (u : List Byte) (r : MtReq) (s : State), (s.mg.mt.find? fun r => r.hub == src.val && r.tag == beAt
      u 2 2) = some r) ∧
    (∃ (tag : BitVec 16) (r : MtReq) (s : State), (s.mg.mt.find? fun r => r.tag == tag.toNat) = some r) :=
  ⟨⟨.engine 0, BitVec.ofNat 32 TM_SET_NS, 2, 5, custWit, by decide⟩,
    ⟨.usb, BitVec.ofNat 32 TM_SET_NS, 2, State.reset, by decide⟩,
    ⟨.engine 0, BitVec.ofNat 32 KP_SLEEP, 0, custWit, by decide⟩,
    ⟨.usb, BitVec.ofNat 32 KP_SLEEP, State.reset, by decide⟩,
    ⟨(.usb, .registerWrite .usb (BitVec.ofNat 32 JN_CFG) 2 5), [], State.reset.setFc fun f => { f with stalled := [(.usb, .registerWrite .usb (BitVec.ofNat 32 JN_CFG) 2 5)] }, by decide⟩,
    ⟨false, BitVec.ofNat 26 TM_SET_NS, 2, pxUp 0, by decide⟩,
    ⟨false, BitVec.ofNat 26 TM_SET_NS, 2, 7, pxUp 0, by decide⟩,
    ⟨5, 5, State.reset, by decide⟩,
    ⟨5, State.reset, by decide⟩,
    ⟨State.reset, by decide⟩,
    ⟨4, [1, 0, 0, 0, 0, 0, 0, 0, 0, 1, 0, 0, 0, 0, 0, 0], State.reset, by decide⟩,
    ⟨4, [2, 0, 0, 0, 0, 0, 0, 0, 0, 1, 0, 0, 0, 0, 0, 0, 0, 0, 0, 0], State.reset, by decide⟩,
    ⟨4, [], ⟨0, 4, 1, 0⟩, State.reset.setMg fun m => { m with mt := [⟨0, 4, 1, 0⟩] }, by decide⟩,
    ⟨0, ⟨0, 4, 1, 0⟩, State.reset.setMg fun m => { m with mt := [⟨0, 4, 1, 0⟩] }, by decide⟩⟩

theorem wit_UsbDeviceCommands :
    (∃ (s : State), s.ustate = 0 ∧ s.mayConnect = true) ∧
    (∃ (s : State), s.ustate ≠ 0) ∧
    (∃ (setup : BitVec 64) (fn : Bool) (s : State), 2 ≤ s.ustate ∧ s.ustate ≠ 5 ∧ setupField setup.toNat 0 1 / 32 % 4 ≠ 2)
      ∧
    (∃ (n : Nat) (t s : State), s.stageOf 0 5 = some (n, t)) ∧
    (∃ (n : Nat) (t s : State), s.stageOf 0 9 = some (n, t)) ∧
    (∃ (n c : Nat) (dir : Bool) (t s : State), s.stageOf 2 3 = some (n, t) ∧ endpointOf n = some (c, dir)) ∧
    (∃ (n c : Nat) (dir : Bool) (t s : State), s.stageOf 2 1 = some (n, t) ∧ endpointOf n = some (c, dir)) ∧
    (∃ (s : State), 2 ≤ s.ustate ∧ s.ustate ≤ 4) ∧
    (∃ (k : Fin 4) (speed : Fin 3) (s : State), s.ustate = 5) ∧
    (∃ (s : State), s.ustate = 5 ∧ s.on USB_WAKE.WAKE_PEND = true ∧ s.dk.driving = false ∧ 5000000 ≤ s.elapsed
      s.dk.suspAt) ∧
    (∃ (s : State), s.ustate = 5 ∧ s.dk.driving = false) ∧
    (∃ (s : State), s.ustate = 5 ∧ s.dk.driving = false) ∧
    (∃ (k : Fin 4) (s : State), s.on ID_PRESENT.DOCK = true) ∧
    (∃ (k : Fin 4) (conn : Bool) (speed : Fin 3) (s : State), s.on ID_PRESENT.DOCK = true ∧ s.ustate ≠ 5) ∧
    (∃ (frame : BitVec 11) (s : State), s.ustate = 4 ∧ s.on SOF_CFG.SOF_EN = true ∧ frame.toNat ≠ s.dk.frame ∧
      s.dk.sof.length < 16) ∧
    (∃ (p : Path) (s : State), s.behind p = false ∧ s.on ID_PRESENT.DOCK = true) :=
  ⟨⟨((State.reset.put USB_CFG.EN 1).put USB_CFG.UP_PORT 1).put (DK_STATE.CSTATE 1) 5, by decide⟩,
    ⟨usbWit 1, by decide⟩,
    ⟨0, false, usbWit 4, by decide⟩,
    ⟨0x500, (ctrlWit 0x500).setDk fun d => { d with ctrl := none }, ctrlWit 0x500, by decide⟩,
    ⟨0x900, (ctrlWit 0x900).setDk fun d => { d with ctrl := none }, ctrlWit 0x900, by decide⟩,
    ⟨0x0100000302, 0, false, (ctrlWit 0x0100000302).setDk fun d => { d with ctrl := none }, ctrlWit 0x0100000302, by decide⟩,
    ⟨0x0100000102, 0, false, (ctrlWit 0x0100000102).setDk fun d => { d with ctrl := none }, ctrlWit 0x0100000102, by decide⟩,
    ⟨usbWit 4, by decide⟩,
    ⟨3, 2, usbWit 5, by decide⟩,
    ⟨((usbWit 5).put USB_WAKE.WAKE_PEND 1).setTm fun t => { t with tick := 6250000 }, by decide⟩,
    ⟨usbWit 5, by decide⟩,
    ⟨usbWit 5, by decide⟩,
    ⟨3, State.reset.put ID_PRESENT.DOCK 1, by decide⟩,
    ⟨3, true, 2, (usbWit 4).put ID_PRESENT.DOCK 1, by decide⟩,
    ⟨9, (usbWit 4).put SOF_CFG.SOF_EN 1, by decide⟩,
    ⟨.usb, State.reset.put ID_PRESENT.DOCK 1, by decide⟩⟩

theorem wit_ServiceChannelCommands :
    (∃ (c : ChanNo) (tog : Bool) (data : List Byte) (s : State), s.ustate = 4 ∧ s.on (GALLEY_MAP.GM_EN (outBuf c.val)) =
      true ∧ s.getBit USB_STATUS.HALT_OUT c.val = false ∧ (s.chan c.val).whole = false ∧ tog = (s.chan c.val).outTog) ∧
    (∃ (c : ChanNo) (s : State), s.asked c.val 1 = true ∧ s.behind .usb = false ∧ s.svcLocal c.val = true) ∧
    (∃ (c : ChanNo) (s : State), s.asked c.val 1 = true ∧ s.behind .usb = false ∧ s.svcLocal c.val = false) ∧
    (∃ (c : ChanNo) (s : State), s.asked c.val 2 = true ∧ s.behind .usb = false ∧ s.unitStalls .usb (s.reqNat c.val 12 2)
      (s.reqNat c.val 8 4) = false ∧ s.svcLocal c.val = true) ∧
    (∃ (c : ChanNo) (s : State), s.asked c.val 2 = true ∧ s.behind .usb = false ∧ s.svcLocal c.val = false) ∧
    (∃ (c : ChanNo) (s : State), s.asked c.val 3 = true ∧ s.on FC_CUSTODY.VALID = true) ∧
    (∃ (c : ChanNo) (s : State), s.asked c.val 4 = true) ∧
    (∃ (c : ChanNo) (s : State), (s.chan c.val).cmd ≠ none) ∧
    (∃ (c : ChanNo) (len k : Nat) (s : State), (s.chan c.val).reply = some (len, k) ∧ s.getBit USB_STATUS.HALT_IN c.val =
      false ∧ s.ustate = 4) :=
  ⟨⟨2, false, [], usbWit 4, by decide⟩,
    ⟨2, chanWit 1, by decide⟩,
    ⟨2, (chanWit 1).put ID_HUB.HUB_ID_NOW 9, by decide⟩,
    ⟨2, chanWit 2, by decide⟩,
    ⟨2, (chanWit 2).put ID_HUB.HUB_ID_NOW 9, by decide⟩,
    ⟨2, (chanWit 3).put FC_CUSTODY.VALID 1, by decide⟩,
    ⟨2, chanWit 4, by decide⟩,
    ⟨2, State.reset.setChan 2 fun x => { x with cmd := some (0, 0, 0) }, by decide⟩,
    ⟨2, 16, 0, (usbWit 4).setChan 2 fun x => { x with reply := some (16, 0) }, by decide⟩⟩

theorem wit_KeepHoldCommands :
    (∃ (s : State), s.keepHold = false) ∧
    (∃ (s : State), s.on EV_KL.KL_LOST_NOW = false) ∧
    (∃ (s : State), s.keepHold = true) ∧
    (∃ (s : State), s.keepHold = true ∧ s.on KL_CFG.CUST_NEVER = false ∧ s.pw.custWarm = false ∧ max 1 (s.get
      KL_CFG.CUST_LIMIT_MS) ≤ s.holdMs) ∧
    (∃ (s : State), s.keepHold = true ∧ s.pw.custWarm = true ∧ s.on KL_STATUS.ESCALATED = false) ∧
    (∃ (s : State), s.fc.recOwed = true) ∧
    (∃ (s : State), s.fc.postOwed = true) ∧
    (∃ (s : State), s.fc.keepOwed = true ∧ s.keepOut = false) ∧
    (∃ (s : State), s.fc.copying = true ∧ (s.fc.keepOwed = false ∨ s.keepOut = true)) ∧
    (∃ (s : State), s.fc.copying = true ∧ s.fc.keepOwed = true ∧ s.keepOut = false) ∧
    (∃ (s : State), 5 ≤ s.phase ∧ s.phase ≤ 8 ∧ s.boundaryTaken (s.nowNs / (s.msPeriod * 125000)) = true) ∧
    (∃ (s : State), 5 ≤ s.phase ∧ s.phase ≤ 8 ∧ s.boundaryTaken (s.nowNs / (s.msPeriod * 125000)) = false) :=
  ⟨⟨State.reset, by decide⟩,
    ⟨State.reset, by decide⟩,
    ⟨State.reset.put KL_STATUS.HOLD 1, by decide⟩,
    ⟨((State.reset.put KL_STATUS.HOLD 1).put KL_CFG.CUST_NEVER 0).setTm fun t => { t with tick := 625000000 }, by decide⟩,
    ⟨(State.reset.put KL_STATUS.HOLD 1).setPw fun p => { p with custWarm := true }, by decide⟩,
    ⟨State.reset.setFc fun f => { f with recOwed := true }, by decide⟩,
    ⟨State.reset.setFc fun f => { f with postOwed := true }, by decide⟩,
    ⟨State.reset.setFc fun f => { f with keepOwed := true }, by decide⟩,
    ⟨State.reset.setFc fun f => { f with copying := true }, by decide⟩,
    ⟨State.reset.setFc fun f => { f with copying := true, keepOwed := true }, by decide⟩,
    ⟨State.reset.put RST_STATUS.PHASE 8, by decide⟩,
    ⟨{ State.reset.put RST_STATUS.PHASE 8 with imp := { State.reset.imp with taken := true } }, by decide⟩⟩

theorem wit_ScrubAndProofCommands :
    (∃ (tile : Fin 16) (row : Fin 257) (s : State), s.on PF_CFG.SCRUB_EN = true) ∧
    (∃ (r : ScrubRow) (s : State), s.svc.repairing.contains (scrubRow r).loc = true) ∧
    (∃ (test : Fin 6) (target : BitVec 16) (data : Bool) (k t row : Nat) (a : Bool) (s : State), (s.svc.tests.find? fun x
      => x.1 == test.val && x.2.1 == target.toNat) = some (k, t, row, a)) ∧
    (∃ (test : Fin 6) (target : BitVec 16) (a : Nat × Nat × Nat) (s : State), (s.proofTry.svc.asks.find? fun x => x.1 ==
      test.val && x.2.1 == target.toNat) = some a) ∧
    (∃ (s : State), s.on PF_CFG.AUTO_EN = true) :=
  ⟨⟨5, 256, State.reset.put PF_CFG.SCRUB_EN 1, by decide⟩,
    ⟨.caseMem 5 9, State.reset.setSvc fun x => { x with repairing := [(scrubRow (.caseMem 5 9)).loc] }, by decide⟩,
    ⟨2, 7, true, 2, 7, 0, false, State.reset.setSvc fun x => { x with tests := [(2, 7, 0, false)] }, by decide⟩,
    ⟨1, 0, (1, 0, 0), State.reset.setSvc fun x => { x with asks := [(1, 0, 0)] }, by decide⟩,
    ⟨State.reset.put PF_CFG.AUTO_EN 1, by decide⟩⟩

theorem wit_EventAndTapCommands :
    (∃ (s : State), s.tap.held = false) ∧
    (∃ (pins data : List Bool) (s : State), s.tap.held = false) ∧
    (∃ (code : Fin 16) (s : State), code.val ∉ [0, 1, 2, 4, 5]) :=
  ⟨⟨State.reset.setTap fun t => { t with held := false }, by decide⟩,
    ⟨[], [], State.reset.setTap fun t => { t with held := false }, by decide⟩,
    ⟨15, State.reset, by decide⟩⟩

theorem wit_AluRegisterCommands :
    (∃ (n : EngNo) (ecc : Ecc) (rd ra rb : GReg) (s : State), ecc ≠ .badFetch ∧ ecc ≠ .fixedFetch ∧ s.get
      (ENG_STATUS.STATE n.val) = 1) ∧
    (∃ (n : EngNo) (ecc : Ecc) (rd ra rb : GReg) (s : State), ecc ≠ .badFetch ∧ ecc ≠ .fixedFetch ∧ s.get
      (ENG_STATUS.STATE n.val) = 1) ∧
    (∃ (n : EngNo) (ecc : Ecc) (rd ra rb : GReg) (s : State), ecc ≠ .badFetch ∧ ecc ≠ .fixedFetch ∧ s.get
      (ENG_STATUS.STATE n.val) = 1) ∧
    (∃ (n : EngNo) (ecc : Ecc) (rd ra rb : GReg) (s : State), ecc ≠ .badFetch ∧ ecc ≠ .fixedFetch ∧ s.get
      (ENG_STATUS.STATE n.val) = 1) ∧
    (∃ (n : EngNo) (ecc : Ecc) (rd ra rb : GReg) (s : State), ecc ≠ .badFetch ∧ ecc ≠ .fixedFetch ∧ s.get
      (ENG_STATUS.STATE n.val) = 1) ∧
    (∃ (n : EngNo) (ecc : Ecc) (rd ra rb : GReg) (s : State), ecc ≠ .badFetch ∧ ecc ≠ .fixedFetch ∧ s.get
      (ENG_STATUS.STATE n.val) = 1) ∧
    (∃ (n : EngNo) (ecc : Ecc) (rd ra rb : GReg) (s : State), ecc ≠ .badFetch ∧ ecc ≠ .fixedFetch ∧ s.get
      (ENG_STATUS.STATE n.val) = 1) ∧
    (∃ (n : EngNo) (ecc : Ecc) (rd ra rb : GReg) (s : State), ecc ≠ .badFetch ∧ ecc ≠ .fixedFetch ∧ s.get
      (ENG_STATUS.STATE n.val) = 1) ∧
    (∃ (n : EngNo) (ecc : Ecc) (rd ra rb : GReg) (s : State), ecc ≠ .badFetch ∧ ecc ≠ .fixedFetch ∧ s.get
      (ENG_STATUS.STATE n.val) = 1) ∧
    (∃ (n : EngNo) (ecc : Ecc) (rd ra rb : GReg) (s : State), ecc ≠ .badFetch ∧ ecc ≠ .fixedFetch ∧ s.get
      (ENG_STATUS.STATE n.val) = 1) ∧
    (∃ (n : EngNo) (ecc : Ecc) (rd ra rb : GReg) (s : State), ecc ≠ .badFetch ∧ ecc ≠ .fixedFetch ∧ s.get
      (ENG_STATUS.STATE n.val) = 1) ∧
    (∃ (n : EngNo) (ecc : Ecc) (rd ra rb : GReg) (s : State), ecc ≠ .badFetch ∧ ecc ≠ .fixedFetch ∧ s.get
      (ENG_STATUS.STATE n.val) = 1) ∧
    (∃ (n : EngNo) (ecc : Ecc) (rd ra rb : GReg) (s : State), ecc ≠ .badFetch ∧ ecc ≠ .fixedFetch ∧ s.get
      (ENG_STATUS.STATE n.val) = 1) ∧
    (∃ (n : EngNo) (ecc : Ecc) (rd ra rb : GReg) (s : State), ecc ≠ .badFetch ∧ ecc ≠ .fixedFetch ∧ s.get
      (ENG_STATUS.STATE n.val) = 1) :=
  ⟨⟨5, .clean, 1, 2, 3, engWit, by decide⟩,
    ⟨5, .clean, 1, 2, 3, engWit, by decide⟩,
    ⟨5, .clean, 1, 2, 3, engWit, by decide⟩,
    ⟨5, .clean, 1, 2, 3, engWit, by decide⟩,
    ⟨5, .clean, 1, 2, 3, engWit, by decide⟩,
    ⟨5, .clean, 1, 2, 3, engWit, by decide⟩,
    ⟨5, .clean, 1, 2, 3, engWit, by decide⟩,
    ⟨5, .clean, 1, 2, 3, engWit, by decide⟩,
    ⟨5, .clean, 1, 2, 3, engWit, by decide⟩,
    ⟨5, .clean, 1, 2, 3, engWit, by decide⟩,
    ⟨5, .clean, 1, 2, 3, engWit, by decide⟩,
    ⟨5, .clean, 1, 2, 3, engWit, by decide⟩,
    ⟨5, .clean, 1, 2, 3, engWit, by decide⟩,
    ⟨5, .clean, 1, 2, 3, engWit, by decide⟩⟩

theorem wit_AluImmediateCommands :
    (∃ (n : EngNo) (ecc : Ecc) (rd ra : GReg) (imm : BitVec 18) (s : State), ecc ≠ .badFetch ∧ ecc ≠ .fixedFetch ∧ s.get
      (ENG_STATUS.STATE n.val) = 1) ∧
    (∃ (n : EngNo) (ecc : Ecc) (rd ra : GReg) (imm : BitVec 18) (s : State), ecc ≠ .badFetch ∧ ecc ≠ .fixedFetch ∧ s.get
      (ENG_STATUS.STATE n.val) = 1) ∧
    (∃ (n : EngNo) (ecc : Ecc) (rd ra : GReg) (imm : BitVec 18) (s : State), ecc ≠ .badFetch ∧ ecc ≠ .fixedFetch ∧ s.get
      (ENG_STATUS.STATE n.val) = 1) ∧
    (∃ (n : EngNo) (ecc : Ecc) (rd ra : GReg) (imm : BitVec 18) (s : State), ecc ≠ .badFetch ∧ ecc ≠ .fixedFetch ∧ s.get
      (ENG_STATUS.STATE n.val) = 1) ∧
    (∃ (n : EngNo) (ecc : Ecc) (rd ra : GReg) (imm : BitVec 18) (s : State), ecc ≠ .badFetch ∧ ecc ≠ .fixedFetch ∧ s.get
      (ENG_STATUS.STATE n.val) = 1) ∧
    (∃ (n : EngNo) (ecc : Ecc) (rd ra : GReg) (sh : BitVec 5) (s : State), ecc ≠ .badFetch ∧ ecc ≠ .fixedFetch ∧ s.get
      (ENG_STATUS.STATE n.val) = 1) ∧
    (∃ (n : EngNo) (ecc : Ecc) (rd ra : GReg) (sh : BitVec 5) (s : State), ecc ≠ .badFetch ∧ ecc ≠ .fixedFetch ∧ s.get
      (ENG_STATUS.STATE n.val) = 1) ∧
    (∃ (n : EngNo) (ecc : Ecc) (rd ra : GReg) (sh : BitVec 5) (s : State), ecc ≠ .badFetch ∧ ecc ≠ .fixedFetch ∧ s.get
      (ENG_STATUS.STATE n.val) = 1) ∧
    (∃ (n : EngNo) (ecc : Ecc) (rd : GReg) (imm : BitVec 18) (s : State), ecc ≠ .badFetch ∧ ecc ≠ .fixedFetch ∧ s.get
      (ENG_STATUS.STATE n.val) = 1) ∧
    (∃ (n : EngNo) (ecc : Ecc) (rd ra : GReg) (lsb w : BitVec 5) (s : State), ecc ≠ .badFetch ∧ ecc ≠ .fixedFetch ∧ s.get
      (ENG_STATUS.STATE n.val) = 1 ∧ lsb.toNat + w.toNat < 32) ∧
    (∃ (n : EngNo) (ecc : Ecc) (rd ra : GReg) (lsb w : BitVec 5) (s : State), ecc ≠ .badFetch ∧ ecc ≠ .fixedFetch ∧ s.get
      (ENG_STATUS.STATE n.val) = 1 ∧ 32 ≤ lsb.toNat + w.toNat) ∧
    (∃ (n : EngNo) (ecc : Ecc) (rd ra : GReg) (lsb w : BitVec 5) (s : State), ecc ≠ .badFetch ∧ ecc ≠ .fixedFetch ∧ s.get
      (ENG_STATUS.STATE n.val) = 1 ∧ lsb.toNat + w.toNat < 32) ∧
    (∃ (n : EngNo) (ecc : Ecc) (rd ra : GReg) (lsb w : BitVec 5) (s : State), ecc ≠ .badFetch ∧ ecc ≠ .fixedFetch ∧ s.get
      (ENG_STATUS.STATE n.val) = 1 ∧ 32 ≤ lsb.toNat + w.toNat) :=
  ⟨⟨5, .clean, 1, 2, 0x3FFFF, engWit, by decide⟩,
    ⟨5, .clean, 1, 2, 0x3FFFF, engWit, by decide⟩,
    ⟨5, .clean, 1, 2, 0x3FFFF, engWit, by decide⟩,
    ⟨5, .clean, 1, 2, 0x3FFFF, engWit, by decide⟩,
    ⟨5, .clean, 1, 2, 0x3FFFF, engWit, by decide⟩,
    ⟨5, .clean, 1, 2, 31, engWit, by decide⟩,
    ⟨5, .clean, 1, 2, 31, engWit, by decide⟩,
    ⟨5, .clean, 1, 2, 31, engWit, by decide⟩,
    ⟨5, .clean, 1, 0x3FFFF, engWit, by decide⟩,
    ⟨5, .clean, 1, 2, 31, 0, engWit, by decide⟩,
    ⟨5, .clean, 1, 2, 31, 1, engWit, by decide⟩,
    ⟨5, .clean, 1, 2, 31, 0, engWit, by decide⟩,
    ⟨5, .clean, 1, 2, 31, 1, engWit, by decide⟩⟩

theorem wit_LoadStoreCommands :
    (∃ (n : EngNo) (rd ra : GReg) (imm : BitVec 18) (ofs : Nat) (s : State), s.get (ENG_STATUS.STATE n.val) = 1 ∧
      s.engCheck n.val (s.engAddr n ra imm).toNat 4 false = (none, s) ∧ engPlace (s.engAddr n ra imm).toNat = .sram ofs) ∧
    (∃ (n : EngNo) (rd ra : GReg) (imm : BitVec 18) (ofs : Nat) (s : State), s.get (ENG_STATUS.STATE n.val) = 1 ∧
      s.engCheck n.val (s.engAddr n ra imm).toNat 2 false = (none, s) ∧ engPlace (s.engAddr n ra imm).toNat = .sram ofs) ∧
    (∃ (n : EngNo) (rd ra : GReg) (imm : BitVec 18) (ofs : Nat) (s : State), s.get (ENG_STATUS.STATE n.val) = 1 ∧
      s.engCheck n.val (s.engAddr n ra imm).toNat 1 false = (none, s) ∧ engPlace (s.engAddr n ra imm).toNat = .sram ofs) ∧
    (∃ (n : EngNo) (ecc : Ecc) (rd ra : GReg) (imm : BitVec 18) (ofs : Nat) (s : State), ecc ≠ .badFetch ∧ ecc ≠
      .fixedFetch ∧ s.get (ENG_STATUS.STATE n.val) = 1 ∧ s.engCheck n.val (s.engAddr n ra imm).toNat 4 true = (none, s) ∧
      engPlace (s.engAddr n ra imm).toNat = .sram ofs) ∧
    (∃ (n : EngNo) (ecc : Ecc) (rd ra : GReg) (imm : BitVec 18) (ofs : Nat) (s : State), ecc ≠ .badFetch ∧ ecc ≠
      .fixedFetch ∧ s.get (ENG_STATUS.STATE n.val) = 1 ∧ s.engCheck n.val (s.engAddr n ra imm).toNat 2 true = (none, s) ∧
      engPlace (s.engAddr n ra imm).toNat = .sram ofs) ∧
    (∃ (n : EngNo) (ecc : Ecc) (rd ra : GReg) (imm : BitVec 18) (ofs : Nat) (s : State), ecc ≠ .badFetch ∧ ecc ≠
      .fixedFetch ∧ s.get (ENG_STATUS.STATE n.val) = 1 ∧ s.engCheck n.val (s.engAddr n ra imm).toNat 1 true = (none, s) ∧
      engPlace (s.engAddr n ra imm).toNat = .sram ofs) ∧
    (∃ (n : EngNo) (rd ra : GReg) (imm : BitVec 18) (ofs : Nat) (s : State), s.get (ENG_STATUS.STATE n.val) = 1 ∧
      s.engCheck n.val (s.engAddr n ra imm).toNat 4 false = (none, s) ∧ engPlace (s.engAddr n ra imm).toNat = .caseMem
      ofs) ∧
    (∃ (n : EngNo) (rd ra : GReg) (imm : BitVec 18) (ofs : Nat) (s : State), s.get (ENG_STATUS.STATE n.val) = 1 ∧
      s.engCheck n.val (s.engAddr n ra imm).toNat 2 false = (none, s) ∧ engPlace (s.engAddr n ra imm).toNat = .caseMem
      ofs) ∧
    (∃ (n : EngNo) (rd ra : GReg) (imm : BitVec 18) (ofs : Nat) (s : State), s.get (ENG_STATUS.STATE n.val) = 1 ∧
      s.engCheck n.val (s.engAddr n ra imm).toNat 1 false = (none, s) ∧ engPlace (s.engAddr n ra imm).toNat = .caseMem
      ofs) ∧
    (∃ (n : EngNo) (ecc : Ecc) (rd ra : GReg) (imm : BitVec 18) (ofs : Nat) (s : State), ecc ≠ .badFetch ∧ ecc ≠
      .fixedFetch ∧ s.get (ENG_STATUS.STATE n.val) = 1 ∧ s.engCheck n.val (s.engAddr n ra imm).toNat 4 true = (none, s) ∧
      engPlace (s.engAddr n ra imm).toNat = .caseMem ofs) ∧
    (∃ (n : EngNo) (ecc : Ecc) (rd ra : GReg) (imm : BitVec 18) (ofs : Nat) (s : State), ecc ≠ .badFetch ∧ ecc ≠
      .fixedFetch ∧ s.get (ENG_STATUS.STATE n.val) = 1 ∧ s.engCheck n.val (s.engAddr n ra imm).toNat 2 true = (none, s) ∧
      engPlace (s.engAddr n ra imm).toNat = .caseMem ofs) ∧
    (∃ (n : EngNo) (ecc : Ecc) (rd ra : GReg) (imm : BitVec 18) (ofs : Nat) (s : State), ecc ≠ .badFetch ∧ ecc ≠
      .fixedFetch ∧ s.get (ENG_STATUS.STATE n.val) = 1 ∧ s.engCheck n.val (s.engAddr n ra imm).toNat 1 true = (none, s) ∧
      engPlace (s.engAddr n ra imm).toNat = .caseMem ofs) ∧
    (∃ (n : EngNo) (rd ra rb : GReg) (ofs : Nat) (s : State), s.get (ENG_STATUS.STATE n.val) = 1 ∧ engPlace (s.engG n.val
      ra).toNat = .caseMem ofs ∧ (s.engG n.val ra).toNat % 4 = 0 ∧ s.userDenied n.val (.caseMem ofs) true = false) :=
  ⟨⟨5, 1, 2, 8, 8, engWit, by decide⟩,
    ⟨5, 1, 2, 8, 8, engWit, by decide⟩,
    ⟨5, 1, 2, 8, 8, engWit, by decide⟩,
    ⟨5, .clean, 1, 2, 8, 8, engWit, by decide⟩,
    ⟨5, .clean, 1, 2, 8, 8, engWit, by decide⟩,
    ⟨5, .clean, 1, 2, 8, 8, engWit, by decide⟩,
    ⟨5, 1, 2, 8, 8, caseEng, by decide⟩,
    ⟨5, 1, 2, 8, 8, caseEng, by decide⟩,
    ⟨5, 1, 2, 8, 8, caseEng, by decide⟩,
    ⟨5, .clean, 1, 2, 8, 8, caseEng, by decide⟩,
    ⟨5, .clean, 1, 2, 8, 8, caseEng, by decide⟩,
    ⟨5, .clean, 1, 2, 8, 8, caseEng, by decide⟩,
    ⟨5, 1, 2, 3, 0, caseEng, by decide⟩⟩

theorem wit_ControlFlowCommands :
    (∃ (n : EngNo) (ecc : Ecc) (c : BitVec 4) (ra : GReg) (off : BitVec 18) (s : State), ecc ≠ .badFetch ∧ ecc ≠
      .fixedFetch ∧ s.get (ENG_STATUS.STATE n.val) = 1 ∧ condHolds c (s.engG n.val ra) = some true ∧ 0 ≤ ((s.engine
      n.val).pc : Int) + off.toInt * 4 ∧ ((s.engine n.val).pc : Int) + off.toInt * 4 ≤ 0x3FFC ∧ (((s.engine n.val).pc :
      Int) + off.toInt * 4) % 4 = 0) ∧
    (∃ (n : EngNo) (ecc : Ecc) (c : BitVec 4) (ra : GReg) (off : BitVec 18) (s : State), ecc ≠ .badFetch ∧ ecc ≠
      .fixedFetch ∧ s.get (ENG_STATUS.STATE n.val) = 1 ∧ condHolds c (s.engG n.val ra) = some false) ∧
    (∃ (n : EngNo) (ecc : Ecc) (c : BitVec 4) (ra : GReg) (off : BitVec 18) (s : State), ecc ≠ .badFetch ∧ ecc ≠
      .fixedFetch ∧ s.get (ENG_STATUS.STATE n.val) = 1 ∧ condHolds c (s.engG n.val ra) = some true ∧ 0 ≤ ((s.engine
      n.val).pc : Int) + off.toInt * 4 ∧ ((s.engine n.val).pc : Int) + off.toInt * 4 ≤ 0x3FFC ∧ (((s.engine n.val).pc :
      Int) + off.toInt * 4) % 4 = 0) ∧
    (∃ (n : EngNo) (ecc : Ecc) (c : BitVec 4) (ra : GReg) (off : BitVec 18) (s : State), ecc ≠ .badFetch ∧ ecc ≠
      .fixedFetch ∧ s.get (ENG_STATUS.STATE n.val) = 1 ∧ condHolds c (s.engG n.val ra) = some false) ∧
    (∃ (n : EngNo) (ecc : Ecc) (rd ra : GReg) (imm : BitVec 18) (s : State), ecc ≠ .badFetch ∧ ecc ≠ .fixedFetch ∧ s.get
      (ENG_STATUS.STATE n.val) = 1 ∧ (s.engG n.val ra + imm.signExtend 32 * 4).toNat ≤ 0x3FFC ∧ (s.engG n.val ra +
      imm.signExtend 32 * 4).toNat % 4 = 0) ∧
    (∃ (n : EngNo) (ecc : Ecc) (s : State), ecc ≠ .badFetch ∧ ecc ≠ .fixedFetch ∧ s.get (ENG_STATUS.STATE n.val) = 1) ∧
    (∃ (n : EngNo) (ecc : Ecc) (s : State), ecc ≠ .badFetch ∧ ecc ≠ .fixedFetch ∧ s.get (ENG_STATUS.STATE n.val) = 1) ∧
    (∃ (n : EngNo) (ecc : Ecc) (s : State), ecc ≠ .badFetch ∧ ecc ≠ .fixedFetch ∧ s.get (ENG_STATUS.STATE n.val) = 1) ∧
    (∃ (n : EngNo) (ecc : Ecc) (w : Word) (s : State), ecc ≠ .badFetch ∧ ecc ≠ .fixedFetch ∧ s.get (ENG_STATUS.STATE
      n.val) = 1 ∧ decodeEngine n ecc w = none) :=
  ⟨⟨5, .clean, 0, 0, 3, engWit, by decide⟩,
    ⟨5, .clean, 2, 0, 3, engWit, by decide⟩,
    ⟨5, .clean, 0, 0, 3, engWit, by decide⟩,
    ⟨5, .clean, 2, 0, 3, engWit, by decide⟩,
    ⟨5, .clean, 1, 0, 3, engWit, by decide⟩,
    ⟨5, .clean, engWit, by decide⟩,
    ⟨5, .clean, engWit, by decide⟩,
    ⟨5, .clean, engWit, by decide⟩,
    ⟨5, .clean, 0xFFFFFFFF, engWit, by decide⟩⟩

theorem wit_EngineUnitCommands :
    (∃ (n : EngNo) (ecc : Ecc) (rd ra rb : GReg) (tgt mbx : BitVec 4) (s : State), ecc ≠ .badFetch ∧ ecc ≠ .fixedFetch ∧
      s.get (ENG_STATUS.STATE n.val) = 1) ∧
    (∃ (n : EngNo) (ecc : Ecc) (rd : GReg) (mbx : BitVec 4) (t : State) (s : State), ecc ≠ .badFetch ∧ ecc ≠ .fixedFetch ∧
      s.get (ENG_STATUS.STATE n.val) = 1 ∧ recvReg rd = true ∧ s.takeMail n.val rd.toNat mbx.toNat = some t) ∧
    (∃ (n : EngNo) (ecc : Ecc) (rd : GReg) (mbx : BitVec 4) (s : State), ecc ≠ .badFetch ∧ ecc ≠ .fixedFetch ∧ s.get
      (ENG_STATUS.STATE n.val) = 1 ∧ recvReg rd = true ∧ s.takeMail n.val rd.toNat mbx.toNat = none) ∧
    (∃ (n : EngNo) (ecc : Ecc) (rd ra : GReg) (s : State), ecc ≠ .badFetch ∧ ecc ≠ .fixedFetch ∧ s.get (ENG_STATUS.STATE
      n.val) = 1 ∧ (s.engEvents n.val &&& (s.engG n.val ra).toNat ≠ 0 ∨ (s.engG n.val ra).toNat = 0)) ∧
    (∃ (n : EngNo) (ecc : Ecc) (rd ra : GReg) (s : State), ecc ≠ .badFetch ∧ ecc ≠ .fixedFetch ∧ s.get (ENG_STATUS.STATE
      n.val) = 1 ∧ s.engEvents n.val &&& (s.engG n.val ra).toNat = 0 ∧ (s.engG n.val ra).toNat ≠ 0) ∧
    (∃ (n : EngNo) (rd mbx : Nat) (t s : State), (s.engine n.val).waiting = some (.recv rd mbx) ∧ s.takeMail n.val rd mbx
      = some t) ∧
    (∃ (n : EngNo) (rd mask : Nat) (s : State), (s.engine n.val).waiting = some (.event rd mask) ∧ s.engEvents n.val &&&
      mask ≠ 0) ∧
    (∃ (n : EngNo) (ecc : Ecc) (rd ra rb : GReg) (d : BitVec 3) (s : State), ecc ≠ .badFetch ∧ ecc ≠ .fixedFetch ∧ s.get
      (ENG_STATUS.STATE n.val) = 1 ∧ (s.engG n.val ra).toNat < wordField (s.engTbl n.val (2 * d.toNat + 1)) 31 16 ∧
      (s.engG n.val rb).toNat < wordField (s.engTbl n.val (2 * d.toNat + 1)) 15 0) ∧
    (∃ (n : EngNo) (ecc : Ecc) (rd ra rb : GReg) (d : BitVec 3) (s : State), ecc ≠ .badFetch ∧ ecc ≠ .fixedFetch ∧ s.get
      (ENG_STATUS.STATE n.val) = 1 ∧ (wordField (s.engTbl n.val (2 * d.toNat + 1)) 31 16 ≤ (s.engG n.val ra).toNat ∨
      wordField (s.engTbl n.val (2 * d.toNat + 1)) 15 0 ≤ (s.engG n.val rb).toNat)) ∧
    (∃ (n : EngNo) (ecc : Ecc) (rd ra rb : GReg) (s : State), ecc ≠ .badFetch ∧ ecc ≠ .fixedFetch ∧ s.get
      (ENG_STATUS.STATE n.val) = 1) ∧
    (∃ (n : EngNo) (ecc : Ecc) (rd ra rb : GReg) (s : State), ecc ≠ .badFetch ∧ ecc ≠ .fixedFetch ∧ s.get
      (ENG_STATUS.STATE n.val) = 1) ∧
    (∃ (n : EngNo) (rd ra rb : GReg) (alg : BitVec 2) (ofs : Nat) (s : State), s.get (ENG_STATUS.STATE n.val) = 1 ∧ alg ≠
      3 ∧ engPlace (s.engG n.val ra).toNat = .sram ofs ∧ ofs + (s.engG n.val rb).toNat ≤ 0x8000 ∧ (s.engG n.val rb).toNat
      ≤ 4096) ∧
    (∃ (n : EngNo) (ecc : Ecc) (rd : GReg) (s : State), ecc ≠ .badFetch ∧ ecc ≠ .fixedFetch ∧ s.get (ENG_STATUS.STATE
      n.val) = 1) ∧
    (∃ (n : EngNo) (ecc : Ecc) (rd : GReg) (s : State), ecc ≠ .badFetch ∧ ecc ≠ .fixedFetch ∧ s.get (ENG_STATUS.STATE
      n.val) = 1) ∧
    (∃ (n : EngNo) (ecc : Ecc) (rd : GReg) (s : State), ecc ≠ .badFetch ∧ ecc ≠ .fixedFetch ∧ s.get (ENG_STATUS.STATE
      n.val) = 1) ∧
    (∃ (n : EngNo) (ecc : Ecc) (rd : GReg) (s : State), ecc ≠ .badFetch ∧ ecc ≠ .fixedFetch ∧ s.get (ENG_STATUS.STATE
      n.val) = 1) ∧
    (∃ (n : EngNo) (ecc : Ecc) (rd : GReg) (csr : BitVec 8) (s : State), ecc ≠ .badFetch ∧ ecc ≠ .fixedFetch ∧ s.get
      (ENG_STATUS.STATE n.val) = 1 ∧ csrKnown csr.toNat = true) ∧
    (∃ (n : EngNo) (ecc : Ecc) (ra : GReg) (csr : BitVec 8) (s : State), ecc ≠ .badFetch ∧ ecc ≠ .fixedFetch ∧ s.get
      (ENG_STATUS.STATE n.val) = 1 ∧ csrKnown csr.toNat = true) :=
  ⟨⟨5, .clean, 1, 2, 3, 11, 15, engWit, by decide⟩,
    ⟨5, .clean, 2, 15, (mailEng.takeMail 5 2 15).getD mailEng, mailEng, by decide⟩,
    ⟨5, .clean, 14, 15, engWit, by decide⟩,
    ⟨5, .clean, 1, 0, engWit, by decide⟩,
    ⟨5, .clean, 1, 3, engWit.setG 5 3 0x10000, by decide⟩,
    ⟨5, 2, 15, (mailEng.takeMail 5 2 15).getD mailEng, mailEng, by decide⟩,
    ⟨5, 2, 0x10000, engWit.setEngine 5 fun e => { e with waiting := some (.event 2 0x10000), latch := 0x10000 }, by decide⟩,
    ⟨5, .clean, 1, 2, 3, 7, engWit.setEngine 5 fun e => { e with tbl := [(15, 0x00010001)] }, by decide⟩,
    ⟨5, .clean, 1, 2, 3, 7, engWit, by decide⟩,
    ⟨5, .clean, 1, 2, 3, engWit, by decide⟩,
    ⟨5, .clean, 1, 2, 3, engWit, by decide⟩,
    ⟨5, 1, 2, 3, 2, 0, engWit, by decide⟩,
    ⟨5, .clean, 1, engWit, by decide⟩,
    ⟨5, .clean, 1, engWit, by decide⟩,
    ⟨5, .clean, 1, engWit, by decide⟩,
    ⟨5, .clean, 1, engWit, by decide⟩,
    ⟨5, .clean, 1, 7, engWit, by decide⟩,
    ⟨5, .clean, 1, 5, engWit, by decide⟩⟩

/-! ### The other statements -/

/-- Nothing is queued. -/
theorem wit_IdleStepIsOneTick : State.reset.pending = [] := by decide
/-- A state with its tables in form whose step answers. -/
theorem wit_StepKeepsTablesInForm : State.reset.tablesOk = true ∧ ∃ t, step State.reset = .next t := ⟨by decide, _, rfl⟩
/-- A well-formed instruction of an engine. -/
theorem wit_EngineWordsRoundTrip : engineOf (.tbl 3 .clean 1 2 3 7) = some (3, .clean) ∧
    Instr.wellFormed (.tbl 3 .clean 1 2 3 7) = true := by decide
/-- A word that decodes. -/
theorem wit_EngineWordsHaveOneReading : decodeEngine 11 .badData 0x40CBFFFB = some (.addi 11 .badData 3 2 (-5)) := by decide
/-- An unassigned opcode, a reserved condition, a bit in an unused field; and a running engine. -/
theorem wit_IllegalWordsFault : (0xB4000000 / 2 ^ 26 = 0x2D ∧ 0xFFFFFFFF / 2 ^ 26 = 0x3F) ∧
    (0xC1C00000 / 2 ^ 26 = 0x30 ∧ 0xC1C00000 / 2 ^ 22 % 16 = 7) ∧ unusedBitSet 0x0D 0x34000001 = true ∧
    decodeEngine 5 .clean 0x34000001 = none ∧ fetchesClean .clean ∧ engWit.get (ENG_STATUS.STATE 5) = 1 := by
  refine ⟨by decide, by decide, by decide, by decide, by simp [fetchesClean], by decide⟩
/-- An index and an offset just inside a table of 3 elements of 8 bytes; and at reset every table is empty. -/
theorem wit_TableAddressRule : (let s := ((engWit.setEngine 5 fun e => { e with tbl := [(1, 0x00030008)] }).setG 5 1 2).setG 5 2 7
    s.get (ENG_STATUS.STATE 5) = 1 ∧ (s.engG 5 1).toNat < wordField (s.engTbl 5 1) 31 16 ∧
    (s.engG 5 2).toNat < wordField (s.engTbl 5 1) 15 0) ∧ wordField (engWit.engTbl 5 1) 31 16 ≤ (engWit.engG 5 0).toNat := by decide
/-- An aligned word of Case memory, and an address past its last one. -/
theorem wit_CompareAndSwapRule : (let s := engWit.setG 5 2 0x1FFFFC
    s.get (ENG_STATUS.STATE 5) = 1 ∧ 0x100000 ≤ (s.engG 5 2).toNat ∧ (s.engG 5 2).toNat < 0x200000 ∧ (s.engG 5 2).toNat % 4 = 0 ∧
    s.userDenied 5 (.caseMem ((s.engG 5 2).toNat - 0x100000)) true = false) ∧
    ¬ (((engWit.setG 5 2 0x200000).engG 5 2).toNat < 0x200000) := by decide
/-- The straps are measured in phase 2, four times with one code. -/
theorem wit_StrapClassRule : (State.reset.setPhase 2).phase = 2 ∧ strapCode (0 : BitVec 16).toNat = strapCode (1 : BitVec 16).toNat := by
  decide
/-- A first fault of an engine outside probation, and one that a watchdog causes. -/
theorem wit_EngineFaultRecords : engWit.on (ENG_ROLE.WDT_WARM 5) = false ∧ engWit.on FC_STATUS.PROB = false ∧
    (engWit.engine 5).faults = [] ∧ 2 ≤ engWit.get FC_ENG_CFG.FAULT_N ∧ (engWit.engine 5).pc ≤ 0x3FFC := by decide
/-- A fetched word with an uncorrectable error, on a running engine. -/
theorem wit_BadFetchFaultsAnyInstruction : engineOf (.fence 5 .badFetch) = some (5, .badFetch) ∧
    engWit.get (ENG_STATUS.STATE 5) = 1 := by decide
/-- An engine that does not run. -/
theorem wit_StoppedEngineExecutesNothing : engineOf (.fence 5 .clean) = some (5, .clean) ∧
    State.reset.get (ENG_STATUS.STATE 5) ≠ 1 := by decide
/-- A running engine computes a register. -/
theorem wit_ComputingInstructionsFrame : engineOf (.lui 5 .clean 7 1) = some (5, .clean) ∧ aluDest (.lui 5 .clean 7 1) = some 7 ∧
    engWit.get (ENG_STATUS.STATE 5) = 1 ∧ ∃ t, exec (.lui 5 .clean 7 1) engWit = .next t := ⟨by decide, by decide, by decide, _, rfl⟩
/-- A store to the last word of the data SRAM, and one to plain Case memory. -/
theorem wit_StoreFrame : storeForm (.sw 5 .clean 1 2 0) = some (4, 2, 0, 1) ∧
    (engPlace ((engWit.setG 5 2 0x7FFC).engAddr 5 2 0).toNat = .sram 0x7FFC) ∧
    (engPlace (caseEng.engAddr 5 2 8).toNat = .caseMem 8 ∧ caseEng.userDenied 5 (.caseMem 8) true = false) := by decide
/-- A USER engine, with an address just below and one just past its part of Case memory. -/
theorem wit_UserEngineIsKeptOut : (let s := caseEng.put (ENG_STATUS.ROLE_NOW 5) 6
    s.get (ENG_STATUS.ROLE_NOW 5) = 6 ∧ s.get (ENG_STATUS.STATE 5) = 1) ∧
    engPlace (caseEng.engAddr 5 2 0).toNat = .caseMem 0 ∧
    engPlace ((caseEng.setG 5 2 0x150000).engG 5 2).toNat = .caseMem 0x50000 := by decide
/-- Custody of engine 0; and nobody's, with a write of a forme-control register. -/
theorem wit_FormeControlNeedsCustody : custWit.hasCustody (.engine 0) = true ∧ State.reset.hasCustody (.engine 0) = false ∧
    State.reset.hasCustody .usb = false ∧ place 0x10000 ≠ .nothing ∧ State.reset.excludedAt 0x10000 = false ∧
    State.reset.keepOut = false ∧ State.reset.behind .usb = false := by decide
/-- A mailbox with room, and one with a message. -/
theorem wit_MailboxOrder : ((engWit.put (ENG_STATUS.ROLE_NOW 6) 1).mailTarget 6 = some 6 ∧ (tget [] 15 (engWit.engine 6).mail).length < 8) ∧
    (recvReg 2 = true ∧ tget [] 15 (mailEng.engine 5).mail = (1, 2) :: []) := by decide
/-- A path none of whose accesses waits. -/
theorem wit_TimeLatchRule : State.reset.behind .smbus = false := by decide
/-- The block of an Ethernet adapter that a class excludes. -/
theorem wit_ExcludedBlockIsSilent : ∃ a : Word, a.toNat % 4 = 0 ∧ place (plain a.toNat) ≠ .nothing ∧
    (State.reset.put ID_PRESENT.JPORT 0).excludedAt (plain a.toNat) = true ∧ (State.reset.put ID_PRESENT.JPORT 0).behind .usb = false := ⟨0x360000, by decide⟩
/-- A write through the alias that is not turned away for custody. -/
theorem wit_ShadowAliasSparesActive : 2 ^ 31 ≤ (0x80100000 : Word).toNat ∧
    State.reset.turnedAway .usb (0x80100000 : Word).toNat (Machine.sizeOf 2) true ≠ 2 := by decide

end Sys2Proof.Tests
end

section
/-! What a management access does on a path none of whose accesses waits, in a block that the class excludes (R5), and
at addresses of the shadow Forme (R16, R17). -/

namespace Sys2Proof.Machine

section Laws
variable (s : State) {p : Path} {a sz : Nat} {write : Bool}

/-! ### Excluded blocks (R5) -/

theorem State.turnedAway_of_excluded (h4 : a % 4 = 0) (hp : place (plain a) ≠ .nothing) (he : s.excludedAt (plain a) = true) :
    s.turnedAway p a 4 write = 0 := by
  simp [State.turnedAway, aligned, h4, hp, he]

theorem State.mgmtRead_of_excluded (ht : s.turnedAway p a sz false = 0) (he : s.excludedAt (plain a) = true) :
    s.mgmtRead p a sz = (0, 0, s) := by
  simp [State.mgmtRead, ht, he]

theorem State.landWrite_of_excluded (w : Word) (he : s.excludedAt (plain a) = true) : s.landWrite p a sz w = (0, s, id) := by
  simp [State.landWrite, he]

theorem State.stalls_of_excluded (he : s.excludedAt (plain a) = true) : s.stalls a = false := by
  simp [State.stalls, he]

/-! ### Writes -/

theorem State.mgmtWrite_of_turnedAway (w : Word) (h2 : s.turnedAway p a sz true ≠ 2) (h0 : s.turnedAway p a sz true ≠ 0) :
    s.mgmtWrite p a sz w = (s.turnedAway p a sz true, s, id) := by
  simp [State.mgmtWrite, h2, h0]

theorem State.mgmtWrite_lands (w : Word) (ht : s.turnedAway p a sz true = 0) : s.mgmtWrite p a sz w = s.landWrite p a sz w := by
  simp [State.mgmtWrite, ht]

theorem State.landWrite_shadowForme (w : Word) (ha : isAlias a = true) :
    s.landWrite p a sz w = (0, s, id) ∨ s.landWrite p a sz w = (0, s.writeShadow (plain a) w, id) := by
  by_cases he : s.excludedAt (plain a) = true
  · exact .inl (s.landWrite_of_excluded w he)
  · by_cases hr : place (plain a) = .reg
    · exact .inr (by simp [State.landWrite, he, ha, hr])
    · exact .inl (by simp [State.landWrite, he, ha, hr])

/-- A write with bit 31 set that custody does not refuse gives a status and nothing else, or lands in the shadow Forme (R16). -/
theorem State.mgmtWrite_shadowForme (w : Word) (ha : isAlias a = true) (h2 : s.turnedAway p a sz true ≠ 2) :
    s.mgmtWrite p a sz w = (s.turnedAway p a sz true, s, id) ∨ s.mgmtWrite p a sz w = (0, s.writeShadow (plain a) w, id) := by
  by_cases h0 : s.turnedAway p a sz true = 0
  · rw [s.mgmtWrite_lands w h0, h0]
    exact s.landWrite_shadowForme w ha
  · exact .inl (s.mgmtWrite_of_turnedAway w h2 h0)

theorem State.writeStalls_of_not_stalls (hs : s.stalls a = false) : s.writeStalls p a sz = false := by
  simp [State.writeStalls, hs]

theorem State.writeCmd_open (w : Word) (c : Instr) (hb : s.behind p = false) (hs : s.writeStalls p a sz = false) :
    s.writeCmd p a sz w c = (s.mgmtWrite p a sz w).2.2
      ((s.mgmtWrite p a sz w).2.1.emit (.access p a (s.mgmtWrite p a sz w).1 0)) :=
  s.ordered_open c _ hb hs

theorem State.writeCmd_lands (w : Word) (c : Instr) (hb : s.behind p = false) (ht : s.turnedAway p a sz true = 0)
    (hs : s.stalls a = false) :
    s.writeCmd p a sz w c = (s.landWrite p a sz w).2.2
      ((s.landWrite p a sz w).2.1.emit (.access p a (s.landWrite p a sz w).1 0)) := by
  rw [s.writeCmd_open w c hb (s.writeStalls_of_not_stalls hs), s.mgmtWrite_lands w ht]

theorem State.readCmd_open (c : Instr) (hb : s.behind p = false) :
    s.readCmd p a sz c = (s.mgmtRead p a sz).2.2.emit (.access p a (s.mgmtRead p a sz).1 (s.mgmtRead p a sz).2.1) :=
  s.ordered_open c _ hb rfl

/-! ### The shadow Forme -/

theorem State.each_keeps_of_mem {β γ : Type} (v : State → γ) (l : List β) (g : β → State → State)
    (h : ∀ b ∈ l, ∀ s, v (g b s) = v s) : v (s.each l g) = v s := by
  induction l generalizing s with
  | nil => rfl
  | cons b l ih =>
    rw [State.each_cons, ih _ fun c hc => h c (List.mem_cons_of_mem b hc), h b List.mem_cons_self]

/-- A write to the shadow Forme changes the shadow words alone (R16). -/
theorem State.writeShadow_eq (w : Word) : s.writeShadow a w = { s with shadow := (s.writeShadow a w).shadow } := by
  have h : ({ s.writeShadow a w with shadow := s.shadow } : State) = s := by
    unfold State.writeShadow
    split
    · rfl
    · refine s.each_keeps_of_mem (fun t => { t with shadow := s.shadow }) _ _ fun f hf t => ?_
      have hacc : f.acc = .fh := by simpa using (List.mem_filter.1 hf).2
      simp only [State.writeField, hacc]
      rfl
  exact congrArg (fun t : State => { t with shadow := (s.writeShadow a w).shadow }) h

theorem State.writeShadow_regs (w : Word) : (s.writeShadow a w).regs = s.regs := by
  rw [State.writeShadow_eq]

theorem State.writeShadow_memories (w : Word) : sameMemories s (s.writeShadow a w) := by
  rw [State.writeShadow_eq]
  simp [sameMemories]

theorem isAlias_of_le {n : Nat} (h : 2 ^ 31 ≤ n) : isAlias n = true := by simpa [isAlias] using h

end Laws

/-- Settles O23. An excluded block is judged before the Keep die's reach and custody (notes/assumptions/12.md), so nothing turns
the access away and nothing of it lands. -/
theorem excludedBlockIsSilent : Obligations.ExcludedBlockIsSilent := by
  intro p a w s h4 hp he hb
  constructor
  · have ht := s.turnedAway_of_excluded (p := p) (write := false) h4 hp he
    show Host.Outcome.next (s.readCmd p a.toNat 4 _) = _
    rw [s.readCmd_open _ hb, s.mgmtRead_of_excluded ht he]
  · have ht := s.turnedAway_of_excluded (p := p) (write := true) h4 hp he
    show Host.Outcome.next (s.writeCmd p a.toNat 4 w _) = _
    rw [s.writeCmd_lands w _ hb ht (s.stalls_of_excluded he), s.landWrite_of_excluded w he]
    rfl

/-- Settles O24: the write waits, is turned away, or lands, and what lands with bit 31 set is in the shadow words alone. -/
theorem shadowAliasSparesActive : Obligations.ShadowAliasSparesActive := by
  intro p a w sz s ha h2
  refine ⟨s.writeCmd p a.toNat (sizeOf sz) w (.registerWrite p a sz w), rfl, ?_⟩
  by_cases hw : s.writeStalls p a.toNat (sizeOf sz) = true ∨ s.behind p = true
  · rw [State.writeCmd, s.ordered_waits _ _ hw]
    refine ⟨rfl, by simp [sameMemories], ?_⟩
    obtain hw | hb := hw
    · exact .inl (Bool.and_eq_true_iff.1 hw).2
    · exact .inr (.inl hb)
  · obtain ⟨hs, hb⟩ := not_or.1 hw
    rw [s.writeCmd_open w _ (Bool.eq_false_iff.2 hb) (Bool.eq_false_iff.2 hs)]
    obtain h | h := s.mgmtWrite_shadowForme w (isAlias_of_le ha) h2
    · rw [h]
      exact ⟨rfl, by simp [sameMemories], .inr (.inr (.inl rfl))⟩
    · rw [h]
      exact ⟨s.writeShadow_regs w, s.writeShadow_memories w, .inr (.inr (.inr rfl))⟩

/-! ### Accesses as commands -/

section Commands
variable (s : State)

section Registers
variable (p : Path) (a : Word)

theorem exec_registerWrite_lands (sz : Fin 3) (w : Word) (hb : s.behind p = false)
    (ht : s.turnedAway p a.toNat (sizeOf sz) true = 0) (hs : s.stalls a.toNat = false) :
    exec (.registerWrite p a sz w) s = .next
      (let r := s.landWrite p a.toNat (sizeOf sz) w
       r.2.2 (r.2.1.emit (.access p a.toNat r.1 0))) :=
  congrArg Host.Outcome.next (s.writeCmd_lands w _ hb ht hs)

theorem exec_rcRead_open (sz : Fin 3) (hb : s.behind p = false) :
    exec (.rcRead p a sz) s = .next
      (let r := s.mgmtRead p a.toNat (sizeOf sz)
       r.2.2.emit (.access p a.toNat r.1 r.2.1)) :=
  congrArg Host.Outcome.next (s.readCmd_open _ hb)

theorem exec_keepAccessComplete_write (w : Word) (hb : s.behind p = false) (hk : keepBlock (plain a.toNat) = true)
    (ht : s.turnedAway p a.toNat 4 true = 0) (hs : s.stalls a.toNat = false) :
    exec (.keepAccessComplete p a (some w)) s = .next
      (let r := s.landWrite p a.toNat 4 w
       r.2.2 (r.2.1.emit (.access p a.toNat r.1 0))) :=
  congrArg Host.Outcome.next ((if_neg (by simp [hk])).trans (s.writeCmd_lands w _ hb ht hs))

theorem exec_keepAccessComplete_read (hb : s.behind p = false) (hk : keepBlock (plain a.toNat) = true) :
    exec (.keepAccessComplete p a none) s = .next
      (let r := s.mgmtRead p a.toNat 4
       r.2.2.emit (.access p a.toNat r.1 r.2.1)) :=
  congrArg Host.Outcome.next ((if_neg (by simp [hk])).trans (s.readCmd_open _ hb))

end Registers

theorem exec_shadowWriteRelease {e : Path × Instr} {t : List (Path × Instr)} (hc : s.fc.copying = false)
    (h : s.fc.stalled = e :: t) :
    exec .shadowWriteRelease s = .next
      (let behind := t.takeWhile fun e => !State.wasStalled e.2
       (s.setFc fun f => { f with stalled := t.drop behind.length }).each (e :: behind) fun e u =>
        u.when (u.phase == s.phase) fun u => u.makeHeld e.2) := by
  show execShadowWriteRelease s = _
  simp only [execShadowWriteRelease, hc, h, Bool.false_eq_true, if_false]
  rfl

/-- The management address that an offset in BAR0 or BAR2 reaches (R46). -/
def barAddr (bar2 : Bool) (ofs : BitVec 26) : Nat := ofs.toNat + (if bar2 then 2 ^ 31 else 0)

section Bar
variable (bar2 : Bool) (ofs : BitVec 26) (sz : Fin 4) (hu : s.upSwitch = true) (hb : s.behind .pcie = false)
include hu hb

theorem exec_pcieBarAccess_read (h0 : (s.mgmtRead .pcie (barAddr bar2 ofs) (2 ^ sz.val)).1 = 0) :
    exec (.pcieBarAccess bar2 ofs sz none) s = .next
      (let r := s.mgmtRead .pcie (barAddr bar2 ofs) (2 ^ sz.val)
       r.2.2.emit (.bar 0 r.2.1)) := by
  unfold barAddr at *
  refine congrArg Host.Outcome.next ((if_neg (by simp [hu])).trans ((s.ordered_open _ _ hb rfl).trans ?_))
  simp only [h0, if_true]

theorem exec_pcieBarAccess_write (w : Word) (hs : s.stalls (barAddr bar2 ofs) = false)
    (h0 : (s.mgmtWrite .pcie (barAddr bar2 ofs) (2 ^ sz.val) w).1 = 0) :
    exec (.pcieBarAccess bar2 ofs sz (some w)) s = .next
      (let r := s.mgmtWrite .pcie (barAddr bar2 ofs) (2 ^ sz.val) w
       r.2.2 r.2.1) := by
  have hw : s.writeStalls .pcie (barAddr bar2 ofs) (2 ^ sz.val) = false := s.writeStalls_of_not_stalls hs
  unfold barAddr at *
  refine congrArg Host.Outcome.next ((if_neg (by simp [hu])).trans ((s.ordered_open _ _ hb hw).trans ?_))
  simp only [h0, if_true]

end Bar

theorem exec_smbusWrite (a w : Word) (hb : s.behind .smbus = false) (hs : s.stalls a.toNat = false) :
    exec (.smbusWrite true a w) s =
      .next ((s.mgmtWrite .smbus a.toNat 4 w).2.2 (s.mgmtWrite .smbus a.toNat 4 w).2.1) :=
  congrArg Host.Outcome.next (s.ordered_open _ _ hb (s.writeStalls_of_not_stalls hs))

theorem exec_smbusSetAddress (a : Word) (hb : s.behind .smbus = false) :
    exec (.smbusSetAddress true a) s = .next (s.setMg fun m => { m with readAddr := a.toNat }) :=
  congrArg Host.Outcome.next (s.ordered_open _ _ hb rfl)

theorem exec_smbusRead (hb : s.behind .smbus = false) (hp : s.mg.pecBad = false)
    (h0 : (s.mgmtRead .smbus s.mg.readAddr 4).1 = 0) :
    exec (.smbusRead true) s = .next
      (let r := s.mgmtRead .smbus s.mg.readAddr 4
       r.2.2.emit (.smbus 0 r.2.1)) := by
  refine congrArg Host.Outcome.next ((s.ordered_open _ _ hb rfl).trans ?_)
  simp [hp, h0]

section Mt
variable (src : Fin 2048) (u : List Byte)

theorem exec_mtReadRequest (hb : s.behind (.tunnel src) = false) (hw : mtIsWrite u = false) (hu : mtBad u = false) :
    exec (.mtReadRequest src u) s = .next
      (let r := State.readWords (.tunnel src) (beAt u 8 2) (beAt u 4 4) (s.takeMt 0xFD0)
       r.2.2.mtAnswer src u r.1 r.2.1.length r.2.1) :=
  congrArg Host.Outcome.next ((if_neg (by simp [hw])).trans ((s.ordered_open _ _ hb rfl).trans (if_neg (by simp [hu]))))

theorem exec_mtWriteRequest (hb : s.behind (.tunnel src) = false)
    (hs : s.unitStalls (.tunnel src) (beAt u 8 2) (beAt u 4 4) = false) (hw : mtIsWrite u = true) (hu : mtBad u = false) :
    exec (.mtWriteRequest src u) s = .next
      (let r := State.writeWords (.tunnel src) (mtWords u (beAt u 8 2)) (beAt u 4 4) (s.takeMt 0xFD0)
       r.2.2.2 (r.2.2.1.mtAnswer src u r.1 r.2.1 [])) :=
  congrArg Host.Outcome.next ((if_neg (by simp [hw])).trans ((s.ordered_open _ _ hb hs).trans (if_neg (by simp [hu]))))

theorem exec_mtReply {r : MtReq} (h : (s.mg.mt.find? fun r => r.hub == src.val && r.tag == beAt u 2 2) = some r) :
    exec (.mtReply src u) s = .next
      (let n := min (beAt u 10 2) (s.reqNat r.chan 12 2)
       (s.takeMt 0xFD1).mtDone r (beAt u 1 1) n (if s.reqNat r.chan 0 1 = 1 then mtWords u n else [])) := by
  show execMtReply src u s = _
  simp only [execMtReply, h]

theorem exec_mtTimeout (tag : BitVec 16) {r : MtReq} (h : (s.mg.mt.find? fun r => r.tag == tag.toNat) = some r) :
    exec (.mtTimeout tag) s = .next (s.mtDone r 4 0 []) := by
  show execMtTimeout tag s = _
  simp only [execMtTimeout, h]

end Mt

end Commands

/-- Settles O50, one lemma for each command: where no access of the path waits, `State.ordered` makes the access at once. What
waits and is released is notes/assumptions/13.md, the words of a reply notes/assumptions/17.md. -/
theorem accessCommands : Obligations.AccessCommands :=
  ⟨fun p a sz w s => exec_registerWrite_lands s p a sz w,
    fun p a sz s hb _ => exec_rcRead_open s p a sz hb,
    fun p a w s => exec_keepAccessComplete_write s p a w,
    fun p a s hb hk _ => exec_keepAccessComplete_read s p a hb hk,
    fun _ _ s => exec_shadowWriteRelease s,
    fun bar2 ofs sz s => exec_pcieBarAccess_read s bar2 ofs sz,
    fun bar2 ofs sz w s hu hb => exec_pcieBarAccess_write s bar2 ofs sz hu hb w,
    fun a w s => exec_smbusWrite s a w,
    fun a s => exec_smbusSetAddress s a,
    exec_smbusRead,
    fun src u s => exec_mtReadRequest s src u,
    fun src u s => exec_mtWriteRequest s src u,
    fun src u _ s => exec_mtReply s src u,
    fun tag _ s => exec_mtTimeout s tag⟩

end Sys2Proof.Machine
end

section
/-! The strap code in `ID_DEVICE` (R1) and the registers at reset (R7). -/

namespace Sys2Proof.Machine

section Laws
variable (s : State)

/-- Taking a strap code changes `ID_DEVICE` by the class and the boot source alone (R1). -/
theorem State.takeStrap_reg_device (code : Nat) : (s.takeStrap code).reg ID_DEVICE =
    (((s.put RST_STATUS.STRAP_CODE code).put ID_DEVICE.CLASS (code / 4)).put ID_DEVICE.BOOT_SRC (code % 4)).reg ID_DEVICE := by
  have engines (u : State) (v : Nat → Nat) :
      (u.each (List.range 12) fun n t => t.put (ENG_STATUS.STATE n) (v n)).reg ID_DEVICE = u.reg ID_DEVICE :=
    u.each_keeps (·.reg ID_DEVICE) _ _ fun n t => t.put_reg (by simp only [ENG_STATUS, ID_DEVICE]; omega) _
  have tool (u : State) (c : Bool) :
      (u.when c fun t => (t.put (ENG_ROLE.ROLE 2) 7).put (ENG_ROLE.PROG_SLOT 2) 5).reg ID_DEVICE = u.reg ID_DEVICE := by
    cases c
    · rfl
    · exact (State.put_reg _ (by decide) _).trans (State.put_reg _ (by decide) _)
  have present (u : State) (v w : Nat) : ((u.put ID_PRESENT.JPORT v).put ID_PRESENT.DOCK w).reg ID_DEVICE = u.reg ID_DEVICE :=
    (State.put_reg _ (by decide) _).trans (State.put_reg _ (by decide) _)
  have rails (u : State) :
      (if u.pw.railsUp then u.setPhase 4 else (u.setPhase 3).railsStart).reg ID_DEVICE = u.reg ID_DEVICE := by
    split
    · exact State.put_reg _ (by decide) _
    · rw [State.railsStart, State.setPw_reg, State.put_reg _ (by decide), State.setPhase, State.put_reg _ (by decide)]
  unfold State.takeStrap
  rw [rails, tool, engines, present]

theorem State.takeStrap_get (code : Nat) {f : Fld} (hf : f.addr = ID_DEVICE) : (s.takeStrap code).get f =
    (((s.put RST_STATUS.STRAP_CODE code).put ID_DEVICE.CLASS (code / 4)).put ID_DEVICE.BOOT_SRC (code % 4)).get f := by
  simp only [State.get, hf, State.takeStrap_reg_device]

theorem State.takeStrap_class {code : Nat} (h : code ≤ 15) : (s.takeStrap code).get ID_DEVICE.CLASS = code / 4 := by
  rw [s.takeStrap_get code rfl, State.put_get_of_apart _ (by decide), State.put_get _ _ (by decide)]
  exact Nat.mod_eq_of_lt (by dsimp only [ID_DEVICE.CLASS]; omega)

theorem State.takeStrap_bootSrc (code : Nat) : (s.takeStrap code).get ID_DEVICE.BOOT_SRC = code % 4 := by
  rw [s.takeStrap_get code rfl, State.put_get _ _ (by decide)]
  exact Nat.mod_eq_of_lt (Nat.mod_lt _ (by decide))

theorem strapCode_le (v : Nat) : strapCode v ≤ 15 := List.length_filter_le _ strapEnds

/-- Four readings of one code in phase 2: that code is taken (R437). -/
theorem exec_strapMeasure_agree (r0 r1 r2 r3 : BitVec 16) (hp : s.phase = 2) (h1 : strapCode r1.toNat = strapCode r0.toNat)
    (h2 : strapCode r2.toNat = strapCode r0.toNat) (h3 : strapCode r3.toNat = strapCode r0.toNat) :
    exec (.strapMeasure r0 r1 r2 r3) s = .next ((((s.put RST_STATUS.STRAP_MV (r3.toNat / 10)).put RST_STATUS.STRAP_TRIES
      (s.get RST_STATUS.STRAP_TRIES + 1)).put ID_DEVICE.STRAP_DFLT 0).takeStrap (strapCode r0.toNat)) := by
  show execStrapMeasure r0 r1 r2 r3 s = _
  simp [execStrapMeasure, hp, h1, h2, h3]

end Laws

/-- Settles O13: the code of the four readings is taken, and `ID_DEVICE` shows its quotient and remainder by 4. -/
theorem strapClassRule : Obligations.StrapClassRule := by
  intro r0 r1 r2 r3 s hp h1 h2 h3
  exact ⟨_, exec_strapMeasure_agree s r0 r1 r2 r3 hp h1 h2 h3, State.takeStrap_class _ (strapCode_le _),
    State.takeStrap_bootSrc _ _⟩

/-- No register has been written at reset, so each field holds the value of its table. -/
theorem State.reset_get (f : Fld) : State.reset.get f = wordField (regReset f.addr) f.hi f.lo := rfl

/-- Settles O25: each of the fields named is looked up in its table. -/
theorem resetRegisterValues : Obligations.ResetRegisterValues := by
  unfold Obligations.ResetRegisterValues
  simp only [State.reset_get]
  decide

end Sys2Proof.Machine
end

section
/-! Requests for the core voltage and what the regulator reports (R12, R31 to R39, R459, R460). -/

namespace Sys2Proof.Machine

section Vcore
variable (s : State)

theorem exec_vcoreRaiseRequest (n : EngNo) (mv : Fin 1024) (hk : s.keepHold = false) (hw : s.warmRefuses = false) :
    exec (.vcoreRaiseRequest n mv) s =
      .next (((s.vcRaiseTo mv.val).setImp fun i => { i with raiseReq := false }).vcAnswer n 0) := by
  show execVcoreRaiseRequest n mv s = _
  simp [execVcoreRaiseRequest, hk, hw]

theorem exec_vcoreRaiseRequest_refused (n : EngNo) (mv : Fin 1024) (hk : s.keepHold = false) (hw : s.warmRefuses = true) :
    exec (.vcoreRaiseRequest n mv) s = .next (s.vcRefuse n) := by
  show execVcoreRaiseRequest n mv s = _
  simp [execVcoreRaiseRequest, hk, hw]

section Lower
variable (n : EngNo) (hk : s.keepHold = false) (hw : s.warmRefuses = false) (hr : s.roomToLower = true)
  (hl : s.pw.vcLowered = false)
include hk hw hr hl

theorem exec_vcoreLowerRequest (ho : s.pw.vcOp = none) (hf : s.vcFloor ≤ s.get PACE_VCORE.VCORE_MV - 5) :
    exec (.vcoreLowerRequest n) s =
      .next (((s.setPw fun p => { p with vcLowered := true }).vcGo (s.get PACE_VCORE.VCORE_MV - 5)).vcAnswer n 0) := by
  show execVcoreLowerRequest n s = _
  simp [execVcoreLowerRequest, hk, hw, hr, hl, ho, Nat.not_lt.2 hf]

theorem exec_vcoreLowerRequest_belowFloor (hf : s.get PACE_VCORE.VCORE_MV - 5 < s.vcFloor) :
    exec (.vcoreLowerRequest n) s = .next (s.vcRefuse n) := by
  show execVcoreLowerRequest n s = _
  simp [execVcoreLowerRequest, hk, hw, hr, hl, hf]

end Lower

theorem exec_thermalFloorRaise_hot (tj : Fin 256) (hg : s.get ID_DEVICE.GRADE = 1) (ht : 105 < tj.val) :
    exec (.thermalFloorRaise tj) s = .next ((s.setPw fun p => { p with hot := true }).vcKeep 760) := by
  show execThermalFloorRaise tj s = _
  have h103 : 103 < tj.val := by omega
  simp [execThermalFloorRaise, hg, ht, h103, State.setPw]

theorem exec_pmbusTransactionDone_read (mv : Fin 1024) (h : s.pw.vcOp = some .read) :
    exec (.pmbusTransactionDone true mv) s = .next (s.vcDone mv.val) := by
  show execPmbusTransactionDone true mv s = _
  simp [execPmbusTransactionDone, h]

end Vcore

/-- Settles O28, one lemma for each request that the state decides on; a Pace reading and an alert are their definitions. Which
requests complete and which are refused is notes/assumptions/37.md and 38.md, the sensor reported 96.md. -/
theorem vcoreCommands : Obligations.VcoreCommands :=
  ⟨fun _ _ _ => rfl,
    fun n mv s => exec_vcoreRaiseRequest s n mv,
    fun n mv s => exec_vcoreRaiseRequest_refused s n mv,
    fun n s => exec_vcoreLowerRequest s n,
    fun n s => exec_vcoreLowerRequest_belowFloor s n,
    fun tj s => exec_thermalFloorRaise_hot s tj,
    fun mv s => exec_pmbusTransactionDone_read s mv,
    fun _ _ => rfl⟩

end Sys2Proof.Machine
end

section
/-! Keep hold, and what follows a lock-up. -/

namespace Sys2Proof.Machine

/-! ### Keep hold (R23, R537 to R540) -/

section Hold
variable (s : State)

theorem exec_keepHoldEnter (hk : s.keepHold = false) :
    exec .keepHoldEnter s = .next ((((((s.put KL_STATUS.HOLD 1).inc KL_STATUS.HOLDS).setPw fun p =>
      { p with holdAt := s.tm.tick, custWarm := false }).vcWithdraw.when s.pw.hot fun s => s.vcRaiseTo 760).logKeep 26 12 0
      0).revertTrigger 3) :=
  congrArg Host.Outcome.next (if_neg (by simp [hk]))

theorem exec_klLost (h : s.on EV_KL.KL_LOST_NOW = false) :
    exec .klLost s = .next (((s.put EV_KL.KL_LOST_NOW 1).raise EV_KL.KL_LOST).latchStewards 21) := by
  show execKlLost s = _
  simp [execKlLost, h]

theorem exec_keepHoldLeave (hk : s.keepHold = true) :
    exec .keepHoldLeave s = .next
      (let t := (((s.put EV_KL.KL_LOST_NOW 0).put KL_STATUS.HOLD 0).put KL_STATUS.ESCALATED 0).setPw fun p =>
        { p with custWarm := false }
       ((((t.when (t.on PACE_PLAN.FLOOR) fun t => t.vcKeep 750).afterHold).log 26 12 1 s.holdMs).raise
        EV_KL.KL_BACK).latchStewards 21) :=
  congrArg Host.Outcome.next (if_pos hk)

theorem exec_custodyLimit (hk : s.keepHold = true) (hn : s.on KL_CFG.CUST_NEVER = false) (hw : s.pw.custWarm = false)
    (hl : max 1 (s.get KL_CFG.CUST_LIMIT_MS) ≤ s.holdMs) :
    exec .custodyLimit s =
      .next ((s.setPw fun p => { p with custWarm := true }).decideReset srcCustody true s.holdMs) :=
  congrArg Host.Outcome.next (if_pos ⟨hk, by simp [hn], by simp [hw], hl⟩)

theorem exec_custodyEscalation (hk : s.keepHold = true) (hw : s.pw.custWarm = true) (he : s.on KL_STATUS.ESCALATED = false) :
    exec .custodyEscalation s =
      .next (((s.cairn srcCustody false true s.holdMs).put KL_STATUS.ESCALATED 1).coldReset) :=
  congrArg Host.Outcome.next (if_pos ⟨hk, hw, by simp [he]⟩)

end Hold

/-! ### What follows a lock-up (R19, R188, R413 to R417, R540) -/

section Lockup
variable (s : State)

theorem exec_retainedRecordWrite (h : s.fc.recOwed = true) :
    exec .retainedRecordWrite s = .next (s.setFc fun f =>
      { f with record := some ⟨s.formeTable, f.actPosts, f.actColo⟩, recGood := true, recOwed := false }) :=
  congrArg Host.Outcome.next (if_pos h)

theorem exec_postListWrite (h : s.fc.postOwed = true) :
    exec .postListWrite s = .next ((s.setFc fun f => { f with postOwed := false }).each s.fc.actPosts fun e u =>
      u.ordered (.engine 0) (u.writeStalls (.engine 0) e.1 4) (.registerWrite (.engine 0) (BitVec.ofNat 32 e.1) 2 e.2) fun u =>
        (u.mgmtWrite (.engine 0) e.1 4 e.2).2.2 (u.mgmtWrite (.engine 0) e.1 4 e.2).2.1) :=
  congrArg Host.Outcome.next (if_pos h)

theorem exec_keepFhApply (ho : s.fc.keepOwed = true) (hk : s.keepOut = false) :
    exec .keepFhApply s = .next s.keepApply :=
  congrArg Host.Outcome.next (if_pos ⟨ho, by simp [hk]⟩)

theorem exec_shadowCopyDone (hc : s.fc.copying = true) (hk : s.fc.keepOwed = false ∨ s.keepOut = true) :
    exec .shadowCopyDone s = .next (s.copyActive.setFc fun f => { f with copying := false }) := by
  have hn : ¬ (s.fc.keepOwed = true ∧ (!s.keepOut) = true) := by
    obtain h | h := hk <;> simp [h]
  show execShadowCopyDone s = _
  simp only [execShadowCopyDone, if_pos hc, if_neg hn]

theorem exec_shadowCopyDone_keepFirst (hc : s.fc.copying = true) (ho : s.fc.keepOwed = true) (hk : s.keepOut = false) :
    exec .shadowCopyDone s = .next (s.keepApply.copyActive.setFc fun f => { f with copying := false }) := by
  show execShadowCopyDone s = _
  simp [execShadowCopyDone, hc, ho, hk]

section Boundary
variable (h5 : 5 ≤ s.phase) (h8 : s.phase ≤ 8)
include h5 h8

theorem exec_milestoneBoundary_taken (hb : s.boundaryTaken (s.nowNs / (s.msPeriod * 125000)) = true) :
    exec .milestoneBoundary s = .next (s.takeBoundary (s.nowNs / (s.msPeriod * 125000))) := by
  have hp : ¬ (s.phase < 5 ∨ 8 < s.phase) := by omega
  show execMilestoneBoundary s = _
  simp only [execMilestoneBoundary, if_neg hp, if_pos hb]

theorem exec_milestoneBoundary_skipped (hb : s.boundaryTaken (s.nowNs / (s.msPeriod * 125000)) = false) :
    exec .milestoneBoundary s = .next (((s.inc IMP_COUNT.MS_SKIP).raise IMP_EVENT.MS_SKIP).when
      (s.armDue (s.nowNs / (s.msPeriod * 125000))) State.deferArm) := by
  have hp : ¬ (s.phase < 5 ∨ 8 < s.phase) := by omega
  show execMilestoneBoundary s = _
  simp only [execMilestoneBoundary, if_neg hp, hb, Bool.false_eq_true, if_false]

end Boundary
end Lockup

/-- Settles O53, one lemma for each command. What a hold withdraws and ends is notes/assumptions/39.md and 47.md, the path of the
post list 20.md, the boundaries taken 78.md. -/
theorem keepHoldCommands : Obligations.KeepHoldCommands :=
  ⟨exec_keepHoldEnter, exec_klLost, exec_keepHoldLeave, exec_custodyLimit, exec_custodyEscalation, exec_retainedRecordWrite,
    exec_postListWrite, exec_keepFhApply, exec_shadowCopyDone, exec_shadowCopyDone_keepFirst, exec_milestoneBoundary_taken,
    exec_milestoneBoundary_skipped⟩

end Sys2Proof.Machine
end

section
/-! The Forme controller: commands of the custodian, loads, stages, flash and keys (chapter 11), and REJOIN (R142). -/

namespace Sys2Proof.Machine

/-! ### Custody commands of the Forme controller (R409, R415 to R425) -/

section Custody
variable (s : State)

/-- No class excludes the Forme control block (R5). -/
theorem State.blockExcluded_formeBlock {a : Nat} (h : a / 0x10000 = 1) : s.blockExcluded a = false := by
  have h4 : ¬ (0x40100 ≤ a ∧ a < 0x40380) := by omega
  have h5 : ¬ (0x50100 ≤ a ∧ a < 0x50180) := by omega
  have h6 : ¬ (0x50200 ≤ a ∧ a < 0x50240) := by omega
  simp [State.blockExcluded, h, h4, h5, h6]

/-- A command to a register of the Forme control block answers its effect and status 0, on a path that holds custody. -/
theorem State.next_custodyCmd_formeBlock {p : Path} {a : Nat} (c : Instr) (g : State → State) (ha : a / 0x10000 = 1)
    (hb : s.behind p = false) (hc : s.hasCustody p = true) :
    (.next (s.custodyCmd p a c g) : Result) = .next ((g s).emit (.access p a 0 0)) :=
  congrArg Host.Outcome.next (s.custodyCmd_open c g hb (s.blockExcluded_formeBlock ha) hc)

end Custody

section Loads
variable (err : Option (Fin 3 × Fin 255)) (s : State) {src : Nat}

theorem exec_formeLoadDone {a : Nat} (h : s.fc.op = some (.load src a)) :
    exec (.formeLoadDone err) s = .next
      (if src < 2 ∧ (s.dir.bankState src = 1 ∨ s.dir.bankState src = 3) then s.loadBad src a 1 0xFF
       else
        let r := (s.readImage src (a == 3)).applySource src false (readFault err)
        if r.1 = 0 then r.2.2.loadGood src a else r.2.2.loadBad src a r.1 r.2.1) := by
  show execFormeLoadDone err s = _
  simp only [execFormeLoadDone, h]

theorem exec_stageDone (h : s.fc.op = some (.stage src)) (hr : s.on FC_STATUS.REVERTING = false) :
    exec (.stageDone err) s = .next (s.stageEnd src (readFault err)).2 := by
  show execStageDone err s = _
  simp [execStageDone, h, hr]

theorem exec_verifyDone (h : s.fc.op = some (.verify src)) :
    exec (.verifyDone err) s = .next
      (let t := (s.openFlash false).readImage src false
       let r := t.applySource src false (readFault err)
       ((t.loadResult 2 src 1 r.1 r.2.1).put FC_STATUS.STAGE_BUSY 0).setFc fun f => { f with op := none }) := by
  show execVerifyDone err s = _
  simp only [execVerifyDone, h]

section Revert
variable (h : s.fc.op = some (.stage src)) (hr : s.on FC_STATUS.REVERTING = true)
include h hr

theorem exec_revertStageDone_good (hg : (s.stageEnd src (readFault err)).1 = true) :
    exec (.revertStageDone err) s =
      .next ((s.stageEnd src (readFault err)).2.revertReady (s.get FC_STATUS.ACT_SRC)) := by
  show execRevertStageDone err s = _
  simp [execRevertStageDone, h, hr, hg]

theorem exec_revertStageDone_bad (hg : (s.stageEnd src (readFault err)).1 = false) :
    exec (.revertStageDone err) s = .next (((((s.stageEnd src (readFault err)).2.put FC_STATUS.PROB 0).put
      FC_STATUS.PROB_LEFT 0).put FC_STATUS.REVERTING 0).raise FC_EVENT.REVERT_FAIL) := by
  show execRevertStageDone err s = _
  simp [execRevertStageDone, h, hr, hg]

end Revert

theorem exec_probationEnd (hp : s.onProbation = true) (hl : s.get FC_STATUS.PROB_LEFT = 0) :
    exec .probationEnd s = .next (if s.on FC_PROB.PROB_AUTO then s.commitNow else s.startRevert) :=
  congrArg Host.Outcome.next (if_pos ⟨hp, hl⟩)

end Loads

/-! ### Flash commands and OTP writes (R422, R424, R425) -/

section Flash
variable (s : State)

section Done
variable (data : List Byte) (eff : FlashEffect) {w a : Word} (h : s.fc.flCmd = some (w, a))
include h

theorem exec_flashCommandDone_write (hw : wordField w 30 30 = 1) :
    exec (.flashCommandDone data eff) s =
      .next ((((s.flashEffect a.toNat (s.bufBytes (min 256 (wordField w 28 20))) eff).setFc fun f =>
        { f with flCmd := none }).put FC_FL_STAT.FL_BUSY 0).raise FC_EVENT.FL_DONE) := by
  show execFlashCommandDone data eff s = _
  simp only [execFlashCommandDone, h, if_pos hw]

theorem exec_flashCommandDone_read (hw : wordField w 30 30 ≠ 1) :
    exec (.flashCommandDone data eff) s =
      .next (((((s.flashEffect a.toNat [] eff).bufPut (padTo (min 256 (wordField w 28 20)) data)).setFc fun f =>
        { f with flCmd := none }).put FC_FL_STAT.FL_BUSY 0).raise FC_EVENT.FL_DONE) := by
  show execFlashCommandDone data eff s = _
  simp only [execFlashCommandDone, h, if_neg hw]

end Done

theorem exec_otpWriteDone_revoke {k : Nat} {r : List OtpOp} (h : s.fc.otp = .revoke k :: r) :
    exec .otpWriteDone s =
      .next (s.put FC_ROLLBACK.KEY_REVOKED (s.get FC_ROLLBACK.KEY_REVOKED ||| 2 ^ k)).otpNext := by
  show execOtpWriteDone s = _
  simp only [execOtpWriteDone, h]

theorem exec_otpWriteDone_prog {k : Nat} {b : List Byte} {r : List OtpOp} (h : s.fc.otp = .prog k b :: r) :
    exec .otpWriteDone s =
      .next ((s.put FC_ROLLBACK.KEY_PROG (s.get FC_ROLLBACK.KEY_PROG ||| 2 ^ k)).otpNext.setFc fun f =>
        { f with keyHash := tput [] k b f.keyHash }) := by
  show execOtpWriteDone s = _
  simp only [execOtpWriteDone, h]

/-- A step of the rollback counter goes on until the counter has reached the commit's value (R424). -/
theorem exec_otpWriteDone_step {n : Nat} {r : List OtpOp} (h : s.fc.otp = .step n :: r) :
    exec .otpWriteDone s = .next
      (let t := s.put FC_ROLLBACK.OTP_COUNT (s.get FC_ROLLBACK.OTP_COUNT + 1)
       if t.get FC_ROLLBACK.OTP_COUNT < n then t else t.otpNext) := by
  show execOtpWriteDone s = _
  simp only [execOtpWriteDone, h]

end Flash

theorem exec_rejoinRx (s : State) (p : Port) (takeId : Option (Fin 2048)) (minInc : BitVec 16) (roleId : Fin 2048)
    (roleInc : BitVec 16) (hs : s.spState p.val = stActive) (hv : s.on ID_HUB.ID_V = true) (hi : s.hubId = roleId.val) :
    exec (.rejoinRx p takeId minInc roleId roleInc) s = .next (s.rejoin p.val takeId minInc.toNat) := by
  show execRejoinRx p takeId minInc roleId roleInc s = _
  simp [execRejoinRx, hs, hv, hi]

/-- Settles O49. Each command of the custodian is one `State.custodyCmd` on a register of the Forme control block; each other
command has its lemma. The post list's path is notes/assumptions/20.md, what the flash does with a command 31.md, the boundaries
taken 78.md, and that flash and OTP change at their done command 90.md. -/
theorem formeCommands : Obligations.FormeCommands :=
  ⟨fun _ _ s => s.next_custodyCmd_formeBlock _ _ rfl, -- ARM
    fun _ s => s.next_custodyCmd_formeBlock _ _ rfl, -- DISARM
    fun _ _ s => s.next_custodyCmd_formeBlock _ _ rfl, -- STAGE
    fun _ _ s => s.next_custodyCmd_formeBlock _ _ rfl, -- VERIFY
    fun _ s => s.next_custodyCmd_formeBlock _ _ rfl, -- SHADOW_RESET
    fun _ s => s.next_custodyCmd_formeBlock _ _ rfl, -- COMMIT
    fun _ s => s.next_custodyCmd_formeBlock _ _ rfl, -- REVERT
    fun _ _ _ s => s.next_custodyCmd_formeBlock _ _ rfl, -- MARK
    fun _ s => s.next_custodyCmd_formeBlock _ _ rfl, -- CLR_ATTEMPTS
    fun _ _ s => s.next_custodyCmd_formeBlock _ _ rfl, -- FLASH_COMMAND
    fun _ _ s => s.next_custodyCmd_formeBlock _ _ rfl, -- PROG
    fun _ _ s => s.next_custodyCmd_formeBlock _ _ rfl, -- REVOKE
    fun err _ _ s => exec_formeLoadDone err s,
    fun err _ s => exec_stageDone err s,
    fun err _ s => exec_verifyDone err s,
    fun err _ s => exec_revertStageDone_good err s,
    fun err _ s => exec_revertStageDone_bad err s,
    exec_probationEnd,
    fun data eff _ _ s => exec_flashCommandDone_write s data eff,
    fun data eff _ _ s => exec_flashCommandDone_read s data eff,
    fun _ _ s => exec_otpWriteDone_revoke s,
    fun _ _ _ s => exec_otpWriteDone_prog s,
    fun _ _ s h hn => (exec_otpWriteDone_step s h).trans (congrArg Host.Outcome.next (if_pos hn)),
    fun _ _ s h hn => (exec_otpWriteDone_step s h).trans (congrArg Host.Outcome.next (if_neg (Nat.not_lt.2 hn))),
    exec_retainedRecordWrite, exec_postListWrite, exec_keepFhApply, exec_shadowCopyDone, exec_shadowCopyDone_keepFirst,
    exec_milestoneBoundary_taken, exec_milestoneBoundary_skipped,
    fun p takeId minInc roleId roleInc s => exec_rejoinRx s p takeId minInc roleId roleInc⟩

end Sys2Proof.Machine
end

section
/-! The supply, Keep sleep and wake, and the rails (R450 to R458, R563). -/

namespace Sys2Proof.Machine

section Power
variable (s : State)

theorem exec_keepSleepEntry (hl : s.pw.hvLow = true) (hr : s.pw.railsUp = true) : exec .keepSleepEntry s = .next s.keepSleep :=
  congrArg Host.Outcome.next (if_pos ⟨hl, hr⟩)

/-- No class excludes `KP_SLEEP` (R5). -/
theorem State.blockExcluded_sleep : s.blockExcluded KP_SLEEP = false := by
  simp [State.blockExcluded, KP_SLEEP]

theorem exec_keepSleepWrite (path : Path) (w : Word) (hk : s.keepOut = false) (hb : s.behind path = false)
    (hc : s.fc.copying = false) :
    exec (.keepSleepWrite path w) s = .next ((s.emit (.access path KP_SLEEP 0 0)).sleepWrite path w) :=
  congrArg Host.Outcome.next (s.keepCmd_open _ _ hb hk (by simp [hc]) s.blockExcluded_sleep)

theorem exec_wakeEvent (src : Fin 5) (hw : s.canWake src.val = true) (he : s.wakeEnabled src.val = true) :
    exec (.wakeEvent src) s = .next
      (if s.pw.hvGood then s.wake src.val else (s.put KP_STATUS.WAKE_SRC src.val).put KP_STATUS.WAKE_PEND 1) :=
  congrArg Host.Outcome.next (if_pos ⟨hw, he⟩)

theorem exec_wakeHvinSample_good (hp : s.on KP_STATUS.WAKE_PEND = true) :
    exec (.wakeHvinSample true) s = .next
      ((s.setPw fun p => { p with hvGood := true, hvLow := false }).supply.wake (s.get KP_STATUS.WAKE_SRC)) :=
  congrArg Host.Outcome.next (if_pos ⟨hp, rfl⟩)

section Rails
variable (k : Fin 6) (hp : s.get RST_STATUS.PHASE = 3)
include hp

/-- A step before the last enables the next rail and awaits its good input. -/
theorem exec_railGood_enablesNext (hs : s.pw.railStep = some k.val) (hk : k.val < 5) :
    exec (.railGood k true) s = .next
      (((s.put KP_STATUS.PG_NOW (s.get KP_STATUS.PG_NOW ||| 2 ^ k.val)).put KP_STATUS.EN_NOW
        (s.get KP_STATUS.EN_NOW ||| 2 ^ (k.val + 1))).setPw fun p => { p with railStep := some (k.val + 1) }) := by
  have hfmt : ¬ (k.val = 0 ∧ (!true) = true) := by simp
  have henNow : (s.put KP_STATUS.PG_NOW (s.get KP_STATUS.PG_NOW ||| 2 ^ k.val)).get KP_STATUS.EN_NOW =
      s.get KP_STATUS.EN_NOW :=
    s.put_get_of_apart (.inr (.inr (by decide))) _
  show execRailGood k true s = _
  simp only [execRailGood, if_pos (And.intro hp hs), if_neg hfmt, if_neg (Nat.ne_of_lt hk), henNow]

theorem exec_railTimeout (hs : s.pw.railStep = some k.val) : exec (.railTimeout k) s = .next (s.railFail k.val) :=
  congrArg Host.Outcome.next (if_pos ⟨hp, hs⟩)

theorem exec_railRetry (hn : s.pw.railStep = none) (ht : s.get KP_STATUS.RAIL_TRIES < 3) :
    exec .railRetry s = .next s.railsStart :=
  congrArg Host.Outcome.next (if_pos ⟨hp, hn, ht⟩)

end Rails
end Power

/-- Settles O27, one lemma for each command; the lemmas of the Keep hold stand with O53, and those of `HVIN` are their
definitions. The path states and the VCORE change that a hold stops are notes/assumptions/39.md, the trigger taken at its start
and `KL_LOST_NOW` cleared at its end 47.md, the source and kind of its log entries 37.md, and the first custody warm reset
forgotten with `ESCALATED` 105.md. -/
theorem supplyAndRailCommands : Obligations.SupplyAndRailCommands :=
  ⟨fun _ => rfl, fun _ => rfl, fun _ _ => rfl,
    exec_keepSleepEntry,
    fun path w s => exec_keepSleepWrite s path w,
    fun src s => exec_wakeEvent s src,
    exec_wakeHvinSample_good,
    fun k s => exec_railGood_enablesNext s k,
    fun k s => exec_railTimeout s k,
    exec_railRetry,
    exec_keepHoldEnter, exec_klLost, exec_keepHoldLeave, exec_custodyLimit, exec_custodyEscalation⟩

end Sys2Proof.Machine
end

section
/-! The spine ports: training and what a slot carries (R54 to R101, R111), and the lane-level Detour (R85 to R97, R137, R145). -/

namespace Sys2Proof.Machine

/-! ### Training (R54, R73 to R77) -/

section Training
variable (p : Port)

/-- What the received FCK shows stands apart from the port's state and rate. -/
theorem State.fckSeen_get (rate : Nat) (s : State) {f : Fld} (hf : f.addr = SP_STATE p) :
    ((s.put (SP_FCK.RX_LOCK p) 1).put (SP_FCK.RX_RATE p) rate).get f = s.get f := by
  have ha : f.addr ≠ SP_FCK p := by rw [hf, SP_STATE, SP_FCK]; omega
  rw [State.put_get_of_apart _ (.inl ha), State.put_get_of_apart _ (.inl ha)]

theorem exec_fckLoss (s : State) (hd : s.spState p ≠ stDisabled) (hh : s.spState p ≠ stHoldoff) (ht : s.spState p ≠ stTest) :
    exec (.fckLoss p) s = .next ((((s.raise (SP_EVENT.FCK_LOSS p)).inc (SP_FCK.LOSS_CNT p)).put (SP_FCK.RX_LOCK p)
      0).enterState p stDetect) :=
  congrArg Host.Outcome.next (if_neg (by simp [hd, hh, ht]))

theorem exec_fckLocked (rate : Fin 3) (s : State) (hs : s.spState p = stDetect) (hr : rate.val = s.get (SP_STATE.RATE p)) :
    exec (.fckLocked p rate) s =
      .next (((s.put (SP_FCK.RX_LOCK p) 1).put (SP_FCK.RX_RATE p) rate).enterState p stLock) := by
  have hst := (State.fckSeen_get p rate s (f := SP_STATE.STATE p) rfl).trans hs
  have hrate := (State.fckSeen_get p rate s (f := SP_STATE.RATE p) rfl).trans hr.symm
  show execFckLocked p rate s = _
  simp only [execFckLocked, State.spState, hst, hrate, bne_self_eq_false, Bool.false_eq_true, if_true, if_false]

theorem exec_lanesLocked (good : BitVec 5) (fast : Bool) (s : State) (hs : s.spState p = stLock)
    (hg : 4 ≤ popCount good.toNat 5) :
    exec (.lanesLocked p good fast) s = .next (((s.each (bitList good.toNat 5) fun k s => s.put (LN_RX_STAT.LOCK p k)
      1).setPort p fun x => { x with partFast := fast }).enterState p (if (s.port p).fast && fast then stCheck
      else stEqualize)) :=
  congrArg Host.Outcome.next ((if_neg (by simp [hs, hg])).trans (apply_ite (State.enterState _ p) _ _ _).symm)

theorem exec_equalizeDone (pperm : BitVec 5) (s : State) (hs : s.spState p = stEqualize)
    (hr : ((List.range 5).all fun k => (s.lane p k).rxReady && (s.lane p k).partReady) = true) :
    exec (.equalizeDone p pperm) s = .next (s.enterAlign p (bitList pperm.toNat 5)) :=
  congrArg Host.Outcome.next (if_pos (by rw [hs, hr]; rfl))

theorem exec_alignDone (s : State) (hs : s.spState p = stAlign) (ha : s.alignedTwice p = true)
    (hl : (s.rxLanes p roleActive).length = 4) : exec (.alignDone p) s = .next (s.enterState p stCaps) :=
  congrArg Host.Outcome.next (if_pos (by rw [hs, ha, hl]; rfl))

theorem exec_trainingTimeout_rateDown (rxClean txClean pperm : BitVec 5) (s : State)
    (hs : s.spState p = stLock ∨ s.spState p = stAlign ∨ s.spState p = stCaps) :
    exec (.trainingTimeout p rxClean txClean pperm) s = .next (s.rateDown p) :=
  congrArg Host.Outcome.next (if_pos hs)

theorem exec_holdoffExpiry (s : State) (hs : s.spState p = stHoldoff) :
    exec (.holdoffExpiry p) s = .next ((s.put (SP_STATE.RATE p) (s.startRate p)).enterState p stDetect) :=
  congrArg Host.Outcome.next (if_pos (by rw [hs]; rfl))

end Training

/-! ### Training blocks and tap requests (R55, R56, R70, R71, R83) -/

section Blocks
variable (p : Port)

section Received
variable (w : LaneNo) (b : BitVec 160) (margin : Fin 64) (ask : Option (Fin 4 × Fin 3 × Fin 8))

theorem exec_trainingBlockRx_good (n : Nat) (inv : Bool) (s : State) (hb : readBlock b = some (n, inv))
    (hl : bits n 123 121 ≤ 4) :
    exec (.trainingBlockRx p w b margin ask) s =
      .next ((s.learn p w (bits n 123 121)).takeBlock p (bits n 123 121) n inv margin ask) := by
  show execTrainingBlockRx p w b margin ask s = _
  simp only [execTrainingBlockRx, hb, if_neg (Nat.not_lt.2 hl)]

theorem exec_trainingBlockRx_bad (s : State) (hb : readBlock b = none) :
    exec (.trainingBlockRx p w b margin ask) s =
      .next ((s.setLane p (s.rxLane p w) fun l => { l with goodBlocks := 0 }).spareErrs p (s.rxLane p w) 1) := by
  show execTrainingBlockRx p w b margin ask s = _
  simp only [execTrainingBlockRx, hb]

end Received

theorem exec_tapRequestTimeout_repeats (k : LaneNo) (s : State) (ho : (s.lane p k).reqOut = true)
    (hr : (s.lane p k).reqReps < 16) :
    exec (.tapRequestTimeout p k) s = .next (s.setLane p k fun l => { l with reqReps := l.reqReps + 1 }) :=
  congrArg Host.Outcome.next ((if_neg (by simp [ho])).trans (if_pos hr))

end Blocks

/-! ### What a slot carries (R60, R67, R98, R111, R529) -/

section Slots
variable (p : Nat) (bad : Bool) (s : State)

theorem State.txSlot_test (hs : s.spState p = stTest) :
    s.txSlot p bad = s.sendLanes p none
      (((List.range 5).filter fun k => s.on (LN_PRBS.GEN_EN p k)).map fun k => (k, LaneSend.test 160)) := by
  simp only [State.txSlot, hs, if_neg (show ¬ (stTest = stDisabled ∨ stTest = stHoldoff) by decide),
    if_neg (show ¬ stTest ≤ stCheck by decide), if_true]

/-- The states of training before frames are striped are those from DETECT to CHECK. -/
theorem State.txSlot_train
    (hs : s.spState p = stDetect ∨ s.spState p = stLock ∨ s.spState p = stEqualize ∨ s.spState p = stCheck) :
    s.txSlot p bad = s.trainSlot p := by
  have hoff : ¬ (s.spState p = stDisabled ∨ s.spState p = stHoldoff) := by
    obtain h | h | h | h := hs <;> rw [h] <;> decide
  have hle : s.spState p ≤ stCheck := by
    obtain h | h | h | h := hs <;> rw [h] <;> decide
  simp only [State.txSlot, if_neg hoff, if_pos hle]

/-- A slot in ACTIVE with no pause of a swap: a replay that meets a bad word is given up, else a marker or a frame goes out. -/
theorem State.txSlot_active (hs : s.spState p = stActive) (hp : (s.port p).pauseLane = none) :
    s.txSlot p bad = if bad && s.replayDue p then (s.replayEccLoss p).trainSlot p
      else (if (s.port p).slotIx % 16384 = 0 then s.markerSlot p else s.frameSlot p).setPort p fun x =>
        { x with slotIx := ((s.port p).slotIx + 1) % 16384 } := by
  simp only [State.txSlot, hs, hp, if_neg (show ¬ (stActive = stDisabled ∨ stActive = stHoldoff) by decide),
    if_neg (show ¬ stActive ≤ stCheck by decide), if_neg (show stActive ≠ stTest by decide),
    if_neg (show stActive ≠ stAlign by decide), Option.isSome_none, Bool.false_and, Bool.false_eq_true, if_false]

end Slots

theorem exec_txSlot_active_frame (p : Port) (s : State) (hs : s.spState p = stActive) (hp : (s.port p).pauseLane = none)
    (hi : (s.port p).slotIx % 16384 ≠ 0) :
    exec (.txSlot ⟨p, false⟩) s = .next ((s.frameSlot p).setPort p fun x =>
      { x with slotIx := ((s.port p).slotIx + 1) % 16384 }) := by
  show Host.Outcome.next (s.txSlot p false) = _
  simp only [s.txSlot_active p false hs hp, Bool.false_and, Bool.false_eq_true, if_false, if_neg hi]

theorem exec_txSlot_active_replayEccLoss (p : Port) (s : State) (hs : s.spState p = stActive)
    (hp : (s.port p).pauseLane = none) (hr : s.replayDue p = true) :
    exec (.txSlot ⟨p, true⟩) s = .next ((s.replayEccLoss p).trainSlot p) :=
  congrArg Host.Outcome.next ((s.txSlot_active p true hs hp).trans (if_pos (by rw [hr]; rfl)))

/-- Settles O33, one lemma for each event and timer that the state decides on; test, retrain, injection and the checkers are their
definitions. That a TEST lane with `GEN_EN` 0 sends nothing and that a failing replay's slot carries training blocks is
notes/assumptions/97.md. -/
theorem spineTrainingCommands : Obligations.SpineTrainingCommands :=
  ⟨exec_fckLoss, exec_fckLocked, exec_lanesLocked, exec_equalizeDone, exec_alignDone, exec_trainingTimeout_rateDown,
    exec_holdoffExpiry, exec_trainingBlockRx_good, exec_trainingBlockRx_bad, exec_tapRequestTimeout_repeats,
    fun _ _ => rfl, -- TEST_ENTER
    fun _ _ => rfl, -- TEST_EXIT
    fun _ _ => rfl, -- RETRAIN
    fun _ _ _ => rfl, -- INJ_GO
    fun _ _ _ _ _ => rfl, -- PRBS_CHECKER_LOCK
    fun p bad s hs => congrArg Host.Outcome.next (s.txSlot_test p bad hs),
    fun p bad s hs => congrArg Host.Outcome.next (s.txSlot_train p bad hs),
    exec_txSlot_active_frame, exec_txSlot_active_replayEccLoss⟩

/-! ### The lane-level Detour (R85 to R97) and the width of the link (R143 to R147) -/

section Detour
variable (p : Port)

section Marker
variable (w : LaneNo) (m : BitVec 160) (rxBip : BitVec 8) (margin : Fin 64) (arrival pauseNs : BitVec 16)

/-- A good marker shows the lane of its wire before the interval is taken. -/
theorem exec_amReceive_good (n : Nat) (s : State) (hs : s.spState p = stAlign ∨ s.spState p = stCaps ∨ s.spState p = stActive)
    (hm : readMarker m = some n) (hl : bits n 111 109 ≤ 4) :
    exec (.amReceive p w m rxBip margin arrival pauseNs) s =
      .next ((s.learn p w (bits n 111 109)).takeInterval p ((s.learn p w (bits n 111 109)).rxLane p w) (some n) rxBip
        margin arrival.toNat pauseNs.toNat) := by
  show execAmReceive p w m rxBip margin arrival pauseNs s = _
  simp only [execAmReceive, hm, if_pos hl, if_pos hs]

theorem exec_amReceive_bad (s : State) (hs : s.spState p = stAlign ∨ s.spState p = stCaps ∨ s.spState p = stActive)
    (hm : readMarker m = none) :
    exec (.amReceive p w m rxBip margin arrival pauseNs) s =
      .next (s.takeInterval p (s.rxLane p w) none rxBip margin arrival.toNat pauseNs.toNat) := by
  show execAmReceive p w m rxBip margin arrival pauseNs s = _
  simp only [execAmReceive, hm, if_pos hs]

end Marker

section Active
variable (k : LaneNo) (s : State) (hs : s.spState p = stActive)
include hs

theorem exec_swapRequestRx : exec (.swapRequestRx p k) s = .next (s.swapRequest p k) :=
  congrArg Host.Outcome.next (if_pos (by rw [hs]; rfl))

theorem exec_swapBlockRx : exec (.swapBlockRx p k) s = .next (s.swapBlock p k) :=
  congrArg Host.Outcome.next (if_pos (by rw [hs]; rfl))

theorem exec_readmitRequestRx : exec (.readmitRequestRx p k) s = .next (s.readmitRequest p k) :=
  congrArg Host.Outcome.next (if_pos (by rw [hs]; rfl))

theorem exec_narrowRx_first (hn : (s.port p).narrowTo = none) :
    exec (.narrowRx p k) s = .next (s.oweNarrow p k s.tm.tick) :=
  congrArg Host.Outcome.next ((if_neg (by simp [hs])).trans (if_neg (by simp [hn])))

theorem exec_narrowRx_waits (hn : (s.port p).narrowTo.isSome = true) :
    exec (.narrowRx p k) s =
      .next (s.setPort p fun x => { x with narrowNext := x.narrowNext ++ [(k.val, s.tm.tick)] }) :=
  congrArg Host.Outcome.next ((if_neg (by simp [hs])).trans (if_pos hn))

end Active

theorem exec_widthChange (keep : List Nat) (spare : Option Nat) (s : State)
    (hn : (s.port p).narrowTo = some (keep, spare)) : exec (.widthChange p) s = .next (s.changeWidth p keep spare) := by
  show execWidthChange p s = _
  simp only [execWidthChange, hn]

end Detour

/-- Settles O34, one lemma for each command that the state decides on; the end of a pause and the commands written to the port are
their definitions. That a NARROW given while a change is owed waits behind it is notes/assumptions/98.md. -/
theorem spineLaneDetourCommands : Obligations.SpineLaneDetourCommands :=
  ⟨exec_amReceive_good, exec_amReceive_bad, exec_swapRequestRx, exec_swapBlockRx,
    fun _ _ => rfl, -- SWAP_PAUSE_END
    exec_readmitRequestRx,
    fun _ _ => rfl, -- READMIT
    fun _ _ _ => rfl, -- FORCE
    fun _ _ _ => rfl, -- CLEAR
    exec_narrowRx_first, exec_narrowRx_waits, exec_widthChange⟩

end Sys2Proof.Machine
end

section
/-! The spine link: its frames (R105 to R130, R329, R330), and identity and liveness (R131 to R142). -/

namespace Sys2Proof.Machine

/-! ### Frames of the link in ACTIVE (R113 to R124, R329, R330) -/

section Link
variable (p : Port) (s : State)

section Active
variable (hs : s.spState p = stActive)
include hs

/-- A trailer taken to be good by its fields and its number goes to the acknowledgement and sequence rules. -/
theorem exec_ackOnlyFrameRx_good (seq ack : BitVec 12) (ackv retry ecc : Bool)
    (hm : ({ seq := seq.toNat, ack := ack.toNat, ftype := 3, ackv := ackv, retry := retry, idle := true } :
      Trailer).malformed = false)
    (hd : seqDistance seq.toNat (s.get (LK_SEQ_RX.EXPECTED p)) ≠ 2048) :
    exec (.ackOnlyFrameRx p seq ack ackv retry ecc) s = .next (s.goodFrame p
      { seq := seq.toNat, ack := ack.toNat, ftype := 3, ackv := ackv, retry := retry, idle := true } [] ecc) := by
  have hc : (s.spState p == stCaps) = false := by rw [hs]; rfl
  have hb : ¬ (s.spState p != stActive) = true := by simp [hs]
  show execAckOnlyFrameRx p seq ack ackv retry ecc s = _
  simp only [execAckOnlyFrameRx, hc, State.when_false, if_neg hb, hm, Bool.false_or, beq_iff_eq, if_neg hd]

theorem exec_ackTimeout_replays (hr : (s.link p).replay ≠ []) (hp : (s.port p).pauseLane = none) :
    exec (.ackTimeout p false) s = .next ((s.inc (LK_REPLAY.TMO p)).startReplay p 0 none) :=
  congrArg Host.Outcome.next (if_neg (by simp [hs, hr, hp]))

theorem exec_creditFrameDue : exec (.creditFrameDue p) s = .next (s.setLink p fun l => { l with creditDue := true }) :=
  congrArg Host.Outcome.next (if_pos (by rw [hs]; rfl))

theorem exec_creditFrameRx (ret : BitVec 128) :
    exec (.creditFrameRx p ret) s = .next (s.each (List.range 8) fun c s =>
      s.takeReturned p c (bits ret.toNat (16 * c + 15) (16 * c))) :=
  congrArg Host.Outcome.next (if_pos (by rw [hs]; rfl))

theorem exec_linkDelayRequestRx (id : BitVec 16) (ta arrived : Stamp) :
    exec (.linkDelayRequestRx p id ta arrived) s = .next (s.setLink p fun l =>
      { l with delay := l.delay ++ [{ slot := delaySlot 2 id.toNat (Stamp.bytes ta) (Stamp.bytes arrived) }] }) :=
  congrArg Host.Outcome.next (if_pos (by rw [hs]; rfl))

/-- The first measurement of a link has no mean to lie far from: it is accepted alone. -/
theorem exec_linkDelayResponseRx_first (id : BitVec 16) (ta tb tc arrived : Stamp) (hi : id.toNat = (s.link p).delayId)
    (hd : (s.link p).delays = []) :
    exec (.linkDelayResponseRx p id ta tb tc arrived) s =
      .next (s.acceptDelay p [((stampUnits tb - stampUnits ta) + (stampUnits arrived - stampUnits tc)) / 2]) := by
  have hmine : ¬ (s.spState p != stActive || id.toNat != (s.link p).delayId) = true := by simp [hs, hi]
  show execLinkDelayResponseRx p id ta tb tc arrived s = _
  simp only [execLinkDelayResponseRx, if_neg hmine, hd, true_or, if_true, List.take_succ_cons, List.take_nil]

end Active

theorem exec_ackUpdateDue (h : (s.link p).accepted ≠ 0) : exec (.ackUpdateDue p) s = .next (s.updateAck p) :=
  congrArg Host.Outcome.next (if_neg h)

theorem exec_retryReqExpiry (h : (s.link p).nakOwed = false) :
    exec (.retryReqExpiry p) s = .next (s.setLink p fun l => { l with nakOut := false }) :=
  congrArg Host.Outcome.next (if_neg (by simp [h]))

theorem exec_seqStateExpiry (hs : s.spState p ≠ stActive) : exec (.seqStateExpiry p) s = .next (s.dropSeq p) :=
  congrArg Host.Outcome.next (if_neg (by simp [hs]))

theorem exec_capabilityRecordRx_caps (slot : List Byte) (hs : s.spState p = stCaps) :
    exec (.capabilityRecordRx p slot) s = .next (s.agreeCaps p (CapRec.ofSlot (padTo 72 slot))) :=
  congrArg Host.Outcome.next (if_pos (by rw [hs]; rfl))

end Link

/-- Settles O35, one lemma for each command that the state decides on; a frame's 80 bytes and a silent link are their definitions.
That half of the sum of both ways (R329) loses its remainder is notes/assumptions/11.md. -/
theorem spineLinkFrameCommands : Obligations.SpineLinkFrameCommands :=
  ⟨fun _ _ _ _ => rfl, -- DATA_FRAME_RX
    fun p seq ack ackv retry ecc s hs => exec_ackOnlyFrameRx_good p s hs seq ack ackv retry ecc,
    exec_ackUpdateDue, exec_retryReqExpiry, exec_ackTimeout_replays,
    fun _ _ => rfl, -- LINK_SILENCE
    exec_seqStateExpiry, exec_creditFrameDue,
    fun p ret s hs => exec_creditFrameRx p s hs ret,
    fun p slot s => exec_capabilityRecordRx_caps p s slot,
    fun p id ta arrived s hs => exec_linkDelayRequestRx p s hs id ta arrived,
    fun p id ta tb tc arrived s hs => exec_linkDelayResponseRx_first p s hs id ta tb tc arrived⟩

/-! ### Identity and liveness in ACTIVE (R131 to R142) -/

section Identity
variable (p : Port) (s : State) (hs : s.spState p = stActive)
include hs

theorem exec_helloRx (h : Ident) (port deadN : Byte) (period : BitVec 16) :
    exec (.helloRx p h port deadN period) s =
      .next ((s.takeHello p h period.toNat).judgeHello p (s.helloFresh p h)) :=
  congrArg Host.Outcome.next (if_neg (by simp [hs]))

section Beacon
variable (h : Ident) (msSec : BitVec 48) (msNs : BitVec 32)

theorem exec_beaconRx_unnamed (hv : h.idv = false) :
    exec (.beaconRx p h msSec msNs) s =
      .next ((s.put (LK_BEACON.MISS p) 0).setLink p fun l => { l with beacon := true }) := by
  show execBeaconRx p h msSec msNs s = _
  simp [execBeaconRx, hs, hv]

/-- A named partner is judged; the port opens again for it from DEAD alone. -/
theorem exec_beaconRx_notDead (t : State) (hv : h.idv = true)
    (ht : (((s.put (LK_BEACON.MISS p) 0).setLink p fun l => { l with beacon := true }).fenceIfStale p h.id h.inc.toNat
      h.serial.toNat).answerOlder p h.id h.inc.toNat h.serial.toNat = t) (hl : t.lState p ≠ lkDead) :
    exec (.beaconRx p h msSec msNs) s = .next t := by
  show execBeaconRx p h msSec msNs s = _
  simp [execBeaconRx, hs, hv, ht, hl]

end Beacon

section Incarnation
variable (roleId : Fin 2048) (roleInc : BitVec 16) (roleSerial : BitVec 64)

/-- A role that the table has no entry for is new, whatever its incarnation. -/
theorem exec_incarnationRx_newRole (vacated : Option (Fin 2048)) (hops : Byte) (ho : s.lState p = lkOpen) (hh : hops ≠ 0)
    (he : s.incEntry roleId = none) :
    exec (.incarnationRx p roleId roleInc roleSerial vacated hops) s = .next (s.takeInc p
      { roleId := roleId, roleInc := roleInc.toNat, roleSerial := roleSerial.toNat, vacated := vacated.map (·.val),
        hops := hops.toNat - 1 }) :=
  congrArg Host.Outcome.next ((if_neg (by simp [hs])).trans ((if_neg hh).trans (if_neg (by simp [ho, he]))))

theorem exec_directedIncarnationRx :
    exec (.directedIncarnationRx p roleId roleInc roleSerial) s =
      .next (s.adoptDirected p roleId roleInc.toNat roleSerial.toNat) :=
  congrArg Host.Outcome.next (if_pos (by rw [hs]; rfl))

end Incarnation
end Identity

/-- Settles O36, one lemma for each command; the lemma of REJOIN stands with O49. -/
theorem spineIdentityCommands : Obligations.SpineIdentityCommands :=
  ⟨fun p h port deadN period s hs => exec_helloRx p s hs h port deadN period,
    fun p h msSec msNs s hs => exec_beaconRx_unnamed p s hs h msSec msNs,
    fun p h msSec msNs s hs hv => exec_beaconRx_notDead p s hs h msSec msNs _ hv rfl,
    fun p roleId roleInc roleSerial vacated hops s hs =>
      exec_incarnationRx_newRole p s hs roleId roleInc roleSerial vacated hops,
    fun p roleId roleInc roleSerial s hs => exec_directedIncarnationRx p s hs roleId roleInc roleSerial,
    fun p takeId minInc roleId roleInc s => exec_rejoinRx s p takeId minInc roleId roleInc⟩

end Sys2Proof.Machine
end

section
/-! The Junction (R148, R161 to R164, R177, R179) and the Sheet walkers of local outputs (R195, R196). -/

namespace Sys2Proof.Machine

/-! ### Held cells, failed members and drains (R148, R161, R177) -/

section Junction
variable (s : State)

theorem exec_heldCellAccept_oldest (i : JPort) (c : Cell) (rest : List Cell) (s' : State)
    (hq : tget [] i s.jn.held = c :: rest) (hc : s.tryShaped i c = some s') :
    exec (.heldCellAccept i) s = .next (s'.setJn fun j => { j with held := tput [] i rest j.held }) := by
  show execHeldCellAccept i s = _
  simp only [execHeldCellAccept, hq, hc]

theorem exec_memberFail (p : Port) (hd : (s.link p).failDue = true) (hf : s.mpFailed p = false) :
    exec (.memberFail p) s = .next (s.failMember p) :=
  congrArg Host.Outcome.next (if_pos (by simp [hd, hf]))

theorem exec_drainEnd_drained (p : Port) (hq : (s.jn.drainQ.filter fun e => e.1 == p.val && e.2.1) = []) :
    exec (.drainEnd p) s = .next (s.put JN_STATUS.DRAINING (s.get JN_STATUS.DRAINING &&& (0xF - 2 ^ p.val))) :=
  congrArg Host.Outcome.next (if_pos hq)

end Junction

/-! ### The walker of a local output (R195, R196, R299) -/

section Walker
variable (s : State)

/-- No output but 9 looks at the tunnel: the bridge's reserved tunnels end there alone (R299). -/
theorem State.localTaken_some {o : Nat} (ho : o ≠ 9) (c : Cell) :
    s.localTaken o (some c) =
      (s.setJn fun j => { j with fifo := tput [] o (tget [] o j.fifo ++ [c]) j.fifo }).advance o :=
  if_neg fun h => ho h.1

variable (o : Fin 9)

theorem exec_localWalkerSlot_copy (c : Cell) (s' : State) (hk : s.pick (o + 4) = .copy)
    (ht : s.takePick (o + 4) .copy = (some c, s')) (hn : (tget [] (o + 4) s.jn.fifo).length ≤ 32) (ho : o.val ≠ 5) :
    exec (.localWalkerSlot o) s = .next ((s'.setJn fun j =>
      { j with fifo := tput [] (o.val + 4) (tget [] (o.val + 4) j.fifo ++ [c]) j.fifo }).advance (o + 4)) := by
  have h9 : o.val + 4 ≠ 9 := by omega
  show execLocalWalkerSlot o s = _
  simp only [execLocalWalkerSlot, hk, if_pos hn, State.giveLocal, ht, State.localTaken_some _ h9]

theorem exec_localWalkerSlot_owned (c : Nat) (hk : s.pick (o + 4) = .cls c false)
    (hn : (tget [] (o + 4) s.jn.fifo).length < 64) :
    exec (.localWalkerSlot o) s = .next (s.giveLocal (o + 4) (.cls c false)) := by
  show execLocalWalkerSlot o s = _
  simp only [execLocalWalkerSlot, hk, if_pos hn]

theorem exec_localWalkerSlot_nothing (hk : s.pick (o + 4) = .nothing) :
    exec (.localWalkerSlot o) s = .next (s.advance (o + 4)) := by
  show execLocalWalkerSlot o s = _
  simp only [execLocalWalkerSlot, hk]

end Walker

/-- Settles O37, one lemma for each command that the state decides on; the arrival of a given cell, the three iterations of the
match and the end of a hold are their definitions. In which order J15's cells take their turn is notes/assumptions/29.md, and how
it takes one in again 104.md. -/
theorem junctionCommands : Obligations.JunctionCommands :=
  ⟨fun _ _ _ => rfl, -- CELL_ARRIVAL
    fun i c rest s s' => exec_heldCellAccept_oldest s i c rest s',
    fun _ _ => rfl, -- MATCH_CYCLE
    fun p s => exec_memberFail s p,
    fun p s => exec_drainEnd_drained s p,
    fun _ _ => rfl, -- MP_HOLD_EXPIRY
    fun o c s s' => exec_localWalkerSlot_copy s o c s',
    fun o c s => exec_localWalkerSlot_owned s o c,
    fun o s => exec_localWalkerSlot_nothing s o⟩

end Sys2Proof.Machine
end

section
/-! Imposition: flips and copies of Sheet banks (R192, R193), what ends with an admission (R207, R210), and the request ring
(R206, R208, R211, R219). -/

namespace Sys2Proof.Machine

section Imposition
variable (s : State)

/-! ### Sheet banks (R192, R193) -/

section Banks
variable (o : Fin 13)

theorem exec_sheetFlip_due {e : Nat × Bool} (h : (s.imp.flipDue.find? fun e => e.1 == o.val) = some e) :
    exec (.sheetFlip o) s =
      .next ((s.setImp fun x => { x with flipDue := x.flipDue.filter (·.1 != o.val) }).flip o e.2) := by
  show execSheetFlip o s = _
  simp only [execSheetFlip, h]

theorem exec_bankCopyDone_busy (h : s.on (IMP_PORT_CTL.COPY_BUSY o) = true) :
    exec (.bankCopyDone o) s = .next
      ((((s.copyBank o).put (IMP_PORT_CTL.COPY_BUSY o) 0).setImp fun x =>
        { x with stalled := x.stalled.filter (·.1 != o.val) }).each (s.imp.stalled.filter (·.1 == o.val))
          fun (o, i, w) s => s.writeSheet o (1 - s.get (IMP_PORT_CTL.BANK o)) i w) :=
  if_neg (by simp [h])

end Banks

/-! ### Admission without an answer (R207, R210) -/

theorem exec_admissionTimeout_waiting (r : Fin 4096) {w : AdmWait}
    (h : s.imp.waiting.find? (·.slot == r.val) = some w) :
    exec (.admissionTimeout r) s = .next ((s.abandon w).answerRing w.ring admRefuse 9) := by
  show execAdmissionTimeout r s = _
  simp only [execAdmissionTimeout, h]

/-! ### The request ring (R206) -/

section Ring
variable {i : Nat} {m : AdmMsg}

theorem exec_ringAdmit_taken (ht : s.ringTake admAdmit = some (i, m)) :
    exec .ringAdmit s = .next (s.ringNext.startAdmission (admRequest m true 0 (some i)) m) := by
  show execRingAdmit s = _
  simp only [execRingAdmit, ht]

variable {r : Nat} (hr : s.findRec m.key.toNat = some r)
include hr

theorem exec_ringRelease_recorded (ht : s.ringTake admRelease = some (i, m)) :
    exec .ringRelease s = .next (((s.ringNext.sendOn admRelease m).releaseRec r).answerRing (some i) admGrant 0) := by
  show execRingRelease s = _
  simp only [execRingRelease, ht, hr]

theorem exec_ringGive_recorded (ht : s.ringTake admGive = some (i, m)) :
    exec .ringGive s = .next ((s.ringNext.onGive m).answerRing (some i) admGrant 0) := by
  show execRingGive s = _
  simp only [execRingGive, ht, hr]

end Ring
end Imposition

/-- Settles O38, one lemma for each command that the state decides on. A write and a seal of a bank, the messages between hubs and
the end of the admission window are their definitions: `State.admRx` alone decides whether a message is handled or put off. -/
theorem impositionCommands : Obligations.ImpositionCommands :=
  ⟨fun _ _ _ _ _ => rfl, -- SHEET_BANK_WRITE
    fun _ _ => rfl, -- SEAL
    fun o _ s => exec_sheetFlip_due s o,
    fun o s => exec_bankCopyDone_busy s o,
    fun _ _ _ => rfl, -- ADMIT_RX
    fun _ _ _ => rfl, -- GRANT_RX
    fun _ _ _ => rfl, -- REFUSE_RX
    fun _ _ _ => rfl, -- RELEASE_RX
    fun _ _ _ => rfl, -- REVOKE_RX
    fun _ _ _ => rfl, -- GIVE_RX
    fun _ _ _ => rfl, -- GIVEN_RX
    fun r _ s => exec_admissionTimeout_waiting s r,
    fun _ => rfl, -- ADMISSION_WINDOW_END
    fun _ _ s => exec_ringAdmit_taken s,
    fun _ _ _ s ht hr => exec_ringRelease_recorded s hr ht,
    fun _ _ _ s ht hr => exec_ringGive_recorded s hr ht⟩

end Sys2Proof.Machine
end

section
/-! The display tunnels: the capture's commands (R223, R232, R234, R245 to R254) and the Platen's (R237 to R243, R251, R253). -/

namespace Sys2Proof.Machine

/-! ### The capture (R223, R232, R234, R245, R247, R249, R252, R254) -/

section Capture
variable (d : Fin 2) (s : State)

section Running
variable (hc : s.capOn d.val = true)
include hc

/-- A frame of the expected mode opens with its source measured, the floors following it and no line kept. -/
theorem exec_captureFrameStart_expected (w h vnom : BitVec 12) (bpc : Fin 3) (lrate : BitVec 20) (crc : BitVec 32)
    (sdps : BitVec 8) (hm : s.modeDiffers d.val w.toNat h.toNat bpc.val = false) :
    exec (.captureFrameStart d w h vnom bpc lrate crc sdps) s = .next
      (((((((s.addSat (DA_CAP_CNT.SDP_DROP d.val) sdps.toNat).put (DA_CAP_MEAS.M_W d.val) w.toNat).put
        (DA_CAP_MEAS.M_BPC d.val) bpc.val).measure d.val w.toNat vnom.toNat lrate.toNat).writeFloors d.val).setDisp d.val
          fun x => { x with kept := [] }).goodSource d.val crc) :=
  (if_neg (by simp [hc])).trans (if_neg (by simp [hm]))

theorem exec_captureLine_forwarded (line : BitVec 12) (px : List (BitVec 30))
    (hw : px.length = s.get (DA_CAP_EXP_H.EXP_W d.val)) (hm : (s.disp d.val).capMode = 1) :
    exec (.captureLine d line px) s = .next ((s.setDisp d.val fun x =>
      { x with kept := x.kept ++ [(line.toNat, px)] }).sendLine d.val line.toNat px) := by
  have htaken : ¬ ((!s.capOn d.val || px.length != s.get (DA_CAP_EXP_H.EXP_W d.val)) = true) := by simp [hc, hw]
  have hmode : (s.disp d.val).capMode ≠ 3 := by simp [hm]
  show execCaptureLine d line px s = _
  simp only [execCaptureLine, if_neg htaken, if_neg hmode, if_pos hm]

theorem exec_captureAuxRequest_nativeWrite (addr : BitVec 20) (lenM1 : Fin 16) (data : List Byte) :
    exec (.captureAuxRequest d true true addr lenM1 data) s = .next ((s.setDisp d.val fun x =>
      { x with dpcd := memWrite x.dpcd addr.toNat (data.take (lenM1.val + 1)) }).emit (.auxReply d.val [])) :=
  congrArg Host.Outcome.next (if_neg (by simp [hc]))

end Running

theorem exec_sourcePsrChange_notRepeated (on : Bool) (h : on = false ∨ s.on (DA_CFG.STATIC_MODE d.val) = false) :
    exec (.sourcePsrChange d on) s = .next (s.setDisp d.val fun x => { x with srcPsr := on }) := by
  refine congrArg Host.Outcome.next (if_pos ?_)
  obtain hon | hstatic := h
  · simp [hon]
  · simp [hstatic]

/-- With no source record there is nothing to shape: the message only opens the lending. -/
theorem exec_psrEnteredRx_noRecord (tunnel : BitVec 12) (ht : tunnel.toNat = s.get (DA_CAP_TUN.TUNNEL d.val))
    (hl : (s.disp d.val).lending = 0) (hr : s.capRec d.val = none) :
    exec (.psrEnteredRx d tunnel) s = .next ((s.takeFifo (4 + d.val) 0xFFF).setDisp d.val fun x =>
      { x with lending := 1 }) := by
  have hmine : ¬ (tunnel.toNat ≠ s.get (DA_CAP_TUN.TUNNEL d.val) ∨ (s.disp d.val).lending ≠ 0) := by simp [ht, hl]
  show execPsrEnteredRx d tunnel s = _
  simp only [execPsrEnteredRx, if_neg hmine, hr]

end Capture

/-- Settles O39, one lemma for each command that the state decides on; the change of the link and what the far end says of its
panel and of a lending's end are their definitions. That the packets dropped in a frame are counted in `SDP_DROP`
at the next frame's start is notes/assumptions/93.md, that the CRC of a frame comes as an operand 82.md. -/
theorem captureCommands : Obligations.CaptureCommands :=
  ⟨fun d w h vnom bpc lrate crc sdps s hc => exec_captureFrameStart_expected d s hc w h vnom bpc lrate crc sdps,
    fun d line px s hc => exec_captureLine_forwarded d s hc line px,
    fun d on s => exec_sourcePsrChange_notRepeated d s on,
    fun _ _ _ _ _ => rfl, -- CAPTURE_LINK_CHANGE
    fun d addr lenM1 data s hc => exec_captureAuxRequest_nativeWrite d s hc addr lenM1 data,
    fun d tunnel s => exec_psrEnteredRx_noRecord d s tunnel,
    fun _ _ _ => rfl, -- PSR_EXITED_RX
    fun _ _ _ => rfl, -- HPD_LOST_RX
    fun _ _ _ => rfl⟩ -- HPD_FOUND_RX

/-! ### The Platen (R223, R237, R239, R241, R243, R251, R253) -/

section Platen
variable (d : Fin 2) (s : State)

theorem exec_platenCellRx_lineStart (c : Cell) (hc : c.tc ≠ 7) (ht : c.tunnel = s.get (DA_PL_TUN.PL_TUNNEL d.val))
    (hs : plTrain < s.plState d.val) (hp : c.pos = 1) :
    exec (.platenCellRx d (some c)) s = .next (s.lineStart d.val c) := by
  have hcontrol : ¬ (c.tc = 7 ∧ c.tunnel = 0xFFF) := fun h => hc h.1
  have hforeign : ¬ (c.tunnel ≠ s.get (DA_PL_TUN.PL_TUNNEL d.val) ∨ s.plState d.val ≤ plTrain) := by
    simp [ht, Nat.not_le.2 hs]
  have hdesc : c.pos ≠ 3 := by simp [hp]
  show execPlatenCellRx d (some c) s = _
  simp only [execPlatenCellRx, if_neg hcontrol, if_neg hforeign, if_neg hdesc, if_pos hp]

/-! The slot of a line (R237, R239): the scan of the slot before ends, and the next line is the first of the blanking, an active
one or one more of the blanking. -/

/-- The state in which the next line slot looks at its line. -/
def State.nextSlot (s : State) (d : Nat) : State := (s.endScan d).setDisp d fun x => { x with slots := x.slots + 1 }

section LineSlot
variable (ranOut : Bool) (hs : s.plState d.val = plFreerun ∨ s.plState d.val = plRaster)
include hs

section Active
variable (hb : (s.endScan d.val).on (DA_PL_STATUS.IN_BLANK d.val) = false)
include hb

theorem exec_platenLineSlot_startsBlank
    (hl : (s.endScan d.val).get (DA_PL_V.PL_V_ACTIVE d.val) ≤ (s.endScan d.val).get (DA_PL_STATUS.PL_LINE d.val) + 1) :
    exec (.platenLineSlot d ranOut) s = .next ((s.nextSlot d.val).startBlank d.val) :=
  congrArg Host.Outcome.next ((if_neg (or_iff_not_and_not.1 hs)).trans ((if_neg (by simp [hb])).trans (if_pos hl)))

theorem exec_platenLineSlot_scansLine
    (hl : (s.endScan d.val).get (DA_PL_STATUS.PL_LINE d.val) + 1 < (s.endScan d.val).get (DA_PL_V.PL_V_ACTIVE d.val)) :
    exec (.platenLineSlot d ranOut) s = .next
      (((s.nextSlot d.val).put (DA_PL_STATUS.PL_LINE d.val) ((s.endScan d.val).get (DA_PL_STATUS.PL_LINE d.val) + 1)).scanLine
        d.val ((s.endScan d.val).get (DA_PL_STATUS.PL_LINE d.val) + 1) ranOut) :=
  congrArg Host.Outcome.next
    ((if_neg (or_iff_not_and_not.1 hs)).trans ((if_neg (by simp [hb])).trans (if_neg (Nat.not_le.2 hl))))

end Active

theorem exec_platenLineSlot_staysBlank (hb : (s.endScan d.val).on (DA_PL_STATUS.IN_BLANK d.val) = true)
    (hf : (s.nextSlot d.val).frameStarts d.val ((s.endScan d.val).get (DA_PL_STATUS.PL_LINE d.val) + 1) = none) :
    exec (.platenLineSlot d ranOut) s = .next
      ((s.nextSlot d.val).blankSlot d.val ((s.endScan d.val).get (DA_PL_STATUS.PL_LINE d.val) + 1)) := by
  rw [State.nextSlot] at hf ⊢
  show execPlatenLineSlot d ranOut s = _
  simp only [execPlatenLineSlot, if_neg (or_iff_not_and_not.1 hs), State.setDisp_get, State.setDisp_on, if_pos hb, hf]

end LineSlot

theorem exec_platenFreerun_raster (hs : s.plState d.val = plRaster) :
    exec (.platenFreerun d) s = .next (((s.endScan d.val).put (DA_PL_STATUS.PL_STATE d.val) plFreerun).setDisp d.val
      fun x => { x with synced := false, line0At := none, bg := true }) :=
  congrArg Host.Outcome.next (if_pos hs)

theorem exec_kaLost_psr (hs : s.plState d.val = plPsr) :
    exec (.kaLost d) s = .next (s.raise (DA_EVENT.KA_LOST d.val)) :=
  congrArg Host.Outcome.next (if_pos hs)

/-- A link trained to what the mode needs starts the raster free-running, in blanking. -/
theorem exec_platenTrainDone_enough (lanes : Fin 3) (rate : Fin 8) (hs : s.plState d.val = plTrain)
    (hm : s.mayTrain d.val lanes.val rate.val = true)
    (hn : s.get (DA_PL_CLK.PCLK_KHZ d.val) * 3000 * bpcOf (s.get (DA_CFG.OUT_BPC d.val)) ≤
      2 ^ lanes.val * dpRate rate.val * 800000) :
    exec (.platenTrainDone d true lanes rate) s =
      .next ((s.put (DA_PL_STATUS.PL_STATE d.val) plFreerun).enterBlank d.val) :=
  congrArg Host.Outcome.next ((if_neg (by simp [hs, hm])).trans ((if_pos rfl).trans (if_pos hn)))

theorem exec_auxDone_noData (result : Fin 4) (hb : s.on (DA_AUX_CTL.BUSY d.val) = true) :
    exec (.auxDone d result none) s =
      .next ((s.put (DA_AUX_CTL.BUSY d.val) 0).put (DA_AUX_CTL.RESULT d.val) result.val) :=
  congrArg Host.Outcome.next (if_neg (by simp [hb]))

/-! The hot-plug line of the panel (R253), read where the class has the adapter's Junction port. -/

section HotPlug
variable (hj : s.hasJ (4 + d.val) = true)
include hj

theorem exec_panelHpdIrq_present : exec (.panelHpdIrq d) s = .next (s.raise (DA_EVENT.HPD_IRQ d.val)) :=
  congrArg Host.Outcome.next (if_pos hj)

theorem exec_panelUnplug_present :
    exec (.panelUnplug d) s = .next ((((s.platenOff d.val).put (DA_PL_STATUS.HPD d.val) 0).raise
      (DA_EVENT.HPD_CHG d.val)).sendDmsg d.val 3) :=
  congrArg Host.Outcome.next (if_pos hj)

theorem exec_panelPlug_present :
    exec (.panelPlug d) s = .next ((((s.put (DA_PL_STATUS.HPD d.val) 1).raise (DA_EVENT.HPD_CHG d.val)).sendDmsg d.val
      4).platenTry d.val) :=
  congrArg Host.Outcome.next (if_pos hj)

end HotPlug
end Platen

/-- Settles O40, one lemma for each command that the state decides on; the start of an AUX transaction is its definition. -/
theorem platenCommands : Obligations.PlatenCommands :=
  ⟨fun d c s => exec_platenCellRx_lineStart d s c,
    fun d ranOut s => exec_platenLineSlot_startsBlank d s ranOut,
    fun d ranOut s => exec_platenLineSlot_scansLine d s ranOut,
    fun d ranOut s => exec_platenLineSlot_staysBlank d s ranOut,
    exec_platenFreerun_raster, exec_kaLost_psr,
    fun d lanes rate s => exec_platenTrainDone_enough d s lanes rate,
    exec_panelHpdIrq_present, exec_panelUnplug_present, exec_panelPlug_present,
    fun _ _ => rfl, -- AUX_GO
    fun d result s => exec_auxDone_noData d s result⟩

end Sys2Proof.Machine
end

section
/-! The storage tunnel: PDUs at the ends of a binding (R261 to R266, R268 to R276), and the PCIe link, `PERST#` and resets of the
adapter (R255, R258, R259, R263, R276). -/

namespace Sys2Proof.Machine

/-! ### PDUs at an end (R261 to R266, R268, R276) -/

section Pdu
variable (p : Pdu) (s : State) {n : Nat}

section Heard
variable (he : s.endOf p.tun.toNat = some n) (hb : s.bState n ≠ bsUnbound)
include he hb

/-- A good PDU at an end that is not unbound is heard and taken (R266). -/
theorem State.pduRx_good {want : Nat} (g : Nat → State → State) (hg : s.pduGood want p n = true) :
    s.pduRx want p g = g n (s.pduHeard p n) := by
  simp only [State.pduRx, he, if_neg hb, if_pos hg]

theorem exec_tlpPduRx_good (reqShort : Fin 4) (cplShort : Bool) (hg : s.pduGood 1 p n = true) :
    exec (.tlpPduRx p reqShort cplShort) s = .next ((s.pduHeard p n).tlpIn n p (shortKinds reqShort cplShort)) :=
  congrArg Host.Outcome.next (s.pduRx_good p he hb _ hg)

theorem exec_pduCreditRx_good (hg : s.pduGood 5 p n = true) :
    exec (.pduCreditRx p) s = .next (((s.pduHeard p n).creditIn n p).partnerDrain) :=
  congrArg Host.Outcome.next (s.pduRx_good p he hb _ hg)

theorem exec_keepalivePduRx_good (hg : s.pduGood 7 p n = true) :
    exec (.keepalivePduRx p) s = .next (s.pduHeard p n) :=
  congrArg Host.Outcome.next (s.pduRx_good p he hb _ hg)

end Heard

/-- Before BOUND a LINK only counts as heard. -/
theorem exec_linkPduRx_bound (he : s.endOf p.tun.toNat = some n) (hn : n < 8) (hb : bsBound ≤ s.bState n)
    (hg : s.pduGood 6 p n = true) :
    exec (.linkPduRx p) s = .next ((s.pduHeard p n).linkIn n (s.bState n) p) := by
  have hu : s.bState n ≠ bsUnbound := Nat.ne_of_gt (Nat.lt_of_lt_of_le (by decide) hb)
  have hport : ¬ (8 ≤ n ∨ s.bState n < bsBound) := not_or.2 ⟨Nat.not_le.2 hn, Nat.not_lt.2 hb⟩
  exact congrArg Host.Outcome.next ((s.pduRx_good p he hu _ hg).trans (if_neg hport))

/-! The answer to a request of a virtual port that does not wait for its next one (R261). -/

section Answer
variable (he : s.endOf p.tun.toNat = some n) (hb : s.bState n = bsRequested) (hn : n < 8) (hw : (s.bind n).wait = none)
include he hb hn hw

/-- An answer to the request goes to `g`. -/
theorem State.pduRx_answer {want : Nat} (g : Nat → State → State) (hg : s.pduGood want p n = true) :
    (s.pduRx want p fun n h => if 8 ≤ n ∨ s.bState n ≠ bsRequested ∨ (s.bind n).wait ≠ none then h else g n h) =
      g n (s.pduHeard p n) := by
  have hu : s.bState n ≠ bsUnbound := by rw [hb]; decide
  have hasked : ¬ (8 ≤ n ∨ s.bState n ≠ bsRequested ∨ (s.bind n).wait ≠ none) := by simp [hb, hw, Nat.not_le.2 hn]
  exact (s.pduRx_good p he hu _ hg).trans (if_neg hasked)

theorem exec_bindAckRx_asked (hg : s.pduGood 3 p n = true) :
    exec (.bindAckRx p) s = .next ((s.pduHeard p n).bindDone n p) :=
  congrArg Host.Outcome.next (s.pduRx_answer p he hb hn hw (fun n h => h.bindDone n p) hg)

theorem exec_bindRefuseRx_asked (hg : s.pduGood 4 p n = true) :
    exec (.bindRefuseRx p) s = .next ((s.pduHeard p n).bindRefused n) :=
  congrArg Host.Outcome.next (s.pduRx_answer p he hb hn hw (fun n h => h.bindRefused n) hg)

end Answer

/-! At the Downstream Binding adapter, end 8 (R262, R276). -/

section Drive
variable (he : s.endOf p.tun.toNat = some 8) (hb : s.bState 8 ≠ bsUnbound)
include he hb

theorem exec_resetPduRx_good (hg : s.pduGood 8 p 8 = true) (hl : 1 ≤ p.arg.toNat) (hh : p.arg.toNat ≤ 3) :
    exec (.resetPduRx p) s = .next ((s.pduHeard p 8).driveReset p.arg.toNat) := by
  have hkind : ¬ (8 ≠ 8 ∨ p.arg.toNat = 0 ∨ 3 < p.arg.toNat) := by omega
  exact congrArg Host.Outcome.next ((s.pduRx_good p he hb _ hg).trans (if_neg hkind))

theorem exec_unbindRx_good (hg : s.pduGood 9 p 8 = true) : exec (.unbindRx p) s = .next (s.pduHeard p 8).dbDrop :=
  congrArg Host.Outcome.next ((s.pduRx_good p he hb _ hg).trans (if_pos rfl))

end Drive

/-- A request of the right length on the adapter's own tunnel, with pools that fit (R267) and no binding held, is taken (R262). -/
theorem exec_bindReqRx_taken (hp : p.plen = 8) (hl : p.body.length = 8) (hd : s.downBinding = true)
    (ht : p.tun.toNat = s.get PX_CFG.TUN_BASE) (hc : s.poolsBad = false) (hf : s.on PX_DB.BOUND = false) :
    exec (.bindReqRx p) s = .next ((s.takeFifo 6 p.tun.toNat).dbBind (beAt p.body 0 2 % 2048) (beAt p.body 2 2 % 4096)
      p.epoch.toNat p) := by
  have hlength : ¬ (p.plen.toNat ≠ 8 ∨ p.body.length ≠ 8) := by simp [hp, hl]
  have hmode : ¬ (!s.downBinding) = true := by simp [hd]
  have hpools : ¬ s.poolsBad = true := by simp [hc]
  have hfree (other : Prop) : ¬ (s.on PX_DB.BOUND = true ∧ other) := by simp [hf]
  exact congrArg Host.Outcome.next ((if_neg hlength).trans ((if_neg hmode).trans ((if_neg (not_not.2 ht)).trans
    ((if_neg hpools).trans (if_neg (hfree _))))))

end Pdu

/-! ### Silence of the far end and the counts for it (R261, R262, R268, R275) -/

section Timers
variable (n : Fin 9) (s : State)

theorem exec_bindTimeout_unanswered (hb : s.bState n.val = bsRequested) (ha : s.bindTmo ≤ (s.bind n.val).asked)
    (hw : (s.bind n.val).wait = none) : exec (.bindTimeout n) s = .next (s.bindRefused n.val) :=
  congrArg Host.Outcome.next ((if_pos hb).trans (if_neg (by simp [hw, Nat.not_lt.2 ha])))

section Quiet
variable (hq : s.bindTmo ≤ (s.bind n.val).quiet)
include hq

theorem exec_bindTimeout_drive (hn : n.val = 8) (hb : s.bState n.val ≠ bsRequested) :
    exec (.bindTimeout n) s = .next s.dbDrop :=
  congrArg Host.Outcome.next ((if_neg hb).trans ((if_neg (Nat.not_lt.2 hq)).trans (if_pos hn)))

theorem exec_bindTimeout_port (hn : n.val ≠ 8) (hb : s.bState n.val = bsUp) :
    exec (.bindTimeout n) s = .next (((s.raise PX_EVENT.BIND_DOWN).vpDown n.val bsLost).bindRequest n.val) := by
  have hr : s.bState n.val ≠ bsRequested := by rw [hb]; decide
  exact congrArg Host.Outcome.next
    ((if_neg hr).trans ((if_neg (Nat.not_lt.2 hq)).trans ((if_neg hn).trans (if_pos hb))))

end Quiet

theorem exec_pduCreditDue_bound (short : Fin 8) (hb : bsBound ≤ s.bState n.val) :
    exec (.pduCreditDue n short) s = .next (((s.toLink n.val short).sendReleased n.val).partnerDrain) :=
  congrArg Host.Outcome.next (if_neg (Nat.not_lt.2 hb))

end Timers

/-! ### The PCIe link, `PERST#` and resets by the host (R255, R258, R259, R263, R276) -/

section Link
variable (s : State)

theorem exec_pcieTlpRx_live (hdr payload : List Byte) (hl : s.linkLive = true) :
    exec (.pcieTlpRx hdr payload) s =
      .next (s.setPx fun x => { x with partner := x.partner ++ [hdr ++ payload] }).partnerDrain :=
  congrArg Host.Outcome.next (if_neg (by simp [hl]))

theorem exec_perstRelease_due {t : Nat} (hr : s.px.refStart = some t) (ht : 100000000 ≤ s.elapsed t)
    (hp : s.on PX_LINK.PERST = true) : exec .perstRelease s = .next ((s.put PX_LINK.PERST 0).emit (.perst false)) := by
  show execPerstRelease s = _
  simp only [execPerstRelease, hr, if_pos (And.intro ht hp)]

section Change
variable (up : Bool) (width : Fin 3) (speed : Fin 4) (ltssm : Fin 64) (hw : s.linkWithin up width.val speed.val = true)
include hw

theorem exec_driveLinkChange_within (hd : s.downBinding = true) :
    exec (.driveLinkChange up width speed ltssm) s =
      .next ((s.pcieLink up width.val speed.val ltssm.val).reportDrive up) :=
  congrArg Host.Outcome.next (if_neg (by simp [hd, hw]))

theorem exec_hostLinkChange_within (hu : s.upSwitch = true) (hp : s.px.perstIn = false) :
    exec (.hostLinkChange up width speed ltssm) s = .next (s.pcieLink up width.val speed.val ltssm.val) :=
  congrArg Host.Outcome.next (if_pos (by simp [hu, hw, hp]))

end Change

section Switch
variable (hu : s.upSwitch = true)
include hu

theorem exec_perstInFall_upSwitch :
    exec .perstInFall s = .next (s.perstClear.usedFree.pcieLink false 0 0 (s.perstClear.free % 64)) :=
  congrArg Host.Outcome.next (if_neg (by simp [hu]))

variable (vp : Fin 8)

theorem exec_secondaryBusReset_upSwitch :
    exec (.secondaryBusReset vp) s = .next ((s.setCfgBits (2 + vp.val) 15 (s.cfgBits (2 + vp.val) 15 ||| 2 ^ 22)).when
      (s.bState vp.val == bsUp) fun s => s.sendPdu vp.val 8 1 []) :=
  congrArg Host.Outcome.next (if_pos hu)

variable (set : Bool)

/-- The drive's link follows the bit while the binding is UP. -/
theorem exec_linkDisable_up (hb : s.bState vp.val = bsUp) :
    exec (.linkDisable vp set) s = .next (((s.setBind vp.val fun b =>
      { b with disabled := set, linkAct := !set, actChg := b.actChg || b.linkAct != !set }).hotPlug vp.val).sendPdu
        vp.val 8 (if set then 2 else 3) []) := by
  refine congrArg Host.Outcome.next ((if_pos hu).trans ?_)
  simp only [State.linkDisable, hb, beq_self_eq_true, Bool.true_and, State.when_true]

theorem exec_linkDisable_notUp (hb : s.bState vp.val ≠ bsUp) :
    exec (.linkDisable vp set) s = .next ((s.setBind vp.val fun b =>
      { b with disabled := set, linkAct := false, actChg := b.actChg || b.linkAct }).hotPlug vp.val) := by
  refine congrArg Host.Outcome.next ((if_pos hu).trans ?_)
  simp only [State.linkDisable, beq_eq_false_iff_ne.2 hb, Bool.false_and, Bool.bne_false, State.when_false]

end Switch
end Link

/-- Settles O41, one lemma for each command that the state decides on; the rise of `PERST#` is its definition. That a TLP is its
bytes is notes/assumptions/55.md, and no more is said of the LTSSM code while `PERST#` is low than that it is a free value; that
a binding starts with its counts at 0 is 56.md, what a port or binding that is reset still held 94.md, and that each end sends
LINK and the partner's TLPs are tried again when credit may have come 101.md. -/
theorem storageCommands : Obligations.StorageCommands :=
  ⟨fun hdr payload s => exec_pcieTlpRx_live s hdr payload,
    fun p reqShort cplShort _ s he hb => exec_tlpPduRx_good p s he hb reqShort cplShort,
    exec_bindReqRx_taken,
    fun p _ s => exec_bindAckRx_asked p s,
    fun p _ s => exec_bindRefuseRx_asked p s,
    fun p _ s => exec_pduCreditRx_good p s,
    fun p _ s => exec_linkPduRx_bound p s,
    fun p _ s => exec_keepalivePduRx_good p s,
    exec_resetPduRx_good, exec_unbindRx_good, exec_bindTimeout_port, exec_bindTimeout_unanswered,
    fun n s hn hb hq => exec_bindTimeout_drive n s hq hn hb,
    fun n short s => exec_pduCreditDue_bound n s short,
    exec_perstInFall_upSwitch,
    fun _ => rfl, -- PERST_IN_RISE
    fun _ s => exec_perstRelease_due s,
    fun up width speed ltssm s hd hw => exec_driveLinkChange_within s up width speed ltssm hw hd,
    fun up width speed ltssm s hu hp hw => exec_hostLinkChange_within s up width speed ltssm hw hu hp,
    fun vp s hu => exec_secondaryBusReset_upSwitch s hu vp,
    fun vp set s hu => exec_linkDisable_up s hu vp set,
    fun vp set s hu => exec_linkDisable_notUp s hu vp set⟩

end Sys2Proof.Machine
end

section
/-! The network tunnel: frames from and to the wire, cells at the egress and the contexts they join (R278 to R290, R328). -/

namespace Sys2Proof.Machine

section Ethernet
variable (e : Fin 2) (s : State)

/-- Only what has stayed without a cell for more than 1 ms is closed, and each one closed is counted. -/
theorem exec_reasmTimeout :
    exec (.reasmTimeout e) s = .next ((s.setCtx e.val ((s.ethA e.val).ctx.filter fun x =>
      !decide (1000000 < s.elapsed x.last))).addSat (EN_TX_DROP.REASM e.val)
        ((s.ethA e.val).ctx.filter fun x => decide (1000000 < s.elapsed x.last)).length) := by
  show execReasmTimeout e s = _
  simp only [execReasmTimeout, List.partition_eq_filter_filter]
  rfl

theorem exec_ethLinkChange_present (up : Bool) (speed : Fin 3) (hj : s.hasJ (7 + e.val) = true) :
    exec (.ethLinkChange e up speed) s = .next (((s.put (EN_STATUS.LINK_UP e.val) up.toNat).put
      (EN_STATUS.SG_SPEED e.val) speed.val).when (s.get (EN_STATUS.LINK_UP e.val) != up.toNat) fun s =>
        s.raise (EN_EVENT.LINK_CHG e.val)) :=
  congrArg Host.Outcome.next (if_pos hj)

section On
variable (ho : s.ethOn e.val = true)
include ho

theorem exec_ethEgressCell_given (c : Cell) : exec (.ethEgressCell e (some c)) s = .next (s.egress e.val c) :=
  congrArg Host.Outcome.next (if_pos ho)

theorem exec_ptpTxRequest_on (want : Bool) (tag : Byte) (f : List Byte) :
    exec (.ptpTxRequest e want tag f) s = .next ((s.setJn fun j =>
      { j with fifo := tput [] (7 + e.val) (takeUnit 0xFFE (tget [] (7 + e.val) j.fifo)) j.fifo }).queueFirst e.val
        ⟨padTo (max 60 f.length) f, false, some (if want then 256 + tag.toNat else 0)⟩) :=
  congrArg Host.Outcome.next (if_neg (by simp [ho]))

section Up
variable (hl : s.on (EN_STATUS.LINK_UP e.val) = true)
include hl

/-- A whole data frame that `ACCEPT` lets through is stamped, counted and sent to its destination. -/
theorem exec_ethFrameRx_accepted (f : List Byte) (hf : fcsGood f = true) (hs : s.frameFits e.val f = true)
    (hc : beAt f 12 2 ≠ 0x8808) (hr : s.rejects e.val f = false) :
    exec (.ethFrameRx e f) s =
      .next (((s.put (EN_TS_RX.TS_RX_NS e.val) s.tm.ns).inc (EN_RX_CNT.RX_FRAMES e.val)).ethDest e.val f) := by
  have hlive : ¬ (!s.ethOn e.val || !s.on (EN_STATUS.LINK_UP e.val)) = true := by simp [ho, hl]
  have hgood : ¬ (!fcsGood f) = true := by simp [hf]
  have hfits : ¬ (!s.frameFits e.val f) = true := by simp [hs]
  have haccepted : ¬ s.rejects e.val f = true := by simp [hr]
  exact congrArg Host.Outcome.next ((if_neg hlive).trans ((if_neg hgood).trans ((if_neg hfits).trans
    ((if_neg hc).trans (if_neg haccepted)))))

theorem exec_ethFrameTx_leaves {f : EthFrame} {rest : List EthFrame} (hp : (s.ethA e.val).pauseUntil ≤ s.tm.tick)
    (hq : (s.ethA e.val).txq = f :: rest) : exec (.ethFrameTx e) s = .next (s.ethOut e.val f rest) := by
  have hsends : ¬ (!s.ethOn e.val || !s.on (EN_STATUS.LINK_UP e.val) ||
      decide (s.tm.tick < (s.ethA e.val).pauseUntil)) = true := by simp [ho, hl, Nat.not_lt.2 hp]
  show execEthFrameTx e s = _
  simp only [execEthFrameTx, if_neg hsends, hq]

end Up
end On
end Ethernet

/-- Settles O42, one lemma for each command. That a frame shorter than the least size is filled to 60 bytes before its FCS is
notes/assumptions/59.md. -/
theorem ethernetCommands : Obligations.EthernetCommands :=
  ⟨fun e f s ho hl => exec_ethFrameRx_accepted e s ho hl f,
    fun e c s ho => exec_ethEgressCell_given e s ho c,
    exec_reasmTimeout,
    fun e want tag f s ho => exec_ptpTxRequest_on e s ho want tag f,
    fun e _ _ s ho hl => exec_ethFrameTx_leaves e s ho hl,
    fun e up speed s => exec_ethLinkChange_present e s up speed⟩

end Sys2Proof.Machine
end

section
/-! The Local Bus: its cycles (R293 to R297, R304, R308), the remote windows of the bridge (R298 to R313), sideband signals (R315,
R316) and signals of the process image (R318 to R321). -/

namespace Sys2Proof.Machine

section LocalBus
variable (s : State)

/-! ### Bus cycles (R293, R295 to R297, R304, R308) -/

section Cycles

theorem exec_lbBusRequest_on (hl : s.lbOn = true) :
    exec .lbBusRequest s = .next (s.setLb fun b => { b with breq := true }).lbIdle :=
  congrArg Host.Outcome.next (if_pos hl)

theorem exec_lbGrantWithdraw_idle (ho : s.get LB_STATUS.OWNER = 2) (hh : s.lb.heldDev = none) :
    exec .lbGrantWithdraw s =
      .next (((s.put LB_STATUS.OWNER 0).setLb fun b => { b with breq := false }).emit (.lbGrant false)) :=
  congrArg Host.Outcome.next (if_pos ⟨ho, hh⟩)

/-- The device cycle of LB_DEVICE_CYCLE: the run of bytes that its byte enables span, with data when it writes (R291). -/
def deviceCyc (write : Bool) (addr : Word) (en : BitVec 64) (data : List Byte) : DevCyc :=
  ⟨write, addr.toNat, runBytes en, if write then padTo (runBytes en) data else []⟩

/-- A cycle outside the image, of the device that holds the grant, goes to the window that its first byte lies in. -/
theorem exec_lbDeviceCycle_window (write : Bool) (addr : Word) (en : BitVec 64) (data : List Byte) {n : Nat}
    (hl : s.lbOn = true) (ho : s.get LB_STATUS.OWNER = 2) (hh : s.lb.heldDev = none)
    (hi : s.inImage (deviceCyc write addr en data) = false) (hw : s.winOf addr.toNat = some n) :
    exec (.lbDeviceCycle write addr en data) s = .next (((s.setLb fun b => { b with breq := false }).emit
      (.lbGrant false)).winCycle n (deviceCyc write addr en data)) := by
  have hgranted : ¬ (!s.lbOn || s.get LB_STATUS.OWNER != 2 || s.lb.heldDev != none) = true := by simp [hl, ho, hh]
  unfold deviceCyc at *
  show execLbDeviceCycle write addr en data s = _
  simp only [execLbDeviceCycle, if_neg hgranted, if_neg (Bool.eq_false_iff.1 hi), hw]

/-- With no device asking for the idle bus, a posted write takes its turn; what it shows on the bus does not depend on `cur`. -/
theorem exec_lbHubCycle_posted {r : Inbound} {b : Bridge} (hl : s.lbOn = true) (ho : s.get LB_STATUS.OWNER = 0)
    (hq : s.lb.breq = false) (hc : s.lb.nextCycle = some (.posted r, b)) :
    exec .lbHubCycle s = .next (((({ s with lb := { b with cur := some (.posted r) } } : State).emit
      (s.cycleOut (.posted r))).put LB_STATUS.OWNER 1).lbCounts r.win) := by
  have hfree : ¬ (!s.lbOn || s.get LB_STATUS.OWNER != 0 || (s.lb.breq && !s.lb.lastDev)) = true := by simp [hl, ho, hq]
  show execLbHubCycle s = _
  simp only [execLbHubCycle, if_neg hfree, hc]
  rfl

section Current
variable {c : HubCyc} (hc : s.lb.cur = some c)
include hc

theorem exec_lbHubCycleDone_complete (data : List Byte) :
    exec (.lbHubCycleDone 0 data) s = .next (s.cycleResult c 0 data).hubCycleEnds := by
  show execLbHubCycleDone 0 data s = _
  simp only [execLbHubCycleDone, hc, if_neg (show ¬ (0 : Fin 3).val = 2 by decide),
    if_neg (show ¬ (0 : Fin 3).val = 1 by decide)]

theorem exec_lbWaitTimeout_current :
    exec .lbWaitTimeout s =
      .next (((s.inc LB_CNT.BUS_TMO).raise LB_EVENT.BUS_ERR).cycleResult c 2 []).hubCycleEnds := by
  show execLbWaitTimeout s = _
  simp only [execLbWaitTimeout, hc]

end Current

/-- A write that no window takes counts as posted: when it cannot go on and `FAR_TMO` is over, it ends with error. -/
theorem exec_postedHoldTimeout_noWindow {c : DevCyc} {t : Nat} (hh : s.retryHeld.lb.heldDev = some (c, t))
    (hn : s.retryHeld.winOf c.addr = none) (hw : c.write = true)
    (ht : max 1 (s.retryHeld.get LB_CFG.FAR_TMO) * 1000 ≤ s.retryHeld.elapsed t) :
    exec .postedHoldTimeout s = .next ((s.retryHeld.inc LB_CNT.BUS_TMO).endDev 1 []) := by
  show execPostedHoldTimeout s = _
  simp only [execPostedHoldTimeout, hh, hn, hw, decide_eq_true ht, Bool.and_self, if_true]

end Cycles

/-! ### Requests of this hub and their completions (R305 to R307) -/

section Requests
variable {r : BridgeReq}

theorem exec_completionRx_open (src : Fin 2048) (m : BridgeMsg) (hr : s.lb.openReq m.iwin.val m.tag.toNat = some r) :
    exec (.completionRx src m) s = .next ((s.takeFifo 9 0x802).complete r m.stat.toNat
      (if r.cyc.write then [] else m.data)) := by
  show execCompletionRx src m s = _
  simp only [execCompletionRx, hr]

variable (n : Fin 32) (tag : Byte)

theorem exec_farTmo_due (hr : s.lb.openReq n.val tag.toNat = some r)
    (ht : max 1 (s.get LB_CFG.FAR_TMO) * 1000 ≤ s.elapsed r.sent) :
    exec (.farTmo n tag) s = .next ((s.complete r 5 []).raise LB_EVENT.NP_TMO) := by
  show execFarTmo n tag s = _
  simp only [execFarTmo, hr, if_pos ht]

theorem exec_dlyDiscard_due {st t : Nat} {d : List Byte}
    (hr : (s.lb.reqs.find? fun r => r.win == n.val && r.tag == tag.toNat && !r.wait) = some r)
    (hd : r.reply = some (st, d, t)) (ht : s.get LB_CFG2.DLY_DISCARD * 1000 ≤ s.elapsed t) :
    exec (.dlyDiscard n tag) s = .next (((s.setLb fun b => { b with reqs := b.reqs.filter (· != r) }).lbCounts
      n.val).inc LB_CNT.DLY_DISCARD) := by
  show execDlyDiscard n tag s = _
  simp only [execDlyDiscard, hr, hd, if_pos ht]

end Requests

/-! ### Messages of other hubs (R298, R302, R310, R312, R313) -/

section Messages
variable (src : Fin 2048) (m : BridgeMsg)

/-- A posted write of a window in service, in sequence since its RESYNC and inside its pool, is queued for the bus. -/
theorem exec_postedWriteRx_queued {first : Nat} (ha : s.refusedIn src.val m = false)
    (hs : (s.lb.synced.find? fun e => e.1 == m.twin.val) = some (m.twin.val, first))
    (hq : (m.seq.toNat + 65536 - first) % 65536 < 32768)
    (hp : (s.lb.inPosted.filter fun r => r.win == m.twin.val).length < fours (s.get (LB_WIN_IN.IN_P_CR m.twin.val))) :
    exec (.postedWriteRx src m) s = .next (((s.takeFifo 9 0x800).setLb fun b =>
      { b with inPosted := b.inPosted ++ [⟨m.twin.val, src.val, m⟩] }).lbCounts m.twin.val) := by
  show execPostedWriteRx src m s = _
  simp only [execPostedWriteRx, if_neg (Bool.eq_false_iff.1 ha), hs, if_neg (Nat.not_le.2 hq), if_neg (Nat.not_le.2 hp)]

/-- An error of a delivery names a signal and no window, so nothing is fenced. -/
theorem exec_farErrRx_delivery (hi : m.init = true) :
    exec (.farErrRx src m) s = .next (((s.takeFifo 9 0x803).felLog m.stat.toNat 1 m.sig.val src.val m.off.toNat 0
      m.sec.toNat m.ns.toNat).raise LB_EVENT.FAR_ERR) := by
  show execFarErrRx src m s = _
  simp only [execFarErrRx, hi, if_true, Bool.not_true, Bool.false_and, State.when_false, Bool.toNat_true]

section Target
variable (ht : s.fromTarget m.iwin.val src.val = true)
include ht

theorem exec_bridgeCreditRx_fromTarget :
    exec (.bridgeCreditRx src m) s = .next ((s.takeFifo 9 0x804).creditWin m.iwin.val m.seq.toNat) :=
  congrArg Host.Outcome.next (if_neg (by simp [ht]))

theorem exec_bridgeRestartRx_fromTarget :
    exec (.bridgeRestartRx src m) s = .next ((s.takeFifo 9 0x804).restartWin m.iwin.val src.val) :=
  congrArg Host.Outcome.next (if_neg (by simp [ht]))

end Target

theorem exec_resyncRx_inService (hl : s.lbOn = true) (hw : s.inWin m.twin.val = true)
    (hh : s.get (LB_WIN_CTL.IN_HUB m.twin.val) = src.val) :
    exec (.resyncRx src m) s = .next ((s.takeFifo 9 0x804).takeResync m.twin.val m.seq.toNat) :=
  congrArg Host.Outcome.next (if_neg (by simp [hl, hw, hh]))

end Messages

/-! ### Sideband (R315, R316) -/

section Sideband
variable (hl : s.lbOn = true)
include hl

theorem exec_sidebandSample_enabled (levels : BitVec 16) (he : s.on SB_CFG.SB_EN = true) :
    exec (.sidebandSample levels) s = .next (s.sbCount levels).sbTake :=
  congrArg Host.Outcome.next (if_neg (by simp [hl, he]))

theorem exec_sidebandStateRx_fromSource (src : Fin 2048) (state : BitVec 16) (hs : s.get SB_SRC.SB_SRC_HUB = src.val) :
    exec (.sidebandStateRx src state) s = .next ((s.takeFifo 9 0x805).setLb fun b =>
      { b with sbRemote := state.toNat, sbQuiet := 0, sbSafe := false }).sbDrive :=
  congrArg Host.Outcome.next (if_neg (by simp [hl, hs]))

theorem exec_sbLoss_due (hs : s.lb.sbSafe = false) (hq : max 1 (s.get SB_SRC.SB_LOSS) ≤ s.lb.sbQuiet) :
    exec .sbLoss s = .next ((s.setLb fun b => { b with sbSafe := true }).sbDrive.raise LB_EVENT.SB_LOSS) :=
  congrArg Host.Outcome.next (if_neg (by rw [hl, hs, decide_eq_false (Nat.not_lt.2 hq)]; decide))

end Sideband

/-! ### Signals of the process image (R318 to R321)

In the first word of an entry bit 31 is `V`, bit 30 `DIR` (1: this hub consumes the signal) and bit 29 `PMODE`. -/

section Signals
variable (i : Fin 1024) (hv : s.sigGet i.val 0 31 31 = 1)
include hv

theorem exec_signalSend_committed (hl : s.lbOn = true) (hp : s.sigGet i.val 0 30 30 = 0)
    (hm : s.sigGet i.val 0 29 29 = 0) : exec (.signalSend i) s =
      .next (s.sendSignal i.val (padTo (s.sigGet i.val 0 28 23 + 1) (tget [] i.val s.lb.commit))) :=
  congrArg Host.Outcome.next ((if_neg (by simp [hl, hv, hp])).trans (if_neg (by simp [hm])))

section Consumer
variable (hc : s.sigGet i.val 0 30 30 = 1)
include hc

theorem exec_signalRx_consumer (src : Fin 2048) (v : List Byte) (hl : s.lbOn = true) :
    exec (.signalRx src i v) s = .next ((s.takeFifo 9 i.val).signalIn src.val i.val v) :=
  congrArg Host.Outcome.next (if_neg (by simp [hl, hv, hc]))

theorem exec_signalStale_due
    (ht : max 1 (s.sigGet i.val 3 15 8) * s.sigPeriod i.val * 1000 ≤ s.elapsed (tget 0 i.val s.lb.updated)) :
    exec (.signalStale i) s = .next ((s.put (PI_STALE.STALE (i.val / 32))
      (s.get (PI_STALE.STALE (i.val / 32)) ||| 2 ^ (i.val % 32))).raise LB_EVENT.PI_STALE) :=
  congrArg Host.Outcome.next (if_pos ⟨hv, hc, ht⟩)

end Consumer
end Signals
end LocalBus

/-- Settles O43, one lemma for each command. That the bridge looks at the process image before its windows, and that a cycle
covers the run of bytes its enables span, is notes/assumptions/57.md; that a held cycle is tried again before it times out 95.md. -/
theorem localBusCommands : Obligations.LocalBusCommands :=
  ⟨exec_lbBusRequest_on,
    fun write addr en data _ s => exec_lbDeviceCycle_window s write addr en data,
    exec_lbGrantWithdraw_idle,
    fun _ _ s => exec_lbHubCycle_posted s,
    fun _ data s hc => exec_lbHubCycleDone_complete s hc data,
    fun _ s => exec_lbWaitTimeout_current s,
    fun _ _ s => exec_postedHoldTimeout_noWindow s⟩

/-- Settles O44, one lemma for each command that the state decides on. The arrival of an acknowledged write or a read is
`State.npArrive` by definition, and to clear a fence or free a log entry writes one bit. Where `INIT` and the signal of a FAR_ERR
stand is notes/assumptions/22.md. -/
theorem bridgeCommands : Obligations.BridgeCommands :=
  ⟨fun src m _ s => exec_postedWriteRx_queued s src m,
    fun _ _ _ => rfl, -- ACKNOWLEDGED_WRITE_RX
    fun _ _ _ => rfl, -- READ_RX
    fun src m _ s => exec_completionRx_open s src m,
    fun src m s => exec_bridgeCreditRx_fromTarget s src m,
    fun src m s => exec_farErrRx_delivery s src m,
    fun src m s => exec_bridgeRestartRx_fromTarget s src m,
    fun src m s => exec_resyncRx_inService s src m,
    fun n tag _ s => exec_farTmo_due s n tag,
    fun n tag _ _ _ _ s => exec_dlyDiscard_due s n tag,
    fun _ _ => rfl, -- FENCE_CLEAR
    fun _ _ => rfl⟩ -- FEL_ENTRY_FREE

/-- Settles O45, one lemma for each command. That a signal that arrives commits no producer's value, and that the value sent is the
last committed one padded to its length, is notes/assumptions/95.md. -/
theorem sidebandAndSignalCommands : Obligations.SidebandAndSignalCommands :=
  ⟨fun levels s hl => exec_sidebandSample_enabled s hl levels,
    fun src state s hl => exec_sidebandStateRx_fromSource s hl src state,
    exec_sbLoss_due,
    fun i s hl hv => exec_signalSend_committed s i hv hl,
    fun src i v s hl hv hc => exec_signalRx_consumer s i hv hc src v hl,
    fun i s hv hc => exec_signalStale_due s i hv hc⟩

end Sys2Proof.Machine
end

section
/-! Domain time: what a tick adds (R322, R325), the latches of its reads (R324), and the commands of the servo, of PTP and of the
time cells (R324 to R327, R333 to R336, R340). -/

namespace Sys2Proof.Machine

/-! ### Ticks (R322, R325) -/

/-- Time set from units of 2^-32 ns reads back as that number, but for the seconds that do not fit 48 bits. -/
theorem TimeUnit.setQ32_q32 (t : TimeUnit) (q : Nat) : (t.setQ32 q).q32 = q % (2 ^ 48 * 1000000000 * 2 ^ 32) := by
  have hns : q / 2 ^ 32 % (1000000000 * 2 ^ 48) =
      q / 2 ^ 32 % 1000000000 + 1000000000 * (q / 2 ^ 32 / 1000000000 % 2 ^ 48) := Nat.mod_mul
  calc (t.setQ32 q).q32
      = q % 2 ^ 32 + 2 ^ 32 * (q / 2 ^ 32 % (1000000000 * 2 ^ 48)) := by
        rw [hns]
        show (q / 2 ^ 32 / 1000000000 % 2 ^ 48 * 1000000000 + q / 2 ^ 32 % 1000000000) * 2 ^ 32 + q % 2 ^ 32 = _
        ring
    _ = q % (2 ^ 32 * (1000000000 * 2 ^ 48)) := Nat.mod_mul.symm
    _ = q % (2 ^ 48 * 1000000000 * 2 ^ 32) := by norm_num

theorem State.tickTime_q32 (s : State) :
    s.tickTime.tm.q32 = (s.tm.q32 + s.get TM_ADDEND.ADDEND) % (2 ^ 48 * 1000000000 * 2 ^ 32) :=
  s.tm.setQ32_q32 _

theorem State.tickTime_tick (s : State) : s.tickTime.tm.tick = s.tm.tick + 1 := rfl

/-- What changes the time unit changes nothing else. -/
theorem State.setTm_frame (s : State) (g : TimeUnit → TimeUnit) : { s.setTm g with tm := s.tm } = s := rfl

theorem step_of_idle {s : State} (h : s.pending = []) : step s = .next s.tickTime := by
  simp only [step, h]

/-- Settles O2. That a step on an empty queue is one tick is notes/assumptions/3.md. -/
theorem idleStepIsOneTick : Obligations.IdleStepIsOneTick :=
  fun s h => ⟨s.tickTime, step_of_idle h, s.tickTime_tick, s.tickTime_q32, s.setTm_frame _⟩

/-! ### Reads in the time block (R5, R17, R24, R387)

No class excludes block 6, which is on the Spine die and not the Forme controller's, so a read of one of its registers is made. -/

section TimeBlock
variable (s : State) (p : Path) {a : Nat}

theorem State.mgmtRead_reg {sz : Nat} (ht : s.turnedAway p a sz false = 0) (he : s.excludedAt (plain a) = false)
    (ha : isAlias a = false) (hp : place (plain a) = .reg) : s.mgmtRead p a sz = (0, s.readReg p (plain a)) := by
  simp [State.mgmtRead, ht, he, ha, hp]

variable (hblk : a / 0x10000 = 6)
include hblk

theorem plain_timeBlock : plain a = a := Nat.mod_eq_of_lt (by omega)

theorem State.excludedAt_timeBlock : s.excludedAt a = false := by
  have h4 : ¬ (0x40100 ≤ a ∧ a < 0x40380) := by omega
  have h5 : ¬ (0x50100 ≤ a ∧ a < 0x50180) := by omega
  have h6 : ¬ (0x50200 ≤ a ∧ a < 0x50240) := by omega
  simp [State.excludedAt, State.blockExcluded, hblk, h4, h5, h6]

variable (h4 : a % 4 = 0) (hp : place a = .reg)
include h4 hp

theorem State.turnedAway_timeRead : s.turnedAway p a 4 false = 0 := by
  have hk : keepBlock a = false := decide_eq_false (by omega)
  simp [State.turnedAway, plain_timeBlock hblk, s.excludedAt_timeBlock hblk, aligned, h4, hp, hk]

theorem State.mgmtRead_timeBlock : s.mgmtRead p a 4 = (0, s.readReg p a) := by
  have hplain := plain_timeBlock hblk
  have ha : isAlias a = false := decide_eq_false (by omega)
  rw [s.mgmtRead_reg p (s.turnedAway_timeRead p hblk h4 hp) (by rw [hplain, s.excludedAt_timeBlock hblk]) ha
    (by rw [hplain, hp]), hplain]

theorem exec_rcRead_timeBlock (hb : s.behind p = false) :
    exec (.rcRead p (BitVec.ofNat 32 a) 2) s = .next ((s.readReg p a).2.emit (.access p a 0 (s.readReg p a).1)) := by
  have haddr : (BitVec.ofNat 32 a).toNat = a := Nat.mod_eq_of_lt (by omega)
  rw [exec_rcRead_open s p _ 2 hb, haddr]
  show Host.Outcome.next ((s.mgmtRead p a 4).2.2.emit (.access p a (s.mgmtRead p a 4).1 (s.mgmtRead p a 4).2.1)) = _
  rw [s.mgmtRead_timeBlock p hblk h4 hp]

end TimeBlock

/-! ### The latches (R324) -/

section Latches
variable (s : State) (p : Path)

theorem State.latchTime_latch : tget (0, 0) (pathCode p) (s.latchTime p).tm.latches = (s.tm.sec, s.tm.frac / 2 ^ 16) :=
  tget_tput_self _ _ _ _

theorem State.latchTime_latch_other {q : Path} (h : pathCode q ≠ pathCode p) :
    tget (0, 0) (pathCode q) (s.latchTime p).tm.latches = tget (0, 0) (pathCode q) s.tm.latches :=
  tget_tput_ne _ h _ _

variable (hb : s.behind p = false)
include hb

theorem exec_timeReadLatch_open : exec (.timeReadLatch p) s =
    .next ((s.latchTime p).emit (.access p TM_NOW_NS 0 (BitVec.ofNat 32 s.tm.ns))) :=
  congrArg Host.Outcome.next (s.ordered_open _ _ hb rfl)

/-- As a register read, the nanoseconds are read by TIME_READ_LATCH. -/
theorem exec_rcRead_nowNs : exec (.rcRead p (BitVec.ofNat 32 TM_NOW_NS) 2) s =
    .next ((s.latchTime p).emit (.access p TM_NOW_NS 0 (BitVec.ofNat 32 s.tm.ns))) :=
  exec_rcRead_timeBlock s p rfl rfl (by decide) hb

theorem exec_rcRead_nowSec : exec (.rcRead p (BitVec.ofNat 32 TM_NOW_SEC) 2) s =
    .next (s.emit (.access p TM_NOW_SEC 0 (BitVec.ofNat 32 (tget (0, 0) (pathCode p) s.tm.latches).1))) :=
  exec_rcRead_timeBlock s p rfl rfl (by decide) hb

theorem exec_rcRead_nowHi : exec (.rcRead p (BitVec.ofNat 32 TM_NOW_HI) 2) s =
    .next (s.emit (.access p TM_NOW_HI 0 (BitVec.ofNat 32 ((tget (0, 0) (pathCode p) s.tm.latches).1 / 2 ^ 32 * 2 ^ 16 +
      (tget (0, 0) (pathCode p) s.tm.latches).2)))) :=
  exec_rcRead_timeBlock s p rfl rfl (by decide) hb

end Latches

/-- Settles O12: both reads of `TM_NOW_NS` are one `State.latchTime`, which writes one path's latch; the reads of the other two
registers answer from that latch. -/
theorem timeLatchRule : Obligations.TimeLatchRule := fun p s hb =>
  ⟨⟨_, exec_timeReadLatch_open s p hb, s.latchTime_latch p, fun _ => s.latchTime_latch_other p⟩,
    ⟨_, exec_rcRead_nowNs s p hb, s.latchTime_latch p, fun _ => s.latchTime_latch_other p⟩,
    exec_rcRead_nowSec s p hb, exec_rcRead_nowHi s p hb⟩

/-! ### Time cells, their sources and the reference clock (R326, R333 to R336, R340) -/

section Servo
variable (s : State)

theorem exec_timeCellSend_set {d : GmSet} {flags : Nat} (h : s.sendSet = some (d, flags)) :
    exec .timeCellSend s = .next ((s.syncMiss.setTm fun t => { t with seen := false, tSeq := (t.tSeq + 1) % 256 }).each
      (List.range 4) fun p u => if u.lState p == lkOpen && (u.get TM_CFG.SPINE_EN).testBit p then
        u.sendTime p d flags u.tm.tSeq else u) := by
  show execTimeCellSend s = _
  simp only [execTimeCellSend, h]

theorem exec_candidateLapse_due (c : Fin 6) {x : TimeCand} (h : s.cand c.val = some x)
    (hl : s.lapseNs c.val < s.elapsed x.tick) : exec (.candidateLapse c) s =
      .next ((s.setTm fun t => { t with cands := t.cands.filter fun e => e.1 != c.val }).chooseParent) := by
  show execCandidateLapse c s = _
  simp only [execCandidateLapse, h, if_neg (Nat.not_le.2 hl)]

theorem exec_refclkReturn_holdover (hr : s.tm.refLost = true) (hs : s.tstate = tsHoldover) (hp : s.parent ≠ 7) :
    exec .refclkReturn s = .next ((s.setTm fun t => { t with refLost := false }).setTstate
      (if s.parent = 6 then tsGm else tsAcquire)) :=
  congrArg Host.Outcome.next ((if_neg (by simp [hr])).trans (if_neg (by simp [hs, hp])))

theorem exec_timeSetApply_due {t : Nat} (h : s.tm.setAt = some t) (ht : t ≤ s.tm.sec) :
    exec .timeSetApply s = .next s.setApply := by
  show execTimeSetApply s = _
  simp only [execTimeSetApply, h, if_neg (Nat.not_lt.2 ht)]

theorem exec_rtcSecondWrite_following (h : s.tstate = tsLocked ∨ s.tstate = tsSlew ∨ s.tstate = tsGm) :
    exec .rtcSecondWrite s = .next
      (({ s with rs := { s.rs with rtc := s.tm.sec * 32768, rtcAt := s.tm.tick, rtcValid := true } } : State).put
        TM_STATE.RTC_VALID 1) :=
  congrArg Host.Outcome.next (if_pos h)

end Servo

/-! ### PTP (R327, R328) -/

section Ptp
variable (s : State) (e : Fin 2) (he : s.eRole e.val ≠ 0)
include he

/-- A message of the domain, other than the report of a transmit timestamp, goes to the PTP port. -/
theorem exec_ptpMessageRx_ofDomain {dom : Byte} {m : PtpMsg} (rx : Stamp) (hd : dom.toNat = s.ptpDomain)
    (hm : ∀ tag ts, m ≠ .report tag ts) : exec (.ptpMessageRx e ⟨dom, m⟩ rx) s = .next ((s.setJn fun j =>
      { j with fifo := tput [] 11 (takeUnit 0xFFE (tget [] 11 j.fifo)) j.fifo }).ptpTake e.val m rx) := by
  refine congrArg Host.Outcome.next ((if_neg he).trans ?_)
  cases m with
  | report tag ts => exact absurd rfl (hm tag ts)
  | _ => exact if_pos hd

theorem exec_ptpMessageRx_report (dom tag : Byte) (ts rx : Stamp) :
    exec (.ptpMessageRx e ⟨dom, .report tag ts⟩ rx) s = .next ((s.setJn fun j =>
      { j with fifo := tput [] 11 (takeUnit 0xFFE (tget [] 11 j.fifo)) j.fifo }).ptpReport e.val tag.toNat ts) :=
  congrArg Host.Outcome.next (if_neg he)

/-- A Sync is no answer, so it goes out with its own sequence number. -/
theorem exec_ptpMessageSend_sync (seq : BitVec 16) (tag : Byte) (frame : List Byte) (hm : s.ptpMay e.val .sync = true) :
    exec (.ptpMessageSend e .sync seq tag frame) s = .next (s.ptpGo e .sync tag frame seq.toNat none) :=
  congrArg Host.Outcome.next (if_neg (by simp [he, hm]))

end Ptp

/-- Settles O46, one lemma for each command that the state decides on; a given time cell, the loss of the reference clock, SET and
ACCEPT are their definitions. That the reference clock's return acts in HOLDOVER alone, and that a PTP message comes with its
fields laid out, is notes/assumptions/74.md; the loss in HOLDOVER is 97.md. -/
theorem timeServoCommands : Obligations.TimeServoCommands :=
  ⟨fun p s => exec_timeReadLatch_open s p,
    fun _ _ s => exec_timeCellSend_set s,
    fun _ _ _ => rfl, -- TIME_CELL_RX
    fun c _ s => exec_candidateLapse_due s c,
    fun e _ _ rx s he hd hm => exec_ptpMessageRx_ofDomain s e he rx hd (by rintro tag ts rfl; cases hm),
    fun e dom tag ts rx s he => exec_ptpMessageRx_report s e he dom tag ts rx,
    fun e seq tag frame s he => exec_ptpMessageSend_sync s e he seq tag frame,
    fun _ => rfl, -- REFCLK_LOSS
    exec_refclkReturn_holdover,
    fun _ => rfl, -- SET
    fun _ s => exec_timeSetApply_due s,
    fun _ => rfl, -- ACCEPT
    exec_rtcSecondWrite_following⟩

end Sys2Proof.Machine
end

section
/-! Waymarks (R343 to R346), capture inputs (R347, R348) and the measurement unit (R350, R351). -/

namespace Sys2Proof.Machine

section Waymarks
variable (s : State) (n : Fin 8) {t : Nat} (ht : t ≤ s.nowNs) (hp : s.get RST_STATUS.PHASE ≠ 9)
include ht hp

theorem exec_waymarkInstant_due (h : (s.wm n.val).next = some t) :
    exec (.waymarkInstant n) s = .next (s.wmPulse n.val t) := by
  show execWaymarkInstant n s = _
  simp only [execWaymarkInstant, h, if_neg (Nat.not_lt.2 ht), if_neg hp]

theorem exec_waymarkPulseEnd_due (h : (s.wm n.val).stop = some t) :
    exec (.waymarkPulseEnd n) s = .next (s.wmEnd n.val) := by
  have hends : ¬ (s.nowNs < t ∨ s.get RST_STATUS.PHASE = 9) := not_or.2 ⟨Nat.not_lt.2 ht, hp⟩
  show execWaymarkPulseEnd n s = _
  simp only [execWaymarkPulseEnd, h, if_neg hends]

end Waymarks

section Captures
variable (s : State) (n : Fin 8)

/-- An edge that the input takes is added to its FIFO of 8 with the instant (R347). -/
theorem exec_captureEdge_taken (falling : Bool) (hen : s.on (CAP_CTL.EN n.val) = true)
    (hedge : (s.get (CAP_CTL.EDGE n.val)).testBit falling.toNat = true) (hroom : (tget [] n.val s.tm.cap).length < 8) :
    exec (.captureEdge n falling false) s = .next (s.setCap n.val (tget [] n.val s.tm.cap ++
      [(falling, s.tm.frac / 2 ^ 30, s.tm.sec, s.tm.ns)])) :=
  congrArg Host.Outcome.next ((if_neg (by simp [hen, hedge])).trans (if_neg (Nat.not_le.2 hroom)))

theorem exec_capPop_open (p : Path) (hb : s.behind p = false) :
    exec (.capPop p n) s = .next ((s.capPop n.val).emit (.access p (CAP_POP n.val) 0
      ((s.capPop n.val).reg (CAP_POP n.val)))) :=
  congrArg Host.Outcome.next (s.ordered_open _ _ hb rfl)

end Captures

section Measurement
variable (s : State)

section Conversion
variable (code : BitVec 16) {ch : Nat}

/-- A conversion samples its channel at its own instant, 500 ns after the one before; the last of a scan also ends the scan. -/
theorem exec_measureConversion_sample {rest : List Nat} (h : s.tm.ms.todo = ch :: rest) :
    exec (.measureConversion code) s = .next
      (let t := s.tm.ms.trig + 500 * s.tm.ms.done
       if rest ≠ [] then s.sample ch code.toNat t rest else (s.sample ch code.toNat t rest).scanEnd t) := by
  show execMeasureConversion code s = _
  simp only [execMeasureConversion, h]

theorem exec_measureConversion_notLast {rest : List Nat} (h : s.tm.ms.todo = ch :: rest) (hr : rest ≠ []) :
    exec (.measureConversion code) s =
      .next (s.sample ch code.toNat (s.tm.ms.trig + 500 * s.tm.ms.done) rest) :=
  (exec_measureConversion_sample s code h).trans (congrArg Host.Outcome.next (if_pos hr))

theorem exec_measureConversion_last (h : s.tm.ms.todo = [ch]) :
    exec (.measureConversion code) s = .next ((s.sample ch code.toNat (s.tm.ms.trig + 500 * s.tm.ms.done) []).scanEnd
      (s.tm.ms.trig + 500 * s.tm.ms.done)) :=
  (exec_measureConversion_sample s code h).trans (congrArg Host.Outcome.next (if_neg (not_not.2 rfl)))

end Conversion

theorem exec_measureCellFlush_due {x : Nat × Nat × Nat} {rest : List (Nat × Nat × Nat)}
    (h : s.tm.ms.samples = x :: rest) (ht : x.1 + 8192 ≤ s.nowNs) :
    exec .measureCellFlush s = .next s.flushSamples := by
  show execMeasureCellFlush s = _
  simp only [execMeasureCellFlush, h, if_pos (Or.inr ht)]

end Measurement

/-- Settles O47, one lemma for each command that the state decides on; a write of a Waymark register is `State.wmWrite` by
definition. -/
theorem waymarkAndMeasureCommands : Obligations.WaymarkAndMeasureCommands :=
  ⟨fun _ _ _ _ => rfl, -- WAYMARK_WRITE
    fun n _ s h ht hp => exec_waymarkInstant_due s n ht hp h,
    fun n _ s h ht hp => exec_waymarkPulseEnd_due s n ht hp h,
    fun n falling s => exec_captureEdge_taken s n falling,
    fun p n s => exec_capPop_open s n p,
    fun code _ _ s => exec_measureConversion_notLast s code,
    fun code _ s => exec_measureConversion_last s code,
    fun _ _ s => exec_measureCellFlush_due s⟩

end Sys2Proof.Machine
end

section
/-! The words of the Compositor ISA (R361 to R364): what each instruction's word decodes to, what a word that decodes encodes
to, and which words are illegal (R362). -/

namespace Sys2Proof

open Machine

theorem guardWord_eq_some {ok : Bool} {i j : Instr} : guardWord ok i = some j ↔ ok = true ∧ i = j := by
  cases ok <;> simp [guardWord]

/-! ### The tail of a word: small fields with zeros above them -/

section Tails
variable {j k l : Nat} (z : BitVec l) (x : BitVec j) (y : BitVec k)

theorem append_low : (x ++ y).extractLsb' 0 k = y := BitVec.extractLsb'_append_eq_right

theorem append_high : (x ++ y).extractLsb' k j = x := BitVec.extractLsb'_append_eq_left

theorem append_middle : (z ++ x ++ y).extractLsb' k j = x := by
  rw [BitVec.extractLsb'_append_eq_of_le (Nat.le_refl k), Nat.sub_self, append_low]

theorem zeroAppend_toNat : (0#l ++ y).toNat = y.toNat := by simp

theorem zeroAppend_append_toNat : (0#l ++ x ++ y).toNat = x.toNat * 2 ^ k + y.toNat := by
  rw [BitVec.toNat_append, zeroAppend_toNat, ← Nat.shiftLeft_add_eq_or_of_lt y.isLt, Nat.shiftLeft_eq]

theorem eq_zeroAppend {v : BitVec (l + k)} (h : v.extractLsb' k l = 0#l) : v = 0#l ++ v.extractLsb' 0 k := by
  rw [← h, BitVec.extractLsb'_append_extractLsb']

theorem eq_zeroAppend_append {v : BitVec (l + j + k)} (h : v.extractLsb' (k + j) l = 0#l) :
    v = 0#l ++ v.extractLsb' k j ++ v.extractLsb' 0 k := by
  have hu : v.extractLsb' k (l + j) = 0#l ++ v.extractLsb' k j := by
    rw [← h, BitVec.extractLsb'_append_extractLsb'_eq_extractLsb' rfl]
  rw [← hu, BitVec.extractLsb'_append_extractLsb']

end Tails

/-- BEXT and BINS have zeros above their two fields of 5 bits. -/
theorem bitField_unused (x y : BitVec 5) : (0#4 ++ x ++ y).extractLsb' 10 4 = 0#4 := by
  have := x.isLt
  have := y.isLt
  apply BitVec.eq_of_toNat_eq
  rw [field_toNat, zeroAppend_append_toNat, BitVec.toNat_zero]
  omega

/-- SEND has zeros above its two fields of 4 bits. -/
theorem mailField_unused (x y : BitVec 4) : (0#6 ++ x ++ y).extractLsb' 8 6 = 0#6 := by
  have := x.isLt
  have := y.isLt
  apply BitVec.eq_of_toNat_eq
  rw [field_toNat, zeroAppend_append_toNat, BitVec.toNat_zero]
  omega

/-! ### A word is known by its fields -/

section Fields
variable {w : Word} {op : BitVec 6} {rd ra rb : GReg} {fn : BitVec 14} {imm : BitVec 18}
  (h0 : (w.extractLsb' 26 6).toNat = op.toNat) (h1 : w.extractLsb' 22 4 = rd) (h2 : w.extractLsb' 18 4 = ra)
include h0 h1 h2

theorem rWord_of_fields (h3 : w.extractLsb' 14 4 = rb) (h4 : w.extractLsb' 0 14 = fn) : rWord op rd ra rb fn = w := by
  rw [← BitVec.eq_of_toNat_eq h0, ← h1, ← h2, ← h3, ← h4, rWord_fields]

theorem iWord_of_fields (h3 : w.extractLsb' 0 18 = imm) : iWord op rd ra imm = w := by
  rw [← BitVec.eq_of_toNat_eq h0, ← h1, ← h2, ← h3, iWord_fields]

end Fields

theorem rWord_opNat (op : BitVec 6) (rd ra rb : GReg) (fn : BitVec 14) : (rWord op rd ra rb fn).toNat / 2 ^ 26 = op.toNat := by
  rw [rWord_toNat]
  omega

theorem iWord_opNat (op : BitVec 6) (rd ra : GReg) (imm : BitVec 18) : (iWord op rd ra imm).toNat / 2 ^ 26 = op.toNat := by
  rw [iWord_toNat]
  omega

theorem iWord_condNat (op : BitVec 6) (c ra : GReg) (imm : BitVec 18) : (iWord op c ra imm).toNat / 2 ^ 22 % 16 = c.toNat := by
  rw [iWord_toNat]
  omega

/-- Settles O6. The opcode of the word picks the arm of the decoder: an instruction of the immediate format with a full
immediate comes back by its fields, every other one by its fields and its guard. -/
theorem engineWordsRoundTrip : Obligations.EngineWordsRoundTrip := by
  intro i n ecc h hw
  unfold engineOf at h
  split at h
  case h_48 => cases h; exact .inl ⟨_, rfl⟩ -- an illegal word
  case h_49 => cases h -- a command of another unit
  all_goals
    cases h
    delta Instr.wellFormed at hw
    dsimp only at hw
    refine .inr ⟨_, rfl, ?_⟩
    unfold decodeEngine
    first | rw [rWord_op] | rw [iWord_op] -- the format of the instruction
  case h_17 | h_18 | h_19 | h_20 | h_25 | h_26 | h_27 | h_28 | h_29 | h_30 | h_31 | h_32 => -- a full immediate
    exact congrArg some (by rw [iWord_rd, iWord_ra, iWord_imm])
  all_goals
    refine guardWord_eq_some.2 ?_
    simp only [rWord_rd, rWord_ra, rWord_rb, rWord_fn, iWord_rd, iWord_ra, iWord_imm, append_low, append_high, append_middle,
      bitField_unused, mailField_unused, hw]
    decide

/-- Settles O7. The guard of a decoder's arm says that the fields which the instruction does not carry are 0, so the word is put
together again from the ones it carries. -/
theorem engineWordsHaveOneReading : Obligations.EngineWordsHaveOneReading := by
  intro n ecc w i h
  unfold decodeEngine at h
  split at h
  case h_48 => cases h
  case h_17 | h_18 | h_19 | h_20 | h_25 | h_26 | h_27 | h_28 | h_29 | h_30 | h_31 | h_32 => -- a full immediate
    rename_i hop
    cases h
    exact ⟨congrArg some (iWord_of_fields hop rfl rfl rfl), rfl, rfl⟩
  all_goals
    rename_i hop
    obtain ⟨hok, rfl⟩ := guardWord_eq_some.1 h
  case h_46 | h_47 => exact ⟨congrArg some (iWord_of_fields hop rfl rfl rfl), hok, rfl⟩ -- B, BAL
  all_goals
    simp only [Bool.and_eq_true, beq_iff_eq, and_assoc] at hok
  case h_21 | h_22 | h_23 => -- a shift by an immediate
    exact ⟨congrArg some (iWord_of_fields hop rfl rfl (eq_zeroAppend hok)), rfl, rfl⟩
  case h_24 => exact ⟨congrArg some (iWord_of_fields hop rfl hok rfl), rfl, rfl⟩ -- LUI
  case h_1 | h_2 | h_3 | h_4 | h_5 | h_6 | h_7 | h_8 | h_9 | h_10 | h_11 | h_12 | h_13 | h_14 | h_33 => -- three registers
    exact ⟨congrArg some (rWord_of_fields hop rfl rfl rfl hok), rfl, rfl⟩
  case h_15 | h_16 => -- BEXT, BINS
    obtain ⟨hrb, hfn⟩ := hok
    exact ⟨congrArg some (rWord_of_fields hop rfl rfl hrb (eq_zeroAppend_append (l := 4) (j := 5) (k := 5) hfn)), rfl, rfl⟩
  case h_34 => -- SEND
    exact ⟨congrArg some (rWord_of_fields hop rfl rfl rfl (eq_zeroAppend_append (l := 6) (j := 4) (k := 4) hok)), rfl, rfl⟩
  case h_37 | h_38 => -- TBL, HASH
    exact ⟨congrArg some (rWord_of_fields hop rfl rfl rfl (eq_zeroAppend hok)), rfl, rfl⟩
  case h_35 => -- RECV
    obtain ⟨hrd, hra, hrb, hfn⟩ := hok
    exact ⟨congrArg some (rWord_of_fields hop rfl hra hrb (eq_zeroAppend hfn)), hrd, rfl⟩
  case h_36 => -- WAIT
    obtain ⟨hrb, hfn⟩ := hok
    exact ⟨congrArg some (rWord_of_fields hop rfl rfl hrb hfn), rfl, rfl⟩
  case h_39 => -- CRC
    obtain ⟨hfn, halg⟩ := hok
    exact ⟨congrArg some (rWord_of_fields hop rfl rfl rfl (eq_zeroAppend hfn)), halg, rfl⟩
  case h_40 => -- TIME
    obtain ⟨hra, hrb, hfn⟩ := hok
    exact ⟨congrArg some (rWord_of_fields hop rfl hra hrb (eq_zeroAppend hfn)), rfl, rfl⟩
  case h_42 => -- CSRR
    obtain ⟨hra, hrb, hfn, hcsr⟩ := hok
    exact ⟨congrArg some (rWord_of_fields hop rfl hra hrb (eq_zeroAppend hfn)), hcsr, rfl⟩
  case h_43 => -- CSRW
    obtain ⟨hrd, hrb, hfn, hcsr⟩ := hok
    exact ⟨congrArg some (rWord_of_fields hop hrd rfl hrb (eq_zeroAppend hfn)), hcsr, rfl⟩
  case h_41 | h_44 | h_45 => -- YIELD, FENCE, KICK
    obtain ⟨hrd, hra, hrb, hfn⟩ := hok
    exact ⟨congrArg some (rWord_of_fields hop hrd hra hrb hfn), rfl, rfl⟩

/-- Settles O8: the decoder evaluated on the six words. -/
theorem engineWordsOfTheSpec : Obligations.EngineWordsOfTheSpec := by
  unfold Obligations.EngineWordsOfTheSpec
  decide

/-! ### Illegal words (R362) -/

section Illegal
variable {i : Instr} {w : Word} (h : encodeEngine i = some w)
include h

/-- The opcode of an instruction is assigned. -/
theorem op_of_encodeEngine : w.toNat / 2 ^ 26 < 0x2D ∨ w.toNat / 2 ^ 26 = 0x30 ∨ w.toNat / 2 ^ 26 = 0x31 := by
  unfold encodeEngine at h
  split at h
  case h_48 => cases h
  all_goals
    cases h
    simp only [rWord_opNat, iWord_opNat]
    decide

/-- The condition of a well-formed branch is not reserved. -/
theorem cond_of_encodeEngine (hw : i.wellFormed = true) (hop : w.toNat / 2 ^ 26 = 0x30 ∨ w.toNat / 2 ^ 26 = 0x31) :
    w.toNat / 2 ^ 22 % 16 < 7 := by
  unfold encodeEngine at h
  split at h
  case h_48 => cases h
  case h_46 | h_47 => -- B, BAL
    cases h
    rw [iWord_condNat]
    exact of_decide_eq_true hw
  all_goals
    cases h
    simp only [rWord_opNat, iWord_opNat] at hop
    exact absurd hop (by decide)

/-- An instruction sets no bit in a field that it does not use. -/
theorem unusedBitSet_of_encodeEngine : unusedBitSet (w.toNat / 2 ^ 26) w = false := by
  unfold encodeEngine at h
  split at h
  case h_48 => cases h
  all_goals
    cases h
    rw [unusedBitSet]
    simp only [rWord_opNat, iWord_opNat]
    simp only [rWord_toNat, iWord_toNat, zeroAppend_toNat, zeroAppend_append_toNat]
    simp <;> omega

end Illegal

/-- Settles O9: a word that decodes is the word of an instruction, and that word is not illegal; an illegal one faults. -/
theorem illegalWordsFault : Obligations.IllegalWordsFault := by
  refine ⟨fun n ecc w hill => ?_, fun n ecc w s hd hc hs => ?_⟩
  · by_contra hne
    obtain ⟨i, hi⟩ := Option.ne_none_iff_exists'.1 hne
    obtain ⟨henc, hw, -⟩ := engineWordsHaveOneReading n ecc w i hi
    have hop := op_of_encodeEngine henc
    obtain h | ⟨h, hcond⟩ | h := hill
    · omega
    · have := cond_of_encodeEngine henc hw h
      omega
    · exact absurd (unusedBitSet_of_encodeEngine henc) (by rw [h]; decide)
  · obtain ⟨h1, h2⟩ := hc
    dsimp only [exec, execIllegalOp]
    rw [s.engRun_clean _ h1 h2 hs, if_pos hd]

end Sys2Proof
end

section
/-! The instructions of the Compositor engines, a law for each (R356, R360 to R374). -/

namespace Sys2Proof.Machine

/-! ### What the check bits of the fetch and the state of the engine decide (R360, R380) -/

/-- Settles O16: every instruction is one run of its engine, and a run looks at the check bits of the fetched word first. -/
theorem badFetchFaultsAnyInstruction : Obligations.BadFetchFaultsAnyInstruction := by
  intro i n s hi hs
  obtain ⟨f, hf⟩ := exec_engRun hi
  rw [hf]
  exact congrArg Host.Outcome.next (if_neg (not_not.2 hs))

/-- Settles O17: every instruction is one run of its engine, and an engine that is not in the running state makes none. That a
command is given to such an engine at all is notes/assumptions/1.md and 64.md. -/
theorem stoppedEngineExecutesNothing : Obligations.StoppedEngineExecutesNothing := by
  intro i n ecc s hi hs
  obtain ⟨f, hf⟩ := exec_engRun hi
  rw [hf]
  exact congrArg Host.Outcome.next (if_pos hs)

section Running
variable (s : State) {n : EngNo} {ecc : Ecc} (h1 : ecc ≠ .badFetch) (h2 : ecc ≠ .fixedFetch)
  (hs : s.get (ENG_STATUS.STATE n.val) = 1)

/-! ### Register and immediate arithmetic (R363) -/

section Arithmetic
variable (rd ra rb : GReg) (imm : BitVec 18)
include h1 h2 hs

theorem State.engAlu_clean (v : State → Word) :
    s.engAlu n ecc rd v = .next ((s.engDone n.val).setG n.val rd (v s)) := s.engRun_clean _ h1 h2 hs

theorem State.engOp3_clean (f : Word → Word → Word) : s.engOp3 n ecc rd ra rb f =
    .next ((s.engDone n.val).setG n.val rd (f (s.engG n.val ra) (s.engG n.val rb))) :=
  s.engAlu_clean h1 h2 hs rd fun s => f (s.engG n.val ra) (s.engG n.val rb)

theorem State.engOpI_clean (f : Word → Word → Word) : s.engOpI n ecc rd ra imm f =
    .next ((s.engDone n.val).setG n.val rd (f (s.engG n.val ra) (imm.signExtend 32))) :=
  s.engAlu_clean h1 h2 hs rd fun s => f (s.engG n.val ra) (imm.signExtend 32)

theorem State.engField_within {lsb w : BitVec 5} (v : State → Word) (h : lsb.toNat + w.toNat < 32) :
    s.engField n ecc rd lsb w v = .next ((s.engDone n.val).setG n.val rd (v s)) :=
  (s.engRun_clean _ h1 h2 hs).trans (congrArg Host.Outcome.next (if_pos h))

/-- A field past bit 31 leaves a free value (notes/assumptions/61.md). -/
theorem State.engField_beyond {lsb w : BitVec 5} (v : State → Word) (h : 32 ≤ lsb.toNat + w.toNat) :
    s.engField n ecc rd lsb w v =
      .next (((s.engDone n.val).setG n.val rd (BitVec.ofNat 32 (s.engDone n.val).free)).usedFree) :=
  (s.engRun_clean _ h1 h2 hs).trans (congrArg Host.Outcome.next (if_neg (Nat.not_lt.2 h)))

/-- The field of BEXT (R363). -/
def bextValue (n : Nat) (ra : GReg) (lsb w : BitVec 5) (s : State) : Word :=
  BitVec.ofNat 32 (wordField (s.engG n ra) (lsb.toNat + w.toNat) lsb.toNat)

/-- The word that BINS makes (R363). -/
def binsValue (n : Nat) (rd ra : GReg) (lsb w : BitVec 5) (s : State) : Word :=
  setWordField (s.engG n rd) (lsb.toNat + w.toNat) lsb.toNat (s.engG n ra).toNat

end Arithmetic

end Running

/-- Settles O56: each form is `State.engOp3` with its operation. -/
theorem aluRegisterCommands : Obligations.AluRegisterCommands :=
  ⟨fun _ _ rd ra rb s h1 h2 hs => s.engOp3_clean h1 h2 hs rd ra rb (· + ·), -- ADD
    fun _ _ rd ra rb s h1 h2 hs => s.engOp3_clean h1 h2 hs rd ra rb (· - ·), -- SUB
    fun _ _ rd ra rb s h1 h2 hs => s.engOp3_clean h1 h2 hs rd ra rb (· &&& ·), -- AND
    fun _ _ rd ra rb s h1 h2 hs => s.engOp3_clean h1 h2 hs rd ra rb (· ||| ·), -- OR
    fun _ _ rd ra rb s h1 h2 hs => s.engOp3_clean h1 h2 hs rd ra rb (· ^^^ ·), -- XOR
    fun _ _ rd ra rb s h1 h2 hs => s.engOp3_clean h1 h2 hs rd ra rb fun a b => a <<< (b.toNat % 32), -- SLL
    fun _ _ rd ra rb s h1 h2 hs => s.engOp3_clean h1 h2 hs rd ra rb fun a b => a >>> (b.toNat % 32), -- SRL
    fun _ _ rd ra rb s h1 h2 hs => s.engOp3_clean h1 h2 hs rd ra rb fun a b => a.sshiftRight (b.toNat % 32), -- SRA
    fun _ _ rd ra rb s h1 h2 hs => s.engOp3_clean h1 h2 hs rd ra rb fun a b => boolWord (a.slt b), -- SLT
    fun _ _ rd ra rb s h1 h2 hs => s.engOp3_clean h1 h2 hs rd ra rb fun a b => boolWord (a.ult b), -- SLTU
    fun _ _ rd ra rb s h1 h2 hs => s.engOp3_clean h1 h2 hs rd ra rb (· * ·), -- MUL
    fun _ _ rd ra rb s h1 h2 hs => s.engOp3_clean h1 h2 hs rd ra rb mulhu, -- MULHU
    fun _ _ rd ra rb s h1 h2 hs => s.engOp3_clean h1 h2 hs rd ra rb divu, -- DIVU
    fun _ _ rd ra rb s h1 h2 hs => s.engOp3_clean h1 h2 hs rd ra rb remu⟩ -- REMU

/-- Settles O57: each form is `State.engAlu` with its operation, the bit fields are `State.engField`. What a field past bit 31
gives is notes/assumptions/61.md. -/
theorem aluImmediateCommands : Obligations.AluImmediateCommands :=
  ⟨fun _ _ rd ra imm s h1 h2 hs => s.engOpI_clean h1 h2 hs rd ra imm (· + ·), -- ADDI
    fun _ _ rd ra imm s h1 h2 hs => s.engOpI_clean h1 h2 hs rd ra imm (· &&& ·), -- ANDI
    fun _ _ rd ra imm s h1 h2 hs => s.engOpI_clean h1 h2 hs rd ra imm (· ||| ·), -- ORI
    fun _ _ rd ra imm s h1 h2 hs => s.engOpI_clean h1 h2 hs rd ra imm (· ^^^ ·), -- XORI
    fun _ _ rd ra imm s h1 h2 hs => s.engOpI_clean h1 h2 hs rd ra imm fun a i => boolWord (a.slt i), -- SLTI
    fun n _ rd ra sh s h1 h2 hs => s.engAlu_clean h1 h2 hs rd fun s => s.engG n.val ra <<< sh.toNat, -- SLLI
    fun n _ rd ra sh s h1 h2 hs => s.engAlu_clean h1 h2 hs rd fun s => s.engG n.val ra >>> sh.toNat, -- SRLI
    fun n _ rd ra sh s h1 h2 hs => s.engAlu_clean h1 h2 hs rd fun s => (s.engG n.val ra).sshiftRight sh.toNat, -- SRAI
    fun _ _ rd imm s h1 h2 hs => s.engAlu_clean h1 h2 hs rd fun _ => imm.setWidth 32 <<< 14, -- LUI
    fun n _ rd ra lsb w s h1 h2 hs => s.engField_within h1 h2 hs rd (bextValue n.val ra lsb w), -- BEXT
    fun n _ rd ra lsb w s h1 h2 hs => s.engField_beyond h1 h2 hs rd (bextValue n.val ra lsb w),
    fun n _ rd ra lsb w s h1 h2 hs => s.engField_within h1 h2 hs rd (binsValue n.val rd ra lsb w), -- BINS
    fun n _ rd ra lsb w s h1 h2 hs => s.engField_beyond h1 h2 hs rd (binsValue n.val rd ra lsb w)⟩

end Sys2Proof.Machine
end

section
/-! Memory, jumps and the units of the Compositor engines (R354 to R373). -/

namespace Sys2Proof.Machine

/-! ### Loads, stores and CAS (R354, R363, R365, R373) -/

theorem engPlace_caseMem {a : Nat} (h1 : 0x100000 ≤ a) (h2 : a < 0x200000) : engPlace a = .caseMem (a - 0x100000) := by
  rw [engPlace, if_neg (by omega), if_pos ⟨h1, h2⟩]

theorem engPlace_eq_caseMem {a o : Nat} (h : engPlace a = .caseMem o) : 0x100000 ≤ a ∧ a < 0x200000 ∧ o = a - 0x100000 := by
  unfold engPlace at h
  split at h
  · cases h
  · split at h
    case isTrue hc => exact ⟨hc.1, hc.2, (EngPlace.caseMem.inj h).symm⟩
    case isFalse => split at h <;> [skip; split at h] <;> cases h

section Access
variable (s : State) (n : EngNo) {a : Word} {k o : Nat}

section Load
variable (rd : GReg) (hc : s.engCheck n.val a.toNat k false = (none, s))
include hc

theorem State.engLoadFrom_sram (hp : engPlace a.toNat = .sram o) : State.engLoadFrom n .clean rd k s a =
    (s.engDone n.val).setG n.val rd (BitVec.ofNat 32 (leNat (memBytes s.engSram (0x8000 * n.val + o) k))) := by
  simp only [State.engLoadFrom, hc, hp, State.engLoaded]

theorem State.engLoadFrom_caseMem (hp : engPlace a.toNat = .caseMem o) : State.engLoadFrom n .clean rd k s a =
    ((s.caseRead o k).2.engDone n.val).setG n.val rd (BitVec.ofNat 32 (s.caseRead o k).1) := by
  simp only [State.engLoadFrom, hc, hp, State.engLoaded]

end Load

section Store
variable (w : Word)

theorem State.engStoreTo_sram (hc : s.engCheck n.val a.toNat k true = (none, s)) (hp : engPlace a.toNat = .sram o) :
    State.engStoreTo n k w s a =
      { s.engDone n.val with engSram := memWrite s.engSram (0x8000 * n.val + o) (leBytes k w.toNat) } := by
  simp only [State.engStoreTo, hc, hp]

theorem State.engStoreTo_caseMem (hc : s.engCheck n.val a.toNat k true = (none, s)) (hp : engPlace a.toNat = .caseMem o) :
    State.engStoreTo n k w s a = (s.engDone n.val).caseWrite o k (w.toNat % 2 ^ (8 * k)) := by
  simp only [State.engStoreTo, hc, hp]

theorem State.engStoreTo_fault {c : Nat} {t : State} (hc : s.engCheck n.val a.toNat k true = (some c, t)) :
    State.engStoreTo n k w s a = t.engineFault n.val c := by
  simp only [State.engStoreTo, hc]

end Store
end Access

section Running
variable (s : State) {n : EngNo} {ecc : Ecc} (h1 : ecc ≠ .badFetch) (h2 : ecc ≠ .fixedFetch)
  (hs : s.get (ENG_STATUS.STATE n.val) = 1)
include h1 h2 hs

section Access
variable (rd ra : GReg) (imm : BitVec 18)

theorem exec_sw_clean : exec (.sw n ecc rd ra imm) s = .next (State.engStoreTo n 4 (s.engG n.val rd) s (s.engAddr n ra imm)) :=
  s.engRun_clean (fun s => State.engStoreTo n 4 (s.engG n.val rd) s (s.engAddr n ra imm)) h1 h2 hs

theorem exec_sh_clean : exec (.sh n ecc rd ra imm) s = .next (State.engStoreTo n 2 (s.engG n.val rd) s (s.engAddr n ra imm)) :=
  s.engRun_clean (fun s => State.engStoreTo n 2 (s.engG n.val rd) s (s.engAddr n ra imm)) h1 h2 hs

theorem exec_sb_clean : exec (.sb n ecc rd ra imm) s = .next (State.engStoreTo n 1 (s.engG n.val rd) s (s.engAddr n ra imm)) :=
  s.engRun_clean (fun s => State.engStoreTo n 1 (s.engG n.val rd) s (s.engAddr n ra imm)) h1 h2 hs

end Access

section Cas
variable (rd ra rb : GReg) {o : Nat}

theorem exec_cas_denied (hp : engPlace (s.engG n.val ra).toNat = .caseMem o)
    (hd : (s.engG n.val ra).toNat % 4 ≠ 0 ∨ s.userDenied n.val (.caseMem o) true = true) :
    exec (.cas n ecc rd ra rb) s = .next (s.engineFault n.val 3) := by
  dsimp only [exec, execCas]
  simp only [s.engRun_clean _ h1 h2 hs, hp, if_pos hd]

theorem exec_cas_notCase (hp : ∀ o, engPlace (s.engG n.val ra).toNat ≠ .caseMem o) :
    exec (.cas n ecc rd ra rb) s = .next (s.engineFault n.val 3) := by
  dsimp only [exec, execCas]
  rw [s.engRun_clean _ h1 h2 hs]
  split
  · exact absurd ‹_› (hp _)
  · rfl

end Cas

/-! ### Jumps and branches (R363, R364) -/

section Jump
variable (link c rd ra : GReg) (off imm : BitVec 18)

omit h1 h2 hs in
theorem State.engJump_inBank {t : Int} (h : 0 ≤ t ∧ t ≤ 0x3FFC ∧ t % 4 = 0) :
    s.engJump n.val link t = ((s.engCount n.val).setG n.val link (BitVec.ofNat 32 ((s.engine n.val).pc + 4))).setEngine n.val
      fun e => { e with pc := t.toNat } := if_pos h

omit h1 h2 hs in
theorem State.engBranch_taken (hc : condHolds c (s.engG n.val ra) = some true) :
    s.engBranch n.val link c ra off = s.engJump n.val link ((s.engine n.val).pc + off.toInt * 4) := by
  simp only [State.engBranch, hc]

omit h1 h2 hs in
theorem State.engBranch_notTaken (hc : condHolds c (s.engG n.val ra) = some false) :
    s.engBranch n.val link c ra off = s.engDone n.val := by
  simp only [State.engBranch, hc]

theorem exec_b_clean : exec (.b n ecc c ra off) s = .next (s.engBranch n.val 0 c ra off) :=
  s.engRun_clean (fun s => s.engBranch n.val 0 c ra off) h1 h2 hs

theorem exec_bal_clean : exec (.bal n ecc c ra off) s = .next (s.engBranch n.val 15 c ra off) :=
  s.engRun_clean (fun s => s.engBranch n.val 15 c ra off) h1 h2 hs

theorem exec_jalr_clean : exec (.jalr n ecc rd ra imm) s =
    .next (s.engJump n.val rd ((s.engG n.val ra + imm.signExtend 32 * 4).toNat : Int)) :=
  s.engRun_clean (fun s => s.engJump n.val rd ((s.engG n.val ra + imm.signExtend 32 * 4).toNat : Int)) h1 h2 hs

theorem exec_yield_clean : exec (.yield n ecc) s = .next ((s.engCount n.val).engYield n.val) :=
  s.engRun_clean (fun s => (s.engCount n.val).engYield n.val) h1 h2 hs

theorem exec_kick_clean : exec (.kick n ecc) s =
    .next ((s.engDone n.val).setEngine n.val fun e => { e with wdtAt := s.tm.tick }) :=
  s.engRun_clean (fun s => (s.engDone n.val).setEngine n.val fun e => { e with wdtAt := s.tm.tick }) h1 h2 hs

theorem exec_fence_clean : exec (.fence n ecc) s = .next (s.engDone n.val) :=
  s.engRun_clean (fun s => s.engDone n.val) h1 h2 hs

theorem exec_illegalOp_clean {w : Word} (hd : decodeEngine n ecc w = none) :
    exec (.illegalOp n ecc w) s = .next (s.engineFault n.val 1) := by
  dsimp only [exec, execIllegalOp]
  rw [s.engRun_clean _ h1 h2 hs, if_pos hd]

end Jump

/-! ### Mailboxes and events (R366, R367) -/

section Mail
variable (rd ra rb : GReg) (tgt mbx : BitVec 4)

theorem exec_send_clean : exec (.send n ecc rd ra rb tgt mbx) s =
    .next (let r := s.sendMail tgt.toNat mbx.toNat (s.engG n.val ra, s.engG n.val rb)
      (r.2.engDone n.val).setG n.val rd (BitVec.ofNat 32 r.1)) := by
  dsimp only [exec, execSend]
  rw [s.engRun_clean _ h1 h2 hs]

section Recv
variable (hr : recvReg rd = true)
include hr

theorem exec_recv_taken {t : State} (ht : s.takeMail n.val rd.toNat mbx.toNat = some t) :
    exec (.recv n ecc rd mbx) s = .next t := by
  dsimp only [exec, execRecv]
  simp only [s.engRun_clean _ h1 h2 hs, hr, ht, Bool.not_true, Bool.false_eq_true, if_false]

theorem exec_recv_empty (ht : s.takeMail n.val rd.toNat mbx.toNat = none) :
    exec (.recv n ecc rd mbx) s = .next (s.engWait n.val (.recv rd.toNat mbx.toNat)) := by
  dsimp only [exec, execRecv]
  simp only [s.engRun_clean _ h1 h2 hs, hr, ht, Bool.not_true, Bool.false_eq_true, if_false]

end Recv

theorem exec_wait_taken (h : s.engEvents n.val &&& (s.engG n.val ra).toNat ≠ 0 ∨ (s.engG n.val ra).toNat = 0) :
    exec (.wait n ecc rd ra) s = .next (s.takeEvents n.val rd (s.engEvents n.val &&& (s.engG n.val ra).toNat)) := by
  dsimp only [exec, execWait]
  rw [s.engRun_clean _ h1 h2 hs, if_pos h]

theorem exec_wait_waits (h : s.engEvents n.val &&& (s.engG n.val ra).toNat = 0) (hm : (s.engG n.val ra).toNat ≠ 0) :
    exec (.wait n ecc rd ra) s = .next (s.engWait n.val (.event rd.toNat (s.engG n.val ra).toNat)) := by
  dsimp only [exec, execWait]
  rw [s.engRun_clean _ h1 h2 hs, if_neg (not_or.2 ⟨not_not.2 h, hm⟩)]

end Mail

/-! ### Tables, hashes, checksums, time and CSRs (R368 to R371) -/

section Units
variable (rd ra rb : GReg)

section Table
variable (d : BitVec 3)

theorem exec_tbl_inside (ha : (s.engG n.val ra).toNat < wordField (s.engTbl n.val (2 * d.toNat + 1)) 31 16)
    (hb : (s.engG n.val rb).toNat < wordField (s.engTbl n.val (2 * d.toNat + 1)) 15 0) :
    exec (.tbl n ecc rd ra rb d) s = .next ((s.engDone n.val).setG n.val rd (BitVec.ofNat 32
      (0x100000 + wordField (s.engTbl n.val (2 * d.toNat)) 19 0 +
        (s.engG n.val ra).toNat * wordField (s.engTbl n.val (2 * d.toNat + 1)) 15 0 + (s.engG n.val rb).toNat))) := by
  dsimp only [exec, execTbl]
  rw [s.engRun_clean _ h1 h2 hs, if_neg (by omega)]

theorem exec_tbl_outside (h : wordField (s.engTbl n.val (2 * d.toNat + 1)) 31 16 ≤ (s.engG n.val ra).toNat ∨
    wordField (s.engTbl n.val (2 * d.toNat + 1)) 15 0 ≤ (s.engG n.val rb).toNat) :
    exec (.tbl n ecc rd ra rb d) s = .next (s.engineFault n.val 4) := by
  dsimp only [exec, execTbl]
  rw [s.engRun_clean _ h1 h2 hs, if_pos h]

end Table

theorem exec_hash_clean (sel : BitVec 1) : exec (.hash n ecc rd ra rb sel) s =
    .next ((s.engDone n.val).setG n.val rd
      (let a := beBytes 4 (s.engG n.val ra).toNat
       let b := beBytes 4 (s.engG n.val rb).toNat
       BitVec.ofNat 32 (if sel = 0 then crc8 (b.drop 3 ++ a) else crc32c (b ++ a)))) := by
  dsimp only [exec, execHash]
  rw [s.engAlu_clean h1 h2 hs]

theorem exec_csrr_known {csr : BitVec 8} (hk : csrKnown csr.toNat = true) : exec (.csrr n ecc rd csr) s =
    .next ((s.engDone n.val).setG n.val rd (BitVec.ofNat 32 (s.csrRead n.val csr.toNat))) := by
  dsimp only [exec, execCsrr]
  rw [s.engRun_clean _ h1 h2 hs, if_pos hk]

theorem exec_csrw_known {csr : BitVec 8} (hk : csrKnown csr.toNat = true) : exec (.csrw n ecc ra csr) s =
    .next ((s.engDone n.val).csrWrite n.val csr.toNat (s.engG n.val ra)) := by
  dsimp only [exec, execCsrw]
  rw [s.engRun_clean _ h1 h2 hs, if_pos hk]

theorem exec_time_ns : exec (.time n ecc rd 0) s =
    .next (((s.engDone n.val).setG n.val rd (BitVec.ofNat 32 s.tm.ns)).setEngine n.val
      fun e => { e with latched := (s.tm.sec, s.tm.frac / 2 ^ 16) }) := by
  dsimp only [exec, execTime]
  exact s.engRun_clean _ h1 h2 hs

theorem exec_time_sec : exec (.time n ecc rd 1) s =
    .next ((s.engDone n.val).setG n.val rd (BitVec.ofNat 32 (s.engine n.val).latched.1)) := by
  dsimp only [exec, execTime]
  exact s.engRun_clean _ h1 h2 hs

theorem exec_time_hi : exec (.time n ecc rd 2) s = .next ((s.engDone n.val).setG n.val rd
    (BitVec.ofNat 32 ((s.engine n.val).latched.1 / 2 ^ 32 * 2 ^ 16 + (s.engine n.val).latched.2))) := by
  dsimp only [exec, execTime]
  exact s.engRun_clean _ h1 h2 hs

theorem exec_time_milestone : exec (.time n ecc rd 3) s =
    .next ((s.engDone n.val).setG n.val rd (BitVec.ofNat 32 (s.get IMP_MS.MS_NUM))) := by
  dsimp only [exec, execTime]
  exact s.engRun_clean _ h1 h2 hs

end Units

end Running

section Clean
variable (s : State) {n : EngNo} (hs : s.get (ENG_STATUS.STATE n.val) = 1) (rd ra rb : GReg) {o : Nat}
include hs

theorem State.engRun_allClean (f : State → State) : s.engRun n .clean f = .next (f s) := s.engRun_clean f nofun nofun hs

section Load
variable (imm : BitVec 18)

theorem exec_lw_clean : exec (.lw n .clean rd ra imm) s = .next (State.engLoadFrom n .clean rd 4 s (s.engAddr n ra imm)) :=
  s.engRun_allClean hs (fun s => State.engLoadFrom n .clean rd 4 s (s.engAddr n ra imm))

theorem exec_lhu_clean : exec (.lhu n .clean rd ra imm) s = .next (State.engLoadFrom n .clean rd 2 s (s.engAddr n ra imm)) :=
  s.engRun_allClean hs (fun s => State.engLoadFrom n .clean rd 2 s (s.engAddr n ra imm))

theorem exec_lbu_clean : exec (.lbu n .clean rd ra imm) s = .next (State.engLoadFrom n .clean rd 1 s (s.engAddr n ra imm)) :=
  s.engRun_allClean hs (fun s => State.engLoadFrom n .clean rd 1 s (s.engAddr n ra imm))

end Load

/-- CAS reads, gives the old word, and writes where the old word is the expected one (R365). -/
theorem exec_cas_swap (hp : engPlace (s.engG n.val ra).toNat = .caseMem o) (ha : (s.engG n.val ra).toNat % 4 = 0)
    (hu : s.userDenied n.val (.caseMem o) true = false) : exec (.cas n .clean rd ra rb) s =
    .next (let r := s.caseRead o 4
      let t := (r.2.engDone n.val).setG n.val rd (BitVec.ofNat 32 r.1)
      if r.1 == (r.2.engG n.val rd).toNat then t.caseWrite o 4 (r.2.engG n.val rb).toNat else t) := by
  dsimp only [exec, execCas]
  simp only [s.engRun_allClean hs, hp, ha, hu, State.engLoaded, ne_eq, not_true_eq_false,
    Bool.false_eq_true, or_self, if_false]

/-- CRC over a range that lies in data SRAM (R369). -/
theorem exec_crc_sram {alg : BitVec 2} (halg : alg ≠ 3) (hp : engPlace (s.engG n.val ra).toNat = .sram o)
    (hr : o + (s.engG n.val rb).toNat ≤ 0x8000) (hl : (s.engG n.val rb).toNat ≤ 4096) :
    exec (.crc n .clean rd ra rb alg) s = .next ((s.engDone n.val).setG n.val rd (BitVec.ofNat 32
      (crcRun alg.toNat (s.engG n.val rd).toNat (memBytes s.engSram (0x8000 * n.val + o) (s.engG n.val rb).toNat)))) := by
  dsimp only [exec, execCrc]
  simp only [s.engRun_allClean hs, hp, if_neg halg, if_neg (Nat.not_lt.2 hr), State.engLoaded,
    State.engCrc, decide_eq_true hl, if_true, Nat.min_eq_left hl]

end Clean

/-! ### Wake-ups (R366, R367) -/

section Wake
variable (s : State) (n : EngNo) {rd : Nat}

theorem exec_recvWake_message {mbx : Nat} {t : State} (hw : (s.engine n.val).waiting = some (.recv rd mbx))
    (ht : s.takeMail n.val rd mbx = some t) : exec (.recvWake n) s = .next (t.put (ENG_STATUS.STATE n.val) 1) := by
  show execRecvWake n s = _
  simp only [execRecvWake, hw, ht]

theorem exec_waitWake_event {mask : Nat} (hw : (s.engine n.val).waiting = some (.event rd mask))
    (he : s.engEvents n.val &&& mask ≠ 0) : exec (.waitWake n) s =
    .next ((s.takeEvents n.val (BitVec.ofNat 4 rd) (s.engEvents n.val &&& mask)).put (ENG_STATUS.STATE n.val) 1) := by
  show execWaitWake n s = _
  simp only [execWaitWake, hw, if_pos he]

end Wake

/-- Settles O58: an access that the checks pass is `State.engLoadFrom` or `State.engStoreTo` at its place. -/
theorem loadStoreCommands : Obligations.LoadStoreCommands :=
  ⟨fun n rd ra imm _ s hs hc hp => (exec_lw_clean s hs rd ra imm).trans
      (congrArg Host.Outcome.next (s.engLoadFrom_sram n rd hc hp)),
    fun n rd ra imm _ s hs hc hp => (exec_lhu_clean s hs rd ra imm).trans
      (congrArg Host.Outcome.next (s.engLoadFrom_sram n rd hc hp)),
    fun n rd ra imm _ s hs hc hp => (exec_lbu_clean s hs rd ra imm).trans
      (congrArg Host.Outcome.next (s.engLoadFrom_sram n rd hc hp)),
    fun n _ rd ra imm _ s h1 h2 hs hc hp => (exec_sw_clean s h1 h2 hs rd ra imm).trans
      (congrArg Host.Outcome.next (s.engStoreTo_sram n _ hc hp)),
    fun n _ rd ra imm _ s h1 h2 hs hc hp => (exec_sh_clean s h1 h2 hs rd ra imm).trans
      (congrArg Host.Outcome.next (s.engStoreTo_sram n _ hc hp)),
    fun n _ rd ra imm _ s h1 h2 hs hc hp => (exec_sb_clean s h1 h2 hs rd ra imm).trans
      (congrArg Host.Outcome.next (s.engStoreTo_sram n _ hc hp)),
    fun n rd ra imm _ s hs hc hp => (exec_lw_clean s hs rd ra imm).trans
      (congrArg Host.Outcome.next (s.engLoadFrom_caseMem n rd hc hp)),
    fun n rd ra imm _ s hs hc hp => (exec_lhu_clean s hs rd ra imm).trans
      (congrArg Host.Outcome.next (s.engLoadFrom_caseMem n rd hc hp)),
    fun n rd ra imm _ s hs hc hp => (exec_lbu_clean s hs rd ra imm).trans
      (congrArg Host.Outcome.next (s.engLoadFrom_caseMem n rd hc hp)),
    fun n _ rd ra imm _ s h1 h2 hs hc hp => (exec_sw_clean s h1 h2 hs rd ra imm).trans
      (congrArg Host.Outcome.next (s.engStoreTo_caseMem n _ hc hp)),
    fun n _ rd ra imm _ s h1 h2 hs hc hp => (exec_sh_clean s h1 h2 hs rd ra imm).trans
      (congrArg Host.Outcome.next (s.engStoreTo_caseMem n _ hc hp)),
    fun n _ rd ra imm _ s h1 h2 hs hc hp => (exec_sb_clean s h1 h2 hs rd ra imm).trans
      (congrArg Host.Outcome.next (s.engStoreTo_caseMem n _ hc hp)),
    fun _ rd ra rb _ s hs hp ha hu => exec_cas_swap s hs rd ra rb hp ha hu⟩

/-- Settles O59. FENCE only completes because stores are complete when they issue (notes/assumptions/69.md). -/
theorem controlFlowCommands : Obligations.ControlFlowCommands :=
  ⟨fun _ _ c ra off s h1 h2 hs hc ht => (exec_b_clean s h1 h2 hs c ra off).trans
      (congrArg Host.Outcome.next ((s.engBranch_taken 0 c ra off hc).trans (s.engJump_inBank 0 ht))),
    fun _ _ c ra off s h1 h2 hs hc => (exec_b_clean s h1 h2 hs c ra off).trans
      (congrArg Host.Outcome.next (s.engBranch_notTaken 0 c ra off hc)),
    fun _ _ c ra off s h1 h2 hs hc ht => (exec_bal_clean s h1 h2 hs c ra off).trans
      (congrArg Host.Outcome.next ((s.engBranch_taken 15 c ra off hc).trans (s.engJump_inBank 15 ht))),
    fun _ _ c ra off s h1 h2 hs hc => (exec_bal_clean s h1 h2 hs c ra off).trans
      (congrArg Host.Outcome.next (s.engBranch_notTaken 15 c ra off hc)),
    fun _ _ rd ra imm s h1 h2 hs hle h4 => (exec_jalr_clean s h1 h2 hs rd ra imm).trans
      (congrArg Host.Outcome.next (s.engJump_inBank rd ⟨by omega, by omega, by omega⟩)),
    fun _ _ s => exec_yield_clean s,
    fun _ _ s => exec_kick_clean s,
    fun _ _ s => exec_fence_clean s,
    fun _ _ _ s h1 h2 hs => exec_illegalOp_clean s h1 h2 hs⟩

/-- Settles O60, one lemma for each command. -/
theorem engineUnitCommands : Obligations.EngineUnitCommands :=
  ⟨fun _ _ rd ra rb tgt mbx s h1 h2 hs => exec_send_clean s h1 h2 hs rd ra rb tgt mbx,
    fun _ _ rd mbx _ s h1 h2 hs hr => exec_recv_taken s h1 h2 hs rd mbx hr,
    fun _ _ rd mbx s h1 h2 hs hr => exec_recv_empty s h1 h2 hs rd mbx hr,
    fun _ _ rd ra s h1 h2 hs => exec_wait_taken s h1 h2 hs rd ra,
    fun _ _ rd ra s h1 h2 hs => exec_wait_waits s h1 h2 hs rd ra,
    fun n _ _ _ s => exec_recvWake_message s n,
    fun n _ _ s => exec_waitWake_event s n,
    fun _ _ rd ra rb d s h1 h2 hs => exec_tbl_inside s h1 h2 hs rd ra rb d,
    fun _ _ rd ra rb d s h1 h2 hs => exec_tbl_outside s h1 h2 hs rd ra rb d,
    fun _ _ rd ra rb s h1 h2 hs => exec_hash_clean s h1 h2 hs rd ra rb 0,
    fun _ _ rd ra rb s h1 h2 hs => exec_hash_clean s h1 h2 hs rd ra rb 1,
    fun _ rd ra rb _ _ s hs => exec_crc_sram s hs rd ra rb,
    fun _ _ rd s h1 h2 hs => exec_time_sec s h1 h2 hs rd,
    fun _ _ rd s h1 h2 hs => exec_time_hi s h1 h2 hs rd,
    fun _ _ rd s h1 h2 hs => exec_time_milestone s h1 h2 hs rd,
    fun _ _ rd s h1 h2 hs => exec_time_ns s h1 h2 hs rd,
    fun _ _ rd _ s h1 h2 hs => exec_csrr_known s h1 h2 hs rd,
    fun _ _ ra _ s h1 h2 hs => exec_csrw_known s h1 h2 hs ra⟩

end Sys2Proof.Machine
end

section
/-! What the instructions of an engine change and leave unchanged: frames of computing instructions and stores, CAS, the table
address, mailboxes, and where a USER engine is kept out (R354, R360 to R373). -/

namespace Sys2Proof.Machine

/-! ### Bytes of a memory -/

theorem leNat_lt (bs : List Byte) : leNat bs < 2 ^ (8 * bs.length) := by
  induction bs with
  | nil => simp [leNat]
  | cons b bs ih =>
    have hb := b.isLt
    have he : 2 ^ (8 * (bs.length + 1)) = 256 * 2 ^ (8 * bs.length) := by rw [Nat.mul_add, Nat.pow_add]; omega
    have hc : leNat (b :: bs) = leNat bs * 256 + b.toNat := rfl
    rw [List.length_cons, he, hc]
    omega

theorem length_memBytes (m : List Host.Cell) (a k : Nat) : (memBytes m a k).length = k := by simp [memBytes]

theorem leBytes_mod (k v : Nat) : leBytes k (v % 2 ^ (8 * k)) = leBytes k v := by
  induction k generalizing v with
  | zero => rfl
  | succ k ih =>
    have he : 2 ^ (8 * (k + 1)) = 256 * 2 ^ (8 * k) := by rw [Nat.mul_add, Nat.pow_add]; omega
    rw [he, leBytes, leBytes, Nat.mod_mul_right_div_self, ih]
    congr 1
    apply BitVec.eq_of_toNat_eq
    rw [BitVec.toNat_ofNat, BitVec.toNat_ofNat, Nat.mod_mul_right_mod]

/-- The written bytes read back. -/
theorem memBytes_memWrite (m : List Host.Cell) (a : Nat) (bs : List Byte) : memBytes (memWrite m a bs) a bs.length = bs := by
  refine List.ext_getElem (length_memBytes _ _ _) fun i hi _ => ?_
  rw [length_memBytes] at hi
  simp only [memBytes, List.getElem_map, List.getElem_range, tget_memWrite]
  rw [if_pos (by omega), Nat.add_sub_cancel_left, List.getD_eq_getElem _ _ hi]

theorem memBytes_memWrite_leBytes (m : List Host.Cell) (a k v : Nat) :
    memBytes (memWrite m a (leBytes k v)) a k = leBytes k v := by
  have h := memBytes_memWrite m a (leBytes k v)
  rwa [length_leBytes] at h

/-! ### What an engine's step leaves -/

section Step
variable {n : Nat} {s t : State} (h : EngineStep n s t)
include h

theorem EngineStep.mail (m : Nat) : (t.engine m).mail = (s.engine m).mail := by
  by_cases hm : m = n
  · subst hm
    have hr := h.rest
    unfold sameEngineRest at hr
    have hmail := congrArg Engine.mail hr
    exact hmail
  · rw [h.others m hm]

theorem EngineStep.caseMem : t.caseMem = s.caseMem := by
  have := h.memories
  simp only [sameMemories] at this
  tauto

end Step

section Running
variable {s : State} {n : EngNo} {ecc : Ecc}

/-! ### Instructions that only compute a register (R363, R369) -/

/-- An instruction that only computes a register completes and writes it; a bit field past bit 31 uses a free value for it. -/
theorem exec_aluDest {i : Instr} {rd : GReg} (hi : engineOf i = some (n, ecc)) (hd : aluDest i = some rd) (hc : fetchesClean ecc)
    (hs : s.get (ENG_STATUS.STATE n.val) = 1) :
    ∃ w, exec i s = .next ((s.engDone n.val).setG n.val rd w) ∨ exec i s = .next ((s.engDone n.val).setG n.val rd w).usedFree := by
  obtain ⟨h1, h2⟩ := hc
  unfold aluDest at hd
  split at hd
  case h_27 => cases hd
  case h_15 | h_16 =>
    cases hi
    cases hd
    rename_i lsb w
    dsimp only [exec, execBext, execBins]
    obtain h | h := Nat.lt_or_ge (lsb.toNat + w.toNat) 32
    · exact ⟨_, .inl (s.engField_within h1 h2 hs _ _ h)⟩
    · exact ⟨_, .inr (s.engField_beyond h1 h2 hs _ _ h)⟩
  all_goals
    cases hi
    cases hd
    dsimp only [exec, execAdd, execSub, execAnd, execOr, execXor, execSll, execSrl, execSra, execSlt, execSltu, execMul, execMulhu,
      execDivu, execRemu, execAddi, execAndi, execOri, execXori, execSlli, execSrli, execSrai, execLui, execSlti, execHash,
      State.engOp3, State.engOpI]
    exact ⟨_, .inl (s.engAlu_clean h1 h2 hs _ _)⟩

theorem State.engDone_setG_step (s : State) (n : Nat) (rd : GReg) (w : Word) : EngineStep n s ((s.engDone n).setG n rd w) :=
  (s.engDone_step n).trans (State.setG_step _ n rd w)

theorem State.engDone_setG_engG (s : State) (n : Nat) (rd j : GReg) (w : Word) :
    ((s.engDone n).setG n rd w).engG n j = if j = rd then (if rd = 0 then 0 else w) else s.engG n j := by
  rw [State.setG_engG, State.engDone_engG]

/-- Settles O18. Completing and writing a register is a step of one engine; so is the use of a free value. -/
theorem computingInstructionsFrame : Obligations.ComputingInstructionsFrame := by
  intro i n ecc rd s t hi hd hc hs ht
  obtain ⟨w, h⟩ := exec_aluDest hi hd hc hs
  have hstep := s.engDone_setG_step n.val rd w
  have hg := fun j => s.engDone_setG_engG n.val rd j w
  obtain ⟨hst, hgt⟩ : EngineStep n.val s t ∧ ∀ j, t.engG n.val j = ((s.engDone n.val).setG n.val rd w).engG n.val j := by
    obtain h | h := h
    · cases ht.symm.trans h
      exact ⟨hstep, fun _ => rfl⟩
    · cases ht.symm.trans h
      exact ⟨hstep.trans (State.usedFree_step _ n.val), fun _ => rfl⟩
  exact ⟨fun k hk => by rw [hgt, hg, if_neg hk], State.engG_zero t n.val, hst.rest, hst.others, hst.reg, hst.memories, hst.units⟩

/-! ### Stores (R354, R363, R373) -/

/-- A store that runs is `State.engStoreTo` with its bytes and its address. -/
theorem exec_storeForm {i : Instr} {k : Nat} {ra rd : GReg} {imm : BitVec 18} (hi : engineOf i = some (n, ecc))
    (hf : storeForm i = some (k, ra, imm, rd)) (hc : fetchesClean ecc) (hs : s.get (ENG_STATUS.STATE n.val) = 1) :
    exec i s = .next (State.engStoreTo n k (s.engG n.val rd) s (s.engAddr n ra imm)) := by
  obtain ⟨h1, h2⟩ := hc
  unfold storeForm at hf
  split at hf
  case h_1 => cases hi; cases hf; exact exec_sw_clean s h1 h2 hs _ _ _
  case h_2 => cases hi; cases hf; exact exec_sh_clean s h1 h2 hs _ _ _
  case h_3 => cases hi; cases hf; exact exec_sb_clean s h1 h2 hs _ _ _
  case h_4 => cases hf

/-- An aligned access to a place that there is passes, unless a USER engine is denied it. -/
theorem State.engCheck_pass {n a k : Nat} {write : Bool} (hp : engPlace a ≠ .nothing)
    (hu : s.userDenied n (engPlace a) write = false) (ha : a % k = 0) : s.engCheck n a k write = (none, s) := by
  simp [State.engCheck, hp, hu, ha]

theorem State.engCheck_denied {n a k : Nat} {write : Bool} (hu : s.userDenied n (engPlace a) write = true) (ha : a % k = 0) :
    s.engCheck n a k write = (some 3, s) := by
  simp [State.engCheck, hu, ha]

theorem State.userDenied_sram (n o : Nat) (write : Bool) : s.userDenied n (.sram o) write = false := by
  simp [State.userDenied]

/-- A write of plain Case memory is a write of its bytes. -/
theorem State.caseWrite_plain (o k v : Nat) (h4 : 4 ≤ o) (hsh : o < 0x80000 ∨ 0xB4000 ≤ o) (hr : o < 0xF0000 ∨ 0xF8000 ≤ o) :
    s.caseWrite o k v = s.setCase o k v := by
  rw [State.caseWrite, if_neg (by omega), if_neg (by omega), if_neg (by omega)]

/-- Settles O19. A store that the checks pass completes, which is a step of one engine, and writes its bytes into one memory. -/
theorem storeFrame : Obligations.StoreFrame := by
  intro i n ecc k ra rd imm s hi hf hc hs ha
  have hrun := exec_storeForm hi hf hc hs
  have hstep := s.engDone_step n.val
  have hmem := hstep.memories
  simp only [sameMemories] at hmem
  refine ⟨fun o hp => ?_, fun o hp hu h4 hsh hr => ?_⟩
  · have hpass := s.engCheck_pass (write := true) (by simp [hp]) (by rw [hp]; exact s.userDenied_sram n.val o true) ha
    refine ⟨_, hrun.trans (congrArg Host.Outcome.next (s.engStoreTo_sram n _ hpass hp)), memBytes_memWrite_leBytes _ _ _ _,
      fun x hx => tget_memWrite_of_outside _ _ ?_, s.engDone_engG n.val, hstep.others, ?_, hstep.units, hstep.reg⟩
    · rwa [length_leBytes]
    · simp [sameMemories, hmem]
  · have hpass := s.engCheck_pass (write := true) (by simp [hp]) (by rw [hp]; exact hu) ha
    refine ⟨(s.engDone n.val).setCase o k ((s.engG n.val rd).toNat % 2 ^ (8 * k)),
      hrun.trans (congrArg Host.Outcome.next ((s.engStoreTo_caseMem n _ hpass hp).trans
        (State.caseWrite_plain _ _ _ h4 hsh hr))), ?_, fun x hx => ?_, s.engDone_engG n.val, hstep.others, ?_, hstep.units, hstep.reg⟩
    · rw [← leBytes_mod]
      exact memBytes_memWrite_leBytes _ _ _ _
    · rw [← hstep.caseMem]
      exact tget_memWrite_of_outside _ _ (by rwa [length_leBytes])
    · simp [sameMemories, State.setCase, hmem]

/-! ### A USER engine (R373) -/

theorem State.userDenied_caseMem {n o : Nat} (hu : s.get (ENG_STATUS.ROLE_NOW n) = 6) (ho : o < 0x30000 ∨ 0x50000 ≤ o) :
    s.userDenied n (.caseMem o) true = true := by
  have : ¬ (0x30000 ≤ o ∧ o < 0x50000) := by omega
  simp [State.userDenied, hu, this]

/-- Settles O20. CAS faults before it compares, even where the words differ (notes/assumptions/67.md); which cause a misaligned
store off the area has is left open (62.md). -/
theorem userEngineIsKeptOut : Obligations.UserEngineIsKeptOut := by
  intro n ecc rd ra rb imm s hc hs hu
  refine ⟨fun i k hi o hp ho ha => ?_, fun o hp ho => ?_⟩
  · have hrun : exec i s = .next (State.engStoreTo n k (s.engG n.val rd) s (s.engAddr n ra imm)) := by
      obtain ⟨rfl, rfl⟩ | ⟨rfl, rfl⟩ | ⟨rfl, rfl⟩ := hi <;> exact exec_storeForm rfl rfl hc hs
    have hd := s.engCheck_denied (k := k) (by rw [hp]; exact State.userDenied_caseMem hu ho) ha
    exact hrun.trans (congrArg Host.Outcome.next (s.engStoreTo_fault n _ hd))
  · exact exec_cas_denied s hc.1 hc.2 hs rd ra rb hp (.inr (State.userDenied_caseMem hu ho))

/-! ### CAS (R365) -/

theorem State.caseRead_lt (o k : Nat) : (s.caseRead o k).1 < 2 ^ (8 * k) := by
  unfold State.caseRead
  split
  · exact Nat.mod_lt _ (Nat.two_pow_pos _)
  · have h := leNat_lt (memBytes s.caseMem o k)
    rwa [length_memBytes] at h

theorem State.caseRead_engG (o k m : Nat) (r : GReg) : (s.caseRead o k).2.engG m r = s.engG m r := by
  unfold State.caseRead
  split <;> rfl

/-- Settles O11. A word is below 2^32, so it equals rd as a number where it does as a word. -/
theorem compareAndSwapRule : Obligations.CompareAndSwapRule := by
  intro n ecc rd ra rb s hc hs
  refine ⟨fun h1 h2 h4 hu hecc => ?_, fun h => ?_⟩
  · subst hecc
    have hsame : ((s.caseRead ((s.engG n.val ra).toNat - 0x100000) 4).1 == (s.engG n.val rd).toNat) = true ↔
        BitVec.ofNat 32 (s.caseRead ((s.engG n.val ra).toNat - 0x100000) 4).1 = s.engG n.val rd := by
      rw [beq_iff_eq, ← BitVec.toNat_inj, BitVec.toNat_ofNat, Nat.mod_eq_of_lt (State.caseRead_lt _ 4)]
    rw [exec_cas_swap s hs rd ra rb (engPlace_caseMem h1 h2) h4 hu]
    simp only [State.caseRead_engG, hsame]
  · by_cases hp : ∃ o, engPlace (s.engG n.val ra).toNat = .caseMem o
    · obtain ⟨o, hp⟩ := hp
      obtain ⟨h1, h2, -⟩ := engPlace_eq_caseMem hp
      exact exec_cas_denied s hc.1 hc.2 hs rd ra rb hp (.inl fun h4 => h ⟨h1, h2, h4⟩)
    · exact exec_cas_notCase s hc.1 hc.2 hs rd ra rb (not_exists.1 hp)

/-! ### Tables (R368) -/

/-- Settles O10. -/
theorem tableAddressRule : Obligations.TableAddressRule := by
  intro n ecc rd ra rb d s hc hs
  refine ⟨fun h => ⟨_, exec_tbl_inside s hc.1 hc.2 hs rd ra rb d h.1 h.2, ?_, fun k hk => ?_, ?_, ?_⟩,
    exec_tbl_outside s hc.1 hc.2 hs rd ra rb d⟩
  · rw [State.engDone_setG_engG, if_pos rfl]
  · rw [State.engDone_setG_engG, if_neg hk]
  · exact (s.engDone_setG_step n.val rd _).memories
  · exact (s.engDone_setG_step n.val rd _).units

/-! ### Mailboxes (R366) -/

theorem State.sendMail_room {tgt mb m : Nat} {w : Word × Word} (hm : s.mailTarget tgt = some m)
    (hl : (tget [] mb (s.engine m).mail).length < 8) : (s.sendMail tgt mb w).1 = 0 ∧
      tget [] mb ((s.sendMail tgt mb w).2.engine m).mail = tget [] mb (s.engine m).mail ++ [w] := by
  simp [State.sendMail, hm, hl]

/-- Taking a message leaves the rest of its mailbox, completes the instruction and writes two registers. -/
theorem State.takeMail_message {n rd mb : Nat} {w : Word × Word} {rest : List (Word × Word)}
    (hq : tget [] mb (s.engine n).mail = w :: rest) :
    ∃ u : State, s.takeMail n rd mb =
        some (((u.engDone n).setG n (BitVec.ofNat 4 rd) w.1).setG n (BitVec.ofNat 4 (rd + 1)) w.2) ∧
      tget [] mb (u.engine n).mail = rest := by
  simp only [State.takeMail, hq]
  refine ⟨_, rfl, ?_⟩
  rw [State.put_engine, State.setEngine_engine_self, tget_tput_self]

/-- The two registers of RECV are two, and neither is g0. -/
theorem recvReg_pair (rd : GReg) (h : recvReg rd = true) :
    rd ≠ 0 ∧ rd + 1 ≠ 0 ∧ rd ≠ rd + 1 ∧ BitVec.ofNat 4 rd.toNat = rd ∧ BitVec.ofNat 4 (rd.toNat + 1) = rd + 1 := by
  revert rd
  decide

/-- Settles O22. What completes an instruction and writes a register keeps every mailbox. -/
theorem mailboxOrder : Obligations.MailboxOrder := by
  refine ⟨fun n ecc rd ra rb tgt mbx m s hc hs hm hl => ?_, fun n ecc rd mbx m rest s hc hs hr hq => ?_⟩
  · obtain ⟨hst, hmail⟩ := State.sendMail_room (w := (s.engG n.val ra, s.engG n.val rb)) hm hl
    refine ⟨_, exec_send_clean s hc.1 hc.2 hs rd ra rb tgt mbx, ?_, ?_⟩
    · dsimp only
      rw [(State.engDone_setG_step _ n.val rd _).mail m, hmail]
    · dsimp only
      rw [State.engDone_setG_engG, if_pos rfl, hst]
      exact ite_self 0
  · obtain ⟨u, ht, hmail⟩ := State.takeMail_message (n := n.val) (rd := rd.toNat) hq
    obtain ⟨h0, h1, hne, hrd, hrd1⟩ := recvReg_pair rd hr
    rw [hrd, hrd1] at ht
    refine ⟨_, exec_recv_taken s hc.1 hc.2 hs rd mbx hr ht, ?_, ?_, ?_⟩
    · rw [(State.setG_step _ n.val (rd + 1) _).mail, (State.engDone_setG_step _ n.val rd _).mail, hmail]
    · rw [State.setG_engG, if_neg hne, State.engDone_setG_engG, if_pos rfl, if_neg h0]
    · rw [State.setG_engG, if_pos rfl, if_neg h1]

end Running

end Sys2Proof.Machine
end

section
/-! What acts on an engine from outside: timers, watchdog, restarts, program copies, banks and posts (R366 to R382). -/

namespace Sys2Proof.Machine

section Outside
variable (s : State) (n : EngNo)

theorem exec_engineTimerExpiry_due {t : Nat} (h : (s.engine n.val).timer = some t) (ht : t ≤ s.nowNs) :
    exec (.engineTimerExpiry n) s = .next ((s.setEngine n.val fun e => { e with timer := none }).latch n.val 18) := by
  show execEngineTimerExpiry n s = _
  simp only [execEngineTimerExpiry, h, if_pos ht]

theorem exec_watchdogExpiry_due (hl : s.engLive n.val = true) (hd : s.wdtDue n.val = true) :
    exec (.watchdogExpiry n) s = .next (s.engineFault n.val 7) := congrArg Host.Outcome.next (if_pos ⟨hl, hd⟩)

theorem exec_engineFaultRestart_usable (hf : (s.engine n.val).faulted = true) (hu : s.engUsable n.val = true) :
    exec (.engineFaultRestart n) s = .next (s.engStart n.val 2) := congrArg Host.Outcome.next (if_pos ⟨hf, hu⟩)

theorem exec_noyield_overdue (h : 4 < (s.engine n.val).swMs) :
    exec (.noyield n) s = .next (s.raise (ENG_EVENT.NOYIELD n.val)) := congrArg Host.Outcome.next (if_pos h)

theorem exec_loadDone_loading {slot bank : Nat} (h : (s.engine n.val).loading = some (slot, bank)) :
    exec (.loadDone n) s = .next (((s.copySlot n.val slot bank).setEngine n.val fun e => { e with loading := none }).put
      (ENG_STATUS.LOAD_BUSY n.val) 0) := by
  show execLoadDone n s = _
  simp only [execLoadDone, h]

theorem exec_bankWindowWrite_here (word : Fin 4096) (w : Word) (hh : s.engHere n.val = true)
    (hp : s.on (ENG_STATUS.SW_PEND n.val) = false) : exec (.bankWindowWrite n word w) s = .next
      { s with engBank := memWrite s.engBank (bankBase n.val (s.freeBank n.val) + 4 * word.val) (leBytes 4 w.toNat) } :=
  congrArg Host.Outcome.next ((if_pos hh).trans (if_neg (by simp [hp])))

theorem exec_mailboxPost_delivered (w1 : Word) (hh : s.engHere n.val = true)
    (h0 : (s.sendMail n.val (s.get (ENG_MBX_CTL.POST_MBX n.val)) (s.reg (ENG_MBX_W0 n.val), w1)).1 = 0) :
    exec (.mailboxPost n w1) s = .next ((s.sendMail n.val (s.get (ENG_MBX_CTL.POST_MBX n.val))
      (s.reg (ENG_MBX_W0 n.val), w1)).2.put (ENG_MBX_CTL.POST_ST n.val) 0) := by
  refine congrArg Host.Outcome.next ((if_pos hh).trans ?_)
  simp only [State.postMail, h0, if_true]

/-- A command in `ENG_CMD` of an engine that is there, on a path that holds custody, answers its effect and status 0. -/
theorem State.next_custodyCmd_open {p : Path} {a : Nat} (c : Instr) (g : State → State) (hb : s.behind p = false)
    (hx : s.blockExcluded a = false) (hc : s.hasCustody p = true) :
    (.next (s.custodyCmd p a c g) : Result) = .next ((g s).emit (.access p a 0 0)) :=
  congrArg Host.Outcome.next (s.custodyCmd_open c g hb hx hc)

end Outside

/-- Settles O48. A command of the custodian is one `State.custodyCmd` on `ENG_CMD` or on a register of the Forme control block;
each other command has its lemma. That expiries wait for the clock is notes/assumptions/72.md, that NOYIELD counts whole
Milestones 78.md. -/
theorem engineServiceCommands : Obligations.EngineServiceCommands :=
  ⟨fun n _ s => exec_engineTimerExpiry_due s n,
    fun n s => exec_watchdogExpiry_due s n,
    fun n s => exec_engineFaultRestart_usable s n,
    fun n s => exec_noyield_overdue s n,
    fun _ _ _ s => s.next_custodyCmd_open _ _, -- LOAD
    fun n _ _ s => exec_loadDone_loading s n,
    fun _ _ s => s.next_custodyCmd_open _ _, -- RESTART
    fun _ _ s => s.next_custodyCmd_open _ _, -- RETIRE
    fun n word w s => exec_bankWindowWrite_here s n word w,
    fun n w1 s => exec_mailboxPost_delivered s n w1,
    fun _ _ s => s.next_custodyCmd_formeBlock _ _ rfl, -- ARM
    fun _ s => s.next_custodyCmd_formeBlock _ _ rfl, -- DISARM
    fun _ _ s => s.next_custodyCmd_formeBlock _ _ rfl, -- STAGE
    fun _ _ s => s.next_custodyCmd_formeBlock _ _ rfl, -- VERIFY
    fun _ s => s.next_custodyCmd_formeBlock _ _ rfl, -- SHADOW_RESET
    fun _ s => s.next_custodyCmd_formeBlock _ _ rfl, -- COMMIT
    fun _ s => s.next_custodyCmd_formeBlock _ _ rfl, -- REVERT
    fun _ _ _ s => s.next_custodyCmd_formeBlock _ _ rfl, -- MARK
    fun _ s => s.next_custodyCmd_formeBlock _ _ rfl, -- CLR_ATTEMPTS
    fun _ _ s => s.next_custodyCmd_formeBlock _ _ rfl, -- FLASH_COMMAND
    fun _ _ s => s.next_custodyCmd_formeBlock _ _ rfl, -- PROG
    fun _ _ s => s.next_custodyCmd_formeBlock _ _ rfl⟩ -- REVOKE

end Sys2Proof.Machine
end

section
/-! What a fault of an engine records (R380, R381), and who may write a forme-control register (R387, R441). -/

namespace Sys2Proof.Machine

/-! ### What an event raised leaves as it was (R545) -/

/-- A field that no notice to the custodian changes: a notice goes into a mailbox, or is counted and raised as dropped. -/
def keptByNotice (g : Fld) : Prop := ∀ m, g.addr ≠ ENG_MBX_STAT m ∧ (g.addr ≠ ENG_EVENT m ∨ g.hi < 7 ∨ 7 < g.lo)

/-- What an engine holds beside its mailboxes. -/
def sameButMail (e f : Engine) : Prop := { f with mail := e.mail } = e

theorem sameButMail.refl (e : Engine) : sameButMail e e := rfl

theorem sameButMail.g {e f : Engine} (h : sameButMail e f) : f.g = e.g := by
  unfold sameButMail at h
  have hg := congrArg Engine.g h
  exact hg

theorem sameButMail.faults {e f : Engine} (h : sameButMail e f) : f.faults = e.faults := by
  unfold sameButMail at h
  have hf := congrArg Engine.faults h
  exact hf

section Raise
variable (s : State) {g : Fld} (hg : keptByNotice g)

theorem State.sendMail_get {n mb : Nat} {w : Word × Word} (hg : keptByNotice g) : (s.sendMail n mb w).2.get g = s.get g := by
  unfold State.sendMail
  split
  · rfl
  · dsimp only
    split
    · exact (State.put_get_of_apart _ (.inl (hg _).1) _).trans (State.setEngine_get _ _ _ _)
    · rfl

theorem State.notice_get (w0 w1 : Nat) (hg : keptByNotice g) : (s.notice w0 w1).get g = s.get g := by
  unfold State.notice
  dsimp only
  split
  · exact s.sendMail_get hg
  · rw [State.put_get_of_apart _ (by obtain ⟨-, h⟩ := hg (s.get FC_CUSTODY.HOLDER); tauto), State.inc_get_of_apart _ (.inl (hg _).1),
      s.sendMail_get hg]

theorem State.gained_get (src eng : Nat) (hg : keptByNotice g) : (s.gained src eng).get g = s.get g := by
  have hr (t : State) : ((t.sendMsix src).driveInt).get g = t.get g := by
    simp only [State.get, State.reg, State.driveInt_regs, State.sendMsix_regs]
  unfold State.gained State.when
  dsimp only
  rw [hr]
  split
  · exact s.notice_get _ _ hg
  · rfl

/-- A raised event changes its own bit and what a notice changes. -/
theorem State.raise_get_of_apart {f : Fld} (h : g.addr ≠ f.addr ∨ f.hi < g.lo ∨ g.hi < f.lo) (hg : keptByNotice g) :
    (s.raise f).get g = s.get g := by
  obtain e | ⟨src, eng, e⟩ := s.raise_cases f
  · rw [e, State.put_get_of_apart s h]
  · rw [e, State.gained_get _ _ _ hg, State.unreport, State.setSvc_get, State.put_get_of_apart s h]

theorem State.raise_get_self {f : Fld} (hf : f.hi < 32) (hg : keptByNotice f) :
    (s.raise f).get f = 1 % 2 ^ (f.hi + 1 - f.lo) := by
  obtain e | ⟨src, eng, e⟩ := s.raise_cases f
  · rw [e, State.put_get s f hf]
  · rw [e, State.gained_get _ _ _ hg, State.unreport, State.setSvc_get, State.put_get s f hf]

theorem State.sendMail_sameButMail (n mb m : Nat) (w : Word × Word) :
    sameButMail (s.engine m) ((s.sendMail n mb w).2.engine m) := by
  unfold State.sendMail
  split
  · exact sameButMail.refl _
  · rename_i k _
    dsimp only
    split
    · rw [State.put_engine]
      by_cases hm : m = k
      · subst hm
        rw [State.setEngine_engine_self]
        rfl
      · rw [State.setEngine_engine_ne s hm]
        exact sameButMail.refl _
    · exact sameButMail.refl _

theorem State.notice_sameButMail (w0 w1 m : Nat) : sameButMail (s.engine m) ((s.notice w0 w1).engine m) := by
  unfold State.notice
  dsimp only
  split
  · exact s.sendMail_sameButMail _ _ _ _
  · rw [State.put_engine, State.inc_engine]
    exact s.sendMail_sameButMail _ _ _ _

theorem State.sendMsix_engine (src m : Nat) : (s.sendMsix src).engine m = s.engine m := by
  unfold State.sendMsix
  dsimp only
  split
  · split <;> rfl
  · rfl

theorem State.driveInt_engine (m : Nat) : s.driveInt.engine m = s.engine m := by
  unfold State.driveInt
  dsimp only
  split <;> rfl

theorem State.gained_sameButMail (src eng m : Nat) : sameButMail (s.engine m) ((s.gained src eng).engine m) := by
  unfold State.gained State.when
  dsimp only
  rw [State.driveInt_engine, State.sendMsix_engine]
  split
  · exact s.notice_sameButMail _ _ _
  · exact sameButMail.refl _

/-- A raised event changes no engine but for mailboxes. -/
theorem State.raise_sameButMail (f : Fld) (m : Nat) : sameButMail (s.engine m) ((s.raise f).engine m) := by
  obtain e | ⟨src, eng, e⟩ := s.raise_cases f
  · rw [e, State.put_engine]
    exact sameButMail.refl _
  · rw [e]
    exact State.gained_sameButMail _ src eng m

end Raise

theorem sameBut.memories {s t : State} (h : sameBut s t) : sameMemories s t := by
  unfold sameBut at h
  unfold sameMemories
  tauto

theorem State.log_memories (s : State) (source kind detail word3 : Nat) : sameMemories s (s.log source kind detail word3) := by
  rw [State.log_eq]
  simp [sameMemories]

/-! ### A fault (R381) -/

section Fault
variable (s : State) (n : EngNo) (cause : Nat)

/-- The fields that a fault writes or that decide what follows it, at an engine. -/
theorem keptByNotice_engine {g : Fld} (h : g.addr = ENG_FAULT n ∨ g.addr = ENG_STATUS n ∨ g.addr = ENG_ROLE n ∨ g = ENG_EVENT.FAULT n) :
    keptByNotice g := by
  intro m
  obtain h | h | h | rfl := h
  all_goals
    simp only [ENG_FAULT, ENG_STATUS, ENG_ROLE, ENG_MBX_STAT, ENG_EVENT] at *
    omega

theorem keptByNotice_forme {g : Fld} (h : g.addr < 0x400000) : keptByNotice g := by
  intro m
  simp only [ENG_MBX_STAT, ENG_EVENT]
  omega

/-- The fault's cause, pc and count in `ENG_FAULT`. -/
def State.faultWord (s : State) (n cause : Nat) : State :=
  ((s.put (ENG_FAULT.CAUSE n) cause).put (ENG_FAULT.PC n) (s.engine n).pc).inc (ENG_FAULT.FAULTS n)

/-- The fault is recorded, the engine stopped, the event raised and logged. -/
def State.faultRaised (s : State) (n cause : Nat) : State :=
  (((s.faultWord n cause).put (ENG_STATUS.STATE n) 0).raise (ENG_EVENT.FAULT n)).log 18 9 cause (engLoc n)

/-- What a fault does before its consequences: a revert, a warm reset, or the retirement of the engine. -/
def State.faultRecord (s : State) (n cause : Nat) : State :=
  let u := s.faultRaised n cause
  u.setEngine n fun e =>
    { e with faulted := true, waiting := none, faults := u.tm.tick :: e.faults,
             lastFault := cause * 2 ^ 28 + (s.engine n).pc }

theorem State.engineFault_eq : s.engineFault n cause =
    (let t := (s.faultRecord n cause).revertTrigger 0
     if cause = 7 ∧ t.on (ENG_ROLE.WDT_WARM n) ∧ !t.keepOut then t.decideReset srcWdt true n
     else
       let win := max 1 (t.get FC_ENG_CFG.FAULT_WIN_MS) * 1250000
       let recent := (t.engine n).faults.filter fun x => t.tm.tick - x ≤ win
       if max 1 (t.get FC_ENG_CFG.FAULT_N) ≤ recent.length then t.retireEngine n else t) := rfl

theorem State.revertTrigger_offProbation (b : Nat) (h : s.on FC_STATUS.PROB = false) : s.revertTrigger b = s := by
  simp [State.revertTrigger, h]

section Record

theorem State.faultRaised_get {g : Fld} (hg : keptByNotice g) (hl : g.addr ≠ ELOG_PTR) (he : g.addr ≠ ENG_EVENT n) :
    (s.faultRaised n cause).get g = ((s.faultWord n cause).put (ENG_STATUS.STATE n) 0).get g := by
  rw [State.faultRaised, State.log_get _ _ _ _ _ hl, State.raise_get_of_apart _ (.inl he) hg]

/-- A field outside the fault's own registers is as before. -/
theorem State.faultRecord_get {g : Fld} (hg : keptByNotice g) (hl : g.addr ≠ ELOG_PTR) (he : g.addr ≠ ENG_EVENT n)
    (hst : g.addr ≠ ENG_STATUS n) (hf : g.addr ≠ ENG_FAULT n) : (s.faultRecord n cause).get g = s.get g := by
  rw [State.faultRecord, State.setEngine_get, s.faultRaised_get n cause hg hl he, State.put_get_of_apart _ (.inl hst),
    State.faultWord, State.inc_get_of_apart _ (.inl hf), State.put_get_of_apart _ (.inl hf), State.put_get_of_apart _ (.inl hf)]

theorem State.faultRecord_faultField {g : Fld} (hg : g.addr = ENG_FAULT n) :
    (s.faultRecord n cause).get g = (s.faultWord n cause).get g := by
  have hn : g.addr ≠ ELOG_PTR ∧ g.addr ≠ ENG_EVENT n ∧ g.addr ≠ ENG_STATUS n := by
    simp only [ENG_FAULT, ELOG_PTR, ENG_EVENT, ENG_STATUS] at *
    omega
  obtain ⟨hl, he, hst⟩ := hn
  rw [State.faultRecord, State.setEngine_get, s.faultRaised_get n cause (keptByNotice_engine n (.inl hg)) hl he,
    State.put_get_of_apart _ (.inl hst)]

theorem State.faultWord_cause (h : cause ≤ 8) : (s.faultWord n cause).get (ENG_FAULT.CAUSE n) = cause := by
  rw [State.faultWord, State.inc_get_of_apart _ (.inr (.inl (by simp))), State.put_get_of_apart _ (.inr (.inl (by simp))),
    State.put_get _ _ (by simp)]
  exact Nat.mod_eq_of_lt (show cause < 16 by omega)

theorem State.faultWord_pc (h : (s.engine n).pc ≤ 0x3FFC) : (s.faultWord n cause).get (ENG_FAULT.PC n) = (s.engine n).pc := by
  rw [State.faultWord, State.inc_get_of_apart _ (.inr (.inr (by simp))), State.put_get _ _ (by simp)]
  exact Nat.mod_eq_of_lt (show (s.engine n).pc < 0x4000 by omega)

theorem State.faultWord_faults : (s.faultWord n cause).get (ENG_FAULT.FAULTS n) = min (s.get (ENG_FAULT.FAULTS n) + 1)
    (2 ^ ((ENG_FAULT.FAULTS n).hi + 1 - (ENG_FAULT.FAULTS n).lo) - 1) := by
  rw [State.faultWord, State.inc_get _ _ (by simp), State.put_get_of_apart _ (.inr (.inl (by simp))),
    State.put_get_of_apart _ (.inr (.inr (by simp)))]

theorem State.faultRecord_state : (s.faultRecord n cause).get (ENG_STATUS.STATE n) = 0 := by
  have hn : ENG_STATUS n ≠ ELOG_PTR ∧ ENG_STATUS n ≠ ENG_EVENT n := by
    simp only [ELOG_PTR, ENG_EVENT, ENG_STATUS]
    omega
  rw [State.faultRecord, State.setEngine_get, s.faultRaised_get n cause (keptByNotice_engine n (.inr (.inl rfl))) hn.1 hn.2,
    State.put_get _ _ (by simp), Nat.zero_mod]

theorem State.faultRecord_event : (s.faultRecord n cause).on (ENG_EVENT.FAULT n) = true := by
  have hl : ENG_EVENT n ≠ ELOG_PTR := by
    simp only [ELOG_PTR, ENG_EVENT]
    omega
  rw [State.on, State.faultRecord, State.setEngine_get, State.faultRaised, State.log_get _ _ _ _ _ hl,
    State.raise_get_self _ (by simp) (keptByNotice_engine n (.inr (.inr (.inr rfl))))]
  rfl

theorem State.faultRaised_engine : sameButMail (s.engine n) ((s.faultRaised n cause).engine n) := by
  rw [State.faultRaised, State.log_eq]
  exact State.raise_sameButMail _ _ _

theorem State.faultRecord_g : ((s.faultRecord n cause).engine n).g = (s.engine n).g := by
  rw [State.faultRecord, State.setEngine_engine_self]
  exact (s.faultRaised_engine n cause).g

theorem State.faultRecord_faults : ((s.faultRecord n cause).engine n).faults =
    (s.faultRaised n cause).tm.tick :: (s.engine n).faults := by
  rw [State.faultRecord, State.setEngine_engine_self]
  exact congrArg _ (s.faultRaised_engine n cause).faults

theorem State.faultRecord_forme {g : Fld} (h : g.addr < 0x400000 ∧ g.addr ≠ ELOG_PTR) : (s.faultRecord n cause).get g = s.get g := by
  obtain ⟨h, hl⟩ := h
  refine s.faultRecord_get n cause (keptByNotice_forme h) hl ?_ ?_ ?_
  all_goals
    simp only [ENG_EVENT, ENG_STATUS, ENG_FAULT]
    omega

theorem State.faultRecord_role {g : Fld} (h : g.addr = ENG_ROLE n) : (s.faultRecord n cause).get g = s.get g := by
  refine s.faultRecord_get n cause (keptByNotice_engine n (.inr (.inr (.inl h)))) ?_ ?_ ?_ ?_
  all_goals
    rw [h]
    simp only [ENG_ROLE, ELOG_PTR, ENG_EVENT, ENG_STATUS, ENG_FAULT]
    omega

theorem State.faultRecord_memories : sameMemories s (s.faultRecord n cause) := by
  have h : sameMemories s ((s.faultWord n cause).put (ENG_STATUS.STATE n) 0) := by simp [sameMemories, State.faultWord]
  have hr : sameMemories s (s.faultRaised n cause) :=
    (h.trans (State.raise_same _ (ENG_EVENT.FAULT n)).memories).trans (State.log_memories _ _ _ _ _)
  exact hr.trans (by simp [sameMemories, State.faultRecord])

end Record

/-- A fault alone is what it records: no revert, no warm reset, and the first fault of an engine that may have two. -/
theorem State.engineFault_alone (hw : cause = 7 → s.on (ENG_ROLE.WDT_WARM n) = false) (hp : s.on FC_STATUS.PROB = false)
    (hf : (s.engine n).faults = []) (hn : 2 ≤ s.get FC_ENG_CFG.FAULT_N) : s.engineFault n cause = s.faultRecord n cause := by
  have hprob : (s.faultRecord n cause).on FC_STATUS.PROB = false := by
    rw [State.on, s.faultRecord_forme n cause (by decide), ← State.on, hp]
  have hwarm : ¬ (cause = 7 ∧ (s.faultRecord n cause).on (ENG_ROLE.WDT_WARM n) = true ∧ !(s.faultRecord n cause).keepOut) := by
    rintro ⟨h7, h, -⟩
    rw [State.on, s.faultRecord_role n cause rfl, ← State.on, hw h7] at h
    cases h
  have hretire : ¬ max 1 ((s.faultRecord n cause).get FC_ENG_CFG.FAULT_N) ≤
      (((s.faultRecord n cause).engine n).faults.filter fun x => (s.faultRecord n cause).tm.tick - x ≤
        max 1 ((s.faultRecord n cause).get FC_ENG_CFG.FAULT_WIN_MS) * 1250000).length := by
    rw [s.faultRecord_forme n cause (g := FC_ENG_CFG.FAULT_N) (by decide)]
    have hl : ((s.faultRecord n cause).engine n).faults.length = 1 := by
      rw [s.faultRecord_faults n cause, hf]
      rfl
    have := List.length_filter_le (fun x => (s.faultRecord n cause).tm.tick - x ≤
        max 1 ((s.faultRecord n cause).get FC_ENG_CFG.FAULT_WIN_MS) * 1250000) ((s.faultRecord n cause).engine n).faults
    omega
  rw [State.engineFault_eq, State.revertTrigger_offProbation _ _ hprob]
  dsimp only
  rw [if_neg hwarm, if_neg hretire]

/-- Settles O15. -/
theorem engineFaultRecords : Obligations.EngineFaultRecords := by
  intro n cause s _ h8 hw hp hf hn hpc
  dsimp only
  rw [s.engineFault_alone n cause hw hp hf hn]
  refine ⟨?_, ?_, ?_, s.faultRecord_state n cause, s.faultRecord_event n cause, s.faultRecord_g n cause, s.faultRecord_memories n cause⟩
  · rw [s.faultRecord_faultField n cause rfl, s.faultWord_cause n cause h8]
  · rw [s.faultRecord_faultField n cause rfl, s.faultWord_pc n cause hpc]
  · rw [s.faultRecord_faultField n cause rfl, s.faultWord_faults n cause]

end Fault

end Sys2Proof.Machine
end

section
/-! Who may write a forme-control register (R387, R441). -/

namespace Sys2Proof.Machine

theorem State.hasCustody_iff (s : State) (p : Path) : s.hasCustody p = true ↔
    s.on FC_CUSTODY.VALID = true ∧ ∃ n : EngNo, p = .engine n ∧ s.get FC_CUSTODY.HOLDER = n := by
  cases p with
  | engine m => simp [State.hasCustody]
  | pcie | usb | smbus => simp [State.hasCustody]
  | tunnel m => simp [State.hasCustody]

theorem pathKind_lt (p : Path) : pathKind p < 8 := by
  cases p <;> simp [pathKind]

theorem pathEngine_lt (p : Path) : pathEngine p < 16 := by
  cases p with
  | engine m =>
    simp only [pathEngine]
    omega
  | pcie | usb | smbus => simp [pathEngine]
  | tunnel m => simp [pathEngine]

section Refusal
variable (s : State) (p : Path)

/-- The registers and the log entry of a refusal, without the event of `RST_BLOCK`. -/
def State.refusalRecord (s : State) (p : Path) (a : Nat) : State :=
  ((((s.inc FC_CUST_REFUSE.REFUSED).put FC_CUST_REFUSE.PATH (pathKind p)).put FC_CUST_REFUSE.REF_ENG (pathEngine p)).put
    FC_CUST_ADDR.REF_ADDR a).log 19 2 (refusalDetail p) a

theorem State.refuseCustody_cases (a : Nat) : s.refuseCustody p a = s.refusalRecord p a ∨
    s.refuseCustody p a = (s.refusalRecord p a).raise RST_EVENT.BLOCK_REFUSED := by
  unfold State.refuseCustody
  dsimp only
  split
  · exact .inr rfl
  · exact .inl rfl

/-- The event of `RST_BLOCK` changes no field of the Forme control block. -/
theorem State.refuseCustody_get (a : Nat) {g : Fld} (hg : g.addr < 0x20000) :
    (s.refuseCustody p a).get g = (s.refusalRecord p a).get g := by
  obtain e | e := s.refuseCustody_cases p a
  · rw [e]
  · have hne : g.addr ≠ RST_EVENT.BLOCK_REFUSED.addr := by
      simp only [RST_EVENT]
      omega
    rw [e, State.raise_get_of_apart _ (.inl hne) (keptByNotice_forme (by omega))]

theorem State.refuseCustody_same (a : Nat) : sameBut (s.refusalRecord p a) (s.refuseCustody p a) := by
  obtain e | e := s.refuseCustody_cases p a
  · rw [e]
    simp [sameBut]
  · rw [e]
    exact State.raise_same _ _

theorem State.refuseCustody_refused (a : Nat) : (s.refuseCustody p a).get FC_CUST_REFUSE.REFUSED =
    min (s.get FC_CUST_REFUSE.REFUSED + 1) (2 ^ (FC_CUST_REFUSE.REFUSED.hi + 1 - FC_CUST_REFUSE.REFUSED.lo) - 1) := by
  rw [s.refuseCustody_get p a (by decide), State.refusalRecord, State.log_get _ _ _ _ _ (by decide),
    State.put_get_of_apart _ (by decide), State.put_get_of_apart _ (by decide), State.put_get_of_apart _ (by decide),
    State.inc_get _ _ (by decide)]

theorem State.refuseCustody_path (a : Nat) : (s.refuseCustody p a).get FC_CUST_REFUSE.PATH = pathKind p := by
  rw [s.refuseCustody_get p a (by decide), State.refusalRecord, State.log_get _ _ _ _ _ (by decide),
    State.put_get_of_apart _ (by decide), State.put_get_of_apart _ (by decide), State.put_get _ _ (by decide)]
  exact Nat.mod_eq_of_lt (pathKind_lt p)

theorem State.refuseCustody_engine (a : Nat) : (s.refuseCustody p a).get FC_CUST_REFUSE.REF_ENG = pathEngine p := by
  rw [s.refuseCustody_get p a (by decide), State.refusalRecord, State.log_get _ _ _ _ _ (by decide),
    State.put_get_of_apart _ (by decide), State.put_get _ _ (by decide)]
  exact Nat.mod_eq_of_lt (pathEngine_lt p)

theorem State.refuseCustody_addr (a : Word) : (s.refuseCustody p a.toNat).get FC_CUST_ADDR.REF_ADDR = a.toNat := by
  rw [s.refuseCustody_get p _ (by decide), State.refusalRecord, State.log_get _ _ _ _ _ (by decide),
    State.put_get _ _ (by decide)]
  exact Nat.mod_eq_of_lt a.isLt

theorem State.refuseCustody_reg (a : Word) : (s.refuseCustody p a.toNat).reg FC_CUST_ADDR = a := by
  have h : wordField ((s.refuseCustody p a.toNat).reg FC_CUST_ADDR) 31 0 = a.toNat := s.refuseCustody_addr p a
  refine BitVec.eq_of_toNat_eq ?_
  simpa [wordField] using h

theorem State.refuseCustody_memories (a : Nat) : sameMemories s (s.refuseCustody p a) := by
  have h : sameMemories s (s.refusalRecord p a) := by
    refine sameMemories.trans ?_ (State.log_memories _ _ _ _ _)
    simp [sameMemories]
  exact h.trans (s.refuseCustody_same p a).memories

theorem State.refuseCustody_shadow (a : Nat) : (s.refuseCustody p a).shadow = s.shadow := by
  have h : (s.refusalRecord p a).shadow = s.shadow := by
    rw [State.refusalRecord, State.log_eq]
    rfl
  exact (s.refuseCustody_same p a).1.trans h

end Refusal

/-! ### A write that is refused -/

section Write
variable (s : State) {p : Path} {a : Nat}

/-- The forme-control addresses (R387) lie below the shadow alias. -/
theorem formeControl_of_address
    (h : 0x10000 ≤ a ∧ a < 0x20000 ∨ a = RST_BLOCK ∨ ∃ n : EngNo, a = ENG_CMD n) :
    formeControl a = true ∧ a < 2 ^ 31 := by
  obtain h | rfl | ⟨n, rfl⟩ := h
  · have hb : a / 0x10000 = 1 := by omega
    exact ⟨by simp [formeControl, hb], by omega⟩
  · decide
  · have hb : ENG_CMD n / 0x10000 = 0x40 + n := by
      simp only [ENG_CMD]
      omega
    have ho : ENG_CMD n % 0x10000 = 4 := by
      simp only [ENG_CMD]
      omega
    have hn : 0x40 ≤ 0x40 + n.val ∧ 0x40 + n.val ≤ 0x4B := by omega
    refine ⟨?_, ?_⟩
    · simp [formeControl, hb, ho, hn]
    · simp only [ENG_CMD]
      omega

theorem State.turnedAway_of_noCustody (hf : formeControl a = true) (hlt : a < 2 ^ 31) (h4 : a % 4 = 0)
    (hp : place a ≠ .nothing) (he : s.excludedAt a = false) (hk : s.keepOut = false) (hc : s.hasCustody p = false) :
    s.turnedAway p a 4 true = 2 := by
  have hpl : plain a = a := Nat.mod_eq_of_lt hlt
  have ha : isAlias a = false := decide_eq_false (by omega)
  simp [State.turnedAway, aligned, hpl, ha, h4, hp, he, hk, hf, hc]

theorem State.writeCmd_of_noCustody (w : Word) (c : Instr) (hb : s.behind p = false) (ht : s.turnedAway p a 4 true = 2) :
    s.writeCmd p a 4 w c = (s.refuseCustody p a).emit (.access p a 2 0) := by
  have hs : s.writeStalls p a 4 = false := by simp [State.writeStalls, ht]
  have hm : s.mgmtWrite p a 4 w = (2, s.refuseCustody p a, id) := by simp [State.mgmtWrite, ht]
  rw [s.writeCmd_open w c hb hs, hm]
  rfl

end Write

/-- Settles O21: a write turned away for custody is its refusal, and the refusal is read field by field. -/
theorem formeControlNeedsCustody : Obligations.FormeControlNeedsCustody := by
  refine ⟨fun p s => s.hasCustody_iff p, fun p a w s ha h4 hp he hk hb hc => ?_⟩
  obtain ⟨hf, hlt⟩ := formeControl_of_address ha
  have ht := s.turnedAway_of_noCustody hf hlt h4 hp he hk hc
  refine ⟨_, congrArg Host.Outcome.next (s.writeCmd_of_noCustody w _ hb ht), rfl, ?_⟩
  exact ⟨s.refuseCustody_refused p _, s.refuseCustody_path p _, s.refuseCustody_engine p _, s.refuseCustody_reg p a,
    s.refuseCustody_memories p _, s.refuseCustody_shadow p _⟩

end Sys2Proof.Machine
end

section
/-! The sources of a reset, requests to the reset controller, and the phases of a cold start and of a warm reset (R413, R428 to
R449). -/

namespace Sys2Proof.Machine

section Laws
variable (s : State)

/-! ### Phases of a cold start (R428, R435, R436) -/

/-- POR_KEEP keeps the registers of OTP and the part's grade, the flash, and the commands given (R428). -/
theorem exec_porKeep_kept : ∃ t, exec .porKeep s = .next t ∧ t.regs =
    (((({ State.reset with
        regs := s.regs.filter fun e => e.1 == FC_ROLLBACK || e.1 == ID_SERIAL_LO || e.1 == ID_SERIAL_HI }.put
      FC_ROLLBACK.KEY_BUSY 0).put FC_ROLLBACK.KEY_USED 0).put CAIRN_TIME_HI.NONE 1).put ID_DEVICE.GRADE
      (s.get ID_DEVICE.GRADE)).regs ∧ t.shadow = [] ∧ t.flash = s.flash ∧ t.caseMem = [] ∧ t.engSram = [] ∧ t.galley = [] ∧
    t.elog = [] ∧ t.eng = [] ∧ t.pending = s.pending :=
  ⟨_, rfl, rfl, rfl, rfl, rfl, rfl, rfl, rfl, rfl, rfl⟩

theorem exec_keepOscStable (hp : s.phase = 0) :
    exec .keepOscStable s = .next ((s.setPhase 1).setRs fun r => { r with coldWait := r.xrstLow }) :=
  congrArg Host.Outcome.next (if_pos hp)

section Trim
variable (chip : ChipTrim) (conv : BitVec 6) (rsnsLow rsnsHigh : BitVec 40) (hp : s.phase = 1) (hw : s.rs.coldWait = false)
include hp hw

/-- In phase 1, with nothing that holds it, a trim block takes effect as its CRC and its turn say. -/
theorem exec_trimLoad (good : Bool) : exec (.trimLoad good chip conv rsnsLow rsnsHigh) s = .next
    (if !good then s.trimFail
    else if s.rs.trimmed = 0 then
      ((s.put ID_DEVICE.GRADE chip.grade.toNat).chipTrim chip.vid.toNat chip.maker.toNat chip.factor).trimNext
    else (s.boardTrim conv.toNat fun n => bits (rsnsHigh ++ rsnsLow).toNat (8 * n + 7) (8 * n)).trimNext) :=
  congrArg Host.Outcome.next (if_neg (by simp [hp, hw]))

theorem exec_trimLoad_chip (h : s.rs.trimmed = 0) : exec (.trimLoad true chip conv rsnsLow rsnsHigh) s = .next
    ((s.put ID_DEVICE.GRADE chip.grade.toNat).chipTrim chip.vid.toNat chip.maker.toNat chip.factor).trimNext :=
  (exec_trimLoad s chip conv rsnsLow rsnsHigh hp hw true).trans
    (congrArg Host.Outcome.next ((if_neg Bool.false_ne_true).trans (if_pos h)))

theorem exec_trimLoad_board (h : s.rs.trimmed ≠ 0) : exec (.trimLoad true chip conv rsnsLow rsnsHigh) s = .next
    (s.boardTrim conv.toNat fun n => bits (rsnsHigh ++ rsnsLow).toNat (8 * n + 7) (8 * n)).trimNext :=
  (exec_trimLoad s chip conv rsnsLow rsnsHigh hp hw true).trans
    (congrArg Host.Outcome.next ((if_neg Bool.false_ne_true).trans (if_neg h)))

theorem exec_trimLoad_bad : exec (.trimLoad false chip conv rsnsLow rsnsHigh) s = .next s.trimFail :=
  (exec_trimLoad s chip conv rsnsLow rsnsHigh hp hw false).trans (congrArg Host.Outcome.next (if_pos rfl))

end Trim

theorem exec_coreRelease (hp : s.phase = 4) :
    exec .coreRelease s = .next ((s.put EV_KL.KL_LOST_NOW 0).startTime.reRepair).formeLoad :=
  congrArg Host.Outcome.next (if_pos hp)

/-! ### Sources that act on the Keep die (R428, R429, R449) -/

theorem exec_bor (idx : Fin 7) (hr : s.pw.railsUp = true) :
    exec (.bor idx) s = .next (s.endEscalation.railsOff.decideReset srcBor false idx.val) :=
  congrArg Host.Outcome.next (if_pos hr)

theorem exec_xrst (hp : s.phase ≠ 0) : exec .xrst s = .next
    (((s.setRs fun r => { r with xrstLow := true }).when (s.get KP_STATUS.RAIL_TRIES == 3) fun s =>
      s.put KP_STATUS.RAIL_TRIES 0).endEscalation.decideReset srcXrst (s.on RST_CFG.XRST_WARM)
        (s.on RST_CFG.XRST_WARM).toNat) :=
  congrArg Host.Outcome.next (if_neg hp)

theorem exec_therm (x : TempReading) (h0 : s.phase ≠ 0) (h11 : s.phase ≠ 11) (ht : s.shutdownPoint < x.tj.val) :
    exec (.therm x) s = .next (((s.endEscalation.railsOff.decideReset srcTherm false x.sensor.val).setPhase 11).setPw fun p =>
      { p with thermStay := !s.on RST_CFG.THERM_RESTART }) :=
  congrArg Host.Outcome.next (if_neg (by simp [h0, h11, ht]))

theorem exec_thermRestart (hp : s.phase = 11) (hs : s.pw.thermStay = false) :
    exec .thermRestart s = .next ((s.setPhase 1).setRs fun r => { r with coldWait := r.xrstLow }) :=
  congrArg Host.Outcome.next (if_pos ⟨hp, by simp [hs]⟩)

/-! ### Warm reset (R413, R439, R449) -/

theorem exec_warmReset (hw : s.rs.warm = true) (hp : s.phase ≠ 9) : exec .warmReset s = .next s.warmApply :=
  congrArg Host.Outcome.next (if_neg (by simp [hw, hp]))

section Phase9
variable (hp : s.phase = 9)
include hp

theorem exec_warmResetRelease_restored (hx : s.rs.xrstLow = false) (hr : s.rs.restored = true) :
    exec .warmResetRelease s = .next (s.setRs fun r => { r with released := true }).warmFinish :=
  congrArg Host.Outcome.next ((if_neg (by simp [hp, hx])).trans (if_pos hr))

section Restore
variable (hr : s.rs.restored = false)
include hr

/-- A stored record that fails its check, or that is not there, makes the reset cold (R413). -/
theorem exec_retainedRecordRestore_bad :
    exec (.retainedRecordRestore false) s = .next (s.cairn srcForme false true (3 * 64)).coldReset := by
  have hrun : ¬ (s.phase ≠ 9 ∨ s.rs.restored = true) := by simp [hp, hr]
  refine congrArg Host.Outcome.next ((if_neg hrun).trans ?_)
  cases s.fc.record with
  | none => rfl
  | some r => exact if_pos (.inr rfl)

theorem exec_retainedRecordRestore_good {r : Retained} (hc : s.fc.record = some r) (hg : s.fc.recGood = true)
    (hl : (s.restoreRecord r).rs.released = false) :
    exec (.retainedRecordRestore true) s = .next (s.restoreRecord r) := by
  show execRetainedRecordRestore true s = _
  simp [execRetainedRecordRestore, hp, hr, hc, hg, hl]

end Restore
end Phase9

/-! ### Requests to the reset controller (R441, R446, R447) -/

section Requests

/-- No class excludes the block of the reset controller (R5). -/
theorem State.blockExcluded_resetBlock {a : Nat} (h : a / 0x10000 = 2) : s.blockExcluded a = false := by
  have h4 : ¬ (0x40100 ≤ a ∧ a < 0x40380) := by omega
  have h5 : ¬ (0x50100 ≤ a ∧ a < 0x50180) := by omega
  have h6 : ¬ (0x50200 ≤ a ∧ a < 0x50240) := by omega
  simp [State.blockExcluded, h, h4, h5, h6]

variable {p : Path} {a : Nat} (c : Instr) (hk : s.keepOut = false) (hb : s.behind p = false)
include hk hb

/-- A request to the reset controller has its effect at once; a register without a field of the Forme waits for no copy (R19). -/
theorem State.keepCmd_resetBlock (g : State → State) (ha : a / 0x10000 = 2) (hf : hasFh a = false) :
    s.keepCmd p a c g = g s :=
  s.keepCmd_open c g hb hk (by simp [hf]) (s.blockExcluded_resetBlock ha)

/-- A write of a hold answers its effect and status 0, on a path that holds custody (R441). -/
theorem State.next_holdCmd (g : State → State) (hc : s.hasCustody p = true) :
    (.next (s.keepCmd p RST_BLOCK c fun s => s.custodyCmd p RST_BLOCK c g) : Result) =
      .next ((g s).emit (.access p RST_BLOCK 0 0)) :=
  congrArg Host.Outcome.next ((s.keepCmd_resetBlock c hk hb _ rfl (by decide)).trans
    (s.custodyCmd_open c g hb (s.blockExcluded_resetBlock rfl) hc))

/-- A write of `RST_CMD` is answered before the reset that it asks for (R446). -/
theorem State.next_softCmd (w : Word) : (.next (s.softCmd p c w) : Result) =
    .next ((s.softReset p w).2 (s.emit (.access p RST_CMD (s.softReset p w).1 0))) :=
  congrArg Host.Outcome.next (s.keepCmd_resetBlock c hk hb _ rfl (by decide))

theorem exec_rstNonce : exec (.rstNonce p) s = .next ((s.readNonce p).2.emit
    (.access p RST_NONCE 0 (BitVec.ofNat 32 (s.readNonce p).1))) :=
  congrArg Host.Outcome.next (s.keepCmd_resetBlock _ hk hb _ rfl (by decide))

theorem exec_rstRemote (w : Word) : exec (.rstRemote p w) s = .next ((s.remoteReset p w).2
    (s.emit (.access p RST_REMOTE (s.remoteReset p w).1 0))) :=
  congrArg Host.Outcome.next (s.keepCmd_resetBlock _ hk hb _ rfl (by decide))

end Requests

end Laws

/-! ### The statements -/

/-- Settles O29, one lemma for each command; those of loads, stages, flash and OTP stand with O49, the strap's with O13. What
POR_KEEP keeps and the grade read beside the chip trim are notes/assumptions/6.md, what the flash does with a command 31.md, and
that flash and OTP change at their done command 90.md. -/
theorem startUpCommands : Obligations.StartUpCommands :=
  ⟨exec_porKeep_kept, exec_keepOscStable,
    fun chip conv low high s => exec_trimLoad_chip s chip conv low high,
    fun chip conv low high s => exec_trimLoad_board s chip conv low high,
    fun chip conv low high s => exec_trimLoad_bad s chip conv low high,
    fun r0 r1 r2 r3 s => exec_strapMeasure_agree s r0 r1 r2 r3,
    exec_coreRelease,
    fun err _ _ s => exec_formeLoadDone err s,
    fun err _ s => exec_stageDone err s,
    fun err _ s => exec_verifyDone err s,
    fun err _ s => exec_revertStageDone_good err s,
    fun err _ s => exec_revertStageDone_bad err s,
    exec_probationEnd,
    fun data eff _ _ s => exec_flashCommandDone_write s data eff,
    fun data eff _ _ s => exec_flashCommandDone_read s data eff,
    fun _ _ s => exec_otpWriteDone_revoke s,
    fun _ _ _ s => exec_otpWriteDone_prog s,
    fun _ _ s h hn => (exec_otpWriteDone_step s h).trans (congrArg Host.Outcome.next (if_pos hn)),
    fun _ _ s h hn => (exec_otpWriteDone_step s h).trans (congrArg Host.Outcome.next (if_neg (Nat.not_lt.2 hn)))⟩

/-- Settles O30: a lemma for each source, one `State.keepCmd` on a register of the reset controller for each request, and the
phases of a cold start from O29; the release of XRST is its definition. What POR_KEEP keeps and the grade read beside the chip trim
are notes/assumptions/6.md, the order in which a key is checked 49.md, and that XRST clears `RAIL_TRIES` 81.md. -/
theorem resetSources : Obligations.ResetSources := by
  obtain ⟨porKeep, oscStable, chipTrim, boardTrim, badTrim, strap, coreRelease, -⟩ := startUpCommands
  exact ⟨fun idx s => exec_bor s idx, exec_xrst, fun _ => rfl,
    fun x s => exec_therm s x,
    exec_thermRestart, exec_warmReset, exec_warmResetRelease_restored, exec_retainedRecordRestore_bad,
    fun _ s hp hr => exec_retainedRecordRestore_good s hp hr,
    fun _ _ s hk hb => s.next_holdCmd _ hk hb _, -- BLOCK_HOLD
    fun _ _ s hk hb => s.next_holdCmd _ hk hb _, -- BLOCK_RELEASE
    fun _ _ s hk hb => s.next_softCmd _ hk hb _, -- SOFT_WARM
    fun _ _ s hk hb => s.next_softCmd _ hk hb _, -- SOFT_COLD
    fun _ s => exec_rstNonce s,
    fun _ w s hk hb => exec_rstRemote s hk hb w,
    porKeep, oscStable, chipTrim, boardTrim, badTrim, strap, coreRelease⟩

end Sys2Proof.Machine
end

section
/-! A step: the command that it takes, and what no step disturbs. -/

namespace Sys2Proof.Machine

/-! ### The queue (95_what_each_step_holds.md) -/

theorem step_of_front {s : State} {c : Instr} {rest : List Instr} (h : s.pending = c :: rest) :
    step s = exec c { s with pending := rest } := by
  simp only [step, h]

/-- Settles O1. That commands wait in a queue is notes/assumptions/1.md. -/
theorem stepRunsFrontCommand : Obligations.StepRunsFrontCommand :=
  fun _ _ _ => step_of_front rfl

/-! ### The form of the tables -/

theorem State.tablesOk_iff (s : State) : s.tablesOk = true ↔
    (memOk 0 s.caseMem = true ∧ memOk 0 s.engSram = true ∧ memOk 0 s.engBank = true ∧ memOk 0 s.galley = true ∧
      memOk 0 s.pimage = true ∧ memOk 0xFF s.flash = true) ∧
    canonical regReset s.regs = true ∧ canonical regReset s.shadow = true := by
  simp only [State.tablesOk, State.memoriesOk, Bool.and_eq_true, and_assoc]

/-- Settles O4: a table that lists nothing is in canonical form. The queue is notes/assumptions/1.md, the record of what was sent
4.md, and the empty tables 5.md. -/
theorem resetTablesInForm : Obligations.ResetTablesInForm :=
  have hmem (unlisted : Byte) : memOk unlisted [] = true := canonical_nil _
  have hreg : canonical regReset [] = true := canonical_nil _
  ⟨State.reset.tablesOk_iff.2 ⟨⟨hmem 0, hmem 0, hmem 0, hmem 0, hmem 0, hmem 0xFF⟩, hreg, hreg⟩, rfl, rfl⟩

variable {K : Mark} {s : State}

theorem Keeps.tablesOk (h : Keeps K s) : s.tablesOk = true :=
  s.tablesOk_iff.2 ⟨⟨h.caseMem, h.engSram, h.engBank, h.galley, h.pimage, h.flash⟩, h.regs, h.shadow⟩

/-- A state with its tables in form is kept, against its own queue, what it has sent, and the free values it has used. -/
theorem Keeps.of_tablesOk (h : s.tablesOk = true) : Keeps ⟨s.pending, s.out, s.freeCtr⟩ s := by
  obtain ⟨⟨hcase, hsram, hbank, hgalley, himage, hflash⟩, hregs, hshadow⟩ := s.tablesOk_iff.1 h
  exact ⟨rfl, List.suffix_rfl, Nat.le_refl _, hregs, hshadow, hcase, hsram, hbank, hgalley, himage, hflash⟩

/-! ### Every command -/

/-- No command disturbs the queue or the form of a table, or takes back what was sent or a free value. -/
theorem exec_kept (hs : Keeps K s) (c : Instr) : ∀ t, exec c s = .next t → Keeps K t :=
  match c with
  | .registerWrite p a sz w => execRegisterWrite_kept p a sz w hs
  | .rcRead p a sz => execRcRead_kept p a sz hs
  | .shadowWriteRelease => execShadowWriteRelease_kept hs
  | .pcieBarAccess bar2 ofs sz w => execPcieBarAccess_kept bar2 ofs sz w hs
  | .smbusWrite pecOk a w => execSmbusWrite_kept pecOk a w hs
  | .smbusSetAddress pecOk a => execSmbusSetAddress_kept pecOk a hs
  | .smbusRead pecOk => execSmbusRead_kept pecOk hs
  | .mtReadRequest src u => execMtReadRequest_kept src u hs
  | .mtWriteRequest src u => execMtWriteRequest_kept src u hs
  | .mtReply src u => execMtReply_kept src u hs
  | .mtTimeout tag => execMtTimeout_kept tag hs
  | .keepAccessComplete p a w => execKeepAccessComplete_kept p a w hs
  | .keepHoldEnter => execKeepHoldEnter_kept hs
  | .klLost => execKlLost_kept hs
  | .keepHoldLeave => execKeepHoldLeave_kept hs
  | .custodyLimit => execCustodyLimit_kept hs
  | .custodyEscalation => execCustodyEscalation_kept hs
  | .milestoneBoundary => execMilestoneBoundary_kept hs
  | .keepFhApply => execKeepFhApply_kept hs
  | .postListWrite => execPostListWrite_kept hs
  | .shadowCopyDone => execShadowCopyDone_kept hs
  | .retainedRecordWrite => execRetainedRecordWrite_kept hs
  | .sheetFlip o => execSheetFlip_kept o hs
  | .bankCopyDone o => execBankCopyDone_kept o hs
  | .sheetBankWrite o b ix w => execSheetBankWrite_kept o b ix w hs
  | .sealSheet o => execSeal_kept o hs
  | .admissionWindowEnd => execAdmissionWindowEnd_kept hs
  | .paceGate low high => execPaceGate_kept low high hs
  | .vcoreRaiseRequest n mv => execVcoreRaiseRequest_kept n mv hs
  | .vcoreLowerRequest n => execVcoreLowerRequest_kept n hs
  | .thermalFloorRaise tj => execThermalFloorRaise_kept tj hs
  | .pmbusTransactionDone ok mv => execPmbusTransactionDone_kept ok mv hs
  | .pmbAlert status => execPmbAlert_kept status hs
  | .fckLoss p => execFckLoss_kept p hs
  | .fckLocked p rate => execFckLocked_kept p rate hs
  | .lanesLocked p good partFast => execLanesLocked_kept p good partFast hs
  | .equalizeDone p pperm => execEqualizeDone_kept p pperm hs
  | .alignDone p => execAlignDone_kept p hs
  | .trainingTimeout p rxClean txClean pperm => execTrainingTimeout_kept p rxClean txClean pperm hs
  | .holdoffExpiry p => execHoldoffExpiry_kept p hs
  | .trainingBlockRx p k b margin ask => execTrainingBlockRx_kept p k b margin ask hs
  | .tapRequestTimeout p k => execTapRequestTimeout_kept p k hs
  | .amReceive p k m rxBip margin skew pauseNs => execAmReceive_kept p k m rxBip margin skew pauseNs hs
  | .swapRequestRx p k => execSwapRequestRx_kept p k hs
  | .swapBlockRx p k => execSwapBlockRx_kept p k hs
  | .swapPauseEnd p => execSwapPauseEnd_kept p hs
  | .readmitRequestRx p k => execReadmitRequestRx_kept p k hs
  | .testEnter p => execTestEnter_kept p hs
  | .testExit p => execTestExit_kept p hs
  | .retrain p => execRetrain_kept p hs
  | .force p k => execForce_kept p k hs
  | .clear p k => execClear_kept p k hs
  | .injGo p k => execInjGo_kept p k hs
  | .txSlot x => execTxSlot_kept x hs
  | .localWalkerSlot o => execLocalWalkerSlot_kept o hs
  | .dataFrameRx p f ecc => execDataFrameRx_kept p f ecc hs
  | .ackUpdateDue p => execAckUpdateDue_kept p hs
  | .retryReqExpiry p => execRetryReqExpiry_kept p hs
  | .ackTimeout p ecc => execAckTimeout_kept p ecc hs
  | .linkSilence p => execLinkSilence_kept p hs
  | .creditFrameDue p => execCreditFrameDue_kept p hs
  | .creditFrameRx p ret => execCreditFrameRx_kept p ret hs
  | .capabilityRecordRx p slot => execCapabilityRecordRx_kept p slot hs
  | .seqStateExpiry p => execSeqStateExpiry_kept p hs
  | .linkDelayRequestRx p id ta arrived => execLinkDelayRequestRx_kept p id ta arrived hs
  | .linkDelayResponseRx p id ta tb tc arrived => execLinkDelayResponseRx_kept p id ta tb tc arrived hs
  | .helloRx p h port deadN period => execHelloRx_kept p h port deadN period hs
  | .beaconRx p h msSec msNs => execBeaconRx_kept p h msSec msNs hs
  | .incarnationRx p roleId roleInc roleSerial vacated hops => execIncarnationRx_kept p roleId roleInc roleSerial vacated hops hs
  | .directedIncarnationRx p roleId roleInc roleSerial => execDirectedIncarnationRx_kept p roleId roleInc roleSerial hs
  | .rejoinRx p takeId minInc roleId roleInc => execRejoinRx_kept p takeId minInc roleId roleInc hs
  | .narrowRx p lane => execNarrowRx_kept p lane hs
  | .widthChange p => execWidthChange_kept p hs
  | .readmit p => execReadmit_kept p hs
  | .memberFail p => execMemberFail_kept p hs
  | .mpHoldExpiry p => execMpHoldExpiry_kept p hs
  | .cellArrival ix c => execCellArrival_kept ix c hs
  | .heldCellAccept ix => execHeldCellAccept_kept ix hs
  | .matchCycle ecc => execMatchCycle_kept ecc hs
  | .drainEnd p => execDrainEnd_kept p hs
  | .admitRx src m => execAdmitRx_kept src m hs
  | .grantRx src m => execGrantRx_kept src m hs
  | .refuseRx src m => execRefuseRx_kept src m hs
  | .releaseRx src m => execReleaseRx_kept src m hs
  | .revokeRx src m => execRevokeRx_kept src m hs
  | .giveRx src m => execGiveRx_kept src m hs
  | .givenRx src m => execGivenRx_kept src m hs
  | .admissionTimeout r => execAdmissionTimeout_kept r hs
  | .ringAdmit => execRingAdmit_kept hs
  | .ringRelease => execRingRelease_kept hs
  | .ringGive => execRingGive_kept hs
  | .captureFrameStart d w h vnom bpc lrate crc sdps => execCaptureFrameStart_kept d w h vnom bpc lrate crc sdps hs
  | .captureLine d line px => execCaptureLine_kept d line px hs
  | .platenCellRx d c => execPlatenCellRx_kept d c hs
  | .platenLineSlot d ranOut => execPlatenLineSlot_kept d ranOut hs
  | .platenFreerun d => execPlatenFreerun_kept d hs
  | .kaLost d => execKaLost_kept d hs
  | .platenTrainDone d ok lanes rate => execPlatenTrainDone_kept d ok lanes rate hs
  | .panelHpdIrq d => execPanelHpdIrq_kept d hs
  | .panelUnplug d => execPanelUnplug_kept d hs
  | .panelPlug d => execPanelPlug_kept d hs
  | .psrEnteredRx d tunnel => execPsrEnteredRx_kept d tunnel hs
  | .psrExitedRx d tunnel => execPsrExitedRx_kept d tunnel hs
  | .hpdLostRx d tunnel => execHpdLostRx_kept d tunnel hs
  | .hpdFoundRx d tunnel => execHpdFoundRx_kept d tunnel hs
  | .auxGo d => execAuxGo_kept d hs
  | .auxDone d result data => execAuxDone_kept d result data hs
  | .pcieTlpRx hdr payload => execPcieTlpRx_kept hdr payload hs
  | .tlpPduRx p reqShort cplShort => execTlpPduRx_kept p reqShort cplShort hs
  | .bindReqRx p => execBindReqRx_kept p hs
  | .bindAckRx p => execBindAckRx_kept p hs
  | .bindRefuseRx p => execBindRefuseRx_kept p hs
  | .pduCreditRx p => execPduCreditRx_kept p hs
  | .linkPduRx p => execLinkPduRx_kept p hs
  | .keepalivePduRx p => execKeepalivePduRx_kept p hs
  | .resetPduRx p => execResetPduRx_kept p hs
  | .unbindRx p => execUnbindRx_kept p hs
  | .bindTimeout n => execBindTimeout_kept n hs
  | .pduCreditDue n short => execPduCreditDue_kept n short hs
  | .perstInFall => execPerstInFall_kept hs
  | .perstInRise => execPerstInRise_kept hs
  | .perstRelease => execPerstRelease_kept hs
  | .driveLinkChange up width speed ltssm => execDriveLinkChange_kept up width speed ltssm hs
  | .secondaryBusReset vp => execSecondaryBusReset_kept vp hs
  | .linkDisable vp set => execLinkDisable_kept vp set hs
  | .ethFrameRx e f => execEthFrameRx_kept e f hs
  | .ethEgressCell e c => execEthEgressCell_kept e c hs
  | .reasmTimeout e => execReasmTimeout_kept e hs
  | .ptpTxRequest e want tag f => execPtpTxRequest_kept e want tag f hs
  | .ethFrameTx e => execEthFrameTx_kept e hs
  | .ethLinkChange e up speed => execEthLinkChange_kept e up speed hs
  | .lbBusRequest => execLbBusRequest_kept hs
  | .lbDeviceCycle write addr en data => execLbDeviceCycle_kept write addr en data hs
  | .lbGrantWithdraw => execLbGrantWithdraw_kept hs
  | .lbHubCycle => execLbHubCycle_kept hs
  | .lbHubCycleDone result data => execLbHubCycleDone_kept result data hs
  | .lbWaitTimeout => execLbWaitTimeout_kept hs
  | .postedWriteRx src m => execPostedWriteRx_kept src m hs
  | .acknowledgedWriteRx src m => execAcknowledgedWriteRx_kept src m hs
  | .readRx src m => execReadRx_kept src m hs
  | .completionRx src m => execCompletionRx_kept src m hs
  | .bridgeCreditRx src m => execBridgeCreditRx_kept src m hs
  | .farErrRx src m => execFarErrRx_kept src m hs
  | .bridgeRestartRx src m => execBridgeRestartRx_kept src m hs
  | .resyncRx src m => execResyncRx_kept src m hs
  | .farTmo n tag => execFarTmo_kept n tag hs
  | .postedHoldTimeout => execPostedHoldTimeout_kept hs
  | .dlyDiscard n tag => execDlyDiscard_kept n tag hs
  | .fenceClear n => execFenceClear_kept n hs
  | .felEntryFree e => execFelEntryFree_kept e hs
  | .sidebandSample levels => execSidebandSample_kept levels hs
  | .sidebandStateRx src state => execSidebandStateRx_kept src state hs
  | .sbLoss => execSbLoss_kept hs
  | .signalSend ix => execSignalSend_kept ix hs
  | .signalRx src ix v => execSignalRx_kept src ix v hs
  | .signalStale ix => execSignalStale_kept ix hs
  | .timeReadLatch p => execTimeReadLatch_kept p hs
  | .refclkLoss => execRefclkLoss_kept hs
  | .refclkReturn => execRefclkReturn_kept hs
  | .timeCellSend => execTimeCellSend_kept hs
  | .timeCellRx p c => execTimeCellRx_kept p c hs
  | .candidateLapse c => execCandidateLapse_kept c hs
  | .ptpMessageRx e m rx => execPtpMessageRx_kept e m rx hs
  | .ptpMessageSend e k seq tag frame => execPtpMessageSend_kept e k seq tag frame hs
  | .set => execSet_kept hs
  | .timeSetApply => execTimeSetApply_kept hs
  | .accept => execAccept_kept hs
  | .rtcSecondWrite => execRtcSecondWrite_kept hs
  | .waymarkInstant n => execWaymarkInstant_kept n hs
  | .waymarkPulseEnd n => execWaymarkPulseEnd_kept n hs
  | .waymarkWrite n r w => execWaymarkWrite_kept n r w hs
  | .captureEdge n falling short => execCaptureEdge_kept n falling short hs
  | .capPop p n => execCapPop_kept p n hs
  | .measureConversion code => execMeasureConversion_kept code hs
  | .measureCellFlush => execMeasureCellFlush_kept hs
  | .add n ecc rd ra rb => execAdd_kept n ecc rd ra rb hs
  | .sub n ecc rd ra rb => execSub_kept n ecc rd ra rb hs
  | .and n ecc rd ra rb => execAnd_kept n ecc rd ra rb hs
  | .or n ecc rd ra rb => execOr_kept n ecc rd ra rb hs
  | .xor n ecc rd ra rb => execXor_kept n ecc rd ra rb hs
  | .sll n ecc rd ra rb => execSll_kept n ecc rd ra rb hs
  | .srl n ecc rd ra rb => execSrl_kept n ecc rd ra rb hs
  | .sra n ecc rd ra rb => execSra_kept n ecc rd ra rb hs
  | .slt n ecc rd ra rb => execSlt_kept n ecc rd ra rb hs
  | .sltu n ecc rd ra rb => execSltu_kept n ecc rd ra rb hs
  | .mul n ecc rd ra rb => execMul_kept n ecc rd ra rb hs
  | .mulhu n ecc rd ra rb => execMulhu_kept n ecc rd ra rb hs
  | .divu n ecc rd ra rb => execDivu_kept n ecc rd ra rb hs
  | .remu n ecc rd ra rb => execRemu_kept n ecc rd ra rb hs
  | .bext n ecc rd ra lsb w => execBext_kept n ecc rd ra lsb w hs
  | .bins n ecc rd ra lsb w => execBins_kept n ecc rd ra lsb w hs
  | .addi n ecc rd ra imm => execAddi_kept n ecc rd ra imm hs
  | .andi n ecc rd ra imm => execAndi_kept n ecc rd ra imm hs
  | .ori n ecc rd ra imm => execOri_kept n ecc rd ra imm hs
  | .xori n ecc rd ra imm => execXori_kept n ecc rd ra imm hs
  | .slli n ecc rd ra sh => execSlli_kept n ecc rd ra sh hs
  | .srli n ecc rd ra sh => execSrli_kept n ecc rd ra sh hs
  | .srai n ecc rd ra sh => execSrai_kept n ecc rd ra sh hs
  | .lui n ecc rd imm => execLui_kept n ecc rd imm hs
  | .lw n ecc rd ra imm => execLw_kept n ecc rd ra imm hs
  | .lhu n ecc rd ra imm => execLhu_kept n ecc rd ra imm hs
  | .lbu n ecc rd ra imm => execLbu_kept n ecc rd ra imm hs
  | .sw n ecc rd ra imm => execSw_kept n ecc rd ra imm hs
  | .sh n ecc rd ra imm => execSh_kept n ecc rd ra imm hs
  | .sb n ecc rd ra imm => execSb_kept n ecc rd ra imm hs
  | .jalr n ecc rd ra imm => execJalr_kept n ecc rd ra imm hs
  | .slti n ecc rd ra imm => execSlti_kept n ecc rd ra imm hs
  | .cas n ecc rd ra rb => execCas_kept n ecc rd ra rb hs
  | .send n ecc rd ra rb tgt mbx => execSend_kept n ecc rd ra rb tgt mbx hs
  | .recv n ecc rd mbx => execRecv_kept n ecc rd mbx hs
  | .recvWake n => execRecvWake_kept n hs
  | .wait n ecc rd ra => execWait_kept n ecc rd ra hs
  | .waitWake n => execWaitWake_kept n hs
  | .tbl n ecc rd ra rb d => execTbl_kept n ecc rd ra rb d hs
  | .hash n ecc rd ra rb sel => execHash_kept n ecc rd ra rb sel hs
  | .crc n ecc rd ra rb alg => execCrc_kept n ecc rd ra rb alg hs
  | .time n ecc rd sel => execTime_kept n ecc rd sel hs
  | .yield n ecc => execYield_kept n ecc hs
  | .csrr n ecc rd csr => execCsrr_kept n ecc rd csr hs
  | .csrw n ecc ra csr => execCsrw_kept n ecc ra csr hs
  | .fence n ecc => execFence_kept n ecc hs
  | .kick n ecc => execKick_kept n ecc hs
  | .b n ecc c ra off => execB_kept n ecc c ra off hs
  | .bal n ecc c ra off => execBal_kept n ecc c ra off hs
  | .illegalOp n ecc w => execIllegalOp_kept n ecc w hs
  | .engineTimerExpiry n => execEngineTimerExpiry_kept n hs
  | .watchdogExpiry n => execWatchdogExpiry_kept n hs
  | .engineFaultRestart n => execEngineFaultRestart_kept n hs
  | .noyield n => execNoyield_kept n hs
  | .load path n slot => execLoad_kept path n slot hs
  | .loadDone n => execLoadDone_kept n hs
  | .restart path n => execRestart_kept path n hs
  | .retire path n => execRetire_kept path n hs
  | .bankWindowWrite n word w => execBankWindowWrite_kept n word w hs
  | .mailboxPost n w1 => execMailboxPost_kept n w1 hs
  | .arm path atEn => execArm_kept path atEn hs
  | .disarm path => execDisarm_kept path hs
  | .stage path src => execStage_kept path src hs
  | .stageDone err => execStageDone_kept err hs
  | .verify path src => execVerify_kept path src hs
  | .verifyDone err => execVerifyDone_kept err hs
  | .shadowReset path => execShadowReset_kept path hs
  | .commit path => execCommit_kept path hs
  | .revert path => execRevert_kept path hs
  | .revertStageDone err => execRevertStageDone_kept err hs
  | .probationEnd => execProbationEnd_kept hs
  | .mark path bank st => execMark_kept path bank st hs
  | .clrAttempts path => execClrAttempts_kept path hs
  | .flashCommand path w => execFlashCommand_kept path w hs
  | .flashCommandDone data eff => execFlashCommandDone_kept data eff hs
  | .prog path slot => execProg_kept path slot hs
  | .revoke path slot => execRevoke_kept path slot hs
  | .formeLoadDone err => execFormeLoadDone_kept err hs
  | .porKeep => execPorKeep_kept hs
  | .keepOscStable => execKeepOscStable_kept hs
  | .trimLoad good chip conv rsnsLow rsnsHigh => execTrimLoad_kept good chip conv rsnsLow rsnsHigh hs
  | .strapMeasure r0 r1 r2 r3 => execStrapMeasure_kept r0 r1 r2 r3 hs
  | .railGood k linear => execRailGood_kept k linear hs
  | .railTimeout k => execRailTimeout_kept k hs
  | .railRetry => execRailRetry_kept hs
  | .coreRelease => execCoreRelease_kept hs
  | .bor idx => execBor_kept idx hs
  | .xrst => execXrst_kept hs
  | .xrstRelease => execXrstRelease_kept hs
  | .therm x => execTherm_kept x hs
  | .thermRestart => execThermRestart_kept hs
  | .softWarm path key => execSoftWarm_kept path key hs
  | .softCold path key => execSoftCold_kept path key hs
  | .rstNonce path => execRstNonce_kept path hs
  | .rstRemote path w => execRstRemote_kept path w hs
  | .warmReset => execWarmReset_kept hs
  | .warmResetRelease => execWarmResetRelease_kept hs
  | .retainedRecordRestore crcOk => execRetainedRecordRestore_kept crcOk hs
  | .blockHold path b => execBlockHold_kept path b hs
  | .blockRelease path b => execBlockRelease_kept path b hs
  | .hvinRise => execHvinRise_kept hs
  | .hvinFall => execHvinFall_kept hs
  | .keepSleepEntry => execKeepSleepEntry_kept hs
  | .keepSleepWrite path w => execKeepSleepWrite_kept path w hs
  | .wakeEvent src => execWakeEvent_kept src hs
  | .wakeHvinSample good => execWakeHvinSample_kept good hs
  | .ppcWindowChange n inside => execPpcWindowChange_kept n inside hs
  | .ppcQualified n safe => execPpcQualified_kept n safe hs
  | .ppcRampDone n => execPpcRampDone_kept n hs
  | .ppcRampFault n => execPpcRampFault_kept n hs
  | .ppcFastTrip n => execPpcFastTrip_kept n hs
  | .ppcTimedTrip n => execPpcTimedTrip_kept n hs
  | .ppcGateFault n => execPpcGateFault_kept n hs
  | .ppcShort n => execPpcShort_kept n hs
  | .ppcCoolEnd n => execPpcCoolEnd_kept n hs
  | .rearm path n dmgClr => execRearm_kept path n dmgClr hs
  | .ppcEnEdge n rise long => execPpcEnEdge_kept n rise long hs
  | .onReq path n on => execOnReq_kept path n on hs
  | .safeLowReached n => execSafeLowReached_kept n hs
  | .feedSwitch near => execFeedSwitch_kept near hs
  | .cableAttachLevel c => execCableAttachLevel_kept c hs
  | .attachDebounceDone c held dual rp => execAttachDebounceDone_kept c held dual rp hs
  | .cableDetach c => execCableDetach_kept c hs
  | .drpToggle c => execDrpToggle_kept c hs
  | .trySrcTimeout c attached rp => execTrySrcTimeout_kept c attached rp hs
  | .sourceCapabilitiesRx c objs => execSourceCapabilitiesRx_kept c objs hs
  | .requestRx c rdo bus ext => execRequestRx_kept c rdo bus ext hs
  | .pdAcceptRx c => execPdAcceptRx_kept c hs
  | .pdRejectRx c => execPdRejectRx_kept c hs
  | .pdWaitRx c => execPdWaitRx_kept c hs
  | .psRdyRx c => execPsRdyRx_kept c hs
  | .prSwapRx c => execPrSwapRx_kept c hs
  | .frSwapRx c => execFrSwapRx_kept c hs
  | .vconnSwapRx m => execVconnSwapRx_kept m hs
  | .drSwapRx m => execDrSwapRx_kept m hs
  | .drSwapResult m accepted => execDrSwapResult_kept m accepted hs
  | .hardResetRx c => execHardResetRx_kept c hs
  | .hardResetRecover c rp => execHardResetRecover_kept c rp hs
  | .eprKeepaliveRx m => execEprKeepaliveRx_kept m hs
  | .sinkKeepaliveSend c => execSinkKeepaliveSend_kept c hs
  | .kaTimeout m => execKaTimeout_kept m hs
  | .spineContractLapse p => execSpineContractLapse_kept p hs
  | .errorStateExpiry c => execErrorStateExpiry_kept c hs
  | .safeLowTimeout c => execSafeLowTimeout_kept c hs
  | .vconnFault m => execVconnFault_kept m hs
  | .fastSwapDetect c => execFastSwapDetect_kept c hs
  | .fastSwapSignalRx c busOk => execFastSwapSignalRx_kept c busOk hs
  | .fastSwapPulseEnd c => execFastSwapPulseEnd_kept c hs
  | .discoverIdentity m => execDiscoverIdentity_kept m hs
  | .discoverSvids m => execDiscoverSvids_kept m hs
  | .discoverModes m => execDiscoverModes_kept m hs
  | .enterMode m => execEnterMode_kept m hs
  | .displayportConfigure m pin => execDisplayportConfigure_kept m pin hs
  | .exitMode m => execExitMode_kept m hs
  | .notSupportedReply m => execNotSupportedReply_kept m hs
  | .usbConnect => execUsbConnect_kept hs
  | .usbDisconnect => execUsbDisconnect_kept hs
  | .busReset high => execBusReset_kept high hs
  | .controlSetup setup fn done => execControlSetup_kept setup fn done hs
  | .setAddress => execSetAddress_kept hs
  | .setConfiguration => execSetConfiguration_kept hs
  | .setFeatureHalt => execSetFeatureHalt_kept hs
  | .clearFeatureHalt => execClearFeatureHalt_kept hs
  | .bulkOutPacket c tog data => execBulkOutPacket_kept c tog data hs
  | .svcRead c => execSvcRead_kept c hs
  | .svcWrite c => execSvcWrite_kept c hs
  | .svcCommand c => execSvcCommand_kept c hs
  | .svcEcho c => execSvcEcho_kept c hs
  | .stewardReply w => execStewardReply_kept w hs
  | .svcTimeout c => execSvcTimeout_kept c hs
  | .bulkInAck c => execBulkInAck_kept c hs
  | .usbSuspend => execUsbSuspend_kept hs
  | .wakeReq => execWakeReq_kept hs
  | .downstreamWake k what speed => execDownstreamWake_kept k what speed hs
  | .remoteWakeDrive => execRemoteWakeDrive_kept hs
  | .hostKSeen => execHostKSeen_kept hs
  | .usbResume => execUsbResume_kept hs
  | .uhOvercurrent k => execUhOvercurrent_kept k hs
  | .sofToken frame => execSofToken_kept frame hs
  | .sofPop p => execSofPop_kept p hs
  | .scrubWord r what => execScrubWord_kept r what hs
  | .rowRepairDone r => execRowRepairDone_kept r hs
  | .proofSpareEye target => execProofSpareEye_kept target hs
  | .proofSpareRow target => execProofSpareRow_kept target hs
  | .proofLiveRow row target => execProofLiveRow_kept row target hs
  | .proofEngineCore target => execProofEngineCore_kept target hs
  | .proofJunctionPath target => execProofJunctionPath_kept target hs
  | .proofInvalid test row target => execProofInvalid_kept test row target hs
  | .proofTestDone test target pass data => execProofTestDone_kept test target pass data hs
  | .proofDeferred test target => execProofDeferred_kept test target hs
  | .proofAutoTurn => execProofAutoTurn_kept hs
  | .evRearm w => execEvRearm_kept w hs
  | .eventMessageRx src source eng word => execEventMessageRx_kept src source eng word hs
  | .jtagExtest => execJtagExtest_kept hs
  | .jtagIdcode => execJtagIdcode_kept hs
  | .jtagSamplePreload pins data => execJtagSamplePreload_kept pins data hs
  | .jtagClamp => execJtagClamp_kept hs
  | .jtagHighz => execJtagHighz_kept hs
  | .jtagBypass code => execJtagBypass_kept code hs
  | .jtagTrst low => execJtagTrst_kept low hs
  | .prbsCheckerLock p w early late => execPrbsCheckerLock_kept p w early late hs
  | .ackOnlyFrameRx p seq ack ackv retry ecc => execAckOnlyFrameRx_kept p seq ack ackv retry ecc hs
  | .captureLinkChange d up lanes rate => execCaptureLinkChange_kept d up lanes rate hs
  | .sourcePsrChange d on => execSourcePsrChange_kept d on hs
  | .captureAuxRequest d native write addr lenM1 data => execCaptureAuxRequest_kept d native write addr lenM1 data hs
  | .hostLinkChange up width speed ltssm => execHostLinkChange_kept up width speed ltssm hs
  | .otpWriteDone => execOtpWriteDone_kept hs
  | .displayportStatusUpdate m => execDisplayportStatusUpdate_kept m hs
  | .cableIdentityRx m answer => execCableIdentityRx_kept m answer hs
  | .downstreamConnectChange k conn speed => execDownstreamConnectChange_kept k conn speed hs
  | .hvinOvervoltage above => execHvinOvervoltage_kept above hs

/-- Settles O5, by the command at the front of the queue (`exec_kept`); on an empty queue the step is a tick. The queue is
notes/assumptions/1.md, the counter of free values 2.md, the record of what was sent 4.md, and what an unlisted key reads 5.md. -/
theorem stepKeepsTablesInForm : Obligations.StepKeepsTablesInForm := by
  intro s t hok hstep
  have hs := Keeps.of_tablesOk hok
  have ht : Keeps ⟨s.pending.tail, s.out, s.freeCtr⟩ t := by
    cases hq : s.pending with
    | nil =>
      cases (step_of_idle hq).symm.trans hstep
      rw [hq] at hs
      exact State.tickTime_kept hs
    | cons c rest =>
      have htaken : Keeps ⟨rest, s.out, s.freeCtr⟩ { s with pending := rest } :=
        ⟨rfl, hs.out, hs.ctr, hs.regs, hs.shadow, hs.caseMem, hs.engSram, hs.engBank, hs.galley, hs.pimage, hs.flash⟩
      exact exec_kept htaken c t ((step_of_front hq).symm.trans hstep)
  exact ⟨ht.tablesOk, ht.queue, ht.out, ht.ctr⟩

end Sys2Proof.Machine
end

section
/-! The ring of the error log (R547, R548). -/

namespace Sys2Proof.Machine

section Ring
variable (s : State) (w0 w1 w2 w3 head k : Nat)

/-- A full ring gives its oldest entry up and counts it (R548). -/
def State.dropOldestLog (s : State) : State :=
  (s.put ELOG_PTR.ELOG_TAIL ((s.get ELOG_PTR.ELOG_TAIL + 1) % 256)).inc ELOG_PTR.OVERWRITTEN

/-- The log with an entry of four words put at `head`. -/
def putLogEntry (l : List (Nat × Word)) : List (Nat × Word) :=
  tput 0 (4 * head + 3) (BitVec.ofNat 32 w3) (tput 0 (4 * head + 2) (BitVec.ofNat 32 w2)
    (tput 0 (4 * head + 1) (BitVec.ofNat 32 w1) (tput 0 (4 * head) (BitVec.ofNat 32 w0) l)))

/-- The ring makes room, the entry is put at `ELOG_HEAD`, and `ELOG_HEAD` goes on. -/
theorem State.logWords_eq : s.logWords w0 w1 w2 w3 =
    (let head := s.get ELOG_PTR.ELOG_HEAD
     let t := if (head + 1) % 256 = s.get ELOG_PTR.ELOG_TAIL then s.dropOldestLog else s
     { t with elog := putLogEntry w0 w1 w2 w3 head s.elog }.put ELOG_PTR.ELOG_HEAD ((head + 1) % 256)) := by
  unfold State.logWords State.when
  simp only [beq_iff_eq]
  split <;> rfl

theorem tget_putLogEntry (l : List (Nat × Word)) : tget 0 k (putLogEntry w0 w1 w2 w3 head l) =
    if k = 4 * head + 3 then BitVec.ofNat 32 w3 else if k = 4 * head + 2 then BitVec.ofNat 32 w2
    else if k = 4 * head + 1 then BitVec.ofNat 32 w1 else if k = 4 * head then BitVec.ofNat 32 w0 else tget 0 k l := by
  simp only [putLogEntry, tget_tput]

theorem State.logWords_elog :
    (s.logWords w0 w1 w2 w3).elog = putLogEntry w0 w1 w2 w3 (s.get ELOG_PTR.ELOG_HEAD) s.elog := by
  rw [State.logWords_eq]
  rfl

theorem State.logWords_head :
    (s.logWords w0 w1 w2 w3).get ELOG_PTR.ELOG_HEAD = (s.get ELOG_PTR.ELOG_HEAD + 1) % 256 := by
  rw [State.logWords_eq]
  exact (State.put_get _ _ (by decide) _).trans (Nat.mod_mod _ _)

/-- The fields below `ELOG_HEAD` are those that making room leaves. -/
theorem State.logWords_get {g : Fld} (h : g.hi < 24) : (s.logWords w0 w1 w2 w3).get g =
    if (s.get ELOG_PTR.ELOG_HEAD + 1) % 256 = s.get ELOG_PTR.ELOG_TAIL then s.dropOldestLog.get g else s.get g := by
  rw [State.logWords_eq]
  dsimp only
  rw [State.put_get_of_apart _ (.inr (.inr h))]
  split <;> rfl

theorem State.dropOldestLog_tail :
    s.dropOldestLog.get ELOG_PTR.ELOG_TAIL = (s.get ELOG_PTR.ELOG_TAIL + 1) % 256 := by
  rw [State.dropOldestLog, State.inc_get_of_apart _ (.inr (.inl (by decide))), State.put_get _ _ (by decide)]
  exact Nat.mod_mod _ _

theorem State.dropOldestLog_overwritten : s.dropOldestLog.get ELOG_PTR.OVERWRITTEN =
    min (s.get ELOG_PTR.OVERWRITTEN + 1) (2 ^ (ELOG_PTR.OVERWRITTEN.hi + 1 - ELOG_PTR.OVERWRITTEN.lo) - 1) := by
  rw [State.dropOldestLog, State.inc_get _ _ (by decide), State.put_get_of_apart _ (.inr (.inr (by decide)))]

end Ring

/-- Settles O14: the words by `tget_putLogEntry`, the pointers by whether the ring is full. -/
theorem errorLogRingRule : Obligations.ErrorLogRingRule := by
  intro w0 w1 w2 w3 s
  dsimp only
  simp only [State.logWords_elog, tget_putLogEntry]
  refine ⟨s.logWords_head w0 w1 w2 w3, ?_, ?_, ?_, ?_, fun k hk => ?_, ?_⟩
  · simp
  · simp
  · simp
  · simp
  · rw [if_neg (by omega), if_neg (by omega), if_neg (by omega), if_neg (by omega)]
  · rw [s.logWords_get w0 w1 w2 w3 (g := ELOG_PTR.ELOG_TAIL) (by decide),
      s.logWords_get w0 w1 w2 w3 (g := ELOG_PTR.OVERWRITTEN) (by decide)]
    split
    case isTrue hfull => exact ⟨s.dropOldestLog_tail, s.dropOldestLog_overwritten⟩
    case isFalse => exact ⟨rfl, rfl⟩

end Sys2Proof.Machine
end

section
/-! The power path controllers (R461 to R474). -/

namespace Sys2Proof.Machine

section Paths
variable (s : State)

@[simp] theorem State.setPath_path_self (k : Nat) (g : PowerPath → PowerPath) : (s.setPath k g).path k = g (s.path k) :=
  tget_tput_self _ _ _ _

/-! ### Measurements and timers (R462, R467 to R472) -/

section Measured
variable (n : Path10)

theorem State.windowLost_of_outside {k : Nat} (hw : (s.path k).inWin = false) (hs : s.ppState k = 2 ∨ s.ppState k = 4) :
    s.windowLost k = (((s.put (ppSt k) 1).inc (PP_COUNT.WIN_LOSS k)).setPath k fun p => { p with waited := false }).afterFeed k :=
  if_pos ⟨by simp [hw], hs⟩

theorem exec_ppcWindowChange_outside (hs : s.ppState n.val = 2 ∨ s.ppState n.val = 4) (hf : s.frozen n.val = false) :
    exec (.ppcWindowChange n false) s = .next (((((s.setPath n.val fun p => { p with inWin := false }).put
      (PP_STATUS.STATE n.val) 1).inc (PP_COUNT.WIN_LOSS n.val)).setPath n.val fun p =>
        { p with waited := false }).afterFeed n.val) :=
  congrArg Host.Outcome.next ((if_neg (Bool.eq_false_iff.1 hf)).trans (State.windowLost_of_outside _ (by simp) hs))

theorem exec_ppcQualified (safe : Bool) (hs : s.ppState n.val = 1) (hw : (s.path n.val).inWin = true)
    (hk : s.keepHold = false) :
    exec (.ppcQualified n safe) s = .next (((s.put (PP_STATUS.STATE n.val) 2).afterFeed n.val).ppClose n.val safe) :=
  congrArg Host.Outcome.next (if_pos ⟨hs, hw, by simp [hk]⟩)

theorem exec_ppcRampDone (hs : s.ppState n.val = 3) (hf : s.frozen n.val = false) :
    exec (.ppcRampDone n) s = .next
      (((s.put (PP_STATUS.STATE n.val) 4).put (PP_STATUS.REGULATING n.val) 0).afterFeed n.val) :=
  congrArg Host.Outcome.next ((if_neg (Bool.eq_false_iff.1 hf)).trans (if_pos hs))

theorem exec_ppcRampFault (hs : s.ppState n.val = 3) : exec (.ppcRampFault n) s = .next (s.ppTrip n.val 3) :=
  congrArg Host.Outcome.next (if_pos hs)

theorem exec_ppcFastTrip (hs : s.ppState n.val = 3 ∨ s.ppState n.val = 4) :
    exec (.ppcFastTrip n) s = .next (s.ppTrip n.val 1) :=
  congrArg Host.Outcome.next (if_pos hs)

theorem exec_ppcTimedTrip (hs : s.ppState n.val = 4) : exec (.ppcTimedTrip n) s = .next (s.ppTrip n.val 2) :=
  congrArg Host.Outcome.next (if_pos hs)

theorem exec_ppcGateFault (hs : s.ppState n.val = 4) : exec (.ppcGateFault n) s = .next (s.ppDamage n.val 4) :=
  congrArg Host.Outcome.next (if_pos hs)

theorem exec_ppcShort (hp : s.hasPath n.val = true) (hs : s.ppState n.val ≤ 2 ∨ s.ppState n.val = 5) :
    exec (.ppcShort n) s = .next (s.ppDamage n.val 5) :=
  congrArg Host.Outcome.next ((if_neg (by simp [hp])).trans (if_pos hs))

end Measured

/-! ### Enables and requests (R461, R462, R469, R473) -/

section Requests
variable (n : Path10)

/-- The level of the enable input decides neither the class's paths, nor the use of the input, nor a hold. -/
theorem State.enLevel_conditions (v : Nat) :
    (s.put (PP_STATUS.EN_LEVEL n.val) v).hasPath n.val = s.hasPath n.val ∧
    (s.put (PP_STATUS.EN_LEVEL n.val) v).on (PP_CFG.EN_USE n.val) = s.on (PP_CFG.EN_USE n.val) ∧
    (s.put (PP_STATUS.EN_LEVEL n.val) v).keepHold = s.keepHold := by
  have hid : ID_DEVICE ≠ PP_STATUS n.val := by simp only [ID_DEVICE, PP_STATUS]; omega
  have hcfg : PP_CFG n.val ≠ PP_STATUS n.val := by simp only [PP_CFG, PP_STATUS]; omega
  have hkl : KL_STATUS ≠ PP_STATUS n.val := by simp only [KL_STATUS, PP_STATUS]; omega
  refine ⟨?_, State.put_on_of_apart _ (.inl hcfg) _, State.put_on_of_apart _ (.inl hkl) _⟩
  rw [State.hasPath, State.cls, State.put_get_of_apart _ (.inl hid)]
  rfl

theorem exec_ppcEnEdge (rise long : Bool) (hp : s.hasPath n.val = true) (hu : s.on (PP_CFG.EN_USE n.val) = true)
    (hk : s.keepHold = false) :
    exec (.ppcEnEdge n rise long) s = .next
      (if rise && long then ((s.put (PP_STATUS.EN_LEVEL n.val) rise.toNat).ppToggle n.val).ppEval n.val
      else (s.put (PP_STATUS.EN_LEVEL n.val) rise.toNat).ppEval n.val) := by
  obtain ⟨hpath, huse, hhold⟩ := s.enLevel_conditions n rise.toNat
  show execPpcEnEdge n rise long s = _
  simp [execPpcEnEdge, State.when, hp, hpath, huse, hu, hhold, hk]

variable (path : Path)

/-- The command register of a path holds no field of the Forme. -/
theorem hasFh_ppCmd : ∀ n : Path10, hasFh (PP_CMD n.val) = false := by decide

theorem State.onReq_taken {k : Nat} {on : Bool} (hw : s.warmRefuses = false) (h8 : 8 ≤ k) (ho : on = false ∨ s.ppState k < 5) :
    s.onReq path k on = (0, (s.put (PP_CMD.ON_REQ k) on.toNat).ppEval k) := by
  have hlive : ¬ (on = true ∧ 5 ≤ s.ppState k) := by
    rintro ⟨hon, h5⟩
    obtain h | h := ho
    · exact Bool.false_ne_true (h.symm.trans hon)
    · omega
  rw [State.onReq, if_neg (Nat.not_lt.2 h8), if_neg (Bool.eq_false_iff.1 hw), if_neg hlive]

section Reached
variable (hk : s.keepOut = false) (hb : s.behind path = false) (he : s.blockExcluded (PP_CMD n.val) = false)
include hk hb he

/-- A command to a path that the Keep die takes waits for no copy of the Forme (R19). -/
theorem State.keepCmd_ppCmd (c : Instr) (g : State → State) : s.keepCmd path (PP_CMD n.val) c g = g s :=
  s.keepCmd_open c g hb hk (by simp [hasFh_ppCmd]) he

theorem exec_rearm (dmgClr : Bool) :
    exec (.rearm path n dmgClr) s = .next ((s.ppRearm n.val dmgClr).emit (.access path (PP_CMD n.val) 0 0)) :=
  congrArg Host.Outcome.next (s.keepCmd_ppCmd n path hk hb he _ _)

theorem exec_onReq (on : Bool) (hw : s.warmRefuses = false) (h8 : 8 ≤ n.val) (ho : on = false ∨ s.ppState n.val < 5) :
    exec (.onReq path n on) s = .next
      (((s.put (PP_CMD.ON_REQ n.val) on.toNat).ppEval n.val).emit (.access path (PP_CMD n.val) 0 0)) := by
  refine congrArg Host.Outcome.next ((s.keepCmd_ppCmd n path hk hb he _ _).trans ?_)
  rw [s.onReq_taken path hw h8 ho]

end Reached
end Requests

theorem exec_feedSwitch (near : Bool) (hg : s.pw.feedGap = true) (hf : s.get PP_FEED.ACTIVE < 2)
    (hs : s.ppState (s.get PP_FEED.ACTIVE) = 2) :
    exec (.feedSwitch near) s = .next ((s.setPw fun p => { p with feedGap := false }).put
      (PP_STATUS.STATE (s.get PP_FEED.ACTIVE)) (if near then 4 else 3)) := by
  refine congrArg Host.Outcome.next ((if_pos hg).trans ((if_pos ⟨hf, hs⟩).trans ?_))
  cases near <;> rfl

end Paths

/-- Settles O26, one lemma for each command that the state decides on; the end of a cool-down is its definition. -/
theorem powerPathCommands : Obligations.PowerPathCommands :=
  ⟨fun n s => exec_ppcWindowChange_outside s n,
    fun n safe s => exec_ppcQualified s n safe,
    fun n s => exec_ppcRampDone s n,
    fun n s => exec_ppcRampFault s n,
    fun n s => exec_ppcFastTrip s n,
    fun n s => exec_ppcTimedTrip s n,
    fun n s => exec_ppcGateFault s n,
    fun n s => exec_ppcShort s n,
    fun _ _ => rfl,
    fun path n dmgClr s hk hb he => exec_rearm s n path hk hb he dmgClr,
    fun n rise long s => exec_ppcEnEdge s n rise long,
    fun path n on s hk hb he => exec_onReq s n path hk hb he on,
    fun near s => exec_feedSwitch s near⟩

end Sys2Proof.Machine
end

section
/-! The cable ports: attach and detach, contracts (R482 to R489, R492 to R496), swaps, resets and the DisplayPort Alternate Mode
(R475 to R480, R490, R491). -/

namespace Sys2Proof.Machine

section Cable
variable (s : State)

/-! ### Attach and detach (R482, R483, R492, R493, R495) -/

section Attach
variable (c : CPort)

theorem exec_cableAttachLevel (h0 : s.cState c.val = 0) (hp : s.freePull c.val ≠ 0) (hl : (s.port6 c.val).leaving = false) :
    exec (.cableAttachLevel c) s = .next (((s.put (cSt c.val) 1).setPort6 c.val fun x =>
      { x with pull := s.freePull c.val, trying := false, tried := false }).scwLevel c.val 1) :=
  congrArg Host.Outcome.next (if_pos ⟨h0, hp, by simp [hl]⟩)

theorem exec_attachDebounceDone_held (rp : Fin 3) (h1 : s.cState c.val = 1) (ht : (s.port6 c.val).trying = false) :
    exec (.attachDebounceDone c true false rp) s =
      .next (s.attach c.val (if (s.port6 c.val).pull = 1 then 2 else 1) rp.val) :=
  congrArg Host.Outcome.next ((if_neg (by simp [h1, ht])).trans ((if_neg (by decide)).trans (if_neg (by simp))))

theorem exec_trySrcTimeout_attached (rp : Fin 3) (ht : (s.port6 c.val).trying = true) :
    exec (.trySrcTimeout c true rp) s = .next (s.attach c.val (if (s.port6 c.val).pull = 1 then 2 else 1) rp.val) :=
  congrArg Host.Outcome.next (if_pos ht)

theorem exec_drpToggle (h0 : s.cState c.val = 0) (hsink : s.roleAllowed c.val 1 = true) (hsource : s.roleAllowed c.val 2 = true) :
    exec (.drpToggle c) s = .next (s.setPort6 c.val fun x => { x with dualUp := !x.dualUp }) :=
  congrArg Host.Outcome.next (if_pos ⟨h0, hsink, hsource⟩)

theorem exec_cableDetach_attachWait (h1 : s.cState c.val = 1) (hl : (s.port6 c.val).leaving = false) :
    exec (.cableDetach c) s = .next ((s.put (cSt c.val) 0).scwLevel c.val 0) :=
  congrArg Host.Outcome.next ((if_neg (by simp [h1, hl])).trans (if_pos h1))

theorem exec_safeLowReached_discharging (n : Path10) (h : ((s.ppClose n.val true).path n.val).dsch = true) :
    exec (.safeLowReached n) s = .next (((s.ppClose n.val true).discharge (n.val - 2) false).setPort6 (n.val - 2) fun x =>
      { x with leaving := false }) :=
  congrArg Host.Outcome.next (if_pos h)

theorem exec_safeLowTimeout (h : (s.path (2 + c.val)).dsch = true) :
    exec (.safeLowTimeout c) s = .next
      ((((s.discharge c.val false).cableDrop c.val 9).ppWithdraw (2 + c.val)).cpEvent c.val CP_EVENT.SAFE_TMO) :=
  congrArg Host.Outcome.next (if_pos h)

theorem exec_errorStateExpiry (h9 : s.cState c.val = 9) (hp : s.ppState (2 + c.val) = 0) :
    exec (.errorStateExpiry c) s = .next ((s.put (cSt c.val) 0).scwLevel c.val 0) :=
  congrArg Host.Outcome.next (if_pos ⟨h9, hp⟩)

end Attach

/-! ### Contracts (R479, R485, R487, R489, R492) -/

section Contract
variable (c : CPort)

theorem exec_sourceCapabilitiesRx_dock (objs : List Word) (hr : s.get (cRole c.val) = 1) (hk : s.keepHold = false)
    (hs : s.cState c.val = 2 ∨ s.cState c.val = 5) (h4 : ¬ c.val < 4) :
    exec (.sourceCapabilitiesRx c objs) s = .next
      (let a := s.dockAsk c.val objs
       ((s.setPort6 c.val fun x =>
          { x with before := s.cState c.val, askV := a.mv, askI := a.ma, askKind := a.kind, rdo := a.rdo c.val }).put
        (cSt c.val) 3).emit (.pd c.val .request [a.rdo c.val])) := by
  have hasks : ¬ (s.get (cRole c.val) ≠ 1 ∨ s.keepHold = true ∨ s.cState c.val ≠ 2 ∧ s.cState c.val ≠ 5) := by
    obtain h | h := hs <;> simp [hr, hk, h]
  show execSourceCapabilitiesRx c objs s = _
  simp only [execSourceCapabilitiesRx, if_neg hasks, if_neg h4]

theorem exec_requestRx_hold (rdo : Word) (bus : Fin 1200) (ext : Bool) (hr : s.get (cRole c.val) = 2) (h2 : s.cState c.val = 2)
    (hk : s.keepHold = true) : exec (.requestRx c rdo bus ext) s = .next (s.emit (.pd c.val .wait [])) :=
  congrArg Host.Outcome.next ((if_neg (by simp [hr, h2])).trans (if_pos ⟨hk, by simp [h2]⟩))

theorem exec_pdAcceptRx_sink (h3 : s.cState c.val = 3) :
    exec (.pdAcceptRx c) s = .next ((s.put (cSt c.val) 4).orderPath c.val 1 (s.port6 c.val).askI
      (moveWindow c.val (s.cv c.val) (s.port6 c.val).askV)) :=
  congrArg Host.Outcome.next (if_pos h3)

theorem exec_psRdyRx_sink (h4 : s.cState c.val = 4) (hr : s.get (cRole c.val) = 1) :
    exec (.psRdyRx c) s = .next (s.contractNow c.val) :=
  congrArg Host.Outcome.next ((if_pos h4).trans (congrArg (State.contractNow · c.val) (if_neg (by simp [hr]))))

theorem exec_spineContractLapse (p : Port) (h5 : s.cState p.val = 5) (hr : s.get (cRole p.val) = 2)
    (hx : (s.port6 p.val).explicit = true) (hq : s.silentMs p.val 6000 = true) :
    exec (.spineContractLapse p) s = .next (((((s.put (cSt p.val) 6).setPath (2 + p.val) fun x =>
      { x with limit := s.get (SW_POLICY.LAPSE_MA p.val) }).emit (.pd p.val .alert [])).inc (SW_CNT.LAPSES p.val)).cpEvent p.val
        CP_EVENT.LAPSE) :=
  congrArg Host.Outcome.next (if_pos ⟨h5, hr, hx, hq⟩)

theorem exec_eprKeepaliveRx (m : Fin 2) (hr : s.get (cRole (4 + m.val)) = 2) :
    exec (.eprKeepaliveRx m) s = .next (s.alive (4 + m.val)) :=
  congrArg Host.Outcome.next (if_pos hr)

theorem exec_sinkKeepaliveSend_spine (h5 : s.cState c.val = 5) (hr : s.get (cRole c.val) = 1) (h4 : c.val < 4) :
    exec (.sinkKeepaliveSend c) s = .next (s.emit (.pd c.val .request [(s.port6 c.val).rdo])) :=
  congrArg Host.Outcome.next ((if_pos ⟨h5, hr⟩).trans (if_neg (by simp [h4])))

theorem exec_kaTimeout (m : Fin 2) (h5 : s.cState (4 + m.val) = 5) (hr : s.get (cRole (4 + m.val)) = 2)
    (hkind : 3 ≤ s.get (DK_STATE.KIND m.val)) (hq : s.silentMs (4 + m.val) (s.kaLimitMs m.val) = true) :
    exec (.kaTimeout m) s = .next ((((s.emit (.pd (4 + m.val) .hardReset [])).hardReset (4 + m.val)).inc
      (DK_CNT.KA_TMO m.val)).cpEvent (4 + m.val) CP_EVENT.KA_TMO) :=
  congrArg Host.Outcome.next (if_pos ⟨h5, hr, hkind, hq⟩)

end Contract

/-! ### Swaps, Hard Reset and VCONN (R477, R478, R491, R492) -/

section Swaps
variable (c : CPort) (m : Fin 2)

theorem exec_frSwapRx_oldSource (h7 : s.cState c.val = 7) (hs : (s.port6 c.val).swap = 2)
    (ht : (s.port6 c.val).toSource = false) : exec (.frSwapRx c) s = .next (s.emit (.pd c.val .accept [])) :=
  congrArg Host.Outcome.next (if_pos ⟨h7, hs, by simp [ht]⟩)

theorem State.answerSwap_accepted {k : Nat} {ok : Bool} (g : State → State) (hk : s.keepHold = false) (ho : ok = true) :
    s.answerSwap k ok g = g (s.emit (.pd k .accept [])) := by
  simp [State.answerSwap, hk, ho]

theorem exec_vconnSwapRx_default (h2 : s.cState (4 + m.val) = 2) (hk : s.keepHold = false)
    (hv : s.on (DK_POLICY.VCONN_EN m.val) = true) :
    exec (.vconnSwapRx m) s = .next ((s.emit (.pd (4 + m.val) .accept [])).put (DK_STATE.VCONN_ON m.val)
      (1 - s.get (DK_STATE.VCONN_ON m.val))) := by
  refine congrArg Host.Outcome.next ((if_neg (by simp [h2])).trans ((s.answerSwap_accepted _ hk hv).trans ?_))
  simp only [h2]
  rfl

theorem exec_drSwapResult_accepted (hd : (s.port6 (4 + m.val)).drSent = true) :
    exec (.drSwapResult m true) s = .next (s.put (DK_STATE.DROLE m.val) 0) :=
  congrArg Host.Outcome.next ((if_neg (by simp [hd])).trans (if_pos rfl))

theorem exec_hardResetRx (h2 : 2 ≤ s.cState c.val) (h9 : s.cState c.val ≠ 9) :
    exec (.hardResetRx c) s = .next (s.hardReset c.val) :=
  congrArg Host.Outcome.next (if_neg (by omega))

theorem exec_hardResetRecover (rp : Fin 3) (h8 : s.cState c.val = 8) (hd : (s.path (2 + c.val)).dsch = false) :
    exec (.hardResetRecover c rp) s = .next (s.enterDefault c.val (s.get (cRole c.val)) rp.val) :=
  congrArg Host.Outcome.next (if_pos ⟨h8, by simp [hd]⟩)

theorem exec_vconnFault (h : s.on (DK_STATE.VCONN_ON m.val) = true) :
    exec (.vconnFault m) s = .next (((s.put (DK_STATE.VCONN_ON m.val) 0).setPort6 (4 + m.val) fun x =>
      { x with vcFault := true }).cpEvent (4 + m.val) CP_EVENT.VCONN_FAULT) :=
  congrArg Host.Outcome.next (if_pos h)

/-- What a cable declares is beside the port's state. -/
theorem State.putCable_cState {f : Fld} (hf : f.addr = DK_CABLE m.val) (v : Nat) :
    (s.put f v).cState (4 + m.val) = s.cState (4 + m.val) := by
  have hst : cSt (4 + m.val) = DK_STATE.CSTATE m.val := by simp [cSt]
  refine State.put_get_of_apart _ (.inl ?_) _
  rw [hst, hf]
  simp only [DK_STATE, DK_CABLE]
  omega

theorem exec_cableIdentityRx_unattached (h : s.cState (4 + m.val) < 2) :
    exec (.cableIdentityRx m none) s = .next ((s.put (DK_CABLE.CBL_I m.val) 0).put (DK_CABLE.CBL_EPR m.val) 0) := by
  refine congrArg Host.Outcome.next (if_neg fun hsource => ?_)
  have h2 : 2 ≤ ((s.put (DK_CABLE.CBL_I m.val) 0).put (DK_CABLE.CBL_EPR m.val) 0).cState (4 + m.val) := hsource.2
  rw [State.putCable_cState _ m rfl, State.putCable_cState _ m rfl] at h2
  omega

end Swaps

/-! ### Fast role swap (R490, R491) -/

section FastSwap
variable (c : CPort)

theorem exec_fastSwapDetect (he : s.frsEn c.val = true) (hr : s.get (cRole c.val) = 2)
    (hs : s.cState c.val = 5 ∨ s.cState c.val = 6) (hf : s.feedOn = false) (hp : s.ppState (2 + c.val) = 4) :
    exec (.fastSwapDetect c) s = .next ((((s.emit (.scw c.val true)).fastRole c.val 1).put (cSt c.val) 7).setPort6 c.val fun x =>
      { x with swap := 2, toSource := false }) :=
  congrArg Host.Outcome.next (if_pos ⟨he, hr, hs, by simp [hf], hp⟩)

theorem exec_fastSwapSignalRx_unarmed (busOk : Bool) (hr : s.get (cRole c.val) = 1) (ha : s.fsArmed c.val busOk = false) :
    exec (.fastSwapSignalRx c busOk) s = .next (s.fsFail c.val) :=
  congrArg Host.Outcome.next ((if_neg (by simp [hr])).trans (if_neg (by simp [ha])))

theorem exec_fastSwapPulseEnd (hs : (s.port6 c.val).swap = 2) (ht : (s.port6 c.val).toSource = false) :
    exec (.fastSwapPulseEnd c) s = .next (s.emit (.scw c.val false)) :=
  congrArg Host.Outcome.next (if_pos ⟨hs, by simp [ht]⟩)

end FastSwap

/-! ### DisplayPort Alternate Mode (R480) -/

section AlternateMode
variable (m : Fin 2)

/-- Where the mode is offered, a structured message has its answer. -/
theorem State.next_altAnswer {k : Nat} (h : s.altOffered k = true) (msg : PdSend) (objs : List Nat) :
    (.next (s.altAnswer k msg objs) : Result) = .next (s.emit (.pd (4 + k) msg objs)) :=
  congrArg Host.Outcome.next (if_pos h)

theorem exec_displayportConfigure (pin : Fin 8) (h : s.altOffered m.val = true) (hp : pin.val = 2 ∨ pin.val = 4) :
    exec (.displayportConfigure m pin) s = .next ((s.put (DK_STATE.ALT_ON m.val) 1).emit (.pd (4 + m.val) .ack [])) :=
  congrArg Host.Outcome.next (if_pos ⟨h, hp⟩)

theorem exec_exitMode (h : s.on (DK_STATE.ALT_ON m.val) = true) :
    exec (.exitMode m) s = .next ((s.put (DK_STATE.ALT_ON m.val) 0).emit (.pd (4 + m.val) .exitMode [])) :=
  congrArg Host.Outcome.next (if_pos h)

end AlternateMode
end Cable

/-! ### The statements -/

/-- Settles O31, one lemma for each command that the state decides on; a Reject and a Wait are their definitions. The supply that a
dock port asks for, and the bits of its Request, are notes/assumptions/41.md. -/
theorem cableAttachAndPower : Obligations.CableAttachAndPower :=
  ⟨fun c s => exec_cableAttachLevel s c,
    fun c rp s => exec_attachDebounceDone_held s c rp,
    fun c rp s => exec_trySrcTimeout_attached s c rp,
    fun c s => exec_drpToggle s c,
    fun c s => exec_cableDetach_attachWait s c,
    fun n s => exec_safeLowReached_discharging s n,
    fun c s => exec_safeLowTimeout s c,
    fun c s => exec_errorStateExpiry s c,
    fun c objs s => exec_sourceCapabilitiesRx_dock s c objs,
    fun c rdo bus ext s => exec_requestRx_hold s c rdo bus ext,
    fun c s => exec_pdAcceptRx_sink s c,
    fun _ _ => rfl, fun _ _ => rfl,
    fun c s => exec_psRdyRx_sink s c,
    fun p s => exec_spineContractLapse s p,
    fun m s => exec_eprKeepaliveRx s m,
    fun c s => exec_sinkKeepaliveSend_spine s c,
    fun m s => exec_kaTimeout s m⟩

/-- Settles O32, one lemma for each command that the state decides on; PR_Swap, DR_Swap and Not_Supported are their definitions,
and the messages of the Alternate Mode one lemma on their answer. That VCONN_Swap is accepted where R478 lets the hub supply it is
notes/assumptions/42.md. -/
theorem cableSwapsAndModes : Obligations.CableSwapsAndModes :=
  ⟨fun _ _ => rfl,
    fun c s => exec_frSwapRx_oldSource s c,
    fun m s => exec_vconnSwapRx_default s m,
    fun _ _ => rfl,
    fun m s => exec_drSwapResult_accepted s m,
    fun c s => exec_hardResetRx s c,
    fun c rp s => exec_hardResetRecover s c rp,
    fun m s => exec_vconnFault s m,
    fun m s => exec_cableIdentityRx_unattached s m,
    fun c s => exec_fastSwapDetect s c,
    fun c busOk s => exec_fastSwapSignalRx_unarmed s c busOk,
    fun c s => exec_fastSwapPulseEnd s c,
    fun _ s h => s.next_altAnswer h .identity [],
    fun _ s h => s.next_altAnswer h .svids [0xFF01],
    fun _ s h => s.next_altAnswer h .modes [0b10100],
    fun _ s h => s.next_altAnswer h .ack [], -- ENTER_MODE
    fun m pin s => exec_displayportConfigure s m pin,
    fun m s => exec_exitMode s m,
    fun m s h => s.next_altAnswer h .dpStatus [s.hpdState m.val],
    fun _ _ => rfl⟩

end Sys2Proof.Machine
end

section
/-! The USB dock: the upstream connection, control transfers, suspend and wake, frames (R497 to R501, R506, R514 to R520), and the
service channels (R504 to R512). -/

namespace Sys2Proof.Machine

section Usb
variable (s : State)

/-! ### Connection, reset and downstream ports (R497, R498, R500, R501, R520) -/

section Connection
variable (k : Fin 4)

theorem exec_usbConnect (h0 : s.ustate = 0) (hm : s.mayConnect = true) :
    exec .usbConnect s = .next (((s.put USB_STATUS.USTATE 1).emit (.usbPull true)).raise USB_EVENT.ATTACH) :=
  congrArg Host.Outcome.next (if_pos ⟨h0, hm⟩)

theorem exec_busReset_highSpeed (h0 : s.ustate ≠ 0) :
    exec (.busReset true) s =
      .next (((s.tileReset.raise USB_EVENT.BUS_RESET).put USB_STATUS.USTATE 2).put USB_STATUS.HS 1) :=
  congrArg Host.Outcome.next ((if_neg h0).trans (if_pos rfl))

theorem exec_uhOvercurrent (hd : s.on ID_PRESENT.DOCK = true) :
    exec (.uhOvercurrent k) s = .next ((s.uhOver k.val).wakeReason 3) :=
  congrArg Host.Outcome.next (if_pos hd)

theorem exec_downstreamConnectChange (conn : Bool) (speed : Fin 3) (hd : s.on ID_PRESENT.DOCK = true) (h5 : s.ustate ≠ 5) :
    exec (.downstreamConnectChange k conn speed) s = .next (s.uhConnect k.val conn speed.val) :=
  congrArg Host.Outcome.next (if_neg (by simp [h5, hd]))

end Connection

/-! ### Control transfers (R506, R514, R520) -/

section Control
variable {n : Nat} {t : State}

/-- A setup packet that is no vendor's is kept until its status stage, which is still to come. -/
theorem exec_controlSetup_pending (setup : BitVec 64) (fn : Bool) (h2 : 2 ≤ s.ustate) (h5 : s.ustate ≠ 5)
    (hv : setupField setup.toNat 0 1 / 32 % 4 ≠ 2) :
    exec (.controlSetup setup fn false) s = .next ((s.abandonCtrl.bufWrite 0 0 (leBytes 8 setup.toNat)).setDk fun d =>
      { d with ctrl := some (setup.toNat, fn) }) :=
  congrArg Host.Outcome.next ((if_neg (by omega)).trans ((if_neg hv).trans (if_neg (by simp))))

theorem exec_setAddress (h : s.stageOf 0 5 = some (n, t)) :
    exec .setAddress s = .next ((t.put USB_STATUS.ADDR (setupField n 2 2 % 128)).put USB_STATUS.USTATE
      (if setupField n 2 2 % 128 = 0 then 2 else 3)) := by
  show execSetAddress s = _
  simp only [execSetAddress, h]

theorem exec_setConfiguration (h : s.stageOf 0 9 = some (n, t)) :
    exec .setConfiguration s = .next ((t.each (List.range 4) fun c s => s.setChan c fun x =>
      { x with outTog := false, inTog := false }).put USB_STATUS.USTATE (if setupField n 2 1 = 0 then 3 else 4)) := by
  show execSetConfiguration s = _
  simp only [execSetConfiguration, h]

section Halt
variable {c : Nat} {dir : Bool} (he : endpointOf n = some (c, dir))
include he

theorem exec_setFeatureHalt (h : s.stageOf 2 3 = some (n, t)) :
    exec .setFeatureHalt s = .next (t.putBit (if dir then USB_STATUS.HALT_IN else USB_STATUS.HALT_OUT) c true) := by
  show execSetFeatureHalt s = _
  simp only [execSetFeatureHalt, h, he]

theorem exec_clearFeatureHalt (h : s.stageOf 2 1 = some (n, t)) : exec .clearFeatureHalt s = .next (t.unhalt c dir) := by
  show execClearFeatureHalt s = _
  simp only [execClearFeatureHalt, h, he]

end Halt
end Control

/-! ### Suspend and wake (R517 to R519) -/

section Suspend

theorem exec_usbSuspend (h2 : 2 ≤ s.ustate) (h4 : s.ustate ≤ 4) :
    exec .usbSuspend s = .next (((s.setDk fun d =>
      { d with before := s.ustate, suspAt := s.tm.tick, why := 0, driving := false, hostK := false }).put USB_STATUS.USTATE
        5).raise USB_EVENT.SUSPEND) :=
  congrArg Host.Outcome.next (if_pos ⟨h2, h4⟩)

variable (h5 : s.ustate = 5)
include h5

theorem exec_downstreamWake_remote (k : Fin 4) (speed : Fin 3) :
    exec (.downstreamWake k 0 speed) s = .next ((s.put (USB_PORT.PSUSP k.val) 0).wakeReason 2) :=
  congrArg Host.Outcome.next ((if_neg (not_not.2 h5)).trans (if_pos rfl))

variable (hd : s.dk.driving = false)
include hd

theorem exec_remoteWakeDrive (hp : s.on USB_WAKE.WAKE_PEND = true) (ht : 5000000 ≤ s.elapsed s.dk.suspAt) :
    exec .remoteWakeDrive s = .next ((s.setDk fun d => { d with driving := true }).emit (.usbK true)) :=
  congrArg Host.Outcome.next (if_pos ⟨h5, hp, by simp [hd], ht⟩)

theorem exec_hostKSeen_idle :
    exec .hostKSeen s = .next (((s.setDk fun d => { d with driving := false, hostK := true, why := 1 }).put USB_WAKE.WAKE_PEND
      0).put USB_WAKE.WAKE_WHY 1) := by
  refine congrArg Host.Outcome.next ((if_neg (not_not.2 h5)).trans ?_)
  rw [hd, State.when_false]

theorem exec_usbResume_host :
    exec .usbResume s = .next ((((((s.put USB_STATUS.USTATE s.dk.before).setDk fun d =>
      { d with why := 0, driving := false, hostK := false }).put USB_WAKE.WAKE_PEND 0).put USB_WAKE.WAKE_WHY 1).inc
        USB_WAKE.WAKES).raise USB_EVENT.RESUME) := by
  refine congrArg Host.Outcome.next ((if_neg (not_not.2 h5)).trans ?_)
  rw [hd, State.when_false]
  rfl

end Suspend

/-! ### Start-of-frame capture (R515, R516) -/

section Frames

/-- The first microframe of a new frame is captured while the FIFO has room. -/
theorem exec_sofToken_newFrame (frame : BitVec 11) (h4 : s.ustate = 4) (he : s.on SOF_CFG.SOF_EN = true)
    (hf : frame.toNat ≠ s.dk.frame) (hl : s.dk.sof.length < 16) :
    exec (.sofToken frame) s = .next (((s.setDk fun d => { d with frame := frame.toNat, uframe := 0 }).setDk fun d =>
      { d with sof := d.sof ++ [(frame.toNat, 0, s.tm.sec, s.tm.ns)] }).put SOF_CFG.SOF_DEPTH (s.dk.sof.length + 1)) := by
  show execSofToken frame s = _
  simp [execSofToken, h4, he, hf, Nat.ne_of_lt hl]

theorem exec_sofPop (p : Path) (hb : s.behind p = false) (hd : s.on ID_PRESENT.DOCK = true) :
    exec (.sofPop p) s = .next (s.sofPop.emit (.access p SOF_POP 0 (s.sofPop.reg SOF_POP))) :=
  congrArg Host.Outcome.next ((s.ordered_open _ _ hb rfl).trans (if_neg (by simp [hd])))

end Frames
end Usb

/-! ### Service channels (R504, R505, R508 to R512) -/

section Service
variable (s : State) (c : ChanNo)

theorem exec_bulkOutPacket_taken (tog : Bool) (data : List Byte) (h4 : s.ustate = 4)
    (he : s.on (GALLEY_MAP.GM_EN (outBuf c.val)) = true) (hh : s.getBit USB_STATUS.HALT_OUT c.val = false)
    (hw : (s.chan c.val).whole = false) (ht : tog = (s.chan c.val).outTog) :
    exec (.bulkOutPacket c tog data) s = .next (s.outPacket c.val (data.take 512)) :=
  congrArg Host.Outcome.next ((if_neg (by simp [h4, he])).trans ((if_neg (Bool.eq_false_iff.1 hh)).trans
    ((if_neg (Bool.eq_false_iff.1 hw)).trans (if_neg (not_not.2 ht)))))

section Access
variable (hb : s.behind .usb = false)
include hb

theorem exec_svcRead (ha : s.asked c.val 1 = true) :
    exec (.svcRead c) s = .next
      (let t := s.setChan c.val fun x => { x with served := true }
       if s.svcLocal c.val then t.svcReadHere c.val else t.svcForward c.val []) :=
  congrArg Host.Outcome.next ((if_pos ha).trans (s.ordered_open _ _ hb rfl))

theorem exec_svcWrite (ha : s.asked c.val 2 = true)
    (hs : (s.svcLocal c.val && s.unitStalls .usb (s.reqNat c.val 12 2) (s.reqNat c.val 8 4)) = false) :
    exec (.svcWrite c) s = .next
      (let t := s.setChan c.val fun x => { x with served := true }
       if s.svcLocal c.val then t.svcWriteHere c.val else t.svcForward c.val (s.reqWords c.val)) :=
  congrArg Host.Outcome.next ((if_pos ha).trans (s.ordered_open _ _ hb hs))

end Access

theorem exec_svcCommand_custody (ha : s.asked c.val 3 = true) (hv : s.on FC_CUSTODY.VALID = true) :
    exec (.svcCommand c) s = .next ((s.setChan c.val fun x => { x with served := true }).toSteward c.val) :=
  congrArg Host.Outcome.next ((if_pos ha).trans (if_neg (by simp [hv])))

theorem exec_svcEcho (ha : s.asked c.val 4 = true) :
    exec (.svcEcho c) s = .next ((s.setChan c.val fun x => { x with served := true }).svcReply c.val 0 0
      (s.bufRead (outBuf c.val) 16 (s.reqNat c.val 6 2))) :=
  congrArg Host.Outcome.next (if_pos ha)

theorem exec_svcTimeout (h : (s.chan c.val).cmd ≠ none) :
    exec (.svcTimeout c) s = .next ((s.endCmd c.val).svcReply c.val 4 0 []) :=
  congrArg Host.Outcome.next (if_pos (Option.isSome_iff_ne_none.2 h))

theorem exec_bulkInAck (len k : Nat) (hr : (s.chan c.val).reply = some (len, k))
    (hh : s.getBit USB_STATUS.HALT_IN c.val = false) (h4 : s.ustate = 4) :
    exec (.bulkInAck c) s = .next
      ((s.emit (.usbIn c.val (s.bufRead (inBuf c.val) (512 * k) (min 512 (len - 512 * k))))).setChan c.val fun x =>
        if k = len / 512 then { x with reply := none, got := 0, whole := false, served := false, inTog := !x.inTog }
        else { x with reply := some (len, k + 1), inTog := !x.inTog }) := by
  show execBulkInAck c s = _
  simp only [execBulkInAck, hr, hh, h4, bne_self_eq_false, Bool.or_self, Bool.false_eq_true, if_false]

end Service

/-! ### The statements -/

/-- Settles O51, one lemma for each command that the state decides on; a disconnect and a write of `WAKE_REQ` are their
definitions. The request codes, the endpoint addresses and the data toggles are notes/assumptions/44.md, the disconnect 46.md. -/
theorem usbDeviceCommands : Obligations.UsbDeviceCommands :=
  ⟨exec_usbConnect, fun _ => rfl, exec_busReset_highSpeed,
    fun setup fn s => exec_controlSetup_pending s setup fn,
    fun _ _ s => exec_setAddress s,
    fun _ _ s => exec_setConfiguration s,
    fun _ _ _ _ s h he => exec_setFeatureHalt s he h,
    fun _ _ _ _ s h he => exec_clearFeatureHalt s he h,
    exec_usbSuspend, fun _ => rfl,
    fun k speed s h5 => exec_downstreamWake_remote s h5 k speed,
    fun s h5 hp hd => exec_remoteWakeDrive s h5 hd hp,
    exec_hostKSeen_idle, exec_usbResume_host,
    fun k s => exec_uhOvercurrent s k,
    fun k conn speed s => exec_downstreamConnectChange s k conn speed,
    fun frame s => exec_sofToken_newFrame s frame,
    fun p s => exec_sofPop s p⟩

/-- Settles O52, one lemma for each command, READ and WRITE by whether the request names this hub; a Steward's reply is its
definition. The data toggle of a bulk endpoint is notes/assumptions/44.md. -/
theorem serviceChannelCommands : Obligations.ServiceChannelCommands :=
  ⟨fun c tog data s => exec_bulkOutPacket_taken s c tog data,
    fun c s ha hb hl => (exec_svcRead s c hb ha).trans (congrArg Host.Outcome.next (if_pos hl)),
    fun c s ha hb hl => (exec_svcRead s c hb ha).trans (congrArg Host.Outcome.next (if_neg (Bool.eq_false_iff.1 hl))),
    fun c s ha hb hs hl => (exec_svcWrite s c hb ha (by rw [hs, Bool.and_false])).trans
      (congrArg Host.Outcome.next (if_pos hl)),
    fun c s ha hb hl => (exec_svcWrite s c hb ha (by rw [hl, Bool.false_and])).trans
      (congrArg Host.Outcome.next (if_neg (Bool.eq_false_iff.1 hl))),
    fun c s => exec_svcCommand_custody s c,
    fun c s => exec_svcEcho s c,
    fun _ _ => rfl,
    fun c s => exec_svcTimeout s c,
    fun c len k s => exec_bulkInAck s c len k⟩

end Sys2Proof.Machine
end

section
/-! Scrubbing, row repair and Proof (R525, R527, R530 to R536), event messages (R545, R546), and the test access port (R558). -/

namespace Sys2Proof.Machine

/-! ### Scrubbing and repair (R525, R527) -/

section Rows
variable (s : State)

theorem exec_scrubWord_corrected (tile : Fin 16) (row : Fin 257) (h : s.on PF_CFG.SCRUB_EN = true) :
    exec (.scrubWord (.caseMem tile row) 1) s = .next (s.rowCorrected (scrubRow (.caseMem tile row))) :=
  congrArg Host.Outcome.next ((if_neg (by simp [h])).trans (if_pos rfl))

theorem exec_rowRepairDone (r : ScrubRow) (h : s.svc.repairing.contains (scrubRow r).loc = true) :
    exec (.rowRepairDone r) s = .next (s.rowRepaired (scrubRow r)) :=
  congrArg Host.Outcome.next (if_pos h)

end Rows

/-! ### Proof (R532, R535, R536) -/

section Proof
variable (s : State) (test : Fin 6) (target : BitVec 16)

theorem exec_proofTestDone_pass (data : Bool) {k t row : Nat} {a : Bool}
    (h : (s.svc.tests.find? fun x => x.1 == test.val && x.2.1 == target.toNat) = some (k, t, row, a)) :
    exec (.proofTestDone test target true data) s =
      .next ((((s.proofLeave k t).proofResult k t 0).raise PF_EVENT.PROOF_DONE).inc PF_CNT.PASSES) := by
  show execProofTestDone test target true data s = _
  simp only [execProofTestDone, h]
  rfl

/-- A request that still waits after a last try is deferred. -/
theorem exec_proofDeferred {a : Nat × Nat × Nat}
    (h : (s.proofTry.svc.asks.find? fun x => x.1 == test.val && x.2.1 == target.toNat) = some a) :
    exec (.proofDeferred test target) s = .next ((((s.proofTry.setSvc fun x =>
      { x with asks := x.asks.filter (· != a) }).proofResult a.1 a.2.1 2).inc PF_CNT.DEFERS).raise PF_EVENT.DEFERRED) := by
  show execProofDeferred test target s = _
  simp only [execProofDeferred, h]

theorem exec_proofAutoTurn (h : s.on PF_CFG.AUTO_EN = true) : exec .proofAutoTurn s = .next s.autoRow.autoEye :=
  congrArg Host.Outcome.next (if_neg (by simp [h]))

end Proof

/-- Settles O54, one lemma for each command that the state decides on; a request of Proof is `State.proofWrite` of its word. That an
automatic turn does not ask for CE_10's role, and that waiting requests are tried again, is notes/assumptions/48.md. -/
theorem scrubAndProofCommands : Obligations.ScrubAndProofCommands :=
  ⟨fun tile row s => exec_scrubWord_corrected s tile row,
    fun r s => exec_rowRepairDone s r,
    fun _ _ => rfl, fun _ _ => rfl, fun _ _ _ => rfl, fun _ _ => rfl, fun _ _ => rfl, fun _ _ _ _ => rfl,
    fun test target data _ _ _ _ s => exec_proofTestDone_pass s test target data,
    fun test target _ s => exec_proofDeferred s test target,
    exec_proofAutoTurn⟩

/-! ### Event messages (R546) and the test access port (R558) -/

section Port
variable (s : State)

/-- The notice of a message without an engine names its hub and its source alone. -/
theorem exec_eventMessageRx_noEngine (src : Fin 2048) (source : Fin 32) (word : Word) :
    exec (.eventMessageRx src source none word) s = .next
      ((s.takeFifo 10 0xFE0).notice (4 * 2 ^ 28 + src.val * 2 ^ 16 + source.val) word.toNat) := by
  show execEventMessageRx src source none word s = _
  simp [execEventMessageRx]

section Tap
variable (h : s.tap.held = false)
include h

theorem exec_jtagIdcode : exec .jtagIdcode s = .next ((s.tapLoad 1).emit (.tapShift (shiftBits s.idcode 32))) :=
  congrArg Host.Outcome.next (if_neg (Bool.eq_false_iff.1 h))

theorem exec_jtagSamplePreload (pins data : List Bool) :
    exec (.jtagSamplePreload pins data) s = .next (((s.tapLoad 2).emit (.tapShift (bsrFit pins))).setTap fun t =>
      { t with bsr := bsrFit data }) :=
  congrArg Host.Outcome.next (if_neg (Bool.eq_false_iff.1 h))

end Tap

theorem exec_jtagBypass (code : Fin 16) (h : code.val ∉ [0, 1, 2, 4, 5]) :
    exec (.jtagBypass code) s = .next (s.tapLoad code.val) :=
  congrArg Host.Outcome.next (if_neg h)

end Port

/-- Settles O55, one lemma for each command that its operands or `TRST_N` decide on; the others are their definitions. -/
theorem eventAndTapCommands : Obligations.EventAndTapCommands :=
  ⟨fun _ _ => rfl,
    fun src source word s => exec_eventMessageRx_noEngine s src source word,
    fun _ => rfl, -- EXTEST
    exec_jtagIdcode,
    fun pins data s h => exec_jtagSamplePreload s h pins data,
    fun _ => rfl, fun _ => rfl, -- CLAMP, HIGHZ
    fun code s => exec_jtagBypass s code,
    fun _ => rfl, fun _ => rfl⟩ -- TRST

end Sys2Proof.Machine
end
